-- ==== Sys2Proof/Word.lean ====
section
/-! DEFINITION. The word types and the keyed tables that the model's sparse state is made of. -/

namespace Sys2Proof

/-- A 64-bit value: a register, a slot, a word of a token or of memory. -/
abbrev Word := BitVec 64

/-- An instruction word (R136). -/
abbrev IWord := BitVec 32

/-- One byte. -/
abbrev Byte := BitVec 8

/-- Sparse data by number: pairs of a key and an entry, keys strictly rising. -/
abbrev Tbl (α : Type) := List (Nat × α)

namespace Tbl

variable {α : Type}

/-- The entry under a key, if there is one. -/
def get? : Tbl α → Nat → Option α
  | [], _ => none
  | (k, v) :: t, n => if n = k then some v else get? t n

/-- The entry under a key, or `d` where there is none. -/
def getD (t : Tbl α) (n : Nat) (d : α) : α := (t.get? n).getD d

/-- Enter `v` under a key, in key order, in place of an earlier entry. -/
def put : Tbl α → Nat → α → Tbl α
  | [], n, v => [(n, v)]
  | (k, w) :: t, n, v =>
    if n < k then (n, v) :: (k, w) :: t
    else if n = k then (n, v) :: t
    else (k, w) :: put t n v

/-- Remove the entry under a key. -/
def del : Tbl α → Nat → Tbl α
  | [], _ => []
  | (k, w) :: t, n => if n = k then del t n else (k, w) :: del t n

/-- Enter `v`, or remove the entry when `v` is what an absent entry stands for. -/
def set [DecidableEq α] (d : α) (t : Tbl α) (n : Nat) (v : α) : Tbl α :=
  if v = d then t.del n else t.put n v

/-- Keys strictly rising, all of them above `lo` where `lo` is given. -/
def sortedFrom : Option Nat → Tbl α → Bool
  | _, [] => true
  | lo, (k, _) :: t => (match lo with | none => true | some l => decide (l < k)) && sortedFrom (some k) t

/-- Keys strictly rising. -/
def sorted (t : Tbl α) : Bool := sortedFrom none t

/-- The keys. -/
def keys (t : Tbl α) : List Nat := t.map Prod.fst

/-- The entries. -/
def vals (t : Tbl α) : List α := t.map Prod.snd

/-- The smallest number from `lo` up, below `lo + fuel`, that is no key. -/
def firstFree (t : Tbl α) (lo fuel : Nat) : Option Nat :=
  match fuel with
  | 0 => none
  | f + 1 => if (t.get? lo).isNone then some lo else firstFree t (lo + 1) f

end Tbl

end Sys2Proof
end

