-- ==== Sys2Proof/Syntax.lean ====
section
/-! DEFINITION. The instruction set as syntax: one constructor per row of the spec's opcode table.
The first 150 constructors are the 32-bit words of R136 to R142, their arguments the fields of the
word under the spec's field letters. The other 125 are the steps of the table that have no
encoding (messages, engine and stack steps, packets, management commands, link events); their
arguments say where the step happens: a cell by its physical number (R9), a stack, an operation by
its id, a function and queue by their numbers. -/

namespace Sys2Proof

/-- The engines of a cell that complete commands (R50, R235). -/
inductive Engine where
  /-- the copy engine -/
  | copy
  /-- the matrix engine -/
  | matrix
  /-- the reducer -/
  | reducer
  /-- the vector unit -/
  | vector
  deriving DecidableEq, Repr

/-- The steps of the spec's opcode table. -/
inductive Instr where
  /-- NOP (R168): Does nothing for one ac. -/
  | nop (g : BitVec 4)
  /-- ADD (R158): Adds two registers, wrapping or saturating, at 64 or 32 bits. -/
  | add (d : BitVec 4) (a : BitVec 4) (b : BitVec 4) (g : BitVec 4) (s : Bool) (u : Bool) (w : Bool)
  /-- SUB (R158): Subtracts two registers, wrapping or saturating. -/
  | sub (d : BitVec 4) (a : BitVec 4) (b : BitVec 4) (g : BitVec 4) (s : Bool) (u : Bool) (w : Bool)
  /-- MUL (R158): Multiplies two registers, wrapping or saturating. -/
  | mul (d : BitVec 4) (a : BitVec 4) (b : BitVec 4) (g : BitVec 4) (s : Bool) (u : Bool) (w : Bool)
  /-- MULH (R160): Writes the high 64 bits of the 128-bit product. -/
  | mulh (d : BitVec 4) (a : BitVec 4) (b : BitVec 4) (g : BitVec 4) (u : Bool)
  /-- DIV (R159): Writes the truncated quotient; on division by zero it writes all ones and sets DZ. -/
  | div (d : BitVec 4) (a : BitVec 4) (b : BitVec 4) (g : BitVec 4) (u : Bool) (w : Bool)
  /-- REM (R159): Writes the remainder, which takes the dividend's sign. -/
  | rem (d : BitVec 4) (a : BitVec 4) (b : BitVec 4) (g : BitVec 4) (u : Bool) (w : Bool)
  /-- AND (R158): Writes the bitwise and of two registers. -/
  | and (d : BitVec 4) (a : BitVec 4) (b : BitVec 4) (g : BitVec 4) (w : Bool)
  /-- OR (R158): Writes the bitwise or of two registers. -/
  | or (d : BitVec 4) (a : BitVec 4) (b : BitVec 4) (g : BitVec 4) (w : Bool)
  /-- XOR (R158): Writes the bitwise xor of two registers. -/
  | xor (d : BitVec 4) (a : BitVec 4) (b : BitVec 4) (g : BitVec 4) (w : Bool)
  /-- ANDN (R158): Writes a and not b, bitwise. -/
  | andn (d : BitVec 4) (a : BitVec 4) (b : BitVec 4) (g : BitVec 4) (w : Bool)
  /-- SHL (R158): Shifts left by the low bits of b. -/
  | shl (d : BitVec 4) (a : BitVec 4) (b : BitVec 4) (g : BitVec 4) (w : Bool)
  /-- SHR (R158): Shifts right, logically. -/
  | shr (d : BitVec 4) (a : BitVec 4) (b : BitVec 4) (g : BitVec 4) (w : Bool)
  /-- SRA (R158): Shifts right, arithmetically. -/
  | sra (d : BitVec 4) (a : BitVec 4) (b : BitVec 4) (g : BitVec 4) (w : Bool)
  /-- ROL (R158): Rotates left. -/
  | rol (d : BitVec 4) (a : BitVec 4) (b : BitVec 4) (g : BitVec 4) (w : Bool)
  /-- MIN (R158): Writes the smaller operand, signed or unsigned. -/
  | min (d : BitVec 4) (a : BitVec 4) (b : BitVec 4) (g : BitVec 4) (u : Bool) (w : Bool)
  /-- MAX (R158): Writes the larger operand, signed or unsigned. -/
  | max (d : BitVec 4) (a : BitVec 4) (b : BitVec 4) (g : BitVec 4) (u : Bool) (w : Bool)
  /-- CLZ (R161): Counts the leading zero bits. -/
  | clz (d : BitVec 4) (a : BitVec 4) (g : BitVec 4)
  /-- POPC (R161): Counts the set bits. -/
  | popc (d : BitVec 4) (a : BitVec 4) (g : BitVec 4)
  /-- EXTR (R162): Extracts a bit field, optionally sign-extended. -/
  | extr (d : BitVec 4) (a : BitVec 4) (b : BitVec 4) (g : BitVec 4)
  /-- INS (R162): Inserts a bit field into the destination. -/
  | ins (d : BitVec 4) (a : BitVec 4) (b : BitVec 4) (g : BitVec 4)
  /-- SEL (R163): Selects one of two registers by a predicate. -/
  | sel (d : BitVec 4) (a : BitVec 4) (b : BitVec 4) (g : BitVec 4) (c : BitVec 3)
  /-- CMP (R164): Compares two registers into a predicate. -/
  | cmp (d : BitVec 3) (a : BitVec 4) (b : BitVec 4) (g : BitVec 4) (c : BitVec 4)
  /-- PLOG (R166): Combines two predicates through a truth table. -/
  | plog (d : BitVec 3) (a : BitVec 3) (b : BitVec 3) (g : BitVec 4) (l : BitVec 4)
  /-- ADDI (R167): Adds a sign-extended 16-bit immediate. -/
  | addi (d : BitVec 4) (a : BitVec 4) (i : BitVec 16)
  /-- ANDI (R167): Ands with a zero-extended immediate. -/
  | andi (d : BitVec 4) (a : BitVec 4) (i : BitVec 16)
  /-- ORI (R167): Ors with an immediate, zero-extending the result. -/
  | ori (d : BitVec 4) (a : BitVec 4) (i : BitVec 16)
  /-- XORI (R167): Xors with an immediate, zero-extending the result. -/
  | xori (d : BitVec 4) (a : BitVec 4) (i : BitVec 16)
  /-- SHFI (R167): Shifts or rotates by an immediate amount. -/
  | shfi (d : BitVec 4) (a : BitVec 4) (k : BitVec 2) (n : BitVec 6)
  /-- CMPI (R165): Compares a register with a 12-bit signed immediate into a predicate. -/
  | cmpi (d : BitVec 3) (a : BitVec 4) (c : BitVec 4) (i : BitVec 12)
  /-- MOVI (R167): Loads a zero-extended 16-bit immediate. -/
  | movi (d : BitVec 4) (i : BitVec 16)
  /-- MOVK (R167): Replaces one 16-bit halfword of a register. -/
  | movk (d : BitVec 4) (h : BitVec 2) (i : BitVec 16)
  /-- FADD (R170): Floating add in FP32 or FP64, rounded once. -/
  | fadd (d : BitVec 4) (a : BitVec 4) (b : BitVec 4) (g : BitVec 4) (r : BitVec 4) (s : Bool)
  /-- FSUB (R170): Floating subtract, rounded once. -/
  | fsub (d : BitVec 4) (a : BitVec 4) (b : BitVec 4) (g : BitVec 4) (r : BitVec 4) (s : Bool)
  /-- FMUL (R170): Floating multiply, rounded once. -/
  | fmul (d : BitVec 4) (a : BitVec 4) (b : BitVec 4) (g : BitVec 4) (r : BitVec 4) (s : Bool)
  /-- FMA (R170): Fused multiply-add with the destination as addend. -/
  | fma (d : BitVec 4) (a : BitVec 4) (b : BitVec 4) (g : BitVec 4) (r : BitVec 4) (s : Bool)
  /-- FDIV (R170): Floating divide, rounded once. -/
  | fdiv (d : BitVec 4) (a : BitVec 4) (b : BitVec 4) (g : BitVec 4) (r : BitVec 4) (s : Bool)
  /-- FSQRT (R170): Floating square root, rounded once. -/
  | fsqrt (d : BitVec 4) (a : BitVec 4) (g : BitVec 4) (r : BitVec 4) (s : Bool)
  /-- FMIN (R171): Returns minimumNumber of two floats. -/
  | fmin (d : BitVec 4) (a : BitVec 4) (b : BitVec 4) (g : BitVec 4) (r : BitVec 4) (s : Bool)
  /-- FMAX (R171): Returns maximumNumber of two floats. -/
  | fmax (d : BitVec 4) (a : BitVec 4) (b : BitVec 4) (g : BitVec 4) (r : BitVec 4) (s : Bool)
  /-- FCMP (R172): Compares two floats into a predicate. -/
  | fcmp (d : BitVec 3) (a : BitVec 4) (b : BitVec 4) (g : BitVec 4) (c : BitVec 4) (s : Bool)
  /-- FCVT (R173): Converts between FP64, FP32, BF16, FP16 and integers. -/
  | fcvt (d : BitVec 4) (a : BitVec 4) (g : BitVec 4) (r : BitVec 4) (v : BitVec 4)
  /-- FCLASS (R174): Writes a one-hot class of a float. -/
  | fclass (d : BitVec 4) (a : BitVec 4) (g : BitVec 4) (s : Bool)
  /-- FLD (R176): Reads a frame slot, suspending in block form on an EMPTY slot or trapping in trap form. -/
  | fld (d : BitVec 4) (i : BitVec 4) (s : BitVec 12) (t : Bool) (p : BitVec 3)
  /-- FST (R177): Writes a frame slot, resuming any deferred reader. -/
  | fst (x : BitVec 4) (i : BitVec 4) (s : BitVec 12) (p : BitVec 3)
  /-- FCLR (R178): Sets a FULL slot EMPTY. -/
  | fclr (i : BitVec 4) (s : BitVec 12) (p : BitVec 3)
  /-- FTST (R178): Reads a slot's presence state. -/
  | ftst (d : BitVec 4) (i : BitVec 4) (s : BitVec 12) (p : BitVec 3)
  /-- SEND (R183): Sends a value as a control token to a destination word. -/
  | send (v : BitVec 4) (c : BitVec 4) (k : BitVec 8) (e : Bool) (l : BitVec 2) (g : BitVec 4)
  /-- SENDD (R185): Sends a value to a continuation held in a register, with an optional tag. -/
  | sendd (a : BitVec 4) (b : BitVec 4) (c : BitVec 4) (e : Bool) (l : BitVec 2) (g : BitVec 4)
  /-- MKC (R186): Forms a continuation or the current frame reference into a register. -/
  | mkc (d : BitVec 4) (c : BitVec 4) (k : BitVec 8) (f : Bool) (g : BitVec 4)
  /-- SWCH (R184): Sends a value to a destination word chosen by an index. -/
  | swch (v : BitVec 4) (i : BitVec 4) (k : BitVec 8) (e : Bool) (l : BitVec 2) (g : BitVec 4)
  /-- FALLOC (R188): Requests a frame of a level on a cell, split-phase. -/
  | falloc (a : BitVec 4) (c : BitVec 4) (r : Bool) (l : BitVec 3) (g : BitVec 4)
  /-- FFREE (R189): Frees a frame named by a frame reference. -/
  | ffree (a : BitVec 4) (g : BitVec 4)
  /-- JOIN (R179): Counts down a join counter in a slot. -/
  | join (d : BitVec 4) (i : BitVec 4) (s : BitVec 12) (p : BitVec 3)
  /-- BRF (R191): Branches forward within the codelet body. -/
  | brf (g : BitVec 4) (o : BitVec 8)
  /-- END (R192): Ends the firing when its guard holds. -/
  | fend (g : BitVec 4)
  /-- TNEW (R198): Creates an OPEN tile on the issuing cell. -/
  | tnew (d : BitVec 4) (a : BitVec 4) (g : BitVec 4) (f : BitVec 4)
  /-- TSEAL (R199): Seals an OPEN tile after its writers complete. -/
  | tseal (a : BitVec 4) (g : BitVec 4)
  /-- TDUP (R200): Adds references to a tile. -/
  | tdup (a : BitVec 4) (b : BitVec 4) (g : BitVec 4)
  /-- TDROP (R200): Releases one reference to a tile. -/
  | tdrop (a : BitVec 4) (g : BitVec 4)
  /-- TINFO (R202): Reads a local tile's shape or count. -/
  | tinfo (d : BitVec 4) (a : BitVec 4) (g : BitVec 4) (s : BitVec 2)
  /-- HLD (R204): Reads one tile element into a frame slot, locally or remotely. -/
  | hld (x : BitVec 4) (i : BitVec 4) (s : BitVec 12) (p : BitVec 3)
  /-- HST (R205): Writes one element of an OPEN tile, optionally converting. -/
  | hst (a : BitVec 4) (b : BitVec 4) (c : BitVec 4) (n : Bool) (r : BitVec 4) (v : Bool) (g : BitVec 4)
  /-- TCHK (R203): Classifies a handle without faulting. -/
  | tchk (d : BitVec 4) (a : BitVec 4) (g : BitVec 4)
  /-- LDG (R210): Loads up to 64 bits of tensor elements into a slot, split-phase. -/
  | ldg (x : BitVec 4) (i : BitVec 4) (s : BitVec 12) (p : BitVec 3)
  /-- STG (R211): Stores elements through the store log. -/
  | stg (a : BitVec 4) (b : BitVec 4) (c : BitVec 4) (g : BitVec 4)
  /-- LDCH (R212): Walks a linked list across stacks in one operation. -/
  | ldch (x : BitVec 4) (i : BitVec 4) (s : BitVec 12) (p : BitVec 3)
  /-- AMO (R213): Performs a far atomic at the home stack. -/
  | amo (x : BitVec 4) (i : BitVec 4) (s : BitVec 12) (p : BitVec 3)
  /-- REL (R214): Publishes the context's sub-logs and returns a release token. -/
  | rel (c : BitVec 4) (s : Bool) (g : BitVec 4)
  /-- ACQ (R215): Acquires a release token; later memory operations wait for it. -/
  | acq (a : BitVec 4) (c : BitVec 4) (g : BitVec 4)
  /-- ACQA (R216): Acquires everything published before its markers arrive. -/
  | acqa (c : BitVec 4) (s : Bool) (g : BitVec 4)
  /-- BARS (R220): Arms a named barrier on the issuing cell. -/
  | bars (a : BitVec 4) (b : BitVec 4) (c : BitVec 4) (r : Bool) (g : BitVec 4)
  /-- BARA (R220): Adds arrivals to a named barrier. -/
  | bara (a : BitVec 4) (b : BitVec 4) (c : BitVec 4) (g : BitVec 4)
  /-- WATCH (R221): Arms a wake port or takes its latched value. -/
  | watch (a : BitVec 4) (c : BitVec 4) (g : BitVec 4)
  /-- WDROP (R221): Unarms a wake port and empties its latch. -/
  | wdrop (a : BitVec 4) (g : BitVec 4)
  /-- TIME (R222): Reads the die's global time counter. -/
  | time (d : BitVec 4) (g : BitVec 4)
  /-- CROPEN (R224): Opens a containment region and broadcasts its id. -/
  | cropen (d : BitVec 4) (a : BitVec 4) (g : BitVec 4)
  /-- CRCLOSE (R225): Closes an open or failed region. -/
  | crclose (a : BitVec 4) (c : BitVec 4) (g : BitVec 4)
  /-- TRAP (R226): Raises the TRAP fault and ends the firing. -/
  | trap (i : BitVec 16)
  /-- MFC (R227): Reads a control register. -/
  | mfc (d : BitVec 4) (g : BitVec 4) (n : BitVec 6)
  /-- MTC (R227): Writes a control register. -/
  | mtc (a : BitVec 4) (g : BitVec 4) (n : BitVec 6)
  /-- SCRUBRD (R228): Reads a word of the bound scrub attestation record. -/
  | scrubrd (d : BitVec 4) (g : BitVec 4) (w : BitVec 4)
  /-- QPOST (R229): Posts a child launch to the tenant's device queue. -/
  | qpost (a : BitVec 4) (c : BitVec 4) (g : BitVec 4)
  /-- PERF (R230): Reads a performance counter. -/
  | perf (d : BitVec 4) (g : BitVec 4) (n : BitVec 8)
  /-- TLOAD (R239): Issues a copy command that reads a tensor box into a new tile. -/
  | tload (a : BitVec 4) (c : BitVec 4) (g : BitVec 4)
  /-- TSTORE (R240): Issues a copy command that writes a tile to a tensor. -/
  | tstore (a : BitVec 4) (c : BitVec 4) (k : Bool) (g : BitVec 4)
  /-- TCOPY (R241): Issues a copy of a tile to a new tile on another vcell. -/
  | tcopy (a : BitVec 4) (c : BitVec 4) (k : Bool) (g : BitVec 4)
  /-- TGATH (R242): Gathers tensor rows into a tile by an index tile. -/
  | tgath (a : BitVec 4) (c : BitVec 4) (k : Bool) (g : BitVec 4)
  /-- TSCAT (R242): Scatters tile rows to tensor rows through the log. -/
  | tscat (a : BitVec 4) (c : BitVec 4) (k : Bool) (g : BitVec 4)
  /-- TFILL (R243): Creates a tile filled with a pattern. -/
  | tfill (a : BitVec 4) (c : BitVec 4) (g : BitVec 4)
  /-- MWLD (R246): Issues a weight load into a matrix bank. -/
  | mwld (a : BitVec 4) (c : BitVec 4) (h : Bool) (k : Bool) (g : BitVec 4)
  /-- MACC (R247): Zeroes or preloads accumulator rows. -/
  | macc (a : BitVec 4) (c : BitVec 4) (h : Bool) (k : Bool) (g : BitVec 4)
  /-- MRUN (R248): Passes activation rows through the array into the accumulator. -/
  | mrun (a : BitVec 4) (c : BitVec 4) (h : Bool) (k : Bool) (g : BitVec 4)
  /-- MDRAIN (R251): Drains accumulator rows to a tile or a stream. -/
  | mdrain (a : BitVec 4) (c : BitVec 4) (h : Bool) (g : BitVec 4)
  /-- RSET (R254): Starts a reduction on the reducer. -/
  | rset (a : BitVec 4) (c : BitVec 4) (g : BitVec 4)
  /-- RFEED (R256): Offers tile rows to the running reduction. -/
  | rfeed (a : BitVec 4) (c : BitVec 4) (k : Bool) (g : BitVec 4)
  /-- VRUN (R260): Issues a vector kernel to the vector queue. -/
  | vrun (a : BitVec 4) (b : BitVec 4) (c : BitVec 4) (g : BitVec 4)
  /-- VLOOP (R274): Starts a counted kernel loop. -/
  | vloop (l : BitVec 2) (c : BitVec 14) (n : BitVec 8)
  /-- VLD (R269): Pops the next chunk of an input stream into a register. -/
  | vld (d : BitVec 5) (n : BitVec 2)
  /-- VST (R270): Writes a chunk of a register to an output stream under a mask. -/
  | vst (n : Bool) (a : BitVec 5) (k : BitVec 3)
  /-- VMOV (R276): Copies elements under a mask. -/
  | vmov (d : BitVec 5) (a : BitVec 5) (k : BitVec 3) (w : BitVec 2)
  /-- VMOVS (R276): Broadcasts a kernel parameter. -/
  | vmovs (d : BitVec 5) (n : BitVec 3) (k : BitVec 3) (p : BitVec 2)
  /-- VIOTA (R276): Writes each element's index. -/
  | viota (d : BitVec 5) (k : BitVec 3) (w : BitVec 2)
  /-- VSEL (R276): Selects elements of two registers by mask. -/
  | vsel (d : BitVec 5) (a : BitVec 5) (b : BitVec 5) (k : BitVec 3) (w : BitVec 2)
  /-- VADD (R277): Vector integer add. -/
  | vadd (d : BitVec 5) (a : BitVec 5) (b : BitVec 5) (k : BitVec 3) (t : BitVec 2) (s : Bool) (u : Bool)
  /-- VSUB (R277): Vector integer subtract. -/
  | vsub (d : BitVec 5) (a : BitVec 5) (b : BitVec 5) (k : BitVec 3) (t : BitVec 2) (s : Bool) (u : Bool)
  /-- VMUL (R277): Vector integer multiply. -/
  | vmul (d : BitVec 5) (a : BitVec 5) (b : BitVec 5) (k : BitVec 3) (t : BitVec 2) (s : Bool) (u : Bool)
  /-- VMAD (R277): Vector integer multiply-add. -/
  | vmad (d : BitVec 5) (a : BitVec 5) (b : BitVec 5) (k : BitVec 3) (t : BitVec 2) (s : Bool) (u : Bool)
  /-- VAND (R277): Vector bitwise and. -/
  | vand (d : BitVec 5) (a : BitVec 5) (b : BitVec 5) (k : BitVec 3) (t : BitVec 2)
  /-- VOR (R277): Vector bitwise or. -/
  | vor (d : BitVec 5) (a : BitVec 5) (b : BitVec 5) (k : BitVec 3) (t : BitVec 2)
  /-- VXOR (R277): Vector bitwise xor. -/
  | vxor (d : BitVec 5) (a : BitVec 5) (b : BitVec 5) (k : BitVec 3) (t : BitVec 2)
  /-- VSHL (R277): Vector shift left. -/
  | vshl (d : BitVec 5) (a : BitVec 5) (b : BitVec 5) (k : BitVec 3) (t : BitVec 2)
  /-- VSHR (R277): Vector shift right, logical or arithmetic. -/
  | vshr (d : BitVec 5) (a : BitVec 5) (b : BitVec 5) (k : BitVec 3) (t : BitVec 2) (u : Bool)
  /-- VMIN (R277): Vector integer minimum. -/
  | vmin (d : BitVec 5) (a : BitVec 5) (b : BitVec 5) (k : BitVec 3) (t : BitVec 2) (u : Bool)
  /-- VMAX (R277): Vector integer maximum. -/
  | vmax (d : BitVec 5) (a : BitVec 5) (b : BitVec 5) (k : BitVec 3) (t : BitVec 2) (u : Bool)
  /-- VABS (R277): Vector integer absolute value. -/
  | vabs (d : BitVec 5) (a : BitVec 5) (k : BitVec 3) (t : BitVec 2) (s : Bool)
  /-- VCMP (R278): Vector integer compare into a mask. -/
  | vcmp (d : BitVec 3) (a : BitVec 5) (b : BitVec 5) (k : BitVec 3) (t : BitVec 2) (c : BitVec 4)
  /-- VFADD (R279): Vector float add. -/
  | vfadd (d : BitVec 5) (a : BitVec 5) (b : BitVec 5) (k : BitVec 3) (t : BitVec 2) (r : BitVec 4)
  /-- VFSUB (R279): Vector float subtract. -/
  | vfsub (d : BitVec 5) (a : BitVec 5) (b : BitVec 5) (k : BitVec 3) (t : BitVec 2) (r : BitVec 4)
  /-- VFMUL (R279): Vector float multiply. -/
  | vfmul (d : BitVec 5) (a : BitVec 5) (b : BitVec 5) (k : BitVec 3) (t : BitVec 2) (r : BitVec 4)
  /-- VFMA (R279): Vector fused multiply-add. -/
  | vfma (d : BitVec 5) (a : BitVec 5) (b : BitVec 5) (k : BitVec 3) (t : BitVec 2) (r : BitVec 4)
  /-- VFMIN (R279): Vector float minimum. -/
  | vfmin (d : BitVec 5) (a : BitVec 5) (b : BitVec 5) (k : BitVec 3) (t : BitVec 2)
  /-- VFMAX (R279): Vector float maximum. -/
  | vfmax (d : BitVec 5) (a : BitVec 5) (b : BitVec 5) (k : BitVec 3) (t : BitVec 2)
  /-- VFABS (R279): Vector float absolute value. -/
  | vfabs (d : BitVec 5) (a : BitVec 5) (k : BitVec 3) (t : BitVec 2)
  /-- VFCMP (R280): Vector float compare into a mask. -/
  | vfcmp (d : BitVec 3) (a : BitVec 5) (b : BitVec 5) (k : BitVec 3) (t : BitVec 2) (c : BitVec 4)
  /-- VRCP (R281): Correctly rounded reciprocal. -/
  | vrcp (d : BitVec 5) (a : BitVec 5) (k : BitVec 3)
  /-- VRSQ (R281): Correctly rounded reciprocal square root. -/
  | vrsq (d : BitVec 5) (a : BitVec 5) (k : BitVec 3)
  /-- VEXP2 (R281): Correctly rounded 2^x. -/
  | vexp2 (d : BitVec 5) (a : BitVec 5) (k : BitVec 3)
  /-- VLOG2 (R281): Correctly rounded log2 x. -/
  | vlog2 (d : BitVec 5) (a : BitVec 5) (k : BitVec 3)
  /-- VSIN (R281): Correctly rounded sin(pi x). -/
  | vsin (d : BitVec 5) (a : BitVec 5) (k : BitVec 3)
  /-- VCOS (R281): Correctly rounded cos(pi x). -/
  | vcos (d : BitVec 5) (a : BitVec 5) (k : BitVec 3)
  /-- VTANH (R281): Correctly rounded tanh x. -/
  | vtanh (d : BitVec 5) (a : BitVec 5) (k : BitVec 3)
  /-- VCVT (R282): Converts elements between formats. -/
  | vcvt (d : BitVec 5) (a : BitVec 5) (c : BitVec 5) (k : BitVec 3) (n : Bool) (r : BitVec 4)
  /-- VPACK (R283): Places the low piece of a register at a position. -/
  | vpack (d : BitVec 5) (a : BitVec 5) (s : BitVec 2) (p : BitVec 3)
  /-- VUNPK (R283): Extracts a piece of a register to the low end. -/
  | vunpk (d : BitVec 5) (a : BitVec 5) (s : BitVec 2) (p : BitVec 3)
  /-- VBSCL (R284): Computes MX block scales. -/
  | vbscl (d : BitVec 5) (a : BitVec 5) (b : BitVec 5) (k : BitVec 3) (t : BitVec 2)
  /-- VQNT (R285): Quantises FP32 elements with block scales. -/
  | vqnt (d : BitVec 5) (a : BitVec 5) (b : BitVec 5) (k : BitVec 3) (t : BitVec 2) (r : BitVec 4)
  /-- VRED (R286): Reduces a register by a fixed pairwise tree. -/
  | vred (d : BitVec 5) (a : BitVec 5) (o : BitVec 3) (k : BitVec 3) (t : BitVec 2) (r : BitVec 4)
  /-- VSCAN (R286): Computes an inclusive sequential scan. -/
  | vscan (d : BitVec 5) (a : BitVec 5) (o : BitVec 3) (k : BitVec 3) (t : BitVec 2) (r : BitVec 4)
  /-- VPERM (R287): Permutes elements by an index register. -/
  | vperm (d : BitVec 5) (a : BitVec 5) (b : BitVec 5) (k : BitVec 3) (w : BitVec 2)
  /-- VBCST (R287): Broadcasts element 0. -/
  | vbcst (d : BitVec 5) (a : BitVec 5) (k : BitVec 3) (w : BitVec 2)
  /-- VSLD (R287): Slides lanes across two registers. -/
  | vsld (d : BitVec 5) (a : BitVec 5) (b : BitVec 5) (k : BitVec 3) (s : BitVec 6)
  /-- VBFLY (R289): Complex radix-2 butterfly into an even register pair. -/
  | vbfly (d : BitVec 4) (a : BitVec 5) (b : BitVec 5) (k : BitVec 3) (t : BitVec 2) (r : BitVec 4)
  /-- VTWID (R288): Computes correctly rounded twiddle factors. -/
  | vtwid (d : BitVec 5) (a : BitVec 5) (k : BitVec 3) (n : BitVec 5)
  /-- VCMUL (R289): Complex multiply with fused sums. -/
  | vcmul (d : BitVec 5) (a : BitVec 5) (b : BitVec 5) (k : BitVec 3) (t : BitVec 2) (r : BitVec 4)
  /-- VMSET (R290): Sets a mask from the nonzero elements of a register. -/
  | vmset (d : BitVec 3) (a : BitVec 5) (w : BitVec 2)
  /-- VMSET_ZERO (R290): Clears a mask register. -/
  | vmsetZero (d : BitVec 3)
  /-- VMSET_ONES (R290): Fills a mask register with ones. -/
  | vmsetOnes (d : BitVec 3)
  /-- VMLOG (R290): Combines two masks through a truth table. -/
  | vmlog (d : BitVec 3) (a : BitVec 3) (b : BitVec 3) (l : BitVec 4)
  /-- VEND (R275): Ends the kernel at once. -/
  | vend
  /-- ILLEGAL_OP (R143): A codelet word that matches no assigned encoding issues and raises ILLEGAL_OP, or ILLEGAL_CONTEXT for a vector opcode, ending the firing. -/
  | illegalOp (word : BitVec 32)
  /-- TOKEN_ARRIVAL (R27): A control token reaches a cell and enters its input queue or its context's spill ring. -/
  | tokenArrival (src : Nat) (dst : Nat) (ctx : Nat)
  /-- SPILL_RETURN (R27): Spilled tokens return to the input queue in arrival order once there is room. -/
  | spillReturn (cell : Nat) (ctx : Nat)
  /-- MATCHER_TAKE (R39): The matcher takes one token, checks its header and frame, and parks it or fires the codelet. -/
  | matcherTake (cell : Nat)
  /-- IMAGE_FETCH_DONE (R54): A codelet image fetched from the Cupboard or HBM becomes resident and its waiting tokens proceed. -/
  | imageFetchDone (cell : Nat) (ctx : Nat)
  /-- LANE_TAKE (R53): The free lane takes the head of the highest ready class and starts or resumes a firing. -/
  | laneTake (cell : Nat)
  /-- READY_PROMOTION (R53): A ready entry that waited 2,048 ac moves to the next higher class. -/
  | readyPromotion (cell : Nat) (cls : Nat)
  /-- LANE_STALL_END (R157): A lane wait on network back-pressure, zeroed blocks, sealing writers or CROPEN recording ends and the instruction completes. -/
  | laneStallEnd (cell : Nat)
  /-- ENGINE_QUEUE_ROOM (R50): An entry frees in a full engine queue and the stalled lane places its command. -/
  | engineQueueRoom (cell : Nat)
  /-- FALLOC_REQUEST (R59): A frame request reaches the target cell and is granted or queued at its level. -/
  | fallocRequest (src : Nat) (dst : Nat) (ctx : Nat)
  /-- FFREE_MESSAGE (R189): A remote free reaches the owning cell and frees the frame. -/
  | ffreeMessage (src : Nat) (dst : Nat) (ctx : Nat)
  /-- COUNT_MESSAGE (R48): A reference-count change reaches the owning cell and is applied, freeing the tile at zero. -/
  | countMessage (src : Nat) (dst : Nat) (ctx : Nat)
  /-- HEAP_BLOCK_ZERO (R197): The heap zeroes one freed block per ac and returns it to the pool. -/
  | heapBlockZero (cell : Nat)
  /-- REMOTE_HEAP_REQUEST (R204): A remote HLD or HST reaches the owning cell and is served or rejected. -/
  | remoteHeapRequest (src : Nat) (dst : Nat) (ctx : Nat)
  /-- PRODUCER_REPLY (R39): The reply of a long-latency producer writes its slot and resumes any deferred reader. -/
  | producerReply (op : Nat)
  /-- BARRIER_MESSAGE (R220): A remote BARA reaches the barrier's cell and its arrivals are added. -/
  | barrierMessage (src : Nat) (dst : Nat) (ctx : Nat)
  /-- WAKE_VALUE (R221): A wake value reaches a port and fires its continuation or is latched. -/
  | wakeValue (cell : Nat) (port : Nat)
  /-- REGION_ID_RECORD (R224): A cell records a new region id sent by CROPEN on VN4. -/
  | regionIdRecord (cell : Nat) (ctx : Nat)
  /-- COPY_TAKE (R234): The copy engine takes a command, checks it and starts executing. -/
  | copyTake (cell : Nat)
  /-- MATRIX_TAKE (R51): The matrix engine takes its next command from MQ0 or MQ1 and checks it. -/
  | matrixTake (cell : Nat)
  /-- MWLD_BANK_FREE (R245): A held MWLD proceeds once the last row reading its bank has passed. -/
  | mwldBankFree (cell : Nat)
  /-- ACCUMULATOR_HAZARD_END (R245): A MACC, MDRAIN or later MRUN waiting on accumulator rows proceeds. -/
  | accumulatorHazardEnd (cell : Nat)
  /-- DRAIN_ROW_ACCEPTED (R252): A stream port frees space and the drained row waiting at the array output is sent. -/
  | drainRowAccepted (cell : Nat)
  /-- REDUCER_TAKE (R254): The reducer takes an RSET, clears its sum rows and binds the port, or takes an RFEED. -/
  | reducerTake (cell : Nat)
  /-- REDUCER_ROW (R255): An input row is added, held in the matching store, or left waiting. -/
  | reducerRow (cell : Nat) (fromPort : Bool)
  /-- VRUN_TAKE (R261): The vector unit takes a VRUN, decodes the kernel, binds ports, creates outputs and starts. -/
  | vrunTake (cell : Nat)
  /-- STREAM_TOKEN_ARRIVAL (R271): A stream token is accepted into a stream port buffer when it fits. -/
  | streamTokenArrival (src : Nat) (dst : Nat) (ctx : Nat)
  /-- VLD_ROW_READY (R272): A VLD waiting on a port row resumes when the row arrives. -/
  | vldRowReady (cell : Nat)
  /-- KERNEL_END (R262): A kernel ends after its last word and completes. -/
  | kernelEnd (cell : Nat)
  /-- COMMAND_COMPLETE (R235): An engine command completes: releases handles, subtracts in-flight counts, ORs flags, writes status and sends its reply. -/
  | commandComplete (cell : Nat) (engine : Engine)
  /-- LOG_ENTRY_APPEND (R78): A store's DATA entries reach their home stacks and are appended to the sub-logs. -/
  | logEntryAppend (op : Nat) (chunk : Nat)
  /-- STORE_RING_SPACE (R90): A store waiting on a full ring proceeds once replay frees space. -/
  | storeRingSpace (op : Nat)
  /-- LOG_FULL (R90): A store waiting 2^20 ac on a ring of unpublished entries raises LOG_FULL. -/
  | logFull (op : Nat)
  /-- PUBLISH_MESSAGE (R82): A publish message reaches a stack and closes a segment. -/
  | publishMessage (op : Nat) (stack : Nat)
  /-- SEGMENT_REPLAY (R84): A replay engine checks and applies the next published segment, compacting per granule. -/
  | segmentReplay (stack : Nat)
  /-- SHADOW_PAGE_RETURN (R93): An old page returns zeroed to the reserve once earlier-translated accesses complete. -/
  | shadowPageReturn (page : Nat)
  /-- LOAD_SERVE (R89): A load is served at the granule's home stack with own entries merged. -/
  | loadServe (op : Nat) (chunk : Nat)
  /-- SC_STORE_APPLY (R97): An SC store is appended, published and applied before the context proceeds. -/
  | scStoreApply (op : Nat)
  /-- AMO_PERFORM (R98): An AMO publishes the context's sub-log and is performed at the home stack. -/
  | amoPerform (op : Nat)
  /-- LDCH_HOP (R212): A stack reads one link word and forwards the walk or replies. -/
  | ldchHop (op : Nat)
  /-- ACQ_COMPLETE (R87): Every stack in the token's mask has applied the release and the ACQ completes. -/
  | acqComplete (op : Nat)
  /-- ACQA_MARKER (R88): An ACQA marker reaches a stack, which answers once earlier segments are applied. -/
  | acqaMarker (op : Nat) (stack : Nat)
  /-- RELEASE_ACCEPTED (R82): Every stack has accepted the publish messages and the release token is sent. -/
  | releaseAccepted (op : Nat)
  /-- PEER_STORE_ARRIVAL (R101): A store to a peer tensor is appended to the peer's inbound log and acknowledged; `src` is the module and its flow. -/
  | peerStoreArrival (src : BitVec 16 × Nat) (gran : Nat) (mask : BitVec 64) (data : BitVec 512)
  /-- PEER_ACK (R101): The peer's acknowledgement ends the store's outstanding count. -/
  | peerAck (op : Nat)
  /-- END_OF_GRAPH_RELEASE (R64): Once the return token is delivered and counters are zero, a system-scope release of every context is issued. -/
  | endOfGraphRelease (fn : Nat) (id : Nat)
  /-- TRANSLATION_WALK (R316): A walker translates a tensor page through both tables. -/
  | translationWalk (op : Nat) (chunk : Nat)
  /-- HOST_WINDOW_WRITE (R100): A host write through a VF window enters the VF's host log. -/
  | hostWindowWrite (fn : Nat) (gpa : Nat) (bytes : List (BitVec 8))
  /-- HOST_WINDOW_READ (R100): A host read through a VF window is served as a load. -/
  | hostWindowRead (fn : Nat) (gpa : Nat) (len : Nat)
  /-- Q_NOTIFY (R297): A write to Q_NOTIFY publishes the host log and sets the notified tail. -/
  | qNotify (fn : Nat) (q : Nat) (val : BitVec 64)
  /-- Q_ENABLE (R296): Setting en makes a DISABLED queue ACTIVE. -/
  | qEnable (fn : Nat) (q : Nat) (val : BitVec 64)
  /-- Q_DISABLE (R296): Clearing en stops parsing at the next packet boundary. -/
  | qDisable (fn : Nat) (q : Nat) (val : BitVec 64)
  /-- Q_RESET (R296): Writing reset discards fetched words and moves Q_HEAD to the notified tail. -/
  | qReset (fn : Nat) (q : Nat) (val : BitVec 64)
  /-- RING_RESTART (R369): A write of a record ring's base register restarts the ring at offset 0 with phase 1. -/
  | ringRestart (fn : Nat) (off : Nat) (val : BitVec 64)
  /-- FAULT_RESUME (R320): A VF_FRESUME write with abort 0 makes every request parked under the id walk again. -/
  | faultResume (fn : Nat) (val : BitVec 64)
  /-- FAULT_ABORT (R320): A VF_FRESUME write with abort 1 ends the parked requests with TRANSLATION. -/
  | faultAbort (fn : Nat) (val : BitVec 64)
  /-- REGISTER_WRITE (R294): A write to a register with no behaviour of its own sets its fields. -/
  | registerWrite (fn : Nat) (off : Nat) (val : BitVec 64)
  /-- QUEUE_FETCH (R304): The front end fetches words of the notified range or an entered IB. -/
  | queueFetch (fn : Nat) (q : Nat)
  /-- LAUNCH (R305): A LAUNCH packet is checked and dispatched to its partition's placement queue. -/
  | launch (fn : Nat) (q : Nat)
  /-- IBCALL (R302): Parsing enters an indirect buffer one depth deeper. -/
  | ibcall (fn : Nat) (q : Nat)
  /-- PRED (R302): Waits as bar, acquires, reads a word and may skip the next n packets. -/
  | predP (fn : Nat) (q : Nat)
  /-- LOOP (R302): The next n packets are processed k times. -/
  | loopP (fn : Nat) (q : Nat)
  /-- FFENCE (R302): Waits as bar, discards fetched words, acquires and refetches. -/
  | ffence (fn : Nat) (q : Nat)
  /-- WAKE (R302): Delivers a wake value to a port of a live instance. -/
  | wake (fn : Nat) (q : Nat)
  /-- SIGNAL (R302): Waits as bar, writes a value and optionally raises an MSI-X vector. -/
  | signal (fn : Nat) (q : Nat)
  /-- WAITV (R302): Waits until a masked word meets its condition. -/
  | waitv (fn : Nat) (q : Nat)
  /-- WAITV_POLL (R302): Every 1,024 nc a waiting WAITV rereads its word. -/
  | waitvPoll (fn : Nat) (q : Nat)
  /-- TIMESTAMP (R302): Writes the global time to a word. -/
  | timestamp (fn : Nat) (q : Nat)
  /-- NOPP (R302): Does nothing. -/
  | nopp (fn : Nat) (q : Nat)
  /-- HCOPY (R302): Copies bytes through the VF's host log. -/
  | hcopy (fn : Nat) (q : Nat)
  /-- DRAIN (R302): Waits until every earlier packet has completed. -/
  | drain (fn : Nat) (q : Nat)
  /-- BAR_WAIT_END (R303): A packet waiting on bar, DRAIN or the live-launch limit proceeds when its earlier packets complete. -/
  | barWaitEnd (fn : Nat) (q : Nat)
  /-- LAUNCH_PLACEMENT (R306): The allocator places a waiting launch, loads images, sets pools and forms entry tokens. -/
  | launchPlacement (part : Nat)
  /-- INSTANCE_START (R306): The first firing is allowed once entry tokens, the acquire and any SAR exist. -/
  | instanceStart (fn : Nat) (id : Nat)
  /-- SEGMENT_MOVE (R55): The allocator freezes, saves and restores a segment elsewhere, leaving forwarding stubs. -/
  | segmentMove (fn : Nat) (id : Nat) (vcell : Nat) (target : Nat)
  /-- LOAD_ADVANCE (R307): When load L is idle, its frames are freed, its logs released and load L + 1 entered. -/
  | loadAdvance (fn : Nat) (id : Nat)
  /-- RETURN_TOKEN (R305): A token to the return continuation reaches the front end and its value is kept. -/
  | returnToken (src : Nat) (ctx : Nat)
  /-- INSTANCE_COMPLETE (R308): An instance ends and its completion record is written. -/
  | instanceComplete (fn : Nat) (id : Nat)
  /-- QPOST_REQUEST (R309): A posted launch reaches the device queue and is accepted or refused. -/
  | qpostRequest (src : Nat) (ctx : Nat)
  /-- GRANT (R313): Grants a FREE partition to a tenant and VF after a scrub. -/
  | grant (cmd : BitVec 64)
  /-- TAKEBACK (R313): Saves or aborts the partition's instances, scrubs it and makes it FREE. -/
  | takeback (cmd : BitVec 64)
  /-- FREEZE (R327): Freezes a granted partition. -/
  | freeze (cmd : BitVec 64)
  /-- FREEZE_COMPLETE (R327): Lanes are idle, engines paused and the network drained, so the partition is FROZEN. -/
  | freezeComplete (part : Nat)
  /-- FREEZE_TIMEOUT (R327): A lane not idle 2^20 ac into a freeze makes the partition hung. -/
  | freezeTimeout (part : Nat)
  /-- THAW (R313): Resumes token delivery, clocks and watchdogs of a frozen partition. -/
  | thaw (cmd : BitVec 64)
  /-- SAVE (R328): Shifts every bay's state into a canonical save image. -/
  | save (cmd : BitVec 64)
  /-- RESTORE (R329): Checks a save image and places and writes back its instances. -/
  | restore (cmd : BitVec 64)
  /-- KEYLOAD (R313): Loads an XTS key pair into a key slot. -/
  | keyload (cmd : BitVec 64)
  /-- KEYCLEAR (R319): Zeroes a key slot once its accesses complete. -/
  | keyclear (cmd : BitVec 64)
  /-- INVALIDATE (R317): Publishes the PF host log and removes cached translations of a guest range. -/
  | invalidate (cmd : BitVec 64)
  /-- DIRTY (R337): Starts, closes or stops a dirty-tracking round. -/
  | dirty (cmd : BitVec 64)
  /-- EXPORTQ (R338): Exports a VF's queue state and device queue. -/
  | exportq (cmd : BitVec 64)
  /-- IMPORTQ (R338): Imports exported queue state onto an idle VF. -/
  | importq (cmd : BitVec 64)
  /-- HALT (R313): Freezes a partition and stops its watchdogs. -/
  | halt (cmd : BitVec 64)
  /-- SHADOWADD (R314): Zeroes pages and adds them to a VF's shadow reserve. -/
  | shadowadd (cmd : BitVec 64)
  /-- SHADOWTAKE (R314): Removes free pages from a VF's shadow reserve. -/
  | shadowtake (cmd : BitVec 64)
  /-- RINGPOOL (R314): Adds a range to a VF's ring pool or removes unused ranges. -/
  | ringpool (cmd : BitVec 64)
  /-- MGMT_BAD_COMMAND (R313): An unlisted management command completes with code 1. -/
  | mgmtBadCommand (cmd : BitVec 64)
  /-- SCRUB_DONE (R331): Every class is cleared and the SAR is written. -/
  | scrubDone (part : Nat)
  /-- SAR_SIGN (R331): The Puppeteer signs the SAR and sets the window's status bit. -/
  | sarSign (part : Nat)
  /-- FLR (R336): A function-level reset aborts, scrubs and zeroes everything of a VF. -/
  | flr (fn : Nat)
  /-- REGION_FAILURE_REPORT (R325): A region failure reaches vcell 0, is marked and broadcast. -/
  | regionFailureReport (src : Nat) (ctx : Nat)
  /-- REGION_FAILURE_APPLY (R326): A cell applies a region failure as one step between firings. -/
  | regionFailureApply (cell : Nat) (ctx : Nat)
  /-- REGION_FAILED_DELIVERY (R326): With every cell done and nothing outstanding, entries are voided and REGION_FAILED is delivered. -/
  | regionFailedDelivery (fn : Nat) (id : Nat) (region : Nat)
  /-- REGION_CLOSE_PROCEED (R225): An open region becomes quiescent and CRCLOSE releases, waits and frees the id. -/
  | regionCloseProceed (fn : Nat) (id : Nat) (region : Nat)
  /-- WATCHDOG_EXPIRY (R333): An instance's watchdog budget expires. -/
  | watchdogExpiry (fn : Nat) (id : Nat)
  /-- DEADLOCK_DETECT (R334): An instance with live frames goes 2^24 ac with no firing or external event. -/
  | deadlockDetect (fn : Nat) (id : Nat)
  /-- POWER_UP (R19): The module starts the Puppeteer, trains links, scrubs and enables the host interfaces. -/
  | powerUp
  /-- THROTTLE (R18): The Puppeteer changes how many ac per 8 it suppresses on a die. -/
  | throttle (die : Nat) (eighths : Nat)
  /-- THERMAL_CUTOFF (R365): A 110 °C junction or a coolant fault cuts power. -/
  | thermalCutoff
  /-- HOP_RETRY (R341): A flit fails parity and the sender resends from it. -/
  | hopRetry (cell : Nat) (port : Nat)
  /-- HOP_FAILED (R344): A mesh or attachment hop fails; it is listed bad and affected instances are killed or regions failed. -/
  | hopFailed (cell : Nat) (port : Nat)
  /-- RING_LANE_LOST (R348): A ring link loses a lane and retrains at half width. -/
  | ringLaneLost (die : Nat) (dir : Nat) (lane : Nat)
  /-- RING_RETRAIN_DONE (R348): A retrained ring link resumes at half width with cost 2. -/
  | ringRetrainDone (die : Nat)
  /-- RING_LINK_LOST (R349): A ring link is lost; held flits reroute and a cut-off die's instances are killed. -/
  | ringLinkLost (die : Nat)
  /-- SEPTORD_RESEND (R350): A Septord packet fails its CRC and is re-sent. -/
  | septordResend (port : Nat)
  /-- SEPTORD_PORT_LOST (R350): A port without an acknowledgement for 2^16 nc is lost and flows remap. -/
  | septordPortLost (port : Nat)
  /-- SEPTORD_LANE_LOST (R350): A port that loses lanes runs on four. -/
  | septordLaneLost (port : Nat) (lane : Nat)
  /-- RESULT_COMMIT (R356): A result held D ac in the commit buffer commits and leaves its agent. -/
  | resultCommit (cell : Nat)
  /-- STRIKE_ROLLBACK (R357): A strike report rolls the zone's agents back to their checkpoints and recomputes. -/
  | strikeRollback (die : Nat) (zone : Nat)
  /-- TIME_LOCK (R360): The first lock steps the global time forward; later corrections slew. -/
  | timeLock (ref : BitVec 64)
  /-- TIME_LOCK_LOST (R360): Losing the reference puts the counter in holdover. -/
  | timeLockLost
  /-- CKPT_START (R362): A CKPT_CTL start takes a cut across all stacks and begins streaming. -/
  | ckptStart (val : BitVec 64)
  /-- CKPT_END (R362): Streaming finishes or fails and CKPT_STATUS reads done or failed. -/
  | ckptEnd (ok : Bool)
  /-- POWER_LOSS (R331): The supply is lost and all volatile state goes, leaving only the Puppeteer's non-volatile store. -/
  | powerLoss
  deriving DecidableEq, Repr

end Sys2Proof
end

