-- ==== Sys2Proof/WellFormed.lean ====
section
/-! DEFINITION. Which instructions are well-formed: the decode checks of R140 step 3 that go beyond
the fixed bits of the opcode table, each from the instruction's own entry; and which constructors
have an encoding at all. The checks that need the codelet around the word (the target of BRF, the
destination count, the bindings of a kernel) are made where the word issues. -/

namespace Sys2Proof

/-- Conditions of CMP, CMPI and VCMP: codes 12 to 15 are unassigned (R164). -/
def intCond (c : BitVec 4) : Bool := decide (c.toNat < 12)

/-- Conditions of FCMP and VFCMP: codes 8 to 15 are unassigned (R172). -/
def fltCond (c : BitVec 4) : Bool := decide (c.toNat < 8)

/-- Rounding fields of the lane: 0000, or 1000 + c for c below 4; `.rs` is unassigned (R139, R124). -/
def laneRm (r : BitVec 4) : Bool := r == 0 || (decide (8 ≤ r.toNat) && decide (r.toNat < 12))

/-- Rounding fields of the vector unit: `.rs` too (R139, R266). -/
def vecRm (r : BitVec 4) : Bool := r == 0 || (decide (8 ≤ r.toNat) && decide (r.toNat < 13))

/-- Type codes of the integer class (R266). -/
def intCls (t : BitVec 2) : Bool := t != 3

/-- Type codes of the float class (R266). -/
def fltCls (t : BitVec 2) : Bool := t != 3

/-- Type codes of the complex class (R266). -/
def cplxCls (t : BitVec 2) : Bool := decide (t.toNat < 2)

/-- Pieces of VPACK and VUNPK (R283). -/
def piece (s : BitVec 2) (p : BitVec 3) : Bool := s != 3 && decide (p.toNat < 2 ^ (s.toNat + 1))

/-- Control register numbers (R144). -/
def ctlListed (n : BitVec 6) : Bool :=
  decide (n.toNat ≤ 0x04) || (decide (0x08 ≤ n.toNat) && decide (n.toNat ≤ 0x0C)) ||
    (decide (0x10 ≤ n.toNat) && decide (n.toNat ≤ 0x17))

/-- Performance counter numbers (R230). -/
def perfListed (n : BitVec 8) : Bool :=
  decide (n.toNat ≤ 0x04) || (decide (0x08 ≤ n.toNat) && decide (n.toNat ≤ 0x11)) ||
    (decide (0x18 ≤ n.toNat) && decide (n.toNat ≤ 0x1B))

/-- The decode checks of R140 step 3 on an instruction's fields. A step that has no encoding has none. -/
def Instr.wf : Instr → Bool
  | .nop _ => true
  | .add _ _ _ _ s u _ => s || !u
  | .sub _ _ _ _ s u _ => s || !u
  | .mul _ _ _ _ s u _ => s || !u
  | .mulh _ _ _ _ _ => true
  | .div _ _ _ _ _ _ => true
  | .rem _ _ _ _ _ _ => true
  | .and _ _ _ _ _ => true
  | .or _ _ _ _ _ => true
  | .xor _ _ _ _ _ => true
  | .andn _ _ _ _ _ => true
  | .shl _ _ _ _ _ => true
  | .shr _ _ _ _ _ => true
  | .sra _ _ _ _ _ => true
  | .rol _ _ _ _ _ => true
  | .min _ _ _ _ _ _ => true
  | .max _ _ _ _ _ _ => true
  | .clz _ _ _ => true
  | .popc _ _ _ => true
  | .extr _ _ _ _ => true
  | .ins _ _ _ _ => true
  | .sel _ _ _ _ _ => true
  | .cmp _ _ _ _ c => intCond c
  | .plog _ _ _ _ _ => true
  | .addi _ _ _ => true
  | .andi _ _ _ => true
  | .ori _ _ _ => true
  | .xori _ _ _ => true
  | .shfi _ _ _ _ => true
  | .cmpi _ _ c _ => intCond c
  | .movi _ _ => true
  | .movk _ _ _ => true
  | .fadd _ _ _ _ r _ => laneRm r
  | .fsub _ _ _ _ r _ => laneRm r
  | .fmul _ _ _ _ r _ => laneRm r
  | .fma _ _ _ _ r _ => laneRm r
  | .fdiv _ _ _ _ r _ => laneRm r
  | .fsqrt _ _ _ r _ => laneRm r
  | .fmin _ _ _ _ r _ => laneRm r
  | .fmax _ _ _ _ r _ => laneRm r
  | .fcmp _ _ _ _ c _ => fltCond c
  | .fcvt _ _ _ r _ => laneRm r
  | .fclass _ _ _ _ => true
  | .fld _ _ _ _ _ => true
  | .fst _ _ _ _ => true
  | .fclr _ _ _ => true
  | .ftst _ _ _ _ => true
  | .send _ _ _ e l _ => e || l == 0
  | .sendd _ _ _ e l _ => e || l == 0
  | .mkc _ c k f _ => !f || (c == 0 && k == 0)
  | .swch _ _ _ e l _ => e || l == 0
  | .falloc _ _ _ _ _ => true
  | .ffree _ _ => true
  | .join _ _ _ _ => true
  | .brf _ o => o != 0
  | .fend _ => true
  | .tnew _ _ _ f => f != 15
  | .tseal _ _ => true
  | .tdup _ _ _ => true
  | .tdrop _ _ => true
  | .tinfo _ _ _ s => s.toNat < 2
  | .hld _ _ _ _ => true
  | .hst _ _ _ n r v _ => laneRm r && (v || (r == 0 && !n))
  | .tchk _ _ _ => true
  | .ldg _ _ _ _ => true
  | .stg _ _ _ _ => true
  | .ldch _ _ _ _ => true
  | .amo _ _ _ _ => true
  | .rel _ _ _ => true
  | .acq _ _ _ => true
  | .acqa _ _ _ => true
  | .bars _ _ c _ _ => c != 0
  | .bara _ _ _ _ => true
  | .watch _ c _ => c != 0
  | .wdrop _ _ => true
  | .time _ _ => true
  | .cropen _ _ _ => true
  | .crclose _ _ _ => true
  | .trap _ => true
  | .mfc _ _ n => ctlListed n
  | .mtc _ _ n => ctlListed n
  | .scrubrd _ _ _ => true
  | .qpost _ c _ => c != 0
  | .perf _ _ n => perfListed n
  | .tload _ _ _ => true
  | .tstore _ _ _ _ => true
  | .tcopy _ _ _ _ => true
  | .tgath _ _ _ _ => true
  | .tscat _ _ _ _ => true
  | .tfill _ _ _ => true
  | .mwld _ _ _ _ _ => true
  | .macc _ _ _ _ _ => true
  | .mrun _ _ _ _ _ => true
  | .mdrain _ _ _ _ => true
  | .rset _ _ _ => true
  | .rfeed _ _ _ _ => true
  | .vrun _ _ _ _ => true
  | .vloop l c n => l != 3 && n != 0 && (!c.getLsbD 13 || c.extractLsb' 3 10 == 0)
  | .vld _ _ => true
  | .vst _ _ _ => true
  | .vmov _ _ _ _ => true
  | .vmovs _ _ _ p => p != 3
  | .viota _ _ _ => true
  | .vsel _ _ _ _ _ => true
  | .vadd _ _ _ _ t s u => intCls t && (s || !u)
  | .vsub _ _ _ _ t s u => intCls t && (s || !u)
  | .vmul _ _ _ _ t s u => intCls t && (s || !u)
  | .vmad _ _ _ _ t s u => intCls t && (s || !u)
  | .vand _ _ _ _ t => intCls t
  | .vor _ _ _ _ t => intCls t
  | .vxor _ _ _ _ t => intCls t
  | .vshl _ _ _ _ t => intCls t
  | .vshr _ _ _ _ t _ => intCls t
  | .vmin _ _ _ _ t _ => intCls t
  | .vmax _ _ _ _ t _ => intCls t
  | .vabs _ _ _ t _ => intCls t
  | .vcmp _ _ _ _ t c => intCls t && intCond c
  | .vfadd _ _ _ _ t r => fltCls t && vecRm r
  | .vfsub _ _ _ _ t r => fltCls t && vecRm r
  | .vfmul _ _ _ _ t r => fltCls t && vecRm r
  | .vfma _ _ _ _ t r => fltCls t && vecRm r
  | .vfmin _ _ _ _ t => fltCls t
  | .vfmax _ _ _ _ t => fltCls t
  | .vfabs _ _ _ t => fltCls t
  | .vfcmp _ _ _ _ t c => fltCls t && fltCond c
  | .vrcp _ _ _ => true
  | .vrsq _ _ _ => true
  | .vexp2 _ _ _ => true
  | .vlog2 _ _ _ => true
  | .vsin _ _ _ => true
  | .vcos _ _ _ => true
  | .vtanh _ _ _ => true
  | .vcvt _ _ c _ n r => c.toNat < 20 && (!n || c.toNat < 5) && vecRm r
  | .vpack _ _ s p => piece s p
  | .vunpk _ _ s p => piece s p
  | .vbscl _ _ _ _ t => t != 3
  | .vqnt _ _ _ _ t r => t != 3 && vecRm r
  | .vred _ _ o _ t r => t != 3 && (if o == 0 then vecRm r else r == 0)
  | .vscan _ _ o _ t r => t != 3 && (if o == 0 then vecRm r else r == 0)
  | .vperm _ _ _ _ _ => true
  | .vbcst _ _ _ _ => true
  | .vsld _ _ _ _ _ => true
  | .vbfly _ _ _ _ t r => cplxCls t && vecRm r
  | .vtwid _ _ _ n => n.toNat < 25
  | .vcmul _ _ _ _ t r => cplxCls t && vecRm r
  | .vmset _ _ _ => true
  | .vmsetZero _ => true
  | .vmsetOnes _ => true
  | .vmlog _ _ _ _ => true
  | .vend => true
  | .tokenArrival _ _ _ => true
  | .spillReturn _ _ => true
  | .matcherTake _ => true
  | .imageFetchDone _ _ => true
  | .laneTake _ => true
  | .readyPromotion _ _ => true
  | .laneStallEnd _ => true
  | .engineQueueRoom _ => true
  | .fallocRequest _ _ _ => true
  | .ffreeMessage _ _ _ => true
  | .countMessage _ _ _ => true
  | .heapBlockZero _ => true
  | .remoteHeapRequest _ _ _ => true
  | .producerReply _ => true
  | .barrierMessage _ _ _ => true
  | .wakeValue _ _ => true
  | .regionIdRecord _ _ => true
  | .copyTake _ => true
  | .matrixTake _ => true
  | .mwldBankFree _ => true
  | .accumulatorHazardEnd _ => true
  | .drainRowAccepted _ => true
  | .reducerTake _ => true
  | .reducerRow _ _ => true
  | .vrunTake _ => true
  | .streamTokenArrival _ _ _ => true
  | .vldRowReady _ => true
  | .kernelEnd _ => true
  | .commandComplete _ _ => true
  | .logEntryAppend _ _ => true
  | .storeRingSpace _ => true
  | .logFull _ => true
  | .publishMessage _ _ => true
  | .segmentReplay _ => true
  | .shadowPageReturn _ => true
  | .loadServe _ _ => true
  | .scStoreApply _ => true
  | .amoPerform _ => true
  | .ldchHop _ => true
  | .acqComplete _ => true
  | .acqaMarker _ _ => true
  | .releaseAccepted _ => true
  | .peerStoreArrival _ _ _ _ => true
  | .peerAck _ => true
  | .endOfGraphRelease _ _ => true
  | .translationWalk _ _ => true
  | .hostWindowWrite _ _ _ => true
  | .hostWindowRead _ _ _ => true
  | .qNotify _ _ _ => true
  | .qEnable _ _ _ => true
  | .qDisable _ _ _ => true
  | .qReset _ _ _ => true
  | .ringRestart _ _ _ => true
  | .faultResume _ _ => true
  | .faultAbort _ _ => true
  | .registerWrite _ _ _ => true
  | .queueFetch _ _ => true
  | .launch _ _ => true
  | .ibcall _ _ => true
  | .predP _ _ => true
  | .loopP _ _ => true
  | .ffence _ _ => true
  | .wake _ _ => true
  | .signal _ _ => true
  | .waitv _ _ => true
  | .waitvPoll _ _ => true
  | .timestamp _ _ => true
  | .nopp _ _ => true
  | .hcopy _ _ => true
  | .drain _ _ => true
  | .barWaitEnd _ _ => true
  | .launchPlacement _ => true
  | .instanceStart _ _ => true
  | .segmentMove _ _ _ _ => true
  | .loadAdvance _ _ => true
  | .returnToken _ _ => true
  | .instanceComplete _ _ => true
  | .qpostRequest _ _ => true
  | .grant _ => true
  | .takeback _ => true
  | .freeze _ => true
  | .freezeComplete _ => true
  | .freezeTimeout _ => true
  | .thaw _ => true
  | .save _ => true
  | .restore _ => true
  | .keyload _ => true
  | .keyclear _ => true
  | .invalidate _ => true
  | .dirty _ => true
  | .exportq _ => true
  | .importq _ => true
  | .halt _ => true
  | .shadowadd _ => true
  | .shadowtake _ => true
  | .ringpool _ => true
  | .mgmtBadCommand _ => true
  | .scrubDone _ => true
  | .sarSign _ => true
  | .flr _ => true
  | .regionFailureReport _ _ => true
  | .regionFailureApply _ _ => true
  | .regionFailedDelivery _ _ _ => true
  | .regionCloseProceed _ _ _ => true
  | .watchdogExpiry _ _ => true
  | .deadlockDetect _ _ => true
  | .powerUp => true
  | .throttle _ _ => true
  | .thermalCutoff => true
  | .hopRetry _ _ => true
  | .hopFailed _ _ => true
  | .ringLaneLost _ _ _ => true
  | .ringRetrainDone _ => true
  | .ringLinkLost _ => true
  | .septordResend _ => true
  | .septordPortLost _ => true
  | .septordLaneLost _ _ => true
  | .resultCommit _ => true
  | .strikeRollback _ _ => true
  | .timeLock _ => true
  | .timeLockLost => true
  | .ckptStart _ => true
  | .ckptEnd _ => true
  | .illegalOp _ => true
  | .powerLoss => true

/-- The instruction is a 32-bit word of R136; the other constructors are steps with no encoding. -/
def Instr.isWord : Instr → Bool
  | .nop _ => true
  | .add _ _ _ _ _ _ _ => true
  | .sub _ _ _ _ _ _ _ => true
  | .mul _ _ _ _ _ _ _ => true
  | .mulh _ _ _ _ _ => true
  | .div _ _ _ _ _ _ => true
  | .rem _ _ _ _ _ _ => true
  | .and _ _ _ _ _ => true
  | .or _ _ _ _ _ => true
  | .xor _ _ _ _ _ => true
  | .andn _ _ _ _ _ => true
  | .shl _ _ _ _ _ => true
  | .shr _ _ _ _ _ => true
  | .sra _ _ _ _ _ => true
  | .rol _ _ _ _ _ => true
  | .min _ _ _ _ _ _ => true
  | .max _ _ _ _ _ _ => true
  | .clz _ _ _ => true
  | .popc _ _ _ => true
  | .extr _ _ _ _ => true
  | .ins _ _ _ _ => true
  | .sel _ _ _ _ _ => true
  | .cmp _ _ _ _ _ => true
  | .plog _ _ _ _ _ => true
  | .addi _ _ _ => true
  | .andi _ _ _ => true
  | .ori _ _ _ => true
  | .xori _ _ _ => true
  | .shfi _ _ _ _ => true
  | .cmpi _ _ _ _ => true
  | .movi _ _ => true
  | .movk _ _ _ => true
  | .fadd _ _ _ _ _ _ => true
  | .fsub _ _ _ _ _ _ => true
  | .fmul _ _ _ _ _ _ => true
  | .fma _ _ _ _ _ _ => true
  | .fdiv _ _ _ _ _ _ => true
  | .fsqrt _ _ _ _ _ => true
  | .fmin _ _ _ _ _ _ => true
  | .fmax _ _ _ _ _ _ => true
  | .fcmp _ _ _ _ _ _ => true
  | .fcvt _ _ _ _ _ => true
  | .fclass _ _ _ _ => true
  | .fld _ _ _ _ _ => true
  | .fst _ _ _ _ => true
  | .fclr _ _ _ => true
  | .ftst _ _ _ _ => true
  | .send _ _ _ _ _ _ => true
  | .sendd _ _ _ _ _ _ => true
  | .mkc _ _ _ _ _ => true
  | .swch _ _ _ _ _ _ => true
  | .falloc _ _ _ _ _ => true
  | .ffree _ _ => true
  | .join _ _ _ _ => true
  | .brf _ _ => true
  | .fend _ => true
  | .tnew _ _ _ _ => true
  | .tseal _ _ => true
  | .tdup _ _ _ => true
  | .tdrop _ _ => true
  | .tinfo _ _ _ _ => true
  | .hld _ _ _ _ => true
  | .hst _ _ _ _ _ _ _ => true
  | .tchk _ _ _ => true
  | .ldg _ _ _ _ => true
  | .stg _ _ _ _ => true
  | .ldch _ _ _ _ => true
  | .amo _ _ _ _ => true
  | .rel _ _ _ => true
  | .acq _ _ _ => true
  | .acqa _ _ _ => true
  | .bars _ _ _ _ _ => true
  | .bara _ _ _ _ => true
  | .watch _ _ _ => true
  | .wdrop _ _ => true
  | .time _ _ => true
  | .cropen _ _ _ => true
  | .crclose _ _ _ => true
  | .trap _ => true
  | .mfc _ _ _ => true
  | .mtc _ _ _ => true
  | .scrubrd _ _ _ => true
  | .qpost _ _ _ => true
  | .perf _ _ _ => true
  | .tload _ _ _ => true
  | .tstore _ _ _ _ => true
  | .tcopy _ _ _ _ => true
  | .tgath _ _ _ _ => true
  | .tscat _ _ _ _ => true
  | .tfill _ _ _ => true
  | .mwld _ _ _ _ _ => true
  | .macc _ _ _ _ _ => true
  | .mrun _ _ _ _ _ => true
  | .mdrain _ _ _ _ => true
  | .rset _ _ _ => true
  | .rfeed _ _ _ _ => true
  | .vrun _ _ _ _ => true
  | .vloop _ _ _ => true
  | .vld _ _ => true
  | .vst _ _ _ => true
  | .vmov _ _ _ _ => true
  | .vmovs _ _ _ _ => true
  | .viota _ _ _ => true
  | .vsel _ _ _ _ _ => true
  | .vadd _ _ _ _ _ _ _ => true
  | .vsub _ _ _ _ _ _ _ => true
  | .vmul _ _ _ _ _ _ _ => true
  | .vmad _ _ _ _ _ _ _ => true
  | .vand _ _ _ _ _ => true
  | .vor _ _ _ _ _ => true
  | .vxor _ _ _ _ _ => true
  | .vshl _ _ _ _ _ => true
  | .vshr _ _ _ _ _ _ => true
  | .vmin _ _ _ _ _ _ => true
  | .vmax _ _ _ _ _ _ => true
  | .vabs _ _ _ _ _ => true
  | .vcmp _ _ _ _ _ _ => true
  | .vfadd _ _ _ _ _ _ => true
  | .vfsub _ _ _ _ _ _ => true
  | .vfmul _ _ _ _ _ _ => true
  | .vfma _ _ _ _ _ _ => true
  | .vfmin _ _ _ _ _ => true
  | .vfmax _ _ _ _ _ => true
  | .vfabs _ _ _ _ => true
  | .vfcmp _ _ _ _ _ _ => true
  | .vrcp _ _ _ => true
  | .vrsq _ _ _ => true
  | .vexp2 _ _ _ => true
  | .vlog2 _ _ _ => true
  | .vsin _ _ _ => true
  | .vcos _ _ _ => true
  | .vtanh _ _ _ => true
  | .vcvt _ _ _ _ _ _ => true
  | .vpack _ _ _ _ => true
  | .vunpk _ _ _ _ => true
  | .vbscl _ _ _ _ _ => true
  | .vqnt _ _ _ _ _ _ => true
  | .vred _ _ _ _ _ _ => true
  | .vscan _ _ _ _ _ _ => true
  | .vperm _ _ _ _ _ => true
  | .vbcst _ _ _ _ => true
  | .vsld _ _ _ _ _ => true
  | .vbfly _ _ _ _ _ _ => true
  | .vtwid _ _ _ _ => true
  | .vcmul _ _ _ _ _ _ => true
  | .vmset _ _ _ => true
  | .vmsetZero _ => true
  | .vmsetOnes _ => true
  | .vmlog _ _ _ _ => true
  | .vend => true
  | .tokenArrival _ _ _ => false
  | .spillReturn _ _ => false
  | .matcherTake _ => false
  | .imageFetchDone _ _ => false
  | .laneTake _ => false
  | .readyPromotion _ _ => false
  | .laneStallEnd _ => false
  | .engineQueueRoom _ => false
  | .fallocRequest _ _ _ => false
  | .ffreeMessage _ _ _ => false
  | .countMessage _ _ _ => false
  | .heapBlockZero _ => false
  | .remoteHeapRequest _ _ _ => false
  | .producerReply _ => false
  | .barrierMessage _ _ _ => false
  | .wakeValue _ _ => false
  | .regionIdRecord _ _ => false
  | .copyTake _ => false
  | .matrixTake _ => false
  | .mwldBankFree _ => false
  | .accumulatorHazardEnd _ => false
  | .drainRowAccepted _ => false
  | .reducerTake _ => false
  | .reducerRow _ _ => false
  | .vrunTake _ => false
  | .streamTokenArrival _ _ _ => false
  | .vldRowReady _ => false
  | .kernelEnd _ => false
  | .commandComplete _ _ => false
  | .logEntryAppend _ _ => false
  | .storeRingSpace _ => false
  | .logFull _ => false
  | .publishMessage _ _ => false
  | .segmentReplay _ => false
  | .shadowPageReturn _ => false
  | .loadServe _ _ => false
  | .scStoreApply _ => false
  | .amoPerform _ => false
  | .ldchHop _ => false
  | .acqComplete _ => false
  | .acqaMarker _ _ => false
  | .releaseAccepted _ => false
  | .peerStoreArrival _ _ _ _ => false
  | .peerAck _ => false
  | .endOfGraphRelease _ _ => false
  | .translationWalk _ _ => false
  | .hostWindowWrite _ _ _ => false
  | .hostWindowRead _ _ _ => false
  | .qNotify _ _ _ => false
  | .qEnable _ _ _ => false
  | .qDisable _ _ _ => false
  | .qReset _ _ _ => false
  | .ringRestart _ _ _ => false
  | .faultResume _ _ => false
  | .faultAbort _ _ => false
  | .registerWrite _ _ _ => false
  | .queueFetch _ _ => false
  | .launch _ _ => false
  | .ibcall _ _ => false
  | .predP _ _ => false
  | .loopP _ _ => false
  | .ffence _ _ => false
  | .wake _ _ => false
  | .signal _ _ => false
  | .waitv _ _ => false
  | .waitvPoll _ _ => false
  | .timestamp _ _ => false
  | .nopp _ _ => false
  | .hcopy _ _ => false
  | .drain _ _ => false
  | .barWaitEnd _ _ => false
  | .launchPlacement _ => false
  | .instanceStart _ _ => false
  | .segmentMove _ _ _ _ => false
  | .loadAdvance _ _ => false
  | .returnToken _ _ => false
  | .instanceComplete _ _ => false
  | .qpostRequest _ _ => false
  | .grant _ => false
  | .takeback _ => false
  | .freeze _ => false
  | .freezeComplete _ => false
  | .freezeTimeout _ => false
  | .thaw _ => false
  | .save _ => false
  | .restore _ => false
  | .keyload _ => false
  | .keyclear _ => false
  | .invalidate _ => false
  | .dirty _ => false
  | .exportq _ => false
  | .importq _ => false
  | .halt _ => false
  | .shadowadd _ => false
  | .shadowtake _ => false
  | .ringpool _ => false
  | .mgmtBadCommand _ => false
  | .scrubDone _ => false
  | .sarSign _ => false
  | .flr _ => false
  | .regionFailureReport _ _ => false
  | .regionFailureApply _ _ => false
  | .regionFailedDelivery _ _ _ => false
  | .regionCloseProceed _ _ _ => false
  | .watchdogExpiry _ _ => false
  | .deadlockDetect _ _ => false
  | .powerUp => false
  | .throttle _ _ => false
  | .thermalCutoff => false
  | .hopRetry _ _ => false
  | .hopFailed _ _ => false
  | .ringLaneLost _ _ _ => false
  | .ringRetrainDone _ => false
  | .ringLinkLost _ => false
  | .septordResend _ => false
  | .septordPortLost _ => false
  | .septordLaneLost _ _ => false
  | .resultCommit _ => false
  | .strikeRollback _ _ => false
  | .timeLock _ => false
  | .timeLockLost => false
  | .ckptStart _ => false
  | .ckptEnd _ => false
  | .illegalOp _ => false
  | .powerLoss => false

end Sys2Proof
end

