-- ==== Sys2Proof/Decode.lean ====
section
/-! DEFINITION. The decoder of instruction words (R136 to R143), the encoder, and `decodeTableWord`.
A word is read as a number, bit 0 the least significant. -/

namespace Sys2Proof

/-- The `n`-bit field of a word that starts at bit `lo`. -/
def field (w lo n : Nat) : BitVec n := BitVec.ofNat n (w / 2 ^ lo)

/-- Bit `lo` of a word. -/
def bitAt (w lo : Nat) : Bool := decide (w / 2 ^ lo % 2 = 1)

/-- The `n` bits of a word from bit `lo` hold `v`. -/
def holds (w lo n v : Nat) : Bool := decide (w / 2 ^ lo % 2 ^ n = v)

/-- A word's reading: the instruction, if its fixed bits are right and it is well-formed (R140). -/
def reading (ok : Bool) (i : Instr) : Option Instr := if ok && i.wf then some i else none

/-- A word whose opcode is that of NOP. -/
def readNop (w : Nat) : Option Instr :=
  reading (holds w 0 8 0 && holds w 12 12 0) (.nop (field w 8 4))

/-- A word whose opcode is that of ADD. -/
def readAdd (w : Nat) : Option Instr :=
  reading (holds w 3 5 0) (.add (field w 20 4) (field w 16 4) (field w 12 4) (field w 8 4) (bitAt w 2) (bitAt w 1) (bitAt w 0))

/-- A word whose opcode is that of SUB. -/
def readSub (w : Nat) : Option Instr :=
  reading (holds w 3 5 0) (.sub (field w 20 4) (field w 16 4) (field w 12 4) (field w 8 4) (bitAt w 2) (bitAt w 1) (bitAt w 0))

/-- A word whose opcode is that of MUL. -/
def readMul (w : Nat) : Option Instr :=
  reading (holds w 3 5 0) (.mul (field w 20 4) (field w 16 4) (field w 12 4) (field w 8 4) (bitAt w 2) (bitAt w 1) (bitAt w 0))

/-- A word whose opcode is that of MULH. -/
def readMulh (w : Nat) : Option Instr :=
  reading (holds w 1 7 0) (.mulh (field w 20 4) (field w 16 4) (field w 12 4) (field w 8 4) (bitAt w 0))

/-- A word whose opcode is that of DIV. -/
def readDiv (w : Nat) : Option Instr :=
  reading (holds w 2 6 0) (.div (field w 20 4) (field w 16 4) (field w 12 4) (field w 8 4) (bitAt w 1) (bitAt w 0))

/-- A word whose opcode is that of REM. -/
def readRem (w : Nat) : Option Instr :=
  reading (holds w 2 6 0) (.rem (field w 20 4) (field w 16 4) (field w 12 4) (field w 8 4) (bitAt w 1) (bitAt w 0))

/-- A word whose opcode is that of AND. -/
def readAnd (w : Nat) : Option Instr :=
  reading (holds w 1 7 0) (.and (field w 20 4) (field w 16 4) (field w 12 4) (field w 8 4) (bitAt w 0))

/-- A word whose opcode is that of OR. -/
def readOr (w : Nat) : Option Instr :=
  reading (holds w 1 7 0) (.or (field w 20 4) (field w 16 4) (field w 12 4) (field w 8 4) (bitAt w 0))

/-- A word whose opcode is that of XOR. -/
def readXor (w : Nat) : Option Instr :=
  reading (holds w 1 7 0) (.xor (field w 20 4) (field w 16 4) (field w 12 4) (field w 8 4) (bitAt w 0))

/-- A word whose opcode is that of ANDN. -/
def readAndn (w : Nat) : Option Instr :=
  reading (holds w 1 7 0) (.andn (field w 20 4) (field w 16 4) (field w 12 4) (field w 8 4) (bitAt w 0))

/-- A word whose opcode is that of SHL. -/
def readShl (w : Nat) : Option Instr :=
  reading (holds w 1 7 0) (.shl (field w 20 4) (field w 16 4) (field w 12 4) (field w 8 4) (bitAt w 0))

/-- A word whose opcode is that of SHR. -/
def readShr (w : Nat) : Option Instr :=
  reading (holds w 1 7 0) (.shr (field w 20 4) (field w 16 4) (field w 12 4) (field w 8 4) (bitAt w 0))

/-- A word whose opcode is that of SRA. -/
def readSra (w : Nat) : Option Instr :=
  reading (holds w 1 7 0) (.sra (field w 20 4) (field w 16 4) (field w 12 4) (field w 8 4) (bitAt w 0))

/-- A word whose opcode is that of ROL. -/
def readRol (w : Nat) : Option Instr :=
  reading (holds w 1 7 0) (.rol (field w 20 4) (field w 16 4) (field w 12 4) (field w 8 4) (bitAt w 0))

/-- A word whose opcode is that of MIN. -/
def readMin (w : Nat) : Option Instr :=
  reading (holds w 2 6 0) (.min (field w 20 4) (field w 16 4) (field w 12 4) (field w 8 4) (bitAt w 1) (bitAt w 0))

/-- Words whose opcode starts with hex digit 0: the opcode is `op`. -/
def decode0 (op w : Nat) : Option Instr :=
  if op = 0x00 then readNop w
  else if op = 0x01 then readAdd w
  else if op = 0x02 then readSub w
  else if op = 0x03 then readMul w
  else if op = 0x04 then readMulh w
  else if op = 0x05 then readDiv w
  else if op = 0x06 then readRem w
  else if op = 0x07 then readAnd w
  else if op = 0x08 then readOr w
  else if op = 0x09 then readXor w
  else if op = 0x0A then readAndn w
  else if op = 0x0B then readShl w
  else if op = 0x0C then readShr w
  else if op = 0x0D then readSra w
  else if op = 0x0E then readRol w
  else if op = 0x0F then readMin w
  else none

/-- A word whose opcode is that of MAX. -/
def readMax (w : Nat) : Option Instr :=
  reading (holds w 2 6 0) (.max (field w 20 4) (field w 16 4) (field w 12 4) (field w 8 4) (bitAt w 1) (bitAt w 0))

/-- A word whose opcode is that of CLZ. -/
def readClz (w : Nat) : Option Instr :=
  reading (holds w 0 8 0 && holds w 12 4 0) (.clz (field w 20 4) (field w 16 4) (field w 8 4))

/-- A word whose opcode is that of POPC. -/
def readPopc (w : Nat) : Option Instr :=
  reading (holds w 0 8 0 && holds w 12 4 0) (.popc (field w 20 4) (field w 16 4) (field w 8 4))

/-- A word whose opcode is that of EXTR. -/
def readExtr (w : Nat) : Option Instr :=
  reading (holds w 0 8 0) (.extr (field w 20 4) (field w 16 4) (field w 12 4) (field w 8 4))

/-- A word whose opcode is that of INS. -/
def readIns (w : Nat) : Option Instr :=
  reading (holds w 0 8 0) (.ins (field w 20 4) (field w 16 4) (field w 12 4) (field w 8 4))

/-- A word whose opcode is that of SEL. -/
def readSel (w : Nat) : Option Instr :=
  reading (holds w 3 5 0) (.sel (field w 20 4) (field w 16 4) (field w 12 4) (field w 8 4) (field w 0 3))

/-- A word whose opcode is that of CMP. -/
def readCmp (w : Nat) : Option Instr :=
  reading (holds w 4 4 0 && holds w 23 1 0) (.cmp (field w 20 3) (field w 16 4) (field w 12 4) (field w 8 4) (field w 0 4))

/-- A word whose opcode is that of PLOG. -/
def readPlog (w : Nat) : Option Instr :=
  reading (holds w 4 4 0 && holds w 15 1 0 && holds w 19 1 0 && holds w 23 1 0) (.plog (field w 20 3) (field w 16 3) (field w 12 3) (field w 8 4) (field w 0 4))

/-- A word whose opcode is that of ADDI. -/
def readAddi (w : Nat) : Option Instr :=
  reading (true) (.addi (field w 20 4) (field w 16 4) (field w 0 16))

/-- A word whose opcode is that of ANDI. -/
def readAndi (w : Nat) : Option Instr :=
  reading (true) (.andi (field w 20 4) (field w 16 4) (field w 0 16))

/-- A word whose opcode is that of ORI. -/
def readOri (w : Nat) : Option Instr :=
  reading (true) (.ori (field w 20 4) (field w 16 4) (field w 0 16))

/-- A word whose opcode is that of XORI. -/
def readXori (w : Nat) : Option Instr :=
  reading (true) (.xori (field w 20 4) (field w 16 4) (field w 0 16))

/-- A word whose opcode is that of SHFI. -/
def readShfi (w : Nat) : Option Instr :=
  reading (holds w 8 8 0) (.shfi (field w 20 4) (field w 16 4) (field w 6 2) (field w 0 6))

/-- A word whose opcode is that of CMPI. -/
def readCmpi (w : Nat) : Option Instr :=
  reading (holds w 23 1 0) (.cmpi (field w 20 3) (field w 16 4) (field w 12 4) (field w 0 12))

/-- A word whose opcode is that of MOVI. -/
def readMovi (w : Nat) : Option Instr :=
  reading (holds w 16 4 0) (.movi (field w 20 4) (field w 0 16))

/-- A word whose opcode is that of MOVK. -/
def readMovk (w : Nat) : Option Instr :=
  reading (holds w 18 2 0) (.movk (field w 20 4) (field w 16 2) (field w 0 16))

/-- Words whose opcode starts with hex digit 1: the opcode is `op`. -/
def decode1 (op w : Nat) : Option Instr :=
  if op = 0x10 then readMax w
  else if op = 0x11 then readClz w
  else if op = 0x12 then readPopc w
  else if op = 0x13 then readExtr w
  else if op = 0x14 then readIns w
  else if op = 0x15 then readSel w
  else if op = 0x16 then readCmp w
  else if op = 0x17 then readPlog w
  else if op = 0x18 then readAddi w
  else if op = 0x19 then readAndi w
  else if op = 0x1A then readOri w
  else if op = 0x1B then readXori w
  else if op = 0x1C then readShfi w
  else if op = 0x1D then readCmpi w
  else if op = 0x1E then readMovi w
  else if op = 0x1F then readMovk w
  else none

/-- A word whose opcode is that of FADD. -/
def readFadd (w : Nat) : Option Instr :=
  reading (holds w 5 3 0) (.fadd (field w 20 4) (field w 16 4) (field w 12 4) (field w 8 4) (field w 1 4) (bitAt w 0))

/-- A word whose opcode is that of FSUB. -/
def readFsub (w : Nat) : Option Instr :=
  reading (holds w 5 3 0) (.fsub (field w 20 4) (field w 16 4) (field w 12 4) (field w 8 4) (field w 1 4) (bitAt w 0))

/-- A word whose opcode is that of FMUL. -/
def readFmul (w : Nat) : Option Instr :=
  reading (holds w 5 3 0) (.fmul (field w 20 4) (field w 16 4) (field w 12 4) (field w 8 4) (field w 1 4) (bitAt w 0))

/-- A word whose opcode is that of FMA. -/
def readFma (w : Nat) : Option Instr :=
  reading (holds w 5 3 0) (.fma (field w 20 4) (field w 16 4) (field w 12 4) (field w 8 4) (field w 1 4) (bitAt w 0))

/-- A word whose opcode is that of FDIV. -/
def readFdiv (w : Nat) : Option Instr :=
  reading (holds w 5 3 0) (.fdiv (field w 20 4) (field w 16 4) (field w 12 4) (field w 8 4) (field w 1 4) (bitAt w 0))

/-- A word whose opcode is that of FSQRT. -/
def readFsqrt (w : Nat) : Option Instr :=
  reading (holds w 5 3 0 && holds w 12 4 0) (.fsqrt (field w 20 4) (field w 16 4) (field w 8 4) (field w 1 4) (bitAt w 0))

/-- A word whose opcode is that of FMIN. -/
def readFmin (w : Nat) : Option Instr :=
  reading (holds w 5 3 0) (.fmin (field w 20 4) (field w 16 4) (field w 12 4) (field w 8 4) (field w 1 4) (bitAt w 0))

/-- A word whose opcode is that of FMAX. -/
def readFmax (w : Nat) : Option Instr :=
  reading (holds w 5 3 0) (.fmax (field w 20 4) (field w 16 4) (field w 12 4) (field w 8 4) (field w 1 4) (bitAt w 0))

/-- A word whose opcode is that of FCMP. -/
def readFcmp (w : Nat) : Option Instr :=
  reading (holds w 1 3 0 && holds w 23 1 0) (.fcmp (field w 20 3) (field w 16 4) (field w 12 4) (field w 8 4) (field w 4 4) (bitAt w 0))

/-- A word whose opcode is that of FCVT. -/
def readFcvt (w : Nat) : Option Instr :=
  reading (holds w 12 4 0) (.fcvt (field w 20 4) (field w 16 4) (field w 8 4) (field w 4 4) (field w 0 4))

/-- A word whose opcode is that of FCLASS. -/
def readFclass (w : Nat) : Option Instr :=
  reading (holds w 1 7 0 && holds w 12 4 0) (.fclass (field w 20 4) (field w 16 4) (field w 8 4) (bitAt w 0))

/-- Words whose opcode starts with hex digit 2: the opcode is `op`. -/
def decode2 (op w : Nat) : Option Instr :=
  if op = 0x20 then readFadd w
  else if op = 0x21 then readFsub w
  else if op = 0x22 then readFmul w
  else if op = 0x23 then readFma w
  else if op = 0x24 then readFdiv w
  else if op = 0x25 then readFsqrt w
  else if op = 0x26 then readFmin w
  else if op = 0x27 then readFmax w
  else if op = 0x28 then readFcmp w
  else if op = 0x29 then readFcvt w
  else if op = 0x2A then readFclass w
  else none

/-- A word whose opcode is that of FLD. -/
def readFld (w : Nat) : Option Instr :=
  reading (true) (.fld (field w 20 4) (field w 16 4) (field w 4 12) (bitAt w 3) (field w 0 3))

/-- A word whose opcode is that of FST. -/
def readFst (w : Nat) : Option Instr :=
  reading (holds w 3 1 0) (.fst (field w 20 4) (field w 16 4) (field w 4 12) (field w 0 3))

/-- A word whose opcode is that of FCLR. -/
def readFclr (w : Nat) : Option Instr :=
  reading (holds w 3 1 0 && holds w 20 4 0) (.fclr (field w 16 4) (field w 4 12) (field w 0 3))

/-- A word whose opcode is that of FTST. -/
def readFtst (w : Nat) : Option Instr :=
  reading (holds w 3 1 0) (.ftst (field w 20 4) (field w 16 4) (field w 4 12) (field w 0 3))

/-- A word whose opcode is that of SEND. -/
def readSend (w : Nat) : Option Instr :=
  reading (holds w 7 1 0) (.send (field w 20 4) (field w 16 4) (field w 8 8) (bitAt w 6) (field w 4 2) (field w 0 4))

/-- A word whose opcode is that of SENDD. -/
def readSendd (w : Nat) : Option Instr :=
  reading (holds w 7 5 0) (.sendd (field w 20 4) (field w 16 4) (field w 12 4) (bitAt w 6) (field w 4 2) (field w 0 4))

/-- A word whose opcode is that of MKC. -/
def readMkc (w : Nat) : Option Instr :=
  reading (holds w 4 3 0) (.mkc (field w 20 4) (field w 16 4) (field w 8 8) (bitAt w 7) (field w 0 4))

/-- A word whose opcode is that of SWCH. -/
def readSwch (w : Nat) : Option Instr :=
  reading (holds w 7 1 0) (.swch (field w 20 4) (field w 16 4) (field w 8 8) (bitAt w 6) (field w 4 2) (field w 0 4))

/-- A word whose opcode is that of FALLOC. -/
def readFalloc (w : Nat) : Option Instr :=
  reading (holds w 8 4 0 && holds w 16 4 0) (.falloc (field w 20 4) (field w 12 4) (bitAt w 7) (field w 4 3) (field w 0 4))

/-- A word whose opcode is that of FFREE. -/
def readFfree (w : Nat) : Option Instr :=
  reading (holds w 4 16 0) (.ffree (field w 20 4) (field w 0 4))

/-- A word whose opcode is that of JOIN. -/
def readJoin (w : Nat) : Option Instr :=
  reading (holds w 3 1 0) (.join (field w 20 4) (field w 16 4) (field w 4 12) (field w 0 3))

/-- A word whose opcode is that of BRF. -/
def readBrf (w : Nat) : Option Instr :=
  reading (holds w 0 8 0 && holds w 20 4 0) (.brf (field w 16 4) (field w 8 8))

/-- A word whose opcode is that of END. -/
def readFend (w : Nat) : Option Instr :=
  reading (holds w 0 8 0 && holds w 12 12 0) (.fend (field w 8 4))

/-- Words whose opcode starts with hex digit 3: the opcode is `op`. -/
def decode3 (op w : Nat) : Option Instr :=
  if op = 0x30 then readFld w
  else if op = 0x31 then readFst w
  else if op = 0x32 then readFclr w
  else if op = 0x33 then readFtst w
  else if op = 0x34 then readSend w
  else if op = 0x35 then readSendd w
  else if op = 0x36 then readMkc w
  else if op = 0x37 then readSwch w
  else if op = 0x38 then readFalloc w
  else if op = 0x39 then readFfree w
  else if op = 0x3A then readJoin w
  else if op = 0x3B then readBrf w
  else if op = 0x3C then readFend w
  else none

/-- A word whose opcode is that of TNEW. -/
def readTnew (w : Nat) : Option Instr :=
  reading (holds w 4 4 0 && holds w 12 4 0) (.tnew (field w 20 4) (field w 16 4) (field w 8 4) (field w 0 4))

/-- A word whose opcode is that of TSEAL. -/
def readTseal (w : Nat) : Option Instr :=
  reading (holds w 0 8 0 && holds w 12 4 0 && holds w 20 4 0) (.tseal (field w 16 4) (field w 8 4))

/-- A word whose opcode is that of TDUP. -/
def readTdup (w : Nat) : Option Instr :=
  reading (holds w 0 8 0 && holds w 20 4 0) (.tdup (field w 16 4) (field w 12 4) (field w 8 4))

/-- A word whose opcode is that of TDROP. -/
def readTdrop (w : Nat) : Option Instr :=
  reading (holds w 0 8 0 && holds w 12 4 0 && holds w 20 4 0) (.tdrop (field w 16 4) (field w 8 4))

/-- A word whose opcode is that of TINFO. -/
def readTinfo (w : Nat) : Option Instr :=
  reading (holds w 2 6 0 && holds w 12 4 0) (.tinfo (field w 20 4) (field w 16 4) (field w 8 4) (field w 0 2))

/-- A word whose opcode is that of HLD. -/
def readHld (w : Nat) : Option Instr :=
  reading (holds w 3 1 0) (.hld (field w 20 4) (field w 16 4) (field w 4 12) (field w 0 3))

/-- A word whose opcode is that of HST. -/
def readHst (w : Nat) : Option Instr :=
  reading (holds w 10 2 0) (.hst (field w 20 4) (field w 16 4) (field w 12 4) (bitAt w 9) (field w 5 4) (bitAt w 4) (field w 0 4))

/-- A word whose opcode is that of TCHK. -/
def readTchk (w : Nat) : Option Instr :=
  reading (holds w 0 8 0 && holds w 12 4 0) (.tchk (field w 20 4) (field w 16 4) (field w 8 4))

/-- Words whose opcode starts with hex digit 4: the opcode is `op`. -/
def decode4 (op w : Nat) : Option Instr :=
  if op = 0x40 then readTnew w
  else if op = 0x41 then readTseal w
  else if op = 0x42 then readTdup w
  else if op = 0x43 then readTdrop w
  else if op = 0x44 then readTinfo w
  else if op = 0x45 then readHld w
  else if op = 0x46 then readHst w
  else if op = 0x47 then readTchk w
  else none

/-- A word whose opcode is that of LDG. -/
def readLdg (w : Nat) : Option Instr :=
  reading (holds w 3 1 0) (.ldg (field w 20 4) (field w 16 4) (field w 4 12) (field w 0 3))

/-- A word whose opcode is that of STG. -/
def readStg (w : Nat) : Option Instr :=
  reading (holds w 4 8 0) (.stg (field w 20 4) (field w 16 4) (field w 12 4) (field w 0 4))

/-- A word whose opcode is that of LDCH. -/
def readLdch (w : Nat) : Option Instr :=
  reading (holds w 3 1 0) (.ldch (field w 20 4) (field w 16 4) (field w 4 12) (field w 0 3))

/-- A word whose opcode is that of AMO. -/
def readAmo (w : Nat) : Option Instr :=
  reading (holds w 3 1 0) (.amo (field w 20 4) (field w 16 4) (field w 4 12) (field w 0 3))

/-- A word whose opcode is that of REL. -/
def readRel (w : Nat) : Option Instr :=
  reading (holds w 5 7 0 && holds w 16 8 0) (.rel (field w 12 4) (bitAt w 4) (field w 0 4))

/-- A word whose opcode is that of ACQ. -/
def readAcq (w : Nat) : Option Instr :=
  reading (holds w 4 8 0 && holds w 16 4 0) (.acq (field w 20 4) (field w 12 4) (field w 0 4))

/-- A word whose opcode is that of ACQA. -/
def readAcqa (w : Nat) : Option Instr :=
  reading (holds w 5 7 0 && holds w 16 8 0) (.acqa (field w 12 4) (bitAt w 4) (field w 0 4))

/-- Words whose opcode starts with hex digit 5: the opcode is `op`. -/
def decode5 (op w : Nat) : Option Instr :=
  if op = 0x50 then readLdg w
  else if op = 0x51 then readStg w
  else if op = 0x52 then readLdch w
  else if op = 0x53 then readAmo w
  else if op = 0x54 then readRel w
  else if op = 0x55 then readAcq w
  else if op = 0x56 then readAcqa w
  else none

/-- A word whose opcode is that of BARS. -/
def readBars (w : Nat) : Option Instr :=
  reading (holds w 5 7 0) (.bars (field w 20 4) (field w 16 4) (field w 12 4) (bitAt w 4) (field w 0 4))

/-- A word whose opcode is that of BARA. -/
def readBara (w : Nat) : Option Instr :=
  reading (holds w 4 8 0) (.bara (field w 20 4) (field w 16 4) (field w 12 4) (field w 0 4))

/-- A word whose opcode is that of WATCH. -/
def readWatch (w : Nat) : Option Instr :=
  reading (holds w 4 8 0 && holds w 16 4 0) (.watch (field w 20 4) (field w 12 4) (field w 0 4))

/-- A word whose opcode is that of WDROP. -/
def readWdrop (w : Nat) : Option Instr :=
  reading (holds w 4 16 0) (.wdrop (field w 20 4) (field w 0 4))

/-- A word whose opcode is that of TIME. -/
def readTime (w : Nat) : Option Instr :=
  reading (holds w 0 8 0 && holds w 12 8 0) (.time (field w 20 4) (field w 8 4))

/-- Words whose opcode starts with hex digit 6: the opcode is `op`. -/
def decode6 (op w : Nat) : Option Instr :=
  if op = 0x60 then readBars w
  else if op = 0x61 then readBara w
  else if op = 0x62 then readWatch w
  else if op = 0x63 then readWdrop w
  else if op = 0x64 then readTime w
  else none

/-- A word whose opcode is that of CROPEN. -/
def readCropen (w : Nat) : Option Instr :=
  reading (holds w 0 8 0 && holds w 12 4 0) (.cropen (field w 20 4) (field w 16 4) (field w 8 4))

/-- A word whose opcode is that of CRCLOSE. -/
def readCrclose (w : Nat) : Option Instr :=
  reading (holds w 4 8 0 && holds w 16 4 0) (.crclose (field w 20 4) (field w 12 4) (field w 0 4))

/-- A word whose opcode is that of TRAP. -/
def readTrap (w : Nat) : Option Instr :=
  reading (holds w 16 8 0) (.trap (field w 0 16))

/-- A word whose opcode is that of MFC. -/
def readMfc (w : Nat) : Option Instr :=
  reading (holds w 6 2 0 && holds w 12 8 0) (.mfc (field w 20 4) (field w 8 4) (field w 0 6))

/-- A word whose opcode is that of MTC. -/
def readMtc (w : Nat) : Option Instr :=
  reading (holds w 6 2 0 && holds w 12 4 0 && holds w 20 4 0) (.mtc (field w 16 4) (field w 8 4) (field w 0 6))

/-- A word whose opcode is that of SCRUBRD. -/
def readScrubrd (w : Nat) : Option Instr :=
  reading (holds w 4 4 0 && holds w 12 8 0) (.scrubrd (field w 20 4) (field w 8 4) (field w 0 4))

/-- A word whose opcode is that of QPOST. -/
def readQpost (w : Nat) : Option Instr :=
  reading (holds w 4 8 0 && holds w 16 4 0) (.qpost (field w 20 4) (field w 12 4) (field w 0 4))

/-- A word whose opcode is that of PERF. -/
def readPerf (w : Nat) : Option Instr :=
  reading (holds w 12 8 0) (.perf (field w 20 4) (field w 8 4) (field w 0 8))

/-- Words whose opcode starts with hex digit 7: the opcode is `op`. -/
def decode7 (op w : Nat) : Option Instr :=
  if op = 0x70 then readCropen w
  else if op = 0x71 then readCrclose w
  else if op = 0x72 then readTrap w
  else if op = 0x73 then readMfc w
  else if op = 0x74 then readMtc w
  else if op = 0x75 then readScrubrd w
  else if op = 0x76 then readQpost w
  else if op = 0x77 then readPerf w
  else none

/-- A word whose opcode is that of TLOAD. -/
def readTload (w : Nat) : Option Instr :=
  reading (holds w 4 8 0 && holds w 16 4 0) (.tload (field w 20 4) (field w 12 4) (field w 0 4))

/-- A word whose opcode is that of TSTORE. -/
def readTstore (w : Nat) : Option Instr :=
  reading (holds w 5 7 0 && holds w 16 4 0) (.tstore (field w 20 4) (field w 12 4) (bitAt w 4) (field w 0 4))

/-- A word whose opcode is that of TCOPY. -/
def readTcopy (w : Nat) : Option Instr :=
  reading (holds w 5 7 0 && holds w 16 4 0) (.tcopy (field w 20 4) (field w 12 4) (bitAt w 4) (field w 0 4))

/-- A word whose opcode is that of TGATH. -/
def readTgath (w : Nat) : Option Instr :=
  reading (holds w 5 7 0 && holds w 16 4 0) (.tgath (field w 20 4) (field w 12 4) (bitAt w 4) (field w 0 4))

/-- A word whose opcode is that of TSCAT. -/
def readTscat (w : Nat) : Option Instr :=
  reading (holds w 5 7 0 && holds w 16 4 0) (.tscat (field w 20 4) (field w 12 4) (bitAt w 4) (field w 0 4))

/-- A word whose opcode is that of TFILL. -/
def readTfill (w : Nat) : Option Instr :=
  reading (holds w 4 8 0 && holds w 16 4 0) (.tfill (field w 20 4) (field w 12 4) (field w 0 4))

/-- A word whose opcode is that of MWLD. -/
def readMwld (w : Nat) : Option Instr :=
  reading (holds w 6 6 0 && holds w 16 4 0) (.mwld (field w 20 4) (field w 12 4) (bitAt w 5) (bitAt w 4) (field w 0 4))

/-- A word whose opcode is that of MACC. -/
def readMacc (w : Nat) : Option Instr :=
  reading (holds w 6 6 0 && holds w 16 4 0) (.macc (field w 20 4) (field w 12 4) (bitAt w 5) (bitAt w 4) (field w 0 4))

/-- A word whose opcode is that of MRUN. -/
def readMrun (w : Nat) : Option Instr :=
  reading (holds w 6 6 0 && holds w 16 4 0) (.mrun (field w 20 4) (field w 12 4) (bitAt w 5) (bitAt w 4) (field w 0 4))

/-- A word whose opcode is that of MDRAIN. -/
def readMdrain (w : Nat) : Option Instr :=
  reading (holds w 4 1 0 && holds w 6 6 0 && holds w 16 4 0) (.mdrain (field w 20 4) (field w 12 4) (bitAt w 5) (field w 0 4))

/-- Words whose opcode starts with hex digit 8: the opcode is `op`. -/
def decode8 (op w : Nat) : Option Instr :=
  if op = 0x80 then readTload w
  else if op = 0x81 then readTstore w
  else if op = 0x82 then readTcopy w
  else if op = 0x83 then readTgath w
  else if op = 0x84 then readTscat w
  else if op = 0x85 then readTfill w
  else if op = 0x88 then readMwld w
  else if op = 0x89 then readMacc w
  else if op = 0x8A then readMrun w
  else if op = 0x8B then readMdrain w
  else none

/-- A word whose opcode is that of RSET. -/
def readRset (w : Nat) : Option Instr :=
  reading (holds w 4 8 0 && holds w 16 4 0) (.rset (field w 20 4) (field w 12 4) (field w 0 4))

/-- A word whose opcode is that of RFEED. -/
def readRfeed (w : Nat) : Option Instr :=
  reading (holds w 5 7 0 && holds w 16 4 0) (.rfeed (field w 20 4) (field w 12 4) (bitAt w 4) (field w 0 4))

/-- A word whose opcode is that of VRUN. -/
def readVrun (w : Nat) : Option Instr :=
  reading (holds w 4 8 0) (.vrun (field w 20 4) (field w 16 4) (field w 12 4) (field w 0 4))

/-- Words whose opcode starts with hex digit 9: the opcode is `op`. -/
def decode9 (op w : Nat) : Option Instr :=
  if op = 0x90 then readRset w
  else if op = 0x91 then readRfeed w
  else if op = 0x98 then readVrun w
  else none

/-- A word whose opcode is that of VLOOP. -/
def readVloop (w : Nat) : Option Instr :=
  reading (true) (.vloop (field w 22 2) (field w 8 14) (field w 0 8))

/-- A word whose opcode is that of VLD. -/
def readVld (w : Nat) : Option Instr :=
  reading (holds w 0 14 0 && holds w 16 3 0) (.vld (field w 19 5) (field w 14 2))

/-- A word whose opcode is that of VST. -/
def readVst (w : Nat) : Option Instr :=
  reading (holds w 0 6 0 && holds w 9 5 0 && holds w 20 4 0) (.vst (bitAt w 19) (field w 14 5) (field w 6 3))

/-- A word whose opcode is that of VMOV. -/
def readVmov (w : Nat) : Option Instr :=
  reading (holds w 0 4 0 && holds w 9 5 0) (.vmov (field w 19 5) (field w 14 5) (field w 6 3) (field w 4 2))

/-- A word whose opcode is that of VMOVS. -/
def readVmovs (w : Nat) : Option Instr :=
  reading (holds w 2 4 0 && holds w 9 5 0 && holds w 17 2 0) (.vmovs (field w 19 5) (field w 14 3) (field w 6 3) (field w 0 2))

/-- A word whose opcode is that of VIOTA. -/
def readViota (w : Nat) : Option Instr :=
  reading (holds w 0 4 0 && holds w 9 10 0) (.viota (field w 19 5) (field w 6 3) (field w 4 2))

/-- A word whose opcode is that of VSEL. -/
def readVsel (w : Nat) : Option Instr :=
  reading (holds w 0 4 0) (.vsel (field w 19 5) (field w 14 5) (field w 9 5) (field w 6 3) (field w 4 2))

/-- A word whose opcode is that of VADD. -/
def readVadd (w : Nat) : Option Instr :=
  reading (holds w 0 2 0) (.vadd (field w 19 5) (field w 14 5) (field w 9 5) (field w 6 3) (field w 4 2) (bitAt w 3) (bitAt w 2))

/-- A word whose opcode is that of VSUB. -/
def readVsub (w : Nat) : Option Instr :=
  reading (holds w 0 2 0) (.vsub (field w 19 5) (field w 14 5) (field w 9 5) (field w 6 3) (field w 4 2) (bitAt w 3) (bitAt w 2))

/-- A word whose opcode is that of VMUL. -/
def readVmul (w : Nat) : Option Instr :=
  reading (holds w 0 2 0) (.vmul (field w 19 5) (field w 14 5) (field w 9 5) (field w 6 3) (field w 4 2) (bitAt w 3) (bitAt w 2))

/-- A word whose opcode is that of VMAD. -/
def readVmad (w : Nat) : Option Instr :=
  reading (holds w 0 2 0) (.vmad (field w 19 5) (field w 14 5) (field w 9 5) (field w 6 3) (field w 4 2) (bitAt w 3) (bitAt w 2))

/-- A word whose opcode is that of VAND. -/
def readVand (w : Nat) : Option Instr :=
  reading (holds w 0 4 0) (.vand (field w 19 5) (field w 14 5) (field w 9 5) (field w 6 3) (field w 4 2))

/-- A word whose opcode is that of VOR. -/
def readVor (w : Nat) : Option Instr :=
  reading (holds w 0 4 0) (.vor (field w 19 5) (field w 14 5) (field w 9 5) (field w 6 3) (field w 4 2))

/-- A word whose opcode is that of VXOR. -/
def readVxor (w : Nat) : Option Instr :=
  reading (holds w 0 4 0) (.vxor (field w 19 5) (field w 14 5) (field w 9 5) (field w 6 3) (field w 4 2))

/-- A word whose opcode is that of VSHL. -/
def readVshl (w : Nat) : Option Instr :=
  reading (holds w 0 4 0) (.vshl (field w 19 5) (field w 14 5) (field w 9 5) (field w 6 3) (field w 4 2))

/-- Words whose opcode starts with hex digit C: the opcode is `op`. -/
def decodeC (op w : Nat) : Option Instr :=
  if op = 0xC0 then readVloop w
  else if op = 0xC2 then readVld w
  else if op = 0xC3 then readVst w
  else if op = 0xC4 then readVmov w
  else if op = 0xC5 then readVmovs w
  else if op = 0xC6 then readViota w
  else if op = 0xC7 then readVsel w
  else if op = 0xC8 then readVadd w
  else if op = 0xC9 then readVsub w
  else if op = 0xCA then readVmul w
  else if op = 0xCB then readVmad w
  else if op = 0xCC then readVand w
  else if op = 0xCD then readVor w
  else if op = 0xCE then readVxor w
  else if op = 0xCF then readVshl w
  else none

/-- A word whose opcode is that of VSHR. -/
def readVshr (w : Nat) : Option Instr :=
  reading (holds w 0 2 0 && holds w 3 1 0) (.vshr (field w 19 5) (field w 14 5) (field w 9 5) (field w 6 3) (field w 4 2) (bitAt w 2))

/-- A word whose opcode is that of VMIN. -/
def readVmin (w : Nat) : Option Instr :=
  reading (holds w 0 2 0 && holds w 3 1 0) (.vmin (field w 19 5) (field w 14 5) (field w 9 5) (field w 6 3) (field w 4 2) (bitAt w 2))

/-- A word whose opcode is that of VMAX. -/
def readVmax (w : Nat) : Option Instr :=
  reading (holds w 0 2 0 && holds w 3 1 0) (.vmax (field w 19 5) (field w 14 5) (field w 9 5) (field w 6 3) (field w 4 2) (bitAt w 2))

/-- A word whose opcode is that of VABS. -/
def readVabs (w : Nat) : Option Instr :=
  reading (holds w 0 3 0 && holds w 9 5 0) (.vabs (field w 19 5) (field w 14 5) (field w 6 3) (field w 4 2) (bitAt w 3))

/-- A word whose opcode is that of VCMP. -/
def readVcmp (w : Nat) : Option Instr :=
  reading (holds w 22 2 0) (.vcmp (field w 19 3) (field w 14 5) (field w 9 5) (field w 6 3) (field w 4 2) (field w 0 4))

/-- A word whose opcode is that of VFADD. -/
def readVfadd (w : Nat) : Option Instr :=
  reading (true) (.vfadd (field w 19 5) (field w 14 5) (field w 9 5) (field w 6 3) (field w 4 2) (field w 0 4))

/-- A word whose opcode is that of VFSUB. -/
def readVfsub (w : Nat) : Option Instr :=
  reading (true) (.vfsub (field w 19 5) (field w 14 5) (field w 9 5) (field w 6 3) (field w 4 2) (field w 0 4))

/-- A word whose opcode is that of VFMUL. -/
def readVfmul (w : Nat) : Option Instr :=
  reading (true) (.vfmul (field w 19 5) (field w 14 5) (field w 9 5) (field w 6 3) (field w 4 2) (field w 0 4))

/-- A word whose opcode is that of VFMA. -/
def readVfma (w : Nat) : Option Instr :=
  reading (true) (.vfma (field w 19 5) (field w 14 5) (field w 9 5) (field w 6 3) (field w 4 2) (field w 0 4))

/-- A word whose opcode is that of VFMIN. -/
def readVfmin (w : Nat) : Option Instr :=
  reading (holds w 0 4 0) (.vfmin (field w 19 5) (field w 14 5) (field w 9 5) (field w 6 3) (field w 4 2))

/-- A word whose opcode is that of VFMAX. -/
def readVfmax (w : Nat) : Option Instr :=
  reading (holds w 0 4 0) (.vfmax (field w 19 5) (field w 14 5) (field w 9 5) (field w 6 3) (field w 4 2))

/-- A word whose opcode is that of VFABS. -/
def readVfabs (w : Nat) : Option Instr :=
  reading (holds w 0 4 0 && holds w 9 5 0) (.vfabs (field w 19 5) (field w 14 5) (field w 6 3) (field w 4 2))

/-- A word whose opcode is that of VFCMP. -/
def readVfcmp (w : Nat) : Option Instr :=
  reading (holds w 22 2 0) (.vfcmp (field w 19 3) (field w 14 5) (field w 9 5) (field w 6 3) (field w 4 2) (field w 0 4))

/-- A word whose opcode is that of VRCP. -/
def readVrcp (w : Nat) : Option Instr :=
  reading (holds w 0 6 0 && holds w 9 5 0) (.vrcp (field w 19 5) (field w 14 5) (field w 6 3))

/-- A word whose opcode is that of VRSQ. -/
def readVrsq (w : Nat) : Option Instr :=
  reading (holds w 0 6 0 && holds w 9 5 0) (.vrsq (field w 19 5) (field w 14 5) (field w 6 3))

/-- A word whose opcode is that of VEXP2. -/
def readVexp2 (w : Nat) : Option Instr :=
  reading (holds w 0 6 0 && holds w 9 5 0) (.vexp2 (field w 19 5) (field w 14 5) (field w 6 3))

/-- Words whose opcode starts with hex digit D: the opcode is `op`. -/
def decodeD (op w : Nat) : Option Instr :=
  if op = 0xD0 then readVshr w
  else if op = 0xD1 then readVmin w
  else if op = 0xD2 then readVmax w
  else if op = 0xD3 then readVabs w
  else if op = 0xD4 then readVcmp w
  else if op = 0xD5 then readVfadd w
  else if op = 0xD6 then readVfsub w
  else if op = 0xD7 then readVfmul w
  else if op = 0xD8 then readVfma w
  else if op = 0xD9 then readVfmin w
  else if op = 0xDA then readVfmax w
  else if op = 0xDB then readVfabs w
  else if op = 0xDC then readVfcmp w
  else if op = 0xDD then readVrcp w
  else if op = 0xDE then readVrsq w
  else if op = 0xDF then readVexp2 w
  else none

/-- A word whose opcode is that of VLOG2. -/
def readVlog2 (w : Nat) : Option Instr :=
  reading (holds w 0 6 0 && holds w 9 5 0) (.vlog2 (field w 19 5) (field w 14 5) (field w 6 3))

/-- A word whose opcode is that of VSIN. -/
def readVsin (w : Nat) : Option Instr :=
  reading (holds w 0 6 0 && holds w 9 5 0) (.vsin (field w 19 5) (field w 14 5) (field w 6 3))

/-- A word whose opcode is that of VCOS. -/
def readVcos (w : Nat) : Option Instr :=
  reading (holds w 0 6 0 && holds w 9 5 0) (.vcos (field w 19 5) (field w 14 5) (field w 6 3))

/-- A word whose opcode is that of VTANH. -/
def readVtanh (w : Nat) : Option Instr :=
  reading (holds w 0 6 0 && holds w 9 5 0) (.vtanh (field w 19 5) (field w 14 5) (field w 6 3))

/-- A word whose opcode is that of VCVT. -/
def readVcvt (w : Nat) : Option Instr :=
  reading (holds w 5 1 0) (.vcvt (field w 19 5) (field w 14 5) (field w 9 5) (field w 6 3) (bitAt w 4) (field w 0 4))

/-- A word whose opcode is that of VPACK. -/
def readVpack (w : Nat) : Option Instr :=
  reading (holds w 3 1 0 && holds w 6 8 0) (.vpack (field w 19 5) (field w 14 5) (field w 4 2) (field w 0 3))

/-- A word whose opcode is that of VUNPK. -/
def readVunpk (w : Nat) : Option Instr :=
  reading (holds w 3 1 0 && holds w 6 8 0) (.vunpk (field w 19 5) (field w 14 5) (field w 4 2) (field w 0 3))

/-- A word whose opcode is that of VBSCL. -/
def readVbscl (w : Nat) : Option Instr :=
  reading (holds w 0 4 0) (.vbscl (field w 19 5) (field w 14 5) (field w 9 5) (field w 6 3) (field w 4 2))

/-- A word whose opcode is that of VQNT. -/
def readVqnt (w : Nat) : Option Instr :=
  reading (true) (.vqnt (field w 19 5) (field w 14 5) (field w 9 5) (field w 6 3) (field w 4 2) (field w 0 4))

/-- A word whose opcode is that of VRED. -/
def readVred (w : Nat) : Option Instr :=
  reading (holds w 9 2 0) (.vred (field w 19 5) (field w 14 5) (field w 11 3) (field w 6 3) (field w 4 2) (field w 0 4))

/-- A word whose opcode is that of VSCAN. -/
def readVscan (w : Nat) : Option Instr :=
  reading (holds w 9 2 0) (.vscan (field w 19 5) (field w 14 5) (field w 11 3) (field w 6 3) (field w 4 2) (field w 0 4))

/-- A word whose opcode is that of VPERM. -/
def readVperm (w : Nat) : Option Instr :=
  reading (holds w 0 4 0) (.vperm (field w 19 5) (field w 14 5) (field w 9 5) (field w 6 3) (field w 4 2))

/-- A word whose opcode is that of VBCST. -/
def readVbcst (w : Nat) : Option Instr :=
  reading (holds w 0 4 0 && holds w 9 5 0) (.vbcst (field w 19 5) (field w 14 5) (field w 6 3) (field w 4 2))

/-- A word whose opcode is that of VSLD. -/
def readVsld (w : Nat) : Option Instr :=
  reading (true) (.vsld (field w 19 5) (field w 14 5) (field w 9 5) (field w 6 3) (field w 0 6))

/-- A word whose opcode is that of VBFLY. -/
def readVbfly (w : Nat) : Option Instr :=
  reading (holds w 19 1 0) (.vbfly (field w 20 4) (field w 14 5) (field w 9 5) (field w 6 3) (field w 4 2) (field w 0 4))

/-- Words whose opcode starts with hex digit E: the opcode is `op`. -/
def decodeE (op w : Nat) : Option Instr :=
  if op = 0xE0 then readVlog2 w
  else if op = 0xE1 then readVsin w
  else if op = 0xE2 then readVcos w
  else if op = 0xE3 then readVtanh w
  else if op = 0xE5 then readVcvt w
  else if op = 0xE6 then readVpack w
  else if op = 0xE7 then readVunpk w
  else if op = 0xE8 then readVbscl w
  else if op = 0xE9 then readVqnt w
  else if op = 0xEA then readVred w
  else if op = 0xEB then readVscan w
  else if op = 0xEC then readVperm w
  else if op = 0xED then readVbcst w
  else if op = 0xEE then readVsld w
  else if op = 0xEF then readVbfly w
  else none

/-- A word whose opcode is that of VTWID. -/
def readVtwid (w : Nat) : Option Instr :=
  reading (holds w 5 1 0 && holds w 9 5 0) (.vtwid (field w 19 5) (field w 14 5) (field w 6 3) (field w 0 5))

/-- A word whose opcode is that of VCMUL. -/
def readVcmul (w : Nat) : Option Instr :=
  reading (true) (.vcmul (field w 19 5) (field w 14 5) (field w 9 5) (field w 6 3) (field w 4 2) (field w 0 4))

/-- A word whose opcode is that of VMSET. -/
def readVmset (w : Nat) : Option Instr :=
  reading (holds w 0 4 0 && holds w 6 8 0 && holds w 22 2 0) (.vmset (field w 19 3) (field w 14 5) (field w 4 2))

/-- A word whose opcode is that of VMSET_ZERO. -/
def readVmsetZero (w : Nat) : Option Instr :=
  reading (holds w 0 19 1 && holds w 22 2 0) (.vmsetZero (field w 19 3))

/-- A word whose opcode is that of VMSET_ONES. -/
def readVmsetOnes (w : Nat) : Option Instr :=
  reading (holds w 0 19 2 && holds w 22 2 0) (.vmsetOnes (field w 19 3))

/-- A word whose opcode is that of VMLOG. -/
def readVmlog (w : Nat) : Option Instr :=
  reading (holds w 4 5 0 && holds w 12 2 0 && holds w 17 2 0 && holds w 22 2 0) (.vmlog (field w 19 3) (field w 14 3) (field w 9 3) (field w 0 4))

/-- A word whose opcode is that of VEND. -/
def readVend (w : Nat) : Option Instr :=
  reading (holds w 0 24 0) .vend

/-- Words whose opcode starts with hex digit F: the opcode is `op`. -/
def decodeF (op w : Nat) : Option Instr :=
  if op = 0xF0 then readVtwid w
  else if op = 0xF1 then readVcmul w
  else if op = 0xF2 then readVmset w <|> readVmsetZero w <|> readVmsetOnes w
  else if op = 0xF3 then readVmlog w
  else if op = 0xF4 then readVend w
  else none

/-- The instruction a word stands for, or none where the word is unassigned (R143) or breaks a decode
check (R140): total on every word. -/
def decodeNat (w : Nat) : Option Instr :=
  let op := w / 2 ^ 24 % 256
  if op / 16 = 0 then decode0 op w
  else if op / 16 = 1 then decode1 op w
  else if op / 16 = 2 then decode2 op w
  else if op / 16 = 3 then decode3 op w
  else if op / 16 = 4 then decode4 op w
  else if op / 16 = 5 then decode5 op w
  else if op / 16 = 6 then decode6 op w
  else if op / 16 = 7 then decode7 op w
  else if op / 16 = 8 then decode8 op w
  else if op / 16 = 9 then decode9 op w
  else if op / 16 = 12 then decodeC op w
  else if op / 16 = 13 then decodeD op w
  else if op / 16 = 14 then decodeE op w
  else if op / 16 = 15 then decodeF op w
  else none

/-- The instruction an instruction word stands for. -/
def decode (w : IWord) : Option Instr := decodeNat w.toNat

/-- The instruction in the bytes at an image word: four bytes, little-endian (R134), and the rest. -/
def decodeBytes : List Byte → Option (Instr × List Byte)
  | b0 :: b1 :: b2 :: b3 :: rest =>
    (decodeNat (b0.toNat + b1.toNat * 2 ^ 8 + b2.toNat * 2 ^ 16 + b3.toNat * 2 ^ 24)).map (·, rest)
  | _ => none

/-- The instruction of a table row's word. Every encoded row has 32 bits; the rows with none give no
instruction. The word is laid out in its four bytes and decoded. -/
def decodeTableWord (nbits w : Nat) : Option Instr :=
  if nbits = 0 then none
  else (decodeBytes [BitVec.ofNat 8 w, BitVec.ofNat 8 (w / 2 ^ 8), BitVec.ofNat 8 (w / 2 ^ 16),
    BitVec.ofNat 8 (w / 2 ^ 24)]).map Prod.fst

/-- A word from its fixed bits and its fields: pairs of a value and the bit it starts at. -/
def place (fixed : Nat) : List (Nat × Nat) → Nat
  | [] => fixed
  | (v, lo) :: fs => place fixed fs + v * 2 ^ lo

/-- The number of an instruction's word: the opcode in bits 31 to 24, every field in its place. -/
def encodeNat : Instr → Option Nat
  | .nop g => some (place 0x00000000 [(g.toNat, 8)])
  | .add d a b g s u w => some (place 0x01000000 [(d.toNat, 20), (a.toNat, 16), (b.toNat, 12), (g.toNat, 8), (s.toNat, 2), (u.toNat, 1), (w.toNat, 0)])
  | .sub d a b g s u w => some (place 0x02000000 [(d.toNat, 20), (a.toNat, 16), (b.toNat, 12), (g.toNat, 8), (s.toNat, 2), (u.toNat, 1), (w.toNat, 0)])
  | .mul d a b g s u w => some (place 0x03000000 [(d.toNat, 20), (a.toNat, 16), (b.toNat, 12), (g.toNat, 8), (s.toNat, 2), (u.toNat, 1), (w.toNat, 0)])
  | .mulh d a b g u => some (place 0x04000000 [(d.toNat, 20), (a.toNat, 16), (b.toNat, 12), (g.toNat, 8), (u.toNat, 0)])
  | .div d a b g u w => some (place 0x05000000 [(d.toNat, 20), (a.toNat, 16), (b.toNat, 12), (g.toNat, 8), (u.toNat, 1), (w.toNat, 0)])
  | .rem d a b g u w => some (place 0x06000000 [(d.toNat, 20), (a.toNat, 16), (b.toNat, 12), (g.toNat, 8), (u.toNat, 1), (w.toNat, 0)])
  | .and d a b g w => some (place 0x07000000 [(d.toNat, 20), (a.toNat, 16), (b.toNat, 12), (g.toNat, 8), (w.toNat, 0)])
  | .or d a b g w => some (place 0x08000000 [(d.toNat, 20), (a.toNat, 16), (b.toNat, 12), (g.toNat, 8), (w.toNat, 0)])
  | .xor d a b g w => some (place 0x09000000 [(d.toNat, 20), (a.toNat, 16), (b.toNat, 12), (g.toNat, 8), (w.toNat, 0)])
  | .andn d a b g w => some (place 0x0A000000 [(d.toNat, 20), (a.toNat, 16), (b.toNat, 12), (g.toNat, 8), (w.toNat, 0)])
  | .shl d a b g w => some (place 0x0B000000 [(d.toNat, 20), (a.toNat, 16), (b.toNat, 12), (g.toNat, 8), (w.toNat, 0)])
  | .shr d a b g w => some (place 0x0C000000 [(d.toNat, 20), (a.toNat, 16), (b.toNat, 12), (g.toNat, 8), (w.toNat, 0)])
  | .sra d a b g w => some (place 0x0D000000 [(d.toNat, 20), (a.toNat, 16), (b.toNat, 12), (g.toNat, 8), (w.toNat, 0)])
  | .rol d a b g w => some (place 0x0E000000 [(d.toNat, 20), (a.toNat, 16), (b.toNat, 12), (g.toNat, 8), (w.toNat, 0)])
  | .min d a b g u w => some (place 0x0F000000 [(d.toNat, 20), (a.toNat, 16), (b.toNat, 12), (g.toNat, 8), (u.toNat, 1), (w.toNat, 0)])
  | .max d a b g u w => some (place 0x10000000 [(d.toNat, 20), (a.toNat, 16), (b.toNat, 12), (g.toNat, 8), (u.toNat, 1), (w.toNat, 0)])
  | .clz d a g => some (place 0x11000000 [(d.toNat, 20), (a.toNat, 16), (g.toNat, 8)])
  | .popc d a g => some (place 0x12000000 [(d.toNat, 20), (a.toNat, 16), (g.toNat, 8)])
  | .extr d a b g => some (place 0x13000000 [(d.toNat, 20), (a.toNat, 16), (b.toNat, 12), (g.toNat, 8)])
  | .ins d a b g => some (place 0x14000000 [(d.toNat, 20), (a.toNat, 16), (b.toNat, 12), (g.toNat, 8)])
  | .sel d a b g c => some (place 0x15000000 [(d.toNat, 20), (a.toNat, 16), (b.toNat, 12), (g.toNat, 8), (c.toNat, 0)])
  | .cmp d a b g c => some (place 0x16000000 [(d.toNat, 20), (a.toNat, 16), (b.toNat, 12), (g.toNat, 8), (c.toNat, 0)])
  | .plog d a b g l => some (place 0x17000000 [(d.toNat, 20), (a.toNat, 16), (b.toNat, 12), (g.toNat, 8), (l.toNat, 0)])
  | .addi d a i => some (place 0x18000000 [(d.toNat, 20), (a.toNat, 16), (i.toNat, 0)])
  | .andi d a i => some (place 0x19000000 [(d.toNat, 20), (a.toNat, 16), (i.toNat, 0)])
  | .ori d a i => some (place 0x1A000000 [(d.toNat, 20), (a.toNat, 16), (i.toNat, 0)])
  | .xori d a i => some (place 0x1B000000 [(d.toNat, 20), (a.toNat, 16), (i.toNat, 0)])
  | .shfi d a k n => some (place 0x1C000000 [(d.toNat, 20), (a.toNat, 16), (k.toNat, 6), (n.toNat, 0)])
  | .cmpi d a c i => some (place 0x1D000000 [(d.toNat, 20), (a.toNat, 16), (c.toNat, 12), (i.toNat, 0)])
  | .movi d i => some (place 0x1E000000 [(d.toNat, 20), (i.toNat, 0)])
  | .movk d h i => some (place 0x1F000000 [(d.toNat, 20), (h.toNat, 16), (i.toNat, 0)])
  | .fadd d a b g r s => some (place 0x20000000 [(d.toNat, 20), (a.toNat, 16), (b.toNat, 12), (g.toNat, 8), (r.toNat, 1), (s.toNat, 0)])
  | .fsub d a b g r s => some (place 0x21000000 [(d.toNat, 20), (a.toNat, 16), (b.toNat, 12), (g.toNat, 8), (r.toNat, 1), (s.toNat, 0)])
  | .fmul d a b g r s => some (place 0x22000000 [(d.toNat, 20), (a.toNat, 16), (b.toNat, 12), (g.toNat, 8), (r.toNat, 1), (s.toNat, 0)])
  | .fma d a b g r s => some (place 0x23000000 [(d.toNat, 20), (a.toNat, 16), (b.toNat, 12), (g.toNat, 8), (r.toNat, 1), (s.toNat, 0)])
  | .fdiv d a b g r s => some (place 0x24000000 [(d.toNat, 20), (a.toNat, 16), (b.toNat, 12), (g.toNat, 8), (r.toNat, 1), (s.toNat, 0)])
  | .fsqrt d a g r s => some (place 0x25000000 [(d.toNat, 20), (a.toNat, 16), (g.toNat, 8), (r.toNat, 1), (s.toNat, 0)])
  | .fmin d a b g r s => some (place 0x26000000 [(d.toNat, 20), (a.toNat, 16), (b.toNat, 12), (g.toNat, 8), (r.toNat, 1), (s.toNat, 0)])
  | .fmax d a b g r s => some (place 0x27000000 [(d.toNat, 20), (a.toNat, 16), (b.toNat, 12), (g.toNat, 8), (r.toNat, 1), (s.toNat, 0)])
  | .fcmp d a b g c s => some (place 0x28000000 [(d.toNat, 20), (a.toNat, 16), (b.toNat, 12), (g.toNat, 8), (c.toNat, 4), (s.toNat, 0)])
  | .fcvt d a g r v => some (place 0x29000000 [(d.toNat, 20), (a.toNat, 16), (g.toNat, 8), (r.toNat, 4), (v.toNat, 0)])
  | .fclass d a g s => some (place 0x2A000000 [(d.toNat, 20), (a.toNat, 16), (g.toNat, 8), (s.toNat, 0)])
  | .fld d i s t p => some (place 0x30000000 [(d.toNat, 20), (i.toNat, 16), (s.toNat, 4), (t.toNat, 3), (p.toNat, 0)])
  | .fst x i s p => some (place 0x31000000 [(x.toNat, 20), (i.toNat, 16), (s.toNat, 4), (p.toNat, 0)])
  | .fclr i s p => some (place 0x32000000 [(i.toNat, 16), (s.toNat, 4), (p.toNat, 0)])
  | .ftst d i s p => some (place 0x33000000 [(d.toNat, 20), (i.toNat, 16), (s.toNat, 4), (p.toNat, 0)])
  | .send v c k e l g => some (place 0x34000000 [(v.toNat, 20), (c.toNat, 16), (k.toNat, 8), (e.toNat, 6), (l.toNat, 4), (g.toNat, 0)])
  | .sendd a b c e l g => some (place 0x35000000 [(a.toNat, 20), (b.toNat, 16), (c.toNat, 12), (e.toNat, 6), (l.toNat, 4), (g.toNat, 0)])
  | .mkc d c k f g => some (place 0x36000000 [(d.toNat, 20), (c.toNat, 16), (k.toNat, 8), (f.toNat, 7), (g.toNat, 0)])
  | .swch v i k e l g => some (place 0x37000000 [(v.toNat, 20), (i.toNat, 16), (k.toNat, 8), (e.toNat, 6), (l.toNat, 4), (g.toNat, 0)])
  | .falloc a c r l g => some (place 0x38000000 [(a.toNat, 20), (c.toNat, 12), (r.toNat, 7), (l.toNat, 4), (g.toNat, 0)])
  | .ffree a g => some (place 0x39000000 [(a.toNat, 20), (g.toNat, 0)])
  | .join d i s p => some (place 0x3A000000 [(d.toNat, 20), (i.toNat, 16), (s.toNat, 4), (p.toNat, 0)])
  | .brf g o => some (place 0x3B000000 [(g.toNat, 16), (o.toNat, 8)])
  | .fend g => some (place 0x3C000000 [(g.toNat, 8)])
  | .tnew d a g f => some (place 0x40000000 [(d.toNat, 20), (a.toNat, 16), (g.toNat, 8), (f.toNat, 0)])
  | .tseal a g => some (place 0x41000000 [(a.toNat, 16), (g.toNat, 8)])
  | .tdup a b g => some (place 0x42000000 [(a.toNat, 16), (b.toNat, 12), (g.toNat, 8)])
  | .tdrop a g => some (place 0x43000000 [(a.toNat, 16), (g.toNat, 8)])
  | .tinfo d a g s => some (place 0x44000000 [(d.toNat, 20), (a.toNat, 16), (g.toNat, 8), (s.toNat, 0)])
  | .hld x i s p => some (place 0x45000000 [(x.toNat, 20), (i.toNat, 16), (s.toNat, 4), (p.toNat, 0)])
  | .hst a b c n r v g => some (place 0x46000000 [(a.toNat, 20), (b.toNat, 16), (c.toNat, 12), (n.toNat, 9), (r.toNat, 5), (v.toNat, 4), (g.toNat, 0)])
  | .tchk d a g => some (place 0x47000000 [(d.toNat, 20), (a.toNat, 16), (g.toNat, 8)])
  | .ldg x i s p => some (place 0x50000000 [(x.toNat, 20), (i.toNat, 16), (s.toNat, 4), (p.toNat, 0)])
  | .stg a b c g => some (place 0x51000000 [(a.toNat, 20), (b.toNat, 16), (c.toNat, 12), (g.toNat, 0)])
  | .ldch x i s p => some (place 0x52000000 [(x.toNat, 20), (i.toNat, 16), (s.toNat, 4), (p.toNat, 0)])
  | .amo x i s p => some (place 0x53000000 [(x.toNat, 20), (i.toNat, 16), (s.toNat, 4), (p.toNat, 0)])
  | .rel c s g => some (place 0x54000000 [(c.toNat, 12), (s.toNat, 4), (g.toNat, 0)])
  | .acq a c g => some (place 0x55000000 [(a.toNat, 20), (c.toNat, 12), (g.toNat, 0)])
  | .acqa c s g => some (place 0x56000000 [(c.toNat, 12), (s.toNat, 4), (g.toNat, 0)])
  | .bars a b c r g => some (place 0x60000000 [(a.toNat, 20), (b.toNat, 16), (c.toNat, 12), (r.toNat, 4), (g.toNat, 0)])
  | .bara a b c g => some (place 0x61000000 [(a.toNat, 20), (b.toNat, 16), (c.toNat, 12), (g.toNat, 0)])
  | .watch a c g => some (place 0x62000000 [(a.toNat, 20), (c.toNat, 12), (g.toNat, 0)])
  | .wdrop a g => some (place 0x63000000 [(a.toNat, 20), (g.toNat, 0)])
  | .time d g => some (place 0x64000000 [(d.toNat, 20), (g.toNat, 8)])
  | .cropen d a g => some (place 0x70000000 [(d.toNat, 20), (a.toNat, 16), (g.toNat, 8)])
  | .crclose a c g => some (place 0x71000000 [(a.toNat, 20), (c.toNat, 12), (g.toNat, 0)])
  | .trap i => some (place 0x72000000 [(i.toNat, 0)])
  | .mfc d g n => some (place 0x73000000 [(d.toNat, 20), (g.toNat, 8), (n.toNat, 0)])
  | .mtc a g n => some (place 0x74000000 [(a.toNat, 16), (g.toNat, 8), (n.toNat, 0)])
  | .scrubrd d g w => some (place 0x75000000 [(d.toNat, 20), (g.toNat, 8), (w.toNat, 0)])
  | .qpost a c g => some (place 0x76000000 [(a.toNat, 20), (c.toNat, 12), (g.toNat, 0)])
  | .perf d g n => some (place 0x77000000 [(d.toNat, 20), (g.toNat, 8), (n.toNat, 0)])
  | .tload a c g => some (place 0x80000000 [(a.toNat, 20), (c.toNat, 12), (g.toNat, 0)])
  | .tstore a c k g => some (place 0x81000000 [(a.toNat, 20), (c.toNat, 12), (k.toNat, 4), (g.toNat, 0)])
  | .tcopy a c k g => some (place 0x82000000 [(a.toNat, 20), (c.toNat, 12), (k.toNat, 4), (g.toNat, 0)])
  | .tgath a c k g => some (place 0x83000000 [(a.toNat, 20), (c.toNat, 12), (k.toNat, 4), (g.toNat, 0)])
  | .tscat a c k g => some (place 0x84000000 [(a.toNat, 20), (c.toNat, 12), (k.toNat, 4), (g.toNat, 0)])
  | .tfill a c g => some (place 0x85000000 [(a.toNat, 20), (c.toNat, 12), (g.toNat, 0)])
  | .mwld a c h k g => some (place 0x88000000 [(a.toNat, 20), (c.toNat, 12), (h.toNat, 5), (k.toNat, 4), (g.toNat, 0)])
  | .macc a c h k g => some (place 0x89000000 [(a.toNat, 20), (c.toNat, 12), (h.toNat, 5), (k.toNat, 4), (g.toNat, 0)])
  | .mrun a c h k g => some (place 0x8A000000 [(a.toNat, 20), (c.toNat, 12), (h.toNat, 5), (k.toNat, 4), (g.toNat, 0)])
  | .mdrain a c h g => some (place 0x8B000000 [(a.toNat, 20), (c.toNat, 12), (h.toNat, 5), (g.toNat, 0)])
  | .rset a c g => some (place 0x90000000 [(a.toNat, 20), (c.toNat, 12), (g.toNat, 0)])
  | .rfeed a c k g => some (place 0x91000000 [(a.toNat, 20), (c.toNat, 12), (k.toNat, 4), (g.toNat, 0)])
  | .vrun a b c g => some (place 0x98000000 [(a.toNat, 20), (b.toNat, 16), (c.toNat, 12), (g.toNat, 0)])
  | .vloop l c n => some (place 0xC0000000 [(l.toNat, 22), (c.toNat, 8), (n.toNat, 0)])
  | .vld d n => some (place 0xC2000000 [(d.toNat, 19), (n.toNat, 14)])
  | .vst n a k => some (place 0xC3000000 [(n.toNat, 19), (a.toNat, 14), (k.toNat, 6)])
  | .vmov d a k w => some (place 0xC4000000 [(d.toNat, 19), (a.toNat, 14), (k.toNat, 6), (w.toNat, 4)])
  | .vmovs d n k p => some (place 0xC5000000 [(d.toNat, 19), (n.toNat, 14), (k.toNat, 6), (p.toNat, 0)])
  | .viota d k w => some (place 0xC6000000 [(d.toNat, 19), (k.toNat, 6), (w.toNat, 4)])
  | .vsel d a b k w => some (place 0xC7000000 [(d.toNat, 19), (a.toNat, 14), (b.toNat, 9), (k.toNat, 6), (w.toNat, 4)])
  | .vadd d a b k t s u => some (place 0xC8000000 [(d.toNat, 19), (a.toNat, 14), (b.toNat, 9), (k.toNat, 6), (t.toNat, 4), (s.toNat, 3), (u.toNat, 2)])
  | .vsub d a b k t s u => some (place 0xC9000000 [(d.toNat, 19), (a.toNat, 14), (b.toNat, 9), (k.toNat, 6), (t.toNat, 4), (s.toNat, 3), (u.toNat, 2)])
  | .vmul d a b k t s u => some (place 0xCA000000 [(d.toNat, 19), (a.toNat, 14), (b.toNat, 9), (k.toNat, 6), (t.toNat, 4), (s.toNat, 3), (u.toNat, 2)])
  | .vmad d a b k t s u => some (place 0xCB000000 [(d.toNat, 19), (a.toNat, 14), (b.toNat, 9), (k.toNat, 6), (t.toNat, 4), (s.toNat, 3), (u.toNat, 2)])
  | .vand d a b k t => some (place 0xCC000000 [(d.toNat, 19), (a.toNat, 14), (b.toNat, 9), (k.toNat, 6), (t.toNat, 4)])
  | .vor d a b k t => some (place 0xCD000000 [(d.toNat, 19), (a.toNat, 14), (b.toNat, 9), (k.toNat, 6), (t.toNat, 4)])
  | .vxor d a b k t => some (place 0xCE000000 [(d.toNat, 19), (a.toNat, 14), (b.toNat, 9), (k.toNat, 6), (t.toNat, 4)])
  | .vshl d a b k t => some (place 0xCF000000 [(d.toNat, 19), (a.toNat, 14), (b.toNat, 9), (k.toNat, 6), (t.toNat, 4)])
  | .vshr d a b k t u => some (place 0xD0000000 [(d.toNat, 19), (a.toNat, 14), (b.toNat, 9), (k.toNat, 6), (t.toNat, 4), (u.toNat, 2)])
  | .vmin d a b k t u => some (place 0xD1000000 [(d.toNat, 19), (a.toNat, 14), (b.toNat, 9), (k.toNat, 6), (t.toNat, 4), (u.toNat, 2)])
  | .vmax d a b k t u => some (place 0xD2000000 [(d.toNat, 19), (a.toNat, 14), (b.toNat, 9), (k.toNat, 6), (t.toNat, 4), (u.toNat, 2)])
  | .vabs d a k t s => some (place 0xD3000000 [(d.toNat, 19), (a.toNat, 14), (k.toNat, 6), (t.toNat, 4), (s.toNat, 3)])
  | .vcmp d a b k t c => some (place 0xD4000000 [(d.toNat, 19), (a.toNat, 14), (b.toNat, 9), (k.toNat, 6), (t.toNat, 4), (c.toNat, 0)])
  | .vfadd d a b k t r => some (place 0xD5000000 [(d.toNat, 19), (a.toNat, 14), (b.toNat, 9), (k.toNat, 6), (t.toNat, 4), (r.toNat, 0)])
  | .vfsub d a b k t r => some (place 0xD6000000 [(d.toNat, 19), (a.toNat, 14), (b.toNat, 9), (k.toNat, 6), (t.toNat, 4), (r.toNat, 0)])
  | .vfmul d a b k t r => some (place 0xD7000000 [(d.toNat, 19), (a.toNat, 14), (b.toNat, 9), (k.toNat, 6), (t.toNat, 4), (r.toNat, 0)])
  | .vfma d a b k t r => some (place 0xD8000000 [(d.toNat, 19), (a.toNat, 14), (b.toNat, 9), (k.toNat, 6), (t.toNat, 4), (r.toNat, 0)])
  | .vfmin d a b k t => some (place 0xD9000000 [(d.toNat, 19), (a.toNat, 14), (b.toNat, 9), (k.toNat, 6), (t.toNat, 4)])
  | .vfmax d a b k t => some (place 0xDA000000 [(d.toNat, 19), (a.toNat, 14), (b.toNat, 9), (k.toNat, 6), (t.toNat, 4)])
  | .vfabs d a k t => some (place 0xDB000000 [(d.toNat, 19), (a.toNat, 14), (k.toNat, 6), (t.toNat, 4)])
  | .vfcmp d a b k t c => some (place 0xDC000000 [(d.toNat, 19), (a.toNat, 14), (b.toNat, 9), (k.toNat, 6), (t.toNat, 4), (c.toNat, 0)])
  | .vrcp d a k => some (place 0xDD000000 [(d.toNat, 19), (a.toNat, 14), (k.toNat, 6)])
  | .vrsq d a k => some (place 0xDE000000 [(d.toNat, 19), (a.toNat, 14), (k.toNat, 6)])
  | .vexp2 d a k => some (place 0xDF000000 [(d.toNat, 19), (a.toNat, 14), (k.toNat, 6)])
  | .vlog2 d a k => some (place 0xE0000000 [(d.toNat, 19), (a.toNat, 14), (k.toNat, 6)])
  | .vsin d a k => some (place 0xE1000000 [(d.toNat, 19), (a.toNat, 14), (k.toNat, 6)])
  | .vcos d a k => some (place 0xE2000000 [(d.toNat, 19), (a.toNat, 14), (k.toNat, 6)])
  | .vtanh d a k => some (place 0xE3000000 [(d.toNat, 19), (a.toNat, 14), (k.toNat, 6)])
  | .vcvt d a c k n r => some (place 0xE5000000 [(d.toNat, 19), (a.toNat, 14), (c.toNat, 9), (k.toNat, 6), (n.toNat, 4), (r.toNat, 0)])
  | .vpack d a s p => some (place 0xE6000000 [(d.toNat, 19), (a.toNat, 14), (s.toNat, 4), (p.toNat, 0)])
  | .vunpk d a s p => some (place 0xE7000000 [(d.toNat, 19), (a.toNat, 14), (s.toNat, 4), (p.toNat, 0)])
  | .vbscl d a b k t => some (place 0xE8000000 [(d.toNat, 19), (a.toNat, 14), (b.toNat, 9), (k.toNat, 6), (t.toNat, 4)])
  | .vqnt d a b k t r => some (place 0xE9000000 [(d.toNat, 19), (a.toNat, 14), (b.toNat, 9), (k.toNat, 6), (t.toNat, 4), (r.toNat, 0)])
  | .vred d a o k t r => some (place 0xEA000000 [(d.toNat, 19), (a.toNat, 14), (o.toNat, 11), (k.toNat, 6), (t.toNat, 4), (r.toNat, 0)])
  | .vscan d a o k t r => some (place 0xEB000000 [(d.toNat, 19), (a.toNat, 14), (o.toNat, 11), (k.toNat, 6), (t.toNat, 4), (r.toNat, 0)])
  | .vperm d a b k w => some (place 0xEC000000 [(d.toNat, 19), (a.toNat, 14), (b.toNat, 9), (k.toNat, 6), (w.toNat, 4)])
  | .vbcst d a k w => some (place 0xED000000 [(d.toNat, 19), (a.toNat, 14), (k.toNat, 6), (w.toNat, 4)])
  | .vsld d a b k s => some (place 0xEE000000 [(d.toNat, 19), (a.toNat, 14), (b.toNat, 9), (k.toNat, 6), (s.toNat, 0)])
  | .vbfly d a b k t r => some (place 0xEF000000 [(d.toNat, 20), (a.toNat, 14), (b.toNat, 9), (k.toNat, 6), (t.toNat, 4), (r.toNat, 0)])
  | .vtwid d a k n => some (place 0xF0000000 [(d.toNat, 19), (a.toNat, 14), (k.toNat, 6), (n.toNat, 0)])
  | .vcmul d a b k t r => some (place 0xF1000000 [(d.toNat, 19), (a.toNat, 14), (b.toNat, 9), (k.toNat, 6), (t.toNat, 4), (r.toNat, 0)])
  | .vmset d a w => some (place 0xF2000000 [(d.toNat, 19), (a.toNat, 14), (w.toNat, 4)])
  | .vmsetZero d => some (place 0xF2000001 [(d.toNat, 19)])
  | .vmsetOnes d => some (place 0xF2000002 [(d.toNat, 19)])
  | .vmlog d a b l => some (place 0xF3000000 [(d.toNat, 19), (a.toNat, 14), (b.toNat, 9), (l.toNat, 0)])
  | .vend => some (place 0xF4000000 [])
  | .tokenArrival _ _ _ => none
  | .spillReturn _ _ => none
  | .matcherTake _ => none
  | .imageFetchDone _ _ => none
  | .laneTake _ => none
  | .readyPromotion _ _ => none
  | .laneStallEnd _ => none
  | .engineQueueRoom _ => none
  | .fallocRequest _ _ _ => none
  | .ffreeMessage _ _ _ => none
  | .countMessage _ _ _ => none
  | .heapBlockZero _ => none
  | .remoteHeapRequest _ _ _ => none
  | .producerReply _ => none
  | .barrierMessage _ _ _ => none
  | .wakeValue _ _ => none
  | .regionIdRecord _ _ => none
  | .copyTake _ => none
  | .matrixTake _ => none
  | .mwldBankFree _ => none
  | .accumulatorHazardEnd _ => none
  | .drainRowAccepted _ => none
  | .reducerTake _ => none
  | .reducerRow _ _ => none
  | .vrunTake _ => none
  | .streamTokenArrival _ _ _ => none
  | .vldRowReady _ => none
  | .kernelEnd _ => none
  | .commandComplete _ _ => none
  | .logEntryAppend _ _ => none
  | .storeRingSpace _ => none
  | .logFull _ => none
  | .publishMessage _ _ => none
  | .segmentReplay _ => none
  | .shadowPageReturn _ => none
  | .loadServe _ _ => none
  | .scStoreApply _ => none
  | .amoPerform _ => none
  | .ldchHop _ => none
  | .acqComplete _ => none
  | .acqaMarker _ _ => none
  | .releaseAccepted _ => none
  | .peerStoreArrival _ _ _ _ => none
  | .peerAck _ => none
  | .endOfGraphRelease _ _ => none
  | .translationWalk _ _ => none
  | .hostWindowWrite _ _ _ => none
  | .hostWindowRead _ _ _ => none
  | .qNotify _ _ _ => none
  | .qEnable _ _ _ => none
  | .qDisable _ _ _ => none
  | .qReset _ _ _ => none
  | .ringRestart _ _ _ => none
  | .faultResume _ _ => none
  | .faultAbort _ _ => none
  | .registerWrite _ _ _ => none
  | .queueFetch _ _ => none
  | .launch _ _ => none
  | .ibcall _ _ => none
  | .predP _ _ => none
  | .loopP _ _ => none
  | .ffence _ _ => none
  | .wake _ _ => none
  | .signal _ _ => none
  | .waitv _ _ => none
  | .waitvPoll _ _ => none
  | .timestamp _ _ => none
  | .nopp _ _ => none
  | .hcopy _ _ => none
  | .drain _ _ => none
  | .barWaitEnd _ _ => none
  | .launchPlacement _ => none
  | .instanceStart _ _ => none
  | .segmentMove _ _ _ _ => none
  | .loadAdvance _ _ => none
  | .returnToken _ _ => none
  | .instanceComplete _ _ => none
  | .qpostRequest _ _ => none
  | .grant _ => none
  | .takeback _ => none
  | .freeze _ => none
  | .freezeComplete _ => none
  | .freezeTimeout _ => none
  | .thaw _ => none
  | .save _ => none
  | .restore _ => none
  | .keyload _ => none
  | .keyclear _ => none
  | .invalidate _ => none
  | .dirty _ => none
  | .exportq _ => none
  | .importq _ => none
  | .halt _ => none
  | .shadowadd _ => none
  | .shadowtake _ => none
  | .ringpool _ => none
  | .mgmtBadCommand _ => none
  | .scrubDone _ => none
  | .sarSign _ => none
  | .flr _ => none
  | .regionFailureReport _ _ => none
  | .regionFailureApply _ _ => none
  | .regionFailedDelivery _ _ _ => none
  | .regionCloseProceed _ _ _ => none
  | .watchdogExpiry _ _ => none
  | .deadlockDetect _ _ => none
  | .powerUp => none
  | .throttle _ _ => none
  | .thermalCutoff => none
  | .hopRetry _ _ => none
  | .hopFailed _ _ => none
  | .ringLaneLost _ _ _ => none
  | .ringRetrainDone _ => none
  | .ringLinkLost _ => none
  | .septordResend _ => none
  | .septordPortLost _ => none
  | .septordLaneLost _ _ => none
  | .resultCommit _ => none
  | .strikeRollback _ _ => none
  | .timeLock _ => none
  | .timeLockLost => none
  | .ckptStart _ => none
  | .ckptEnd _ => none
  | .illegalOp _ => none
  | .powerLoss => none

/-- The word of an instruction; a step that has no encoding has none. -/
def encode (i : Instr) : Option IWord := (encodeNat i).map (BitVec.ofNat 32)

end Sys2Proof
end

