-- ==== Sys2Proof/Config.lean ====
section
/-! DEFINITION. What the spec fixes for the module as a whole, and the free values: opaque constants
with no body, applied to what they depend on, for every value the spec leaves open. -/

namespace Sys2Proof.Config

/-! ## Fixed figures -/

/-- Dies of the module (R7). -/
def dies : Nat := 8
/-- Cells of a die (R8). -/
def cellsPerDie : Nat := 256
/-- Cells of the module (R20). -/
def cells : Nat := 2048
/-- Sender and receiver number of the front end in packets (the model's own). -/
def frontEnd : Nat := 2048
/-- Sender and receiver number of the attachment of edge cell 0 in packets; that of another edge cell is as much higher (the model's own). -/
def attach : Nat := 4096
/-- Slots of a frame store (R30). -/
def frameSlots : Nat := 32768
/-- Entries of a token input queue (R27). -/
def inputQueue : Nat := 512
/-- Ready-queue entries for new firings (R53). -/
def readyNew : Nat := 256
/-- ac a ready entry waits before it is promoted (R53). -/
def promoteAc : Nat := 2048
/-- On-chip suspension records (R38). -/
def chipRecords : Nat := 64
/-- Tile-table entries (R197). -/
def tileEntries : Nat := 4096
/-- Heap blocks of a cell (R197). -/
def heapBlocks : Nat := 2048
/-- The commit delay D in ac (R356). -/
def commitDelay : Nat := 160
/-- ac a store waits on a ring of unpublished entries (R90). -/
def logFullAc : Nat := 2 ^ 20
/-- ac without a firing before deadlock detection (R334). -/
def deadlockAc : Nat := 2 ^ 24
/-- ac after which a freeze times out (R327). -/
def freezeAc : Nat := 2 ^ 20
/-- Flits and headers of a stream-port buffer (R271). -/
def portFlits : Nat := 32
/-- Rows of the reducer's matching store (R253). -/
def matchRows : Nat := 32
/-- Open products of a cell (R244). -/
def products : Nat := 16
/-- Descriptors the layout unit keeps for a context (R74). -/
def descriptors : Nat := 64
/-- Live launches of a queue (R303). -/
def liveLaunches : Nat := 64
/-- Launches the device queue holds (R309). -/
def deviceQueue : Nat := 64
/-- Number under which the device queue stands among a function's queues (the model's own). -/
def devq : Nat := 4096
/-- Words fetched ahead of the parse pointer at each depth (R304). -/
def fetchAhead : Nat := 512
/-- nc between two reads of a WAITV (R302). -/
def waitvNc : Nat := 1024
/-- IA of the return continuation (R305). -/
def returnIA : Nat := 0x3FFF

/-- Power in W that the module never exceeds (R21). -/
def tdp : Nat := 2800
/-- Bytes of a stack (R14). -/
def stackBytes : Nat := 48 * 2 ^ 30
/-- Entries of a cell's L1 TLB (R11). -/
def cellTlb : Nat := 192
/-- Entries of a die's last-level TLB (R15). -/
def dieTlb : Nat := 24576
/-- Walks and parked requests of a die's walkers (R15, R320). -/
def walkers : Nat := 192
/-- Bytes of a die's Cupboard (R15). -/
def cupboardBytes : Nat := 16 * 2 ^ 20
/-- Packets of a Septord port's window (R350). -/
def septordWindow : Nat := 1024
/-- Network-clock cycles without an acknowledgement after which a Septord port is lost (R350). -/
def septordLimit : Nat := 2 ^ 16
/-- Bytes of a cell's codelet store (R11). -/
def codeletStore : Nat := 65536

/-! ## Free values -/

/-- A byte read under a key id other than the one that wrote it (R73): written under the first key,
read under the second, at an address. The spec fixes it only up to AES-256-XTS with those keys. -/
opaque crossKey : BitVec 512 → BitVec 512 → Nat → Byte → Byte

/-- Which of the values that an element had between the issue of a command and its reading the command takes (R206): by the
command's serial number and the element. -/
opaque lateRead : Nat → Nat → Nat

/-- A byte that HCOPY reads in a granule whose storage is uncorrectable (R302, R355): at an address. -/
opaque badByte : Nat → Byte

/-- The ML-DSA-65 signature bytes of a scrub attestation record (R331): its words and a byte number. -/
opaque signature : List Word → Nat → Byte

/-- Words 10 to 13 of a scrub attestation record, the firmware digest (R331). -/
opaque firmwareDigest : Nat → Word

/-- Bytes of the device certificate chain and its length (R366). -/
opaque deviceCert : Nat → Byte
/-- Length of the device certificate chain in bytes (R366). -/
opaque deviceCertLen : BitVec 14

/-- The header of a Septord packet, which no rule lays out (R350): by port, sequence number, operation and piece. -/
opaque septordHeader : Nat → BitVec 12 → Nat → Nat → List Byte
/-- The flits of a Septord packet that carries a request for a load, which no rule lays out (R350): by the same. -/
opaque septordFlits : Nat → BitVec 12 → Nat → Nat → List Byte

/-- The packet of a port's window that a receiver asks for again, by its place (R350): at the n-th resend. -/
opaque septordFails : Nat → Nat

/-- Whether a failing hop holds the k-th of the packets whose path crosses it (R344): at the n-th failure. -/
opaque hopHolds : Nat → Nat → Bool

/-- PWR_STATUS temperatures and power (R366): the n-th reading. -/
opaque powerStatus : Nat → Word

/-- The words of the body of a section of a save image, which no rule lays out (R328): by image, section and word. -/
opaque saveWord : Nat → Nat → Nat → Word
/-- How many words the body of a section of a save image has (R328): by image and section. -/
opaque saveLength : Nat → Nat → Nat

end Sys2Proof.Config
end

