-- ==== Sys2Proof/Machine/State.lean ====
section
/-! DEFINITION. The state of the module as plain data, its value after reset, and the reasons a step
can stop. Every structure's field defaults are its reset values (INVENTORY.md names the rule or the
log entry of each). Tables are keyed by number; an entry that is absent stands for the default. -/

namespace Sys2Proof.Machine

/-- Why the machine stops at a step. No meaning of this model ends in one today: every fault of the
spec is a record the machine itself delivers (R321 to R324), hence a next state. -/
inductive Fault where
  /-- the module has no power (R331, R365): raised by every step but POWER_UP after POWER_LOSS or a
  thermal cut-off. Safe: the spec describes no behaviour of a module without supply. -/
  | noPower
  deriving DecidableEq, Repr

/-- Why a step has no meaning in the model. -/
inductive Refusal where
  /-- an instruction the model does not give a meaning to; safe, the run stops by name -/
  | notModelled (mnemonic : String)
  deriving DecidableEq, Repr

/-- The fault codes of R322. -/
inductive FaultCode where
  | illegalOp | illegalContext | badHeader | badCont | slotTrap | slotConflict | frameBound | frameFree
  | handleStale | tileState | refcount | heapExhausted | shape | translation | permission | logFull
  | acqFailed | shadowExhausted | poison | linkLost | watchdog | hang | trap | regionFailed | privilege
  deriving DecidableEq, Repr

/-! ## Tokens, slots and firings (R22 to R43) -/

/-- A control token (R22). `faulty` marks a fault token of R323. -/
structure Token where
  cont : Word := 0
  val : Word := 0
  tag : Word := 0
  faulty : Bool := false
  /-- once it has arrived: the cell it came from (R26) -/
  src : Nat := 0
  deriving DecidableEq, Repr

/-- What a frame slot holds when it is not EMPTY (R36, R37). A slot with no entry is EMPTY. -/
inductive Slot where
  /-- FULL, with its value -/
  | full (v : Word)
  /-- DEFERRED, with the fields of its deferred-reader word; `word` is the suspension record's number -/
  | deferred (recd ia prio region : Nat)
  deriving DecidableEq, Repr

/-- A firing that waits for the lane (R41, R42, R53). `parked` tells a match from a monadic firing. -/
structure Fire where
  ctx : Nat := 0
  base : Nat := 0
  hdr : Nat := 0
  x1 : Word := 0
  x2 : Word := 0
  tag : Word := 0
  prio : Nat := 0
  faulty : Bool := false
  deriving DecidableEq, Repr

/-- What a ready-queue entry starts (R53). -/
inductive ReadyBody where
  | fresh (f : Fire)
  | resumed (recd : Nat)
  deriving DecidableEq, Repr

/-- A ready-queue entry: its class, the ac at which it entered the class, what it starts. -/
structure Ready where
  cls : Nat
  since : Nat
  body : ReadyBody
  deriving DecidableEq, Repr

/-- The registers of a firing (R42, R156): `x0` and `p0` are not stored. -/
structure Regs where
  x : Vector Word 16 := Vector.replicate 16 0
  p : Vector Bool 8 := Vector.replicate 8 false
  deriving DecidableEq, Repr

/-- What a firing is, beside its registers: the fields a suspension record keeps (R38) and the ones
the model adds to follow it (its header, its serial number, whether a fault token fired it). -/
structure Firing where
  ctx : Nat := 0
  tag : Word := 0
  base : Nat := 0
  hdr : Nat := 0
  ia : Nat := 0
  prio : Nat := 0
  faulty : Bool := false
  serial : Nat := 0
  /-- its context was killed or its region's failure was applied while it ran: what it issues from then
  on is discarded (R324, R326) -/
  dead : Bool := false
  deriving DecidableEq, Repr

/-- Who issued an operation: what its record, reply and faults carry (R193, R194, R321). -/
structure Issuer where
  cell : Nat := 0
  ctx : Nat := 0
  vcell : Nat := 0
  ia : Nat := 0
  tag : Word := 0
  base : Nat := 0
  prio : Nat := 0
  faulty : Bool := false
  /-- serial number of the issuing firing (R87, R217) -/
  serial : Nat := 0
  deriving DecidableEq, Repr

/-- A suspension record (R38): registers, firing, the slot it waits on, and the value once written. -/
structure SuspRec where
  regs : Regs := {}
  fir : Firing := {}
  slot : Nat := 0
  value : Option Word := none
  /-- frees that wait for the end of the firing (R189): frame base and who asked -/
  frees : List (Nat × Issuer) := []
  deriving DecidableEq, Repr

/-! ## Tiles and heap (R44 to R49, R197, R201, R238) -/

/-- A tile-table entry. `els` holds raw element bits by row-major index, absent ones zero. -/
structure Tile where
  /-- false: FREE -/
  live : Bool := false
  sealed : Bool := false
  /-- generations start at 1, so that a first handle is not the 0 that stands for none (R146) -/
  gen : BitVec 8 := 1
  ctx : Nat := 0
  fmt : Nat := 0
  rows : Nat := 1
  cols : Nat := 1
  count : Nat := 0
  inflight : Nat := 0
  /-- blocks held; they outlive a FREE entry while commands are in flight (R201) -/
  blocks : Nat := 0
  /-- region id of the firing that created it (R49) -/
  region : Nat := 0
  poison : Bool := false
  /-- unknown to software until its command completes (R237) -/
  hidden : Bool := false
  els : Tbl Word := []
  /-- elements whose storage is uncorrectable (R355) -/
  bad : List Nat := []
  /-- 64-byte block rows whose stored check value is not that of their bytes (R359) -/
  unchecked : List Nat := []
  /-- while commands that name the tile are in flight: an element, the serial number at which an HST or an engine wrote it, what it
  held before, and the command that wrote it, 0 for an HST (R206, R236) -/
  olds : List (Nat × Nat × Word × Nat) := []
  deriving DecidableEq, Repr

/-- The heap of a cell (R197): zeroed free blocks, freed blocks still to be zeroed, how many of those
are already allocated, and the tile table. -/
structure Heap where
  free : Nat := 2048
  zeroing : Nat := 0
  owed : Nat := 0
  tiles : Tbl Tile := []
  /-- old contents of freed entries that commands in flight still read (R201), by 256 × index + generation -/
  ghosts : Tbl Tile := []
  deriving DecidableEq, Repr

/-! ## Frames and contexts (R30 to R35, R54 to R60) -/

/-- A live frame (R32). `reserved` tells where it returns when freed (R59). -/
structure Frame where
  cls : Nat := 0
  level : Nat := 0
  region : Nat := 0
  reserved : Bool := false
  deriving DecidableEq, Repr

/-- A waiting frame request (R59, R188). -/
structure FrameReq where
  src : Nat := 0
  /-- frame base of the firing that asks -/
  base : Nat := 0
  reply : Word := 0
  tag : Word := 0
  region : Nat := 0
  faulty : Bool := false
  ia : Nat := 0
  deriving DecidableEq, Repr

/-- The frame pool of one loop level (R58, R59). -/
structure Pool where
  cls : Nat := 0
  max : Nat := 1
  reserve : Nat := 1
  /-- bases of the reserved frames -/
  places : List Nat := []
  live : Nat := 0
  queue : List FrameReq := []
  deriving DecidableEq, Repr

/-- The state of a containment region id as a cell's copy of the set records it (R224, R326). -/
inductive RegionMark where
  | opened
  | failed
  deriving DecidableEq, Repr

/-- The control registers software writes (R132, R144). -/
structure Ctl where
  faultc : Word := 0
  rmode : BitVec 3 := 0
  seed : Word := 0
  flags : BitVec 7 := 0
  prio : BitVec 2 := 1
  deriving DecidableEq, Repr

/-- One context slot of a cell. -/
structure Ctx where
  /-- the instance that holds the slot, by function and launch id -/
  inst : Option (Nat × Nat) := none
  /-- a released context stays resident until its slot is needed (R56) -/
  released : Bool := false
  part : Nat := 0
  tenant : BitVec 16 := 0xFFFF
  vcell : Nat := 0
  /-- the placement: physical cell of each vcell (R55) -/
  place : List Nat := []
  image : List IWord := []
  /-- the codelet image is in the codelet store (R29, R54) -/
  resident : Bool := true
  /-- on a cell that its load does not use, the image of the next load, and whether it is in the codelet store (R56, R307) -/
  ahead : Option (List IWord × Bool) := none
  areaStart : Nat := 0
  areaSize : Nat := 0
  frames : Tbl Frame := []
  /-- bases and regions of frames that a region's failure has freed (R326) -/
  lost : List (Nat × Nat) := []
  pools : Tbl Pool := []
  ctl : Ctl := {}
  outstanding : Nat := 0
  spill : List Token := []
  /-- spill-ring entries (R27) -/
  spillCap : Nat := 32768
  /-- region ids the cell records as open or failed -/
  regions : Tbl RegionMark := []
  /-- per-context performance counters by number (R230) -/
  perf : Tbl Word := []
  /-- the ac at which the context was loaded -/
  loadedAt : Nat := 0
  /-- tensor descriptors kept by the layout unit, most recently used first (R74) -/
  descs : List (Nat × List Word) := []
  /-- key of the context's sub-logs in every stack (R76): the model's own number -/
  log : Nat := 0
  /-- ring bytes of each of its sub-logs (R76) -/
  logSize : Nat := 262144
  /-- release sequence of the context's latest release (R82) -/
  rseq : BitVec 32 := 0
  /-- peer modules that hold acknowledged stores no system-scope release has published (R101) -/
  peersOut : List Nat := []
  /-- TIME results so far (R363) -/
  times : Nat := 0
  deriving DecidableEq, Repr

/-! ## Engine commands (R50, R145, R231 to R236) -/

/-- Which command a queue entry is. -/
inductive EngOp where
  | tload | tstore | tcopy | tgath | tscat | tfill | mwld | macc | mrun | mdrain | rset | rfeed | vrun
  deriving DecidableEq, Repr

/-- A queued engine command with its copied record (R145, R232, R260). -/
structure Cmd where
  uid : Nat := 0
  op : EngOp := .tload
  keep : Bool := false
  hi : Bool := false
  who : Issuer := {}
  /-- copied record slots 0 to 6 -/
  recw : List Word := []
  /-- slot 7 of the record, absolute -/
  statusSlot : Nat := 0
  cont : Option Word := none
  /-- tiles whose in-flight counts the command holds: index, generation, and whether it releases them -/
  named : List (Nat × BitVec 8 × Bool) := []
  /-- tiles it writes (R199) -/
  writes : List Nat := []
  rmode : BitVec 3 := 0
  seed : Word := 0
  prio : BitVec 2 := 0
  /-- VRUN: the kernel's header address, shape records of bindings 0 to 5 and parameters -/
  kernel : Nat := 0
  shapes : List (Option (List Word)) := []
  shapeSlots : List Nat := []
  params : List Word := []
  deriving DecidableEq, Repr

/-- A command in execution: what it has made so far and how it will end (R234, R235). -/
structure Run where
  cmd : Cmd := {}
  /-- the memory operation that carries its accesses, by id -/
  op : Option Nat := none
  /-- the tile it creates: cell, index, generation -/
  made : Option (Nat × Nat × BitVec 8) := none
  count : Nat := 0
  flags : BitVec 7 := 0
  poisoned : Bool := false
  failed : Option FaultCode := none
  /-- rows of a stream drain that have not been accepted: format, poison, tag, elements -/
  rows : List (Nat × Bool × BitVec 32 × List Word) := []
  /-- all its work is done and it waits to complete -/
  ready : Bool := false
  value : Word := 0
  /-- matrix commands: first accumulator row they write and how many (R245) -/
  span : Nat × Nat := (0, 0)
  /-- the operation that carries its accesses has been made (R74: its descriptor was read) -/
  opened : Bool := false
  /-- the first uncorrectable element that it met has been logged (R238) -/
  logged : Bool := false
  /-- a command of the matrix engine has been carried out: it has read its operands (R206, R245) -/
  worked : Bool := false
  /-- of a copy command that makes its tile on another cell: its request for the tile has been sent (R237) -/
  asked : Bool := false
  /-- the elements of its new tile, once they are known, where transfers fill it: none for a TCOPY, which reads each as it is sent (R206) -/
  out : Option (List Word) := none
  /-- transfers of its tile that it has made, and those that the tile's cell has acknowledged (R343, R347) -/
  passed : Nat := 0
  landed : Nat := 0
  deriving DecidableEq, Repr

/-! ## Matrix engine and reducer (R244 to R257) -/

/-- A weight bank (R244, R246). -/
structure Bank where
  valid : Bool := false
  fmt : Nat := 0
  k : Nat := 0
  n : Nat := 0
  mode : Nat := 0
  /-- weights W[k, n] by k × 64 + n, raw bits; CB2: codes by j × 64 + n -/
  w : Tbl Word := []
  /-- scales by row × 64 + column -/
  scales : Tbl Word := []
  scaleFmt : Nat := 0
  codebook : Tbl Word := []
  poison : Bool := false
  deriving DecidableEq, Repr

/-- An open product (R244, R250). -/
structure Product where
  ctx : Nat := 0
  pid : Nat := 0
  bank : Nat := 0
  float : Bool := true
  first : Nat := 0
  rows : Nat := 0
  deriving DecidableEq, Repr

/-- The matrix engine's state. -/
structure Matrix where
  mq0 : List Cmd := []
  mq1 : List Cmd := []
  /-- consecutive commands taken from MQ0 (R51) -/
  streak : Nat := 0
  wb0 : Bank := {}
  wb1 : Bank := {}
  /-- accumulator words by row × 64 + column -/
  acc : Tbl (BitVec 48) := []
  /-- accumulator rows with a poison mark -/
  marks : List Nat := []
  products : List Product := []
  /-- taken commands in take order, not yet complete; the head completes first -/
  runs : List Run := []
  /-- an MWLD held until the rows reading its bank have passed (R245) -/
  heldLoad : Option Cmd := none
  /-- a MACC, MDRAIN or MRUN that waits on accumulator rows (R245) -/
  heldRows : Option Cmd := none
  deriving DecidableEq, Repr

/-- A reduction in progress (R253 to R255). -/
structure Reduction where
  run : Run := {}
  n : Nat := 1
  rows : Nat := 1
  cols : Nat := 1
  port : Nat := 0
  start : BitVec 32 := 0
  float : Bool := true
  /-- inputs added so far per output row -/
  next : Tbl Nat := []
  /-- sum buffer by row × 64 + column -/
  sum : Tbl (BitVec 48) := []
  /-- early rows: place q in the tag order, format, poison, elements -/
  store : List (Nat × Nat × Bool × List Word) := []
  poisoned : Bool := false
  /-- all inputs added; output rows still to be delivered (stream kind) -/
  done : Bool := false
  /-- the last row came from the port -/
  lastPort : Bool := false
  deriving DecidableEq, Repr

/-- The reducer. -/
structure Reducer where
  queue : List Cmd := []
  cur : Option Reduction := none
  /-- the RFEED in execution and its next row -/
  feed : Option (Run × Nat) := none
  /-- commands that have ended their work and wait to complete -/
  ended : List Run := []
  /-- after a failed reduction: port, start tag, number of tags whose rows are discarded (R257) -/
  dead : List (Nat × BitVec 32 × Nat) := []
  deriving DecidableEq, Repr

/-! ## Vector unit and stream ports (R264 to R275) -/

/-- A row held by a stream port (R251, R271). -/
structure Row where
  ctx : Nat := 0
  fmt : Nat := 0
  poison : Bool := false
  tag : BitVec 32 := 0
  els : List Word := []
  deriving DecidableEq, Repr

/-- Who consumes a stream port (R253). -/
inductive Binding where
  | none
  | reducer
  | kernel
  deriving DecidableEq, Repr

/-- A stream port. -/
structure Port where
  rows : List Row := []
  bound : Binding := .none
  deriving DecidableEq, Repr

/-- What a kernel's input or output is (R267, R268). -/
structure Stream where
  /-- stream port number, or a tile: index and generation -/
  port : Option Nat := none
  tile : Nat := 0
  gen : BitVec 8 := 0
  made : Bool := false
  fmt : Nat := 0
  dims : List Nat := []
  strides : List Int := []
  base : Int := 0
  /-- elements popped or pushed so far -/
  pos : Nat := 0
  /-- output: an element has been written -/
  wrote : Bool := false
  deriving DecidableEq, Repr

/-- One loop level (R274). -/
structure Loop where
  lc : BitVec 32 := 0
  top : Nat := 0
  last : Nat := 0
  active : Bool := false
  deriving DecidableEq, Repr

/-- The vector unit (R264 to R292). -/
structure Vec where
  queue : List Cmd := []
  run : Option Run := none
  v : Vector (BitVec 2048) 32 := Vector.replicate 32 0
  /-- `m1` to `m7`; `m0` is not stored -/
  m : Vector (BitVec 256) 8 := Vector.replicate 8 0
  loops : Vector Loop 3 := Vector.replicate 3 {}
  /-- the loop buffer and the index of the next word -/
  buf : List IWord := []
  pc : Nat := 0
  ins : List (Option Stream) := []
  outs : List (Option Stream) := []
  gens : Vector (BitVec 32) 64 := Vector.replicate 64 0
  flags : BitVec 7 := 0
  /-- a VLD that waits for a row stopped here (R272) -/
  waiting : Bool := false
  /-- the kernel ran off its end or executed VEND and waits for KERNEL_END -/
  ended : Bool := false
  deriving DecidableEq, Repr

/-! ## Barriers and wake ports (R219 to R221) -/

/-- A named barrier (R219). -/
structure Barrier where
  arrivals : BitVec 32 := 0
  target : BitVec 32 := 0
  armed : Bool := false
  rep : Bool := false
  phase : BitVec 32 := 0
  cont : Word := 0
  tag : Word := 0
  owner : Nat := 0
  deriving DecidableEq, Repr

/-- A wake port (R221). -/
structure WakePort where
  armed : Bool := false
  cont : Word := 0
  tag : Word := 0
  latch : Option Word := none
  owner : Nat := 0
  deriving DecidableEq, Repr

/-! ## The lane and the cell (R11, R42, R156, R157) -/

/-- Why the lane is held at an instruction (R157). -/
inductive Stall where
  /-- network back-pressure: the instruction runs when it ends -/
  | net (i : Instr)
  /-- TNEW waits for blocks still to be zeroed: destination register, handle, blocks left -/
  | blocks (d : BitVec 4) (h : Word) (left : Nat)
  /-- TSEAL waits for the commands that write the tile: its index -/
  | seal (tile : Nat)
  /-- CROPEN waits for every cell to record the id: destination register and id -/
  | cropen (d : BitVec 4) (id : Nat)
  /-- a command waits for its full queue -/
  | queue (c : Cmd)
  deriving DecidableEq, Repr

/-- The codelet lane: the firing on it, its registers, whether it is held, what the FLD it resumes at
returns, and whether an FFREE of its own frame waits for its end (R189). -/
structure Lane where
  busy : Bool := false
  fir : Firing := {}
  regs : Regs := {}
  stall : Option Stall := none
  resume : Option Word := none
  /-- frames whose free takes effect when the firing ends, with who asked (R189) -/
  frees : List (Nat × Issuer) := []
  deriving DecidableEq, Repr

/-- A cached translation (R317): the tensor page or, without a tensor, the guest page. -/
structure TlbEntry where
  fn : Nat := 0
  /-- the die whose last-level TLB holds it, or whose cell does -/
  die : Nat := 0
  /-- tensor page-table root and tensor page number; none for a guest-physical entry -/
  root : Option (Nat × Nat) := none
  gpa : Nat := 0
  /-- bytes of the guest page or of the nested leaf -/
  bytes : Nat := 0
  pa : Nat := 0
  r : Bool := false
  w : Bool := false
  /-- guest-physical addresses of the table entries a tensor translation read -/
  uses : List Nat := []
  deriving DecidableEq, Repr

/-- What a firing has taken in and a rollback would take in again (R356, R357): its context, region and frame, when
it began, and whether the copy proves uncorrectable. -/
structure Retained where
  ctx : Nat := 0
  region : Nat := 0
  base : Nat := 0
  born : Nat := 0
  bad : Bool := false
  deriving DecidableEq, Repr

/-- One cell. -/
structure Cell where
  lane : Lane := {}
  ctxs : Tbl Ctx := []
  slots : Tbl Slot := []
  inq : List Token := []
  ready : List Ready := []
  recs : Tbl SuspRec := []
  heap : Heap := {}
  copyq : List Cmd := []
  copies : List Run := []
  matrix : Matrix := {}
  reducer : Reducer := {}
  vec : Vec := {}
  ports : Tbl Port := []
  barriers : Tbl Barrier := []
  wakes : Tbl WakePort := []
  /-- match slots whose parked value came with a fault token (R323) -/
  ftoks : List Nat := []
  /-- per-cell performance counters by number (R230) -/
  perf : Tbl Word := []
  /-- the L1 TLB, oldest entry first (R11, R317) -/
  tlb : List TlbEntry := []
  /-- inputs of firings whose results may not all have committed (R356) -/
  retained : List Retained := []
  /-- an ac, and the slots that tokens, status writes and replies reached in it (R180) -/
  touched : Nat × List Nat := (0, [])
  deriving DecidableEq, Repr

/-! ## The network (R340 to R356) -/

/-- What a packet carries. -/
inductive Payload where
  /-- a control token -/
  | token (t : Token)
  /-- a token to the return continuation, for the front end (R305) -/
  | ret (t : Token)
  /-- a FALLOC request: level and request (R188) -/
  | falloc (level : Nat) (r : FrameReq)
  /-- a remote FFREE of the frame at a base (R189) -/
  | ffree (base : Nat) (who : Issuer)
  /-- a count message: handle, amount, up or down (R48) -/
  | count (h : Word) (n : Nat) (up : Bool) (who : Issuer)
  /-- a remote HLD: handle, offset, the operation that waits for the element (R204) -/
  | hld (h : Word) (off : Word) (op : Nat) (who : Issuer)
  /-- a remote HST, which the owner rejects (R205) -/
  | hst (h : Word) (off : Word) (who : Issuer)
  /-- a BARA to another cell: index, arrivals, acknowledgement (R220) -/
  | bara (idx : Nat) (n : Nat) (cont : Option Word) (who : Issuer)
  /-- a wake value for a port, with the context it names (R221) and its packet: function, queue, number -/
  | wake (port ctx : Nat) (v : Word) (src : Nat × Nat × Nat)
  /-- a new region id (R224) -/
  | regionId (id : Nat)
  /-- a region failure on its way to vcell 0: the record, the failing firing's tag, and whether a fault token
  had fired it (R323, R325) -/
  | regionFail (id : Nat) (recd : List Word) (tag : Word) (faulty : Bool)
  /-- vcell 0's order to apply a region failure (R325) -/
  | regionApply (id : Nat)
  /-- a stream token for a port (R251), and the command that sent it -/
  | stream (port : Nat) (row : Row) (uid : Nat)
  /-- a posted launch for the device queue (R309): record words and issuer -/
  | qpost (recw : List Word) (cont : Word) (prio : Nat) (op : Nat) (who : Issuer)
  /-- the request of a piece of a memory operation, a log entry among them, on its way to a stack or a Septord port (R79, R101) -/
  | request (op piece : Nat) (who : Issuer)
  /-- a release's publish message, or an acquire's marker or question, to a stack (R82, R87, R88) -/
  | publish (op stack : Nat) (who : Issuer)
  /-- an interim publish message of a release that waits (R90) -/
  | interim (op stack : Nat) (who : Issuer)
  /-- the answer to a piece (R343) -/
  | answer (op piece : Nat) (who : Issuer)
  /-- a stack's acknowledgement of a message (R343) -/
  | ack (op stack : Nat) (who : Issuer)
  /-- the request of a copy command for its tile (R237): format, rows and columns -/
  | alloc (uid fmt rows cols : Nat) (who : Issuer)
  /-- its answer: the tile's index and generation, or HEAP_EXHAUSTED's detail (R197) -/
  | allocated (uid : Nat) (tile : Except Nat (Nat × BitVec 8)) (who : Issuer)
  /-- part of a tile's contents (R347): index and generation there, the first element and the elements -/
  | tile (uid index : Nat) (gen : BitVec 8) (first : Nat) (els : List Word) (who : Issuer)
  /-- its acknowledgement (R347) -/
  | tileAck (uid : Nat) (who : Issuer)
  deriving DecidableEq, Repr

/-- One hop of a path (R340, R342, R345). -/
inductive Hop where
  /-- from the router of a cell through its port 0 N, 1 S, 2 E or 3 W to the next router of the die -/
  | mesh (cell port : Nat)
  /-- from the router of an edge cell through its off-die port into the attachment there -/
  | off (cell : Nat)
  /-- over a ring link from the stop of a die, clockwise or counter-clockwise -/
  | ring (die : Nat) (cw : Bool)
  /-- from an attachment into the router of its edge cell -/
  | onto (cell : Nat)
  deriving DecidableEq, Repr

/-- The channels of a ring link for one partition (R345). -/
inductive Chan where
  | a | b | escape
  deriving DecidableEq, Repr

/-- A packet in flight. Packets of one source, destination, context and virtual network keep their
order (R26, R342). `src` and `dst` are physical cell numbers, 2048 for the front end, or 4096 and the number of an edge cell for the
attachment at its off-die port. -/
structure Packet where
  vn : Nat := 0
  src : Nat := 0
  dst : Nat := 0
  ctx : Nat := 0
  /-- partition class of its virtual channel: 0 to 7, or 8 for system traffic (R340, R343) -/
  part : Nat := 8
  /-- flits, 1 to 8 (R340) -/
  flits : Nat := 1
  /-- routed column first (R342) -/
  yx : Bool := false
  /-- the path chosen when it was sent, and the hops it has still to cross: none while its sender keeps it -/
  route : List Hop := []
  hops : Option (List Hop) := some []
  /-- the hop it crossed last, whose far input holds its flits, and its ring channel there (R343, R345) -/
  last : Option Hop := none
  chan : Chan := .a
  /-- of a longer packet than a ring packet: flits that have crossed the ring link of its next hop, and on which channel (R345) -/
  across : Nat := 0
  onward : Chan := .a
  /-- the direction around the ring that a TCOPY names for it, clockwise or not (R347) -/
  force : Option Bool := none
  /-- its payload's granule carries a poison mark, and the check values that go with its flits (R340, R359) -/
  poison : Bool := false
  chks : List (Option (BitVec 16)) := []
  /-- the flit of it that came in wrong at its next hop and has not been asked for again (R341) -/
  hurt : Option Nat := none
  /-- the flit that failed last on its next hop, and how often in a row (R341) -/
  tried : Nat × Nat := (0, 0)
  /-- left its agent's commit buffer (R356) -/
  committed : Bool := false
  /-- ac at which it was produced -/
  born : Nat := 0
  /-- the packet counts in its sender's outstanding operations until it is accepted (R57) -/
  counts : Bool := true
  /-- its acceptance also ends an operation of this cell: the FALLOC that a grant answers (R188) -/
  also : Option Nat := none
  /-- the token is the reply of an operation of this cell that completed when it was sent (R194, R220): until it is
  accepted the reply has not taken effect (R326) -/
  reply : Option Nat := none
  body : Payload
  deriving DecidableEq, Repr

/-! ## Memory operations (R78 to R98, R193, R208 to R217) -/

/-- What an operation at the memory port is. -/
inductive OpKind where
  | ldg | stg | ldch | amo
  | rel | acq | acqa | qpost
  /-- a remote HLD -/
  | hld
  /-- the accesses of a copy-engine command -/
  | cread | cwrite
  /-- a closing release of CRCLOSE on one cell (R225) or at the end of a graph (R64) -/
  | closing
  deriving DecidableEq, Repr

/-- How far the translation of a piece has got (R73, R318, R320). -/
inductive Xlate where
  | todo
  /-- parked under a fault id of a function's ring -/
  | parked (fn id : Nat)
  /-- it would park in a function's ring for an entry, and waits at its walker while its die parks 512 (R320) -/
  | stuck (fn entry : Nat)
  /-- translated: system-physical address of the piece, and the key slot -/
  | at (pa : Nat)
  /-- written to a shadow page: the page base (R92) -/
  | shadow (page : Nat)
  deriving DecidableEq, Repr

/-- How far the request of a piece has got (R13, R79): at its cell, on its way, at the stack or Septord port that performs it. -/
inductive Asked where
  | none | sent | there
  deriving DecidableEq, Repr

/-- One access of an operation inside one granule. -/
structure Piece where
  tid : Nat := 0
  tpn : Nat := 0
  /-- guest-physical address, once translated (R337) -/
  gpa : Nat := 0
  /-- byte offset in the tensor page, and length in bytes -/
  pgo : Nat := 0
  len : Nat := 0
  /-- row of a tile that it concerns, or elements of an LDG -/
  elem : Nat := 0
  nel : Nat := 0
  /-- bit offset of the first element in the first byte: 0 or 4 -/
  nib : Nat := 0
  /-- store: which of the granule's bytes are written; the piece is then the whole granule -/
  mask : Nat := 0
  /-- bytes to store or bytes loaded, `len` of them; of a granule that an engine reads, those that are uncorrectable, as a mask (R238) -/
  data : List Byte := []
  bad : Nat := 0
  xl : Xlate := .todo
  asked : Asked := .none
  /-- served where it is performed, or standing in its sub-log -/
  done : Bool := false
  /-- the answer has reached the cell -/
  back : Bool := false
  /-- of a peer tensor: the Septord port into whose window its packet went (R351) -/
  via : Option Nat := none
  /-- ac at which it found its ring full and began to wait (R90) -/
  wait : Option Nat := none
  /-- of a shadow page: the page it replaces (R92) -/
  old : Nat := 0
  deriving DecidableEq, Repr

/-- A split-phase operation from its issue to its end. -/
structure MemOp where
  id : Nat := 0
  kind : OpKind := .ldg
  who : Issuer := {}
  inst : Nat × Nat := (0, 0)
  /-- copied record, or the release token, or the region id -/
  recw : List Word := []
  val : Word := 0
  cont : Option Word := none
  slot : Option Nat := none
  sys : Bool := false
  /-- record, descriptor and shape have been checked and `pieces` made (R370) -/
  checked : Bool := false
  /-- the read of its descriptor is parked: ring's function and fault id (R74) -/
  dpark : Option (Nat × Nat) := none
  /-- the descriptor's words as they were read, and a copy command's rows by their first coordinates -/
  dw : List Word := []
  rows : List (List Nat) := []
  /-- what the check found: page-table root, attribute, key and, for a peer tensor, the module -/
  root : Nat := 0
  attr : Nat := 0
  key : BitVec 512 := 0
  peer : Option Nat := none
  pieces : List Piece := []
  /-- ids of the acquires it waits behind (R215) -/
  behind : List Nat := []
  /-- LDCH: hops done and current offset; loads: the value gathered -/
  hops : Nat := 0
  cur : Nat := 0
  /-- REL, ACQ, ACQA: the stacks concerned; those to which its message has been sent, at which it has arrived, which have
  performed it, and whose answer is back -/
  mask : BitVec 16 := 0
  told : BitVec 16 := 0
  there : BitVec 16 := 0
  pub : BitVec 16 := 0
  acked : BitVec 16 := 0
  /-- stacks to which an interim publish message of it is on its way or stands there (R90) -/
  interim : BitVec 16 := 0
  rseq : BitVec 32 := 0
  /-- a release: its mask and rseq are fixed; an SC store or AMO: its publication has been made -/
  opened : Bool := false
  /-- a system-scope release: peers that have not applied its outbound stores (R99) -/
  peers : List Nat := []
  /-- ACQA: how many segments each stack had still to apply when the marker arrived -/
  marks : Tbl Nat := []
  /-- first failure met: stack and rseq (R86) -/
  failed : Option (Nat × BitVec 32) := none
  /-- what has been found where it is performed and its answer brings: the reply's value, or the fault with its details (R193) -/
  result : Option Word := none
  fault : Option (FaultCode × Word × Word) := none
  /-- performed; the reply value waits to be delivered -/
  reply : Option Word := none
  /-- size code of the tensor's pages, for shadow pages -/
  psize : Nat := 0
  /-- a TSTORE: tensor pages that its box covers whole and that await the choice of path (R92), and
  those whose nested leaf fits the shadow path -/
  covered : List Nat := []
  fit : List Nat := []
  /-- flags to OR before the reply (R213) -/
  flags : BitVec 7 := 0
  /-- a release: the serial number at which its publish messages were formed (R79) -/
  sent : Nat := 0
  deriving DecidableEq, Repr

/-! ## Stacks (R76 to R94) -/

/-- What a log entry is (R77). -/
inductive EntryKind where
  | data | remap | void
  deriving DecidableEq, Repr

/-- A log entry (R77); `key` is the key under which its granule is written, none in a host or inbound log. -/
structure Entry where
  kind : EntryKind := .data
  data : BitVec 512 := 0
  mask : Word := 0
  gran : Nat := 0
  region : Nat := 0
  seq : BitVec 32 := 0
  check : BitVec 16 := 0
  key : Option (BitVec 512) := none
  /-- guest-physical address of what it writes (R337); REMAP: guest page, size code, function -/
  gpa : Nat := 0
  size : Nat := 0
  fn : Nat := 0
  /-- its storage is uncorrectable (R355) -/
  bad : Bool := false
  published : Bool := false
  /-- the model's own order of appending across sub-logs (R94) -/
  stamp : Nat := 0
  deriving DecidableEq, Repr

/-- A sub-log (R76, R82, R84, R86). -/
structure SubLog where
  /-- ring bytes -/
  size : Nat := 262144
  /-- entries from the oldest unreclaimed one to the tail -/
  entries : List Entry := []
  tail : BitVec 32 := 0
  applied : BitVec 32 := 0
  failedFrom : Option (BitVec 32) := none
  /-- the function whose log it is, and the src field of its entries (R77) -/
  fn : Nat := 0
  src : BitVec 16 := 0
  smod : BitVec 16 := 0
  /-- the range of the ring pool that holds the sixteen sub-logs it is one of (R314); a host or inbound log has none -/
  base : Option Nat := none
  /-- a context's sub-log: its cell and context, and its instance -/
  owner : Option (Nat × Nat) := none
  inst : Nat × Nat := (0, 0)
  deriving DecidableEq, Repr

/-- What closed a published segment (R84, R90, R97, R98). -/
inductive SegKind where
  | release | interim | sc | amo | host | inbound
  deriving DecidableEq, Repr

/-- A published segment in arrival order. -/
structure Segment where
  key : Nat := 0
  count : Nat := 0
  first : BitVec 32 := 0
  rseq : BitVec 32 := 0
  kind : SegKind := .release
  ia : Nat := 0x3FFF
  /-- operation that waits for its application (SC store, AMO) -/
  op : Nat := 0
  /-- tag of the firing whose instruction closed it, and whether a fault token had fired it (R86, R323) -/
  tag : Word := 0
  faulty : Bool := false
  deriving DecidableEq, Repr

/-- A stack's log state. Keys: the function's number for its host log, 0x100 + module number for an
inbound log, 0x20000 and above for the logs of contexts. -/
structure Stack where
  subs : Tbl SubLog := []
  segs : List Segment := []
  /-- segments applied or skipped so far -/
  doneSegs : Nat := 0
  deriving DecidableEq, Repr

/-- A shadow page that is on its way back to the reserve (R93), and the operations translated to it. -/
structure Leaving where
  fn : Nat := 0
  size : Nat := 0
  page : Nat := 0
  waits : List Nat := []
  /-- the page that replaced it, the log of the REMAP and its stamp (R94) -/
  next : Nat := 0
  log : Nat := 0
  stamp : Nat := 0
  deriving DecidableEq, Repr

/-! ## Translation and keys (R314 to R320) -/

/-- A key slot (R319). -/
structure KeySlot where
  /-- owning function; 0 with `owned` is the module's reserved slot -/
  owner : Nat := 0
  owned : Bool := false
  key : BitVec 512 := 0
  deriving DecidableEq, Repr

/-- Where a record ring stands (R298, R369). -/
structure RecRing where
  base : Nat := 0
  lsize : Nat := 0
  pos : Nat := 0
  phase : Bool := true
  deriving DecidableEq, Repr

/-! ## Functions and queues (R294 to R304, R309) -/

/-- The state of a queue (R295). -/
inductive QState where
  | disabled | active | error
  deriving DecidableEq, Repr

/-- A packet of a queue that has been processed and has not completed (R302): its number in parse order and
what it waits for. -/
structure Pending where
  num : Nat := 0
  /-- launch id of a LAUNCH -/
  launch : Option Nat := none
  /-- a WAKE: launch id, vcell, port and value, and whether it is on its way to the cell -/
  wake : Option (Nat × Nat × Nat × Word × Bool) := none
  /-- host-log segments of an HCOPY: stack, and how many segments the stack has done once it is applied -/
  waitSegs : List (Nat × Nat) := []
  deriving DecidableEq, Repr

/-- An indirect buffer that has been entered (R302). -/
structure IbLevel where
  addr : Nat := 0
  len : Nat := 0
  pos : Nat := 0
  deriving DecidableEq, Repr

/-- What the front end waits for at a queue's current packet (R302, R303). -/
inductive QWait where
  | none
  /-- bar, PRED, FFENCE, SIGNAL, DRAIN: every earlier packet must complete -/
  | bar
  /-- the acquire of a PRED or an FFENCE: how many segments each stack must have done -/
  | acqa (marks : List Nat)
  /-- WAITV, and the network-clock cycle of its last read -/
  | waitv (last : Nat)
  /-- the limit of 64 live launches -/
  | launches
  deriving DecidableEq, Repr

/-- A command queue (R295 to R304). -/
structure Queue where
  base : Nat := 0
  size : Nat := 12
  notify : Nat := 0
  head : Nat := 0
  en : Bool := false
  prio : Nat := 0
  st : QState := .disabled
  code : BitVec 8 := 0
  cring : RecRing := {}
  ering : RecRing := {}
  pkts : Word := 0
  waits : Word := 0
  fetchw : Word := 0
  /-- fetched words by depth: word offset and value -/
  fetched : List (Nat × Nat × Word) := []
  ibs : List IbLevel := []
  /-- LOOP: depth, body packets n, passes left, offset of the first body packet, packets parsed -/
  loop : Option (Nat × Nat × Nat × Nat × Nat) := none
  /-- PRED: depth and packets left to skip -/
  skip : Option (Nat × Nat) := none
  wait : QWait := .none
  /-- the current packet has begun: its bar wait, if any, is over (R296, R302) -/
  cleared : Bool := false
  /-- number of the next packet in parse order -/
  num : Nat := 0
  pending : List Pending := []
  live : List Nat := []
  /-- draining to DISABLED after en was cleared -/
  stopping : Bool := false
  /-- granules of the current HCOPY that have been copied (R302) -/
  copied : Nat := 0
  /-- a parked front-end access: the ring's function and its fault id (R318) -/
  parked : Option (Nat × Nat) := none
  /-- turns it has had in the present round of the front end (R310) -/
  served : Nat := 0
  deriving DecidableEq, Repr

/-- A posted launch in the device queue (R309, R338). -/
structure Posted where
  id : Nat := 0
  parent : Nat := 0
  image : Nat := 0
  vcountM1 : Nat := 0
  part : Nat := 0
  prio : Nat := 0
  budget : Nat := 0
  args : List Word := []
  deriving DecidableEq, Repr

/-- A PCIe function: its registers and queues. -/
structure Fn where
  ttbase : Nat := 0
  ttcount : Nat := 0
  itbase : Nat := 0
  itcount : Nat := 0
  qcount : Nat := 0
  parts : BitVec 8 := 0
  postq : Nat := 0
  posten : Bool := false
  wdog : BitVec 32 := 0
  fring : RecRing := {}
  faultId : Nat := 0
  /-- missing table entries with a fault id in this ring: entry address and id (R320) -/
  faults : List (Nat × Nat) := []
  diag : RecRing := {}
  /-- VF_REC: ring, en, replay, ovf; VF_RECPOS -/
  recr : RecRing := {}
  recEn : Bool := false
  recReplay : Bool := false
  recOvf : Bool := false
  recPos : Nat := 0
  /-- TIME records, by their first word, that a replay has consumed (R363, R364) -/
  recUsed : List Nat := []
  ntroot : Nat := 0
  launchCount : BitVec 32 := 0
  queues : Tbl Queue := []
  devq : List Posted := []
  /-- turns its device queue has had in the present round (R309, R310) -/
  devServed : Nat := 0
  postedLive : List Nat := []
  /-- free shadow pages by size code (R314) -/
  shadow : List (Nat × Nat) := []
  /-- free ranges of the ring pool: base and bytes -/
  pool : List (Nat × Nat) := []
  /-- ranges added by RINGPOOL -/
  poolAll : List (Nat × Nat) := []
  /-- dirty tracking (R337): ring base, bytes, entries written, overflow -/
  dirtyBase : Nat := 0
  dirtySize : Nat := 0
  dirtyN : Nat := 0
  dirtyOvf : Bool := false
  /-- bound to the host interface of die 4 (R352) -/
  die4 : Bool := false
  /-- its FLR is not over: transactions of the function are dropped (R336) -/
  resetting : Bool := false
  /-- its FLR waits for the writes accepted before it and the packets their notifies cover (R336) -/
  flrWaits : Bool := false
  deriving DecidableEq, Repr

/-! ## Instances and partitions (R305 to R309, R312 to R333) -/

/-- A containment region as vcell 0 keeps it (R224 to R226). -/
structure Region where
  mark : RegionMark := .opened
  handler : Word := 0
  /-- cells that have not applied its failure yet -/
  todo : List Nat := []
  cancelled : Nat := 0
  /-- its first failure record -/
  first : List Word := []
  /-- tag of the firing that failed it, and whether a fault token had fired it (R323) -/
  tag : Word := 0
  faulty : Bool := false
  delivered : Bool := false
  /-- CRCLOSEs that wait, in order: reply continuation and issuer -/
  closing : List (Word × Issuer) := []
  /-- its closing releases have been issued, and the token of vcell 0's -/
  released : Bool := false
  token : Word := 0
  deriving DecidableEq, Repr

/-- How an instance ends (R298, R308). -/
inductive EndStatus where
  | complete | killed | watchdog | hang | refused | aborted
  deriving DecidableEq, Repr

/-- How far an instance has got (R305 to R308). -/
inductive InstPhase where
  /-- in its partition's placement queue -/
  | waiting
  /-- placed; its first firing is not allowed yet -/
  | placed
  | running
  /-- its end-of-graph release has been issued -/
  | releasing
  | ended
  deriving DecidableEq, Repr

/-- A graph instance. -/
structure Inst where
  fn : Nat := 0
  id : Nat := 0
  part : Nat := 0
  prio : Nat := 0
  q : Nat := 0
  depth : Nat := 0
  off : Nat := 0
  dev : Bool := false
  parent : Option Nat := none
  /-- image id and its 64-bit words as checked (R154, R155) -/
  image : Nat := 0
  words : List Word := []
  /-- guest-physical address of the image -/
  imageAt : Nat := 0
  args : List Word := []
  retc : Bool := false
  nonce : Word := 0
  scrub : Bool := false
  budget : Nat := 0
  /-- budget ticks used, while started -/
  wdog : Nat := 0
  /-- its watchdog has expired before the conditions of R64 held (R333) -/
  expired : Bool := false
  phase : InstPhase := .waiting
  ctx : Nat := 0
  place : List Nat := []
  load : Nat := 0
  ret : Option Word := none
  regions : Tbl Region := []
  /-- ac of the last firing or external event (R334) -/
  lastAct : Nat := 0
  /-- host-log segments its first firing waits for: stack and segment number (R100, R306) -/
  acq : List (Nat × Nat) := []
  /-- the releases of its current load's logs have been issued (R307) -/
  leaving : Bool := false
  /-- entries of its load whose token has not been formed (R306), by their place in the load -/
  unformed : List Nat := []
  /-- ring-pool ranges it holds: base and bytes (R314) -/
  rings : List (Nat × Nat) := []
  /-- REQUIRE_SCRUB: the record with its nonce exists (R306, R332) -/
  scrubbed : Bool := false
  /-- its first firing is allowed -/
  started : Bool := false
  /-- its first firing has happened: its watchdog counts (R333) -/
  fired : Bool := false
  /-- TIME results so far, by vcell (R363) -/
  times : Tbl Nat := []
  deriving DecidableEq, Repr

/-- The state of a partition (R312). -/
inductive PartState where
  | free | granted | frozen | scrubbing
  deriving DecidableEq, Repr

/-- Why a partition is being scrubbed, and what follows (R313, R330, R336). -/
inductive ScrubWhy where
  | grant | takeback (saved : Bool) | flr | launch (fn id : Nat)
  deriving DecidableEq, Repr

/-- A scrub attestation record (R331): its 16 words, and whether its signature is valid. -/
structure Sar where
  words : List Word := []
  signed : Bool := false
  deriving DecidableEq, Repr

/-- A partition. -/
structure Part where
  bays : BitVec 128 := 0
  tenant : BitVec 16 := 0xFFFF
  vf : Nat := 0
  st : PartState := .free
  whbm : BitVec 8 := 16
  wring : BitVec 8 := 16
  wpcie : BitVec 8 := 16
  /-- a freeze has begun: ac at which it began -/
  freezing : Option Nat := none
  halted : Bool := false
  scrub : Option ScrubWhy := none
  scrubStart : Word := 0
  outTenant : BitVec 16 := 0xFFFF
  bayfail : Bool := false
  pages : Nat := 0
  sar : Option Sar := none
  /-- earlier records of the partition, newest first (R228) -/
  sars : List Sar := []
  /-- waiting launches, in arrival order: function and id -/
  queue : List (Nat × Nat) := []
  /-- instances for which it freezes as hung, with the status each ends with (R334) -/
  hung : List (Nat × Nat × EndStatus) := []
  deriving DecidableEq, Repr

/-- A saved image (R328) as the model keeps it: where it stands, the words written there, and what it
holds. -/
structure SaveImage where
  addr : Nat := 0
  words : List Word := []
  tenant : BitVec 16 := 0
  insts : List Inst := []
  /-- what each cell held for the instances, by the cell's number in their placements -/
  cells : Tbl Cell := []
  /-- where the arithmetic clock of each cell stood -/
  acs : Tbl Nat := []
  ops : List MemOp := []
  packets : List Packet := []
  deriving DecidableEq, Repr, Inhabited

/-- What the words of a save image hold that this module did not write (R328, R329): its section bodies have no layout in the spec. -/
opaque Config.savedElsewhere : List Word → SaveImage

/-- The management command interface (R312, R313). -/
structure Mgmt where
  arg0 : Word := 0
  arg1 : Word := 0
  arg2 : Word := 0
  arg3 : Word := 0
  cmd : Word := 0
  busy : Bool := false
  tag : BitVec 8 := 0
  code : BitVec 8 := 0
  result : BitVec 32 := 0
  /-- a command was written while busy -/
  clash : Bool := false
  /-- the arguments with which the running command was written -/
  given : List Word := []
  /-- the running command and the partition or function it works on -/
  waits : Option (Nat × Nat) := none
  /-- operations whose accesses an INVALIDATE waits for (R317) -/
  ops : List Nat := []
  /-- an INVALIDATE: the segments of the PF's host log that its removal follows, by stack -/
  marks : List (Nat × Nat) := []
  /-- an INVALIDATE has removed the cached translations -/
  removed : Bool := false
  deriving DecidableEq, Repr

/-! ## Links, reliability, time (R340 to R366) -/

/-- A ring link between die d and die d + 1 (R347 to R349). -/
inductive RingLink where
  | full | retraining | half | lost
  deriving DecidableEq, Repr

/-- A Septord port (R350). -/
inductive SeptordPort where
  | up | half | lost
  deriving DecidableEq, Repr

/-- A bad-cell register entry (R353). -/
structure BadEntry where
  kind : Nat := 0
  loc : Nat := 0
  dir : Nat := 0
  lane : Nat := 0
  time : BitVec 40 := 0
  deriving DecidableEq, Repr

/-- A peer module (R351, R366). -/
structure Peer where
  pmod : BitVec 16 := 0
  ports : BitVec 16 := 0
  valid : Bool := false
  deriving DecidableEq, Repr

/-- The lock state of global time (R360, R366). -/
inductive GtState where
  | free | locking | locked | holdover
  deriving DecidableEq, Repr

/-- A packet in a Septord port's window (R350): its sequence number, the operation it carries and the peer. -/
structure SepPacket where
  seq : BitVec 12 := 0
  /-- cell and context whose flow it belongs to (R351) -/
  flow : Nat × Nat := (0, 0)
  op : Nat := 0
  piece : Nat := 0
  peer : Nat := 0
  /-- the check that goes with its header and flits -/
  crc : BitVec 32 := 0
  deriving DecidableEq, Repr

/-- The link layer of a Septord port (R350): the next sequence number, the packets sent and not acknowledged in
order, and the network-clock cycle of the last acknowledgement or of the first packet since. -/
structure SepLayer where
  next : BitVec 12 := 0
  window : List SepPacket := []
  since : Nat := 0
  deriving DecidableEq, Repr

/-- An image in a die's Cupboard (R15, R306): tenant, image id, segment, codelet words. -/
structure CupImage where
  tenant : BitVec 16 := 0
  image : Nat := 0
  seg : Nat := 0
  code : List IWord := []
  deriving DecidableEq, Repr

/-- The links of the module. -/
structure Links where
  /-- link d joins die d and die (d + 1) mod 8 -/
  ring : Vector RingLink 8 := Vector.replicate 8 .full
  /-- lanes lost per ring link, as physical lane numbers 0 to 511 -/
  lanes : Tbl (List Nat) := []
  septord : Vector SeptordPort 16 := Vector.replicate 16 .up
  /-- packets resent per port -/
  resends : Tbl Nat := []
  peers : Tbl Peer := []
  bad : List BadEntry := []
  /-- dies that are cut off (R349) -/
  cut : List Nat := []
  /-- flits by which a partition's service at an arbiter is behind its share, below zero ahead of it (R311, R346): by 16 times the arbiter
  and the partition. Arbiters 0 to 15 are the ring outputs, twice the die and one more clockwise; 16 to 31 the stacks -/
  lags : Tbl Rat := []
  /-- the link layer of each Septord port -/
  layers : Tbl SepLayer := []
  /-- the host interfaces of dies 0 and 4 are enabled (R19) -/
  hosts : Bool × Bool := (true, true)
  deriving DecidableEq, Repr

/-- The timebases (R17, R18, R360). -/
structure Clock where
  /-- global time of each die's copy -/
  gt : Vector Word 8 := Vector.replicate 8 0
  gtst : GtState := .free
  gtoff : BitVec 32 := 0
  /-- ticks still to be added or skipped by slewing -/
  slew : Int := 0
  /-- the one forward step has been taken -/
  stepped : Bool := false
  /-- network-clock cycles since power-up -/
  nc : Nat := 0
  /-- suppressed ac in every 8, by die -/
  throttle : Vector Nat 8 := Vector.replicate 8 0
  /-- unsuppressed ac in sixteenths, by die -/
  ac16 : Vector Nat 8 := Vector.replicate 8 0
  deriving DecidableEq, Repr

/-- The checkpoint engine (R362, R366). -/
structure Ckpt where
  /-- 64 KiB pages of the cut still to be streamed -/
  todo : List Nat := []
  ctl : Word := 0
  /-- 0 idle, 1 streaming, 2 done, 3 failed -/
  st : BitVec 2 := 0
  pages : BitVec 56 := 0
  cut : Word := 0
  /-- applied rseq of every sub-log at the cut: stack, key, rseq -/
  rseqs : List (Nat × Nat × BitVec 32) := []
  deriving DecidableEq, Repr

/-- What the host sees come out of the PCIe interfaces (R336, R352). -/
inductive PcieOut where
  /-- a window read's data, or none for Completer Abort -/
  | read (fn gpa : Nat) (data : Option (List Byte)) (poisoned : Bool)
  /-- an MSI-X vector -/
  | msix (fn vector : Nat)
  /-- a non-fatal AER error -/
  | aer (fn gpa : Nat)
  /-- a register read's data -/
  | reg (fn off : Nat) (v : Word)
  deriving DecidableEq, Repr

/-- What leaves the module over Septord. -/
inductive SepOut where
  /-- a packet of a port's window, sent for the first time or again (R350) -/
  | packet (port : Nat) (p : SepPacket)
  /-- the answer to a load of a peer module (R101): the module, its flow, the address and the bytes, or none where they are poisoned -/
  | data (smod : BitVec 16) (flow pa : Nat) (bytes : Option (List Byte))
  /-- a page of a checkpoint as it stood at the cut, by its number, and the bytes that its memory cells hold (R362) -/
  | page (port n : Nat) (cells : List Host.Cell)
  /-- the cut record of a checkpoint (R362): stack, sub-log and applied rseq -/
  | cut (port : Nat) (rseqs : List (Nat × Nat × BitVec 32))
  deriving DecidableEq, Repr

/-! ## What moves next -/

/-- What happens to the module from outside beside the table's steps: storage errors (R355), and
what peer modules send (R101, R351). -/
inductive Outside where
  /-- an uncorrectable error in an HBM granule, and the bytes of it that are lost as a mask -/
  | badGranule (gran mask : Nat)
  /-- an uncorrectable error in a stored log entry: stack, sub-log key, index -/
  | badEntry (stack key idx : Nat)
  /-- an uncorrectable error in a heap element: cell, tile index, element -/
  | badElement (cell tile elem : Nat)
  /-- an uncorrectable error in a frame slot: cell and slot -/
  | badSlot (cell slot : Nat)
  /-- an uncorrectable error in an accumulator word: cell, row and column -/
  | badAcc (cell row col : Nat)
  /-- an uncorrectable error in a weight bank: cell, bank, and the row and column of the weight -/
  | badBank (cell : Nat) (b : Bool) (row col : Nat)
  /-- an uncorrectable error in a vector register: cell, register, 64-bit word of it -/
  | badVec (cell reg word : Nat)
  /-- an uncorrectable error in a word of a reducer's sum buffer: cell, row and column -/
  | badSum (cell row col : Nat)
  /-- an uncorrectable error in a stream row: cell, port, place in the buffer, 64-bit word of the row -/
  | badRow (cell port idx word : Nat)
  /-- an uncorrectable error in a tile table, product table, engine queue, input queue, ready queue or
  suspension record: cell, context, region of the firing -/
  | badCtx (cell ctx region : Nat)
  /-- a correctable error, or a TLB's: logged only -/
  | corrected (cell kind : Nat) (addr : Word)
  /-- an uncorrectable error in an entry of a cell's L1 TLB or of a die's last-level TLB (R355) -/
  | badTlb (cell idx : Nat)
  | badWalk (die idx : Nat)
  /-- an uncorrectable error in a word of a cell's codelet store: refetched (R355); `both`: the Cupboard and its backing
  are uncorrectable too -/
  | badCode (cell ctx : Nat) (both : Bool)
  /-- an uncorrectable error in a retained input of a cell (R357): its place in the list -/
  | badRetained (cell idx : Nat)
  /-- the check value of a granule, or of a block row of a tile, no longer is that of its bytes (R359) -/
  | badCheck (gran : Nat)
  | badRowCheck (cell tile row : Nat)
  /-- bits of a flit of packet `n` come out wrong at the receiver of its next hop: its payload and sideband there, as the patterns of
  the bits that differ (R341) -/
  | flitError (n flit : Nat) (payload : List Byte) (side : Word)
  /-- a host interface offers again what it holds back (R100) -/
  | hostRetry (iface : Nat)
  /-- a peer acknowledges the packets of a port up to a sequence number (R350) -/
  | septordAck (port : Nat) (seq : BitVec 12)
  /-- a die fails its training at power-up (R19) -/
  | trainingFails (die : Nat)
  /-- a page of a checkpoint is streamed (R362) -/
  | ckptPage
  /-- a module linked over Septord gives its time (R360) -/
  | linkedTime (t : Word)
  /-- a host interface sets which functions are bound to the die 4 interface (R352) -/
  | bindHost (fn : Nat) (die4 : Bool)
  /-- a bay fails its scrub (R330): partition and bay -/
  | bayFails (part bay : Nat)
  /-- the PF sets VF_QCOUNT (R294): function and count -/
  | grantQueues (fn count : Nat)
  /-- the host reads a register of a function (R294) -/
  | readReg (fn off : Nat)
  /-- an inbound publish message of a flow of a peer module (R101) -/
  | peerPublish (smod : BitVec 16) (flow : Nat)
  /-- a load of this module's memory by a flow of a peer module (R101): address and bytes -/
  | peerLoad (smod : BitVec 16) (flow pa len : Nat)
  /-- a peer's answer to a load: operation, piece and data -/
  | peerData (op piece : Nat) (data : List Byte)
  /-- every peer written has applied the stores of a system-scope release -/
  | peerApplied (op : Nat)
  deriving DecidableEq, Repr

/-- Who moves at a step. -/
inductive Mover where
  /-- the lane of a cell runs its next instruction; `held`: the network holds back what it would send -/
  | lane (cell : Nat) (held : Bool)
  /-- the vector unit of a cell runs the next word of its loop buffer -/
  | vector (cell : Nat)
  /-- a step of the table that has no encoding -/
  | event (i : Instr)
  | outside (o : Outside)
  /-- packet number `n` of the network crosses its next hop (R342 to R347), or is taken in where it ends -/
  | flit (n : Nat)
  /-- the memory port of a cell sends what an operation has for a stack, or the request of one of its pieces; the copy engine makes
  the next transfer of a tile; a Septord port sends what has come to it (R79, R87, R237, R350) -/
  | ask (op k : Nat)
  /-- the matrix engine of a cell carries out the first command taken that it has not (R206, R245) -/
  | work (cell : Nat)
  deriving DecidableEq, Repr

/-- One move: the network-clock cycles (ticks) that pass before it, and who moves. -/
structure Move where
  dt : Nat := 0
  who : Mover
  deriving DecidableEq, Repr

/-! ## The module -/

/-- The state of the module. -/
structure State where
  /-- the moves to come, in order: the model's own field, the free choice of timing and of the
  outside world; while it is empty only time passes -/
  agenda : List Move := []
  /-- the cell whose lane or vector unit runs the present word: the model's own field -/
  cur : Nat := 0
  /-- the network holds back the present lane instruction's output: the model's own field -/
  held : Bool := false
  power : Bool := true
  clock : Clock := {}
  cells : Tbl Cell := []
  net : List Packet := []
  ops : List MemOp := []
  /-- serial numbers of operations, commands and firings: the model's own counter -/
  serial : Nat := 1
  /-- acquires that failed, by firing serial (R217) -/
  failedAcqs : List Nat := []
  hbm : Vector Stack 16 := Vector.replicate 16 {}
  leaving : List Leaving := []
  /-- applied memory by system-physical address; an unlisted byte reads zero (R19) -/
  mem : List Host.Cell := []
  /-- the key under which a granule was last written, by granule number; absent: zeroed, no key -/
  gkeys : Tbl (BitVec 512) := []
  /-- granules marked poisoned (R355) -/
  gpoison : List Nat := []
  /-- by granule, the bytes of a poisoned one that are uncorrectable, as a mask: all of them where no mask stands (R238) -/
  gbad : Tbl Nat := []
  /-- granules whose check value in HBM metadata is not that of their bytes (R359) -/
  unchecked : List Nat := []
  keys : Tbl KeySlot := []
  /-- the last-level TLBs of the dies, oldest entry first (R15, R317) -/
  tlb : List TlbEntry := []
  /-- the Cupboards by die, the image placed last at the end (R15) -/
  cupboards : Tbl (List CupImage) := []
  fns : Tbl Fn := []
  insts : List Inst := []
  parts : Tbl Part := []
  mgmt : Mgmt := {}
  saves : List SaveImage := []
  /-- instances that have left the module in a save image and stay in one (R328): their logs stay -/
  away : List (Nat × Nat) := []
  links : Links := {}
  errRing : RecRing := {}
  ckpt : Ckpt := {}
  /-- scrub sequence in the Puppeteer's non-volatile store (R331) -/
  sarSeq : Word := 0
  /-- what has gone out of the host interfaces -/
  pcie : List PcieOut := []
  /-- what has gone out of the Septord ports -/
  septord : List SepOut := []
  /-- host writes that the interfaces hold back, in the order of acceptance (R100) -/
  hostq : List Instr := []
  /-- ac for which the clock of a bay's cells has been gated, by bay (R327) -/
  gated : Tbl Nat := []
  /-- dies that will fail training at the next power-up (R19): the outside world's -/
  untrained : List Nat := []
  /-- locations whose corrected error has been recorded: kind, cell, address and global time (R358) -/
  seen : List (Nat × Nat × Word × Word) := []
  /-- the model's own counter of free values -/
  free : Nat := 0
  deriving DecidableEq, Repr

/-- The module right after power-up (R19): clocks at zero, every bay free, memory zeroed. -/
def State.reset : State := {}

end Sys2Proof.Machine
end

