-- ==== Sys2Proof/Machine/Mem.lean ====
section
/-! DEFINITION. Applied memory by system-physical byte address, in its canonical form, and the key each
granule was written under; sign extension and bit fields of words. -/

namespace Sys2Proof.Machine

/-! ## Bit fields -/

/-- The `n` bits of a word from bit `lo`, as a number. -/
def bits (w : Word) (lo n : Nat) : Nat := w.toNat / 2 ^ lo % 2 ^ n

/-- Bit `lo` of a word. -/
def bit (w : Word) (lo : Nat) : Bool := decide (w.toNat / 2 ^ lo % 2 = 1)

/-- A number as a word, modulo 2^64. -/
def word (n : Nat) : Word := BitVec.ofNat 64 n

/-- The value of an `n`-bit unsigned number read as two's complement. -/
def sext (n v : Nat) : Int := if v % 2 ^ n < 2 ^ (n - 1) then (v % 2 ^ n : Nat) else (v % 2 ^ n : Nat) - (2 ^ n : Nat)

/-- An integer modulo 2^n. -/
def wrap (n : Nat) (v : Int) : Nat := (v % (2 ^ n : Nat)).toNat

/-- `⌈a / b⌉`. -/
def ceilDiv (a b : Nat) : Nat := (a + b - 1) / b

/-! ## Bytes -/

/-- The bytes of memory. -/
abbrev Memory := List Host.Cell

/-- Canonical form: addresses strictly rising, no entry equal to the zero that an unlisted byte reads. -/
def Memory.wf (m : Memory) : Bool := Tbl.sorted m && m.all fun e => e.2 != 0

/-- The byte at an address; unlisted bytes read zero (R19). -/
def Memory.read (m : Memory) (a : Nat) : Byte := Tbl.getD m a 0

/-- The memory after a byte is written. -/
def Memory.write (m : Memory) (a : Nat) (b : Byte) : Memory := Tbl.set 0 m a b

/-- The `n` bytes from an address. -/
def Memory.readBytes (m : Memory) (a : Nat) : Nat → List Byte
  | 0 => []
  | n + 1 => m.read a :: Memory.readBytes m (a + 1) n

/-- The memory after a run of bytes is written. -/
def Memory.writeBytes (m : Memory) (a : Nat) : List Byte → Memory
  | [] => m
  | b :: bs => Memory.writeBytes (m.write a b) (a + 1) bs

/-- The number of little-endian bytes. -/
def leNat : List Byte → Nat
  | [] => 0
  | b :: bs => b.toNat + 256 * leNat bs

/-- The `n` little-endian bytes of a number. -/
def leBytes (v : Nat) : Nat → List Byte
  | 0 => []
  | n + 1 => BitVec.ofNat 8 v :: leBytes (v / 256) n

/-- The bytes of words, little-endian, in order. -/
def wordBytes : List Word → List Byte
  | [] => []
  | w :: ws => leBytes w.toNat 8 ++ wordBytes ws

/-- The words of bytes, little-endian; a short last word is filled with zero. -/
def bytesWords : List Byte → List Word
  | [] => []
  | b0 :: b1 :: b2 :: b3 :: b4 :: b5 :: b6 :: b7 :: bs =>
    word (leNat [b0, b1, b2, b3, b4, b5, b6, b7]) :: bytesWords bs
  | bs => [word (leNat bs)]

/-! ## Granules and keys -/

/-- The 64-byte granule of an address. -/
def granOf (a : Nat) : Nat := a / 64

/-- The stack that holds an address (R14). -/
def stackOf (a : Nat) : Nat := a / 4096 % 16

/-- A system-physical byte without a key, as walkers, the front end and the host windows read it. -/
def State.rd (s : State) (a : Nat) : Byte := Memory.read s.mem a

/-- The `n` bytes from a system-physical address, without a key. -/
def State.rdBytes (s : State) (a n : Nat) : List Byte := Memory.readBytes s.mem a n

/-- The 64-bit word at a system-physical address, without a key. -/
def State.rdWord (s : State) (a : Nat) : Word := word (leNat (s.rdBytes a 8))

/-- A byte read under a key (R73): decrypted under another key than the writer's it is a free value. -/
def State.rdKey (s : State) (key : BitVec 512) (a : Nat) : Byte :=
  match s.gkeys.get? (granOf a) with
  | none => s.rd a
  | some k => if k = key then s.rd a else Config.crossKey k key a (s.rd a)

/-- The `n` bytes from an address read under a key. -/
def State.rdKeyBytes (s : State) (key : BitVec 512) (a : Nat) : Nat → List Byte
  | 0 => []
  | n + 1 => s.rdKey key a :: State.rdKeyBytes s key (a + 1) n

/-- Bytes written without a key: by the front end, a host log or the translation tables' owner. -/
def State.wrBytes (s : State) (a : Nat) (bs : List Byte) : State :=
  { s with mem := Memory.writeBytes s.mem a bs }

/-- A granule written whole under a key: its 64 bytes, with a fresh check value (R359). -/
def State.wrGran (s : State) (key : Option (BitVec 512)) (g : Nat) (bs : List Byte) : State :=
  { s with
    mem := Memory.writeBytes s.mem (g * 64) bs
    gkeys := match key with | none => s.gkeys.del g | some k => s.gkeys.put g k
    unchecked := s.unchecked.filter (· != g) }

/-- Merge: the written bytes where the mask is set, else the old ones. -/
def mergeBytes : Nat → List Byte → List Byte → Nat → List Byte
  | _, [], _, _ => []
  | i, o :: os, ns, mask =>
    (if mask / 2 ^ i % 2 = 1 then ns.headD 0 else o) :: mergeBytes (i + 1) os ns.tail mask

/-- One write of a granule through a mask (R84, R85). A whole write takes the writer's key and clears
a poison mark; a partial one re-encrypts what the writer's key makes of the old bytes (R355), and over a granule
whose check value fails it leaves the granule poisoned (R359). -/
def State.mergeGran (s : State) (key : Option (BitVec 512)) (g : Nat) (bs : List Byte) (mask : Nat) : State :=
  if mask = 0 then s
  else
    let old := match key with
      | none => s.rdBytes (g * 64) 64
      | some k => s.rdKeyBytes k (g * 64) 64
    let full := decide (mask = 2 ^ 64 - 1)
    let key' := match key with
      | some k => some k
      | none => if full then none else s.gkeys.get? g
    let failed := s.unchecked.contains g && !s.gpoison.contains g
    let s := s.wrGran key' g (mergeBytes 0 old bs mask)
    if full then { s with gpoison := s.gpoison.filter (· != g), gbad := s.gbad.del g }
    else if failed then { s with gpoison := s.gpoison ++ [g] } else s

/-- Zeroed memory (R314, R330): every listed byte in a range becomes unlisted, keys and marks go. -/
def State.zeroRange (s : State) (a n : Nat) : State :=
  let out := fun (x : Nat) => decide (x < a) || decide (a + n ≤ x)
  let gout := fun (g : Nat) => decide (g * 64 < a) || decide (a + n ≤ g * 64)
  { s with
    mem := s.mem.filter fun e => out e.1
    gkeys := s.gkeys.filter fun e => gout e.1
    gpoison := s.gpoison.filter gout
    gbad := s.gbad.filter fun e => gout e.1
    unchecked := s.unchecked.filter gout }

/-! ## Check values -/

/-- One bit of the CRC-16 of R359. -/
def crc16Bit (c : Nat) (b : Bool) : Nat :=
  let top := decide (c / 32768 % 2 = 1)
  let c := c * 2 % 65536
  if top != b then c ^^^ 0x8BB7 else c

/-- The CRC-16 of bytes: polynomial 0x8BB7, initial value 0, most significant bit first (R359). -/
def crc16 (bs : List Byte) : BitVec 16 :=
  BitVec.ofNat 16 (bs.foldl (fun c b => (List.range 8).foldl (fun c i => crc16Bit c (b.getLsbD (7 - i))) c) 0)

/-- One bit of the reflected CRC-32. -/
def crc32Bit (c : Nat) (b : Bool) : Nat :=
  if decide (c % 2 = 1) != b then (c / 2) ^^^ 0xEDB88320 else c / 2

/-- The CRC-32 of IEEE 802.3 (R154): polynomial 0x04C11DB7, reflected, initial value and final
exclusive-or 0xFFFFFFFF. -/
def crc32 (bs : List Byte) : BitVec 32 :=
  BitVec.ofNat 32
    ((bs.foldl (fun c b => (List.range 8).foldl (fun c i => crc32Bit c (b.getLsbD i)) c) 0xFFFFFFFF) ^^^ 0xFFFFFFFF)

end Sys2Proof.Machine
end

