-- ==== Sys2Proof/Machine/Flags.lean ====
section
/-! DEFINITION. The sticky flags of CTL_FLAGS (R132, R133) and the clamping of saturating integer
operations, which sets SAT (R158, R277). -/

namespace Sys2Proof.Machine

/-- The flags an operation sets, as the bits of CTL_FLAGS. -/
abbrev Fl := BitVec 7

/-- Invalid operation. -/
def NV : Fl := 1
/-- Division by zero. -/
def DZ : Fl := 2
/-- Overflow. -/
def OF : Fl := 4
/-- Underflow. -/
def UF : Fl := 8
/-- Inexact. -/
def NX : Fl := 16
/-- A saturating operation clamped. -/
def SAT : Fl := 32
/-- An uncorrectable operand element was replaced by zero. -/
def POISON : Fl := 64

/-- A flag, or none. -/
def flagIf (b : Bool) (f : Fl) : Fl := if b then f else 0

/-- A value clamped to a range, SAT where it was outside (R158). -/
def clamp (lo hi t : Int) : Int × Fl := if hi < t then (hi, SAT) else if t < lo then (lo, SAT) else (t, 0)

/-- The least value of a `w`-bit number, signed or unsigned. -/
def loOf (w : Nat) (unsigned : Bool) : Int := if unsigned then 0 else -(2 ^ (w - 1) : Nat)

/-- The greatest value of a `w`-bit number, signed or unsigned. -/
def hiOf (w : Nat) (unsigned : Bool) : Int := if unsigned then (2 ^ w : Nat) - 1 else (2 ^ (w - 1) : Nat) - 1

/-- `sat48` (R112): the range of the accumulator is symmetric. -/
def sat48 (x : Int) : Int × Fl := clamp (-((2 ^ 47 : Nat) - 1)) ((2 ^ 47 : Nat) - 1) x

end Sys2Proof.Machine
end

