-- ==== Sys2Proof/Machine/Float.lean ====
section
/-! DEFINITION. Floating-point numbers and their arithmetic (R104 to R107, R110, R111, R124, R126, R127,
R170 to R174): every result is formed exactly and rounded once. -/

namespace Sys2Proof.Machine

/-- A floating-point format (R104, R110): exponent and fraction bits, bias, its infinity, its NaN. -/
structure Fmt where
  ebits : Nat
  frac : Nat
  bias : Nat
  inf : Bool
  nan : Option Nat
  /-- a NaN whose top fraction bit is 0 is signalling (R107) -/
  snan : Bool
  /-- bits of the largest finite value -/
  max : Nat
  deriving DecidableEq, Repr

/-- FP64. -/
def fp64 : Fmt := { ebits := 11, frac := 52, bias := 1023, inf := true, nan := some 0x7FF8000000000000, snan := true, max := 0x7FEFFFFFFFFFFFFF }
/-- FP32. -/
def fp32 : Fmt := { ebits := 8, frac := 23, bias := 127, inf := true, nan := some 0x7FC00000, snan := true, max := 0x7F7FFFFF }
/-- BF16. -/
def bf16 : Fmt := { ebits := 8, frac := 7, bias := 127, inf := true, nan := some 0x7FC0, snan := true, max := 0x7F7F }
/-- FP16. -/
def fp16 : Fmt := { ebits := 5, frac := 10, bias := 15, inf := true, nan := some 0x7E00, snan := true, max := 0x7BFF }
/-- FP8E4. -/
def fp8e4 : Fmt := { ebits := 4, frac := 3, bias := 7, inf := false, nan := some 0x7F, snan := false, max := 0x7E }
/-- FP8E5. -/
def fp8e5 : Fmt := { ebits := 5, frac := 2, bias := 15, inf := true, nan := some 0x7E, snan := false, max := 0x7B }
/-- FP4. -/
def fp4 : Fmt := { ebits := 2, frac := 1, bias := 1, inf := false, nan := none, snan := false, max := 0x7 }
/-- A48. -/
def a48 : Fmt := { ebits := 9, frac := 38, bias := 255, inf := true, nan := some 0x7FE000000000, snan := false, max := 0x7FBFFFFFFFFF }

/-- The float format of a format code (R102). -/
def fmtOf (code : Nat) : Option Fmt :=
  match code with
  | 0 => some fp32 | 1 => some bf16 | 2 => some fp16 | 3 => some fp8e4 | 4 => some fp8e5 | 5 => some fp4 | 9 => some a48
  | _ => none

/-- Bits of a format's element. -/
def Fmt.width (f : Fmt) : Nat := 1 + f.ebits + f.frac

/-- What bits of a format stand for. A finite nonzero value is ± m × 2^e. -/
inductive FV where
  | nan (signalling : Bool)
  | inf (neg : Bool)
  | zero (neg : Bool)
  | fin (neg : Bool) (m : Nat) (e : Int)
  deriving DecidableEq, Repr

/-- The value of an element's bits (R105). -/
def Fmt.dec (f : Fmt) (b : Nat) : FV :=
  let neg := decide (b / 2 ^ (f.ebits + f.frac) % 2 = 1)
  let ex := b / 2 ^ f.frac % 2 ^ f.ebits
  let fr := b % 2 ^ f.frac
  let top := 2 ^ f.ebits - 1
  if ex = 0 then if fr = 0 then .zero neg else .fin neg fr (1 - (f.bias : Int) - f.frac)
  else if ex = top && f.inf then
    if fr = 0 then .inf neg else .nan (f.snan && decide (fr / 2 ^ (f.frac - 1) = 0))
  else if ex = top && f.nan.isSome && fr = 2 ^ f.frac - 1 then .nan false
  else .fin neg (2 ^ f.frac + fr) ((ex : Int) - f.bias - f.frac)

/-- The sign bit of a format. -/
def Fmt.sign (f : Fmt) (neg : Bool) : Nat := neg.toNat * 2 ^ (f.ebits + f.frac)

/-- The bits of the canonical NaN; +0 where the format has none (R107, R127). -/
def Fmt.nanBits (f : Fmt) : Nat := f.nan.getD 0

/-- The bits of an infinity. -/
def Fmt.infBits (f : Fmt) (neg : Bool) : Nat := f.sign neg + (2 ^ f.ebits - 1) * 2 ^ f.frac

/-- The bits of a magnitude k × 2^q, q the exponent of one ulp at it and k at most 2^(frac + 1). -/
def Fmt.magBits (f : Fmt) (k : Nat) (q : Int) : Nat :=
  let (k, q) := if 2 ^ (f.frac + 1) ≤ k then (k / 2, q + 1) else (k, q)
  if k < 2 ^ f.frac then k else (q + f.frac + f.bias).toNat * 2 ^ f.frac + (k - 2 ^ f.frac)

/-! ## Rounding (R124, R126) -/

/-- `m × 2^e`, or a little more where `sticky`, rounded to a multiple of 2^q: the multiple, and whether it is
inexact. Modes: 0 nearest even, 1 toward zero, 2 up, 3 down, 4 stochastic with draw `r`. -/
def roundAt (mode r : Nat) (neg : Bool) (m : Nat) (e : Int) (sticky : Bool) (q : Int) : Nat × Bool :=
  if q ≤ e then (m * 2 ^ (e - q).toNat, sticky)
  else
    let sh := (q - e).toNat
    let k := m / 2 ^ sh
    let rem := m % 2 ^ sh
    let inexact := rem != 0 || sticky
    let up :=
      match mode with
      | 0 => decide (2 ^ sh < rem * 2) || (decide (rem * 2 = 2 ^ sh) && (sticky || decide (k % 2 = 1)))
      | 1 => false
      | 2 => inexact && !neg
      | 3 => inexact && neg
      | _ => inexact && decide (2 ^ sh * 2 ^ 16 ≤ rem * 2 ^ 16 + r * 2 ^ sh)
    (k + up.toNat, inexact)

/-- floor(log2) of m × 2^e. -/
def log2Of (m : Nat) (e : Int) : Int := (Nat.log2 m : Int) + e

/-- What an overflow gives: the infinity or largest finite value of the rounding mode (R170), the largest
finite value (R127), or the canonical NaN (R127 `.nan`). -/
inductive Ovf where
  | ieee | largest | nan
  deriving DecidableEq, Repr

/-- An exact magnitude m × 2^e, or a little more where `sticky`, delivered in a format: bits and flags
(R127, R170). -/
def Fmt.finish (f : Fmt) (mode r : Nat) (ovf : Ovf) (neg : Bool) (m : Nat) (e : Int) (sticky : Bool) : Nat × Fl :=
  let lg := log2Of m e
  let emin : Int := 1 - f.bias
  let q := (if lg < emin then emin else lg) - f.frac
  let (k, inexact) := roundAt mode r neg m e sticky q
  let bits := f.magBits k q
  if f.max < bits then
    match ovf with
    | .nan => if f.nan.isSome then (f.nanBits, OF ||| NX) else (f.sign neg + f.max, OF ||| NX)
    | .largest => (f.sign neg + f.max, OF ||| NX)
    | .ieee =>
      let toInf := match mode with | 0 => true | 1 => false | 2 => !neg | 3 => neg | _ => false
      (if toInf then f.infBits neg else f.sign neg + f.max, OF ||| NX)
  else
    let qt := lg - f.frac
    let kt := (roundAt mode r neg m e sticky qt).1
    let tiny := decide (lg < emin) && (if mode < 4 then decide (kt < 2 ^ f.frac * 2 ^ (emin - lg).toNat) else decide (k < 2 ^ f.frac))
    (f.sign neg + bits, flagIf inexact NX ||| flagIf (inexact && tiny) UF)

/-! ## Exact sums and products -/

/-- A signed integer times 2^e. -/
structure Dy where
  v : Int
  e : Int
  deriving DecidableEq, Repr

/-- The exact value of a finite number; zero for the others. -/
def FV.dy : FV → Dy
  | .fin neg m e => { v := if neg then -(m : Int) else m, e := e }
  | _ => { v := 0, e := 0 }

/-- The sum of two exact values. -/
def Dy.add (a b : Dy) : Dy :=
  if a.v = 0 then b else if b.v = 0 then a
  else
    let e := if a.e ≤ b.e then a.e else b.e
    { v := a.v * 2 ^ (a.e - e).toNat + b.v * 2 ^ (b.e - e).toNat, e := e }

/-- The product of two exact values. -/
def Dy.mul (a b : Dy) : Dy := { v := a.v * b.v, e := a.e + b.e }

/-- The opposite value. -/
def Dy.neg (a : Dy) : Dy := { a with v := -a.v }

/-- The sign of a value; a NaN has none. -/
def FV.isNeg : FV → Bool
  | .nan _ => false | .inf n => n | .zero n => n | .fin n _ _ => n

/-- The value with its sign changed. -/
def FV.flip : FV → FV
  | .nan s => .nan s | .inf n => .inf (!n) | .zero n => .zero (!n) | .fin n m e => .fin (!n) m e

/-- A NaN. -/
def FV.isNan : FV → Bool
  | .nan _ => true | _ => false

/-- A signalling NaN. -/
def FV.isSnan : FV → Bool
  | .nan s => s | _ => false

/-- A zero. -/
def FV.isZero : FV → Bool
  | .zero _ => true | _ => false

/-- An infinity. -/
def FV.isInf : FV → Bool
  | .inf _ => true | _ => false

/-- An exact nonzero sum delivered, or the zero of a sum (R124): `sz` is the common sign of the operands
where they have one. -/
def Fmt.deliver (f : Fmt) (mode r : Nat) (ovf : Ovf) (d : Dy) (sz : Option Bool) : Nat × Fl :=
  if d.v = 0 then (f.sign (sz.getD (mode == 3)), 0)
  else f.finish mode r ovf (decide (d.v < 0)) d.v.natAbs d.e false

/-- The canonical NaN with NV where an operand signals. -/
def Fmt.nanOf (f : Fmt) (sig : Bool) : Nat × Fl := (f.nanBits, flagIf sig NV)

/-- The product of two values as a value: NaN, infinity, zero, or exact. -/
def FV.mul (a b : FV) : FV :=
  if a.isNan || b.isNan then .nan (a.isSnan || b.isSnan)
  else if (a.isInf && b.isZero) || (a.isZero && b.isInf) then .nan true
  else if a.isInf || b.isInf then .inf (a.isNeg != b.isNeg)
  else if a.isZero || b.isZero then .zero (a.isNeg != b.isNeg)
  else match a, b with
    | .fin n m e, .fin n' m' e' => .fin (n != n') (m * m') (e + e')
    | _, _ => .zero false

/-- A sum of values rounded once (R170). `sig` says that an operand signalled or was invalid already. -/
def Fmt.sum (f : Fmt) (mode r : Nat) (ovf : Ovf) (a b : FV) (sig : Bool) : Nat × Fl :=
  if a.isNan || b.isNan || sig then f.nanOf (sig || a.isSnan || b.isSnan)
  else if a.isInf && b.isInf && a.isNeg != b.isNeg then f.nanOf true
  else if a.isInf then (f.infBits a.isNeg, 0)
  else if b.isInf then (f.infBits b.isNeg, 0)
  else f.deliver mode r ovf (a.dy.add b.dy) (if a.isNeg == b.isNeg then some a.isNeg else none)

/-- Addition (R170). -/
def Fmt.add (f : Fmt) (mode r : Nat) (a b : Nat) : Nat × Fl := f.sum mode r .ieee (f.dec a) (f.dec b) false

/-- Subtraction (R170). -/
def Fmt.sub (f : Fmt) (mode r : Nat) (a b : Nat) : Nat × Fl := f.sum mode r .ieee (f.dec a) (f.dec b).flip false

/-- Multiplication (R170). -/
def Fmt.mul (f : Fmt) (mode r : Nat) (a b : Nat) : Nat × Fl :=
  match (f.dec a).mul (f.dec b) with
  | .nan s => f.nanOf s
  | .inf n => (f.infBits n, 0)
  | .zero n => (f.sign n, 0)
  | .fin n m e => f.finish mode r .ieee n m e false

/-- Fused multiply-add a × b + c (R170): 0 × ∞ is invalid even with a quiet NaN addend. -/
def Fmt.fma (f : Fmt) (mode r : Nat) (a b c : Nat) : Nat × Fl :=
  let p := (f.dec a).mul (f.dec b)
  match p with
  | .nan s => f.nanOf (s || (f.dec c).isSnan)
  | _ => f.sum mode r .ieee p (f.dec c) false

/-- Division (R170). The quotient is formed to 24 bits more than the fraction, the rest sticky. -/
def Fmt.div (f : Fmt) (mode r : Nat) (a b : Nat) : Nat × Fl :=
  let x := f.dec a
  let y := f.dec b
  let n := x.isNeg != y.isNeg
  if x.isNan || y.isNan then f.nanOf (x.isSnan || y.isSnan)
  else if (x.isZero && y.isZero) || (x.isInf && y.isInf) then f.nanOf true
  else if x.isInf then (f.infBits n, 0)
  else if y.isZero then (f.infBits n, DZ)
  else if x.isZero || y.isInf then (f.sign n, 0)
  else match x, y with
    | .fin _ m e, .fin _ m' e' =>
      let sh := Nat.log2 m' + f.frac + 26 - Nat.log2 m
      let q := m * 2 ^ sh / m'
      f.finish mode r .ieee n q (e - e' - sh) (m * 2 ^ sh % m' != 0)
    | _, _ => (0, 0)

/-- The integer square root, bit by bit from 2^n down. -/
def isqrt (m : Nat) : Nat → Nat → Nat
  | 0, acc => acc
  | n + 1, acc => isqrt m n (if (acc + 2 ^ n) * (acc + 2 ^ n) ≤ m then acc + 2 ^ n else acc)

/-- Square root (R170). -/
def Fmt.sqrt (f : Fmt) (mode r : Nat) (a : Nat) : Nat × Fl :=
  match f.dec a with
  | .nan s => f.nanOf s
  | .zero n => (f.sign n, 0)
  | .inf n => if n then f.nanOf true else (f.infBits false, 0)
  | .fin n m e =>
    if n then f.nanOf true
    else
      let sh := 2 * (f.frac + 26)
      let sh := if (e - sh) % 2 = 0 then sh else sh + 1
      let m' := m * 2 ^ sh
      let k := isqrt m' (Nat.log2 m' / 2 + 1) 0
      f.finish mode r .ieee false k ((e - sh) / 2) (k * k != m')

/-! ## Comparison, minimum, maximum, class -/

/-- `a < b` of values that are not NaN. -/
def FV.lt (a b : FV) : Bool :=
  match a, b with
  | .inf n, .inf n' => n && !n'
  | .inf n, _ => n
  | _, .inf n => !n
  | _, _ => decide ((a.dy.add b.dy.neg).v < 0)

/-- `a = b` of values that are not NaN; the zeros are equal. -/
def FV.eq (a b : FV) : Bool := !a.lt b && !b.lt a

/-- minimumNumber and maximumNumber (R171): the bits of the result and the flags. -/
def Fmt.minMax (f : Fmt) (max : Bool) (a b : Nat) : Nat × Fl :=
  let x := f.dec a
  let y := f.dec b
  let fl := flagIf (x.isSnan || y.isSnan) NV
  if x.isNan && y.isNan then (f.nanBits, fl)
  else if x.isNan then (b % 2 ^ f.width, fl)
  else if y.isNan then (a % 2 ^ f.width, fl)
  else
    let less := x.lt y || (x.eq y && x.isNeg && !y.isNeg)
    ((if less == max then b else a) % 2 ^ f.width, fl)

/-- A comparison by its condition code (R172): the truth value and the flags. -/
def Fmt.cmp (f : Fmt) (cond : Nat) (a b : Nat) : Bool × Fl :=
  let x := f.dec a
  let y := f.dec b
  let un := x.isNan || y.isNan
  let t := match cond with
    | 0 => !un && x.eq y
    | 1 => un || !x.eq y
    | 2 => !un && x.lt y
    | 3 => !un && !y.lt x
    | 4 => !un && y.lt x
    | 5 => !un && !x.lt y
    | 6 => un
    | _ => !un
  let ordering := decide (2 ≤ cond) && decide (cond ≤ 5)
  (t, flagIf (if ordering then un else x.isSnan || y.isSnan) NV)

/-- The one-hot class of FCLASS (R174). -/
def Fmt.cls (f : Fmt) (a : Nat) : Nat :=
  match f.dec a with
  | .nan s => if s then 256 else 512
  | .inf n => if n then 1 else 128
  | .zero n => if n then 8 else 16
  | .fin n m _ => if m < 2 ^ f.frac then if n then 4 else 32 else if n then 2 else 64

/-! ## Conversions (R127) -/

/-- A float in one format converted to another. -/
def Fmt.toFloat (src dst : Fmt) (mode r : Nat) (nan : Bool) (a : Nat) : Nat × Fl :=
  match src.dec a with
  | .nan s => if dst.nan.isSome then (dst.nanBits, flagIf s NV) else (0, NV)
  | .zero n => (dst.sign n, 0)
  | .inf n =>
    if dst.inf then (dst.infBits n, 0)
    else if nan && dst.nan.isSome then (dst.nanBits, OF)
    else (dst.sign n + dst.max, OF)
  | .fin n m e => dst.finish mode r (if nan then .nan else .largest) n m e false

/-- A float converted to a `w`-bit integer: the integer and the flags. The range check applies to the
rounded value (R173). -/
def Fmt.toInt (src : Fmt) (mode r w : Nat) (unsigned : Bool) (a : Nat) : Int × Fl :=
  match src.dec a with
  | .nan _ => (0, NV)
  | .zero _ => (0, 0)
  | .inf n => (if n then loOf w unsigned else hiOf w unsigned, NV ||| SAT)
  | .fin n m e =>
    let (k, inexact) := roundAt mode r n m e false 0
    let v : Int := if n then -(k : Int) else k
    if hiOf w unsigned < v then (hiOf w unsigned, NV ||| SAT)
    else if v < loOf w unsigned then (loOf w unsigned, NV ||| SAT)
    else (v, flagIf inexact NX)

/-- An integer converted to a float. -/
def Fmt.ofInt (dst : Fmt) (mode r : Nat) (nan : Bool) (v : Int) : Nat × Fl :=
  if v = 0 then (0, 0)
  else dst.finish mode r (if nan then .nan else .largest) (decide (v < 0)) v.natAbs 0 false

/-- `round_a48` of the sum of two values (R111): nearest even, overflow to an infinity, only NV and OF. -/
def addA48 (a b : FV) : Nat × Fl :=
  if a.isNan || b.isNan then (a48.nanBits, 0)
  else if a.isInf && b.isInf && a.isNeg != b.isNeg then (a48.nanBits, NV)
  else
    let (v, fl) := a48.sum 0 0 .ieee a b false
    (v, fl &&& OF)

end Sys2Proof.Machine
end

