-- ==== Sys2Proof/Machine/Cells.lean ====
section
/-! DEFINITION. Reading and writing the parts of a cell: registers, contexts, frame slots and their
presence states, ready queue, heap and tile table, continuations and handles. -/

namespace Sys2Proof.Machine

/-! ## Cells, contexts, clocks -/

/-- The die of a physical cell number (R9). -/
def dieOf (c : Nat) : Nat := c / 256

/-- The bay of a physical cell number (R9). -/
def bayOf (c : Nat) : Nat := c / 256 * 16 + c / 16 % 16 / 4 * 4 + c % 16 / 4

/-- A cell; one that nothing has touched is in its scrubbed state. -/
def State.cell (s : State) (c : Nat) : Cell := s.cells.getD c {}

/-- The state with one cell changed. -/
def State.modCell (s : State) (c : Nat) (f : Cell → Cell) : State :=
  { s with cells := s.cells.put c (f (s.cell c)) }

/-- A context slot of a cell. -/
def Cell.cx (c : Cell) (x : Nat) : Ctx := c.ctxs.getD x {}

/-- The cell with one context changed. -/
def Cell.modCx (c : Cell) (x : Nat) (f : Ctx → Ctx) : Cell := { c with ctxs := c.ctxs.put x (f (c.cx x)) }

/-- A context slot of the module: cell and slot number. -/
def State.cx (s : State) (c x : Nat) : Ctx := (s.cell c).cx x

/-- The state with one context changed. -/
def State.modCx (s : State) (c x : Nat) (f : Ctx → Ctx) : State := s.modCell c fun k => k.modCx x f

/-- Unsuppressed ac of a die so far (R17, R18). -/
def State.dieAc (s : State) (die : Nat) : Nat := (s.clock.ac16.toList.getD die 0) / 16

/-- Unsuppressed ac of a cell so far, less those for which a freeze gated its clock (R17, R18, R327). -/
def State.ac (s : State) (c : Nat) : Nat := s.dieAc (dieOf c) - s.gated.getD (bayOf c) 0

/-- Global time at a cell's die (R222, R360); the front end stands on die 0. -/
def State.now (s : State) (c : Nat) : Word := s.clock.gt.toList.getD (dieOf c % 8) 0

/-- The next serial number, and the state that has used it. -/
def State.fresh (s : State) : Nat × State := (s.serial, { s with serial := s.serial + 1 })

/-- A performance counter of a context raised by one (R230). -/
def State.count (s : State) (c x n : Nat) : State :=
  s.modCx c x fun k => { k with perf := k.perf.put n (k.perf.getD n 0 + 1) }

/-- A performance counter of a cell raised by one (R230). -/
def State.countCell (s : State) (c n : Nat) : State :=
  s.modCell c fun k => { k with perf := k.perf.put n (k.perf.getD n 0 + 1) }

/-! ## The lane at work -/

/-- The lane of the present cell. -/
def State.lane (s : State) : Lane := (s.cell s.cur).lane

/-- The state with the present lane changed. -/
def State.modLane (s : State) (f : Lane → Lane) : State := s.modCell s.cur fun c => { c with lane := f c.lane }

/-- The firing on the present lane. -/
def State.fir (s : State) : Firing := s.lane.fir

/-- The context of the firing on the present lane. -/
def State.fcx (s : State) : Ctx := s.cx s.cur s.fir.ctx

/-- A scalar register (R156): `x0` reads zero. -/
def Regs.get (r : Regs) (n : BitVec 4) : Word := if n = 0 then 0 else r.x.get n.toFin

/-- A scalar register written (R156): a write to `x0` is discarded. -/
def Regs.set (r : Regs) (n : BitVec 4) (v : Word) : Regs :=
  if n = 0 then r else { r with x := r.x.set n.toNat v n.isLt }

/-- A predicate (R156): `p0` reads true. -/
def Regs.pred (r : Regs) (n : BitVec 3) : Bool := if n = 0 then true else r.p.get n.toFin

/-- A predicate written (R156): a write to `p0` is discarded. -/
def Regs.setPred (r : Regs) (n : BitVec 3) (v : Bool) : Regs :=
  if n = 0 then r else { r with p := r.p.set n.toNat v n.isLt }

/-- Scalar register `n` of the present lane. -/
def State.x (s : State) (n : BitVec 4) : Word := s.lane.regs.get n

/-- Scalar register `n` of the present lane written. -/
def State.setX (s : State) (n : BitVec 4) (v : Word) : State :=
  s.modLane fun l => { l with regs := l.regs.set n v }

/-- Predicate `n` of the present lane. -/
def State.pr (s : State) (n : BitVec 3) : Bool := s.lane.regs.pred n

/-- Predicate `n` of the present lane written. -/
def State.setP (s : State) (n : BitVec 3) (v : Bool) : State :=
  s.modLane fun l => { l with regs := l.regs.setPred n v }

/-- A 4-bit guard (R138): the predicate, negated by bit 3. -/
def State.guard (s : State) (g : BitVec 4) : Bool := s.pr (g.extractLsb' 0 3) != g.getLsbD 3

/-- Flags ORed into CTL_FLAGS of a context (R133). -/
def State.orFlags (s : State) (c x : Nat) (fl : BitVec 7) : State :=
  if fl = 0 then s else s.modCx c x fun k => { k with ctl := { k.ctl with flags := k.ctl.flags ||| fl } }

/-- Flags of an instruction of the present firing ORed into CTL_FLAGS. -/
def State.flag (s : State) (fl : BitVec 7) : State := s.orFlags s.cur s.fir.ctx fl

/-! ## Codelet headers (R134) -/

/-- A codelet or kernel header's fields. -/
structure Header where
  kind : Nat
  slot : Nat
  length : Nat
  ndest : Nat
  low : Nat
  deriving DecidableEq, Repr

/-- A word of a context's image; a word beyond it reads zero. -/
def imageWord (img : List IWord) (ia : Nat) : IWord := img.getD ia 0

/-- The header in an image word (R134). -/
def headerOf (w : IWord) : Header :=
  { kind := w.toNat / 2 ^ 30, slot := w.toNat / 2 ^ 18 % 2 ^ 12, length := w.toNat / 2 ^ 10 % 2 ^ 8,
    ndest := w.toNat / 2 ^ 4 % 2 ^ 6, low := w.toNat % 2 ^ 4 }

/-- A header that a token may be addressed to (R24): kind 00 or 01, low bits zero, a body, no match slot
for a monadic codelet, and the codelet inside the image. -/
def headerOk (img : List IWord) (ia : Nat) : Bool :=
  let h := headerOf (imageWord img ia)
  decide (ia < img.length) && decide (h.kind < 2) && h.low == 0 && h.length != 0 &&
    (h.kind != 0 || h.slot == 0) && decide (ia + 1 + h.length + (h.ndest + 1) / 2 ≤ img.length)

/-- Destination word `j` of the codelet whose header stands at `ia` (R135). -/
def destWord (img : List IWord) (ia j : Nat) : Nat :=
  let h := headerOf (imageWord img ia)
  (imageWord img (ia + 1 + h.length + j / 2)).toNat / 2 ^ (16 * (j % 2)) % 2 ^ 16

/-! ## Continuations (R22, R23) -/

/-- The vcell of a continuation or handle. -/
def vcellOf (w : Word) : Nat := bits w 53 11
/-- The context of a continuation or handle. -/
def ctxOf (w : Word) : Nat := bits w 50 3
/-- The frame base of a continuation. -/
def baseOf (w : Word) : Nat := bits w 35 15
/-- The IA of a continuation. -/
def iaOf (w : Word) : Nat := bits w 21 14
/-- The port of a continuation. -/
def portOf (w : Word) : Nat := bits w 20 1
/-- The priority class of a continuation. -/
def prioOf (w : Word) : Nat := bits w 18 2
/-- The region id of a tag. -/
def regionOf (w : Word) : Nat := bits w 24 8

/-- A continuation from its fields. -/
def mkCont (vcell ctx base ia port prio : Nat) : Word :=
  word (vcell % 2 ^ 11 * 2 ^ 53 + ctx % 2 ^ 3 * 2 ^ 50 + base % 2 ^ 15 * 2 ^ 35 + ia % 2 ^ 14 * 2 ^ 21 +
    port % 2 * 2 ^ 20 + prio % 4 * 2 ^ 18)

/-- A continuation with its priority class replaced. -/
def withPrio (w : Word) (p : Nat) : Word :=
  word (w.toNat / 2 ^ 20 * 2 ^ 20 + p % 4 * 2 ^ 18 + w.toNat % 2 ^ 18)

/-- A frame reference: IA and port zero (R22). -/
def isFrameRef (w : Word) : Bool := iaOf w == 0 && portOf w == 0

/-- The check of R23 on a continuation, for a placement of `n` cells and an issuing context. -/
def contOk (n x : Nat) (w : Word) : Bool :=
  bits w 0 18 == 0 && decide (vcellOf w < n) && ctxOf w == x

/-- The check of R23 where the continuation must name a codelet. -/
def replyOk (n x : Nat) (w : Word) : Bool := contOk n x w && !isFrameRef w

/-- The check of R23 on a tag. -/
def tagOk (w : Word) : Bool := bits w 0 24 == 0

/-- A tag with its region field zero. -/
def noRegion (w : Word) : Word := word (w.toNat / 2 ^ 32 * 2 ^ 32)

/-- The return continuation of an instance (R305). -/
def isReturn (w : Word) : Bool :=
  vcellOf w == 0 && baseOf w == 0 && iaOf w == Config.returnIA && portOf w == 0 && prioOf w == 3

/-! ## Handles and tiles (R44 to R47, R71, R195) -/

/-- The tile-table index of a handle. -/
def indexOf (h : Word) : Nat := bits h 38 12
/-- The generation of a handle. -/
def genOf (h : Word) : BitVec 8 := BitVec.ofNat 8 (bits h 30 8)

/-- A handle from its fields. -/
def mkHandle (vcell ctx index : Nat) (gen : BitVec 8) : Word :=
  word (vcell % 2 ^ 11 * 2 ^ 53 + ctx % 2 ^ 3 * 2 ^ 50 + index % 2 ^ 12 * 2 ^ 38 + gen.toNat * 2 ^ 30)

/-- A tile-table entry; an entry that was never used is FREE with generation 0. -/
def Cell.tile (c : Cell) (i : Nat) : Tile := c.heap.tiles.getD i {}

/-- The cell with a tile-table entry changed. -/
def Cell.modTile (c : Cell) (i : Nat) (f : Tile → Tile) : Cell :=
  { c with heap := { c.heap with tiles := c.heap.tiles.put i (f (c.tile i)) } }

/-- The state with a tile-table entry changed. -/
def State.modTile (s : State) (c i : Nat) (f : Tile → Tile) : State := s.modCell c fun k => k.modTile i f

/-- What a handle names for a context of a cell (R195). -/
inductive HRef where
  | stale
  | here (index : Nat)
  | there (cell : Nat)
  deriving DecidableEq, Repr

/-- A handle is fit for its entry at the owning cell: live and of the entry's generation (R44). -/
def Cell.fits (c : Cell) (h : Word) : Bool :=
  (c.tile (indexOf h)).live && (c.tile (indexOf h)).gen == genOf h && !(c.tile (indexOf h)).hidden

/-- A handle operand resolved (R44, R195): stale, on the issuing cell, or on another cell. -/
def State.resolve (s : State) (c x : Nat) (h : Word) : HRef :=
  let k := s.cx c x
  if bits h 0 30 ≠ 0 || ctxOf h ≠ x || decide (k.place.length ≤ vcellOf h) then .stale
  else if vcellOf h = k.vcell then
    if (s.cell c).fits h then .here (indexOf h) else .stale
  else .there (k.place.getD (vcellOf h) 0)

/-- Bits of an element (R71); code 0xF has none. -/
def eb (fmt : Nat) : Nat :=
  match fmt with
  | 0 => 32 | 1 => 16 | 2 => 16 | 3 => 8 | 4 => 8 | 5 => 4 | 6 => 8 | 7 => 4
  | 8 => 16 | 9 => 48 | 10 => 32 | 11 => 16 | 12 => 64 | 13 => 32 | 14 => 8 | _ => 0

/-- Heap blocks of a tile (R45): each row padded to 64 bytes. -/
def blocksOf (fmt rows cols : Nat) : Nat := ceilDiv (rows * (ceilDiv (ceilDiv (cols * eb fmt) 8) 64 * 64)) 512

/-- Blocks that an allocation can have: free ones and ones being zeroed that no one is owed (R197). -/
def Heap.avail (h : Heap) : Nat := h.free + h.zeroing - h.owed

/-- The lowest FREE tile-table entry (R197). -/
def Heap.entry (h : Heap) : Option Nat := (List.range Config.tileEntries).find? fun i => !(h.tiles.getD i {}).live

/-- An allocation under R197: the index taken, or HEAP_EXHAUSTED's detail. The blocks that are not yet
zeroed stay owed to it. -/
def Heap.alloc (h : Heap) (t : Tile) : Except Nat (Nat × Heap) :=
  match h.entry with
  | none => .error 0
  | some i =>
    let need := blocksOf t.fmt t.rows t.cols
    if h.avail < need then .error need
    else
      let now := Nat.min h.free need
      .ok (i, { h with
        free := h.free - now
        owed := h.owed + (need - now)
        tiles := h.tiles.put i { t with live := true, gen := (h.tiles.getD i {}).gen, blocks := need } })

/-- The blocks of a tile given back, to be zeroed (R197, R201). -/
def Heap.release (h : Heap) (n : Nat) : Heap := { h with zeroing := h.zeroing + n }

/-- A tile-table entry freed (R46, R201): its generation advances and it is FREE at once; its blocks and
its old contents outlive it while commands in flight name it. -/
def Cell.freeTile (c : Cell) (i : Nat) : Cell :=
  let t := c.tile i
  if !t.live then c
  else
    let h := if t.inflight = 0 then c.heap.release t.blocks
      else { c.heap with ghosts := c.heap.ghosts.put (i * 256 + t.gen.toNat) t }
    { c with heap := { h with tiles := h.tiles.put i { gen := t.gen + 1 } } }

/-- The tile a command named at issue: the live entry, or the old contents it keeps (R201). -/
def Cell.named (c : Cell) (i : Nat) (gen : BitVec 8) : Tile :=
  if (c.tile i).live && (c.tile i).gen == gen then c.tile i else c.heap.ghosts.getD (i * 256 + gen.toNat) {}

/-- The tile a command named, changed in place. -/
def Cell.modNamed (c : Cell) (i : Nat) (gen : BitVec 8) (f : Tile → Tile) : Cell :=
  if (c.tile i).live && (c.tile i).gen == gen then c.modTile i f
  else match c.heap.ghosts.get? (i * 256 + gen.toNat) with
    | none => c
    | some t => { c with heap := { c.heap with ghosts := c.heap.ghosts.put (i * 256 + gen.toNat) (f t) } }

/-- An in-flight count given back (R201): at zero, a freed entry's blocks go, and what elements held before is forgotten. -/
def Cell.landTile (c : Cell) (i : Nat) (gen : BitVec 8) : Cell :=
  if (c.tile i).live && (c.tile i).gen == gen then
    c.modTile i fun t => { t with inflight := t.inflight - 1, olds := if t.inflight ≤ 1 then [] else t.olds }
  else match c.heap.ghosts.get? (i * 256 + gen.toNat) with
    | none => c
    | some t =>
      if t.inflight ≤ 1 then
        { c with heap := { c.heap.release t.blocks with ghosts := c.heap.ghosts.del (i * 256 + gen.toNat) } }
      else { c with heap := { c.heap with ghosts := c.heap.ghosts.put (i * 256 + gen.toNat) { t with inflight := t.inflight - 1 } } }

/-- One reference released (R47): at zero the entry is freed. -/
def Cell.dropRef (c : Cell) (i : Nat) : Cell :=
  if (c.tile i).count ≤ 1 then c.freeTile i else c.modTile i fun t => { t with count := t.count - 1 }

/-- An element of a tile: raw bits, zero where nothing was written. -/
def Tile.el (t : Tile) (i : Nat) : Word := t.els.getD i 0

/-- Heap block rows of a row of a tile (R45): one for each 64 bytes. -/
def Tile.blockRows (t : Tile) : Nat := ceilDiv (ceilDiv (t.cols * eb t.fmt) 8) 64

/-- The block row in which an element begins. -/
def Tile.rowOfEl (t : Tile) (i : Nat) : Nat := i / t.cols * t.blockRows + i % t.cols * eb t.fmt / 512

/-- An element of a tile written: its block row has a fresh check value (R237, R359). -/
def Tile.setEl (t : Tile) (i : Nat) (v : Word) : Tile :=
  { t with
    els := t.els.set 0 i v
    bad := t.bad.filter (· != i)
    unchecked := if t.unchecked.isEmpty then [] else t.unchecked.filter (· != t.rowOfEl i) }

/-- An element written by an HST at a serial number, while commands in flight may still read what it held (R206). -/
def Tile.hst (t : Tile) (n i : Nat) (v : Word) : Tile :=
  let q := t.setEl i v
  if t.inflight = 0 then q else { q with olds := t.olds ++ [(i, n, t.el i, 0)] }

/-- An element written by a command of an engine at a serial number, while other commands in flight may still read what it held (R236): the
command itself reads what it has written (R291). -/
def Tile.engineSet (t : Tile) (n uid i : Nat) (v : Word) : Tile :=
  let q := t.setEl i v
  if t.inflight ≤ 1 then (if t.olds.isEmpty then q else { q with olds := t.olds.filter fun o => o.1 != i })
  else { q with olds := t.olds ++ [(i, n, t.el i, uid)] }

/-- What an element of a tile has held since a command was issued, or since that command wrote it, but for its present value. -/
def Tile.heldSince (t : Tile) (uid e : Nat) : List Word :=
  ((t.olds.filter fun o => o.1 == e).foldl (fun l o => if o.2.2.2 = uid then [] else l ++ [o]) []).filterMap fun o =>
    if uid < o.2.1 then some o.2.2.1 else none

/-- The tile as a command reads it (R206, R236): an element that an HST or another command has written since the command was issued has
one of the values it held since, whichever `Config.lateRead` picks. -/
def Tile.asRead (t : Tile) (uid : Nat) : Tile :=
  if t.olds.isEmpty then t
  else { t with els := (t.olds.map (·.1)).eraseDups.foldl (fun els e =>
    let vs := t.heldSince uid e ++ [t.el e]
    els.set 0 e (vs.getD (Config.lateRead uid e % vs.length) 0)) t.els }

/-- The cell with its tiles as a command reads them (R206). -/
def Cell.readBy (c : Cell) (uid : Nat) : Cell :=
  if c.heap.tiles.all fun e => e.2.olds.isEmpty then c
  else { c with heap := { c.heap with tiles := c.heap.tiles.map fun (e : Nat × Tile) => (e.1, e.2.asRead uid) } }

/-- Elements written by a command of an engine from an index on. -/
def Tile.engineSets (t : Tile) (n uid i : Nat) : List Word → Tile
  | [] => t
  | v :: vs => Tile.engineSets (t.engineSet n uid i v) n uid (i + 1) vs

/-- Elements of a tile written from an index on. -/
def Tile.setEls (t : Tile) (i : Nat) : List Word → Tile
  | [] => t
  | v :: vs => Tile.setEls (t.setEl i v) (i + 1) vs

/-! ## Frame slots (R30 to R39) -/

/-- Slots of a frame of a size class (R31). -/
def clsSlots (k : Nat) : Nat := if k = 7 then 4096 else 16 * 2 ^ k

/-- The state of an absolute slot; none is EMPTY (R36). -/
def State.slot (s : State) (c k : Nat) : Option Slot := (s.cell c).slots.get? k

/-- An absolute slot set. -/
def State.setSlot (s : State) (c k : Nat) (v : Option Slot) : State :=
  s.modCell c fun d => { d with
    slots := (match v with | none => d.slots.del k | some w => d.slots.put k w)
    ftoks := d.ftoks.filter (· != k) }

/-- Slots of a run emptied. -/
def dropSlots (t : Tbl Slot) (lo n : Nat) : Tbl Slot := t.filter fun e => decide (e.1 < lo) || decide (lo + n ≤ e.1)

/-- An entry enters the ready queue at the tail of its class (R53). -/
def State.pushReady (s : State) (c cls : Nat) (b : ReadyBody) : State :=
  s.modCell c fun d => { d with ready := d.ready ++ [{ cls := cls, since := s.ac c, body := b }] }

/-- New firings that wait for the lane (R53). -/
def Cell.newReady (c : Cell) : Nat := (c.ready.filter fun r => match r.body with | .fresh _ => true | _ => false).length

/-- The suspension record that waits on an absolute slot: its key and what it holds (R38). -/
def Cell.waiter (c : Cell) (k : Nat) : Option (Nat × SuspRec) :=
  c.recs.find? fun e => e.2.slot == k && e.2.value.isNone

/-- The key of a new suspension record (R38): the lowest free on-chip one, else a place of its slot. The
key of a place is 64 + 1024 × slot + n: a place whose firing has resumed but not run yet stays taken. -/
def Cell.recKey (c : Cell) (k : Nat) : Nat :=
  match c.recs.firstFree 0 Config.chipRecords with
  | some r => r
  | none => (c.recs.firstFree (Config.chipRecords + 1024 * k) 1024).getD (Config.chipRecords + 1024 * k)

/-- A slot written by an FST, a reply, a status write or a created handle (R39): a deferred reader gets
the value and enters the ready queue at the tail of its class (R40). -/
def State.writeSlot (s : State) (c k : Nat) (v : Word) : State :=
  match s.slot c k with
  | some (.deferred _ _ prio _) =>
    let s := s.setSlot c k (some (.full v))
    match (s.cell c).waiter k with
    | none => s
    | some (key, q) =>
      (s.modCell c fun d => { d with recs := d.recs.put key { q with value := some v } }).pushReady c prio (.resumed key)
  | _ => s.setSlot c k (some (.full v))

/-- A slot reached in the present ac by a token that parks or completes a match, a status write or a reply (R180). -/
def State.touch (s : State) (c k : Nat) : State :=
  s.modCell c fun d => { d with touched := (s.ac c, k :: if d.touched.1 = s.ac c then d.touched.2 else []) }

/-- A slot's DEFERRED state. -/
def isDeferred : Option Slot → Bool
  | some (.deferred _ _ _ _) => true
  | _ => false

/-- A live frame of a context by its base. -/
def State.frame? (s : State) (c x b : Nat) : Option Frame := (s.cx c x).frames.get? b

/-- Slots of the frame at a base: none where no frame is live. -/
def State.frameSize (s : State) (c x b : Nat) : Nat :=
  match s.frame? c x b with
  | some f => clsSlots f.cls
  | none => 0

end Sys2Proof.Machine
end

