-- ==== Sys2Proof/Machine/Logs.lean ====
section
/-! DEFINITION. The store logs of the stacks (R76 to R86, R94) as data: appending entries, publishing,
what a context's own load sees, voiding. -/

namespace Sys2Proof.Machine

/-- A stack's log state. -/
def State.stack (s : State) (i : Nat) : Stack := s.hbm.toList.getD i {}

/-- A list entry changed at an index. -/
def listMod {α : Type} : List α → Nat → (α → α) → List α
  | [], _, _ => []
  | a :: as, 0, f => f a :: as
  | a :: as, n + 1, f => a :: listMod as n f

/-- The state with one stack changed. -/
def State.modStack (s : State) (i : Nat) (f : Stack → Stack) : State :=
  if h : i < 16 then { s with hbm := s.hbm.set i (f (s.hbm.get ⟨i, h⟩)) h } else s

/-- A sub-log of a stack. -/
def Stack.sub (k : Stack) (key : Nat) : SubLog := k.subs.getD key {}

/-- The state with one sub-log changed. -/
def State.modSub (s : State) (i key : Nat) (f : SubLog → SubLog) : State :=
  s.modStack i fun k => { k with subs := k.subs.put key (f (k.sub key)) }

/-- A sub-log of the module: stack and key. -/
def State.sub (s : State) (i key : Nat) : SubLog := (s.stack i).sub key

/-- A ring of `size` bytes is full (R76). -/
def SubLog.full (l : SubLog) : Bool := decide (l.size / 128 ≤ l.entries.length)

/-- Entries that stand in a sub-log and have not been published. -/
def SubLog.unpublished (l : SubLog) : List Entry := l.entries.filter fun e => !e.published

/-- An entry appended at the tail with the next sequence number (R77, R78). -/
def SubLog.append (l : SubLog) (e : Entry) : SubLog :=
  { l with entries := l.entries ++ [{ e with seq := l.tail }], tail := l.tail + 1 }

/-- A DATA entry for the bytes of one granule: check value over its data words (R77). -/
def dataEntry (gran : Nat) (bs : List Byte) (mask region : Nat) (key : Option (BitVec 512)) (gpa : Nat) : Entry :=
  { kind := .data, data := BitVec.ofNat 512 (leNat bs), mask := word mask, gran := gran, region := region,
    check := crc16 bs, key := key, gpa := gpa }

/-- The 64 bytes of an entry's data. -/
def Entry.bytes (e : Entry) : List Byte := leBytes e.data.toNat 64

/-- The 16 words of an entry as they stand in the ring (R77): `src` and `smod` are the sub-log's. -/
def Entry.words (e : Entry) (src smod : BitVec 16) : List Word :=
  let kind := match e.kind with | .data => 0 | .remap => 1 | .void => 2
  bytesWords e.bytes ++
    [e.mask, word (e.gran * 64), word (kind * 2 ^ 62 + e.region * 2 ^ 48 + src.toNat * 2 ^ 32 + e.seq.toNat),
     word (e.check.toNat + smod.toNat * 2 ^ 16), 0, 0, 0, 0]

/-- Where the entry of a sequence number stands in memory (R314): the sub-log of a stack takes the 4 KiB units of its range whose
address bits [15:12] are the stack's number. -/
def SubLog.place (l : SubLog) (stack seq : Nat) : Option Nat :=
  l.base.map fun b =>
    let off := seq % (l.size / 128) * 128
    b + off / 4096 * 65536 + stack * 4096 + off % 4096

/-- The module's reserved key (R319). -/
def State.moduleKey (s : State) : BitVec 512 := (s.keys.getD 0 {}).key

/-- The words of an entry written to its place in the ring, under the module's key (R77, R314, R319). -/
def State.ringWrite (s : State) (i key : Nat) (e : Entry) : State :=
  let l := s.sub i key
  match l.place i e.seq.toNat with
  | none => s
  | some a =>
    let bs := wordBytes (e.words l.src l.smod)
    (s.wrGran (some s.moduleKey) (a / 64) (bs.take 64)).wrGran (some s.moduleKey) (a / 64 + 1) (bs.drop 64)

/-- Entry `e` appended to a stack's sub-log; its stamp is the next serial number. -/
def State.appendEntry (s : State) (i key : Nat) (e : Entry) : State :=
  let (n, s) := s.fresh
  let q := (s.sub i key).tail
  (s.modSub i key fun l => l.append { e with stamp := n }).ringWrite i key { e with seq := q }

/-- A segment closed from the publication point to the tail and joined to the stack's order of arrival
(R82, R84, R90, R97); its tag is that of the firing whose instruction closed it (R323). -/
def State.publish (s : State) (i key : Nat) (kind : SegKind) (rseq : BitVec 32) (ia op : Nat) (tag : Word := 0)
    (faulty : Bool := false) : State :=
  let l := s.sub i key
  let new := l.unpublished
  s.modStack i fun k =>
    { k with
      subs := k.subs.put key { l with entries := l.entries.map fun e => { e with published := true } }
      segs := k.segs ++ [{ key := key, count := new.length, first := (new.head?.map (·.seq)).getD l.tail,
                           rseq := rseq, kind := kind, ia := ia, op := op, tag := tag, faulty := faulty }] }

/-- Unpublished entries that `p` picks become VOID (R91). Shadow pages of REMAP entries among them are
returned by the caller. -/
def State.voidIn (s : State) (i key : Nat) (p : Entry → Bool) : State :=
  let gone := ((s.sub i key).entries.filter fun e => !e.published && p e).map fun e => { e with kind := .void }
  let s := s.modSub i key fun l =>
    { l with entries := l.entries.map fun e => if !e.published && p e then { e with kind := .void } else e }
  gone.foldl (fun s e => s.ringWrite i key e) s

/-- REMAP entries among a sub-log's unpublished entries that `p` picks. -/
def SubLog.remaps (l : SubLog) (p : Entry → Bool) : List Entry :=
  l.entries.filter fun e => !e.published && e.kind == .remap && p e

/-- Bytes of a page of a size code 0 to 2 (R69, R316). -/
def pageBytes (code : Nat) : Nat := match code with | 0 => 2 ^ 16 | 1 => 2 ^ 21 | _ => 2 ^ 24

/-- An address lies in a page. -/
def inPage (page size a : Nat) : Bool := decide (page ≤ a) && decide (a < page + pageBytes size)

/-- Where a granule lies now for an entry of a log: in the page that a committed REMAP of that log, before the
entry, put in the place of the one it was translated to (R93, R94). -/
def moved (log stamp : Nat) : Nat → List Leaving → Nat → Nat
  | 0, _, g => g
  | n + 1, ms, g =>
    match ms.find? fun m => m.log == log && decide (m.stamp < stamp) && inPage m.page m.size (g * 64) with
    | none => g
    | some m => moved log stamp n (ms.filter fun q => decide (m.stamp < q.stamp)) ((m.next + (g * 64 - m.page)) / 64)

/-- Where an entry's granule lies now. -/
def Entry.here (e : Entry) (ms : List Leaving) (log : Nat) : Nat := moved log e.stamp ms.length ms e.gran

/-- The new page of a REMAP entry (R77). -/
def Entry.page (e : Entry) : Nat := leNat ((e.bytes.drop 8).take 8)

/-- The unapplied REMAP entries of a context's logs. -/
def State.remapsDue (s : State) (log : Nat) : List Entry :=
  (List.range 16).flatMap fun i => (s.sub i log).entries.filter fun e => e.kind == .remap

/-- The latest of some REMAP entries. -/
def latest (es : List Entry) : Option Entry :=
  es.foldl (fun best e => match best with
    | some r => if r.stamp < e.stamp then some e else best
    | none => some e) none

/-- The granule that an entry's bytes are applied to (R94): where its granule lies now, or in the new page of
the latest unapplied REMAP of its log that stands before it and names that page. `rs` are the unapplied ones. -/
def Entry.landing (e : Entry) (ms : List Leaving) (rs : List Entry) (log : Nat) : Nat :=
  let g := e.here ms log
  match latest (rs.filter fun r => decide (r.stamp < e.stamp) && inPage (r.here ms log * 64) r.size (g * 64)) with
  | none => g
  | some r => (r.page + (g * 64 - r.here ms log * 64)) / 64

/-- The latest unapplied REMAP of a context's logs over the page of an address (R94): the shadow page's
base, the old page's base and the entry's stamp. -/
def State.ownRemap (s : State) (log pa : Nat) : Option (Nat × Nat × Nat) :=
  let old := fun (e : Entry) => if inPage (e.gran * 64) e.size pa then e.gran * 64 else e.here s.leaving log * 64
  (latest ((s.remapsDue log).filter fun e => inPage (old e) e.size pa)).map fun e => (e.page, old e, e.stamp)

/-- A byte of an entry read under a key. -/
def entryByte (e : Entry) (key : Option (BitVec 512)) (a : Nat) (b : Byte) : Byte :=
  match key with
  | none => b
  | some k => match e.key with
    | none => b
    | some q => if q = k then b else Config.crossKey q k a b

/-- Own unapplied DATA entries merged over a granule's bytes in log order (R81). -/
def mergeOwn (es : List Entry) (key : Option (BitVec 512)) (g : Nat) (bs : List Byte) : List Byte :=
  es.foldl (fun bs e =>
    let ds := (e.bytes.zipIdx).map fun q => entryByte e key (g * 64 + q.2) q.1
    mergeBytes 0 bs ds e.mask.toNat) bs

/-- A granule as a load by one context sees it (R81, R89, R94): the applied image, or its own shadow
page, with its own later unapplied entries merged over. Log key 0 to 31 is a function's host log. -/
def State.loadGran (s : State) (log : Nat) (key : Option (BitVec 512)) (g : Nat) : List Byte :=
  let (base, t) := match s.ownRemap log (g * 64) with
    | some (page, old, t) => (page + (g * 64 - old), t)
    | none => (g * 64, 0)
  let bs := match key with
    | none => s.rdBytes base 64
    | some k => s.rdKeyBytes k base 64
  let es := (s.sub (stackOf (g * 64)) log).entries.filter fun e =>
    e.kind == .data && (e.gran == g || e.here s.leaving log == g) && decide (t ≤ e.stamp)
  mergeOwn es key g bs

/-- Bytes inside one granule as a load by one context sees them. -/
def State.loadBytes (s : State) (log : Nat) (key : Option (BitVec 512)) (pa n : Nat) : List Byte :=
  (s.loadGran log key (granOf pa)).drop (pa % 64) |>.take n

/-- Published segments of a sub-log that a stack has not applied. -/
def Stack.waiting (k : Stack) (key : Nat) : Nat := (k.segs.filter fun g => g.key == key).length

/-- Segments of a stack that touch a granule and have not been applied, whatever their log. -/
def Stack.touches (k : Stack) (g : Nat) : Bool :=
  k.segs.any fun q => (k.sub q.key).entries.any fun e => e.published && e.kind == .data && e.gran == g

end Sys2Proof.Machine
end

