-- ==== Sys2Proof/Machine/Xlate.lean ====
section
/-! DEFINITION. Tensor descriptors and the layout unit (R68 to R72, R74), the two-dimensional walk and
its caches (R316 to R319), record rings and error records (R298, R358, R369). -/

namespace Sys2Proof.Machine

/-- A function's registers and queues. -/
def State.fn (s : State) (f : Nat) : Fn := s.fns.getD f {}

/-- The state with one function changed. -/
def State.modFn (s : State) (f : Nat) (g : Fn → Fn) : State := { s with fns := s.fns.put f (g (s.fn f)) }

/-! ## The nested table (R316) -/

/-- What a walk of the nested table finds. -/
inductive NWalk where
  /-- system-physical address, the leaf's page base in the guest and in the system, its bytes, R, W -/
  | ok (pa gbase pbase size : Nat) (r w : Bool)
  /-- an entry with V = 0: its system-physical address -/
  | missing (entry : Nat)
  /-- an entry that breaks the table -/
  | broken
  /-- a stack of a die that is cut off holds what is needed (R349) -/
  | lost
  deriving DecidableEq, Repr

/-- Bits [51:12] of a table entry. -/
def entryAddr (e : Word) : Nat := bits e 12 40 * 4096

/-- The zero bits of every table entry (R316). -/
def entryZero (e : Word) : Bool := bits e 6 6 == 0 && bits e 52 12 == 0

/-- A nested leaf: entry `j` of its group, the page size and the size of the step between entries. -/
def leafWalk (e : Word) (gpa size step j : Nat) : NWalk :=
  let base := entryAddr e - j * step
  if entryAddr e < j * step || base % size ≠ 0 then .broken
  else .ok (base + gpa % size) (gpa / size * size) base size (bit e 2) (bit e 3)

/-- Bytes lie in the memory of the stacks (R14). -/
def inStacks (a n : Nat) : Bool := decide (a + n ≤ 16 * Config.stackBytes)

/-- The stack of an address is one of a die that is cut off (R349). -/
def State.cutAt (s : State) (a : Nat) : Bool := s.links.cut.contains (stackOf a / 2)

/-- A table entry that a walker reads at a system-physical address, and what follows from it. -/
def State.walkEntry (s : State) (a : Nat) (k : Word → NWalk) : NWalk :=
  if !inStacks a 8 then .broken else if s.cutAt a then .lost else if bit (s.rdWord a) 0 then k (s.rdWord a) else .missing a

/-- The walk of the four levels of a nested table from its root. An entry is checked by itself. -/
def nestedWalk (s : State) (root gpa : Nat) : NWalk :=
  if 2 ^ 48 ≤ gpa then .broken
  else
    s.walkEntry (root + gpa / 2 ^ 39 % 512 * 8) fun e0 =>
      if !entryZero e0 || bit e0 1 then .broken
      else s.walkEntry (entryAddr e0 + gpa / 2 ^ 30 % 512 * 8) fun e1 =>
        if !entryZero e1 || bit e1 1 then .broken
        else
          let i2 := gpa / 2 ^ 21 % 512
          s.walkEntry (entryAddr e1 + i2 * 8) fun e2 =>
            if !entryZero e2 then .broken
            else if bit e2 1 then
              (match bits e2 4 2 with
               | 2 => leafWalk e2 gpa (2 ^ 21) (2 ^ 21) 0
               | 3 => leafWalk e2 gpa (2 ^ 24) (2 ^ 21) (i2 % 8)
               | _ => .broken)
            else
              let i3 := gpa / 2 ^ 12 % 512
              s.walkEntry (entryAddr e2 + i3 * 8) fun e3 =>
                if !entryZero e3 || !bit e3 1 || bits e3 4 2 ≠ 1 then .broken
                else leafWalk e3 gpa (2 ^ 16) (2 ^ 12) (i3 % 16)

/-- The valid entries of a table of a nested translation: index and entry. -/
def State.validEntries (s : State) (table : Nat) : List (Nat × Word) :=
  (List.range 512).filterMap fun i =>
    let e := s.rdWord (table + 8 * i)
    if bit e 0 then some (i, e) else none

/-- What a nested table maps (R316), in steps of 4 KiB or 2 MiB: guest-physical address, system-physical address, bytes. -/
def State.leaves (s : State) (root : Nat) : List (Nat × Nat × Nat) :=
  (s.validEntries root).flatMap fun e0 =>
    (s.validEntries (entryAddr e0.2)).flatMap fun e1 =>
      (s.validEntries (entryAddr e1.2)).flatMap fun e2 =>
        let g := e0.1 * 2 ^ 39 + e1.1 * 2 ^ 30 + e2.1 * 2 ^ 21
        if bit e2.2 1 then [(g, entryAddr e2.2, 2 ^ 21)]
        else (s.validEntries (entryAddr e2.2)).map fun e3 => (g + e3.1 * 2 ^ 12, entryAddr e3.2, 2 ^ 12)

/-- The system pages that a nested table maps: base and bytes. -/
def State.mappedBy (s : State) (root : Nat) : List (Nat × Nat) := (s.leaves root).map (·.2)

/-- Where functions whose dirty pages are tracked map a system-physical address (R337): function and guest-physical address. -/
def State.trackedAt (s : State) (pa : Nat) : List (Nat × Nat) :=
  (s.fns.filter fun e => e.2.dirtySize != 0).flatMap fun e =>
    ((s.leaves e.2.ntroot).filter fun m => decide (m.2.1 ≤ pa) && decide (pa < m.2.1 + m.2.2)).map fun m => (e.1, m.1 + (pa - m.2.1))

/-- The cached translations that an agent's requests meet (R11, R15, R317): the L1 TLB of a cell, then the last-level
TLB of its die; the front end stands on die 0. -/
def State.tlbOf (s : State) (a : Nat) : List TlbEntry :=
  (if a < Config.cells then (s.cell a).tlb else []) ++ s.tlb.filter fun t => t.die == dieOf a % 8

/-- Two entries are for one page. -/
def TlbEntry.same (t e : TlbEntry) : Bool := t.fn == e.fn && t.root == e.root && t.gpa == e.gpa

/-- A translation kept for an agent (R317): in the last-level TLB of its die and in the L1 TLB of its cell, each of which
lets its oldest entry go when it is full (log 88). -/
def State.keepTlb (s : State) (a : Nat) (e : TlbEntry) : State :=
  let d := dieOf a % 8
  let e := { e with die := d }
  let s := if s.tlb.any fun t => t.die == d && t.same e then s
    else { s with tlb := (if Config.dieTlb ≤ (s.tlb.filter fun t => t.die == d).length then s.tlb.eraseP fun t => t.die == d else s.tlb) ++ [e] }
  if a < Config.cells && !((s.cell a).tlb.any fun t => t.same e) then
    s.modCell a fun c => { c with tlb := (if Config.cellTlb ≤ c.tlb.length then c.tlb.tail else c.tlb) ++ [e] }
  else s

/-- A walk's end at an address that no stack holds (R14) is none that the table may name; one at a stack of a die that is cut off is lost
(R349). -/
def State.ends (s : State) (w : NWalk) : NWalk :=
  match w with
  | .ok pa gb pb size r' w' => if !inStacks pa 1 then .broken else if s.cutAt pa then .lost else .ok pa gb pb size r' w'
  | w => w

/-- A guest-physical address of a function through the cached translations of the agent `a` that asks, else a walk (R317).
The PF's guest-physical addresses are system-physical ones. -/
def State.nested (s : State) (a f gpa : Nat) : NWalk :=
  s.ends <|
  if f = 0 then .ok gpa (gpa / 2 ^ 16 * 2 ^ 16) (gpa / 2 ^ 16 * 2 ^ 16) (2 ^ 16) true true
  else
    match (s.tlbOf a).find? fun t => t.fn == f && t.root.isNone && decide (t.gpa ≤ gpa) && decide (gpa < t.gpa + t.bytes) with
    | some t => .ok (t.pa + (gpa - t.gpa)) t.gpa t.pa t.bytes t.r t.w
    | none => nestedWalk s (s.fn f).ntroot gpa

/-- A valid nested translation kept in the caches (R317). -/
def State.keepNested (s : State) (a f gpa : Nat) : State :=
  if f = 0 then s
  else match s.nested a f gpa with
    | .ok _ gb pb size r w => s.keepTlb a { fn := f, gpa := gb, bytes := size, pa := pb, r := r, w := w }
    | _ => s

/-- A guest-physical address for an access that does not park: the front end's, a window's or a
record's. -/
def State.gpaOf (s : State) (f gpa : Nat) (write : Bool) : Except FaultCode Nat :=
  match s.nested Config.frontEnd f gpa with
  | .ok pa _ _ _ r w => if write && !w || !write && !r then .error .permission else .ok pa
  | .missing _ => .error .translation
  | .broken => .error .translation
  | .lost => .error .linkLost

/-! ## The tensor page table -/

/-- How a translation ends: an address (with the guest address and the nested leaf's bytes), a fault, or
a resolvable page fault of the tensor table or of the nested table (R318). -/
inductive XRes where
  | ok (pa gpa leaf : Nat) (w : Bool)
  | fault (c : FaultCode)
  | missTensor (entry : Nat)
  | missNested (gpa entry : Nat)
  deriving DecidableEq, Repr

/-- A read of a tensor-table entry through the nested table. -/
def tableEntry (s : State) (a f gpa : Nat) : Except XRes Word :=
  match s.nested a f gpa with
  | .ok pa _ _ _ r _ => if r then .ok (s.rdWord pa) else .error (.fault .permission)
  | .missing e => .error (.missNested gpa e)
  | .broken => .error (.fault .translation)
  | .lost => .error (.fault .linkLost)

/-- One level of the tensor page table: the address in an entry. -/
def tableStep (s : State) (a f table idx : Nat) : Except XRes Nat :=
  match tableEntry s a f (table + idx * 8) with
  | .error e => .error e
  | .ok e =>
    if !bit e 0 then .error (.missTensor (table + idx * 8))
    else if !entryZero e || bits e 1 5 ≠ 0 then .error (.fault .translation)
    else .ok (entryAddr e)

/-- The guest page of a tensor page: from the caches, or by the three levels from the root (R316). -/
def guestPage (s : State) (a f root tpn psize : Nat) : Except XRes (Nat × List Nat) :=
  match (s.tlbOf a).find? fun t => t.fn == f && t.root == some (root, tpn) with
  | some t => .ok (t.gpa, t.uses)
  | none =>
    if 2 ^ 27 ≤ tpn then .error (.fault .translation)
    else
      match tableStep s a f root (tpn / 2 ^ 18) with
      | .error e => .error e
      | .ok t1 =>
        match tableStep s a f t1 (tpn / 2 ^ 9 % 512) with
        | .error e => .error e
        | .ok t2 =>
          match tableStep s a f t2 (tpn % 512) with
          | .error e => .error e
          | .ok page =>
            if page % psize ≠ 0 then .error (.fault .translation)
            else .ok (page, [root + tpn / 2 ^ 18 * 8, t1 + tpn / 2 ^ 9 % 512 * 8, t2 + tpn % 512 * 8])

/-- The translation of an offset in a tensor page for reading or writing, asked for by an agent. -/
def State.xlate (s : State) (a f root tpn psize pgo : Nat) (write : Bool) : XRes :=
  match guestPage s a f root tpn psize with
  | .error e => e
  | .ok (page, _) =>
    match s.nested a f (page + pgo) with
    | .ok pa _ _ size r w =>
      if write && !w || !write && !r then .fault .permission else .ok pa (page + pgo) size w
    | .missing e => .missNested (page + pgo) e
    | .broken => .fault .translation
    | .lost => .fault .linkLost

/-- The caches after a translation that succeeded (R317): the tensor page, and the nested leaves used. -/
def State.keepXlate (s : State) (a f root tpn psize pgo : Nat) : State :=
  match guestPage s a f root tpn psize with
  | .error _ => s
  | .ok (page, uses) =>
    let s := uses.foldl (fun s g => s.keepNested a f g) s
    let s := s.keepNested a f (page + pgo)
    s.keepTlb a { fn := f, root := some (root, tpn), gpa := page, bytes := psize, uses := uses }

/-- Cached translations of a guest range removed on all dies (R317): nested ones and tensor ones that used it. -/
def State.dropXlate (s : State) (f gpa n : Nat) : State :=
  let keep := fun (t : TlbEntry) => !(t.fn == f &&
    ((decide (t.gpa < gpa + n) && decide (gpa < t.gpa + t.bytes)) || t.uses.any fun a => decide (gpa ≤ a) && decide (a < gpa + n)))
  { s with
    tlb := s.tlb.filter keep
    cells := s.cells.map fun (e : Nat × Cell) => (e.1, { e.2 with tlb := e.2.tlb.filter keep }) }

/-! ## Descriptors (R68 to R72) -/

/-- A tensor descriptor's fields (R69). -/
structure Desc where
  rank : Nat
  fmt : Nat
  tiled : Bool
  attr : Nat
  peer : Bool
  psize : Nat
  key : Nat
  d : List Nat
  pitch : Nat
  root : Nat
  ptid : Nat
  pmod : Nat
  deriving DecidableEq, Repr

/-- Dimension `i` of a descriptor. -/
def Desc.dim (d : Desc) (i : Nat) : Nat := d.d.getD i 1

/-- The check of a descriptor at its first use (R70): TRANSLATION, or SHAPE with the word index. -/
def descCheck (w : List Word) : Except (FaultCode × Word) Desc :=
  let g := fun i => w.getD i 0
  let rank := bits (g 0) 61 2 + 1
  let fmt := bits (g 0) 57 4
  let layout := bits (g 0) 55 2
  let attr := bits (g 0) 53 2
  let psize := bits (g 0) 50 2
  let d := [bits (g 1) 0 32, bits (g 1) 32 32, bits (g 2) 0 32, bits (g 2) 32 32]
  let dim := fun i => d.getD i 1
  if !bit (g 0) 63 then .error (.translation, 0)
  else if layout ≥ 2 || attr = 3 || psize = 3 || fmt = 15 || bits (g 0) 42 8 ≠ 0 || bits (g 0) 0 32 ≠ 0 then .error (.shape, 0)
  else if dim 0 = 0 || dim 1 = 0 then .error (.shape, 1)
  else if dim 2 = 0 || dim 3 = 0 then .error (.shape, 2)
  else if rank ≤ 1 && dim 1 ≠ 1 then .error (.shape, 1)
  else if (rank ≤ 2 && dim 2 ≠ 1) || (rank ≤ 3 && dim 3 ≠ 1) then .error (.shape, 2)
  else if bits (g 3) 48 16 ≠ 0 then .error (.shape, 3)
  else if bits (g 4) 0 12 ≠ 0 then .error (.shape, 4)
  else if bits (g 5) 36 28 ≠ 0 then .error (.shape, 5)
  else if g 6 ≠ 0 then .error (.shape, 6)
  else if g 7 ≠ 0 then .error (.shape, 7)
  else if layout = 1 && rank = 1 then .error (.shape, 0)
  else if layout = 1 && (dim 0 % 64 ≠ 0 || dim 1 % 64 ≠ 0) then .error (.shape, 1)
  else if layout = 0 && rank ≥ 2 && bits (g 3) 0 48 < ceilDiv (dim 0 * eb fmt) 8 then .error (.shape, 3)
  else .ok { rank := rank, fmt := fmt, tiled := layout == 1, attr := attr, peer := bit (g 0) 52, psize := psize,
             key := bits (g 0) 32 10, d := d, pitch := bits (g 3) 0 48, root := bits (g 4) 12 52 * 4096,
             ptid := bits (g 5) 0 20, pmod := bits (g 5) 20 16 }

/-- Bit offset of an element in its tensor (R72), its coordinates in range. -/
def Desc.bitOff (d : Desc) (c : List Nat) : Nat :=
  let g := fun i => c.getD i 0
  if d.tiled then
    let t := ((g 3 * d.dim 2 + g 2) * (d.dim 1 / 64) + g 1 / 64) * (d.dim 0 / 64) + g 0 / 64
    t * 4096 * eb d.fmt + (g 1 % 64 * 64 + g 0 % 64) * eb d.fmt
  else g 0 * eb d.fmt + 8 * d.pitch * (g 1 + d.dim 1 * (g 2 + d.dim 2 * g 3))

/-- The first coordinate at or beyond its dimension (R72). -/
def Desc.outside (d : Desc) (c : List Nat) : Option Nat :=
  (List.range 4).find? fun i => decide (d.dim i ≤ c.getD i 0)

/-- The key under which a tensor's pages are read and written (R73, R319): none where its key id is not a
slot of the function. -/
def State.keyOf (s : State) (f : Nat) (d : Desc) : Option (BitVec 512) :=
  match s.keys.get? d.key with
  | some k => if k.owned && k.owner == f && f != 0 then some k.key else none
  | none => none

/-! ## Record rings (R298, R369) -/

/-- The ring's bytes. -/
def RecRing.bytes (r : RecRing) : Nat := 2 ^ (r.lsize + 12)

/-- The position and phase after a record of 32 bytes (R298). -/
def RecRing.next (r : RecRing) : RecRing :=
  if r.pos + 32 ≥ r.bytes then { r with pos := 0, phase := !r.phase } else { r with pos := r.pos + 32 }

/-- The ring after its base register is written (R369): offset 0, phase 1. -/
def RecRing.restart (v : Word) : RecRing := { base := bits v 12 52 * 4096, lsize := bits v 0 4 }

/-- Word 3 of a record: bits [62:0] of a time, and the phase. -/
def phaseWord (t : Word) (phase : Bool) : Word := word (t.toNat % 2 ^ 63 + phase.toNat * 2 ^ 63)

/-- A record written to ERR_RING (R358): dropped with no further record where there is no ring. DESIGN CHOICE (log 105): so it is where the
ring lies beyond the module's memory (R14). -/
def State.errRec (s : State) (kind part cell ctx : Nat) (d1 d2 : Word) : State :=
  let w0 := word (kind + part * 2 ^ 8 + cell % 2048 * 2 ^ 16 + ctx * 2 ^ 27)
  if s.errRing.base = 0 || !inStacks s.errRing.base s.errRing.bytes then s
  else
    let r := s.errRing
    let s := s.wrBytes (r.base + r.pos) (wordBytes [w0, d1, d2, phaseWord (s.now cell) r.phase])
    { s with errRing := r.next }

/-- A record written to a ring of a function (R298, R369): its three first words, the time and the phase.
Where its page cannot be written the record is dropped and reported; position and phase advance. -/
def State.ringPut (s : State) (f : Nat) (r : RecRing) (w : List Word) (t : Word) : State × RecRing :=
  let a := r.base + r.pos
  let bs := wordBytes (w ++ [phaseWord t r.phase])
  match s.gpaOf f a true with
  | .ok pa => (s.wrBytes pa bs, r.next)
  | .error _ => (s.errRec 0x0C 8 0 0 (word a) (word f), r.next)

/-- A run of bytes cut at granules: address, and the bytes in that granule. -/
def cutGrans (a : Nat) (bs : List Byte) : List (Nat × List Byte) :=
  let first := (64 - a % 64) % 64
  let rest := (bs.drop first).length
  ((if first = 0 || bs.isEmpty then [] else [(a, bs.take first)]) ++
    (List.range ((rest + 63) / 64)).map fun i => (a + first + i * 64, ((bs.drop first).drop (i * 64)).take 64))

/-- Bytes written to a function's guest memory without a log: none where a page of theirs cannot be written. -/
def State.wrGuest (s : State) (f gpa : Nat) (bs : List Byte) : Option State :=
  let ps := (cutGrans gpa bs).map fun p => (p.2, s.gpaOf f p.1 true)
  if ps.any fun p => match p.2 with | .ok _ => false | .error _ => true then none
  else some (ps.foldl (fun s p => match p.2 with | .ok pa => s.wrBytes pa p.1 | .error _ => s) s)

/-- A word of a function's guest memory as the front end reads it. -/
def State.rdGuest (s : State) (f gpa : Nat) : Except FaultCode Word :=
  match s.gpaOf f gpa false with
  | .ok pa => .ok (word (leNat (s.loadBytes f none pa 8)))
  | .error e => .error e

end Sys2Proof.Machine
end

