-- ==== Sys2Proof/Machine/Route.lean ====
section
/-! DEFINITION. The mesh, its attachments and the die ring as paths (R8, R12, R13, R340, R342, R347), the bad-cell register
(R353), and the cells a placement may use (R354). -/

namespace Sys2Proof.Machine

/-! ## The bad-cell register (R353) -/

/-- An entry made in the bad-cell register, which holds 256; its time field is global time bits [55:16]. DESIGN CHOICE (log 105): a register
that is full keeps the entries that it has. -/
def State.addBad (s : State) (kind loc dir lane : Nat) : State :=
  if 256 ≤ s.links.bad.length then s
  else
    let e : BadEntry := { kind := kind, loc := loc, dir := dir, lane := lane, time := BitVec.ofNat 40 (bits (s.now 0) 16 40) }
    { s with links := { s.links with bad := s.links.bad ++ [e] } }

/-- The register word of an entry (R353). -/
def BadEntry.word (e : BadEntry) : Word :=
  Machine.word (2 ^ 63 + e.kind % 2 ^ 4 * 2 ^ 59 + e.loc % 2 ^ 11 * 2 ^ 48 + e.dir % 2 ^ 3 * 2 ^ 45 + e.lane % 2 ^ 5 * 2 ^ 40 +
    e.time.toNat)

/-- An entry of a kind at a place stands in the register. -/
def Links.listed (k : Links) (kind loc : Nat) : Bool := k.bad.any fun e => e.kind == kind && e.loc == loc

/-! ## The mesh of a die (R8, R12, R342) -/

/-- The row of a physical cell on its die (R9). -/
def rowOf (c : Nat) : Nat := c % 256 / 16

/-- The column of a physical cell on its die (R9). -/
def colOf (c : Nat) : Nat := c % 16

/-- A cell of a die by row and column. -/
def cellAt (die row col : Nat) : Nat := die * 256 + row * 16 + col

/-- The cell that a router's port 0 N, 1 S, 2 E or 3 W faces on its die (R8): none past an edge. -/
def neighbour (c p : Nat) : Option Nat :=
  match p with
  | 0 => if rowOf c = 0 then none else some (c - 16)
  | 1 => if rowOf c = 15 then none else some (c + 16)
  | 2 => if colOf c = 15 then none else some (c + 1)
  | 3 => if colOf c = 0 then none else some (c - 1)
  | _ => none

/-- The port of the neighbour by which a flit through a port comes in. -/
def opposite (p : Nat) : Nat := match p with | 0 => 1 | 1 => 0 | 2 => 3 | _ => 2

/-- The off-die port of an edge cell that serves as an attachment point (R12): of an HBM stack on the north and south edges;
of a ring stop, a Septord port or, on dies 0 and 4, the host interface on the west and east edges. Any other off-die port is
tied off (R8). -/
def attachPort (c : Nat) : Option Nat :=
  let r := rowOf c
  if r = 0 then some 0
  else if r = 15 then some 1
  else if colOf c = 0 then
    (if (6 ≤ r && r ≤ 9) || r = 2 || r = 3 || (11 ≤ r && r ≤ 13 && dieOf c % 4 = 0) then some 3 else none)
  else if colOf c = 15 then (if (6 ≤ r && r ≤ 9) || r = 12 || r = 13 then some 2 else none)
  else none

/-- A router port with a link: to a neighbour, or to an attachment. -/
def isLink (c p : Nat) : Bool := (neighbour c p).isSome || attachPort c == some p

/-- Hops along a row (port 2 east, 3 west). -/
def rowHops (die row c1 c2 : Nat) : List Hop :=
  if c1 ≤ c2 then (List.range (c2 - c1)).map fun i => .mesh (cellAt die row (c1 + i)) 2
  else (List.range (c1 - c2)).map fun i => .mesh (cellAt die row (c1 - i)) 3

/-- Hops along a column (port 1 south, 0 north). -/
def colHops (die col r1 r2 : Nat) : List Hop :=
  if r1 ≤ r2 then (List.range (r2 - r1)).map fun i => .mesh (cellAt die (r1 + i) col) 1
  else (List.range (r1 - r2)).map fun i => .mesh (cellAt die (r1 - i) col) 0

/-- The hops between two cells of one die, row first or, with `yx`, column first. -/
def legHops (yx : Bool) (a b : Nat) : List Hop :=
  let d := dieOf a
  if yx then colHops d (colOf a) (rowOf a) (rowOf b) ++ rowHops d (rowOf b) (colOf a) (colOf b)
  else rowHops d (rowOf a) (colOf a) (colOf b) ++ colHops d (colOf b) (rowOf a) (rowOf b)

/-! ## The die ring (R345, R347) -/

/-- The number of the ring link that a hop from a die takes: link d joins die d and die d + 1. -/
def ringLink (d : Nat) (cw : Bool) : Nat := if cw then d % 8 else (d + 7) % 8

/-- A link's cost: none where it is lost. A link that retrains is on its way to half width. -/
def RingLink.cost : RingLink → Option Nat
  | .full => some 1
  | .retraining => some 2
  | .half => some 2
  | .lost => none

/-- The state of a ring link. -/
def Links.ringAt (k : Links) (n : Nat) : RingLink := k.ring.toList.getD (n % 8) .full

/-- The total cost of `n` links clockwise from a die. -/
def ringCost (k : Links) (d : Nat) : Nat → Option Nat
  | 0 => some 0
  | n + 1 => match (k.ringAt d).cost, ringCost k (d + 1) n with
    | some a, some b => some (a + b)
    | _, _ => none

/-- The direction from one die to another (R347): of lower cost, clockwise on a tie; a forced one where it has a path; none
where both are lost. -/
def ringWay (k : Links) (force : Option Bool) (a b : Nat) : Option Bool :=
  let n := (b + 8 - a % 8) % 8
  match ringCost k a n, ringCost k b (8 - n) with
  | some x, some y => some (force.getD (decide (x ≤ y)))
  | some _, none => some true
  | none, some _ => some false
  | none, none => none

/-- The ring hops from one die to another in a direction. -/
def ringHops (a b : Nat) (cw : Bool) : List Hop :=
  if cw then (List.range ((b + 8 - a % 8) % 8)).map fun i => .ring ((a + i) % 8) true
  else (List.range ((a + 8 - b % 8) % 8)).map fun i => .ring ((a + 8 - i) % 8) false

/-! ## Paths of the module (R342) -/

/-- The attachment at the off-die port of an edge cell, as a sender or receiver of packets. -/
def attachment (e : Nat) : Nat := Config.attach + e

/-- An agent is an attachment. -/
def isAttached (a : Nat) : Bool := decide (Config.attach ≤ a)

/-- The place of an agent on the mesh: a cell's own, the edge cell's of an attachment; the front end stands at cell 0, in its bay (R10,
log 89). -/
def onMesh (a : Nat) : Nat := if a < Config.cells then a else if isAttached a then a - Config.attach else 0

/-- The hops between two cells (R342): within a die, or by the ring stops at rows 6 to 9. -/
def meshHops (k : Links) (yx : Bool) (force : Option Bool) (a b : Nat) : Option (List Hop) :=
  if dieOf a = dieOf b then some (legHops yx a b)
  else match ringWay k force (dieOf a) (dieOf b) with
    | none => none
    | some cw =>
      let out := cellAt (dieOf a) (6 + rowOf a % 4) (if cw then 15 else 0)
      let in' := cellAt (dieOf b) (6 + rowOf b % 4) (if cw then 0 else 15)
      some (legHops yx a out ++ [.off out] ++ ringHops (dieOf a) (dieOf b) cw ++ [.onto in'] ++ legHops yx in' b)

/-- A link of a router is listed, at one end or the other. -/
def Links.badLink (k : Links) (c p : Nat) : Bool :=
  k.bad.any fun e => e.kind == 2 && ((e.loc == c && e.dir == p) || (neighbour c p == some e.loc && e.dir == opposite p))

/-- A hop crosses a listed router or link, or a lost ring link (R342, R349). -/
def Links.badHop (k : Links) (h : Hop) : Bool :=
  match h with
  | .mesh c p => k.listed 1 c || (neighbour c p).any (k.listed 1) || k.badLink c p
  | .off c => k.listed 1 c || k.badLink c ((attachPort c).getD 4)
  | .onto c => k.listed 1 c || k.badLink c ((attachPort c).getD 4)
  | .ring d cw => k.ringAt (ringLink d cw) == .lost

/-- A path is clear of listed elements. -/
def Links.clear (k : Links) (p : List Hop) : Bool := !p.any k.badHop

/-- XY, else YX, else none: what the hops before and after the mesh legs add to the path. -/
def Links.choose (k : Links) (p : Bool → Option (List Hop)) : Option (Bool × List Hop) :=
  match p false with
  | none => none
  | some h => if k.clear h then some (false, h) else ((p true).filter k.clear).map fun h => (true, h)

/-- The path of packets between two agents (R13, R342): its sub-channel and its hops, from the mesh into an attachment by its edge cell's
port and out of one by the same. -/
def State.path (s : State) (force : Option Bool) (a b : Nat) : Option (Bool × List Hop) :=
  s.links.choose fun yx => (meshHops s.links yx force (onMesh a) (onMesh b)).map fun h =>
    (if isAttached a then [.onto (onMesh a)] else []) ++ h ++ (if isAttached b then [.off (onMesh b)] else [])

/-- Nothing is listed and no ring link is lost. -/
def Links.whole (k : Links) : Bool := k.bad.isEmpty && k.ring.toList.all fun l => l != .lost

/-- An agent can reach another (R342, R347). -/
def State.reach (s : State) (a b : Nat) : Bool := s.links.whole || (s.path none a b).isSome

/-! ## Attachments (R12, R13, R342) -/

/-- The die of a stack. -/
def stackDie (st : Nat) : Nat := st / 2

/-- The edge cell by which a cell's requests leave for a stack: on the north edge for an even one, the south edge for an odd
one, in the cell's own column (log 89). -/
def stackCell (c st : Nat) : Nat := cellAt (stackDie st % 8) (if st % 2 = 0 then 0 else 15) (colOf c)

/-- The edge cell of a Septord port for a cell (R12): one of two rows, by the cell's own (log 89). -/
def septordCell (c port : Nat) : Nat :=
  if port % 2 = 0 then cellAt (port / 2 % 8) (2 + rowOf c % 2) 0 else cellAt (port / 2 % 8) (12 + rowOf c % 2) 15

/-- The attachment of a stack that a cell's requests go to. -/
def stackPort (c st : Nat) : Nat := attachment (stackCell c st)

/-- The attachment of a Septord port that a cell's packets go to. -/
def septordAt (c port : Nat) : Nat := attachment (septordCell c port)

/-- The attachments of a host interface (R12): 0 stands on die 0, 1 on die 4. -/
def hostPorts (iface : Nat) : List Nat := [11, 12, 13].map fun r => attachment (cellAt (iface * 4) r 0)

/-- A host interface and the front end reach each other (R13, R352): over one of its attachments in both directions. -/
def State.hostReach (s : State) (iface : Nat) : Bool :=
  (hostPorts iface).any fun a => s.reach a Config.frontEnd && s.reach Config.frontEnd a

/-! ## Classes of packets (R340, R343) -/

/-- The partition whose bays hold a cell, by number: 8 for system traffic. A FREE partition holds no bay (R312). -/
def State.partNo (s : State) (c : Nat) : Nat :=
  match s.parts.find? fun e => decide (c < Config.cells) && e.2.st != .free && e.2.bays.getLsbD (bayOf c) with
  | some e => e.1
  | none => 8

/-- Granules that elements of a format fill: at least one. -/
def granules (fmt n : Nat) : Nat := Nat.max 1 (ceilDiv (n * eb fmt) 512)

/-- Elements of a format one after another as a number. -/
def elBits (fmt : Nat) (els : List Word) : Nat := els.foldr (fun e n => n * 2 ^ eb fmt + e.toNat % 2 ^ eb fmt) 0

/-- The check values of the granules that elements fill, which go with their flits (R340, R359). -/
def elChks (fmt : Nat) (els : List Word) : List (Option (BitVec 16)) :=
  let n := granules fmt els.length
  let bs := leBytes (elBits fmt els) (64 * n)
  (List.range n).map fun i => some (crc16 ((bs.drop (64 * i)).take 64))

/-- Flits of a packet by what it carries (R340, R251): of a control token, a message or a granule of data one, of a 128-byte record two.
A tile transfer gives its own count with its format. -/
def Payload.flits : Payload → Nat
  | .stream _ r _ => 1 + ceilDiv (r.els.length * eb r.fmt) 512
  | .qpost _ _ _ _ _ => 2
  | .regionFail _ _ _ _ => 2
  | _ => 1

/-! ## Cells that a placement may use (R354) -/

/-- A cell that no listed cell logic, router, bay, die or stack's die rules out. -/
def Links.usable (k : Links) (c : Nat) : Bool :=
  !(k.listed 0 c || k.listed 1 c || k.bad.any fun e =>
    (e.kind == 8 && bayOf e.loc == bayOf c) || (e.kind == 7 && e.loc / 256 == dieOf c) ||
    (e.kind == 9 && stackDie (e.loc % 16) == dieOf c))

/-- The cells of a bay, row-major (R10). -/
def bayCells (b : Nat) : List Nat :=
  (List.range 16).map fun i => cellAt (b / 16) (b % 16 / 4 * 4 + i / 4) (b % 4 * 4 + i % 4)

/-- The bays of a bitmap in ascending order; bay 0 is the front end's. -/
def baysOf (m : BitVec 128) : List Nat := (List.range 128).filter fun b => b ≠ 0 && m.getLsbD b

/-- The cells of a partition that a placement may use, in ascending bay number and row-major (R306, R354). -/
def State.usableCells (s : State) (p : Part) : List Nat := ((baysOf p.bays).flatMap bayCells).filter s.links.usable

end Sys2Proof.Machine
end

