-- ==== Sys2Proof/Machine/Ops.lean ====
section
/-! DEFINITION. The shared operations: sending tokens, frames and their pools, fault records and their
delivery (the taking of an exception, R157, R321 to R323), the kill of an instance (R324), the end of a
firing (R192), the guard and the advance of the lane. -/

namespace Sys2Proof.Machine

/-! ## Packets and tokens -/

/-- Whose operation or command a packet is part of. -/
def Payload.issuer : Payload → Option Issuer
  | .ffree _ w | .count _ _ _ w | .hld _ _ _ w | .hst _ _ w | .bara _ _ _ w | .qpost _ _ _ _ w | .request _ _ w | .publish _ _ w
  | .interim _ _ w | .answer _ _ w | .ack _ _ w | .alloc _ _ _ _ w | .allocated _ _ w | .tile _ _ _ _ _ w | .tileAck _ w => some w
  | .token _ | .ret _ | .falloc _ _ | .wake _ _ _ _ | .regionId _ | .regionFail _ _ _ _ | .regionApply _ | .stream _ _ _ => none

/-- A packet belongs to the context of an instance. -/
def Packet.ofInst (p : Packet) (i : Inst) : Bool :=
  p.ctx == i.ctx && (i.place.contains p.src || i.place.contains p.dst || p.body.issuer.any fun w => i.place.contains w.cell)

/-- A packet enters the network in its sender's class, that of an attachment in the class of the cell that it goes to (R13, R340). One that
leaves its agent is held until it commits (R356), and its path is chosen when it is sent (R342). -/
def State.inject (s : State) (p : Packet) : State :=
  { s with net := s.net ++ [{ p with
      committed := p.committed || p.src == p.dst
      born := s.ac (onMesh p.src)
      part := s.partNo (if isAttached p.src then p.dst else p.src)
      flits := Nat.max p.flits p.body.flits
      hops := if onMesh p.src = onMesh p.dst && !isAttached p.src && !isAttached p.dst then some [] else none }] }

/-- The outstanding-operation counter of a context raised (R57). -/
def State.raiseOut (s : State) (c x n : Nat) : State := s.modCx c x fun k => { k with outstanding := k.outstanding + n }

/-- The outstanding-operation counter of a context lowered (R57). -/
def State.lowerOut (s : State) (c x n : Nat) : State := s.modCx c x fun k => { k with outstanding := k.outstanding - n }

/-- A control token sent by a cell (R22, R26, R57): on VN0 to the cell of its vcell, or, to the return
continuation, on VN4 to the front end (R305). -/
def State.sendAs (s : State) (c : Nat) (t : Token) (also : Option Nat) (reply : Option Nat := none) : State :=
  let x := ctxOf t.cont
  let s := s.raiseOut c x 1
  if isReturn t.cont then
    s.inject { vn := 4, src := c, dst := Config.frontEnd, ctx := x, also := also, reply := reply, body := .ret t }
  else
    s.inject { vn := 0, src := c, dst := (s.cx c x).place.getD (vcellOf t.cont) 0, ctx := x, also := also, reply := reply,
               body := .token t }

/-- A control token sent by a cell. -/
def State.sendTok (s : State) (c : Nat) (cont val tag : Word) : State :=
  s.sendAs c { cont := cont, val := val, tag := tag } none

/-- The reply token of an operation (R194), sent by a cell when the operation completes. -/
def State.sendReply (s : State) (c : Nat) (w : Issuer) (cont val : Word) : State :=
  s.sendAs c { cont := cont, val := val, tag := w.tag } none (some w.cell)

/-! ## Instances and their records -/

/-- An instance of a function by its launch id. -/
def State.inst? (s : State) (f id : Nat) : Option Inst := s.insts.find? fun i => i.fn == f && i.id == id

/-- The state with one instance changed. -/
def State.modInst (s : State) (f id : Nat) (g : Inst → Inst) : State :=
  { s with insts := s.insts.map fun i => if i.fn == f && i.id == id then g i else i }

/-- The instance that holds a context slot. -/
def State.instAt (s : State) (c x : Nat) : Option Inst :=
  match (s.cx c x).inst with
  | some (f, id) => s.inst? f id
  | none => none

/-- A queue of a function. -/
def State.queue (s : State) (f q : Nat) : Queue := (s.fn f).queues.getD q {}

/-- The state with one queue changed. -/
def State.modQ (s : State) (f q : Nat) (g : Queue → Queue) : State :=
  s.modFn f fun k => { k with queues := k.queues.put q (g (k.queues.getD q {})) }

/-- A record written to a queue's completion ring (R298). -/
def State.putC (s : State) (f q : Nat) (w : List Word) : State :=
  let (s, r) := s.ringPut f (s.queue f q).cring w (s.now 0)
  s.modQ f q fun k => { k with cring := r }

/-- A record written to a queue's error ring (R298). -/
def State.putE (s : State) (f q : Nat) (w : List Word) (t : Word) : State :=
  let (s, r) := s.ringPut f (s.queue f q).ering w t
  s.modQ f q fun k => { k with ering := r }

/-- The status field of a completion record (R298). -/
def EndStatus.code : EndStatus → Nat
  | .complete => 0 | .killed => 1 | .watchdog => 2 | .hang => 3 | .refused => 4 | .aborted => 5

/-- A packet that is under way keeps its queue from stopping (R296): it waits, or has begun. -/
def Queue.begun (q : Queue) : Bool := q.wait != .none || q.cleared

/-- A queue that was asked to stop is DISABLED at a packet boundary, once its launches are complete (R296). -/
def Queue.settle (q : Queue) : Queue :=
  if q.stopping && q.live.isEmpty && !q.begun && q.st == .active then { q with st := .disabled, stopping := false } else q

/-- The completion record of an instance, and what its writing ends (R298, R303, R308, R309): the
LAUNCH packet, the count of live launches, a posted launch's quota. -/
def State.complete (s : State) (i : Inst) (st : EndStatus) : State :=
  let q := if i.dev then (s.fn i.fn).postq / 2 ^ 8 % 2 ^ 13 else i.q
  let s := s.putC i.fn q
    [word (i.id + st.code * 2 ^ 32), i.ret.getD 0, word (i.off + i.depth * 2 ^ 24 + i.dev.toNat * 2 ^ 63)]
  let s := s.modFn i.fn fun k => { k with
    postedLive := k.postedLive.filter (· != i.id)
    queues := k.queues.map fun (e : Nat × Queue) => (e.1, { e.2 with
      pending := e.2.pending.filter fun p => match p.wake with | some w => w.1 != i.id | none => true }) }
  if i.dev then s
  else s.modQ i.fn i.q fun k =>
    ({ k with live := k.live.filter (· != i.id), pending := k.pending.filter fun p => p.launch != some i.id } : Queue).settle

/-! ## Cancelling -/

/-- In-flight counts of a command given back (R201, R235). -/
def Cell.landAll (c : Cell) (named : List (Nat × BitVec 8 × Bool)) : Cell :=
  (named.map fun n => (n.1, n.2.1)).eraseDups.foldl (fun c n => c.landTile n.1 n.2) c

/-- Source handles of a command without `.k` released (R47, R235). -/
def Cell.dropAll (c : Cell) (named : List (Nat × BitVec 8 × Bool)) : Cell :=
  named.foldl (fun c n =>
    if n.2.2 && (c.tile n.1).live && (c.tile n.1).gen == n.2.1 then c.dropRef n.1 else c) c

/-- Shadow pages of an operation that no REMAP names yet returned to the reserve, zeroed (R91, R326). -/
def State.returnShadows (s : State) (o : MemOp) : State :=
  let pages := (o.pieces.filterMap fun p => match p.xl with | .shadow pg => if p.done then none else some pg | _ => none).eraseDups
  pages.foldl (fun s pg =>
    (s.zeroRange pg (pageBytes o.psize)).modFn o.inst.1 fun f => { f with shadow := f.shadow ++ [(o.psize, pg)] }) s

/-- Operations that `p` picks leave the module with no reply; what they parked goes with them. -/
def State.dropOps (s : State) (p : MemOp → Bool) : State :=
  let gone := s.ops.filter p
  let s := { s with ops := s.ops.filter fun o => !p o }
  gone.foldl (fun s o => s.returnShadows o) s

/-- Commands of a cell in execution. -/
def Cell.running (c : Cell) : List Run :=
  c.copies ++ c.matrix.runs ++ c.reducer.ended ++ c.vec.run.toList ++ (c.reducer.cur.map (·.run)).toList ++
    (c.reducer.feed.map (·.1)).toList

/-- Commands that `p` picks leave a cell; it gives back their in-flight counts, and their source handles where `rel`. -/
def cancelCmds (c : Cell) (p : Cmd → Bool) (rel : Bool) : Cell :=
  let gone := (c.copyq ++ c.matrix.mq0 ++ c.matrix.mq1 ++ c.matrix.heldLoad.toList ++ c.matrix.heldRows.toList ++
    c.reducer.queue ++ c.vec.queue ++ c.running.map (·.cmd)).filter p
  let keep := fun (q : List Cmd) => q.filter fun x => !p x
  let runs := fun (q : List Run) => q.filter fun x => !p x.cmd
  let vrun := match c.vec.run with | some r => p r.cmd | none => false
  let rset := match c.reducer.cur with | some r => p r.run.cmd | none => false
  let port := match c.reducer.cur with | some r => r.port | none => 0
  let rfeed := match c.reducer.feed with | some r => p r.1.cmd | none => false
  let c := { c with
    copyq := keep c.copyq
    copies := runs c.copies
    matrix := { c.matrix with
      mq0 := keep c.matrix.mq0
      mq1 := keep c.matrix.mq1
      heldLoad := c.matrix.heldLoad.filter fun x => !p x
      heldRows := c.matrix.heldRows.filter fun x => !p x
      runs := runs c.matrix.runs }
    reducer := { c.reducer with
      queue := keep c.reducer.queue
      ended := runs c.reducer.ended
      cur := if rset then none else c.reducer.cur
      feed := if rfeed then none else c.reducer.feed }
    vec := if vrun then { queue := keep c.vec.queue } else { c.vec with queue := keep c.vec.queue }
    ports := c.ports.map fun (e : Nat × Port) =>
      (e.1, if (vrun && e.2.bound == .kernel) || (rset && e.2.bound == .reducer && e.1 == port) then { e.2 with bound := .none } else e.2) }
  gone.foldl (fun c x => (if rel then c.dropAll x.named else c).landAll x.named) c

/-- Commands of a cell that are queued, held or in execution. -/
def Cell.cmds (c : Cell) : List Cmd :=
  c.copyq ++ c.copies.map (·.cmd) ++ c.matrix.mq0 ++ c.matrix.mq1 ++ c.matrix.heldLoad.toList ++ c.matrix.heldRows.toList ++
    c.matrix.runs.map (·.cmd) ++ c.reducer.queue ++ (c.reducer.cur.map (·.run.cmd)).toList ++
    (c.reducer.feed.map (·.1.cmd)).toList ++ c.reducer.ended.map (·.cmd) ++ c.vec.queue ++ (c.vec.run.map (·.cmd)).toList

/-- A command that has not completed names a tile of the cell as a destination (R199). -/
def Cell.written (c : Cell) (i : Nat) : Bool := c.cmds.any fun m => m.writes.contains i

/-! ## Releasing a context (R49, R56, R91, R324) -/

/-- What a cell loses when a context of it is released or killed: tokens, firings, commands, frames,
tiles, barriers, wake ports, products, stream rows. A firing on the lane goes on as a dead one. -/
def Cell.releaseCtx (c : Cell) (x : Nat) : Cell :=
  let k := c.cx x
  let c := cancelCmds c (fun m => m.who.ctx == x) false
  let c := c.heap.tiles.foldl (fun c e => if e.2.live && e.2.ctx == x then c.freeTile e.1 else c) c
  let c := { c with
    inq := c.inq.filter fun t => ctxOf t.cont != x
    recs := c.recs.filter fun e => e.2.fir.ctx != x
    ready := c.ready.filter fun r => match r.body with
      | .fresh f => f.ctx != x
      | .resumed q => match c.recs.get? q with | some e => e.fir.ctx != x | none => false
    slots := dropSlots c.slots k.areaStart k.areaSize
    ftoks := c.ftoks.filter fun q => decide (q < k.areaStart) || decide (k.areaStart + k.areaSize ≤ q)
    barriers := c.barriers.map fun (e : Nat × Barrier) => (e.1, if e.2.owner == x then { phase := e.2.phase } else e.2)
    wakes := c.wakes.filter fun e => e.2.owner != x
    matrix := { c.matrix with products := c.matrix.products.filter fun p => p.ctx != x }
    ports := c.ports.map fun (e : Nat × Port) => (e.1, { e.2 with rows := e.2.rows.filter fun r => r.ctx != x })
    lane := if c.lane.busy && c.lane.fir.ctx == x then
        { c.lane with fir := { c.lane.fir with dead := true }, stall := none, frees := [] }
      else c.lane }
  c.modCx x fun k =>
    { part := k.part, tenant := k.tenant, vcell := k.vcell, place := k.place, image := k.image, released := true }

/-- A context of an instance released on all its cells: entries that were not published become VOID,
their shadow pages return, its operations and packets go. -/
def State.releaseInst (s : State) (i : Inst) : State :=
  let s := { s with net := s.net.filter fun p => !p.ofInst i }
  let s := s.dropOps fun o => o.inst == (i.fn, i.id)
  let s := i.place.foldl (fun s c =>
    let log := (s.cx c i.ctx).log
    let s := (List.range 16).foldl (fun s k =>
      let rs := (s.sub k log).remaps fun _ => true
      let s := rs.foldl (fun s e =>
        let pg := leNat ((leBytes e.data.toNat 64).drop 8 |>.take 8)
        (s.zeroRange pg (pageBytes e.size)).modFn i.fn fun f => { f with shadow := f.shadow ++ [(e.size, pg)] }) s
      if log = 0 then s else s.voidIn k log fun _ => true) s
    s.modCell c fun d => d.releaseCtx i.ctx) s
  let s := i.rings.foldl (fun s r => s.zeroRange r.1 r.2) s
  s.modFn i.fn fun f => { f with pool := f.pool ++ i.rings }

/-- An instance ended with a status: its contexts are released, its completion record is written, and it
is no longer live. -/
def State.endInst (s : State) (i : Inst) (st : EndStatus) : State :=
  let s := s.releaseInst i
  let s := { s with insts := s.insts.filter fun j => !(j.fn == i.fn && j.id == i.id) }
  s.complete i st

/-! ## Fault records (R321, R322) -/

/-- The numeric value of a fault code (R322). -/
def FaultCode.num : FaultCode → Nat
  | .illegalOp => 0x01 | .illegalContext => 0x02 | .badHeader => 0x03 | .badCont => 0x04 | .slotTrap => 0x05
  | .slotConflict => 0x06 | .frameBound => 0x07 | .frameFree => 0x08 | .handleStale => 0x09 | .tileState => 0x0A
  | .refcount => 0x0B | .heapExhausted => 0x0C | .shape => 0x0D | .translation => 0x10 | .permission => 0x11
  | .logFull => 0x12 | .acqFailed => 0x13 | .shadowExhausted => 0x14 | .poison => 0x18 | .linkLost => 0x19
  | .watchdog => 0x1A | .hang => 0x1B | .trap => 0x1D | .regionFailed => 0x1E | .privilege => 0x1F

/-- A fault as it is raised: what its record and its delivery take from it (R321, R323). -/
structure Raise where
  cell : Nat
  ctx : Nat
  cls : Nat
  code : FaultCode
  ia : Nat
  frame : Nat
  d1 : Word
  d2 : Word
  tag : Word
  faulty : Bool
  deriving DecidableEq, Repr

/-- Words 0 to 2 of a fault record (R321). -/
def Raise.words (s : State) (r : Raise) : List Word :=
  [word (r.cls + r.code.num * 2 ^ 8 + (s.cx r.cell r.ctx).vcell * 2 ^ 16 + r.ctx * 2 ^ 27 + r.ia % 2 ^ 14 * 2 ^ 30 +
     r.frame % 2 ^ 15 * 2 ^ 44), r.d1, r.d2]

/-- The kill of an instance (R324): everything of it goes, the fault record goes with its phase to the
error ring of the launching queue, and the completion record carries the status. -/
def State.kill (s : State) (i : Inst) (st : EndStatus) (recd : List Word) (t : Word) : State :=
  let s := s.putE i.fn (if i.dev then (s.fn i.fn).postq / 2 ^ 8 % 2 ^ 13 else i.q) recd t
  s.endInst i st

/-- The delivery of a fault record (R323): to `target`, as a tile token, or the context is killed.
`row1` fills the tile's second row. -/
def State.deliverTo (s : State) (r : Raise) (target : Word) (row1 : List Word) : State :=
  match s.instAt r.cell r.ctx with
  | none => s
  | some i =>
    let w := r.words s
    let t := s.now r.cell
    let k := s.cx r.cell r.ctx
    if target = 0 || !replyOk k.place.length r.ctx target || r.faulty then s.kill i .killed w t
    else
      let d := k.place.getD (vcellOf target) 0
      let els := (w ++ [word (t.toNat % 2 ^ 63)] ++ row1).zipIdx.filterMap fun e => if e.1 = 0 then none else some (e.2, e.1)
      let tile : Tile := { sealed := true, ctx := r.ctx, fmt := 12, rows := 2, cols := 4, count := 1, els := els }
      match (s.cell d).heap.alloc tile with
      | .error _ => s.kill i .killed w t
      | .ok (n, h) =>
        let s := s.modCell d fun c => { c with heap := h }
        let hd := mkHandle (vcellOf target) r.ctx n ((s.cell d).tile n).gen
        s.sendAs r.cell { cont := target, val := hd, tag := noRegion r.tag, faulty := true } none

/-- The taking of a fault (R193, R234, R323, R325): a fault of an open region fails it, one of a failed
region is discarded, any other record is delivered to the cell's CTL_FAULTC for the context. -/
def State.take (s : State) (r : Raise) : State :=
  let k := s.cx r.cell r.ctx
  match if regionOf r.tag = 0 then none else k.regions.get? (regionOf r.tag) with
  | some .opened =>
    s.inject { vn := 4, src := r.cell, dst := k.place.getD 0 0, ctx := r.ctx, counts := false,
               body := .regionFail (regionOf r.tag) (r.words s ++ [word ((s.now r.cell).toNat % 2 ^ 63)]) r.tag r.faulty }
  | some .failed => s
  | none => s.deliverTo r k.ctl.faultc []

/-- The fault of an operation after its issue, where it is performed (R193, R234): class 0x02. -/
def State.opFault (s : State) (w : Issuer) (code : FaultCode) (d1 d2 : Word) : State :=
  s.take { cell := w.cell, ctx := w.ctx, cls := 2, code := code, ia := w.ia, frame := w.base, d1 := d1, d2 := d2,
           tag := w.tag, faulty := w.faulty }

/-- Operations of an open region that end without completing, before the step of their issuing cell, are counted
as cancelled (R326). -/
def State.countLost (s : State) (c x : Nat) (tag : Word) (n : Nat) : State :=
  let r := regionOf tag
  if r != 0 && (s.cx c x).regions.get? r == some .opened then
    match s.instAt c x with
    | none => s
    | some i => s.modInst i.fn i.id fun i => match i.regions.get? r with
      | some q => { i with regions := i.regions.put r { q with cancelled := q.cancelled + n } }
      | none => i
  else s

/-- An operation ends with its fault where it is performed (R193, R234), and is counted (R326). -/
def State.opLost (s : State) (w : Issuer) (code : FaultCode) (d1 d2 : Word) : State :=
  (s.countLost w.cell w.ctx w.tag 1).opFault w code d1 d2

/-- What an instance suffers from traffic of a cell that is lost on the mesh or finds no path, by the tags of what is lost
(R344): the failure of the one open region that they all name, or its kill. A record of class 0x04. -/
def State.linkLost (s : State) (f id c : Nat) (tags : List Word) : State :=
  match s.inst? f id with
  | none => s
  | some i =>
    let tag := tags.headD 0
    let one := regionOf tag != 0 && (tags.all fun t => regionOf t == regionOf tag) &&
      (match i.regions.get? (regionOf tag) with | some q => q.mark == .opened | none => false)
    let r : Raise := { cell := c, ctx := i.ctx, cls := 4, code := .linkLost, ia := 0x3FFF, frame := 0, d1 := 0, d2 := 0,
                       tag := if one then tag else 0, faulty := false }
    if one then s.take r else s.kill i .killed (r.words s) (s.now c)

/-! ## Frames (R32 to R35, R58 to R60, R188, R189) -/

/-- Two runs of slots overlap. -/
def overlap (a n b m : Nat) : Bool := decide (a < b + m) && decide (b < a + n)

/-- The frame that a request at a level would get now (R59): its base, and whether it is a reserved one. While the context's image has
still to be fetched no frame of it goes live (R67). -/
def Ctx.grantable (k : Ctx) (level : Nat) : Option (Nat × Bool) :=
  match k.pools.get? level with
  | none => none
  | some p =>
    if p.max ≤ p.live || !k.resident then none
    else
      let n := clsSlots p.cls
      let taken := fun (b : Nat) =>
        (k.frames.any fun e => overlap b n e.1 (clsSlots e.2.cls)) ||
          k.pools.any fun e => e.2.places.any fun q => overlap b n q (clsSlots e.2.cls)
      match (List.range (k.areaSize / n)).find? fun i => !taken (k.areaStart + i * n) with
      | some i => some (k.areaStart + i * n, false)
      | none => ((p.places.filter fun q => (k.frames.get? q).isNone).min?).map (·, true)

/-- A frame granted (R32, R59): live, its slots EMPTY. -/
def Cell.grant (c : Cell) (x level b region : Nat) (reserved : Bool) : Cell :=
  let cls := ((c.cx x).pools.getD level {}).cls
  let c := c.modCx x fun k => { k with
    frames := k.frames.put b { cls := cls, level := level, region := region, reserved := reserved }
    lost := k.lost.filter fun e => !overlap b (clsSlots cls) e.1 1
    pools := k.pools.put level { (k.pools.getD level {}) with live := (k.pools.getD level {}).live + 1 } }
  { c with slots := dropSlots c.slots b (clsSlots cls)
           ftoks := c.ftoks.filter fun q => decide (q < b) || decide (b + clsSlots cls ≤ q) }

/-- A grant answered (R188): the frame reference goes to the reply continuation. -/
def State.grantTo (s : State) (c x level b : Nat) (reserved : Bool) (r : FrameReq) : State :=
  let s := s.modCell c fun d => d.grant x level b r.region reserved
  s.sendAs c { cont := r.reply, val := mkCont (s.cx c x).vcell x b 0 0 0, tag := r.tag, faulty := false } (some r.src)

/-- The heads of a level's queue granted for as long as the rule grants them (R59). -/
def State.serveLevel (s : State) (c x level : Nat) : Nat → State
  | 0 => s
  | n + 1 =>
    let p := (s.cx c x).pools.getD level {}
    match p.queue, (s.cx c x).grantable level with
    | r :: rest, some (b, reserved) =>
      let s := s.modCx c x fun k => { k with pools := k.pools.put level { p with queue := rest } }
      (s.grantTo c x level b reserved r).serveLevel c x level n
    | _, _ => s

/-- After a free, the levels from 7 down to 0 (R59). -/
def State.serveLevels (s : State) (c x : Nat) : State :=
  [7, 6, 5, 4, 3, 2, 1, 0].foldl (fun s l => s.serveLevel c x l ((s.cx c x).pools.getD l {}).queue.length) s

/-- DEFERRED slots of a frame, relative to its base, in rising order. -/
def Cell.deferredIn (c : Cell) (b n : Nat) : List Nat := (List.range n).filter fun j => isDeferred (c.slots.get? (b + j))

/-- A live frame taken away (R35): its slots are emptied and the firings suspended on them discarded. -/
def Cell.dropFrame (c : Cell) (x b : Nat) (f : Frame) : Cell :=
  let n := clsSlots f.cls
  let ks := c.deferredIn b n
  let c := { c with
    recs := c.recs.filter fun e => !(e.2.value.isNone && decide (b ≤ e.2.slot) && ks.contains (e.2.slot - b))
    slots := dropSlots c.slots b n
    ftoks := c.ftoks.filter fun q => decide (q < b) || decide (b + n ≤ q) }
  c.modCx x fun k => { k with
    frames := k.frames.del b
    pools := match k.pools.get? f.level with
      | some p => k.pools.put f.level { p with live := p.live - 1 }
      | none => k.pools }

/-- The free of a frame (R35): the state after it, and FRAME_FREE's detail where it raises one. -/
def State.freeFrame (s : State) (c x b : Nat) : State × Option Word :=
  match s.frame? c x b with
  | none => (s, some 0)
  | some f =>
    let ks := (s.cell c).deferredIn b (clsSlots f.cls)
    let s := (s.modCell c fun d => d.dropFrame x b f).serveLevels c x
    (s, ks.head?.map word)

/-- The free of a frame asked for by an earlier instruction, here or on another cell (R189): a fault is
one of an operation after its issue. -/
def State.freeLater (s : State) (c x b : Nat) (w : Issuer) : State :=
  match s.freeFrame c x b with
  | (s, none) => s
  | (s, some d) => s.opFault w .frameFree d 0

/-! ## The lane: guard, advance, end, fault -/

/-- The end of a firing (R192): registers are discarded, frees that waited for it are applied. -/
def State.endFiring (s : State) : State :=
  let l := s.lane
  let s := s.modLane fun _ => {}
  l.frees.foldl (fun s e => s.freeLater s.cur l.fir.ctx e.1 e.2) s

/-- The lane goes to a word of the body; the word just after it ends the firing (R43, R191). -/
def State.goto (s : State) (ia : Nat) : State :=
  let h := headerOf (imageWord s.fcx.image s.fir.hdr)
  if s.fir.hdr + h.length < ia then s.endFiring else s.modLane fun l => { l with fir := { l.fir with ia := ia } }

/-- The lane goes to the next word. -/
def State.step1 (s : State) : State := s.goto (s.fir.ia + 1)

/-- Who issues: the firing on the present lane. -/
def State.issuer (s : State) : Issuer :=
  { cell := s.cur, ctx := s.fir.ctx, vcell := s.fcx.vcell, ia := s.fir.ia, tag := s.fir.tag, base := s.fir.base,
    prio := s.fir.prio, faulty := s.fir.faulty, serial := s.fir.serial }

/-- THE EXCEPTION OF A LANE INSTRUCTION (R157, R321, R323): the record is taken and the firing ends at the
instruction; nothing else of the instruction takes effect. -/
def State.raiseAs (s : State) (cls : Nat) (code : FaultCode) (d1 d2 : Word) : State :=
  let f := s.fir
  let r : Raise := { cell := s.cur, ctx := f.ctx, cls := cls, code := code, ia := f.ia, frame := f.base, d1 := d1, d2 := d2,
                     tag := f.tag, faulty := f.faulty }
  let s := s.endFiring
  if f.dead then s else s.take r

/-- The exception of a lane instruction with a record of class 0x01. -/
def State.raise (s : State) (code : FaultCode) (d1 d2 : Word) : State := s.raiseAs 1 code d1 d2

/-- A guarded instruction (R138): guarded off it only lets the lane go on. -/
def State.guarded (s : State) (g : BitVec 4) (f : State → State) : State := if s.guard g then f s else s.step1

/-- An instruction with a predicate field in place of a guard (format F). -/
def State.guardedP (s : State) (p : BitVec 3) (f : State → State) : State := if s.pr p then f s else s.step1

/-! ## Partitions of cells -/

/-- The partition whose bays a cell belongs to (R312). -/
def State.partAt (s : State) (c : Nat) : Option Part :=
  (s.parts.find? fun e => e.2.st != .free && e.2.bays.getLsbD (bayOf c)).map (·.2)

/-- Matchers take tokens and lanes start firings: no freeze of the cell's partition has begun (R327). -/
def State.delivers (s : State) (c : Nat) : Bool :=
  match s.partAt c with
  | none => true
  | some p => p.st == .granted && p.freezing.isNone

/-- The cell's clock runs: its partition is not FROZEN (R327). -/
def State.runs (s : State) (c : Nat) : Bool :=
  match s.partAt c with
  | none => true
  | some p => p.st == .granted

end Sys2Proof.Machine
end

