-- ==== Sys2Proof/Machine/Operands.lean ====
section
/-! DEFINITION. The operand forms of the lane: frame slots (R175), records in frames (R145), destination
words and the continuations formed from them (R135, R182), reply continuations (R23, R194). -/

namespace Sys2Proof.Machine

/-- What an operand check answers: a fault code with detail word 1, or the operand. -/
abbrev Opd (α : Type) := Except (FaultCode × Word) α

/-- The state after an operand check: the exception of a lane instruction where it fails. -/
def State.withOpd {α : Type} (s : State) (o : Opd α) (f : α → State) : State :=
  match o with
  | .error e => s.raise e.1 e.2 0
  | .ok a => f a

/-- A relative slot of the firing's frame as an absolute one (R33, R175): FRAME_BOUND with the slot as
detail; FRAME_FREE where the firing's frame is no longer live (R34). -/
def State.absSlot (s : State) (k : Nat) : Opd Nat :=
  match s.frame? s.cur s.fir.ctx s.fir.base with
  | none => .error (.frameFree, 0)
  | some f => if clsSlots f.cls ≤ k then .error (.frameBound, word k) else .ok (s.fir.base + k)

/-- The relative slot of a format F operand (R137, R175): slot, or slot plus `x[i]`. -/
def State.relSlot (s : State) (i : BitVec 4) (slot : BitVec 12) : Nat :=
  if i = 0 then slot.toNat else slot.toNat + (s.x i).toNat

/-- A format F operand as an absolute slot. -/
def State.fslot (s : State) (i : BitVec 4) (slot : BitVec 12) : Opd Nat := s.absSlot (s.relSlot i slot)

/-- The value of a relative slot of a record: SLOT_TRAP where it is not FULL (R145). -/
def State.recSlot (s : State) (k : Nat) : Opd Word :=
  match s.absSlot k with
  | .error e => .error e
  | .ok a => match s.slot s.cur a with
    | some (.full v) => .ok v
    | _ => .error (.slotTrap, 0)

/-- Slots of a record that a command uses, copied (R145): `used` tells which of the slots from `base` are
read; the others count as zero. -/
def State.copySlots (s : State) (base : Nat) : List Bool → Opd (List Word)
  | [] => .ok []
  | u :: us =>
    match if u then s.recSlot base else .ok 0 with
    | .error e => .error e
    | .ok v => match State.copySlots s (base + 1) us with
      | .error e => .error e
      | .ok vs => .ok (v :: vs)

/-- A record of 8 slots whose first slot is in a register (R145): FRAME_BOUND where any of the eight lies
beyond the frame. Neither fault of a record names a detail (R321). -/
def State.record (s : State) (first : Word) (used : List Bool) : Opd (List Word) :=
  match s.absSlot (first.toNat + 7) with
  | .error (c, _) => .error (c, 0)
  | .ok _ => s.copySlots first.toNat used

/-- The issue check of a long-latency producer on an absolute slot (R39). -/
def State.producerOk (s : State) (k : Nat) : Opd Nat :=
  if isDeferred (s.slot s.cur k) then .error (.slotConflict, 0) else .ok k

/-- A destination slot of a long-latency producer (R33, R39), by its relative number. -/
def State.destSlot (s : State) (k : Nat) : Opd Nat :=
  match s.absSlot k with
  | .error (.frameBound, _) => .error (.frameBound, 0)
  | .error e => .error e
  | .ok a => s.producerOk a

/-- The check of R23 on a continuation that the present firing names: BAD_CONT with a given detail. -/
def State.checkCont (s : State) (w detail : Word) : Opd Word :=
  if replyOk s.fcx.place.length s.fir.ctx w then .ok w else .error (.badCont, detail)

/-- A reply register (R194): none for `x0`; else a continuation checked under R23. -/
def State.reply (s : State) (c : BitVec 4) : Opd (Option Word) :=
  if c = 0 then .ok none
  else match s.checkCont (s.x c) 0 with
    | .error e => .error e
    | .ok w => .ok (some w)

/-- The header of the firing's codelet. -/
def State.fhdr (s : State) : Header := headerOf (imageWord s.fcx.image s.fir.hdr)

/-- Destination word `j` of the firing's codelet (R135). -/
def State.dest (s : State) (j : Nat) : Nat := destWord s.fcx.image s.fir.hdr j

/-- fsel of a destination word. -/
def fselOf (d : Nat) : Bool := decide (d / 2 ^ 15 % 2 = 1)

/-- The decode check of SEND and MKC (R135, R141): k below ndest, a register named exactly when the
destination word has fsel = 1. -/
def State.destOk (s : State) (k : Nat) (c : BitVec 4) : Bool :=
  decide (k < s.fhdr.ndest) && (fselOf (s.dest k) == (c != 0))

/-- The continuation formed from destination word `j` (R135, R183), priority from CTL_PRIO. -/
def State.formCont (s : State) (j : Nat) (c : BitVec 4) : Opd Word :=
  let d := s.dest j
  let ia := d / 2 % 2 ^ 14
  let port := d % 2
  let prio := s.fcx.ctl.prio.toNat
  if fselOf d then
    let r := s.x c
    if !isFrameRef r then .error (.badCont, 0)
    else .ok (word (mkCont (vcellOf r) (ctxOf r) (baseOf r) ia port prio + word (bits r 0 18)).toNat)
  else .ok (mkCont s.fcx.vcell s.fir.ctx s.fir.base ia port prio)

/-- The `.cls` modifier on a continuation (R181, R182). -/
def clsCont (e : Bool) (l : BitVec 2) (w : Word) : Word := if e then withPrio w l.toNat else w

/-- The checks of R182 on a token of the present firing: BAD_CONT with the continuation as detail. -/
def State.checkTok (s : State) (cont tag : Word) : Opd Word :=
  if replyOk s.fcx.place.length s.fir.ctx cont && tagOk tag then .ok cont else .error (.badCont, cont)

/-- A token of the present firing sent (R182): discarded where the firing is a dead one. -/
def State.sendFrom (s : State) (cont val tag : Word) : State :=
  if s.fir.dead then s else s.sendTok s.cur cont val tag

end Sys2Proof.Machine
end

