-- ==== Sys2Proof/Machine/Integer.lean ====
section
/-! DEFINITION. The integer instructions of the lane (R158 to R168): arithmetic, bit fields, compares,
predicates, selection, immediates. -/

namespace Sys2Proof.Machine

/-- The width of an operation (R158). -/
def widthOf (w : Bool) : Nat := if w then 32 else 64

/-- The low `W` bits of a register, unsigned. -/
def uOf (W : Nat) (v : Word) : Nat := v.toNat % 2 ^ W

/-- A result of width `W` in a register: sign-extended to 64 bits (R158). -/
def regOf (W : Nat) (t : Int) : Word := BitVec.ofInt 64 (sext W (wrap W t))

/-- A shift or rotate by its kind: 0 SHL, 1 SHR, 2 SRA, 3 ROL (R158). -/
def shift (kind W a n : Nat) : Int :=
  match kind with
  | 0 => (a * 2 ^ n % 2 ^ W : Nat)
  | 1 => (a / 2 ^ n : Nat)
  | 2 => sext W a / (2 ^ n : Nat)
  | _ => ((a * 2 ^ n + a / 2 ^ (W - n)) % 2 ^ W : Nat)

/-- The shift amount: the low log2 W bits of b (R158). -/
def amount (W b : Nat) : Nat := b % W

/-- Add, subtract or multiply under the `.sat` and `.u` modifiers (R158, R277). -/
def satOp (op : Int → Int → Int) (sat u : Bool) (W a b : Nat) : Int × Fl :=
  let t := if u then op a b else op (sext W a) (sext W b)
  if sat then clamp (loOf W u) (hiOf W u) t else (t, 0)

/-- Quotient and remainder with their flag (R159). -/
def divRem (u : Bool) (W a b : Nat) : Int × Int × Fl :=
  if b = 0 then ((2 ^ W : Nat) - 1, a, DZ)
  else if u then ((a / b : Nat), (a % b : Nat), 0)
  else (Int.tdiv (sext W a) (sext W b), Int.tmod (sext W a) (sext W b), 0)

/-- The smaller or larger of two values (R158). -/
def minMaxOp (max u : Bool) (W a b : Nat) : Int :=
  let less := if u then decide (a < b) else decide (sext W a < sext W b)
  if less != max then (if u then a else sext W a) else (if u then b else sext W b)

/-- A condition of CMP, CMPI and VCMP on two values of width `W` (R164). -/
def condInt (c W a b : Nat) : Bool :=
  match c with
  | 0 => a == b
  | 1 => a != b
  | 2 => decide (sext W a < sext W b)
  | 3 => decide (sext W b ≤ sext W a)
  | 4 => decide (a < b)
  | 5 => decide (b ≤ a)
  | 6 => decide (sext W a ≤ sext W b)
  | 7 => decide (sext W b < sext W a)
  | 8 => decide (a ≤ b)
  | 9 => decide (b < a)
  | 10 => (a &&& b) != 0
  | _ => (a &&& b) == 0

/-- A register written and the lane at the next word, the flags set first (R133, R157). -/
def State.write (s : State) (d : BitVec 4) (v : Word) (fl : Fl) : State := ((s.flag fl).setX d v).step1

/-- A predicate written and the lane at the next word. -/
def State.writeP (s : State) (d : BitVec 3) (v : Bool) (fl : Fl) : State := ((s.flag fl).setP d v).step1

/-- A two-source integer instruction (R158): `f` on the operands' low bits gives t and the flags. -/
def State.int2 (s : State) (d a b g : BitVec 4) (w : Bool) (f : Nat → Nat → Nat → Int × Fl) : State :=
  s.guarded g fun s =>
    let W := widthOf w
    let (t, fl) := f W (uOf W (s.x a)) (uOf W (s.x b))
    s.write d (regOf W t) fl

/-- Bits set in the low `n` bits of a number. -/
def popCount (v : Nat) : Nat → Nat
  | 0 => 0
  | n + 1 => v / 2 ^ n % 2 + popCount v n

/-- Zero bits above the highest set bit of a 64-bit number; 64 for zero. -/
def leadZeros (v : Nat) : Nat := if v = 0 then 64 else 63 - Nat.log2 v

/-- The width of the field that an EXTR or INS descriptor names (R162). -/
def fieldWidth (desc : Word) : Nat := Nat.min (bits desc 8 7) (64 - bits desc 0 6)

/-- NOP (R168). -/
def execNop (_g : BitVec 4) (s : State) : Host.Outcome State Fault Refusal :=
  .next s.step1

/-- ADD (R158). -/
def execAdd (d a b g : BitVec 4) (sat u w : Bool) (s : State) : Host.Outcome State Fault Refusal :=
  .next (s.int2 d a b g w (satOp (· + ·) sat u))

/-- SUB (R158). -/
def execSub (d a b g : BitVec 4) (sat u w : Bool) (s : State) : Host.Outcome State Fault Refusal :=
  .next (s.int2 d a b g w (satOp (· - ·) sat u))

/-- MUL (R158). -/
def execMul (d a b g : BitVec 4) (sat u w : Bool) (s : State) : Host.Outcome State Fault Refusal :=
  .next (s.int2 d a b g w (satOp (· * ·) sat u))

/-- MULH (R160). -/
def execMulh (d a b g : BitVec 4) (u : Bool) (s : State) : Host.Outcome State Fault Refusal :=
  .next (s.guarded g fun s =>
    let p : Int := if u then (s.x a).toNat * (s.x b).toNat else (s.x a).toInt * (s.x b).toInt
    s.write d (BitVec.ofInt 64 (p / 2 ^ 64)) 0)

/-- DIV (R159). -/
def execDiv (d a b g : BitVec 4) (u w : Bool) (s : State) : Host.Outcome State Fault Refusal :=
  .next (s.int2 d a b g w fun W x y => ((divRem u W x y).1, (divRem u W x y).2.2))

/-- REM (R159). -/
def execRem (d a b g : BitVec 4) (u w : Bool) (s : State) : Host.Outcome State Fault Refusal :=
  .next (s.int2 d a b g w fun W x y => ((divRem u W x y).2.1, (divRem u W x y).2.2))

/-- AND (R158). -/
def execAnd (d a b g : BitVec 4) (w : Bool) (s : State) : Host.Outcome State Fault Refusal :=
  .next (s.int2 d a b g w fun _ x y => ((x &&& y : Nat), 0))

/-- OR (R158). -/
def execOr (d a b g : BitVec 4) (w : Bool) (s : State) : Host.Outcome State Fault Refusal :=
  .next (s.int2 d a b g w fun _ x y => ((x ||| y : Nat), 0))

/-- XOR (R158). -/
def execXor (d a b g : BitVec 4) (w : Bool) (s : State) : Host.Outcome State Fault Refusal :=
  .next (s.int2 d a b g w fun _ x y => ((x ^^^ y : Nat), 0))

/-- ANDN (R158). -/
def execAndn (d a b g : BitVec 4) (w : Bool) (s : State) : Host.Outcome State Fault Refusal :=
  .next (s.int2 d a b g w fun W x y => ((x &&& (2 ^ W - 1 - y) : Nat), 0))

/-- SHL (R158). -/
def execShl (d a b g : BitVec 4) (w : Bool) (s : State) : Host.Outcome State Fault Refusal :=
  .next (s.int2 d a b g w fun W x y => (shift 0 W x (amount W y), 0))

/-- SHR (R158). -/
def execShr (d a b g : BitVec 4) (w : Bool) (s : State) : Host.Outcome State Fault Refusal :=
  .next (s.int2 d a b g w fun W x y => (shift 1 W x (amount W y), 0))

/-- SRA (R158). -/
def execSra (d a b g : BitVec 4) (w : Bool) (s : State) : Host.Outcome State Fault Refusal :=
  .next (s.int2 d a b g w fun W x y => (shift 2 W x (amount W y), 0))

/-- ROL (R158). -/
def execRol (d a b g : BitVec 4) (w : Bool) (s : State) : Host.Outcome State Fault Refusal :=
  .next (s.int2 d a b g w fun W x y => (shift 3 W x (amount W y), 0))

/-- MIN (R158). -/
def execMin (d a b g : BitVec 4) (u w : Bool) (s : State) : Host.Outcome State Fault Refusal :=
  .next (s.int2 d a b g w fun W x y => (minMaxOp false u W x y, 0))

/-- MAX (R158). -/
def execMax (d a b g : BitVec 4) (u w : Bool) (s : State) : Host.Outcome State Fault Refusal :=
  .next (s.int2 d a b g w fun W x y => (minMaxOp true u W x y, 0))

/-- CLZ (R161). -/
def execClz (d a g : BitVec 4) (s : State) : Host.Outcome State Fault Refusal :=
  .next (s.guarded g fun s => s.write d (word (leadZeros (s.x a).toNat)) 0)

/-- POPC (R161). -/
def execPopc (d a g : BitVec 4) (s : State) : Host.Outcome State Fault Refusal :=
  .next (s.guarded g fun s => s.write d (word (popCount (s.x a).toNat 64)) 0)

/-- EXTR (R162). -/
def execExtr (d a b g : BitVec 4) (s : State) : Host.Outcome State Fault Refusal :=
  .next (s.guarded g fun s =>
    let w := fieldWidth (s.x b)
    let f := bits (s.x a) (bits (s.x b) 0 6) w
    s.write d (if bit (s.x b) 15 && w != 0 then BitVec.ofInt 64 (sext w f) else word f) 0)

/-- INS (R162): the destination is a source too. -/
def execIns (d a b g : BitVec 4) (s : State) : Host.Outcome State Fault Refusal :=
  .next (s.guarded g fun s =>
    let w := fieldWidth (s.x b)
    let pos := bits (s.x b) 0 6
    let old := (s.x d).toNat
    s.write d (word (old / 2 ^ (pos + w) * 2 ^ (pos + w) + bits (s.x a) 0 w * 2 ^ pos + old % 2 ^ pos)) 0)

/-- SEL (R163). -/
def execSel (d a b g : BitVec 4) (c : BitVec 3) (s : State) : Host.Outcome State Fault Refusal :=
  .next (s.guarded g fun s => s.write d (if s.pr c then s.x a else s.x b) 0)

/-- CMP (R164). -/
def execCmp (d : BitVec 3) (a b g c : BitVec 4) (s : State) : Host.Outcome State Fault Refusal :=
  .next (s.guarded g fun s => s.writeP d (condInt c.toNat 64 (s.x a).toNat (s.x b).toNat) 0)

/-- PLOG (R166). -/
def execPlog (d a b : BitVec 3) (g l : BitVec 4) (s : State) : Host.Outcome State Fault Refusal :=
  .next (s.guarded g fun s => s.writeP d (l.getLsbD (2 * (s.pr a).toNat + (s.pr b).toNat)) 0)

/-- ADDI (R167). -/
def execAddi (d a : BitVec 4) (imm : BitVec 16) (s : State) : Host.Outcome State Fault Refusal :=
  .next (s.write d (s.x a + imm.signExtend 64) 0)

/-- ANDI (R167). -/
def execAndi (d a : BitVec 4) (imm : BitVec 16) (s : State) : Host.Outcome State Fault Refusal :=
  .next (s.write d (s.x a &&& imm.zeroExtend 64) 0)

/-- ORI (R167). -/
def execOri (d a : BitVec 4) (imm : BitVec 16) (s : State) : Host.Outcome State Fault Refusal :=
  .next (s.write d (s.x a ||| imm.zeroExtend 64) 0)

/-- XORI (R167). -/
def execXori (d a : BitVec 4) (imm : BitVec 16) (s : State) : Host.Outcome State Fault Refusal :=
  .next (s.write d (s.x a ^^^ imm.zeroExtend 64) 0)

/-- SHFI (R167). -/
def execShfi (d a : BitVec 4) (k : BitVec 2) (n : BitVec 6) (s : State) : Host.Outcome State Fault Refusal :=
  .next (s.write d (regOf 64 (shift k.toNat 64 (s.x a).toNat n.toNat)) 0)

/-- CMPI (R165). -/
def execCmpi (d : BitVec 3) (a c : BitVec 4) (imm : BitVec 12) (s : State) : Host.Outcome State Fault Refusal :=
  .next (s.writeP d (condInt c.toNat 64 (s.x a).toNat (imm.signExtend 64).toNat) 0)

/-- MOVI (R167). -/
def execMovi (d : BitVec 4) (imm : BitVec 16) (s : State) : Host.Outcome State Fault Refusal :=
  .next (s.write d (imm.zeroExtend 64) 0)

/-- MOVK (R167). -/
def execMovk (d : BitVec 4) (h : BitVec 2) (imm : BitVec 16) (s : State) : Host.Outcome State Fault Refusal :=
  .next (
    let lo := 16 * h.toNat
    let old := (s.x d).toNat
    s.write d (word (old / 2 ^ (lo + 16) * 2 ^ (lo + 16) + imm.toNat * 2 ^ lo + old % 2 ^ lo)) 0)

end Sys2Proof.Machine
end

