-- ==== Sys2Proof/Machine/Floating.lean ====
section
/-! DEFINITION. The floating-point instructions of the lane (R169 to R174). -/

namespace Sys2Proof.Machine

/-- The rounding mode of a lane instruction (R124, R139): CTL_RMODE, where 100 acts as 000, or the code. -/
def State.rm (s : State) (r : BitVec 4) : Nat :=
  if r = 0 then (if s.fcx.ctl.rmode.toNat = 4 then 0 else s.fcx.ctl.rmode.toNat) else r.toNat - 8

/-- The format of a lane instruction by its size bit (R169). -/
def sizeFmt (d : Bool) : Fmt := if d then fp64 else fp32

/-- The bits of an operand of a format: the low ones of its register (R156). -/
def State.fx (s : State) (f : Fmt) (n : BitVec 4) : Nat := (s.x n).toNat % 2 ^ f.width

/-- A float result written (R156): the higher bits are zero. -/
def State.writeF (s : State) (d : BitVec 4) (r : Nat × Fl) : State := s.write d (word r.1) r.2

/-- Sources and targets of FCVT by conversion code (R173): the result and the flags. -/
def fcvt (v mode : Nat) (x : Word) : Word × Fl :=
  let n := x.toNat
  let ff := fun (src dst : Fmt) => let r := src.toFloat dst mode 0 false (n % 2 ^ src.width); (word r.1, r.2)
  let fi := fun (src : Fmt) (w : Nat) (u : Bool) => let r := src.toInt mode 0 w u (n % 2 ^ src.width); (BitVec.ofInt 64 r.1, r.2)
  let itf := fun (dst : Fmt) (i : Int) => let r := dst.ofInt mode 0 false i; (word r.1, r.2)
  match v with
  | 0 => ff fp32 fp64 | 1 => ff fp64 fp32
  | 2 => fi fp32 64 false | 3 => fi fp64 64 false
  | 4 => fi fp32 64 true | 5 => fi fp64 64 true
  | 6 => fi fp32 32 false | 7 => fi fp64 32 false
  | 8 => itf fp32 x.toInt | 9 => itf fp64 x.toInt
  | 10 => itf fp32 n | 11 => itf fp64 n
  | 12 => ff fp32 bf16 | 13 => ff fp32 fp16
  | 14 => ff bf16 fp32 | _ => ff fp16 fp32

/-- FADD (R170). -/
def execFadd (d a b g r : BitVec 4) (sz : Bool) (s : State) : Host.Outcome State Fault Refusal :=
  .next (s.guarded g fun s => let f := sizeFmt sz; s.writeF d (f.add (s.rm r) 0 (s.fx f a) (s.fx f b)))

/-- FSUB (R170). -/
def execFsub (d a b g r : BitVec 4) (sz : Bool) (s : State) : Host.Outcome State Fault Refusal :=
  .next (s.guarded g fun s => let f := sizeFmt sz; s.writeF d (f.sub (s.rm r) 0 (s.fx f a) (s.fx f b)))

/-- FMUL (R170). -/
def execFmul (d a b g r : BitVec 4) (sz : Bool) (s : State) : Host.Outcome State Fault Refusal :=
  .next (s.guarded g fun s => let f := sizeFmt sz; s.writeF d (f.mul (s.rm r) 0 (s.fx f a) (s.fx f b)))

/-- FDIV (R170). -/
def execFdiv (d a b g r : BitVec 4) (sz : Bool) (s : State) : Host.Outcome State Fault Refusal :=
  .next (s.guarded g fun s => let f := sizeFmt sz; s.writeF d (f.div (s.rm r) 0 (s.fx f a) (s.fx f b)))

/-- FMA (R170): the destination is the addend. -/
def execFma (d a b g r : BitVec 4) (sz : Bool) (s : State) : Host.Outcome State Fault Refusal :=
  .next (s.guarded g fun s => let f := sizeFmt sz; s.writeF d (f.fma (s.rm r) 0 (s.fx f a) (s.fx f b) (s.fx f d)))

/-- FSQRT (R170). -/
def execFsqrt (d a g r : BitVec 4) (sz : Bool) (s : State) : Host.Outcome State Fault Refusal :=
  .next (s.guarded g fun s => let f := sizeFmt sz; s.writeF d (f.sqrt (s.rm r) 0 (s.fx f a)))

/-- FMIN (R171). -/
def execFmin (d a b g _r : BitVec 4) (sz : Bool) (s : State) : Host.Outcome State Fault Refusal :=
  .next (s.guarded g fun s => let f := sizeFmt sz; s.writeF d (f.minMax false (s.fx f a) (s.fx f b)))

/-- FMAX (R171). -/
def execFmax (d a b g _r : BitVec 4) (sz : Bool) (s : State) : Host.Outcome State Fault Refusal :=
  .next (s.guarded g fun s => let f := sizeFmt sz; s.writeF d (f.minMax true (s.fx f a) (s.fx f b)))

/-- FCMP (R172). -/
def execFcmp (d : BitVec 3) (a b g c : BitVec 4) (sz : Bool) (s : State) : Host.Outcome State Fault Refusal :=
  .next (s.guarded g fun s =>
    let f := sizeFmt sz
    let t := f.cmp c.toNat (s.fx f a) (s.fx f b)
    s.writeP d t.1 t.2)

/-- FCVT (R173). -/
def execFcvt (d a g r v : BitVec 4) (s : State) : Host.Outcome State Fault Refusal :=
  .next (s.guarded g fun s => let t := fcvt v.toNat (s.rm r) (s.x a); s.write d t.1 t.2)

/-- FCLASS (R174). -/
def execFclass (d a g : BitVec 4) (sz : Bool) (s : State) : Host.Outcome State Fault Refusal :=
  .next (s.guarded g fun s => let f := sizeFmt sz; s.write d (word (f.cls (s.fx f a))) 0)

end Sys2Proof.Machine
end

