-- ==== Sys2Proof/Machine/Slots.lean ====
section
/-! DEFINITION. The instructions on frame slots (R175 to R179), on tokens (R181 to R186), on frames (R187
to R189) and the two that end or shorten a firing (R191, R192). -/

namespace Sys2Proof.Machine

/-- An instruction that sends waits while the network holds back its output (R157, R343). -/
def State.netHold (s : State) (i : Instr) (f : State → State) : State :=
  if s.held then s.modLane fun l => { l with stall := some (.net i) } else f s

/-- The firing suspended at an FLD of an EMPTY slot (R37 to R39): a record, the slot DEFERRED, the lane
free. A firing of a region whose failure has been applied ends instead (R326). -/
def State.suspend (s : State) (k : Nat) : State :=
  if s.fir.dead then s.endFiring
  else
    let l := s.lane
    let key := (s.cell s.cur).recKey k
    let num := if key < Config.chipRecords then key else Config.chipRecords + (k - s.fcx.areaStart)
    let s := s.setSlot s.cur k (some (.deferred num l.fir.ia l.fir.prio (regionOf l.fir.tag)))
    let s := s.modCell s.cur fun c => { c with
      recs := c.recs.put key { regs := l.regs, fir := l.fir, slot := k, frees := l.frees }
      lane := {} }
    s.count s.cur l.fir.ctx 0x04

/-- FLD (R176). A resumed FLD takes the value of the resuming write and does not look at the slot. -/
def execFld (d i : BitVec 4) (slot : BitVec 12) (t : Bool) (p : BitVec 3) (s : State) : Host.Outcome State Fault Refusal :=
  .next (match s.lane.resume with
    | some v => ((s.modLane fun l => { l with resume := none }).setX d v).step1
    | none => s.guardedP p fun s =>
      s.withOpd (s.fslot i slot) fun k =>
        let rel := word (s.relSlot i slot)
        match s.slot s.cur k with
        | some (.full v) => (s.setX d v).step1
        | none => if t then s.raise .slotTrap rel 0 else s.suspend k
        | some (.deferred _ _ _ _) => s.raise (if t then .slotTrap else .slotConflict) rel 0)

/-- FST (R177). -/
def execFst (x i : BitVec 4) (slot : BitVec 12) (p : BitVec 3) (s : State) : Host.Outcome State Fault Refusal :=
  .next (s.guardedP p fun s => s.withOpd (s.fslot i slot) fun k => (s.writeSlot s.cur k (s.x x)).step1)

/-- FCLR (R178). -/
def execFclr (i : BitVec 4) (slot : BitVec 12) (p : BitVec 3) (s : State) : Host.Outcome State Fault Refusal :=
  .next (s.guardedP p fun s => s.withOpd (s.fslot i slot) fun k =>
    if isDeferred (s.slot s.cur k) then s.raise .slotConflict (word (s.relSlot i slot)) 0
    else (s.setSlot s.cur k none).step1)

/-- The presence state as FTST reads it (R178). -/
def presence : Option Slot → Word
  | none => 0
  | some (.full _) => 1
  | some (.deferred _ _ _ _) => 2

/-- FTST (R178). -/
def execFtst (d i : BitVec 4) (slot : BitVec 12) (p : BitVec 3) (s : State) : Host.Outcome State Fault Refusal :=
  .next (s.guardedP p fun s => s.withOpd (s.fslot i slot) fun k => (s.setX d (presence (s.slot s.cur k))).step1)

/-- JOIN (R179). -/
def execJoin (d i : BitVec 4) (slot : BitVec 12) (p : BitVec 3) (s : State) : Host.Outcome State Fault Refusal :=
  .next (s.guardedP p fun s => s.withOpd (s.fslot i slot) fun k =>
    let rel := word (s.relSlot i slot)
    match s.slot s.cur k with
    | none => s.raise .slotTrap rel 0
    | some (.deferred _ _ _ _) => s.raise .slotConflict rel 0
    | some (.full v) =>
      if v = 0 then s.raise .slotTrap rel 0
      else ((s.setSlot s.cur k (if v - 1 = 0 then none else some (.full (v - 1)))).setX d (v - 1)).step1)

/-- A token of the firing formed from destination word `j`, checked and sent (R182, R183). -/
def State.sendDest (s : State) (j : Nat) (c : BitVec 4) (e : Bool) (l : BitVec 2) (v : Word) : State :=
  s.withOpd (s.formCont j c) fun w =>
    s.withOpd (s.checkTok (clsCont e l w) s.fir.tag) fun w => (s.sendFrom w v s.fir.tag).step1

/-- SEND (R183). -/
def execSend (v c : BitVec 4) (k : BitVec 8) (e : Bool) (l : BitVec 2) (g : BitVec 4) (s : State) : Host.Outcome State Fault Refusal :=
  .next (if !s.destOk k.toNat c then s.raise .illegalOp 0 0
    else s.guarded g fun s => s.netHold (.send v c k e l g) fun s => s.sendDest k.toNat c e l (s.x v))

/-- SWCH (R184). -/
def execSwch (v i : BitVec 4) (k : BitVec 8) (e : Bool) (l : BitVec 2) (g : BitVec 4) (s : State) : Host.Outcome State Fault Refusal :=
  .next (s.guarded g fun s => s.netHold (.swch v i k e l g) fun s =>
    let j := k.toNat + (s.x i).toNat
    if s.fhdr.ndest ≤ j then s.raise .illegalOp (word j) 0
    else if fselOf (s.dest j) then s.raise .illegalOp 0 0
    else s.sendDest j 0 e l (s.x v))

/-- The region check on a tag that SENDD names (R185). -/
def State.tagRegionOk (s : State) (tag : Word) : Bool :=
  let own := regionOf s.fir.tag
  let r := regionOf tag
  r == 0 || (if own = 0 then (s.fcx.regions.get? r).isSome else r == own)

/-- SENDD (R185). -/
def execSendd (a b c : BitVec 4) (e : Bool) (l : BitVec 2) (g : BitVec 4) (s : State) : Host.Outcome State Fault Refusal :=
  .next (s.guarded g fun s => s.netHold (.sendd a b c e l g) fun s =>
    let tag := if c = 0 then s.fir.tag else s.x c
    s.withOpd (s.checkTok (clsCont e l (s.x a)) tag) fun w =>
      if c != 0 && !s.tagRegionOk tag then s.raise .badCont 0 0
      else (s.sendFrom w (s.x b) tag).step1)

/-- MKC (R186). -/
def execMkc (d c : BitVec 4) (k : BitVec 8) (f : Bool) (g : BitVec 4) (s : State) : Host.Outcome State Fault Refusal :=
  .next (if !f && !s.destOk k.toNat c then s.raise .illegalOp 0 0
    else s.guarded g fun s =>
      if f then (s.setX d (mkCont s.fcx.vcell s.fir.ctx s.fir.base 0 0 0)).step1
      else s.withOpd (s.formCont k.toNat c) fun w =>
        s.withOpd (s.checkTok w s.fir.tag) fun w => (s.setX d w).step1)

/-- FALLOC (R188): the request goes to the target cell on VN0; only one with a remote target can be held (R157). -/
def execFalloc (a c : BitVec 4) (r : Bool) (l : BitVec 3) (g : BitVec 4) (s : State) : Host.Outcome State Fault Refusal :=
  .next (s.guarded g fun s =>
    let run := fun (s : State) =>
      let tgt := if a = 0 then s.fcx.vcell else (s.x a).toNat
      if s.fcx.place.length ≤ tgt then s.raise .badCont (word tgt) 0
      else s.withOpd (s.checkCont (s.x c) 0) fun w =>
        if s.fir.dead then s.step1
        else
          let req : FrameReq := { src := s.cur, base := s.fir.base, reply := w, tag := s.fir.tag, region := if r then regionOf s.fir.tag else 0,
                                  faulty := s.fir.faulty, ia := s.fir.ia }
          ((s.raiseOut s.cur s.fir.ctx 1).inject
            { vn := 0, src := s.cur, dst := s.fcx.place.getD tgt 0, ctx := s.fir.ctx, counts := false,
              body := .falloc l.toNat req }).step1
    if a = 0 || (s.x a).toNat = s.fcx.vcell then run s else s.netHold (.falloc a c r l g) run)

/-- FFREE (R189). -/
def execFfree (a g : BitVec 4) (s : State) : Host.Outcome State Fault Refusal :=
  .next (s.guarded g fun s =>
    let w := s.x a
    if !contOk s.fcx.place.length s.fir.ctx w || !isFrameRef w then s.raise .badCont 0 0
    else if vcellOf w = s.fcx.vcell then
      if baseOf w = s.fir.base then (s.modLane fun l => { l with frees := l.frees ++ [(baseOf w, s.issuer)] }).step1
      else
        match s.freeFrame s.cur s.fir.ctx (baseOf w) with
        | (s, none) => s.step1
        | (s, some d) => s.raise .frameFree d 0
    else s.netHold (.ffree a g) fun s =>
      if s.fir.dead then s.step1
      else ((s.raiseOut s.cur s.fir.ctx 1).inject
        { vn := 0, src := s.cur, dst := s.fcx.place.getD (vcellOf w) 0, ctx := s.fir.ctx,
          body := .ffree (baseOf w) s.issuer }).step1)

/-- BRF (R191): the target is checked at decode, before the guard. -/
def execBrf (g : BitVec 4) (o : BitVec 8) (s : State) : Host.Outcome State Fault Refusal :=
  .next (if s.fir.hdr + 1 + s.fhdr.length < s.fir.ia + o.toNat then s.raise .illegalOp 0 0
    else s.guarded g fun s => s.goto (s.fir.ia + o.toNat))

/-- END (R192). -/
def execFend (g : BitVec 4) (s : State) : Host.Outcome State Fault Refusal :=
  .next (s.guarded g fun s => s.endFiring)

end Sys2Proof.Machine
end

