-- ==== Sys2Proof/Machine/Heap.lean ====
section
/-! DEFINITION. The heap instructions (R196 to R206). -/

namespace Sys2Proof.Machine

/-- An operand that must name a tile of the issuing cell (R195): HANDLE_STALE, or `remote` for a tile
elsewhere. -/
def State.localTile (s : State) (h : Word) (remote : FaultCode × Word) : Opd Nat :=
  match s.resolve s.cur s.fir.ctx h with
  | .stale => .error (.handleStale, h)
  | .there _ => .error remote
  | .here i => .ok i

/-- A tile-table entry of the present cell. -/
def State.tile (s : State) (i : Nat) : Tile := (s.cell s.cur).tile i

/-- The present firing may use a tile of its cell (R46): the tile is SEALED, or it is OPEN and of the firing's
context. -/
def State.mayUse (s : State) (i : Nat) : Bool := (s.tile i).sealed || (s.tile i).ctx == s.fir.ctx

/-- TNEW (R198). The tile exists at once; the lane waits until its blocks are zeroed (R197). -/
def execTnew (d a g f : BitVec 4) (s : State) : Host.Outcome State Fault Refusal :=
  .next (s.guarded g fun s =>
    let w := s.x a
    if bits w 16 48 ≠ 0 then s.raise .shape w 0
    else if s.fir.dead then (s.setX d 0).step1
    else
      let t : Tile := { ctx := s.fir.ctx, fmt := f.toNat, rows := bits w 0 8 + 1, cols := bits w 8 8 + 1, count := 1,
                        region := regionOf s.fir.tag }
      match (s.cell s.cur).heap.alloc t with
      | .error n => s.raise .heapExhausted (word n) 0
      | .ok (i, h) =>
        let owed := (s.cell s.cur).heap.owed
        let s := s.modCell s.cur fun c => { c with heap := h }
        let hd := mkHandle s.fcx.vcell s.fir.ctx i (s.tile i).gen
        if owed < h.owed then s.modLane fun l => { l with stall := some (.blocks d hd h.owed) }
        else (s.setX d hd).step1)

/-- A tile sealed (R199). -/
def State.seal (s : State) (i : Nat) : State := s.modTile s.cur i fun t => { t with sealed := true }

/-- TSEAL (R199): the lane waits for the commands that write the tile. -/
def execTseal (a g : BitVec 4) (s : State) : Host.Outcome State Fault Refusal :=
  .next (s.guarded g fun s =>
    let h := s.x a
    s.withOpd (s.localTile h (.tileState, h)) fun i =>
      if (s.tile i).sealed || !s.mayUse i then s.raise .tileState h 0
      else if (s.cell s.cur).written i then s.modLane fun l => { l with stall := some (.seal i) }
      else (s.seal i).step1)

/-- A count message to the owner of a remote tile (R48). -/
def State.sendCount (s : State) (h : Word) (c n : Nat) (up : Bool) : State :=
  if s.fir.dead then s
  else (s.raiseOut s.cur s.fir.ctx 1).inject
    { vn := 0, src := s.cur, dst := c, ctx := s.fir.ctx, body := .count h n up s.issuer }

/-- TDUP (R200). -/
def execTdup (a b g : BitVec 4) (s : State) : Host.Outcome State Fault Refusal :=
  .next (s.guarded g fun s =>
    let h := s.x a
    let n := (s.x b).toNat
    match s.resolve s.cur s.fir.ctx h with
    | .stale => s.raise .handleStale h 0
    | .here i =>
      if n = 0 || 65535 < n then s.raise .shape (s.x b) 0
      else if !(s.tile i).sealed then s.raise .tileState 0 0
      else if 65535 < (s.tile i).count + n then s.raise .refcount 0 0
      else (s.modTile s.cur i fun t => { t with count := t.count + n }).step1
    | .there c => s.netHold (.tdup a b g) fun s => (s.sendCount h c n true).step1)

/-- TDROP (R200). -/
def execTdrop (a g : BitVec 4) (s : State) : Host.Outcome State Fault Refusal :=
  .next (s.guarded g fun s =>
    let h := s.x a
    match s.resolve s.cur s.fir.ctx h with
    | .stale => s.raise .handleStale h 0
    | .here i =>
      if s.mayUse i then (s.modCell s.cur fun c => c.dropRef i).step1 else s.raise .tileState 0 0
    | .there c => s.netHold (.tdrop a g) fun s => (s.sendCount h c 1 false).step1)

/-- The word that TINFO writes (R202). -/
def tileInfo (t : Tile) (sel : BitVec 2) : Word :=
  if sel = 0 then
    word (t.fmt + (t.rows - 1) * 2 ^ 4 + (t.cols - 1) * 2 ^ 12 + (if t.sealed then 2 else 1) * 2 ^ 20 + t.blocks * 2 ^ 22)
  else word (t.count + t.gen.toNat * 2 ^ 16 + t.inflight % 2 ^ 8 * 2 ^ 24)

/-- TINFO (R202). -/
def execTinfo (d a g : BitVec 4) (sel : BitVec 2) (s : State) : Host.Outcome State Fault Refusal :=
  .next (s.guarded g fun s =>
    let h := s.x a
    s.withOpd (s.localTile h (.tileState, h)) fun i => (s.setX d (tileInfo (s.tile i) sel)).step1)

/-- TCHK (R203). DESIGN CHOICE (log 85): an OPEN tile of another context reads as unusable, code 3. -/
def execTchk (d a g : BitVec 4) (s : State) : Host.Outcome State Fault Refusal :=
  .next (s.guarded g fun s =>
    let v : Word := match s.resolve s.cur s.fir.ctx (s.x a) with
      | .stale => 3
      | .there _ => 2
      | .here i => if (s.tile i).sealed then 0 else if s.mayUse i then 1 else 3
    (s.setX d v).step1)

/-- A new split-phase operation of the present firing (R193): counted as outstanding. What it sends is held in the cell's
commit buffer (R356). -/
def State.issue (s : State) (o : MemOp) : State :=
  let (n, s) := s.fresh
  let s := s.raiseOut s.cur s.fir.ctx 1
  { s with ops := s.ops ++ [{ o with id := n, who := s.issuer, inst := s.fcx.inst.getD (0, 0) }] }

/-- HLD (R204): the slot is not indexed; the index register gives the element offset. -/
def execHld (x i : BitVec 4) (slot : BitVec 12) (p : BitVec 3) (s : State) : Host.Outcome State Fault Refusal :=
  .next (s.guardedP p fun s =>
    let h := s.x x
    let off := s.x i
    match s.resolve s.cur s.fir.ctx h with
    | .stale => s.raise .handleStale h 0
    | .here n =>
      s.withOpd (match s.absSlot slot.toNat with | .error (c, _) => .error (c, 0) | .ok k => .ok k) fun k =>
        let t := s.tile n
        if !s.mayUse n then s.raise .tileState 0 0
        else if t.rows * t.cols ≤ off.toNat then s.raise .shape off 0
        else if t.bad.contains off.toNat then s.raiseAs 4 .poison 0 0
        else (s.writeSlot s.cur k (t.el off.toNat)).step1
    | .there c => s.netHold (.hld x i slot p) fun s =>
      s.withOpd (s.destSlot slot.toNat) fun k =>
        if s.fir.dead then s.step1
        else
          let op := s.serial
          let s := (s.setSlot s.cur k none).issue { kind := .hld, slot := some k }
          (s.inject { vn := 2, src := s.cur, dst := c, ctx := s.fir.ctx, counts := false,
                      body := .hld h off op s.issuer }).step1)

/-- The element that HST writes (R205): raw bits, or a conversion; SHAPE with the format where it has none. -/
def hstElem (fmt mode : Nat) (nan cv : Bool) (v : Word) : Opd (Nat × Fl) :=
  if !cv then .ok (v.toNat % 2 ^ eb fmt, 0)
  else match fmtOf fmt with
    | some f => .ok (fp64.toFloat f mode 0 nan v.toNat)
    | none =>
      if fmt = 6 || fmt = 7 || fmt = 10 || fmt = 11 then
        let r := clamp (loOf (eb fmt) false) (hiOf (eb fmt) false) v.toInt
        .ok (wrap (eb fmt) r.1, r.2)
      else .error (.shape, word fmt)

/-- HST (R205). -/
def execHst (a b c : BitVec 4) (n : Bool) (r : BitVec 4) (v : Bool) (g : BitVec 4) (s : State) : Host.Outcome State Fault Refusal :=
  .next (s.guarded g fun s =>
    let h := s.x a
    let off := s.x b
    match s.resolve s.cur s.fir.ctx h with
    | .stale => s.raise .handleStale h 0
    | .here i =>
      let t := s.tile i
      if t.sealed || !s.mayUse i then s.raise .tileState 0 0
      else if t.rows * t.cols ≤ off.toNat then s.raise .shape off 0
      else s.withOpd (hstElem t.fmt (s.rm r) n v (s.x c)) fun e =>
        ((s.modTile s.cur i fun t => t.hst s.serial off.toNat (word e.1)).flag e.2).step1
    | .there d => s.netHold (.hst a b c n r v g) fun s =>
      if s.fir.dead then s.step1
      else ((s.raiseOut s.cur s.fir.ctx 1).inject
        { vn := 2, src := s.cur, dst := d, ctx := s.fir.ctx, body := .hst h off s.issuer }).step1)

end Sys2Proof.Machine
end

