-- ==== Sys2Proof/Machine/Memory.lean ====
section
/-! DEFINITION. The global-memory instructions as the lane issues them (R193, R207 to R217): what the
instruction checks and copies before the operation leaves the lane. -/

namespace Sys2Proof.Machine

/-- An acquire. -/
def OpKind.acquires : OpKind → Bool
  | .acq => true
  | .acqa => true
  | _ => false

/-- Acquires of a firing that have not ended: what its later memory operations wait behind (R87, R215). -/
def State.pendingAcqs (s : State) (serial : Nat) : List Nat :=
  (s.ops.filter fun o => o.kind.acquires && o.who.serial == serial).map (·.id)

/-- A failed acquire stays in force for its firing (R217). -/
def State.acqFailed (s : State) : Bool := s.failedAcqs.contains s.fir.serial

/-- A memory operation of a kind that waits behind acquires leaves the lane (R215): after a failed acquire of
its firing, or from a dead firing, it is not performed. -/
def State.issueMem (s : State) (o : MemOp) : State :=
  if s.fir.dead then s
  else if s.acqFailed then s.countLost s.cur s.fir.ctx s.fir.tag 1
  else s.issue { o with behind := s.pendingAcqs s.fir.serial }

/-- The issue of a load-like operation on a destination slot (R39, R193, R208): record, then slot; a FULL
slot is emptied. -/
def State.issueLoad (s : State) (kind : OpKind) (x i : BitVec 4) (slot : BitVec 12) (used : List Bool) : State :=
  s.withOpd (s.record (s.x x) used) fun w =>
    s.withOpd (s.fslot i slot) fun k =>
      s.withOpd (s.producerOk k) fun k =>
        if s.fir.dead then s.step1
        else ((s.setSlot s.cur k none).issueMem { kind := kind, recw := w, slot := some k }).step1

/-- LDG (R210). -/
def execLdg (x i : BitVec 4) (slot : BitVec 12) (p : BitVec 3) (s : State) : Host.Outcome State Fault Refusal :=
  .next (s.guardedP p fun s => s.netHold (.ldg x i slot p) fun s =>
    s.issueLoad .ldg x i slot [true, true, true, true])

/-- LDCH (R212). -/
def execLdch (x i : BitVec 4) (slot : BitVec 12) (p : BitVec 3) (s : State) : Host.Outcome State Fault Refusal :=
  .next (s.guardedP p fun s => s.netHold (.ldch x i slot p) fun s =>
    s.issueLoad .ldch x i slot [true, true, true, true])

/-- The slots of an AMO's record that it uses (R145, R208): a 64-bit CAS also uses slot 5. -/
def State.amoUsed (s : State) (x : BitVec 4) : List Bool :=
  match s.recSlot ((s.x x).toNat + 3) with
  | .ok w => [true, true, true, true, true, bits w 0 4 == 9 && bits w 4 2 == 1]
  | .error _ => [true, true, true, true, true]

/-- AMO (R213). -/
def execAmo (x i : BitVec 4) (slot : BitVec 12) (p : BitVec 3) (s : State) : Host.Outcome State Fault Refusal :=
  .next (s.guardedP p fun s => s.netHold (.amo x i slot p) fun s => s.issueLoad .amo x i slot (s.amoUsed x))

/-- STG (R211): no reply register is no valid word. -/
def execStg (a b c g : BitVec 4) (s : State) : Host.Outcome State Fault Refusal :=
  .next (if c = 0 then s.raise .illegalOp 0 0
    else s.guarded g fun s => s.netHold (.stg a b c g) fun s =>
      s.withOpd (s.record (s.x a) [true, true, true, true]) fun w =>
        s.withOpd (s.reply c) fun r =>
          (s.issueMem { kind := .stg, recw := w, val := s.x b, cont := r }).step1)

/-! ## Releases (R82, R83, R90) -/

/-- The stack of a piece, once it is translated. -/
def Piece.stack (p : Piece) : Option Nat :=
  match p.xl with
  | .at pa => some (stackOf pa)
  | .shadow page => some (stackOf page)
  | _ => none

/-- A store: its pieces become log entries. -/
def OpKind.stores : OpKind → Bool
  | .stg => true
  | .cwrite => true
  | _ => false

/-- A store that has entries still to append, to this module's logs or, with `sys`, to a peer's (R83, R99). -/
def MemOp.pendingStore (o : MemOp) (sys : Bool) : Bool :=
  o.kind.stores && (sys || o.peer.isNone) && (!o.checked || o.pieces.any fun p => !p.done)

/-- Operations of the module issued before one. -/
def State.earlier (s : State) (id : Nat) : List MemOp := s.ops.filter fun o => decide (o.id < id)

/-- Stores that a release must cover and whose entries do not all stand yet (R83): earlier ones of its
firing. -/
def State.uncovered (s : State) (o : MemOp) : List MemOp :=
  (s.earlier o.id).filter fun p => p.who.serial == o.who.serial && p.who.cell == o.who.cell && p.pendingStore o.sys

/-- Storing commands of a release's firing, issued before it, that wait in the copy engine's queue (R83). -/
def State.queuedStores (s : State) (o : MemOp) : List Cmd :=
  (s.cell o.who.cell).copyq.filter fun m =>
    (m.op == .tstore || m.op == .tscat) && m.who.serial == o.who.serial && decide (m.uid < o.id)

/-- The sub-log of the context an operation was issued in. -/
def State.logOf (s : State) (w : Issuer) : Nat := (s.cx w.cell w.ctx).log

/-- Stacks at which a store that a release must cover waits on a full ring, in which unpublished entries stand (R90). -/
def State.stalledStacks (s : State) (o : MemOp) : List Nat :=
  (((s.uncovered o).flatMap fun p => p.pieces.filterMap fun q => if q.wait.isSome && !q.done then q.stack else none).filter
    fun k => !(s.sub k (s.logOf o.who)).unpublished.isEmpty).eraseDups

/-- A context waits for a stack's acknowledgement of an SC store or of an AMO on an SC page: it sends no other memory
operation (R97). -/
def State.scOpen (s : State) (c x : Nat) : Bool :=
  s.ops.any fun q => q.who.cell == c && q.who.ctx == x && q.attr == 1 && q.opened

/-- The stack mask of a release (R82). -/
def State.relMask (s : State) (log : Nat) : BitVec 16 :=
  (List.range 16).foldl (fun m k =>
    if (s.sub k log).unpublished.isEmpty && (s.stack k).waiting log = 0 then m else m ||| BitVec.ofNat 16 (2 ^ k)) 0

/-- An operation changed. -/
def State.modOp (s : State) (id : Nat) (f : MemOp → MemOp) : State :=
  { s with ops := s.ops.map fun o => if o.id = id then f o else o }

/-- The answer to piece `k` of an operation leaves the agent `a` that has performed it, for the cell (R193, R343). -/
def State.sendAnswer (s : State) (a : Nat) (o : MemOp) (k : Nat) (flits : Nat := 1) (poison : Bool := false) (chks : List (Option (BitVec 16)) := []) :
    State :=
  s.inject { vn := 3, src := a, dst := o.who.cell, ctx := o.who.ctx, counts := false, flits := flits, poison := poison, chks := chks,
             body := .answer o.id k o.who }

/-- A release forms its publish messages once every store it must cover stands (R82, R90): its mask, its release sequence
and the messages' place in the order of what the cell sends (R79) are fixed. -/
def State.openRel (s : State) (o : MemOp) : State :=
  if o.opened || !(s.uncovered o).isEmpty || !(s.queuedStores o).isEmpty then s
  else
    let k := s.cx o.who.cell o.who.ctx
    let n := k.rseq + 1
    let m := s.relMask k.log
    let (at', s) := s.fresh
    let s := s.modCx o.who.cell o.who.ctx fun k => { k with rseq := n, peersOut := if o.sys then [] else k.peersOut }
    s.modOp o.id fun q => { q with
      opened := true
      mask := m
      rseq := n
      sent := at'
      peers := if o.sys then k.peersOut else [] }

/-- The operation of an id. -/
def State.op? (s : State) (id : Nat) : Option MemOp := s.ops.find? fun o => o.id == id

/-- REL (R214). -/
def execRel (c : BitVec 4) (sc : Bool) (g : BitVec 4) (s : State) : Host.Outcome State Fault Refusal :=
  .next (s.guarded g fun s => s.netHold (.rel c sc g) fun s =>
    s.withOpd (s.reply c) fun r =>
      if s.fir.dead then s.step1
      else
        let s := s.issue { kind := .rel, cont := r, sys := sc, checked := true }
        (match s.ops.getLast? with
         | some o => s.openRel o
         | none => s).step1)

/-- The release token of an operation (R82). -/
def MemOp.token (o : MemOp) : Word :=
  word (o.who.vcell * 2 ^ 53 + o.who.ctx * 2 ^ 50 + o.mask.toNat * 2 ^ 34 + o.sys.toNat * 2 ^ 32 + o.rseq.toNat)

/-- The check of a release token (R87): context, vcell, scope. -/
def State.tokenOk (s : State) (t : Word) : Bool :=
  ctxOf t == s.fir.ctx && decide (vcellOf t < s.fcx.place.length) && decide (bits t 32 2 < 2)

/-- ACQ (R87, R193, R215): a token that it may not acquire ends the operation with BAD_CONT. -/
def execAcq (a c g : BitVec 4) (s : State) : Host.Outcome State Fault Refusal :=
  .next (s.guarded g fun s => s.netHold (.acq a c g) fun s =>
    s.withOpd (s.reply c) fun r =>
      if s.fir.dead then s.step1
      else if !s.tokenOk (s.x a) then (s.opLost s.issuer .badCont 0 0).step1
      else (s.issue { kind := .acq, cont := r, val := s.x a, mask := BitVec.ofNat 16 (bits (s.x a) 34 16), checked := true }).step1)

/-- ACQA (R216). -/
def execAcqa (c : BitVec 4) (sc : Bool) (g : BitVec 4) (s : State) : Host.Outcome State Fault Refusal :=
  .next (s.guarded g fun s => s.netHold (.acqa c sc g) fun s =>
    s.withOpd (s.reply c) fun r =>
      if s.fir.dead then s.step1
      else (s.issue { kind := .acqa, cont := r, sys := sc, mask := 0xFFFF, checked := true }).step1)

end Sys2Proof.Machine
end

