-- ==== Sys2Proof/Machine/Sync.lean ====
section
/-! DEFINITION. Barriers, wake ports, time (R219 to R222), regions, traps, control registers, the scrub
record, posted launches and counters (R224 to R230) as the lane runs them. -/

namespace Sys2Proof.Machine

/-! ## Barriers (R219, R220) -/

/-- A named barrier; one that nothing has reached is idle. -/
def Cell.barrier (c : Cell) (n : Nat) : Barrier := c.barriers.getD n {}

/-- An idle barrier has no owner (R219). -/
def Barrier.idle (b : Barrier) : Bool := !b.armed && b.arrivals == 0

/-- The value of a barrier's token and of an acknowledgement: arrivals and phase (R220). -/
def Barrier.value (b : Barrier) : Word := word (b.arrivals.toNat * 2 ^ 32 + b.phase.toNat)

/-- The firing loop of R220: the tokens' values in order, and the barrier after it. -/
def Barrier.fire (b : Barrier) : Nat → List Word × Barrier
  | 0 => ([], b)
  | n + 1 =>
    if b.armed && decide (b.target.toNat ≤ b.arrivals.toNat) then
      let c := { b with arrivals := b.arrivals - b.target, phase := b.phase + 1, armed := b.rep }
      let r := Barrier.fire c n
      (c.value :: r.1, r.2)
    else ([], b)

/-- How many times the loop of R220 can run at most. -/
def Barrier.turns (b : Barrier) : Nat := if b.target = 0 then 0 else b.arrivals.toNat / b.target.toNat

/-- A barrier set and its loop run: one token to its continuation for every turn. -/
def State.runBarrier (s : State) (c n : Nat) (b : Barrier) : State × Barrier :=
  let r := b.fire b.turns
  let s := s.modCell c fun d => { d with barriers := d.barriers.set {} n r.2 }
  (r.1.foldl (fun s v => s.sendTok c b.cont v b.tag) s, r.2)

/-- A context reaches a barrier or port that another one owns: PRIVILEGE (R219, R221). -/
def State.owned (s : State) (w : Issuer) (idle : Bool) (owner : Nat) (f : State → State) : State :=
  if !idle && owner != w.ctx then s.opLost w .privilege 0 0 else f s

/-- BARS applied at its barrier (R220). -/
def State.armBarrier (s : State) (c n : Nat) (w : Issuer) (target : BitVec 32) (rep : Bool) (cont : Word) : State :=
  let b := (s.cell c).barrier n
  s.owned w b.idle b.owner fun s =>
    (s.runBarrier c n { b with target := target, rep := rep, cont := cont, tag := w.tag, armed := true, owner := w.ctx }).1

/-- BARA applied at its barrier (R193, R220): SHAPE for a number of arrivals outside 1 to 65,535, and where the sum leaves 32 bits; else an
acknowledgement where one is asked for. -/
def State.arrive (s : State) (c n : Nat) (w : Issuer) (k : Nat) (cont : Option Word) : State :=
  let b := (s.cell c).barrier n
  if k = 0 || 65536 ≤ k then s.opLost w .shape 0 0
  else s.owned w b.idle b.owner fun s =>
    if 2 ^ 32 ≤ b.arrivals.toNat + k then s.opLost w .shape 0 0
    else
      let (s, b) := s.runBarrier c n { b with arrivals := b.arrivals + BitVec.ofNat 32 k, owner := w.ctx }
      match cont with
      | none => s
      | some r => s.sendReply c w r b.value

/-- BARS at the issuing cell's barrier (R193, R220): SHAPE for a name of another vcell and for a target outside 32 bits. -/
def State.setBarrier (s : State) (n : Nat × Nat) (v : Word) (rep : Bool) (cont : Word) : State :=
  if n.2 ≠ s.fcx.vcell || v = 0 || 2 ^ 32 ≤ v.toNat then s.opLost s.issuer .shape 0 0
  else s.armBarrier s.cur n.1 s.issuer (v.setWidth 32) rep cont

/-- A wait for the network of an instruction that sends only in some states (R157): `sends` says whether it does in this one. -/
def State.holdIf (s : State) (sends : Bool) (i : Instr) (f : State → State) : State := if sends then s.netHold i f else f s

/-- The barrier index and vcell in a name, which the lane checks (R219): SHAPE for nonzero bits between, or, with the name as
detail, for a vcell outside the placement. -/
def State.barName (s : State) (a : Word) : Opd (Nat × Nat) :=
  if bits a 7 46 ≠ 0 then .error (.shape, 0)
  else if s.fcx.place.length ≤ vcellOf a then .error (.shape, a)
  else .ok (bits a 0 7, vcellOf a)

/-- BARS (R220). -/
def execBars (a b c : BitVec 4) (r : Bool) (g : BitVec 4) (s : State) : Host.Outcome State Fault Refusal :=
  .next (if c = 0 then s.raise .illegalOp 0 0
    else s.guarded g fun s => s.withOpd (s.barName (s.x a)) fun n =>
      s.withOpd (s.checkCont (s.x c) 0) fun w =>
        s.holdIf (decide ((s.x b).toNat ≤ ((s.cell s.cur).barrier n.1).arrivals.toNat)) (.bars a b c r g) fun s =>
          (if s.fir.dead then s else s.setBarrier n (s.x b) r w).step1)

/-- BARA (R220). -/
def execBara (a b c g : BitVec 4) (s : State) : Host.Outcome State Fault Refusal :=
  .next (s.guarded g fun s => s.withOpd (s.barName (s.x a)) fun n =>
    s.withOpd (s.reply c) fun w =>
      if n.2 = s.fcx.vcell then
        let q := (s.cell s.cur).barrier n.1
        s.holdIf (w.isSome || (q.armed && decide (q.target.toNat ≤ q.arrivals.toNat + (s.x b).toNat))) (.bara a b c g) fun s =>
          (if s.fir.dead then s else s.arrive s.cur n.1 s.issuer (s.x b).toNat w).step1
      else s.netHold (.bara a b c g) fun s =>
        if s.fir.dead then s.step1
        else ((s.raiseOut s.cur s.fir.ctx 1).inject
          { vn := 0, src := s.cur, dst := s.fcx.place.getD n.2 0, ctx := s.fir.ctx,
            body := .bara n.1 (s.x b).toNat w s.issuer }).step1)

/-! ## Wake ports (R221) -/

/-- A wake port; one that nothing has reached has no owner. -/
def Cell.wake (c : Cell) (n : Nat) : WakePort := c.wakes.getD n {}

/-- A port with no owner: unarmed, its latch empty. -/
def WakePort.idle (p : WakePort) : Bool := !p.armed && p.latch.isNone

/-- A wake port set. -/
def State.setWake (s : State) (c n : Nat) (p : WakePort) : State :=
  s.modCell c fun d => { d with wakes := d.wakes.set {} n (if p.idle then {} else p) }

/-- A WATCH or WDROP done at its port (R193, R221): SHAPE for a name with nonzero high bits, PRIVILEGE for a port of another context. -/
def State.atPort (s : State) (a : Word) (f : Nat → WakePort → State → State) : State :=
  let p := (s.cell s.cur).wake (bits a 0 4)
  if s.fir.dead then s
  else if bits a 4 60 ≠ 0 then s.opLost s.issuer .shape 0 0
  else s.owned s.issuer p.idle p.owner (f (bits a 0 4) p)

/-- WATCH (R221): a latched value's token waits while the network holds it back (R157). -/
def execWatch (a c g : BitVec 4) (s : State) : Host.Outcome State Fault Refusal :=
  .next (if c = 0 then s.raise .illegalOp 0 0
    else s.guarded g fun s =>
      s.withOpd (s.checkCont (s.x c) 0) fun w =>
        s.holdIf ((s.cell s.cur).wake (bits (s.x a) 0 4)).latch.isSome (.watch a c g) fun s =>
          (s.atPort (s.x a) fun n p s => match p.latch with
            | some v => (s.setWake s.cur n {}).sendTok s.cur w v s.fir.tag
            | none => s.setWake s.cur n { armed := true, cont := w, tag := s.fir.tag, owner := s.fir.ctx }).step1)

/-- WDROP (R221). -/
def execWdrop (a g : BitVec 4) (s : State) : Host.Outcome State Fault Refusal :=
  .next (s.guarded g fun s =>
    (s.atPort (s.x a) fun n _ s => s.setWake s.cur n {}).step1)

/-! ## Time (R222, R363) -/

/-- A record appended to a function's record ring (R363): a type word with the number of words that
follow, and these. Where it does not fit, recording stops with ovf set; where its page cannot be written it is dropped and reported,
and the position advances (R369). -/
def State.recordTo (s : State) (f kind : Nat) (w : List Word) : State :=
  let k := s.fn f
  if !k.recEn || k.recOvf || k.recr.base = 0 then s
  else if k.recr.bytes < 8 * (k.recPos + w.length + 1) then s.modFn f fun k => { k with recOvf := true }
  else
    let s := (s.wrGuest f (k.recr.base + 8 * k.recPos) (wordBytes (word (kind + w.length * 2 ^ 8) :: w))).getD
      (s.errRec 0x0C 8 0 0 (word (k.recr.base + 8 * k.recPos)) (word f))
    s.modFn f fun k => { k with recPos := k.recPos + w.length + 1 }

/-- The words of a record ring from a word on, as they stand in memory. -/
def State.recWord (s : State) (f n : Nat) : Word :=
  match s.rdGuest f ((s.fn f).recr.base + 8 * n) with
  | .ok w => w
  | .error _ => 0

/-- The first TIME record of a key from a word of the record ring on that the replay has not consumed (R363, R364), a later launch's among
them: its value, the word it begins at and the word the next record begins at. -/
def State.findTime (s : State) (f : Nat) (key : Word) : Nat → Nat → Option (Word × Nat × Nat)
  | 0, _ => none
  | fuel + 1, n =>
    if (s.fn f).recr.bytes ≤ 8 * n then none
    else
      let h := s.recWord f n
      let next := n + 1 + bits h 8 16
      if h = 0 then none
      else if bits h 0 8 = 4 && s.recWord f (n + 1) = key && !(s.fn f).recUsed.contains n then some (s.recWord f (n + 2), n, next)
      else s.findTime f key fuel next

/-- First word of a TIME record (R363): vcell, context and the context's TIME count since launch. -/
def timeKey (vcell ctx n : Nat) : Word := word (vcell + ctx * 2 ^ 11 + n * 2 ^ 32)

/-- TIME (R222). -/
def execTime (d g : BitVec 4) (s : State) : Host.Outcome State Fault Refusal :=
  .next (s.guarded g fun s =>
    let f := (s.fcx.inst.getD (0, 0)).1
    let n := s.fcx.times + 1
    let key := timeKey s.fcx.vcell s.fir.ctx n
    let s := s.modCx s.cur s.fir.ctx fun k => { k with times := n }
    match if (s.fn f).recReplay then s.findTime f key ((s.fn f).recr.bytes / 8) 0 else none with
    | some (v, n, pos) => ((s.modFn f fun k => { k with recPos := Nat.max k.recPos pos, recUsed := n :: k.recUsed }).setX d v).step1
    | none => ((s.recordTo f 4 [key, s.now s.cur]).setX d (s.now s.cur)).step1)

/-! ## Regions (R224, R225) -/

/-- CROPEN (R224): the lane waits until every cell has recorded the new id. -/
def execCropen (d a g : BitVec 4) (s : State) : Host.Outcome State Fault Refusal :=
  .next (s.guarded g fun s =>
    if s.fcx.vcell ≠ 0 then s.raise .privilege 0 0
    else s.withOpd (s.checkCont (s.x a) 0) fun w =>
      match if s.fir.dead then none else s.instAt s.cur s.fir.ctx with
      | none => (s.setX d 0).step1
      | some i =>
        match i.regions.firstFree 1 255 with
        | none => (s.setX d 0).step1
        | some id =>
          let s := s.modInst i.fn i.id fun i => { i with regions := i.regions.put id { handler := w } }
          let s := i.place.foldl (fun s c =>
            s.inject { vn := 4, src := s.cur, dst := c, ctx := i.ctx, counts := false, body := .regionId id }) s
          s.modLane fun l => { l with stall := some (.cropen d id) })

/-- A CRCLOSE taken up (R193, R224, R225): PRIVILEGE outside vcell 0, BAD_CONT with the operand for an id that is not allocated or where
no reply is named; else the region closes when it is quiescent. -/
def State.closing (s : State) (a : Word) (w : Option Word) : State :=
  if s.fcx.vcell ≠ 0 then s.opLost s.issuer .privilege 0 0
  else match s.instAt s.cur s.fir.ctx, w with
    | some i, some w =>
      match i.regions.get? a.toNat with
      | none => s.opLost s.issuer .badCont a 0
      | some q => (s.raiseOut s.cur s.fir.ctx 1).modInst i.fn i.id fun i =>
          { i with regions := i.regions.put a.toNat { q with closing := q.closing ++ [(w, s.issuer)] } }
    | _, _ => s.opLost s.issuer .badCont a 0

/-- CRCLOSE (R225): the rest of it happens when the region is quiescent. -/
def execCrclose (a c g : BitVec 4) (s : State) : Host.Outcome State Fault Refusal :=
  .next (s.guarded g fun s => s.netHold (.crclose a c g) fun s =>
    s.withOpd (s.reply c) fun w => (if s.fir.dead then s else s.closing (s.x a) w).step1)

/-! ## Traps, control registers, the scrub record, counters (R226 to R230) -/

/-- ILLEGAL_OP (R140, R143): a word of the lane that has no encoding there; an opcode from 0xC0 on belongs to
a kernel. The exception is its effect. -/
def execIllegalOp (w : BitVec 32) (s : State) : Host.Outcome State Fault Refusal :=
  .next (if 0xC0 ≤ w.toNat / 2 ^ 24 then s.raise .illegalContext 0 0 else s.raise .illegalOp 0 0)

/-- TRAP (R226): the exception is its effect. -/
def execTrap (i : BitVec 16) (s : State) : Host.Outcome State Fault Refusal :=
  .next (s.raise .trap (i.setWidth 64) (s.x 1))

/-- CTL_POOL of a level (R144): live frames, queued requests, size class, declared. -/
def poolWord (k : Ctx) (level : Nat) : Word :=
  match k.pools.get? level with
  | none => 0
  | some p => word (p.live % 2 ^ 12 + p.queue.length % 2 ^ 12 * 2 ^ 12 + p.cls * 2 ^ 24 + 2 ^ 27)

/-- A control register's value (R144); none for an unlisted number. -/
def State.ctlRead (s : State) (n : Nat) : Option Word :=
  let k := s.fcx
  match n with
  | 0x00 => some (word s.cur)
  | 0x01 => some (word k.vcell)
  | 0x02 => some (word s.fir.ctx)
  | 0x03 => some (k.tenant.setWidth 64)
  | 0x04 => some (word (regionOf s.fir.tag))
  | 0x08 => some k.ctl.faultc
  | 0x09 => some (k.ctl.rmode.setWidth 64)
  | 0x0A => some k.ctl.seed
  | 0x0B => some (k.ctl.flags.setWidth 64)
  | 0x0C => some (k.ctl.prio.setWidth 64)
  | n => if 0x10 ≤ n && n < 0x18 then some (poolWord k (n - 0x10)) else none

/-- MFC (R144, R227). -/
def execMfc (d g : BitVec 4) (n : BitVec 6) (s : State) : Host.Outcome State Fault Refusal :=
  .next (match s.ctlRead n.toNat with
    | none => s.raise .illegalOp 0 0
    | some _ => s.guarded g fun s => (s.setX d ((s.ctlRead n.toNat).getD 0)).step1)

/-- The control registers after a write of a register (R132, R144), or the fault that the write raises. -/
def State.ctlWrite (s : State) (n : Nat) (v : Word) : Except FaultCode Ctl :=
  let c := s.fcx.ctl
  match n with
  | 0x08 => if v = 0 || replyOk s.fcx.place.length s.fir.ctx v then .ok { c with faultc := v } else .error .badCont
  | 0x09 => if 4 < v.toNat then .error .illegalOp else .ok { c with rmode := v.setWidth 3 }
  | 0x0A => .ok { c with seed := v }
  | 0x0B => if 2 ^ 7 ≤ v.toNat then .error .illegalOp else .ok { c with flags := v.setWidth 7 }
  | 0x0C => if 4 ≤ v.toNat then .error .illegalOp else .ok { c with prio := v.setWidth 2 }
  | _ => .error .privilege

/-- MTC (R144, R227). -/
def execMtc (a g : BitVec 4) (n : BitVec 6) (s : State) : Host.Outcome State Fault Refusal :=
  .next (match s.ctlRead n.toNat with
    | none => s.raise .illegalOp 0 0
    | some _ => s.guarded g fun s =>
      match s.ctlWrite n.toNat (s.x a) with
      | .error e => s.raise e 0 0
      | .ok c => (s.modCx s.cur s.fir.ctx fun k => { k with ctl := c }).step1)

/-- The scrub record bound to the instance at a context (R228): the one with its launch's nonce, which an instance restored to another
partition finds among the records of the partition that it came from. -/
def State.sarOf (s : State) (c x : Nat) : Option Sar :=
  let k := s.cx c x
  let all := (s.parts.getD k.part {}).sars
  match s.instAt c x with
  | some i =>
    if i.scrub then (all ++ s.parts.flatMap fun p => p.2.sars).find? fun r => r.words.getD 14 0 == i.nonce && bit (r.words.getD 15 0) 0
    else all.find? fun r => bits (r.words.getD 4 0) 16 16 == k.tenant.toNat
  | none => all.find? fun r => bits (r.words.getD 4 0) 16 16 == k.tenant.toNat

/-- SCRUBRD (R228). -/
def execScrubrd (d g w : BitVec 4) (s : State) : Host.Outcome State Fault Refusal :=
  .next (s.guarded g fun s =>
    (s.setX d (match s.sarOf s.cur s.fir.ctx with | some r => r.words.getD w.toNat 0 | none => 0)).step1)

/-- A posted launch leaves its cell for the device queue (R229, R309). -/
def State.sendQpost (s : State) (o : MemOp) : State :=
  s.inject { vn := 4, src := o.who.cell, dst := Config.frontEnd, ctx := o.who.ctx, counts := false,
             body := .qpost o.recw (o.cont.getD 0) o.val.toNat o.id o.who }

/-- QPOST (R229): it waits behind its firing's acquires (R215). -/
def execQpost (a c g : BitVec 4) (s : State) : Host.Outcome State Fault Refusal :=
  .next (if c = 0 then s.raise .illegalOp 0 0
    else s.guarded g fun s => s.netHold (.qpost a c g) fun s =>
      s.withOpd (s.record (s.x a) [true, true, true, true, true, true]) fun w =>
        s.withOpd (s.checkCont (s.x c) 0) fun r =>
          if s.fir.dead || s.acqFailed then (s.issueMem { kind := .qpost }).step1
          else
            let s := s.issueMem { kind := .qpost, recw := w, cont := some r, checked := true,
                                  val := s.fcx.ctl.prio.setWidth 64 }
            (match s.ops.getLast? with
             | some o => if o.behind.isEmpty then s.sendQpost o else s
             | none => s).step1)

/-- The performance counters of R230: none for an unlisted number. -/
def State.perfRead (s : State) (n : Nat) : Option Word :=
  let k := s.fcx
  if n = 0 then some (word (s.ac s.cur - k.loadedAt))
  else if (1 ≤ n && n ≤ 4) || (8 ≤ n && n ≤ 0x11) then some (k.perf.getD n 0)
  else if 0x18 ≤ n && n ≤ 0x1B then some ((s.cell s.cur).perf.getD n 0)
  else none

/-- PERF (R230). -/
def execPerf (d g : BitVec 4) (n : BitVec 8) (s : State) : Host.Outcome State Fault Refusal :=
  .next (match s.perfRead n.toNat with
    | none => s.raise .illegalOp 0 0
    | some _ => s.guarded g fun s => (s.setX d ((s.perfRead n.toNat).getD 0)).step1)

end Sys2Proof.Machine
end

