-- ==== Sys2Proof/Machine/Issue.lean ====
section
/-! DEFINITION. The engine commands as the lane issues them (R231 to R233, R259, R260, R50). -/

namespace Sys2Proof.Machine

/-- What a handle slot of a record is for (R233). -/
inductive Role where
  | source
  | dest
  deriving DecidableEq, Repr

/-- One handle checked (R233): a source tile, which the command releases unless `keep`, or a destination,
which it never releases. -/
def State.checkHandle (s : State) (h : Word) (role : Role) (keep : Bool) : Opd (Nat × BitVec 8 × Bool) :=
  match s.localTile h (.tileState, h) with
  | .error e => .error e
  | .ok i =>
    let t := s.tile i
    match role with
    | .source => if t.sealed || (keep && s.mayUse i) then .ok (i, t.gen, !keep) else .error (.tileState, h)
    | .dest => if t.sealed || !s.mayUse i then .error (.tileState, h) else .ok (i, t.gen, false)

/-- The handle slots of a record checked in order; a slot that holds 0 names nothing (R233). -/
def State.checkHandles (s : State) (w : List Word) (keep : Bool) : List (Nat × Role) → Opd (List (Nat × BitVec 8 × Bool))
  | [] => .ok []
  | (k, role) :: rest =>
    if w.getD k 0 = 0 then s.checkHandles w keep rest
    else match s.checkHandle (w.getD k 0) role keep with
      | .error e => .error e
      | .ok n => match s.checkHandles w keep rest with
        | .error e => .error e
        | .ok ns => .ok (n :: ns)

/-- In-flight counts added: one for each tile a command names (R201, R232). -/
def Cell.flyAll (c : Cell) (named : List (Nat × BitVec 8 × Bool)) : Cell :=
  (named.map (·.1)).eraseDups.foldl (fun c i => c.modTile i fun t => { t with inflight := t.inflight + 1 }) c

/-- The queue of a command: its entries and its depth (R50). -/
def Cell.queueOf (c : Cell) (op : EngOp) (hi : Bool) : List Cmd × Nat :=
  match op with
  | .mwld | .macc | .mrun | .mdrain => (if hi then c.matrix.mq0 else c.matrix.mq1, 8)
  | .rset | .rfeed => (c.reducer.queue, 4)
  | .vrun => (c.vec.queue, 8)
  | _ => (c.copyq, 16)

/-- A command enters its queue (R231). -/
def Cell.enqueue (c : Cell) (m : Cmd) : Cell :=
  match m.op with
  | .mwld | .macc | .mrun | .mdrain =>
    if m.hi then { c with matrix := { c.matrix with mq0 := c.matrix.mq0 ++ [m] } }
    else { c with matrix := { c.matrix with mq1 := c.matrix.mq1 ++ [m] } }
  | .rset | .rfeed => { c with reducer := { c.reducer with queue := c.reducer.queue ++ [m] } }
  | .vrun => { c with vec := { c.vec with queue := c.vec.queue ++ [m] } }
  | _ => { c with copyq := c.copyq ++ [m] }

/-- A command of the copy engine. -/
def EngOp.copies : EngOp → Bool
  | .tload | .tstore | .tcopy | .tgath | .tscat | .tfill => true
  | _ => false

/-- Steps 5 and 6 of R232: counts, control registers, queue. The status slot is emptied (R39). A copy-engine
command after a failed acquire of its firing is not performed and releases its sources (R217). -/
def State.place (s : State) (m : Cmd) : State :=
  let s := s.setSlot s.cur m.statusSlot none
  if s.fir.dead then s.step1
  else if s.acqFailed && m.op.copies then ((s.modCell s.cur fun c => c.dropAll m.named).countLost s.cur s.fir.ctx s.fir.tag 1).step1
  else
    let (n, s) := s.fresh
    let m := { m with uid := n, who := s.issuer, rmode := s.fcx.ctl.rmode, seed := s.fcx.ctl.seed, prio := s.fcx.ctl.prio }
    let s := (s.modCell s.cur fun c => c.flyAll m.named).raiseOut s.cur s.fir.ctx 1
    let q := (s.cell s.cur).queueOf m.op m.hi
    if q.2 ≤ q.1.length then s.modLane fun l => { l with stall := some (.queue m) }
    else (s.modCell s.cur fun c => c.enqueue m).step1

/-- The issue of an engine command (R232): the slots it reads, the roles of its handle slots. -/
def State.issueCmd (s : State) (op : EngOp) (a c : BitVec 4) (hi keep : Bool) (slots : Nat) (roles : List (Nat × Role)) : State :=
  let first := (s.x a).toNat
  s.withOpd (s.record (s.x a) (List.replicate slots true)) fun w =>
    s.withOpd (s.reply c) fun r =>
      s.withOpd (s.destSlot (first + 7)) fun st =>
        s.withOpd (s.checkHandles w keep roles) fun ns =>
          s.place { op := op, keep := keep, hi := hi, recw := w, statusSlot := st, cont := r, named := ns,
                    writes := (roles.zip (roles.map fun q => w.getD q.1 0)).filterMap fun e =>
                      if e.1.2 = .dest && e.2 ≠ 0 then some (indexOf e.2) else none }

/-- An engine command under its guard; it waits while the network holds nothing back (R157). -/
def State.engine (s : State) (g : BitVec 4) (op : EngOp) (a c : BitVec 4) (hi keep : Bool) (slots : Nat)
    (roles : List (Nat × Role)) : State :=
  s.guarded g fun s => s.issueCmd op a c hi keep slots roles

/-- TLOAD (R232, R239). -/
def execTload (a c g : BitVec 4) (s : State) : Host.Outcome State Fault Refusal :=
  .next (s.engine g .tload a c false false 5 [])

/-- TSTORE (R232, R240). -/
def execTstore (a c : BitVec 4) (k : Bool) (g : BitVec 4) (s : State) : Host.Outcome State Fault Refusal :=
  .next (s.engine g .tstore a c false k 4 [(0, .source)])

/-- TCOPY (R232, R241). -/
def execTcopy (a c : BitVec 4) (k : Bool) (g : BitVec 4) (s : State) : Host.Outcome State Fault Refusal :=
  .next (s.engine g .tcopy a c false k 3 [(0, .source)])

/-- TGATH (R232, R242). -/
def execTgath (a c : BitVec 4) (k : Bool) (g : BitVec 4) (s : State) : Host.Outcome State Fault Refusal :=
  .next (s.engine g .tgath a c false k 4 [(1, .source), (3, .dest)])

/-- TSCAT (R232, R242). -/
def execTscat (a c : BitVec 4) (k : Bool) (g : BitVec 4) (s : State) : Host.Outcome State Fault Refusal :=
  .next (s.engine g .tscat a c false k 4 [(1, .source), (3, .source)])

/-- TFILL (R232, R243). -/
def execTfill (a c g : BitVec 4) (s : State) : Host.Outcome State Fault Refusal :=
  .next (s.engine g .tfill a c false false 2 [])

/-- MWLD (R232, R246). -/
def execMwld (a c : BitVec 4) (h k : Bool) (g : BitVec 4) (s : State) : Host.Outcome State Fault Refusal :=
  .next (s.engine g .mwld a c h k 4 [(0, .source), (1, .source), (2, .source)])

/-- MACC (R232, R247). -/
def execMacc (a c : BitVec 4) (h k : Bool) (g : BitVec 4) (s : State) : Host.Outcome State Fault Refusal :=
  .next (s.engine g .macc a c h k 3 [(2, .source)])

/-- MRUN (R232, R248). -/
def execMrun (a c : BitVec 4) (h k : Bool) (g : BitVec 4) (s : State) : Host.Outcome State Fault Refusal :=
  .next (s.engine g .mrun a c h k 4 [(0, .source), (3, .source)])

/-- MDRAIN (R232, R251). -/
def execMdrain (a c : BitVec 4) (h : Bool) (g : BitVec 4) (s : State) : Host.Outcome State Fault Refusal :=
  .next (s.engine g .mdrain a c h false 3 [])

/-- RSET (R232, R254). -/
def execRset (a c g : BitVec 4) (s : State) : Host.Outcome State Fault Refusal :=
  .next (s.engine g .rset a c false false 4 [])

/-- RFEED (R232, R256). -/
def execRfeed (a c : BitVec 4) (k : Bool) (g : BitVec 4) (s : State) : Host.Outcome State Fault Refusal :=
  .next (s.engine g .rfeed a c false k 2 [(0, .source)])

/-! ## VRUN (R259, R260) -/

/-- A run of `n` slots copied; it must lie inside the frame (R260). -/
def State.slotGroup (s : State) (base n : Nat) : Opd (List Word) :=
  match s.absSlot (base + n - 1) with
  | .error (c, _) => .error (c, 0)
  | .ok _ => s.copySlots base (List.replicate n true)

/-- What slots 5 to 7 of a shape record hold for the consumer's check (R147). R260 copies slots 0 to 4 only; DESIGN CHOICE (log 109): a
slot of these three that is not FULL counts as zero. -/
def State.shapeTail (s : State) (base : Nat) : List Word :=
  [5, 6, 7].map fun i => match s.slotGroup (base + i) 1 with
    | .ok [w] => w
    | _ => 0

/-- The shape records that bindings 0 to 5 name, none for an absent one (R148, R260). -/
def State.shapeRecords (s : State) : List Word → Opd (List (Option (List Word)))
  | [] => .ok []
  | b :: bs =>
    if bit b 63 then
      match s.slotGroup (bits b 0 12) 5 with
      | .error e => .error e
      | .ok w => match s.shapeRecords bs with
        | .error e => .error e
        | .ok ws => .ok (some (w ++ s.shapeTail (bits b 0 12)) :: ws)
    else match s.shapeRecords bs with
      | .error e => .error e
      | .ok ws => .ok (none :: ws)

/-- The handles of the shape records checked (R260): inputs 0 to 3 as sources with their keep bit, outputs
4 and 5 as destinations. -/
def State.bindHandles (s : State) : Nat → List (Option (List Word)) → Opd (List (Nat × BitVec 8 × Bool))
  | _, [] => .ok []
  | n, w :: ws =>
    match w with
    | none => s.bindHandles (n + 1) ws
    | some r =>
      if bits (r.getD 0 0) 28 2 ≠ 0 then s.bindHandles (n + 1) ws
      else
        match s.checkHandle (r.getD 0 0) (if n < 4 then .source else .dest) (bit (r.getD 1 0) 8) with
        | .error e => .error e
        | .ok h => match s.bindHandles (n + 1) ws with
          | .error e => .error e
          | .ok hs => .ok (h :: hs)

/-- Tiles that the outputs of a VRUN name by handle (R199). -/
def outTiles (ws : List (Option (List Word))) : List Nat :=
  (ws.drop 4).filterMap fun w => match w with
    | some r => if bits (r.getD 0 0) 28 2 = 0 then some (indexOf (r.getD 0 0)) else none
    | none => none

/-- VRUN (R259, R260). -/
def execVrun (a b c g : BitVec 4) (s : State) : Host.Outcome State Fault Refusal :=
  .next (s.guarded g fun s =>
    let first := (s.x b).toNat
    if 2 ^ 14 ≤ (s.x a).toNat then s.raise .badHeader 0 0
    else s.withOpd (s.record (s.x b) (List.replicate 7 true)) fun w =>
      s.withOpd (s.shapeRecords (w.take 6)) fun shapes =>
        s.withOpd (s.slotGroup (bits (w.getD 6 0) 0 12) 8) fun params =>
          s.withOpd (s.reply c) fun r =>
            s.withOpd (s.destSlot (first + 7)) fun st =>
              s.withOpd (s.bindHandles 0 shapes) fun ns =>
                s.place { op := .vrun, recw := w, statusSlot := st, cont := r, named := ns, writes := outTiles shapes,
                          kernel := (s.x a).toNat, shapes := shapes, params := params,
                          shapeSlots := (w.take 6).map fun b => s.fir.base + bits b 0 12 })

end Sys2Proof.Machine
end

