-- ==== Sys2Proof/Machine/Complete.lean ====
section
/-! DEFINITION. How an engine command ends: completion (R235), failure (R234), ending without completing. -/

namespace Sys2Proof.Machine

/-- The handle of a tile that a command has made (R237): vcell of its cell, the issuing context. -/
def State.madeHandle (s : State) (x : Nat) (m : Nat × Nat × BitVec 8) : Word :=
  mkHandle (s.cx m.1 x).vcell x m.2.1 m.2.2

/-- The tile a command makes freed, where the command fails (R237). -/
def State.dropMade (s : State) (r : Run) : State :=
  match r.made with
  | none => s
  | some (c, i, g) => s.modCell c fun d => if (d.tile i).live && (d.tile i).gen == g then d.freeTile i else d

/-- The tile a command made becomes known to software: SEALED, with the command's poison mark (R237, R238). -/
def State.showMade (s : State) (r : Run) : State :=
  match r.made with
  | none => s
  | some (c, i, _) => s.modTile c i fun t => { t with sealed := true, hidden := false, poison := t.poison || r.poisoned }

/-- Memory operations that carry a command's accesses leave with it. -/
def State.dropOpOf (s : State) (r : Run) : State :=
  match r.op with
  | none => s
  | some n => s.dropOps fun o => o.id == n

/-- Steps 1 and 2 of R235: sources without `.k` released, in-flight counts subtracted. -/
def State.letGo (s : State) (m : Cmd) : State := s.modCell m.who.cell fun c => (c.dropAll m.named).landAll m.named

/-- A command ends without completing (R235): its counter falls. -/
def State.endRun (s : State) (r : Run) : State :=
  (((s.dropOpOf r).dropMade r).letGo r.cmd).lowerOut r.cmd.who.cell r.cmd.who.ctx 1

/-- The status word of a command (R52). -/
def Run.status (r : Run) : Word :=
  word (r.count % 2 ^ 48 + (match r.failed with | some c => c.num * 2 ^ 48 + 2 ^ 62 | none => 0) +
    (if r.poisoned then 2 ^ 63 else 0))

/-- A slot of the issuing frame written by the machine for an operation (R39, R190): where that frame is
freed, a frame granted since at its base takes the write, and with no live frame there the write is discarded
with FRAME_FREE (R34); a smaller frame there has no such slot (R33). -/
def State.writeFrameSlot (s : State) (w : Issuer) (k : Nat) (v : Word) : State :=
  match (s.cx w.cell w.ctx).frames.get? w.base with
  | none => s.opFault w .frameFree 0 0
  | some f => if w.base + clsSlots f.cls ≤ k then s.opFault w .frameBound (word (k - w.base)) 0 else (s.writeSlot w.cell k v).touch w.cell k

/-- The continuation of a command's reply token, in the priority class of the issuing firing (R52): the return continuation has none. -/
def Issuer.replyCont (w : Issuer) (k : Word) : Word := if isReturn k then k else withPrio k w.prio

/-- A command completes (R52, R235), successfully or failed: releases, flags, status word, reply token. -/
def State.completeRun (s : State) (r : Run) : State :=
  let w := r.cmd.who
  let v : Word := if r.failed.isSome then 0 else match r.made with
    | some m => s.madeHandle w.ctx m
    | none => r.value
  let s := (s.dropOpOf r).letGo r.cmd
  let s := if r.failed.isSome then s.dropMade r else s.showMade r
  let s := s.orFlags w.cell w.ctx (r.flags ||| flagIf r.poisoned POISON)
  let s := s.writeFrameSlot w r.cmd.statusSlot r.status
  match r.cmd.cont with
  | none => s.lowerOut w.cell w.ctx 1
  | some k => s.sendAs w.cell { cont := w.replyCont k, val := v, tag := w.tag } (some w.cell)

/-- A fault of a command in execution (R234): the record is taken; outside a region the run goes on to
complete FAILED, in a region it ends at once and nothing is left of it. So it is where the record's delivery kills the context, whose
killing has cancelled the command (R323, R324). A command that fails for what it reads of a marked tile is POISONED too (R238). -/
def State.failRun (s : State) (r : Run) (code : FaultCode) (d1 d2 : Word) : State × Option Run :=
  let live := (s.instAt r.cmd.who.cell r.cmd.who.ctx).isSome
  let s := (s.dropOpOf r).opLost r.cmd.who code d1 d2
  if live && (s.instAt r.cmd.who.cell r.cmd.who.ctx).isNone then (s, none)
  else if regionOf r.cmd.who.tag = 0 then (s, some { r with failed := some code, poisoned := r.poisoned || code == .poison, ready := true, op := none })
  else (s.endRun { r with op := none }, none)

/-- The error record of the first uncorrectable element that a command meets (R238, R358), by its detail words: of a tensor its
coordinates, of a tile its handle. -/
def State.poisonRec (s : State) (r : Run) (d1 d2 : Word) : State × Run :=
  if r.logged then (s, r)
  else (s.errRec 0x05 (s.cx r.cmd.who.cell r.cmd.who.ctx).part r.cmd.who.cell r.cmd.who.ctx d1 d2, { r with logged := true })

/-- The same for a command that reads parts of tiles: the handle of the first with an uncorrectable element there. -/
def State.logBad (s : State) (r : Run) (h : Option Word) : State × Run :=
  match h with
  | none => (s, r)
  | some h => s.poisonRec r h 0

end Sys2Proof.Machine
end

