-- ==== Sys2Proof/Machine/Network.lean ====
section
/-! DEFINITION. What reaches a cell over the network (R26 to R29, R48, R59, R189, R204, R220, R221, R224),
the matcher (R24, R33, R39, R41, R367), the lane's taking and resuming of firings (R40, R42, R53), the
ends of its stalls (R157), and the heap's zeroing (R197). -/

namespace Sys2Proof.Machine

/-! ## Packets (R26, R342, R356) -/

/-- A packet stands at its destination: it has committed (R356) and crossed its last hop (R342). -/
def Packet.arrived (p : Packet) : Bool := p.committed && p.hops == some []

/-- The direction that a packet takes or will take around the ring, where it goes to another die (R347). -/
def State.wayOf (s : State) (p : Packet) : Option Bool :=
  match p.hops with
  | none => if dieOf (onMesh p.src) = dieOf (onMesh p.dst) then none else ringWay s.links p.force (dieOf (onMesh p.src)) (dieOf (onMesh p.dst))
  | some _ => p.route.findSome? fun h => match h with | .ring _ cw => some cw | _ => none

/-- An agent has an answer or acknowledgement to take in, which it does first (R343). -/
def State.drains (s : State) (a : Nat) : Bool := s.net.any fun p => p.vn == 3 && p.dst == a && p.arrived

/-- The oldest packet of a source, destination, context and virtual network, once it has arrived and its agent has no answer to take in
before it (R343). -/
def State.packet? (s : State) (vn src dst ctx : Nat) : Option Packet :=
  (s.net.find? fun p => p.vn == vn && p.src == src && p.dst == dst && p.ctx == ctx).filter fun p => p.arrived && !s.drains dst

/-- The same packet taken off the network. -/
def State.takePacket (s : State) (vn src dst ctx : Nat) : State :=
  { s with net := s.net.eraseP fun p => p.vn == vn && p.src == src && p.dst == dst && p.ctx == ctx }

/-- A packet accepted at its destination: the counters it counted in fall (R57). -/
def State.accepted (s : State) (p : Packet) : State :=
  let s := if p.counts && decide (p.src < Config.cells) then s.lowerOut p.src p.ctx 1 else s
  match p.also with
  | none => s
  | some c => s.lowerOut c p.ctx 1

/-- Tokens of a source that wait at a cell to be matched: a later message of the source stays behind
them (R26). -/
def State.behindTokens (s : State) (src dst ctx : Nat) : Bool :=
  ((s.cell dst).inq ++ (s.cx dst ctx).spill).any fun t => t.src == src && ctxOf t.cont == ctx

/-- A token belongs to a region whose failure its cell has applied (R326): by its tag, or by the frame it
is addressed to. -/
def Ctx.voids (k : Ctx) (t : Token) : Bool :=
  let failed := fun (r : Nat) => r != 0 && k.regions.get? r == some .failed
  failed (regionOf t.tag) || k.lost.any fun e => e.1 == baseOf t.cont && failed e.2

/-- A token that has arrived: at the tail of the input queue or, where the queue is full or earlier tokens
of the context are spilled, in the spill ring (R27); none where that ring is full too (R28). -/
def Cell.accept (c : Cell) (x : Nat) (t : Token) : Option Cell :=
  let k := c.cx x
  if c.inq.length < Config.inputQueue && k.spill.isEmpty then some { c with inq := c.inq ++ [t] }
  else if k.spill.length < k.spillCap then
    some (c.modCx x fun k => { k with spill := k.spill ++ [t], perf := k.perf.put 3 (k.perf.getD 3 0 + 1) })
  else none

/-- A token's discard with a fault (R367): a record of class 0x02 with the continuation and the tag; the
discard of a fault token kills the context. DESIGN CHOICE (log 105): so it does for SLOT_CONFLICT (R39), which R323 does not name. -/
def State.discardTok (s : State) (c : Nat) (t : Token) (code : FaultCode) : State :=
  s.take { cell := c, ctx := ctxOf t.cont, cls := 2, code := code, ia := iaOf t.cont, frame := baseOf t.cont,
           d1 := t.cont, d2 := t.tag, tag := t.tag, faulty := t.faulty }

/-- A token of a failed region is discarded with no record (R326); a fault token among them kills its context (R367), with the
record of the frame that the failure freed (log 91). -/
def State.voidTok (s : State) (c : Nat) (t : Token) : State := if t.faulty then s.discardTok c t .frameFree else s

/-- TOKEN_ARRIVAL (R26 to R28). -/
def execTokenArrival (src dst ctx : Nat) (s : State) : Host.Outcome State Fault Refusal :=
  .next (match s.packet? 0 src dst ctx with
    | none => s
    | some p => match p.body with
      | .token t =>
        let k := s.cx dst ctx
        if k.inst.isNone || k.voids t then
          let s := (s.takePacket 0 src dst ctx).accepted p
          (match p.also.or p.reply with | some c => s.countLost c ctx t.tag 1 | none => s).voidTok dst t
        else match (s.cell dst).accept ctx { t with src := src } with
          | none => s
          | some c => ((s.takePacket 0 src dst ctx).modCell dst fun _ => c).accepted p
      | _ => s)

/-- SPILL_RETURN (R27). -/
def execSpillReturn (cell ctx : Nat) (s : State) : Host.Outcome State Fault Refusal :=
  .next (match (s.cx cell ctx).spill with
    | [] => s
    | t :: rest =>
      if (s.cell cell).inq.length < Config.inputQueue then
        s.modCell cell fun c => { c.modCx ctx fun k => { k with spill := rest } with inq := c.inq ++ [t] }
      else s)

/-! ## The matcher -/

/-- What the matcher does with a token. -/
inductive Match where
  /-- discarded with no record (R326) -/
  | drop
  /-- discarded with a fault; it looked at a slot -/
  | bad (c : FaultCode) (slot : Option Nat)
  /-- its value parks in an absolute slot -/
  | park (slot : Nat)
  /-- a firing, and the match slot that becomes EMPTY -/
  | fire (f : Fire) (slot : Option Nat)
  deriving DecidableEq, Repr

/-- The matcher's checks (R24, R33, R39) and its match (R41) on a token. -/
def State.matchTok (s : State) (c : Nat) (t : Token) : Match :=
  let x := ctxOf t.cont
  let k := s.cx c x
  let ia := iaOf t.cont
  let b := baseOf t.cont
  let h := headerOf (imageWord k.image ia)
  let f : Fire := { ctx := x, base := b, hdr := ia, tag := t.tag, prio := prioOf t.cont, faulty := t.faulty }
  if k.voids t then .drop
  else if !headerOk k.image ia then .bad .badHeader none
  else match k.frames.get? b with
    | none => .bad .frameFree none
    | some fr =>
      if h.kind = 0 then .fire { f with x1 := t.val } none
      else if clsSlots fr.cls ≤ h.slot then .bad .frameBound none
      else match s.slot c (b + h.slot) with
        | none => .park (b + h.slot)
        | some (.deferred _ _ _ _) => .bad .slotConflict (some (b + h.slot))
        | some (.full v) =>
          let f := { f with faulty := t.faulty || (s.cell c).ftoks.contains (b + h.slot) }
          if portOf t.cont = 0 then .fire { f with x1 := t.val, x2 := v } (some (b + h.slot))
          else .fire { f with x1 := v, x2 := t.val } (some (b + h.slot))

/-- The matcher looks at a token now: its image is resident (R29) and its instance may fire (R306). -/
def State.open? (s : State) (c : Nat) (t : Token) : Bool :=
  (s.cx c (ctxOf t.cont)).resident &&
    (match s.instAt c (ctxOf t.cont) with | some i => i.started && i.unformed.isEmpty | none => true)

/-- A token taken off the input queue, counted (R230). -/
def State.dequeue (s : State) (c : Nat) (t : Token) : State :=
  (s.modCell c fun d => { d with inq := d.inq.erase t }).count c (ctxOf t.cont) 2

/-- MATCHER_TAKE (R24, R33, R39, R41, R53). -/
def execMatcherTake (cell : Nat) (s : State) : Host.Outcome State Fault Refusal :=
  .next (match if s.delivers cell then (s.cell cell).inq.find? (s.open? cell) else none with
    | none => s
    | some t => match s.matchTok cell t with
      | .drop => (s.dequeue cell t).voidTok cell t
      | .bad e k =>
        let s := s.dequeue cell t
        (match k with | some k => s.touch cell k | none => s).discardTok cell t e
      | .park k =>
        let s := ((s.dequeue cell t).setSlot cell k (some (.full t.val))).touch cell k
        if t.faulty then s.modCell cell fun c => { c with ftoks := c.ftoks ++ [k] } else s
      | .fire f m =>
        if Config.readyNew ≤ (s.cell cell).newReady then s
        else
          let s := s.dequeue cell t
          let s := match m with | some k => (s.setSlot cell k none).touch cell k | none => s
          s.pushReady cell f.prio (.fresh f))

/-- Words of the codelet store that the images of a cell's other contexts take (R11). -/
def Cell.storeWords (c : Cell) (x : Nat) : Nat :=
  (c.ctxs.map fun (e : Nat × Ctx) =>
    (if e.1 != x && e.2.resident then e.2.image.length else 0) + (match e.2.ahead with | some (code, true) => code.length | _ => 0)).sum

/-- Room made in the codelet store for an image of `n` words (R11, R54, R67): images of other contexts that hold no live frame leave it, lowest
slot first, but that of the firing on the lane (log 93); none where there is no room then. -/
def Cell.evict (c : Cell) (x n : Nat) : List Nat → Option Cell
  | [] => if 4 * (c.storeWords x + n) ≤ Config.codeletStore then some c else none
  | y :: ys =>
    if 4 * (c.storeWords x + n) ≤ Config.codeletStore then some c
    else if y = x || (c.cx y).image.isEmpty || !(c.cx y).frames.isEmpty || (c.lane.busy && c.lane.fir.ctx == y) then c.evict x n ys
    else (c.modCx y fun k => { k with resident := false }).evict x n ys

/-! ## The lane (R40, R42, R53) -/

/-- The first entry of the highest class that is not empty (R53). -/
def readyHead (q : List Ready) : Option Ready :=
  match q.find? fun r => r.cls == 3 with
  | some r => some r
  | none => match q.find? fun r => r.cls == 2 with
    | some r => some r
    | none => match q.find? fun r => r.cls == 1 with
      | some r => some r
      | none => q.find? fun r => r.cls == 0

/-- The context of a ready entry. -/
def Cell.readyCtx (c : Cell) (r : Ready) : Nat :=
  match r.body with
  | .fresh f => f.ctx
  | .resumed n => (c.recs.getD n {}).fir.ctx

/-- Ready entries whose image is resident: the others wait for it without delay to these (R29, R54). -/
def Cell.firable (c : Cell) : List Ready := c.ready.filter fun r => (c.cx (c.readyCtx r)).resident

/-- What a firing has taken in, kept for a rollback (R356). -/
def State.retain (s : State) (c x : Nat) (tag : Word) (base : Nat) : State :=
  s.modCell c fun d => { d with retained := d.retained ++ [{ ctx := x, region := regionOf tag, base := base, born := s.ac c }] }

/-- The same for an engine's command (R356). -/
def State.retainCmd (s : State) (c : Nat) (m : Cmd) : State := s.retain c m.who.ctx m.who.tag m.who.base

/-- A firing counts as activity of its instance (R230, R334), whose watchdog starts with the first (R333). -/
def State.fired (s : State) (c x : Nat) : State :=
  let s := s.count c x 1
  match s.instAt c x with
  | some i => s.modInst i.fn i.id fun i => { i with lastAct := s.ac (i.place.headD 0), fired := true }
  | none => s

/-- The registers of a new firing (R42). -/
def fireRegs (f : Fire) : Regs := ((({} : Regs).set 1 f.x1).set 2 f.x2).set 3 f.tag

/-- LANE_TAKE (R40, R42, R53). -/
def execLaneTake (cell : Nat) (s : State) : Host.Outcome State Fault Refusal :=
  .next (if (s.cell cell).lane.busy || !s.delivers cell then s
    else match readyHead (s.cell cell).firable with
      | none => s
      | some r =>
        let s := s.modCell cell fun c => { c with ready := c.ready.erase r }
        match r.body with
        | .fresh f =>
          let (n, s) := s.fresh
          let fir : Firing := { ctx := f.ctx, tag := f.tag, base := f.base, hdr := f.hdr, ia := f.hdr + 1, prio := f.prio,
                                faulty := f.faulty, serial := n }
          let s := s.modCell cell fun c => { c with lane := { busy := true, fir := fir, regs := fireRegs f } }
          (s.retain cell f.ctx f.tag f.base).fired cell f.ctx
        | .resumed key =>
          match (s.cell cell).recs.get? key with
          | none => s
          | some q =>
            let s := s.modCell cell fun c => { c with
              recs := c.recs.del key
              lane := { busy := true, fir := q.fir, regs := q.regs, resume := q.value, frees := q.frees } }
            (s.retain cell q.fir.ctx q.fir.tag q.fir.base).fired cell q.fir.ctx)

/-- READY_PROMOTION (R53). -/
def execReadyPromotion (cell cls : Nat) (s : State) : Host.Outcome State Fault Refusal :=
  .next (match (s.cell cell).ready.find? fun r => r.cls == cls with
    | none => s
    | some r =>
      if cls < 3 && decide (r.since + Config.promoteAc ≤ s.ac cell) then
        s.modCell cell fun c => { c with ready := c.ready.erase r ++ [{ r with cls := cls + 1, since := s.ac cell }] }
      else s)

/-! ## The ends of stalls (R157) -/

/-- The instruction that network back-pressure held runs (R157): one of those that send. -/
def State.rerun (s : State) (i : Instr) : Host.Outcome State Fault Refusal :=
  match i with
  | .send v c k e l g => execSend v c k e l g s
  | .swch v j k e l g => execSwch v j k e l g s
  | .sendd a b c e l g => execSendd a b c e l g s
  | .falloc a c r l g => execFalloc a c r l g s
  | .ffree a g => execFfree a g s
  | .tdup a b g => execTdup a b g s
  | .tdrop a g => execTdrop a g s
  | .hld x j slot p => execHld x j slot p s
  | .hst a b c n r v g => execHst a b c n r v g s
  | .bara a b c g => execBara a b c g s
  | .bars a b c r g => execBars a b c r g s
  | .ldg x j slot p => execLdg x j slot p s
  | .ldch x j slot p => execLdch x j slot p s
  | .amo x j slot p => execAmo x j slot p s
  | .stg a b c g => execStg a b c g s
  | .rel c sc g => execRel c sc g s
  | .acq a c g => execAcq a c g s
  | .acqa c sc g => execAcqa c sc g s
  | .crclose a c g => execCrclose a c g s
  | .qpost a c g => execQpost a c g s
  | .watch a c g => execWatch a c g s
  | _ => .next s

/-- The lane of a cell goes on past the instruction it was held at. -/
def State.unstall (s : State) (cell : Nat) : State :=
  { (s.modCell cell fun c => { c with lane := { c.lane with stall := none } }) with cur := cell, held := false }

/-- Every cell of a placement has recorded a region id (R224). -/
def State.recorded (s : State) (place : List Nat) (ctx id : Nat) : Bool :=
  place.all fun c => ((s.cx c ctx).regions.get? id).isSome

/-- LANE_STALL_END (R157). -/
def execLaneStallEnd (cell : Nat) (s : State) : Host.Outcome State Fault Refusal :=
  match (s.cell cell).lane.stall with
  | some (.net i) => (s.unstall cell).rerun i
  | some (.blocks d h 0) => .next (((s.unstall cell).setX d h).step1)
  | some (.seal i) =>
    .next (if (s.cell cell).written i then s
      else
        let s := s.unstall cell
        (if (s.tile i).live then s.seal i else s).step1)
  | some (.cropen d id) =>
    .next (let x := (s.cell cell).lane.fir.ctx
      if s.recorded (s.cx cell x).place x id then ((s.unstall cell).setX d (word id)).step1 else s)
  | _ => .next s

/-- ENGINE_QUEUE_ROOM (R50). What a failed acquire ends of a stalled command is done where the acquire ends (R217). -/
def execEngineQueueRoom (cell : Nat) (s : State) : Host.Outcome State Fault Refusal :=
  .next (match (s.cell cell).lane.stall with
    | some (.queue m) =>
      let q := (s.cell cell).queueOf m.op m.hi
      if q.2 ≤ q.1.length then s
      else ((s.unstall cell).modCell cell fun c => c.enqueue m).step1
    | _ => s)

/-! ## Messages -/

/-- The message at the head of its path, once the tokens its source sent before it have been matched. -/
def State.message? (s : State) (src dst ctx : Nat) : Option Packet :=
  if s.behindTokens src dst ctx then none else s.packet? 0 src dst ctx

/-- A message that its cell discards because the region of the firing that sent it has failed (R326). -/
def State.late (s : State) (c ctx : Nat) (tag : Word) : Bool :=
  regionOf tag != 0 && (s.cx c ctx).regions.get? (regionOf tag) == some .failed

/-- FALLOC_REQUEST (R58, R59, R188). -/
def execFallocRequest (src dst ctx : Nat) (s : State) : Host.Outcome State Fault Refusal :=
  .next (match s.message? src dst ctx with
    | none => s
    | some p => match p.body with
      | .falloc level r =>
        let s := (s.takePacket 0 src dst ctx).accepted p
        if s.late dst ctx r.tag then (s.lowerOut src ctx 1).countLost src ctx r.tag 1
        else match (s.cx dst ctx).pools.get? level with
          | none =>
            (s.lowerOut src ctx 1).opLost
              { cell := src, ctx := ctx, ia := r.ia, tag := r.tag, base := r.base, faulty := r.faulty }
              .frameBound (word level) 0
          | some q =>
            let s := s.modCx dst ctx fun k => { k with pools := k.pools.put level { q with queue := q.queue ++ [r] } }
            s.serveLevel dst ctx level (q.queue.length + 1)
      | _ => s)

/-- FFREE_MESSAGE (R35, R189): where the lane runs a firing of that frame, the free waits for its end. -/
def execFfreeMessage (src dst ctx : Nat) (s : State) : Host.Outcome State Fault Refusal :=
  .next (match s.message? src dst ctx with
    | none => s
    | some p => match p.body with
      | .ffree b w =>
        let s := (s.takePacket 0 src dst ctx).accepted p
        let l := (s.cell dst).lane
        if l.busy && l.fir.ctx == ctx && l.fir.base == b then
          s.modCell dst fun c => { c with lane := { c.lane with frees := c.lane.frees ++ [(b, w)] } }
        else s.freeLater dst ctx b w
      | _ => s)

/-- A count change at its owner (R47, R48, R193, R200): the fault it raises, or the cell after it. -/
def Cell.applyCount (c : Cell) (h : Word) (n : Nat) (up : Bool) : Except (FaultCode × Word) Cell :=
  let t := c.tile (indexOf h)
  if up && (n = 0 || 65535 < n) then .error (.shape, word n)
  else if !c.fits h then .error (.handleStale, h)
  else if !t.sealed then .error (.tileState, 0)
  else if !up then .ok (c.dropRef (indexOf h))
  else if 65535 < t.count + n then .error (.refcount, 0)
  else .ok (c.modTile (indexOf h) fun t => { t with count := t.count + n })

/-- COUNT_MESSAGE (R48, R193). -/
def execCountMessage (src dst ctx : Nat) (s : State) : Host.Outcome State Fault Refusal :=
  .next (match s.message? src dst ctx with
    | none => s
    | some p => match p.body with
      | .count h n up w =>
        let s := (s.takePacket 0 src dst ctx).accepted p
        (match (s.cell dst).applyCount h n up with
         | .error e => s.opLost w e.1 e.2 0
         | .ok c => s.modCell dst fun _ => c)
      | _ => s)

/-- BARRIER_MESSAGE (R220). -/
def execBarrierMessage (src dst ctx : Nat) (s : State) : Host.Outcome State Fault Refusal :=
  .next (match s.message? src dst ctx with
    | none => s
    | some p => match p.body with
      | .bara i n k w => ((s.takePacket 0 src dst ctx).accepted p).arrive dst i w n k
      | _ => s)

/-- HEAP_BLOCK_ZERO (R197): a zeroed block goes to the allocation that waits for it, else to the pool. -/
def execHeapBlockZero (cell : Nat) (s : State) : Host.Outcome State Fault Refusal :=
  .next (if (s.cell cell).heap.zeroing = 0 then s
    else s.modCell cell fun c => { c with
      heap := { c.heap with
        zeroing := c.heap.zeroing - 1
        owed := c.heap.owed - 1
        free := if c.heap.owed = 0 then c.heap.free + 1 else c.heap.free }
      lane := match c.lane.stall with
        | some (.blocks d h n) => { c.lane with stall := some (.blocks d h (n - 1)) }
        | _ => c.lane })

/-! ## Remote heap requests and replies (R193, R204, R205) -/

/-- An operation that ends where it is performed with a fault (R193): no reply, no slot, its count falls. -/
def State.failOp (s : State) (o : MemOp) (cls : Nat) (code : FaultCode) (d1 d2 : Word) : State :=
  (((s.dropOps fun q => q.id == o.id).lowerOut o.who.cell o.who.ctx 1).countLost o.who.cell o.who.ctx o.who.tag 1).take
    { cell := o.who.cell, ctx := o.who.ctx, cls := cls, code := code, ia := o.who.ia, frame := o.who.base, d1 := d1, d2 := d2,
      tag := o.who.tag, faulty := o.who.faulty }

/-- A remote HLD at the owner (R204): the element, or the code and detail of its fault. -/
def Cell.serveHld (c : Cell) (h off : Word) : Except (FaultCode × Word) Word :=
  let t := c.tile (indexOf h)
  if !c.fits h then .error (.handleStale, h)
  else if !t.sealed then .error (.tileState, 0)
  else if t.rows * t.cols ≤ off.toNat then .error (.shape, off)
  else if t.bad.contains off.toNat then .error (.poison, 0)
  else .ok (t.el off.toNat)

/-- REMOTE_HEAP_REQUEST (R193, R204, R205). -/
def execRemoteHeapRequest (src dst ctx : Nat) (s : State) : Host.Outcome State Fault Refusal :=
  .next (match s.packet? 2 src dst ctx with
    | none => s
    | some p => match p.body with
      | .hld h off id _ =>
        let s := (s.takePacket 2 src dst ctx).accepted p
        (match s.op? id with
         | none => s
         | some o => match (s.cell dst).serveHld h off with
           | .error e => (s.modOp id fun o => { o with fault := some (e.1, e.2, 0) }).sendAnswer dst o 0
           | .ok v => (s.modOp id fun o => { o with result := some v }).sendAnswer dst o 0)
      | .hst h _ w =>
        let s := (s.takePacket 2 src dst ctx).accepted p
        if (s.cell dst).fits h then s.opLost w .tileState 0 0 else s.opLost w .handleStale h 0
      | _ => s)

/-- PRODUCER_REPLY (R39, R133, R194): once the answer has brought the reply, flags, then the slot; the operation's count falls. -/
def execProducerReply (op : Nat) (s : State) : Host.Outcome State Fault Refusal :=
  .next (match s.op? op with
    | none => s
    | some o => match o.reply, o.slot with
      | some v, some k =>
        let s := s.orFlags o.who.cell o.who.ctx o.flags
        ((s.dropOps fun q => q.id == op).writeFrameSlot o.who k v).lowerOut o.who.cell o.who.ctx 1
      | _, _ => s)

/-! ## Wake values and region ids -/

/-- WAKE_VALUE (R221). -/
def execWakeValue (cell port : Nat) (s : State) : Host.Outcome State Fault Refusal :=
  .next (let is := fun (p : Packet) => p.dst == cell && (p.arrived && match p.body with | .wake n _ _ _ => n == port | _ => false)
    match s.net.find? is with
    | none => s
    | some p => match p.body with
      | .wake _ x v q =>
        let s := { s with net := s.net.eraseP is }.modQ q.1 q.2.1 fun k =>
          { k with pending := k.pending.filter fun p => p.num != q.2.2 }
        let s := match s.instAt cell x with
          | some i => s.modInst i.fn i.id fun i => { i with lastAct := s.ac (i.place.headD 0) }
          | none => s
        let w := (s.cell cell).wake port
        if !w.idle && w.owner != x then s.countCell cell 0x19
        else if w.armed then (s.setWake cell port {}).sendTok cell w.cont v w.tag
        else
          let s := if w.latch.isSome then s.countCell cell 0x19 else s
          s.setWake cell port { latch := some v, owner := x }
      | _ => s)

/-- REGION_ID_RECORD (R224). -/
def execRegionIdRecord (cell ctx : Nat) (s : State) : Host.Outcome State Fault Refusal :=
  .next (let is := fun (p : Packet) => p.vn == 4 && p.dst == cell && p.ctx == ctx && p.arrived &&
      (match p.body with | .regionId _ => true | _ => false)
    match s.net.find? is with
    | none => s
    | some p => match p.body with
      | .regionId id =>
        { s with net := s.net.eraseP is }.modCx cell ctx fun k =>
          { k with regions := if (k.regions.get? id).isSome then k.regions else k.regions.put id .opened }
      | _ => s)

end Sys2Proof.Machine
end

