-- ==== Sys2Proof/Machine/Special.lean ====
section
/-! DEFINITION. The special functions and twiddle factors (R128 to R130): the value to several hundred bits
by series, rounded once. The results that are not exact are irrational, so enough bits decide the rounding
(log entry 7). -/

namespace Sys2Proof.Machine

/-- Fraction bits of the fixed-point work. -/
def workBits : Nat := 512

/-- One in fixed point. -/
def one : Nat := 2 ^ workBits

/-- Terms of an alternating arctangent series of 1/n: the running power, the term number, the sum. -/
def atanInv (n : Nat) : Nat → Nat → Nat → Int → Int
  | 0, _, _, acc => acc
  | k + 1, i, p, acc =>
    atanInv n k (i + 1) (p / (n * n)) (if i % 2 = 0 then acc + (p / (2 * i + 1) : Nat) else acc - (p / (2 * i + 1) : Nat))

/-- π in fixed point, by Machin's formula. -/
def piFix : Nat := (16 * atanInv 5 120 0 (one / 5) 0 - 4 * atanInv 239 120 0 (one / 239) 0).toNat

/-- Terms of the hyperbolic arctangent of a fraction in fixed point. -/
def atanhFix (z2 : Nat) : Nat → Nat → Nat → Nat → Nat
  | 0, _, _, acc => acc
  | k + 1, i, p, acc => atanhFix z2 k (i + 1) (p * z2 / one) (acc + p / (2 * i + 1))

/-- The natural logarithm of a number n / d from 1 up to 2, in fixed point. -/
def lnFix (n d : Nat) : Nat :=
  let z := (n - d) * one / (n + d)
  2 * atanhFix (z * z / one) 180 0 z 0

/-- ln 2 in fixed point. -/
def ln2Fix : Nat := lnFix 2 1

/-- Terms of the exponential series. -/
def expSeries (z : Nat) : Nat → Nat → Nat → Nat → Nat
  | 0, _, _, acc => acc
  | k + 1, i, t, acc => expSeries z k (i + 1) (t * z / one / (i + 1)) (acc + t)

/-- 2^f for a fraction f in fixed point. -/
def exp2Fix (f : Nat) : Nat := expSeries (f * ln2Fix / one) 120 0 one 0

/-- Terms of the sine series. -/
def sinSeries (y2 : Nat) : Nat → Nat → Nat → Int → Int
  | 0, _, _, acc => acc
  | k + 1, i, t, acc =>
    sinSeries y2 k (i + 1) (t * y2 / one / ((2 * i + 2) * (2 * i + 3))) (if i % 2 = 0 then acc + (t : Nat) else acc - (t : Nat))

/-- sin(π r) for a fraction r in fixed point up to one half. -/
def sinPiFix (r : Nat) : Nat :=
  let y := r * piFix / one
  (sinSeries (y * y / one) 70 0 y 0).toNat

/-- A positive inexact value in fixed point rounded to FP32 (R128): only OF is reported. -/
def roundFix (neg : Bool) (v : Nat) (e : Int) : Nat × Fl :=
  let r := fp32.finish 0 0 .ieee neg v (e - workBits) true
  (r.1, r.2 &&& OF)

/-- A dyadic number m × 2^e in fixed point, rounded down. -/
def fixOf (m : Nat) (e : Int) : Nat :=
  if 0 ≤ e + workBits then m * 2 ^ (e + workBits).toNat else m / 2 ^ (-(e + workBits)).toNat

/-- The NaN result of a special function (R129). -/
def spNan (sig : Bool) : Nat × Fl := (fp32.nanBits, flagIf sig NV)

/-- VRCP (R128, R129). -/
def vrcp (a : Nat) : Nat × Fl :=
  let r := fp32.div 0 0 0x3F800000 a
  (r.1, r.2 &&& (NV ||| DZ ||| OF))

/-- VRSQ (R128, R129). -/
def vrsq (a : Nat) : Nat × Fl :=
  match fp32.dec a with
  | .nan s => spNan s
  | .zero n => (fp32.infBits n, DZ)
  | .inf n => if n then spNan true else (0, 0)
  | .fin n m e =>
    if n then spNan true
    else
      let (m, e) := if e % 2 = 0 then (m, e) else (2 * m, e - 1)
      let q := 2 ^ 400 / m
      let y := isqrt q 201 0
      let exact := decide (y * y * m = 2 ^ 400)
      let r := fp32.finish 0 0 .ieee false y (-200 - e / 2) (!exact)
      (r.1, r.2 &&& OF)

/-- 2^x for a whole number x. -/
def pow2 (x : Int) : Nat × Fl :=
  let r := fp32.finish 0 0 .ieee false 1 (if x < -400 then -400 else if 400 < x then 400 else x) false
  (r.1, r.2 &&& OF)

/-- VEXP2 (R128, R129). -/
def vexp2 (a : Nat) : Nat × Fl :=
  match fp32.dec a with
  | .nan s => spNan s
  | .zero _ => (0x3F800000, 0)
  | .inf n => (if n then 0 else fp32.infBits false, 0)
  | .fin n m e =>
    if 0 ≤ e then pow2 (if n then -(m * 2 ^ (Nat.min e.toNat 16) : Nat) else (m * 2 ^ (Nat.min e.toNat 16) : Nat))
    else
      let d := 2 ^ (-e).toNat
      if m % d = 0 then pow2 (if n then -(m / d : Nat) else (m / d : Nat))
      else
        let w : Int := if n then -(m / d : Nat) - 1 else (m / d : Nat)
        let f := if n then d - m % d else m % d
        if w < -400 then pow2 w else if 400 < w then pow2 w
        else roundFix false (exp2Fix (f * one / d)) w

/-- VLOG2 (R128, R129). -/
def vlog2 (a : Nat) : Nat × Fl :=
  match fp32.dec a with
  | .nan s => spNan s
  | .zero _ => (fp32.infBits true, DZ)
  | .inf n => if n then spNan true else (fp32.infBits false, 0)
  | .fin n m e =>
    if n then spNan true
    else
      let k := Nat.log2 m
      let w : Int := e + k
      if m = 2 ^ k then let r := fp32.ofInt 0 0 false w; (r.1, 0)
      else
        let l : Int := (lnFix m (2 ^ k) * one / ln2Fix : Nat) + w * one
        roundFix (decide (l < 0)) l.natAbs 0

/-- VTANH (R128, R129). -/
def vtanh (a : Nat) : Nat × Fl :=
  match fp32.dec a with
  | .nan s => spNan s
  | .zero n => (fp32.sign n, 0)
  | .inf n => (fp32.sign n + 0x3F800000, 0)
  | .fin n m e =>
    let lg := log2Of m e
    if lg < -30 then let r := fp32.finish 0 0 .ieee n (m * 2 ^ 60 - 1) (e - 60) true; (r.1, 0)
    else if 4 ≤ lg then let r := fp32.finish 0 0 .ieee n (2 ^ 60 - 1) (-60) true; (r.1, 0)
    else
      let u := 2 * fixOf m e * one / ln2Fix
      let w := u / one
      let f := u % one
      let t := exp2Fix (one - f) / 2 ^ (w + 1)
      roundFix n ((one - t) * one / (one + t)) 0

/-- sin(π x) for a dyadic x = m / d, as sign and FP32 result; multiples of one half are exact. `zero` is the
sign of a zero result. -/
def sinPi (neg : Bool) (m d : Nat) (zero : Bool) : Nat × Fl :=
  let r := m % (2 * d)
  let neg := if d ≤ r then !neg else neg
  let r := if d ≤ r then r - d else r
  if r = 0 then (fp32.sign zero, 0)
  else if 2 * r = d then (fp32.sign neg + 0x3F800000, 0)
  else
    let r := if d < 2 * r then d - r else r
    roundFix neg (sinPiFix (r * one / d)) 0

/-- A magnitude m × 2^e as a fraction n / d; whole numbers are reduced modulo 2. -/
def asFrac (m : Nat) (e : Int) : Nat × Nat :=
  if 0 < e then (0, 1) else if e = 0 then (m % 2, 1) else (m, 2 ^ (-e).toNat)

/-- VSIN (R128, R129). -/
def vsin (a : Nat) : Nat × Fl :=
  match fp32.dec a with
  | .nan s => spNan s
  | .zero n => (fp32.sign n, 0)
  | .inf _ => spNan true
  | .fin n m e => let q := asFrac m e; sinPi n q.1 q.2 n

/-- VCOS (R128, R129): cos(π x) is sin(π (x + 1/2)). -/
def vcos (a : Nat) : Nat × Fl :=
  match fp32.dec a with
  | .nan s => spNan s
  | .zero _ => (0x3F800000, 0)
  | .inf _ => spNan true
  | .fin _ m e => let q := asFrac m e; sinPi false (2 * q.1 + q.2) (2 * q.2) false

/-- A twiddle factor exp(−2πi·k/2^n) (R130): real and imaginary part as FP32 bits; zeros are +0. -/
def twiddle (n k : Nat) : Nat × Nat :=
  let d := 2 ^ n
  let k := k % d
  ((sinPi false (4 * k + d) (2 * d) false).1, (sinPi true (2 * k) d false).1)

end Sys2Proof.Machine
end

