-- ==== Sys2Proof/Machine/Vector.lean ====
section
/-! DEFINITION. The words of a vector kernel (R264 to R290): elements and masks, streams, loops, and the
integer, float, complex, cross-lane and mask instructions. -/

namespace Sys2Proof.Machine

/-! ## Registers, elements, masks (R264, R265) -/

/-- The vector unit of the present cell. -/
def State.vec (s : State) : Vec := (s.cell s.cur).vec

/-- The state with a vector unit changed. -/
def State.modVec (s : State) (c : Nat) (f : Vec → Vec) : State := s.modCell c fun d => { d with vec := f d.vec }

/-- The command of the running kernel. -/
def State.vcmd (s : State) : Cmd := (s.vec.run.getD {}).cmd

/-- `n` elements of width `w` of a number, the lowest first. -/
def elsOf (w : Nat) : Nat → Nat → List Nat
  | 0, _ => []
  | n + 1, v => v % 2 ^ w :: elsOf w n (v / 2 ^ w)

/-- The number made of elements of width `w`, the lowest first. -/
def ofEls (w : Nat) : List Nat → Nat
  | [] => 0
  | e :: es => e % 2 ^ w + 2 ^ w * ofEls w es

/-- A vector register as a number. -/
def State.v (s : State) (n : BitVec 5) : Nat := (s.vec.v.get n.toFin).toNat

/-- The elements of a vector register at a width. -/
def State.vels (s : State) (n : BitVec 5) (w : Nat) : List Nat := elsOf w (2048 / w) (s.v n)

/-- A vector register written. -/
def State.setV (s : State) (n : BitVec 5) (x : Nat) : State :=
  s.modVec s.cur fun k => { k with v := k.v.set n.toNat (BitVec.ofNat 2048 x) n.isLt }

/-- A mask register: `m0` reads all ones (R265). -/
def State.m (s : State) (n : BitVec 3) : BitVec 256 := if n = 0 then BitVec.allOnes 256 else s.vec.m.get n.toFin

/-- Position `j` of a chunk is not masked off (R265, R270): `m0` masks nothing; the other mask registers have no
bit for the positions 256 to 511 of a 4-bit chunk, which they leave unwritten (DEDUCED, log 81). -/
def State.unmasked (s : State) (n : BitVec 3) (j : Nat) : Bool := n == 0 || (s.m n).getLsbD j

/-- A mask register written: a write to `m0` is discarded (R142). -/
def State.setM (s : State) (n : BitVec 3) (x : BitVec 256) : State :=
  if n = 0 then s else s.modVec s.cur fun k => { k with m := k.m.set n.toNat x n.isLt }

/-- Flags gathered by the running kernel (R262). -/
def State.vflag (s : State) (fl : Fl) : State :=
  s.modVec s.cur fun k => { k with run := k.run.map fun r => { r with flags := r.flags ||| fl } }

/-- The element width of an integer class (R266). -/
def intW (t : BitVec 2) : Nat := match t.toNat with | 0 => 32 | 1 => 16 | _ => 8

/-- The element width of a raw width (R266). -/
def rawW (t : BitVec 2) : Nat := match t.toNat with | 0 => 32 | 1 => 16 | 2 => 8 | _ => 64

/-- The format of a float class (R266). -/
def floatOf (t : BitVec 2) : Fmt := match t.toNat with | 0 => fp32 | 1 => bf16 | _ => fp16

/-- The rounding mode of a vector instruction (R124, R139): the CTL_RMODE copied at issue, or the code. -/
def State.vmode (s : State) (r : BitVec 4) : Nat := if r = 0 then s.vcmd.rmode.toNat else r.toNat - 8

/-! ## Control (R262, R263, R274) -/

/-- The scan after the word at an address (R274): loops from the innermost out. -/
def Vec.scan (k : Vec) (w : Nat) : List (Fin 3) → Vec × Option Nat
  | [] => (k, none)
  | l :: ls =>
    let q := k.loops.get l
    if q.active && q.last == w then
      if q.lc - 1 ≠ 0 then ({ k with loops := k.loops.set l.val { q with lc := q.lc - 1 } l.isLt }, some q.top)
      else Vec.scan { k with loops := k.loops.set l.val { q with lc := 0, active := false } l.isLt } w ls
    else Vec.scan k w ls

/-- Control after the word at the present address, which goes to `pc` unless a loop turns back; past the
last word the kernel ends (R262). -/
def Vec.advance (k : Vec) (pc : Nat) : Vec :=
  let r := k.scan k.pc [2, 1, 0]
  let pc := r.2.getD pc
  { r.1 with pc := pc, ended := decide (k.buf.length ≤ pc) }

/-- The kernel goes on to the next word. -/
def State.vnext (s : State) : State := s.modVec s.cur fun k => k.advance (k.pc + 1)

/-- Ports bound to a kernel are unbound (R262). -/
def Cell.unbindKernel (c : Cell) : Cell :=
  { c with ports := c.ports.map fun (e : Nat × Port) => (e.1, if e.2.bound == .kernel then { e.2 with bound := .none } else e.2) }

/-- Tiles created for a kernel's outputs are freed (R263). -/
def Cell.dropOuts (c : Cell) : Cell :=
  c.vec.outs.foldl (fun c o => match o with
    | some q => if q.made && (c.tile q.tile).live && (c.tile q.tile).gen == q.gen then c.freeTile q.tile else c
    | none => c) c

/-- The vector unit with no kernel: what it holds of the last one is invisible to the next (R261). -/
def Vec.idle (k : Vec) : Vec :=
  { k with run := none, buf := [], pc := 0, ins := [], outs := [], waiting := false, ended := false, flags := 0 }

/-- A kernel's fault (R263): the record carries the word's index; in a region nothing is left of the kernel. -/
def State.kernelFault (s : State) (c : Nat) (code : FaultCode) (d1 d2 : Word) : State :=
  match (s.cell c).vec.run with
  | none => s
  | some r =>
    let s := s.modCell c fun d => d.dropOuts.unbindKernel
    match s.failRun r code d1 d2 with
    | (s, some r) => s.modVec c fun k => { k with run := some r, ended := true, waiting := false, outs := [] }
    | (s, none) => s.modVec c Vec.idle

/-- A fault of the word that the present kernel runs. -/
def State.vfault (s : State) (code : FaultCode) (d1 : Word) : State := s.kernelFault s.cur code d1 (word s.vec.pc)

/-- The count of a VLOOP (R274): immediate, or the low 32 bits of a kernel parameter. -/
def State.loopCount (s : State) (c : BitVec 14) : Nat :=
  if c.getLsbD 13 then bits (s.vcmd.params.getD (c.toNat % 8) 0) 0 32 else c.toNat % 2 ^ 13

/-- VLOOP (R274). -/
def execVloop (l : BitVec 2) (c : BitVec 14) (n : BitVec 8) (s : State) : Host.Outcome State Fault Refusal :=
  .next (let k := s.loopCount c
    let a := s.vec.pc
    if k = 0 then s.modVec s.cur fun v => v.advance (a + n.toNat + 1)
    else s.modVec s.cur fun v =>
      ({ v with loops := if h : l.toNat < 3 then
          v.loops.set l.toNat { lc := BitVec.ofNat 32 k, top := a + 1, last := a + n.toNat, active := true } h
        else v.loops }).advance (a + 1))

/-- VEND (R275). -/
def execVend (s : State) : Host.Outcome State Fault Refusal :=
  .next (s.modVec s.cur fun k => { k with ended := true })

/-! ## Streams (R267 to R273) -/

/-- Elements of a stream. -/
def Stream.total (q : Stream) : Nat := q.dims.foldl (· * ·) 1

/-- The indices of element number `n`, the fastest first. -/
def indices : List Nat → Nat → List Nat
  | [], _ => []
  | d :: ds, n => n % d :: indices ds (n / d)

/-- The element offset in its tile of element number `n` (R267). -/
def Stream.offset (q : Stream) (n : Nat) : Int :=
  ((indices q.dims n).zip q.strides).foldl (fun a e => a + (e.1 : Int) * e.2) q.base

/-- Elements a VLD or VST moves (R269, R270). -/
def Stream.chunk (q : Stream) : Nat := Nat.min (2048 / eb q.fmt) (q.total - q.pos)

/-- Whether an access to a tile meets poison (R238, R273): the tile's mark or the element itself. -/
def Tile.poisonAt (t : Tile) (i : Nat) : Bool := t.poison || t.bad.contains i

/-- An element as an engine reads it: zero where it is uncorrectable (R238). -/
def Tile.readEl (t : Tile) (i : Nat) : Nat := if t.bad.contains i then 0 else (t.el i).toNat

/-- What popping a chunk from a port finds (R272): elements and rows left, a missing row, or a fault. -/
inductive Popped where
  | got (els : List Nat) (rows : List Row) (poison : Bool)
  | wait
  | fault (c : FaultCode) (rows : List Row)
  deriving DecidableEq, Repr

/-- `n` elements popped from the rows of a port, the next in column `col` of the head (R272). -/
def popRows (x d0 fmt : Nat) : Nat → Nat → List Row → List Nat → Bool → Popped
  | 0, _, rows, acc, po => .got acc.reverse rows po
  | _ + 1, _, [], _, _ => .wait
  | n + 1, col, r :: rows, acc, po =>
    if r.ctx ≠ x then .fault .privilege (r :: rows)
    else if r.fmt ≠ fmt || r.els.length < d0 then .fault .shape (r :: rows)
    else
      let acc := (r.els.getD col 0).toNat :: acc
      if col + 1 = d0 then popRows x d0 fmt n 0 rows acc (po || r.poison)
      else popRows x d0 fmt n (col + 1) (r :: rows) acc (po || r.poison)

/-- The output tiles that the running kernel has written marked poisoned (R273). -/
def Cell.taintOuts (c : Cell) : Cell :=
  c.vec.outs.foldl (fun c o => match o with
    | some q => if q.wrote then c.modNamed q.tile q.gen fun t => { t with poison := true } else c
    | none => c) c

/-- The running kernel and what it has written marked POISONED (R273); the first uncorrectable element is logged by
its tile's handle (R238). -/
def State.vpoison (s : State) (p bad : Bool) (d1 : Word) : State :=
  if !p then s
  else
    let s := match if bad then s.vec.run else none with
      | some r => let q := s.poisonRec r d1 0; q.1.modVec s.cur fun k => { k with run := some q.2 }
      | none => s
    (s.modVec s.cur fun k => { k with run := k.run.map fun r => { r with poisoned := true } }).modCell s.cur Cell.taintOuts

/-- VLD (R269, R272). -/
def execVld (d : BitVec 5) (n : BitVec 2) (s : State) : Host.Outcome State Fault Refusal :=
  .next (match (s.vec.ins.getD n.toNat none) with
    | none => s.vfault .shape (word n.toNat)
    | some q =>
      let c := q.chunk
      let w := eb q.fmt
      let move := fun (s : State) (els : List Nat) =>
        ((s.setV d (ofEls w els)).modVec s.cur fun k =>
          { k with ins := listMod k.ins n.toNat (fun _ => some { q with pos := q.pos + c }), waiting := false }).vnext
      if c = 0 then s.vfault .shape (word n.toNat)
      else match q.port with
        | none =>
          let t := ((s.cell s.cur).named q.tile q.gen).asRead s.vcmd.uid
          let os := (List.range c).map fun i => (q.offset (q.pos + i)).toNat
          move (s.vpoison (os.any t.poisonAt) (os.any t.bad.contains)
            (mkHandle s.vcmd.who.vcell s.vcmd.who.ctx q.tile q.gen)) (os.map t.readEl)
        | some p =>
          let po := (s.cell s.cur).ports.getD p {}
          let d0 := q.dims.headD 1
          let keep := fun (s : State) (rows : List Row) =>
            s.modCell s.cur fun k => { k with ports := k.ports.put p { po with rows := rows } }
          match popRows s.vcmd.who.ctx d0 q.fmt c (q.pos % d0) po.rows [] false with
          | .got els rows pz => move ((keep s rows).vpoison pz false 0) els
          | .wait => s.modVec s.cur fun k => { k with waiting := true }
          | .fault e rows => (keep s rows).vfault e 0)

/-- VST (R270). -/
def execVst (n : Bool) (a : BitVec 5) (k : BitVec 3) (s : State) : Host.Outcome State Fault Refusal :=
  .next (match s.vec.outs.getD n.toNat none with
    | none => s.vfault .shape (word n.toNat)
    | some q =>
      let c := q.chunk
      let es := (s.vels a (eb q.fmt)).take c
      let ws := (es.zipIdx.filter fun e => s.unmasked k e.2).map fun e => ((q.offset (q.pos + e.2)).toNat, e.1)
      if c = 0 then s.vfault .shape (word n.toNat)
      else
        let po := !ws.isEmpty && (s.vec.run.getD {}).poisoned
        let s := s.modCell s.cur fun d => d.modNamed q.tile q.gen fun t =>
          ws.foldl (fun t e => t.engineSet s.serial s.vcmd.uid e.1 (word e.2)) { t with poison := t.poison || po }
        (s.modVec s.cur fun v => { v with
          outs := listMod v.outs n.toNat (fun _ => some { q with pos := q.pos + c, wrote := q.wrote || !ws.isEmpty })
          run := v.run.map fun r => { r with count := r.count + ws.length } }).vnext)

/-! ## Element-wise work (R125, R265) -/

/-- One step of a stochastic generator (R125). -/
def xorshift (s : BitVec 32) : BitVec 32 :=
  let s := s ^^^ (s <<< 13)
  let s := s ^^^ (s >>> 17)
  s ^^^ (s <<< 5)

/-- The seed of a lane's generator (R125). -/
def seedOf (seed : Word) (lane : Nat) : BitVec 32 :=
  let x := seed.setWidth 32 ^^^ (seed >>> 32).setWidth 32 ^^^ BitVec.ofNat 32 ((lane + 1) * 0x9E3779B9)
  if x = 0 then 0x6D2B79F5 else x

/-- The 64 generators. -/
abbrev Gens := Vector (BitVec 32) 64

/-- The 64 generators seeded (R125). -/
def seedAll (seed : Word) : Gens := Vector.ofFn fun l => seedOf seed l.val

/-- A draw from the generator of a lane, in stochastic mode only (R125). -/
def draw (st : Bool) (g : Gens) (lane : Nat) : Nat × Gens :=
  if st then
    let l : Fin 64 := ⟨lane % 64, Nat.mod_lt _ (by decide)⟩
    let x := xorshift (g.get l)
    (x.toNat / 2 ^ 16, g.set l.val x l.isLt)
  else (0, g)

/-- Elements computed one after another: unmasked ones by `f` of index and draw, masked ones kept; every one
draws from its lane (R125). -/
def mapEls (st : Bool) (w : Nat) (mask : Nat → Bool) (f : Nat → Nat → Nat × Fl) : Nat → List Nat → Gens → List Nat × Gens × Fl
  | _, [], g => ([], g, 0)
  | j, o :: os, g =>
    let d := draw st g (j * w / 32)
    let p := if mask j then f j d.1 else (o, 0)
    let r := mapEls st w mask f (j + 1) os d.2
    (p.1 :: r.1, r.2.1, p.2 ||| r.2.2)

/-- An element-wise instruction on `n` elements of width `w`: `f` of index and draw; bits above are kept, or
zero where `clear`. -/
def State.vmapN (s : State) (d : BitVec 5) (w n : Nat) (k : BitVec 3) (st clear : Bool) (f : Nat → Nat → Nat × Fl) : State :=
  let old := s.v d
  let r := mapEls st w (fun j => (s.m k).getLsbD j) f 0 (elsOf w n old) s.vec.gens
  let hi := if clear then 0 else old / 2 ^ (w * n)
  (((s.setV d (ofEls w r.1 + 2 ^ (w * n) * hi)).modVec s.cur fun v => { v with gens := r.2.1 }).vflag r.2.2).vnext

/-- An element-wise instruction on a whole register with no draws and no flags. -/
def State.vmap (s : State) (d : BitVec 5) (w : Nat) (k : BitVec 3) (f : Nat → Nat) : State :=
  s.vmapN d w (2048 / w) k false false fun j _ => (f j, 0)

/-- VMOV (R276). -/
def execVmov (d a : BitVec 5) (k : BitVec 3) (w : BitVec 2) (s : State) : Host.Outcome State Fault Refusal :=
  .next (let x := s.vels a (rawW w); s.vmap d (rawW w) k fun j => x.getD j 0)

/-- VMOVS (R276). -/
def execVmovs (d : BitVec 5) (n k : BitVec 3) (p : BitVec 2) (s : State) : Host.Outcome State Fault Refusal :=
  .next (let v := s.vcmd.params.getD n.toNat 0
    match p.toNat with
    | 0 => s.vmap d 32 k fun _ => bits v 0 32
    | 1 => s.vmap d 32 k fun _ => bits v 32 32
    | _ => s.vmap d 64 k fun _ => v.toNat)

/-- VIOTA (R276). -/
def execViota (d : BitVec 5) (k : BitVec 3) (w : BitVec 2) (s : State) : Host.Outcome State Fault Refusal :=
  .next (s.vmap d (rawW w) k fun j => j)

/-- VSEL (R276): not merging. -/
def execVsel (d a b : BitVec 5) (k : BitVec 3) (w : BitVec 2) (s : State) : Host.Outcome State Fault Refusal :=
  .next (let x := s.vels a (rawW w)
    let y := s.vels b (rawW w)
    let m := s.m k
    s.vmap d (rawW w) 0 fun j => if m.getLsbD j then x.getD j 0 else y.getD j 0)

/-! ## Integers (R277, R278) -/

/-- A vector integer instruction of two sources and the old destination (R277). -/
def State.vint (s : State) (d a b : BitVec 5) (k : BitVec 3) (t : BitVec 2) (sat u : Bool) (f : Int → Int → Int → Int) : State :=
  let w := intW t
  let x := s.vels a w
  let y := s.vels b w
  let z := s.vels d w
  let rd := fun (v : Nat) => if u then (v : Int) else sext w v
  s.vmapN d w (2048 / w) k false false fun j _ =>
    let v := f (rd (x.getD j 0)) (rd (y.getD j 0)) (rd (z.getD j 0))
    let r := if sat then clamp (loOf w u) (hiOf w u) v else (v, 0)
    (wrap w r.1, r.2)

/-- A vector instruction on the bits of two sources (R277). -/
def State.vbits (s : State) (d a b : BitVec 5) (k : BitVec 3) (t : BitVec 2) (f : Nat → Nat → Nat → Nat) : State :=
  let w := intW t
  let x := s.vels a w
  let y := s.vels b w
  s.vmap d w k fun j => f w (x.getD j 0) (y.getD j 0)

/-- VADD (R277). -/
def execVadd (d a b : BitVec 5) (k : BitVec 3) (t : BitVec 2) (sat u : Bool) (s : State) : Host.Outcome State Fault Refusal :=
  .next (s.vint d a b k t sat u fun x y _ => x + y)

/-- VSUB (R277). -/
def execVsub (d a b : BitVec 5) (k : BitVec 3) (t : BitVec 2) (sat u : Bool) (s : State) : Host.Outcome State Fault Refusal :=
  .next (s.vint d a b k t sat u fun x y _ => x - y)

/-- VMUL (R277). -/
def execVmul (d a b : BitVec 5) (k : BitVec 3) (t : BitVec 2) (sat u : Bool) (s : State) : Host.Outcome State Fault Refusal :=
  .next (s.vint d a b k t sat u fun x y _ => x * y)

/-- VMAD (R277): the old destination is the addend. -/
def execVmad (d a b : BitVec 5) (k : BitVec 3) (t : BitVec 2) (sat u : Bool) (s : State) : Host.Outcome State Fault Refusal :=
  .next (s.vint d a b k t sat u fun x y z => x * y + z)

/-- VAND (R277). -/
def execVand (d a b : BitVec 5) (k : BitVec 3) (t : BitVec 2) (s : State) : Host.Outcome State Fault Refusal :=
  .next (s.vbits d a b k t fun _ x y => x &&& y)

/-- VOR (R277). -/
def execVor (d a b : BitVec 5) (k : BitVec 3) (t : BitVec 2) (s : State) : Host.Outcome State Fault Refusal :=
  .next (s.vbits d a b k t fun _ x y => x ||| y)

/-- VXOR (R277). -/
def execVxor (d a b : BitVec 5) (k : BitVec 3) (t : BitVec 2) (s : State) : Host.Outcome State Fault Refusal :=
  .next (s.vbits d a b k t fun _ x y => x ^^^ y)

/-- VSHL (R277). -/
def execVshl (d a b : BitVec 5) (k : BitVec 3) (t : BitVec 2) (s : State) : Host.Outcome State Fault Refusal :=
  .next (s.vbits d a b k t fun w x y => x * 2 ^ (y % w) % 2 ^ w)

/-- VSHR (R277): logical with `.u`, else arithmetic. -/
def execVshr (d a b : BitVec 5) (k : BitVec 3) (t : BitVec 2) (u : Bool) (s : State) : Host.Outcome State Fault Refusal :=
  .next (s.vbits d a b k t fun w x y => if u then x / 2 ^ (y % w) else wrap w (sext w x / (2 ^ (y % w) : Nat)))

/-- VMIN (R277). -/
def execVmin (d a b : BitVec 5) (k : BitVec 3) (t : BitVec 2) (u : Bool) (s : State) : Host.Outcome State Fault Refusal :=
  .next (s.vint d a b k t false u fun x y _ => if y < x then y else x)

/-- VMAX (R277). -/
def execVmax (d a b : BitVec 5) (k : BitVec 3) (t : BitVec 2) (u : Bool) (s : State) : Host.Outcome State Fault Refusal :=
  .next (s.vint d a b k t false u fun x y _ => if x < y then y else x)

/-- VABS (R277). -/
def execVabs (d a : BitVec 5) (k : BitVec 3) (t : BitVec 2) (sat : Bool) (s : State) : Host.Outcome State Fault Refusal :=
  .next (s.vint d a a k t sat false fun x _ _ => if x < 0 then -x else x)

/-- The bits of a mask result: an unmasked element's bit by `f`, every other bit zero (R265). -/
def maskOf (n : Nat) (m : BitVec 256) (f : Nat → Bool) : BitVec 256 :=
  BitVec.ofNat 256 (ofEls 1 ((List.range n).map fun j => if m.getLsbD j && f j then 1 else 0))

/-- VCMP (R278). -/
def execVcmp (d : BitVec 3) (a b : BitVec 5) (k : BitVec 3) (t : BitVec 2) (c : BitVec 4) (s : State) : Host.Outcome State Fault Refusal :=
  .next (let w := intW t
    let x := s.vels a w
    let y := s.vels b w
    (s.setM d (maskOf (2048 / w) (s.m k) fun j => condInt c.toNat w (x.getD j 0) (y.getD j 0))).vnext)

/-! ## Floats (R279 to R281) -/

/-- A vector float instruction of two sources and the old destination: `f` of mode, draw and the three. -/
def State.vfloat (s : State) (d a b : BitVec 5) (k : BitVec 3) (t : BitVec 2) (mode : Nat)
    (f : Fmt → Nat → Nat → Nat → Nat → Nat → Nat × Fl) : State :=
  let fm := floatOf t
  let w := fm.width
  let x := s.vels a w
  let y := s.vels b w
  let z := s.vels d w
  s.vmapN d w (2048 / w) k (mode == 4) false fun j r => f fm mode r (x.getD j 0) (y.getD j 0) (z.getD j 0)

/-- VFADD (R279). -/
def execVfadd (d a b : BitVec 5) (k : BitVec 3) (t : BitVec 2) (r : BitVec 4) (s : State) : Host.Outcome State Fault Refusal :=
  .next (s.vfloat d a b k t (s.vmode r) fun f mode r x y _ => f.add mode r x y)

/-- VFSUB (R279). -/
def execVfsub (d a b : BitVec 5) (k : BitVec 3) (t : BitVec 2) (r : BitVec 4) (s : State) : Host.Outcome State Fault Refusal :=
  .next (s.vfloat d a b k t (s.vmode r) fun f mode r x y _ => f.sub mode r x y)

/-- VFMUL (R279). -/
def execVfmul (d a b : BitVec 5) (k : BitVec 3) (t : BitVec 2) (r : BitVec 4) (s : State) : Host.Outcome State Fault Refusal :=
  .next (s.vfloat d a b k t (s.vmode r) fun f mode r x y _ => f.mul mode r x y)

/-- VFMA (R279): the old destination is the addend. -/
def execVfma (d a b : BitVec 5) (k : BitVec 3) (t : BitVec 2) (r : BitVec 4) (s : State) : Host.Outcome State Fault Refusal :=
  .next (s.vfloat d a b k t (s.vmode r) fun f mode r x y z => f.fma mode r x y z)

/-- VFMIN (R279). DESIGN CHOICE (log 95): it rounds nothing and steps no generator, whatever mode CTL_RMODE holds; VFMAX, VFABS and the
.fmax and .fmin of VRED and VSCAN likewise. -/
def execVfmin (d a b : BitVec 5) (k : BitVec 3) (t : BitVec 2) (s : State) : Host.Outcome State Fault Refusal :=
  .next (s.vfloat d a b k t 0 fun f _ _ x y _ => f.minMax false x y)

/-- VFMAX (R279). -/
def execVfmax (d a b : BitVec 5) (k : BitVec 3) (t : BitVec 2) (s : State) : Host.Outcome State Fault Refusal :=
  .next (s.vfloat d a b k t 0 fun f _ _ x y _ => f.minMax true x y)

/-- The magnitude of a float (R279): a NaN is canonical, NV for a signalling one. -/
def Fmt.abs (f : Fmt) (x : Nat) : Nat × Fl :=
  match f.dec x with
  | .nan sg => f.nanOf sg
  | _ => (x % 2 ^ (f.width - 1), 0)

/-- VFABS (R279). -/
def execVfabs (d a : BitVec 5) (k : BitVec 3) (t : BitVec 2) (s : State) : Host.Outcome State Fault Refusal :=
  .next (s.vfloat d a a k t 0 fun f _ _ x _ _ => f.abs x)

/-- VFCMP (R280). -/
def execVfcmp (d : BitVec 3) (a b : BitVec 5) (k : BitVec 3) (t : BitVec 2) (c : BitVec 4) (s : State) : Host.Outcome State Fault Refusal :=
  .next (let f := floatOf t
    let n := 2048 / f.width
    let x := s.vels a f.width
    let y := s.vels b f.width
    let m := s.m k
    let fl := (List.range n).foldl (fun fl j => if m.getLsbD j then fl ||| (f.cmp c.toNat (x.getD j 0) (y.getD j 0)).2 else fl) (0 : Fl)
    ((s.setM d (maskOf n m fun j => (f.cmp c.toNat (x.getD j 0) (y.getD j 0)).1)).vflag fl).vnext)

/-- A special function on FP32 elements (R281). -/
def State.vspecial (s : State) (d a : BitVec 5) (k : BitVec 3) (f : Nat → Nat × Fl) : State :=
  let x := s.vels a 32
  s.vmapN d 32 64 k false false fun j _ => f (x.getD j 0)

/-- VRCP (R281). -/
def execVrcp (d a : BitVec 5) (k : BitVec 3) (s : State) : Host.Outcome State Fault Refusal := .next (s.vspecial d a k vrcp)
/-- VRSQ (R281). -/
def execVrsq (d a : BitVec 5) (k : BitVec 3) (s : State) : Host.Outcome State Fault Refusal := .next (s.vspecial d a k vrsq)
/-- VEXP2 (R281). -/
def execVexp2 (d a : BitVec 5) (k : BitVec 3) (s : State) : Host.Outcome State Fault Refusal := .next (s.vspecial d a k vexp2)
/-- VLOG2 (R281). -/
def execVlog2 (d a : BitVec 5) (k : BitVec 3) (s : State) : Host.Outcome State Fault Refusal := .next (s.vspecial d a k vlog2)
/-- VSIN (R281). -/
def execVsin (d a : BitVec 5) (k : BitVec 3) (s : State) : Host.Outcome State Fault Refusal := .next (s.vspecial d a k vsin)
/-- VCOS (R281). -/
def execVcos (d a : BitVec 5) (k : BitVec 3) (s : State) : Host.Outcome State Fault Refusal := .next (s.vspecial d a k vcos)
/-- VTANH (R281). -/
def execVtanh (d a : BitVec 5) (k : BitVec 3) (s : State) : Host.Outcome State Fault Refusal := .next (s.vspecial d a k vtanh)

/-! ## Conversion and packing (R282 to R285) -/

/-- A conversion code of VCVT (R282): source width, target width, and the conversion of mode, draw, `.nan`. -/
def vcvtOf (c : Nat) : Nat × Nat × (Nat → Nat → Bool → Nat → Nat × Fl) :=
  let ff := fun (a b : Fmt) => (a.width, b.width, fun m r n x => a.toFloat b m r n x)
  let fi := fun (w : Nat) => (32, w, fun m r (_ : Bool) x => let v := fp32.toInt m r w false x; (wrap w v.1, v.2))
  let itf := fun (w : Nat) => (w, 32, fun m r (_ : Bool) x => fp32.ofInt m r false (sext w x))
  let ii := fun (a b : Nat) => (a, b, fun (_ _ : Nat) (_ : Bool) x =>
    let v := clamp (loOf b false) (hiOf b false) (sext a x); (wrap b v.1, v.2))
  match c with
  | 0 => ff fp32 bf16 | 1 => ff fp32 fp16 | 2 => ff fp32 fp8e4 | 3 => ff fp32 fp8e5 | 4 => ff fp32 fp4
  | 5 => ff bf16 fp32 | 6 => ff fp16 fp32 | 7 => ff fp8e4 fp32 | 8 => ff fp8e5 fp32 | 9 => ff fp4 fp32
  | 10 => fi 32 | 11 => fi 16 | 12 => fi 8
  | 13 => itf 32 | 14 => itf 16 | 15 => itf 8
  | 16 => ii 32 16 | 17 => ii 32 8 | 18 => ii 16 32 | _ => ii 8 32

/-- VCVT (R282). -/
def execVcvt (d a c : BitVec 5) (k : BitVec 3) (n : Bool) (r : BitVec 4) (s : State) : Host.Outcome State Fault Refusal :=
  .next (let q := vcvtOf c.toNat
    let e := 2048 / Nat.max q.1 q.2.1
    let x := elsOf q.1 e (s.v a)
    let mode := s.vmode r
    s.vmapN d q.2.1 e k (mode == 4) true fun j r => q.2.2 mode r n (x.getD j 0))

/-- Bits of a piece (R283). -/
def pieceBits (z : BitVec 2) : Nat := 1024 / 2 ^ z.toNat

/-- VPACK (R283). -/
def execVpack (d a : BitVec 5) (z : BitVec 2) (p : BitVec 3) (s : State) : Host.Outcome State Fault Refusal :=
  .next (let n := pieceBits z
    let old := s.v d
    (s.setV d (old % 2 ^ (p.toNat * n) + 2 ^ (p.toNat * n) * (s.v a % 2 ^ n) +
      2 ^ ((p.toNat + 1) * n) * (old / 2 ^ ((p.toNat + 1) * n)))).vnext)

/-- VUNPK (R283). -/
def execVunpk (d a : BitVec 5) (z : BitVec 2) (p : BitVec 3) (s : State) : Host.Outcome State Fault Refusal :=
  .next ((s.setV d (s.v a / 2 ^ (p.toNat * pieceBits z) % 2 ^ pieceBits z)).vnext)

/-- The target of block scaling and quantisation and its emax (R284). -/
def mxOf (t : BitVec 2) : Fmt × Int := match t.toNat with | 0 => (fp8e4, 8) | 1 => (fp8e5, 15) | _ => (fp4, 2)

/-- The scale byte of a block (R284): its unmasked elements. -/
def blockScale (emax : Int) (es : List Nat) : Nat × Fl :=
  let vs := es.map fp32.dec
  if vs.any fun v => v.isNan || v.isInf then (0xFF, NV)
  else
    let lg := vs.foldl (fun (m : Option Int) v => match v with
      | .fin _ a e => some (match m with | some x => if x < log2Of a e then log2Of a e else x | none => log2Of a e)
      | _ => m) none
    match lg with
    | none => (0, 0)
    | some l => (((if l - emax + 127 < 0 then 0 else if 254 < l - emax + 127 then 254 else l - emax + 127).toNat), 0)

/-- VBSCL (R284). -/
def execVbscl (d a b : BitVec 5) (k : BitVec 3) (t : BitVec 2) (s : State) : Host.Outcome State Fault Refusal :=
  .next (let es := s.vels a 32 ++ s.vels b 32
    let m := s.m k
    let one := fun (n : Nat) =>
      blockScale (mxOf t).2 (((es.zipIdx.drop (32 * n)).take 32).filterMap fun e => if m.getLsbD e.2 then some e.1 else none)
    let r := [one 0, one 1, one 2, one 3]
    ((s.setV d (ofEls 8 (r.map Prod.fst))).vflag (r.foldl (fun f e => f ||| e.2) 0)).vnext)

/-- One quantised element (R285): x × 2^(127 − b) converted, exact before the rounding. -/
def quantise (f : Fmt) (mode r b x : Nat) : Nat × Fl :=
  if b = 255 then (f.nanBits, NV)
  else match fp32.dec x with
    | .fin n m e => f.finish mode r .largest n m (e + 127 - b) false
    | _ => fp32.toFloat f mode r false x

/-- VQNT (R285). -/
def execVqnt (d a b : BitVec 5) (k : BitVec 3) (t : BitVec 2) (r : BitVec 4) (s : State) : Host.Outcome State Fault Refusal :=
  .next (let f := (mxOf t).1
    let x := s.vels a 32
    let y := s.vels b 8
    let mode := s.vmode r
    s.vmapN d f.width 64 k (mode == 4) true fun j r => quantise f mode r (y.getD (j / 32) 0) (x.getD j 0))

/-! ## Reductions and cross-lane (R286, R287) -/

/-- The operation of VRED and VSCAN (R286): its width, its identity and its result of a draw and two values. -/
def redOp (o : BitVec 3) (t : BitVec 2) (mode : Nat) : Nat × Nat × (Nat → Nat → Nat → Nat × Fl) :=
  let f := floatOf t
  let w := intW t
  let i := fun (v : Int) => (wrap w v, (0 : Fl))
  match o.toNat with
  | 0 => (f.width, f.sign true, fun r x y => f.add mode r x y)
  | 1 => (f.width, f.infBits true, fun _ x y => f.minMax true x y)
  | 2 => (f.width, f.infBits false, fun _ x y => f.minMax false x y)
  | 3 => (w, 0, fun _ x y => i ((x : Int) + y))
  | 4 => (w, 2 ^ (w - 1), fun _ x y => i (if sext w x < sext w y then sext w y else sext w x))
  | 5 => (w, 2 ^ (w - 1) - 1, fun _ x y => i (if sext w y < sext w x then sext w y else sext w x))
  | 6 => (w, 0, fun _ x y => i (if x < y then y else x))
  | _ => (w, 2 ^ w - 1, fun _ x y => i (if y < x then y else x))

/-- One level of the tree of R123: result position `i` draws from its lane. -/
def redLevel (st : Bool) (w : Nat) (op : Nat → Nat → Nat → Nat × Fl) : Nat → List Nat → Gens → List Nat × Gens × Fl
  | i, a :: b :: es, g =>
    let d := draw st g (i * w / 32)
    let p := op d.1 a b
    let r := redLevel st w op (i + 1) es d.2
    (p.1 :: r.1, r.2.1, p.2 ||| r.2.2)
  | _, es, g => (es, g, 0)

/-- The levels of the tree. -/
def redTree (st : Bool) (w : Nat) (op : Nat → Nat → Nat → Nat × Fl) : Nat → List Nat → Gens → Fl → Nat × Gens × Fl
  | 0, es, g, fl => (es.headD 0, g, fl)
  | n + 1, es, g, fl =>
    if es.length ≤ 1 then (es.headD 0, g, fl)
    else let r := redLevel st w op 0 es g; redTree st w op n r.1 r.2.1 (fl ||| r.2.2)

/-- The elements of a source, masked-off ones replaced by an identity. -/
def State.masked (s : State) (a : BitVec 5) (k : BitVec 3) (w id : Nat) : List Nat :=
  (s.vels a w).zipIdx.map fun e => if (s.m k).getLsbD e.2 then e.1 else id

/-- VRED (R286). -/
def execVred (d a : BitVec 5) (o k : BitVec 3) (t : BitVec 2) (r : BitVec 4) (s : State) : Host.Outcome State Fault Refusal :=
  .next (let mode := s.vmode r
    let q := redOp o t mode
    let x := redTree (o == 0 && mode == 4) q.1 q.2.2 8 (s.masked a k q.1 q.2.1) s.vec.gens 0
    (((s.setV d (x.1 % 2 ^ q.1)).modVec s.cur fun v => { v with gens := x.2.1 }).vflag x.2.2).vnext)

/-- The running values of a scan (R123): element `j` combines the one before it. -/
def scanEls (st : Bool) (w : Nat) (op : Nat → Nat → Nat → Nat × Fl) : Nat → Nat → List Nat → Gens → List Nat × Gens × Fl
  | _, _, [], g => ([], g, 0)
  | j, run, e :: es, g =>
    let d := draw st g (j * w / 32)
    let p := op d.1 run e
    let r := scanEls st w op (j + 1) p.1 es d.2
    (p.1 :: r.1, r.2.1, p.2 ||| r.2.2)

/-- VSCAN (R286): merging. -/
def execVscan (d a : BitVec 5) (o k : BitVec 3) (t : BitVec 2) (r : BitVec 4) (s : State) : Host.Outcome State Fault Refusal :=
  .next (let mode := s.vmode r
    let q := redOp o t mode
    let es := s.masked a k q.1 q.2.1
    let x := scanEls (o == 0 && mode == 4) q.1 q.2.2 1 (es.headD 0) es.tail s.vec.gens
    let run := es.headD 0 :: x.1
    ((s.modVec s.cur fun v => { v with gens := x.2.1 }).vflag x.2.2).vmap d q.1 k fun j => run.getD j 0)

/-- VPERM (R287). -/
def execVperm (d a b : BitVec 5) (k : BitVec 3) (w : BitVec 2) (s : State) : Host.Outcome State Fault Refusal :=
  .next (let x := s.vels a (rawW w)
    let y := s.vels b (rawW w)
    s.vmap d (rawW w) k fun j => x.getD (y.getD j 0 % (2048 / rawW w)) 0)

/-- VBCST (R287). -/
def execVbcst (d a : BitVec 5) (k : BitVec 3) (w : BitVec 2) (s : State) : Host.Outcome State Fault Refusal :=
  .next (let x := (s.vels a (rawW w)).headD 0; s.vmap d (rawW w) k fun _ => x)

/-- VSLD (R287): masking by lane. -/
def execVsld (d a b : BitVec 5) (k : BitVec 3) (n : BitVec 6) (s : State) : Host.Outcome State Fault Refusal :=
  .next (let x := s.vels a 32 ++ s.vels b 32; s.vmap d 32 k fun j => x.getD (j + n.toNat) 0)

/-! ## Complex numbers (R288, R289) -/

/-- VTWID (R288). -/
def execVtwid (d a : BitVec 5) (k : BitVec 3) (n : BitVec 5) (s : State) : Host.Outcome State Fault Refusal :=
  .next (let x := s.vels a 32
    s.vmap d 64 k fun j => let t := twiddle n.toNat (x.getD j 0); t.1 + 2 ^ 32 * t.2)

/-- The format of a complex class (R266). -/
def cplxOf (t : BitVec 2) : Fmt := if t = 0 then fp32 else bf16

/-- A sum or difference of two products, rounded once (R131). -/
def sumProd (f : Fmt) (mode r : Nat) (neg : Bool) (a b c d : Nat) : Nat × Fl :=
  let p := (f.dec a).mul (f.dec b)
  let q := (f.dec c).mul (f.dec d)
  f.sum mode r .ieee p (if neg then q.flip else q) false

/-- A component's draw: C32 components of element `j` draw from lanes 2j and 2j + 1, CBF16 ones from lane j. -/
def cdraw (st : Bool) (f : Fmt) (g : Gens) (j im : Nat) : Nat × Gens :=
  draw st g (if f.width = 32 then 2 * j + im else j)

/-- The product of R131 for one element: its parts, the generators, the flags. -/
def cmul (f : Fmt) (mode : Nat) (j : Nat) (w b : Nat) (g : Gens) : (Nat × Nat) × Gens × Fl :=
  let n := f.width
  let wr := w % 2 ^ n; let wi := w / 2 ^ n
  let br := b % 2 ^ n; let bi := b / 2 ^ n
  let d1 := cdraw (mode == 4) f g j 0
  let d2 := cdraw (mode == 4) f d1.2 j 1
  let re := sumProd f mode d1.1 true wr br wi bi
  let im := sumProd f mode d2.1 false wr bi wi br
  ((re.1, im.1), d2.2, re.2 ||| im.2)

/-- Complex elements one after another: masked-off ones draw as unmasked ones do and are kept. -/
def mapCplx (mask : Nat → Bool) (f : Nat → Gens → List Nat × Gens × Fl) : Nat → List (List Nat) → Gens → List (List Nat) × Gens × Fl
  | _, [], g => ([], g, 0)
  | j, o :: os, g =>
    let p := f j g
    let r := mapCplx mask f (j + 1) os p.2.1
    ((if mask j then p.1 else o) :: r.1, r.2.1, (if mask j then p.2.2 else 0) ||| r.2.2)

/-- VCMUL (R289). -/
def execVcmul (d a b : BitVec 5) (k : BitVec 3) (t : BitVec 2) (r : BitVec 4) (s : State) : Host.Outcome State Fault Refusal :=
  .next (let f := cplxOf t
    let w := 2 * f.width
    let x := s.vels a w
    let y := s.vels b w
    let mode := s.vmode r
    let q := mapCplx (fun j => (s.m k).getLsbD j)
      (fun j g => let c := cmul f mode j (x.getD j 0) (y.getD j 0) g; ([c.1.1 % 2 ^ f.width + 2 ^ f.width * c.1.2], c.2.1, c.2.2))
      0 ((s.vels d w).map fun o => [o]) s.vec.gens
    (((s.setV d (ofEls w (q.1.map fun l => l.headD 0))).modVec s.cur fun v => { v with gens := q.2.1 }).vflag q.2.2).vnext)

/-- The butterfly of R131 for one element: u = a + t and v = a − t with t = w × b. -/
def butterfly (f : Fmt) (mode j w a b : Nat) (g : Gens) : List Nat × Gens × Fl :=
  let n := f.width
  let t := cmul f mode j w b g
  let ar := a % 2 ^ n; let ai := a / 2 ^ n
  let st := mode == 4
  let d1 := cdraw st f t.2.1 j 0
  let d2 := cdraw st f d1.2 j 1
  let d3 := cdraw st f d2.2 j 0
  let d4 := cdraw st f d3.2 j 1
  let ur := f.add mode d1.1 ar t.1.1
  let ui := f.add mode d2.1 ai t.1.2
  let vr := f.sub mode d3.1 ar t.1.1
  let vi := f.sub mode d4.1 ai t.1.2
  ([ur.1 % 2 ^ n + 2 ^ n * ui.1, vr.1 % 2 ^ n + 2 ^ n * vi.1], d4.2, t.2.2 ||| ur.2 ||| ui.2 ||| vr.2 ||| vi.2)

/-- VBFLY (R289): the register pair is named by its even number. -/
def execVbfly (d : BitVec 4) (a b : BitVec 5) (k : BitVec 3) (t : BitVec 2) (r : BitVec 4) (s : State) : Host.Outcome State Fault Refusal :=
  .next (let f := cplxOf t
    let n := 2 * f.width
    let d0 : BitVec 5 := d ++ 0#1
    let d1 : BitVec 5 := d ++ 1#1
    let w := s.vels d0 n
    let x := s.vels a n
    let y := s.vels b n
    let mode := s.vmode r
    let q := mapCplx (fun j => (s.m k).getLsbD j)
      (fun j g => butterfly f mode j (w.getD j 0) (x.getD j 0) (y.getD j 0) g)
      0 ((w.zip (s.vels d1 n)).map fun o => [o.1, o.2]) s.vec.gens
    ((((s.setV d0 (ofEls n (q.1.map fun l => l.getD 0 0))).setV d1 (ofEls n (q.1.map fun l => l.getD 1 0))).modVec s.cur
      fun v => { v with gens := q.2.1 }).vflag q.2.2).vnext)

/-! ## Masks (R290) -/

/-- VMSET from a vector (R290). -/
def execVmset (d : BitVec 3) (a : BitVec 5) (w : BitVec 2) (s : State) : Host.Outcome State Fault Refusal :=
  .next (let x := s.vels a (rawW w)
    (s.setM d (maskOf (2048 / rawW w) (BitVec.allOnes 256) fun j => x.getD j 0 != 0)).vnext)

/-- VMSET clear (R290). -/
def execVmsetZero (d : BitVec 3) (s : State) : Host.Outcome State Fault Refusal := .next ((s.setM d 0).vnext)

/-- VMSET fill (R290). -/
def execVmsetOnes (d : BitVec 3) (s : State) : Host.Outcome State Fault Refusal := .next ((s.setM d (BitVec.allOnes 256)).vnext)

/-- VMLOG (R290). -/
def execVmlog (d a b : BitVec 3) (l : BitVec 4) (s : State) : Host.Outcome State Fault Refusal :=
  .next (let x := s.m a
    let y := s.m b
    (s.setM d (maskOf 256 (BitVec.allOnes 256) fun i => l.getLsbD (2 * (x.getLsbD i).toNat + (y.getLsbD i).toNat))).vnext)

end Sys2Proof.Machine
end

