-- ==== Sys2Proof/Machine/Matrix.lean ====
section
/-! DEFINITION. The matrix engine (R51, R110 to R121, R244 to R252). Commands are taken in order
and carried out one after another, each as if it ran alone (R236); a command completes later. -/

namespace Sys2Proof.Machine

/-! ## Records and tiles -/

/-- Bits of a record word outside its fields are zero (R146): fields as lowest bit and width. -/
def only (w : Word) (fields : List (Nat × Nat)) : Bool :=
  w.toNat == fields.foldl (fun a f => a + bits w f.1 f.2 * 2 ^ f.1) 0

/-- What an engine check answers. -/
abbrev Chk := Except (FaultCode × Word)

/-- A requirement of an engine command: a fault with a detail where it fails. -/
def need (b : Bool) (code : FaultCode) (d : Word) : Chk Unit := if b then .ok () else .error (code, d)

/-- The tile that a record's handle named at issue (R201); a command that needs one and names none raises
HANDLE_STALE. -/
def Cell.operand (c : Cell) (h : Word) : Chk Tile :=
  if h = 0 then .error (.handleStale, 0) else .ok (c.named (indexOf h) (genOf h))

/-- An optional tile: none for handle 0. -/
def Cell.operand? (c : Cell) (h : Word) : Option Tile := if h = 0 then none else some (c.named (indexOf h) (genOf h))

/-- Element (i, j) as an engine reads it (R238). -/
def Tile.at2 (t : Tile) (i j : Nat) : Nat := t.readEl (i * t.cols + j)

/-- An uncorrectable element in the first rows and columns of a tile. -/
def Tile.badBox (t : Tile) (rows cols : Nat) : Bool :=
  t.bad.any fun e => decide (e / t.cols < rows) && decide (e % t.cols < cols)

/-- The first of the tiles that a command reads, each in its first rows and columns, with an uncorrectable element there. -/
def Cell.badRead (c : Cell) (reads : List (Word × Nat × Nat)) : Option Word :=
  (reads.find? fun q => q.1 != 0 && (c.named (indexOf q.1) (genOf q.1)).badBox q.2.1 q.2.2).map (·.1)

/-- A command that reads a box of a tile is POISONED by its mark or by an element (R238). -/
def Tile.taints (t : Tile) (rows cols : Nat) : Bool := t.poison || t.badBox rows cols

/-- Float formats of the array (R113). -/
def arrayFloat (f : Nat) : Bool := [1, 2, 3, 4, 5].contains f
/-- Integer formats of the array (R113). -/
def arrayInt (f : Nat) : Bool := f == 6 || f == 7

/-! ## MWLD (R116 to R120, R246) -/

/-- The scale mode fits the operand's format (R116). -/
def scaleOk (fmt mode : Nat) : Bool :=
  if fmt = 8 then mode == 1
  else if arrayInt fmt then mode == 0
  else mode != 1 || [3, 4, 5].contains fmt

/-- The scale tile of a weight load has the shape of its mode (R246). -/
def wScaleOk (t : Tile) (mode k n : Nat) : Bool :=
  match mode with
  | 1 => t.fmt == 14 && decide (ceilDiv k 32 ≤ t.rows) && decide (n ≤ t.cols)
  | 2 => t.fmt == 0 && decide (n ≤ t.cols)
  | _ => t.fmt == 0

/-- A table made of a box of a tile, by row × 64 + column. -/
def boxTable (t : Tile) (rows cols : Nat) : Tbl Word :=
  (List.range rows).flatMap fun i => (List.range cols).map fun j => (i * 64 + j, word (t.at2 i j))

/-- The bank that an MWLD latches (R246), or its fault. -/
def mwldBank (c : Cell) (w : List Word) : Chk Bank :=
  let g := fun i => w.getD i 0
  let k := bits (g 3) 0 6 + 1
  let n := bits (g 3) 8 6 + 1
  let sm := bits (g 3) 18 2
  do
    need (only (g 3) [(0, 6), (8, 6), (16, 1), (18, 2)]) .shape 0
    let t ← c.operand (g 0)
    need (arrayFloat t.fmt || arrayInt t.fmt || t.fmt == 8) .shape (word t.fmt)
    let cb := c.operand? (g 2)
    if t.fmt = 8 then
      need (k % 8 == 0 && decide (k / 8 ≤ t.rows) && decide (n ≤ t.cols)) .shape 0
      need (match cb with | some b => b.fmt == 10 && b.rows == 2 && b.cols == 256 | none => false) .shape 0
    else
      need (decide (k ≤ t.rows) && decide (n ≤ t.cols) && g 2 == 0) .shape 0
    need (scaleOk t.fmt sm) .shape 0
    need ((g 1 == 0) == (sm == 0)) .shape 0
    let sc := c.operand? (g 1)
    need (match sc with | some q => wScaleOk q sm k n | none => true) .shape 0
    let rows := if t.fmt = 8 then k / 8 else k
    let srows := if sm = 1 then ceilDiv k 32 else 1
    let scols := if sm = 3 then 1 else n
    pure { valid := true, fmt := t.fmt, k := k, n := n, mode := sm, w := boxTable t rows n, scaleFmt := (sc.map (·.fmt)).getD 0,
           scales := match sc with | some q => boxTable q srows scols | none => [],
           codebook := match cb with | some b => (List.range 512).map fun e => (e, word (b.readEl e)) | none => [],
           poison := t.taints rows n || (match sc with | some q => q.taints srows scols | none => false) ||
             (match cb with | some b => b.taints 2 256 | none => false) }

/-! ## Operands of the array (R114 to R120) -/

/-- A scale: E8M0 (R106) or FP32. -/
def scaleVal (fmt b : Nat) : FV :=
  if fmt = 14 then (if b = 255 then .nan false else .fin false 1 ((b : Int) - 127)) else fp32.dec b

/-- Element (k, n) of a CB2 bank without its scale (R119, R120). -/
def Bank.cb2 (b : Bank) (k n : Nat) : FV :=
  let code := (b.w.getD (k / 8 * 64 + n) 0).toNat
  let e := k % 8
  let entry := (b.codebook.getD (code / 128 % 512) 0).toNat
  let c := entry / 2 ^ (4 * e) % 16
  let s := fun (i : Nat) => decide (code / 2 ^ i % 2 = 1)
  let neg := if e = 7 then (List.range 7).foldl (fun a i => a != s i) false else s e
  if c = 0 then .zero false else .fin neg c (-1)

/-- Weight (k, n) of a float bank. -/
def Bank.wf (b : Bank) (k n : Nat) : FV :=
  if b.fmt = 8 then b.cb2 k n
  else match fmtOf b.fmt with
    | some f => f.dec (b.w.getD (k * 64 + n) 0).toNat
    | none => .zero false

/-- The weight scale (R246): none for mode 00. -/
def Bank.sw (b : Bank) (k n : Nat) : Option FV :=
  match b.mode with
  | 0 => none
  | 1 => some (scaleVal b.scaleFmt (b.scales.getD (k / 32 * 64 + n) 0).toNat)
  | 2 => some (scaleVal b.scaleFmt (b.scales.getD n 0).toNat)
  | _ => some (scaleVal b.scaleFmt (b.scales.getD 0 0).toNat)

/-- A product times an optional scale. -/
def FV.scaled (p : FV) : Option FV → FV
  | none => p
  | some s => p.mul s

/-- Flags of a product (R114): NV for an operation that makes a NaN of numbers, and for a signalling operand. -/
def FV.prodFlags (p : FV) : Fl := flagIf p.isSnan NV

/-- One float accumulation (R121) over products in rising k: accumulator bits and flags. -/
def sumFloat : Nat → Fl → List FV → Nat × Fl
  | a, fl, [] => (a, fl)
  | a, fl, p :: ps =>
    let r := addA48 (a48.dec a) p
    sumFloat r.1 (fl ||| r.2 ||| p.prodFlags) ps

/-- One integer accumulation (R112, R121). -/
def sumInt : Int → Fl → List Int → Int × Fl
  | a, fl, [] => (a, fl)
  | a, fl, p :: ps =>
    let r := sat48 (a + p)
    sumInt r.1 (fl ||| r.2) ps

/-! ## MRUN (R113, R248 to R250) -/

/-- The class of a pair of weight and activation formats (R113): true float; none where it is not allowed. -/
def pairClass (fw fa : Nat) : Option Bool :=
  let wide := fun f => f == 1 || f == 2
  if (arrayFloat fw || fw == 8) && arrayFloat fa then (if wide fw == wide fa then some true else none)
  else if arrayInt fw && arrayInt fa then some false
  else none

/-- Where element (m, k) of the activations lies in unfold mode (R249): element index, or none for padding;
the outer none where the parameters break a requirement. -/
def unfoldMap (w2 : Word) (t : Tile) (mm kk : Nat) : Option (Nat → Nat → Option Nat) :=
  let kh := bits w2 0 4 + 1
  let kw := bits w2 4 4 + 1
  let st := bits w2 8 4 + 1
  let dl := bits w2 12 4 + 1
  let pad := bits w2 16 4
  let ch := bits w2 20 12 + 1
  let ws := t.cols / ch
  let wo := ((ws : Int) + 2 * pad - dl * (kw - 1) - 1) / st + 1
  let ho := ((t.rows : Int) + 2 * pad - dl * (kh - 1) - 1) / st + 1
  if t.cols % ch ≠ 0 || kk ≠ kh * kw * ch || decide (ho < 1) || decide (wo < 1) || decide (ho * wo < mm) then none
  else some fun m k =>
    let y := ((m / wo.toNat * st + k / (ch * kw) * dl : Nat) : Int) - pad
    let x := ((m % wo.toNat * st + k / ch % kw * dl : Nat) : Int) - pad
    if 0 ≤ y && y < t.rows && 0 ≤ x && x < ws then some (y.toNat * t.cols + x.toNat * ch + k % ch) else none

/-- The activation scale tile has the shape of its mode (R248). -/
def aScaleOk (t : Tile) (mode m k : Nat) : Bool :=
  match mode with
  | 1 => t.fmt == 14 && decide (m ≤ t.rows) && decide (ceilDiv k 32 ≤ t.cols)
  | 2 => t.fmt == 0 && decide (m ≤ t.rows)
  | _ => t.fmt == 0

/-- The activation scale of element (m, k). -/
def aScale (t : Option Tile) (mode m k : Nat) : Option FV :=
  match t with
  | none => none
  | some q => match mode with
    | 1 => some (scaleVal q.fmt (q.at2 m (k / 32)))
    | 2 => some (scaleVal q.fmt (q.at2 m 0))
    | _ => some (scaleVal q.fmt (q.at2 0 0))

/-- The bank a record's bit names. -/
def Matrix.bank (m : Matrix) (b : Bool) : Bank := if b then m.wb1 else m.wb0

/-- An open product of a context (R250). -/
def Matrix.product (m : Matrix) (ctx pid : Nat) : Option Product := m.products.find? fun p => p.ctx == ctx && p.pid == pid

/-- The first row of an MRUN, and the products after it (R248, R250). -/
def Matrix.join (x : Matrix) (ctx pid bank row0 m : Nat) (jn float : Bool) : Chk (Nat × List Product) :=
  if pid = 0 then
    (if jn then .error (.shape, 0)
     else if 256 < row0 + m then .error (.shape, word row0) else .ok (row0, x.products))
  else match x.product ctx pid with
    | some p =>
      if !jn || p.bank ≠ bank || p.float != float then .error (.shape, word pid)
      else if 256 < p.first + p.rows + m then .error (.shape, word (p.first + p.rows))
      else .ok (p.first + p.rows, x.products.map fun q => if q.ctx == ctx && q.pid == pid then { q with rows := q.rows + m } else q)
    | none =>
      if Config.products ≤ x.products.length then .error (.shape, word pid)
      else if 256 < row0 + m then .error (.shape, word row0)
      else .ok (row0, x.products ++ [{ ctx := ctx, pid := pid, bank := bank, float := float, first := row0, rows := m }])

/-- The operands of an MRUN once every check has passed: rows, columns, class, first row, products, element
values by (m, k), scales, and whether it is POISONED. -/
structure Mrun where
  m : Nat
  k : Nat
  float : Bool
  first : Nat
  products : List Product
  bank : Bank
  fmt : Nat
  el : Nat → Nat → Nat
  scale : Nat → Nat → Option FV
  poisoned : Bool
  /-- the first of its tiles with an uncorrectable element among those it reads -/
  bad : Option Word

/-- The part of an activation scale tile that a mode reads: rows and columns. -/
def aScaleBox (mode m k : Nat) : Nat × Nat := match mode with | 1 => (m, ceilDiv k 32) | 2 => (m, 1) | _ => (1, 1)

/-- An uncorrectable element of an image among those that unfolding reads (R249). -/
def Tile.badUnfold (t : Tile) (f : Nat → Nat → Option Nat) (mm k : Nat) : Bool :=
  !t.bad.isEmpty && (List.range mm).any fun m => (List.range k).any fun j => (f m j).any t.bad.contains

/-- The checks of MRUN in their order (R248, R249). -/
def mrunChecks (c : Cell) (ctx : Nat) (w : List Word) : Chk Mrun :=
  let g := fun i => w.getD i 0
  let b := bit (g 1) 24
  let mm := bits (g 1) 0 8 + 1
  let k := bits (g 1) 16 6 + 1
  let fa := bits (g 1) 44 4
  let sa := bits (g 1) 48 2
  let bk := c.matrix.bank b
  do
    need (only (g 1) [(0, 8), (8, 8), (16, 6), (24, 1), (32, 8), (40, 1), (44, 4), (48, 2), (50, 1)] &&
      only (g 2) [(0, 32)]) .shape 0
    need (bk.valid && k == bk.k) .shape (word k)
    let float ← match pairClass bk.fmt fa with
      | some q => Except.ok q
      | none => Except.error (FaultCode.shape, (0 : Word))
    need (scaleOk fa sa) .shape 0
    let t ← c.operand (g 0)
    need (t.fmt == fa) .shape 0
    let el : Nat → Nat → Nat ←
      if bit (g 1) 50 then
        match unfoldMap (g 2) t mm k with
        | some f => Except.ok fun m j => match f m j with | some e => t.readEl e | none => 0
        | none => Except.error (FaultCode.shape, (0 : Word))
      else if mm ≤ t.rows && k ≤ t.cols then Except.ok fun m j => t.at2 m j
      else Except.error (FaultCode.shape, (0 : Word))
    need ((g 3 == 0) == (sa == 0)) .shape 0
    let sc := c.operand? (g 3)
    need (match sc with | some q => aScaleOk q sa mm k | none => true) .shape 0
    let p ← c.matrix.join ctx (bits (g 1) 32 8) b.toNat (bits (g 1) 8 8) mm (bit (g 1) 40) float
    let bad := if bit (g 1) 50 then (match unfoldMap (g 2) t mm k with | some f => t.badUnfold f mm k | none => false) else t.badBox mm k
    let sb := aScaleBox sa mm k
    let sbad := match sc with | some q => q.badBox sb.1 sb.2 | none => false
    pure { m := mm, k := k, float := float, first := p.1, products := p.2, bank := bk, fmt := fa, el := el,
           scale := fun m j => aScale sc sa m j,
           bad := if bad then some (g 0) else if sbad then some (g 3) else none,
           poisoned := bk.poison || t.poison || bad || (match sc with | some q => q.poison | none => false) || sbad ||
             c.matrix.marks.any fun r => decide (p.1 ≤ r) && decide (r < p.1 + mm) }

/-- Accumulator word (row, column). -/
def Matrix.word48 (x : Matrix) (r n : Nat) : BitVec 48 := x.acc.getD (r * 64 + n) 0

/-- Row m of an MRUN added into column n (R121). -/
def Mrun.cell (q : Mrun) (a : BitVec 48) (m n : Nat) : BitVec 48 × Fl :=
  if q.float then
    let fa := (fmtOf q.fmt).getD fp32
    let ps := (List.range q.k).map fun k =>
      ((((fa.dec (q.el m k)).mul (q.bank.wf k n)).scaled (q.scale m k)).scaled (q.bank.sw k n))
    let r := sumFloat a.toNat 0 ps
    (BitVec.ofNat 48 r.1, r.2)
  else
    let ps := (List.range q.k).map fun k =>
      sext (eb q.fmt) (q.el m k) * sext (eb q.bank.fmt) (q.bank.w.getD (k * 64 + n) 0).toNat
    let r := sumInt (sext 48 a.toNat) 0 ps
    (BitVec.ofNat 48 (wrap 48 r.1), r.2)

/-- The accumulator after an MRUN, and its flags. -/
def Mrun.run (q : Mrun) (x : Matrix) : Tbl (BitVec 48) × Fl :=
  (List.range q.m).foldl (fun a m =>
    (List.range q.bank.n).foldl (fun a n =>
      let i := (q.first + m) * 64 + n
      let r := q.cell (a.1.getD i 0) m n
      (a.1.set 0 i r.1, a.2 ||| r.2)) a) (x.acc, 0)

/-- Poison marks of accumulator rows after they are written (R238). -/
def markRows (marks : List Nat) (first n : Nat) (poisoned : Bool) : List Nat :=
  let rest := marks.filter fun r => decide (r < first) || decide (first + n ≤ r)
  if poisoned then rest ++ (List.range n).map (first + ·) else rest

/-! ## MACC (R247) -/

/-- An element of a preload tile as an accumulator word (R247): none for a format that has no reading. -/
def preload (fmt e : Nat) : Option (BitVec 48 × Fl) :=
  if fmt = 9 then some (BitVec.ofNat 48 e, 0)
  else if fmt ≤ 2 then
    match fmtOf fmt with
    | some f => let r := f.toFloat a48 0 0 false e; some (BitVec.ofNat 48 r.1, r.2)
    | none => none
  else if fmt = 6 || fmt = 10 || fmt = 11 then some (BitVec.ofNat 48 (wrap 48 (sext (eb fmt) e)), 0)
  else none

/-- MACC's effect on the accumulator (R247): words, flags, poison; or its fault. -/
def maccRows (c : Cell) (w : List Word) : Chk (Tbl (BitVec 48) × Fl × Bool) :=
  let g := fun i => w.getD i 0
  let r0 := bits (g 0) 0 8
  let rows := bits (g 0) 8 8 + 1
  let cols := bits (g 0) 16 6 + 1
  do
    need (only (g 0) [(0, 8), (8, 8), (16, 6)] && only (g 1) [(0, 1)]) .shape 0
    need (decide (r0 + rows ≤ 256)) .shape 0
    let put := fun (f : Nat → Nat → BitVec 48 × Fl) =>
      (List.range rows).foldl (fun a i => (List.range cols).foldl (fun a n =>
        let e := f i n
        (Tbl.set 0 a.1 ((r0 + i) * 64 + n) e.1, a.2 ||| e.2)) a) (c.matrix.acc, (0 : Fl))
    if !bit (g 1) 0 then
      need (g 2 == 0) .shape 0
      let p := put fun _ _ => (0, 0)
      pure (p.1, p.2, false)
    else
      let t ← c.operand (g 2)
      need (decide (rows ≤ t.rows) && decide (cols ≤ t.cols) && (preload t.fmt 0).isSome) .shape 0
      let p := put fun i n => (preload t.fmt (t.at2 i n)).getD (0, 0)
      pure (p.1, p.2, t.taints rows cols)

/-! ## Draining (R251, R127) -/

/-- Formats that float words and integer words are drained to. -/
def drainFmt (float : Bool) (f : Nat) : Bool := if float then [0, 1, 2, 3, 4, 5, 9].contains f else [6, 7, 10, 11].contains f

/-- One accumulator word converted (R127, R251): mode, draw, `.nan`. -/
def drainEl (float : Bool) (fmt mode r : Nat) (nan : Bool) (a : BitVec 48) : Nat × Fl :=
  if float then
    (if fmt = 9 then (a.toNat, 0)
     else match fmtOf fmt with
       | some f => a48.toFloat f mode r nan a.toNat
       | none => (0, 0))
  else
    let v := clamp (loOf (eb fmt) false) (hiOf (eb fmt) false) (sext 48 a.toNat)
    (wrap (eb fmt) v.1, v.2)

/-- One row of words converted: each column draws once in stochastic mode (R125). -/
def drainRow (float : Bool) (fmt mode : Nat) (nan : Bool) : Nat → List (BitVec 48) → Gens → List Word × Gens × Fl
  | _, [], g => ([], g, 0)
  | n, a :: as, g =>
    let d := draw (mode == 4) g n
    let e := drainEl float fmt mode d.1 nan a
    let r := drainRow float fmt mode nan (n + 1) as d.2
    (word e.1 :: r.1, r.2.1, e.2 ||| r.2.2)

/-- Rows of words converted one after another. -/
def drainRows (float : Bool) (fmt mode : Nat) (nan : Bool) : List (List (BitVec 48)) → Gens → List (List Word) × Fl
  | [], _ => ([], 0)
  | a :: as, g =>
    let r := drainRow float fmt mode nan 0 a g
    let q := drainRows float fmt mode nan as r.2.1
    (r.1 :: q.1, r.2.2 ||| q.2)

/-- The destination words of MDRAIN and RSET (R146, R251): kind, format, rounding, `.nan`; class by format. -/
def destChecks (place : Nat) (w1 w2 : Word) (float : Option Bool) : Chk Bool := do
  need (only w1 [(0, 1), (4, 4), (8, 3), (11, 1)] && only w2 [(0, 32), (40, 3), (53, 11)]) .shape 0
  let f := bits w1 4 4
  let cls := float.getD (drainFmt true f)
  need (drainFmt cls f && decide (bits w1 8 3 ≤ 4) && (cls || !bit w1 11)) .shape 0
  need (!bit w1 0 || decide (vcellOf w2 < place)) .badCont 0
  pure cls

/-- Accumulator rows that an MDRAIN reads (R251): first, count, class; or its fault. -/
def drainSpan (c : Cell) (ctx : Nat) (w : List Word) : Chk (Nat × Nat × Option Bool) :=
  let g := w.getD 0 0
  if bits g 32 8 = 0 then
    (if 256 < bits g 0 8 + bits g 8 8 + 1 then .error (.shape, 0) else .ok (bits g 0 8, bits g 8 8 + 1, none))
  else match c.matrix.product ctx (bits g 32 8) with
    | some p => .ok (p.first, p.rows, some p.float)
    | none => .error (.shape, 0)

/-- A tile that a command makes on a cell, hidden until the command completes (R237). -/
def State.makeTile (s : State) (d : Nat) (r : Run) (fmt rows cols : Nat) : Chk (State × Run) :=
  let t : Tile := { ctx := r.cmd.who.ctx, fmt := fmt, rows := rows, cols := cols, count := 1, hidden := true,
                    region := regionOf r.cmd.who.tag }
  match (s.cell d).heap.alloc t with
  | .error n => .error (.heapExhausted, word n)
  | .ok (i, h) =>
    let s := s.modCell d fun c => { c with heap := h }
    .ok (s, { r with made := some (d, i, ((s.cell d).tile i).gen) })

/-- Elements written into the tile that a command makes. -/
def State.fillMade (s : State) (r : Run) (els : List Word) : State :=
  match r.made with
  | none => s
  | some (d, i, _) => s.modTile d i fun t => t.setEls 0 els

/-! ## Commands taken (R51, R234, R244 to R252) -/

/-- A command of the matrix engine carried out: its state and run, or its fault. It reads its operands here (R206). -/
def State.matrixDo (s : State) (c : Nat) (m : Cmd) : Chk (State × Run) :=
  let r : Run := { cmd := m, ready := true, worked := true }
  let x := (s.cell c).readBy m.uid
  match m.op with
  | .mwld => do
    let b ← mwldBank x m.recw
    let w := fun i => m.recw.getD i 0
    let s := s.modCell c fun d => { d with
      matrix := if bit (m.recw.getD 3 0) 16 then { d.matrix with wb1 := b } else { d.matrix with wb0 := b } }
    let rows := if b.fmt = 8 then b.k / 8 else b.k
    pure (s.logBad { r with count := b.k * b.n, poisoned := b.poison }
      (x.badRead [(w 0, rows, b.n), (w 1, if b.mode = 1 then ceilDiv b.k 32 else 1, if b.mode = 3 then 1 else b.n), (w 2, 2, 256)]))
  | .macc => do
    let p ← maccRows x m.recw
    let r0 := bits (m.recw.getD 0 0) 0 8
    let n := bits (m.recw.getD 0 0) 8 8 + 1
    let s := s.modCell c fun d => { d with
      matrix := { d.matrix with acc := p.1, marks := markRows d.matrix.marks r0 n p.2.2 } }
    let h := if bit (m.recw.getD 1 0) 0 then m.recw.getD 2 0 else 0
    pure (s.logBad { r with count := n, flags := p.2.1, poisoned := p.2.2, span := (r0, n) }
      (x.badRead [(h, n, bits (m.recw.getD 0 0) 16 6 + 1)]))
  | .mrun => do
    let q ← mrunChecks x m.who.ctx m.recw
    let a := q.run x.matrix
    let s := s.modCell c fun d => { d with
      matrix := { d.matrix with
        acc := a.1
        products := q.products
        marks := if q.poisoned then markRows d.matrix.marks q.first q.m true else d.matrix.marks } }
    pure (s.logBad { r with count := q.m, flags := a.2, poisoned := q.poisoned, span := (q.first, q.m) } q.bad)
  | _ => do
    let g := fun i => m.recw.getD i 0
    need (only (g 0) [(0, 8), (8, 8), (16, 6), (32, 8)]) .shape 0
    let p ← drainSpan x m.who.ctx m.recw
    let place := (s.cx c m.who.ctx).place
    let float ← destChecks place.length (g 1) (g 2) p.2.2
    let cols := bits (g 0) 16 6 + 1
    let fmt := bits (g 1) 4 4
    let rows := (List.range p.2.1).map fun i => (List.range cols).map fun n => x.matrix.word48 (p.1 + i) n
    let e := drainRows float fmt (bits (g 1) 8 3) (bit (g 1) 11) rows (seedAll m.seed)
    let marked := fun i => x.matrix.marks.contains (p.1 + i)
    let r := { r with count := p.2.1, flags := e.2, poisoned := (List.range p.2.1).any marked }
    let close := fun (s : State) => s.modCell c fun d => { d with
      matrix := { d.matrix with products := d.matrix.products.filter fun q =>
        !(q.ctx == m.who.ctx && q.pid == bits (g 0) 32 8) } }
    if bit (g 1) 0 then
      let rows := e.1.zipIdx.map fun q => (fmt, marked q.2, BitVec.ofNat 32 (bits (g 2) 0 32 + q.2), q.1)
      pure (close s, { r with rows := rows })
    else
      let q ← s.makeTile c r fmt p.2.1 cols
      pure (close (q.1.fillMade q.2 e.1.flatten), q.2)

/-- The commands of a matrix engine in execution set. -/
def State.setRuns (s : State) (c : Nat) (rs : List Run) : State :=
  s.modCell c fun d => { d with matrix := { d.matrix with runs := rs } }

/-- A command taken joins the ones in execution, to be carried out. -/
def State.matrixExec (s : State) (c : Nat) (m : Cmd) : State := s.setRuns c ((s.cell c).matrix.runs ++ [{ cmd := m }])

/-- A command has been taken that has not been carried out: the engine has one such at a time (log 38). -/
def Matrix.unworked (x : Matrix) : Option Run := x.runs.find? fun r => !r.worked && !r.ready

/-- The matrix engine carries out the command that it has taken; a fault follows R234. -/
def State.matrixWork (s : State) (c : Nat) : State :=
  match if s.runs c then (s.cell c).matrix.unworked else none with
  | none => s
  | some r =>
    let rest := fun (s : State) (q : Option Run) =>
      s.setRuns c ((s.cell c).matrix.runs.filterMap fun p => if p.cmd.uid = r.cmd.uid then q else some p)
    match s.matrixDo c r.cmd with
    | .ok (s, q) => rest s (some q)
    | .error e =>
      let f := s.failRun r e.1 e.2 0
      rest f.1 f.2

/-- A stream drain of a command has rows that their port has not accepted (R252). -/
def State.draining (s : State) (r : Run) : Bool :=
  !r.rows.isEmpty || s.net.any fun p => match p.body with | .stream _ _ u => u == r.cmd.uid | _ => false

/-- An MWLD whose bank is read by rows of an earlier MRUN (R245). -/
def Matrix.bankBusy (x : Matrix) (m : Cmd) : Bool :=
  x.runs.any fun r => r.cmd.op == .mrun && r.failed.isNone && bit (r.cmd.recw.getD 1 0) 24 == bit (m.recw.getD 3 0) 16

/-- The accumulator rows that a MACC or MDRAIN names. -/
def Cell.spanOf (c : Cell) (m : Cmd) : Nat × Nat :=
  let g := m.recw.getD 0 0
  if m.op = .mdrain then (match drainSpan c m.who.ctx m.recw with | .ok p => (p.1, p.2.1) | .error _ => (0, 0))
  else (bits g 0 8, bits g 8 8 + 1)

/-- A MACC or MDRAIN whose rows an earlier MRUN or MACC still writes (R245). -/
def Cell.rowsBusy (c : Cell) (m : Cmd) : Bool :=
  let p := c.spanOf m
  c.matrix.runs.any fun r => overlap p.1 p.2 r.span.1 r.span.2

/-- The next command by the rule of R51, with the queues and the count after it. -/
def Matrix.next (x : Matrix) : Option (Cmd × Matrix) :=
  match x.mq0, x.mq1 with
  | m :: q, [] => some (m, { x with mq0 := q, streak := x.streak + 1 })
  | [], m :: q => some (m, { x with mq1 := q, streak := 0 })
  | m :: q, n :: p =>
    if x.streak < 15 then some (m, { x with mq0 := q, streak := x.streak + 1 })
    else some (n, { x with mq1 := p, streak := 0 })
  | [], [] => none

/-- MATRIX_TAKE (R51, R234, R245): the command is taken, to be carried out next, or is held by a hazard. -/
def execMatrixTake (cell : Nat) (s : State) : Host.Outcome State Fault Refusal :=
  .next (let x := (s.cell cell).matrix
    if !s.runs cell || x.heldLoad.isSome || x.heldRows.isSome || x.unworked.isSome || x.runs.any s.draining then s
    else match x.next with
      | none => s
      | some (m, y) =>
        let s := (s.modCell cell fun c => { c with matrix := y }).retainCmd cell m
        if m.op = .mwld && x.bankBusy m then s.modCell cell fun c => { c with matrix := { c.matrix with heldLoad := some m } }
        else if (m.op = .macc || m.op = .mdrain) && (s.cell cell).rowsBusy m then
          s.modCell cell fun c => { c with matrix := { c.matrix with heldRows := some m } }
        else s.matrixExec cell m)

/-- MWLD_BANK_FREE (R245). -/
def execMwldBankFree (cell : Nat) (s : State) : Host.Outcome State Fault Refusal :=
  .next (match (s.cell cell).matrix.heldLoad with
    | some m =>
      if s.runs cell && !(s.cell cell).matrix.bankBusy m then
        (s.modCell cell fun c => { c with matrix := { c.matrix with heldLoad := none } }).matrixExec cell m
      else s
    | none => s)

/-- ACCUMULATOR_HAZARD_END (R245). -/
def execAccumulatorHazardEnd (cell : Nat) (s : State) : Host.Outcome State Fault Refusal :=
  .next (match (s.cell cell).matrix.heldRows with
    | some m =>
      if s.runs cell && !(s.cell cell).rowsBusy m then
        (s.modCell cell fun c => { c with matrix := { c.matrix with heldRows := none } }).matrixExec cell m
      else s
    | none => s)

/-! ## Stream rows (R251, R252, R271) -/

/-- The first row that a drain has not sent, sent on VN1 to its port. -/
def State.sendRow (s : State) (c : Nat) (r : Run) (dest : Word) : State × Run :=
  match r.rows with
  | [] => (s, r)
  | e :: rest =>
    let x := r.cmd.who.ctx
    let row : Row := { ctx := x, fmt := e.1, poison := e.2.1, tag := e.2.2.1, els := e.2.2.2 }
    (s.inject { vn := 1, src := c, dst := (s.cx c x).place.getD (vcellOf dest) 0, ctx := x, counts := false,
                chks := none :: elChks e.1 e.2.2.2, poison := e.2.1, body := .stream (bits dest 40 3) row r.cmd.uid }, { r with rows := rest })

/-- A drain may send its next row: the port has accepted the one before it. -/
def State.maySend (s : State) (r : Run) : Bool :=
  !r.rows.isEmpty && !s.net.any fun p => match p.body with | .stream _ _ u => u == r.cmd.uid | _ => false

/-- DRAIN_ROW_ACCEPTED (R252, R254): the row waiting at the output of the array, else of the reducer, is sent. -/
def execDrainRowAccepted (cell : Nat) (s : State) : Host.Outcome State Fault Refusal :=
  .next (if !s.runs cell then s
    else match (s.cell cell).matrix.runs.find? s.maySend with
      | some r =>
        let q := s.sendRow cell r (r.cmd.recw.getD 2 0)
        q.1.modCell cell fun c => { c with
          matrix := { c.matrix with runs := c.matrix.runs.map fun p => if p.cmd.uid = r.cmd.uid then q.2 else p } }
      | none => match (s.cell cell).reducer.cur with
        | some d =>
          if s.maySend d.run then
            let q := s.sendRow cell d.run (d.run.cmd.recw.getD 2 0)
            q.1.modCell cell fun c => { c with reducer := { c.reducer with cur := some { d with run := q.2 } } }
          else s
        | none => s)

/-- Flits of a row's data (R251). -/
def Row.flits (r : Row) : Nat := ceilDiv (r.els.length * eb r.fmt) 512

/-- A stream port. -/
def Cell.port (c : Cell) (n : Nat) : Port := c.ports.getD n {}

/-- The row fits in the port's buffer (R271). -/
def Port.fits (p : Port) (r : Row) : Bool :=
  decide (p.rows.length < Config.portFlits) && decide ((p.rows.map Row.flits).sum + r.flits ≤ Config.portFlits)

/-- A row of a failed reduction, to be discarded (R257). -/
def Reducer.discards (x : Reducer) (port : Nat) (tag : BitVec 32) : Bool :=
  x.dead.any fun d => d.1 == port && decide ((tag - d.2.1).toNat < d.2.2)

/-- STREAM_TOKEN_ARRIVAL (R257, R271). -/
def execStreamTokenArrival (src dst ctx : Nat) (s : State) : Host.Outcome State Fault Refusal :=
  .next (match s.packet? 1 src dst ctx with
    | none => s
    | some p => match p.body with
      | .stream n row _ =>
        if (s.cell dst).reducer.discards n row.tag then (s.takePacket 1 src dst ctx).accepted p
        else if ((s.cell dst).port n).fits row then
          ((s.takePacket 1 src dst ctx).accepted p).modCell dst fun c =>
            { c with ports := c.ports.put n { (c.port n) with rows := (c.port n).rows ++ [row] } }
        else s
      | _ => s)

end Sys2Proof.Machine
end

