-- ==== Sys2Proof/Machine/Reduce.lean ====
section
/-! DEFINITION. The reducer (R122, R253 to R257). -/

namespace Sys2Proof.Machine

/-- The reducer of a cell changed. -/
def State.modRed (s : State) (c : Nat) (f : Reducer → Reducer) : State := s.modCell c fun d => { d with reducer := f d.reducer }

/-- A port's binding set. -/
def State.bind (s : State) (c n : Nat) (b : Binding) : State :=
  s.modCell c fun d => { d with ports := d.ports.put n { (d.port n) with bound := b } }

/-- The checks of RSET, and the reduction it starts (R254). -/
def rsetStart (place : Nat) (m : Cmd) : Chk Reduction :=
  let g := fun i => m.recw.getD i 0
  let rows := bits (g 0) 8 8 + 1
  do
    need (only (g 0) [(0, 8), (8, 8), (16, 6), (24, 3)] && decide (rows ≤ 64) && only (g 3) [(0, 32)]) .shape 0
    let float ← destChecks place (g 1) (g 2) none
    pure { run := { cmd := m }, n := bits (g 0) 0 8 + 1, rows := rows, cols := bits (g 0) 16 6 + 1, port := bits (g 0) 24 3,
           start := BitVec.ofNat 32 (bits (g 3) 0 32), float := float }

/-- A run that failed at take joins those that wait to complete, or is gone with its region. -/
def State.redFail (s : State) (c : Nat) (r : Run) (e : FaultCode × Word) : State :=
  match s.failRun r e.1 e.2 0 with
  | (s, some r) => s.modRed c fun x => { x with ended := x.ended ++ [r] }
  | (s, none) => s

/-- RSET taken (R237, R254): the tile of a tile kind is made now, the port is bound. -/
def State.takeRset (s : State) (c : Nat) (m : Cmd) : State :=
  match rsetStart (s.cx c m.who.ctx).place.length m with
  | .error e => s.redFail c { cmd := m } e
  | .ok d =>
    let made : Chk (State × Run) :=
      if bit (m.recw.getD 1 0) 0 then .ok (s, d.run) else s.makeTile c d.run (bits (m.recw.getD 1 0) 4 4) d.rows d.cols
    match made with
    | .error e => s.redFail c { cmd := m } e
    | .ok (s, r) =>
      (s.bind c d.port .reducer).modRed c fun x =>
        { x with cur := some { d with run := r }, dead := x.dead.filter fun q => q.1 != d.port }

/-- RFEED taken (R256). -/
def State.takeRfeed (s : State) (c : Nat) (m : Cmd) : State :=
  let x := s.cell c
  match x.reducer.cur, x.operand (m.recw.getD 0 0) with
  | some d, .ok t =>
    if d.done || !only (m.recw.getD 1 0) [(0, 32)] then s.redFail c { cmd := m } (.shape, 0)
    else s.modRed c fun x => { x with feed := some ({ cmd := m, poisoned := t.poison }, 0) }
  | _, .error e => s.redFail c { cmd := m } e
  | none, _ => s.redFail c { cmd := m } (.shape, 0)

/-- REDUCER_TAKE (R253, R254, R256). -/
def execReducerTake (cell : Nat) (s : State) : Host.Outcome State Fault Refusal :=
  .next (let x := (s.cell cell).reducer
    match x.queue with
    | [] => s
    | m :: q =>
      let go := (s.modRed cell fun x => { x with queue := q }).retainCmd cell m
      if !s.runs cell then s
      else if m.op = .rset then
        (if x.cur.isSome || ((s.cell cell).port (bits (m.recw.getD 0 0) 24 3)).bound == .kernel then s
         else go.takeRset cell m)
      else if x.feed.isSome then s else go.takeRfeed cell m)

/-! ## Rows (R255) -/

/-- Where the next input row comes from: a row, its class fitness and poison. -/
def Cell.inputRow (c : Cell) (d : Reduction) (fromPort : Bool) : Option Row :=
  if fromPort then ((c.port d.port).rows).head?
  else match c.reducer.feed with
    | none => none
    | some (r, i) =>
      let h := r.cmd.recw.getD 0 0
      let t := (c.named (indexOf h) (genOf h)).asRead r.cmd.uid
      if t.rows ≤ i then none
      else some { ctx := r.cmd.who.ctx, fmt := t.fmt, poison := t.poison || (List.range t.cols).any fun j => t.bad.contains (i * t.cols + j),
                  tag := BitVec.ofNat 32 (bits (r.cmd.recw.getD 1 0) 0 32 + i),
                  els := (List.range t.cols).map fun j => word (t.at2 i j) }

/-- An element of an input row as a sum word (R122). -/
def rowEl (fmt : Nat) (e : Word) : BitVec 48 := ((preload fmt e.toNat).getD (0, 0)).1

/-- What becomes of an input row (R255). -/
inductive RowFate where
  | fail
  | add (t r : Nat)
  | hold (q : Nat)
  | wait
  deriving DecidableEq, Repr

/-- The fate of a row by its tag, format and columns. -/
def Reduction.fate (d : Reduction) (w : Row) : RowFate :=
  let q := (w.tag - d.start).toNat
  let t := q / d.rows
  let r := q % d.rows
  let next := d.next.getD r 0
  let cls := if w.fmt = 0 || w.fmt = 1 || w.fmt = 9 then some true else if w.fmt = 10 then some false else none
  if d.n * d.rows ≤ q || t < next || d.store.any (fun e => e.1 == q) then .fail
  else if cls ≠ some d.float || w.els.length < d.cols then .fail
  else if t = next then .add t r
  else if d.store.length < Config.matchRows then .hold q
  else .wait

/-- A row's words added into sum row r (R111, R112, R122): stored for t = 0. -/
def Reduction.addRow (d : Reduction) (r t fmt : Nat) (poison : Bool) (els : List Word) : Reduction :=
  let one := fun (a : Tbl (BitVec 48) × Fl) (j : Nat) =>
    let e := rowEl fmt (els.getD j 0)
    let i := r * 64 + j
    if t = 0 then (Tbl.set 0 a.1 i e, a.2)
    else if d.float then
      let v := addA48 (a48.dec (a.1.getD i 0).toNat) (a48.dec e.toNat)
      (Tbl.set 0 a.1 i (BitVec.ofNat 48 v.1), a.2 ||| v.2)
    else
      let v := sat48 (sext 48 (a.1.getD i 0).toNat + sext 48 e.toNat)
      (Tbl.set 0 a.1 i (BitVec.ofNat 48 (wrap 48 v.1)), a.2 ||| v.2)
  let p := (List.range d.cols).foldl one (d.sum, (0 : Fl))
  let nv := flagIf (d.float && fmt != 9 && (els.take d.cols).any fun e =>
    match fmtOf fmt with | some f => (f.dec e.toNat).isSnan | none => false) NV
  { d with sum := p.1, next := d.next.put r (t + 1), poisoned := d.poisoned || poison,
           run := { d.run with flags := d.run.flags ||| p.2 ||| nv } }

/-- Early rows that the window has reached are added (R255). -/
def Reduction.drainStore (d : Reduction) (r : Nat) : Nat → Reduction
  | 0 => d
  | n + 1 =>
    let t := d.next.getD r 0
    match d.store.find? fun e => e.1 == t * d.rows + r with
    | none => d
    | some e =>
      Reduction.drainStore ({ d with store := d.store.erase e }.addRow r t e.2.1 e.2.2.1 e.2.2.2) r n

/-- All inputs have been added. -/
def Reduction.full (d : Reduction) : Bool := (List.range d.rows).all fun r => d.next.getD r 0 == d.n

/-- The input row is taken off its source; an RFEED meets what is uncorrectable in its row (R238). -/
def State.dropInput (s : State) (c : Nat) (d : Reduction) (fromPort : Bool) : State :=
  if fromPort then
    s.modCell c fun k => { k with ports := k.ports.put d.port { (k.port d.port) with rows := (k.port d.port).rows.tail } }
  else match (s.cell c).reducer.feed with
    | none => s
    | some (r, i) =>
      let h := r.cmd.recw.getD 0 0
      let t := (s.cell c).named (indexOf h) (genOf h)
      let bad := (List.range t.cols).any fun j => t.bad.contains (i * t.cols + j)
      let q := s.logBad r (if bad then some h else none)
      q.1.modRed c fun x => { x with feed := some ({ q.2 with count := r.count + 1, poisoned := r.poisoned || bad }, i + 1) }

/-- An RFEED all of whose rows have been taken ends (R256). -/
def State.settleFeed (s : State) (c : Nat) : State :=
  match (s.cell c).reducer.feed with
  | none => s
  | some (r, i) =>
    let h := r.cmd.recw.getD 0 0
    if i < ((s.cell c).named (indexOf h) (genOf h)).rows then s
    else s.modRed c fun x => { x with feed := none, ended := x.ended ++ [{ r with ready := true }] }

/-- The reduction fails (R257): SHAPE with the tag; early rows and sums are discarded, the port is free, an
RFEED in execution completes with the rows it supplied, rows of the failed range are discarded. DESIGN CHOICE (log 96): those
that stand in the port's buffer are discarded as those that arrive later. -/
def State.failReduction (s : State) (c : Nat) (d : Reduction) (tag : BitVec 32) : State :=
  let s := s.bind c d.port .none
  let s := s.modRed c fun x => { x with
    cur := none
    feed := none
    ended := x.ended ++ (x.feed.map fun f => { f.1 with ready := true }).toList
    dead := x.dead ++ [(d.port, d.start, d.n * d.rows)] }
  let s := s.modCell c fun k => { k with
    ports := k.ports.put d.port { (k.port d.port) with rows := (k.port d.port).rows.filter fun w => !k.reducer.discards d.port w.tag } }
  s.redFail c d.run (.shape, tag.setWidth 64)

/-- All inputs added (R254): the rows are converted; a tile is filled and the RSET ends, a stream's rows wait
to be sent. DESIGN CHOICE (log 96): an RFEED with rows left over stays in execution and offers them to the next reduction (R256). -/
def State.finishReduction (s : State) (c : Nat) (d : Reduction) : State :=
  let w1 := d.run.cmd.recw.getD 1 0
  let w2 := d.run.cmd.recw.getD 2 0
  let fmt := bits w1 4 4
  let rows := (List.range d.rows).map fun r => (List.range d.cols).map fun j => d.sum.getD (r * 64 + j) 0
  let e := drainRows d.float fmt (bits w1 8 3) (bit w1 11) rows (seedAll d.run.cmd.seed)
  let r := { d.run with count := d.rows, flags := d.run.flags ||| e.2, poisoned := d.poisoned, ready := true }
  if bit w1 0 then
    let out := e.1.zipIdx.map fun q => (fmt, d.poisoned, BitVec.ofNat 32 (bits w2 0 32 + q.2), q.1)
    s.modRed c fun x => { x with cur := some { d with run := { r with rows := out }, done := true } }
  else
    ((s.fillMade r e.1.flatten).bind c d.port .none).modRed c fun x => { x with cur := none, ended := x.ended ++ [r] }

/-- REDUCER_ROW (R254, R255): sources with a row to give take turns. DESIGN CHOICE (log 96): where both have one for the first turn of
a reduction, the port has it. -/
def execReducerRow (cell : Nat) (fromPort : Bool) (s : State) : Host.Outcome State Fault Refusal :=
  .next (match if s.runs cell then (s.cell cell).reducer.cur else none with
    | none => s
    | some d =>
      let other := match (s.cell cell).inputRow d (!fromPort) with | some w => d.fate w != .wait | none => false
      if d.done || (other && d.lastPort == fromPort) then s
      else match (s.cell cell).inputRow d fromPort with
        | none => s
        | some w =>
          let d := { d with lastPort := fromPort }
          match d.fate w with
          | .wait => s
          | .fail => s.failReduction cell d w.tag
          | .hold q =>
            ((s.dropInput cell d fromPort).modRed cell fun x =>
              { x with cur := some { d with store := d.store ++ [(q, w.fmt, w.poison, w.els)] } }).settleFeed cell
          | .add t r =>
            let d := (d.addRow r t w.fmt w.poison w.els).drainStore r Config.matchRows
            let s := ((s.dropInput cell d fromPort).modRed cell fun x => { x with cur := some d }).settleFeed cell
            if d.full then s.finishReduction cell d else s)

/-- The end of a stream reduction whose rows have all been accepted: the port is free (R254). -/
def State.settleReduction (s : State) (c : Nat) : State :=
  match (s.cell c).reducer.cur with
  | none => s
  | some d =>
    if d.done && !s.draining d.run then
      (s.bind c d.port .none).modRed c fun x => { x with cur := none, ended := x.ended ++ [d.run] }
    else s

end Sys2Proof.Machine
end

