-- ==== Sys2Proof/Machine/Kernel.lean ====
section
/-! DEFINITION. Vector kernels as the vector unit takes and ends them (R260 to R263, R267, R268, R272). -/

namespace Sys2Proof.Machine

/-! ## The checks at take (R261) -/

/-- One word of a kernel body of `n` words checked at index `i` (R140, R261, R274): the last indices of the
loops around it, the innermost first, with its own where it is a VLOOP. -/
def kernelWord (ins outs : List Bool) (n i : Nat) (around : List Nat) (w : IWord) : Chk (List Nat) :=
  if w.toNat / 2 ^ 24 < 0xC0 then .error (.illegalContext, 0)
  else match decode w with
    | none => .error (.illegalOp, 0)
    | some (.vloop l _ len) =>
      let last := i + len.toNat
      if n ≤ last || around.any (fun e => decide (e < last)) || l.toNat ≠ around.length then .error (.illegalOp, 0)
      else .ok (last :: around)
    | some (.vld _ k) => if ins.getD k.toNat false then .ok around else .error (.shape, 0)
    | some (.vst k _ _) => if outs.getD k.toNat false then .ok around else .error (.shape, 0)
    | some _ => .ok around

/-- The words of a kernel body checked in order (R140, R261). DESIGN CHOICE (log 97): a word is decoded and its binding checked before the
next, so that the fault is that of the first word at fault. -/
def kernelBody (ins outs : List Bool) (n : Nat) : Nat → List Nat → List IWord → Chk Unit
  | _, _, [] => .ok ()
  | i, around, w :: ws =>
    match kernelWord ins outs n i (around.filter fun e => decide (i ≤ e)) w with
    | .error e => .error e
    | .ok a => kernelBody ins outs n (i + 1) a ws

/-- Four 16-bit fields of a word. -/
def quarters (w : Word) : List Nat := [bits w 0 16, bits w 16 16, bits w 32 16, bits w 48 16]

/-- The smallest and the largest offset of a stream over its indices (R267). -/
def Stream.reach (q : Stream) : Int × Int :=
  (q.dims.zip q.strides).foldl (fun a e =>
    let d := ((e.1 : Int) - 1) * e.2
    if d < 0 then (a.1 + d, a.2) else (a.1, a.2 + d)) (q.base, q.base)

/-- The offsets of a stream lie in a tile of so many elements. -/
def Stream.inside (q : Stream) (n : Nat) : Bool := decide (0 ≤ q.reach.1) && decide (q.reach.2 < n)

/-- A shape record as the stream of a binding (R147, R267, R268). A new-tile request leaves `made` set and
the tile to be created. -/
def shapeStream (c : Cell) (vcell : Nat) (input : Bool) (w : List Word) : Chk Stream :=
  let g := fun i => w.getD i 0
  let fmt := bits (g 1) 0 4
  let dims := quarters (g 2)
  let q : Stream :=
    { fmt := fmt, dims := dims, strides := (quarters (g 3)).map (sext 16), base := (bits (g 4) 0 32 : Nat) }
  do
    need (only (g 1) [(0, 4), (4, 2), (8, 1)] && only (g 4) [(0, 32)] && (w.drop 5).all (· == 0)) .shape 0
    need (eb fmt != 48 && fmt != 15) .shape 0
    need (dims.all (· != 0) && (dims.drop (bits (g 1) 4 2 + 1)).all (· == 1)) .shape 0
    match bits (g 0) 28 2 with
    | 0 =>
      let t := c.named (indexOf (g 0)) (genOf (g 0))
      need (t.fmt == fmt && q.inside (t.rows * t.cols)) .shape 0
      pure { q with tile := indexOf (g 0), gen := genOf (g 0) }
    | 1 =>
      need (input && bit (g 0) 63 && only (g 0) [(8, 3), (28, 2), (63, 1)]) .shape 0
      pure { q with port := some (bits (g 0) 8 3) }
    | 2 =>
      need (!input && only (g 0) [(0, 4), (8, 8), (16, 8), (28, 2), (53, 11)]) .shape 0
      need (vcellOf (g 0) == vcell && bits (g 0) 0 4 == fmt) .shape 0
      need (q.inside ((bits (g 0) 8 8 + 1) * (bits (g 0) 16 8 + 1))) .shape 0
      pure { q with made := true }
    | _ => .error (.shape, 0)

/-- The present bindings as streams, in order (R261). -/
def bindStreams (c : Cell) (vcell : Nat) (input : Bool) : List (Option (List Word)) → Chk (List (Option Stream))
  | [] => .ok []
  | none :: ws => do
    let qs ← bindStreams c vcell input ws
    pure (none :: qs)
  | some w :: ws => do
    let q ← shapeStream c vcell input w
    let qs ← bindStreams c vcell input ws
    pure (some q :: qs)

/-- Stream ports that inputs name. -/
def portsOf (ins : List (Option Stream)) : List Nat := ins.filterMap fun q => q.bind (·.port)

/-- A kernel that has passed the checks at take: body, inputs, outputs. -/
structure Kernel where
  buf : List IWord
  ins : List (Option Stream)
  outs : List (Option Stream)
  deriving DecidableEq, Repr

/-- Steps 1 to 3 of R261. -/
def kernelChecks (c : Cell) (k : Ctx) (m : Cmd) : Chk Kernel :=
  let h := headerOf (imageWord k.image m.kernel)
  let len := if h.length = 0 then 256 else h.length
  let buf := (k.image.drop (m.kernel + 1)).take len
  let there := m.shapes.map Option.isSome
  do
    need (decide (m.kernel < k.image.length) && h.kind == 2 && h.slot == 0 && h.ndest == 0 && h.low == 0 &&
      decide (m.kernel + len < k.image.length)) .badHeader 0
    kernelBody (there.take 4) (there.drop 4) len 0 [] buf
    let ins ← bindStreams c k.vcell true (m.shapes.take 4)
    let outs ← bindStreams c k.vcell false (m.shapes.drop 4)
    need (portsOf ins).Nodup .shape 0
    need ((m.recw.take 6).all (fun w => only w [(0, 12), (63, 1)]) && only (m.recw.getD 6 0) [(0, 12)]) .shape 0
    pure { buf := buf, ins := ins, outs := outs }

/-- Step 5 of R261: the tiles of output requests are made in order (R237). DESIGN CHOICE (log 97): where one cannot be made, those made
before it in this step leave no trace, as if never made. -/
def State.makeOuts (s : State) (c : Nat) (m : Cmd) : List (Option (List Word)) → List (Option Stream) → Chk (State × List (Option Stream))
  | w :: ws, some q :: qs =>
    if q.made then
      let r := (w.getD []).getD 0 0
      let t : Tile := { ctx := m.who.ctx, fmt := q.fmt, rows := bits r 8 8 + 1, cols := bits r 16 8 + 1, count := 1,
                        hidden := true, region := regionOf m.who.tag }
      match (s.cell c).heap.alloc t with
      | .error n => .error (.heapExhausted, word n)
      | .ok (i, h) =>
        let s := s.modCell c fun d => { d with heap := h }
        let q := { q with tile := i, gen := ((s.cell c).tile i).gen }
        match s.makeOuts c m ws qs with
        | .error e => .error e
        | .ok r => .ok (r.1, some q :: r.2)
    else match s.makeOuts c m ws qs with
      | .error e => .error e
      | .ok r => .ok (r.1, some q :: r.2)
  | _ :: ws, none :: qs =>
    match s.makeOuts c m ws qs with
    | .error e => .error e
    | .ok r => .ok (r.1, none :: r.2)
  | _, _ => .ok (s, [])

/-- A VRUN that fails at take completes FAILED without a kernel (R234, R261). -/
def State.kernelRefuse (s : State) (c : Nat) (m : Cmd) (e : FaultCode × Word) : State :=
  match s.failRun { cmd := m } e.1 e.2 0 with
  | (s, some r) => s.modVec c fun k => { k.idle with run := some r, ended := true }
  | (s, none) => s

/-- The vector unit at the first word of a kernel (R261): nothing of an earlier kernel is left. -/
def Vec.start (k : Vec) (m : Cmd) (n : Kernel) (outs : List (Option Stream)) : Vec :=
  { queue := k.queue, run := some { cmd := m }, buf := n.buf, ins := n.ins, outs := outs, gens := seedAll m.seed }

/-- VRUN_TAKE (R54, R261, R268, R271): a port that the reducer still holds keeps the command at the head, and so does an image that is
not resident. -/
def execVrunTake (cell : Nat) (s : State) : Host.Outcome State Fault Refusal :=
  .next (match if s.runs cell && (s.cell cell).vec.run.isNone then (s.cell cell).vec.queue else [] with
    | [] => s
    | m :: q =>
      if !(s.cx cell m.who.ctx).resident then s
      else
      let go := (s.modVec cell fun k => { k with queue := q }).retainCmd cell m
      match kernelChecks (s.cell cell) (s.cx cell m.who.ctx) m with
      | .error e => go.kernelRefuse cell m e
      | .ok n =>
        let ports := portsOf n.ins
        if ports.any fun p => ((s.cell cell).port p).bound == .reducer then s
        else match go.makeOuts cell m (m.shapes.drop 4) n.outs with
          | .error e => go.kernelRefuse cell m e
          | .ok (s, outs) =>
            (ports.foldl (fun s p => s.bind cell p .kernel) s).modVec cell fun k => k.start m n outs)

/-! ## Waiting and ending (R262, R263, R272) -/

/-- The rows that a VLD waits for have come, or the wait ends in its fault. -/
def State.vldReady (s : State) (c : Nat) : Bool :=
  let v := (s.cell c).vec
  match (v.buf[v.pc]?).bind decode with
  | some (.vld _ n) =>
    (match v.ins.getD n.toNat none with
     | some q =>
       (match q.port with
        | some p =>
          let d0 := q.dims.headD 1
          popRows (v.run.getD {}).cmd.who.ctx d0 q.fmt q.chunk (q.pos % d0) ((s.cell c).port p).rows [] false != .wait
        | none => true)
     | none => true)
  | _ => true

/-- VLD_ROW_READY (R272). -/
def execVldRowReady (cell : Nat) (s : State) : Host.Outcome State Fault Refusal :=
  .next (if (s.cell cell).vec.waiting && s.vldReady cell then s.modVec cell fun k => { k with waiting := false } else s)

/-- The tiles a kernel created become known: SEALED, their handles in slot 0 of their shape records (R262). -/
def State.showOuts (s : State) (c : Nat) (r : Run) : List Nat → List (Option Stream) → State
  | k :: ks, some q :: qs =>
    let s := if q.made then
        (s.modTile c q.tile fun t => { t with sealed := true, hidden := false, poison := t.poison || r.poisoned }).writeFrameSlot
          r.cmd.who k (mkHandle r.cmd.who.vcell r.cmd.who.ctx q.tile q.gen)
      else s
    s.showOuts c r ks qs
  | _ :: ks, none :: qs => s.showOuts c r ks qs
  | _, _ => s

/-- The reply value of a kernel (R262): the handle created for out0, else 0. -/
def kernelValue (r : Run) (outs : List (Option Stream)) : Word :=
  match outs.head? with
  | some (some q) => if q.made then mkHandle r.cmd.who.vcell r.cmd.who.ctx q.tile q.gen else 0
  | _ => 0

/-- The end of the kernel on a vector unit (R235, R262). -/
def State.endKernel (s : State) (c : Nat) : State :=
  let v := (s.cell c).vec
  match if v.ended && s.runs c then v.run else none with
  | none => s
  | some r =>
    let s := if r.failed.isSome then s else s.showOuts c r (r.cmd.shapeSlots.drop 4) v.outs
    let s := (s.modCell c Cell.unbindKernel).modVec c Vec.idle
    s.completeRun { r with value := kernelValue r v.outs }

/-- KERNEL_END (R262). -/
def execKernelEnd (cell : Nat) (s : State) : Host.Outcome State Fault Refusal := .next (s.endKernel cell)

end Sys2Proof.Machine
end

