-- ==== Sys2Proof/Machine/Access.lean ====
section
/-! DEFINITION. Tensor accesses on their way to a stack: the descriptor and its cache (R68 to R74), the checks
of R370, the two-dimensional walk and parked page faults (R316 to R320), and the order in which the accesses
of a cell reach a stack (R79, R87, R90, R95, R97). -/

namespace Sys2Proof.Machine

/-! ## Descriptors (R68, R74) -/

/-- What the read of a descriptor gives: its words, a fault with its detail, or a nested page fault. -/
inductive DescRes where
  | ok (w : List Word)
  | fault (c : FaultCode) (d : Word)
  | miss (gpa entry : Nat)
  deriving DecidableEq, Repr

/-- A descriptor from the layout unit's cache, or read as a load of the tensor table (R68, R74, R318). -/
def State.descRead (s : State) (w : Issuer) (f tid : Nat) : DescRes :=
  if (s.fn f).ttcount ≤ tid then .fault .translation (word tid)
  else match (s.cx w.cell w.ctx).descs.find? fun e => e.1 == tid with
    | some e => .ok e.2
    | none => match s.nested w.cell f ((s.fn f).ttbase + 64 * tid) with
      | .ok pa _ _ _ r _ =>
        if r then .ok (bytesWords (s.loadBytes (s.logOf w) none pa 64)) else .fault .permission 0
      | .missing e => if (s.fn 0).fring.base = 0 then .fault .translation 0 else .miss ((s.fn f).ttbase + 64 * tid) e
      | .broken => .fault .translation 0
      | .lost => .fault .linkLost 0

/-- A descriptor kept as the most recently used of at most 64 (R74). -/
def State.keepDesc (s : State) (w : Issuer) (f tid : Nat) (ws : List Word) : State :=
  (s.keepNested w.cell f ((s.fn f).ttbase + 64 * tid)).modCx w.cell w.ctx fun k =>
    { k with descs := ((tid, ws) :: k.descs.filter fun e => e.1 != tid).take Config.descriptors }

/-! ## Parking (R318, R320) -/

/-- A request that finds a missing entry: what its fault-ring record tells. -/
structure Miss where
  /-- the function whose ring takes it, and the entry -/
  ring : Nat
  entry : Nat
  vf : Nat
  write : Bool
  /-- word 1: tensor id and page, or guest-physical address -/
  what : Word
  vcell : Nat
  ctx : Nat
  cell : Nat
  deriving DecidableEq, Repr

/-- The request waits for a missing entry, parked or at its walker (R320). -/
def Piece.rests (p : Piece) : Bool :=
  match p.xl with
  | .parked _ _ => true
  | .stuck _ _ => true
  | _ => false

/-- Requests of a die that are parked; fault id 0 marks a descriptor's read that waits at its walker. -/
def State.parkedOn (s : State) (die : Nat) : Nat :=
  ((s.ops.filter fun o => dieOf o.who.cell == die).map fun o =>
    (o.dpark.toList.filter fun d => d.2 != 0).length + (o.pieces.filter fun p => match p.xl with | .parked _ _ => true | _ => false).length).sum +
  (if die = 0 then (s.fns.map fun e => (e.2.queues.filter fun q => q.2.parked.isSome).length).sum else 0)

/-- The fault id after one: it skips 0 (R320). -/
def nextFault (id : Nat) : Nat := if id + 1 = 2 ^ 32 then 1 else id + 1

/-- A request parked (R320): under the id its missing entry already has, else under a new one with a record;
none where its die parks 512 already. -/
def State.park (s : State) (m : Miss) : Option (State × Nat) :=
  if 512 ≤ s.parkedOn (dieOf m.cell) then none
  else match (s.fn m.ring).faults.find? fun e => e.1 == m.entry with
    | some e => some (s, e.2)
    | none =>
      let id := nextFault (s.fn m.ring).faultId
      let w0 := word (id + m.vf * 2 ^ 32 + (if m.ring = 0 then 2 ^ 37 else 0) + m.write.toNat * 2 ^ 38)
      let r := s.ringPut m.ring (s.fn m.ring).fring [w0, m.what, word (m.vcell + m.ctx * 2 ^ 11)] (s.now m.cell)
      some (r.1.modFn m.ring fun k => { k with fring := r.2, faultId := id, faults := k.faults ++ [(m.entry, id)] }, id)

/-- The word of a nested fault's record: the guest-physical page. -/
def gpaWord (gpa : Nat) : Word := word (gpa / 2 ^ 12 % 2 ^ 36 * 2 ^ 12)

/-! ## The ends of an access (R193, R234) -/

/-- The command in execution that an access of the copy engine belongs to. -/
def State.copyRun (s : State) (o : MemOp) : Option Run :=
  (s.cell o.who.cell).copies.find? fun r => r.cmd.uid == o.id

/-- A run of the copy engine changed, or taken away. -/
def State.setRun (s : State) (c uid : Nat) (q : Option Run) : State :=
  s.modCell c fun d => { d with copies := d.copies.filterMap fun r => if r.cmd.uid = uid then q else some r }

/-- A fault of a command of the copy engine (R234). -/
def State.failCopy (s : State) (o : MemOp) (code : FaultCode) (d1 d2 : Word) : State :=
  match s.copyRun o with
  | none => s.dropOps fun q => q.id == o.id
  | some r =>
    let q := s.failRun r code d1 d2
    q.1.setRun o.who.cell o.id q.2

/-- A stack's answer. -/
def State.stackAnswer (s : State) (st : Nat) (o : MemOp) (k : Nat) : State := s.sendAnswer (stackPort o.who.cell st) o k

/-- Piece `k` of an operation ends with a fault where it is performed: its answer tells the cell (R193). -/
def State.refuseAt (s : State) (a : Nat) (o : MemOp) (k : Nat) (code : FaultCode) (d1 d2 : Word) : State :=
  (s.modOp o.id fun q => { q with
    fault := some (code, d1, d2)
    pieces := listMod q.pieces k fun p => { p with done := true } }).sendAnswer a o k

/-- An access of a copy-engine command. -/
def OpKind.engine : OpKind → Bool
  | .cread => true
  | .cwrite => true
  | _ => false

/-- An access through a tensor. -/
def OpKind.tensor : OpKind → Bool
  | .ldg | .stg | .ldch | .amo | .cread | .cwrite => true
  | _ => false

/-- A fault of an access where it is performed. -/
def State.failAccess (s : State) (o : MemOp) (code : FaultCode) (d1 d2 : Word) : State :=
  if o.kind.engine then s.failCopy o code d1 d2 else s.failOp o (if o.kind = .hld && code = .poison then 4 else 2) code d1 d2

/-- A piece of an operation changed. -/
def State.modPiece (s : State) (id k : Nat) (f : Piece → Piece) : State :=
  s.modOp id fun o => { o with pieces := listMod o.pieces k f }

/-! ## The checks of R370 -/

/-- The record of an access (R208): slot 0 and slot 3. -/
def recordChecks (o : MemOp) : Chk Unit :=
  let g := fun i => o.recw.getD i 0
  do
    need (bits (g 0) 20 44 == 0) .shape 0
    match o.kind with
    | .ldch => need (bits (g 3) 11 53 == 0) .shape 3
    | .amo => need (bits (g 3) 6 26 == 0 && decide (bits (g 3) 0 4 < 12) && bits (g 3) 4 2 != 3) .shape 3
    | _ => need (bits (g 3) 6 58 == 0) .shape 3

/-- An AMO's op and width that R213 allows. -/
def amoAllowed (op width : Nat) : Bool :=
  if op ≤ 9 then width ≤ 1 else if op = 10 then width == 0 else width == 2

/-- The coordinates of an access record. -/
def coordsOf (w : List Word) : List Nat :=
  [bits (w.getD 1 0) 0 32, bits (w.getD 1 0) 32 32, bits (w.getD 2 0) 0 32, bits (w.getD 2 0) 32 32]

/-- Coordinates inside the tensor (R72): SHAPE with the dimension. -/
def Desc.inside (d : Desc) (c : List Nat) : Chk Unit :=
  match d.outside c with
  | some i => .error (.shape, word i)
  | none => .ok ()

/-- The piece of a tensor from a bit offset, of so many bits. -/
def Desc.piece (d : Desc) (tid bitOff nbits : Nat) : Piece :=
  let off := bitOff / 8
  let pg := pageBytes d.psize
  { tid := tid, tpn := off / pg, pgo := off % pg, nib := bitOff % 8, len := (bitOff % 8 + nbits + 7) / 8 }

/-- A store's piece made a masked whole granule (R77, R78). -/
def Piece.masked (p : Piece) (data : List Byte) : Piece :=
  let lo := p.pgo % 64
  { p with pgo := p.pgo - lo, len := 64, mask := (2 ^ p.len - 1) * 2 ^ lo,
           data := List.replicate lo 0 ++ (data.take p.len) ++ List.replicate (64 - lo - p.len) 0 }

/-- The checks 3 to 5 of R370 and the piece that the access reads or writes. DESIGN CHOICE (log 105): the first link word of an LDCH (R212)
that is not wholly below d0 raises SHAPE, detail 0. -/
def accessPieces (o : MemOp) (d : Desc) : Chk (List Piece) :=
  let g := fun i => o.recw.getD i 0
  let tid := bits (g 0) 0 20
  let c := coordsOf o.recw
  let c0 := c.getD 0 0
  let w := eb d.fmt
  match o.kind with
  | .ldch => do
    need (!d.peer) .permission 0
    need (d.rank == 1 && w == 8 && c0 % 8 == 0) .shape 0
    d.inside c
    need (decide (c0 + 8 * bits (g 3) 8 3 + 8 ≤ d.dim 0)) .shape 0
    pure [d.piece tid (8 * (c0 + 8 * bits (g 3) 8 3)) 64]
  | .amo =>
    let op := bits (g 3) 0 4
    let wd := bits (g 3) 4 2
    let W := if wd = 1 then 64 else 32
    do
      need (amoAllowed op wd) .permission (word (op + wd * 16))
      need (d.attr != 2 && !d.peer) .permission 0
      d.inside c
      need (decide (w ≤ W) && decide (c0 + W / w ≤ d.dim 0) && d.bitOff c / 8 * 8 % W == 0) .shape 0
      pure [d.piece tid (d.bitOff c / 8 * 8) W]
  | k => do
    let n := bits (g 3) 0 6 + 1
    need (!k.stores || d.attr != 2) .permission 0
    need (decide (n * w ≤ 64)) .shape 0
    d.inside c
    let b := d.bitOff c
    need (decide (c0 + n ≤ d.dim 0)) .shape 0
    need ((List.range n).all fun j =>
      let q := d.bitOff ((c0 + j) :: c.tail)
      q / 512 == b / 512 && (q + w - 1) / 512 == b / 512) .shape 0
    need (!k.stores || w != 4 || (c0 % 2 == 0 && n % 2 == 0)) .shape 0
    let p := d.piece tid b (n * w)
    pure [if k.stores then p.masked (leBytes (o.val.toNat % 2 ^ (n * w)) 8) else { p with nel := n }]

/-- A Septord port's state (R350). -/
def State.portAt (s : State) (p : Nat) : SeptordPort := s.links.septord.toList.getD p .up

/-- The usable ports that reach a listed peer module, counted from the lowest (R351). -/
def State.peerPorts (s : State) (m : Nat) : List Nat :=
  (List.range 16).filter fun p => s.portAt p != .lost && s.links.peers.any fun e => e.2.valid && e.2.pmod.toNat == m && e.2.ports.getLsbD p

/-- A peer module that is listed and has a port (R351). -/
def State.peerUp (s : State) (m : Nat) : Bool := !(s.peerPorts m).isEmpty

/-- What the checks have found written into the operation. -/
def MemOp.settle (o : MemOp) (d : Desc) (ws : List Word) (key : BitVec 512) (ps : List Piece) : MemOp :=
  { o with checked := true, dpark := none, dw := ws, root := d.root, attr := d.attr, key := key, psize := d.psize,
           peer := if d.peer then some d.pmod else none, pieces := ps }

/-- The key of a descriptor, or why the access cannot be made (R101, R319, R351). -/
def State.accessKey (s : State) (f : Nat) (d : Desc) : Chk (BitVec 512) :=
  if d.peer then (if s.peerUp d.pmod then .ok 0 else .error (.linkLost, 0))
  else match s.keyOf f d with
    | some k => .ok k
    | none => .error (.permission, 0)

/-- A descriptor read for an operation: `f` goes on with it; else the operation faults or parks. -/
def State.withDesc (s : State) (o : MemOp) (tid : Nat) (f : State → Desc → List Word → State) : State :=
  match s.descRead o.who o.inst.1 tid with
  | .fault c d => s.failAccess o c d 0
  | .miss gpa e =>
    (match s.park { ring := 0, entry := e, vf := o.inst.1, write := false, what := gpaWord gpa, vcell := o.who.vcell,
                    ctx := o.who.ctx, cell := o.who.cell } with
     | none => s.modOp o.id fun q => { q with dpark := some (0, 0) }
     | some r => (r.1.countCell o.who.cell 0x1A).modOp o.id fun q => { q with dpark := some (0, r.2) })
  | .ok ws =>
    (match descCheck ws with
     | .error e => s.failAccess o e.1 e.2 0
     | .ok d => f (s.keepDesc o.who o.inst.1 tid ws) d ws)

/-- The checks of an access, in the order of R370, and its piece. -/
def State.openAccess (s : State) (o : MemOp) : State :=
  match recordChecks o with
  | .error e => s.failAccess o e.1 e.2 0
  | .ok _ =>
    s.withDesc o (bits (o.recw.getD 0 0) 0 20) fun s d ws =>
      match accessPieces o d with
      | .error e => s.failAccess o e.1 e.2 0
      | .ok ps => match s.accessKey o.inst.1 d with
        | .error e => s.failAccess o e.1 e.2 0
        | .ok k => s.modOp o.id fun q => { q.settle d ws k ps with cur := (coordsOf q.recw).getD 0 0 }

/-! ## The walk (R73, R316 to R320) -/

/-- The access writes. -/
def OpKind.writes : OpKind → Bool
  | .stg | .amo | .cwrite => true
  | _ => false

/-- Pieces of one tensor page that one nested leaf maps have their translation from one walk. -/
def MemOp.landed (o : MemOp) (p : Piece) (pa gpa leaf : Nat) : List Piece :=
  o.pieces.map fun q =>
    let g := gpa - p.pgo + q.pgo
    if (q.xl == .todo || q.xl == p.xl) && q.tid == p.tid && q.tpn == p.tpn && g / leaf == gpa / leaf then
      { q with xl := .at (pa - gpa % leaf + g % leaf), gpa := g }
    else q

/-- A request of the context to the same tensor page is parked: later ones wait behind it (R320). One that waits at its
walker waits for no other of those. -/
def State.pageParked (s : State) (o : MemOp) (p : Piece) : Bool :=
  s.ops.any fun q => q.who.cell == o.who.cell && q.who.ctx == o.who.ctx && q.root == o.root &&
    q.pieces.any fun r => r.tpn == p.tpn && (match r.xl with | .parked _ _ => true | .stuck _ _ => p.xl == .todo | _ => false)

/-- A TSTORE handles its pages in ascending order (R240): a page is translated once the entries of the pages
before it stand; the pages that it covers whole are translated before anything is written (R92). -/
def State.pageTurn (s : State) (o : MemOp) (k tpn : Nat) : Bool :=
  match s.copyRun o with
  | some r =>
    r.cmd.op != .tstore || o.covered.contains tpn ||
      (o.covered.isEmpty && (o.pieces.take k).all fun p => p.done || p.tpn == tpn)
  | none => true

/-- The request waits at a walker and keeps it (R320). -/
def Piece.stuckAt (p : Piece) : Bool := match p.xl with | .stuck _ _ => true | _ => false

/-- The partitions of the cells whose requests keep a walker of a die (R318, R320): one entry for each request. -/
def State.walkersKept (s : State) (die : Nat) : List Nat :=
  (s.ops.filter fun o => dieOf o.who.cell == die).flatMap fun o =>
    List.replicate ((o.pieces.filter Piece.stuckAt).length + (if o.dpark = some (0, 0) then 1 else 0)) (s.partNo o.who.cell)

/-- An operation has a request for the walkers of its die that waits (R318). -/
def State.wantsWalk (s : State) (o : MemOp) : Bool :=
  o.kind.tensor && o.behind.isEmpty && s.runs o.who.cell && o.checked && o.peer.isNone &&
    o.pieces.zipIdx.any fun e => e.1.xl == .todo && !s.pageParked o e.1 && s.pageTurn o e.2 e.1.tpn

/-- A walker of its die is free for a request of an operation (R15, R318): fewer than 192 are kept, and while another partition has walks
waiting fewer than 96 by its own. Where walkers are kept, requests of a partition that wait are served in the order in which they were
issued. -/
def State.walkerFree (s : State) (o : MemOp) : Bool :=
  let die := dieOf o.who.cell
  let kept := s.walkersKept die
  let mine := s.partNo o.who.cell
  let waits := fun (p : MemOp → Bool) => s.ops.any fun q => dieOf q.who.cell == die && p q && s.wantsWalk q
  kept.isEmpty || (decide (kept.length < Config.walkers) &&
    (decide ((kept.filter (· == mine)).length < Config.walkers / 2) || !waits fun q => s.partNo q.who.cell != mine) &&
    !waits fun q => decide (q.id < o.id) && s.partNo q.who.cell == mine)

/-- A missing entry met in the walk of a piece: parked under R320, or TRANSLATION where there is no ring. -/
def State.parkPiece (s : State) (o : MemOp) (k ring entry : Nat) (what : Word) : State :=
  if (s.fn ring).fring.base = 0 then s.failAccess o .translation 0 0
  else match s.park { ring := ring, entry := entry, vf := o.inst.1, write := o.kind.writes, what := what,
                      vcell := o.who.vcell, ctx := o.who.ctx, cell := o.who.cell } with
    | none => s.modPiece o.id k fun p => { p with xl := .stuck ring entry }
    | some r => (r.1.countCell o.who.cell 0x1A).modPiece o.id k fun p => { p with xl := .parked ring r.2 }

/-- What becomes of an operation that needs a stack of a die that is cut off: LINK_LOST (R193, R349), and for a closing release, which
raises nothing, what lost traffic brings (R344). None where the die is not cut off. -/
def State.unreached (s : State) (o : MemOp) (st : Nat) : Option State :=
  if !s.links.cut.contains (stackDie st) then none
  else if o.kind = .closing then some (s.linkLost o.inst.1 o.inst.2 o.who.cell [o.who.tag])
  else some (s.failAccess o .linkLost 0 0)

/-- The key under which an operation's tensor is read and written now (R73, R319): none where its key id is no slot of its function. -/
def State.keyNow (s : State) (o : MemOp) : Option (BitVec 512) := (descCheck o.dw).toOption.bind (s.keyOf o.inst.1)

/-- A walker translates the tensor page of piece `k` (R73, R316, R318), and finds the key of the tensor's slot as it stands now (R319). -/
def State.walk (s : State) (o : MemOp) (k : Nat) : State :=
  match o.pieces[k]? with
  | none => s
  | some p =>
    if (match p.xl with | .todo => !s.walkerFree o | .stuck _ _ => false | _ => true) || o.peer.isSome || s.pageParked o p ||
        !s.pageTurn o k p.tpn then s
    else match s.keyNow o with
     | none => s.failAccess o .permission 0 0
     | some key =>
      let f := o.inst.1
      match s.xlate o.who.cell f o.root p.tpn (pageBytes o.psize) p.pgo o.kind.writes with
      | .ok pa gpa leaf w =>
        (s.unreached o (stackOf pa)).getD <|
          (s.keepXlate o.who.cell f o.root p.tpn (pageBytes o.psize) p.pgo).modOp o.id fun o =>
          { o with
            key := key
            pieces := o.landed p pa gpa leaf
            fit := if o.covered.contains p.tpn && leaf == pageBytes o.psize && w && !o.fit.contains p.tpn then o.fit ++ [p.tpn]
              else o.fit }
      | .fault c => s.failAccess o c 0 0
      | .missTensor e => s.parkPiece o k f e (word (p.tid + p.tpn * 2 ^ 20))
      | .missNested gpa e => s.parkPiece o k 0 e (gpaWord gpa)

/-! ## The memory port (R79, R87, R90, R95, R97) -/

/-- A piece of the operation has been performed at a stack. -/
def MemOp.begun (o : MemOp) (st : Nat) : Bool := o.pieces.any fun p => p.done && p.stack == some st

/-- The pieces of an operation reach a stack in their order (R78, R79); a store's wait until those before
them are translated, and on an SC page until those before them have been applied (R240). -/
def MemOp.turn (o : MemOp) (k st : Nat) : Bool :=
  (o.pieces.take k).all fun p =>
    p.done || (!(o.kind.stores && o.attr == 1) && p.stack != some st && (p.stack.isSome || !o.kind.stores))

/-- Two pieces may touch one granule: where one of them is not translated, granules at one place of a 64 KiB page may be
the same. -/
def Piece.meets (p q : Piece) : Bool :=
  match p.xl, q.xl with
  | .at a, .at b => a / 64 == b / 64
  | .shadow _, .at _ => p.gpa / 64 == q.gpa / 64
  | .at _, .shadow _ => p.gpa / 64 == q.gpa / 64
  | .shadow _, .shadow _ => p.gpa / 64 == q.gpa / 64
  | _, _ => p.pgo % 65536 / 64 == q.pgo % 65536 / 64

/-- A store of a context waits on a full ring of a stack (R90). -/
def State.ringStalled (s : State) (c st x : Nat) : Bool :=
  s.ops.any fun q => q.who.cell == c && q.who.ctx == x && q.pieces.any fun r => !r.done && r.wait.isSome && r.stack == some st

/-- The operation sends something to a stack now, or may as far as its translations tell (R79): not where its context's
ring there is full (R90), not what waits for a parked page (R320), and not the hops of an LDCH that a stack forwards (R212). -/
def MemOp.ahead (q : MemOp) (st : Nat) (stalled : Nat → Bool) (parked : Piece → Bool) : Bool :=
  q.kind.tensor && q.hops = 0 && (
    (!stalled q.who.ctx &&
      (q.pieces.find? fun r => !r.done && (r.stack == some st || (q.kind.stores && r.stack.isNone))).any fun r => r.stack == some st) ||
    (!q.kind.engine && q.peer.isNone && q.pieces.any fun r => !r.done && r.xl == .todo && !parked r))

/-- The tensor that the record of an operation names. -/
def MemOp.tensor (o : MemOp) : Nat := bits (o.recw.getD 0 0) 0 20

/-- An earlier operation, of one firing with another or with it in the copy engine, may still touch the granule of a piece of that one
(R95, R236): as far as its accesses, or the next hops of an LDCH, are known. While a page of it is parked, other requests proceed, but for
those to the same granule of that page, and while the read of its descriptor is, those to other tensors, but for the copy engine's (R320). -/
def MemOp.clashes (q o : MemOp) (parked : Piece → Bool) (p : Piece) : Bool :=
  (q.who.serial == o.who.serial || (q.kind.engine && o.kind.engine)) &&
    ((!q.checked && (q.dpark.isNone || (q.kind.engine && o.kind.engine) || q.tensor == o.tensor)) ||
      (q.kind == .ldch && q.checked && q.result.isNone && q.fault.isNone && !q.pieces.any parked) || q.pieces.any fun r => !r.done &&
        if parked r then q.root == o.root && r.tpn == p.tpn && r.pgo / 64 == p.pgo / 64 else r.meets p)

/-- An earlier operation of the cell holds back piece `p` of an operation on its way to a stack: by R79; by R90; by R97; by
R74, R95 and R236 while its accesses are not known. While the read of its descriptor is parked the context's other requests proceed
(R320), but for those on SC pages, which keep the issue order (R97). -/
def MemOp.holds (q o : MemOp) (p : Piece) (st : Nat) (stalled : Nat → Bool) (parked : Piece → Bool) : Bool :=
  let mine := q.who.ctx == o.who.ctx
  q.kind.tensor && (
    q.ahead st stalled parked ||
    (mine && q.pieces.any fun r => !r.done && r.stack == some st && r.wait.isSome) ||
    (mine && q.checked && q.attr == 1 && (q.opened || q.pieces.any fun r => !r.back)) ||
    (mine && !q.checked && (q.dpark.isNone || o.attr == 1)) ||
    q.clashes o parked p)

/-- Another operation of the context stands in the middle of its entries at a stack (R78). -/
def MemOp.midway (q : MemOp) (st : Nat) : Bool :=
  q.kind.stores && q.begun st && q.pieces.any fun r => !r.done && (r.stack == some st || r.stack.isNone)

/-- A release that has formed its messages still has to reach the stack (R79, R83). -/
def MemOp.toPublish (q : MemOp) (st : Nat) : Bool :=
  (q.kind == .rel || q.kind == .closing) && q.opened && q.mask.getLsbD st && !q.pub.getLsbD st

/-- An interim publish message of a release is on its way to a stack (R79, R90). -/
def MemOp.toInterim (q : MemOp) (st : Nat) : Bool := q.interim.getLsbD st

/-- A copy command of the firing of an operation, issued before it, has not been taken yet (R95). -/
def State.copyBefore (s : State) (o : MemOp) : Bool :=
  (s.cell o.who.cell).copyq.any fun m => decide (m.uid < o.id) && m.who.serial == o.who.serial

/-- The tile that a command reads into has still to be made on its cell (R237, R239). -/
def State.tileDue (s : State) (o : MemOp) : Bool := o.kind.engine && (s.copyRun o).any fun r => r.asked && r.made.isNone

/-- The request of piece `k` of an operation may leave its cell for a stack. Of what a cell sends to one stack, one request is on its way
at a time (log 106). A store begins at a stack once none of its entries there can have to wait for an earlier operation (R78, R95). A
hop of an LDCH is forwarded from stack to stack, past the cell (R212). -/
def State.mayGo (s : State) (o : MemOp) (k : Nat) (p : Piece) (st : Nat) : Bool :=
  let c := o.who.cell
  let near := s.ops.filter fun q => q.who.cell == c && q.id != o.id && q.behind.isEmpty
  let before := near.filter fun q => decide (q.id < o.id)
  let ctx := near.filter fun q => q.who.ctx == o.who.ctx
  o.behind.isEmpty && s.runs c && o.checked && o.peer.isNone && p.asked == .none && !p.done && p.stack == some st && o.turn k st &&
    (o.hops ≠ 0 || (
    !s.tileDue o && !(near.any fun q => (decide (q.sent < o.id) && q.toPublish st) || q.toInterim st) &&
    !(ctx.any fun q => q.attr == 1 && q.opened) &&
    ((o.kind.stores && o.begun st) ||
      !(before.any (fun q => q.holds o p st (s.ringStalled c st) (s.pageParked q)) ||
        (o.kind.stores && (ctx.any (fun q => q.midway st) || before.any fun q => o.pieces.any (q.clashes o (s.pageParked q)))) ||
        s.copyBefore o))))

/-- The publish message of a release may leave for a stack (R79, R97): what its cell issued to that stack before has reached it. -/
def State.mayPublish (s : State) (o : MemOp) (st : Nat) : Bool :=
  let c := o.who.cell
  let near := s.ops.filter fun q => q.who.cell == c && q.id != o.id
  o.toPublish st && !o.told.getLsbD st && !o.toInterim st && s.runs c && !s.scOpen c o.who.ctx &&
    !(near.any fun q => (decide (q.sent < o.sent) && q.toPublish st) || q.toInterim st) &&
    !(near.any fun q => q.behind.isEmpty && decide (q.id < o.sent) && q.ahead st (s.ringStalled c st) (s.pageParked q))

/-- An interim publish message of a release that waits may leave for a stack where one of its stores stands before a full ring (R79, R90,
R97). -/
def State.mayInterim (s : State) (o : MemOp) (st : Nat) : Bool :=
  let c := o.who.cell
  let near := s.ops.filter fun q => q.who.cell == c && q.id != o.id
  (o.kind == .rel || o.kind == .closing) && !o.opened && !o.toInterim st && s.runs c && !s.scOpen c o.who.ctx &&
    (s.stalledStacks o).contains st && !(near.any fun q => q.toPublish st || q.toInterim st) &&
    !(near.any fun q => q.behind.isEmpty && decide (q.id < o.id) && q.ahead st (s.ringStalled c st) (s.pageParked q))

end Sys2Proof.Machine
end

