-- ==== Sys2Proof/Machine/Copy.lean ====
section
/-! DEFINITION. The copy engine (R234 to R243): the checks at take, the pieces of tensor memory that a command
reads or writes, conversion, and what the command leaves behind. -/

namespace Sys2Proof.Machine

/-! ## Conversion (R127, R239) -/

/-- Integer formats. -/
def intFmt (f : Nat) : Bool := f == 6 || f == 7 || f == 10 || f == 11

/-- A pair of formats that TLOAD converts between (R239). -/
def convOk (sf df : Nat) : Bool :=
  sf == df || (((fmtOf sf).isSome || intFmt sf) && ((fmtOf df).isSome || intFmt df))

/-- An element converted (R127, R239): mode, draw and `.nan`. -/
def convEl (sf df mode r : Nat) (nan : Bool) (e : Nat) : Nat × Fl :=
  if sf = df then (e, 0)
  else match fmtOf sf, fmtOf df with
    | some a, some b => a.toFloat b mode r nan e
    | some a, none => let v := a.toInt mode r (eb df) false e; (wrap (eb df) v.1, v.2)
    | none, some b => b.ofInt mode r nan (sext (eb sf) e)
    | none, none => let v := clamp (loOf (eb df) false) (hiOf (eb df) false) (sext (eb sf) e); (wrap (eb df) v.1, v.2)

/-- One row converted: column j draws from generator j mod 64 (R239). -/
def convRow (sf df mode : Nat) (nan : Bool) : Nat → List Nat → Gens → List Word × Gens × Fl
  | _, [], g => ([], g, 0)
  | j, e :: es, g =>
    let d := draw (mode == 4) g j
    let v := convEl sf df mode d.1 nan e
    let r := convRow sf df mode nan (j + 1) es d.2
    (word v.1 :: r.1, r.2.1, v.2 ||| r.2.2)

/-- Rows converted in order. -/
def convRows (sf df mode : Nat) (nan : Bool) : List (List Nat) → Gens → List Word × Fl
  | [], _ => ([], 0)
  | a :: as, g =>
    let r := convRow sf df mode nan 0 a g
    let q := convRows sf df mode nan as r.2.1
    (r.1 ++ q.1, r.2.2 ||| q.2)

/-! ## Rows of a tensor -/

/-- Coordinates of element j of a row. -/
def elCoords (row : List Nat) (j : Nat) : List Nat := (row.headD 0 + j) :: row.tail

/-- The rows of a box (R239): (c0, c1 + i, c2, c3). -/
def boxRows (c : List Nat) (n : Nat) : List (List Nat) :=
  (List.range n).map fun i => [c.getD 0 0, c.getD 1 0 + i, c.getD 2 0, c.getD 3 0]

/-- The check of a box under R72: its first element, the end of its first row, the start of its last. -/
def boxCheck (d : Desc) (c : List Nat) (nr nc : Nat) : Chk Unit := do
  d.inside c
  d.inside (elCoords c (nc - 1))
  d.inside [c.getD 0 0, c.getD 1 0 + (nr - 1), c.getD 2 0, c.getD 3 0]

/-- Bit offset of element j of a row. -/
def rowBit (d : Desc) (row : List Nat) (j : Nat) : Nat := d.bitOff (elCoords row j)

/-- The pieces that reading rows of `n` elements takes: the granules of each row in order. -/
def readPieces (d : Desc) (tid n : Nat) (rows : List (List Nat)) : List Piece :=
  rows.zipIdx.flatMap fun r =>
    let gs := ((List.range n).flatMap fun j =>
      [rowBit d r.1 j / 512, (rowBit d r.1 j + eb d.fmt - 1) / 512]).eraseDups
    gs.map fun g => { d.piece tid (g * 512) 512 with elem := r.2 }

/-- A byte of a tensor from the pieces that have been read: none where it is uncorrectable. -/
def readByte (d : Desc) (ps : List Piece) (a : Nat) : Option Byte :=
  let pg := pageBytes d.psize
  match ps.find? fun p => decide (p.tpn * pg + p.pgo ≤ a) && decide (a < p.tpn * pg + p.pgo + p.len) with
  | some p => if p.bad.testBit (a - (p.tpn * pg + p.pgo)) then none else p.data[a - (p.tpn * pg + p.pgo)]?
  | none => none

/-- The bytes in which an element at a bit offset lies. -/
def elBytes (d : Desc) (ps : List Piece) (b : Nat) : List (Option Byte) :=
  (List.range ((b % 8 + eb d.fmt + 7) / 8)).map fun i => readByte d ps (b / 8 + i)

/-- An element of a row from the pieces that have been read: zero where a byte of it is uncorrectable (R238). -/
def readEl (d : Desc) (ps : List Piece) (b : Nat) : Nat :=
  let bs := elBytes d ps b
  if bs.all Option.isSome then leNat (bs.map fun x => x.getD 0) / 2 ^ (b % 8) % 2 ^ eb d.fmt else 0

/-- Bytes that a row of elements writes, by byte offset; 4-bit elements in pairs (R240). -/
def rowBytes (d : Desc) (row : List Nat) (es : List Nat) : List (Nat × Byte) :=
  let w := eb d.fmt
  es.zipIdx.flatMap fun e =>
    let b := rowBit d row e.2
    if w = 4 then
      (if e.2 % 2 = 0 then [(b / 8, BitVec.ofNat 8 (e.1 % 16 + es.getD (e.2 + 1) 0 % 16 * 16))] else [])
    else (leBytes e.1 (w / 8)).zipIdx.map fun q => (b / 8 + q.2, q.1)

/-- Bytes gathered into masked granules in the order in which each is first touched (R78). -/
def gather (d : Desc) (tid : Nat) (bs : List (Nat × Byte)) : List Piece :=
  bs.foldl (fun ps b =>
    let q := d.piece tid (b.1 / 64 * 512) 512
    let put := fun (p : Piece) =>
      { p with mask := p.mask ||| 2 ^ (b.1 % 64), data := listMod p.data (b.1 % 64) fun _ => b.2 }
    if ps.any fun p => p.tpn == q.tpn && p.pgo == q.pgo then
      ps.map fun p => if p.tpn == q.tpn && p.pgo == q.pgo then put p else p
    else ps ++ [put { q with data := List.replicate 64 0 }]) []

/-- Pieces in ascending tensor page order (R240), the order within a page kept. -/
def byPage (ps : List Piece) : List Piece :=
  ((ps.map (·.tpn)).eraseDups.mergeSort (fun a b => decide (a ≤ b))).flatMap fun t => ps.filter fun p => p.tpn == t

/-- Tensor pages of which every byte is written (R92). -/
def wholePages (psize : Nat) (ps : List Piece) : List Nat :=
  (ps.map (·.tpn)).eraseDups.filter fun t =>
    ((ps.filter fun p => p.tpn == t && p.mask == 2 ^ 64 - 1).length) * 64 == pageBytes psize

/-- The rows and columns of a tile's elements as an engine reads them. -/
def tileRows (t : Tile) (nr nc : Nat) : List (List Nat) :=
  (List.range nr).map fun i => (List.range nc).map fun j => t.at2 i j

/-! ## TLOAD, TSTORE, TGATH, TSCAT: the checks with the descriptor (R239, R240, R242) -/

/-- TLOAD (R239): the rows it reads. -/
def tloadPlan (place : Nat) (m : Cmd) (d : Desc) : Chk (List (List Nat) × Nat) :=
  let g := fun i => m.recw.getD i 0
  let nr := bits (g 3) 0 8 + 1
  let nc := bits (g 3) 8 8 + 1
  let df := bits (g 3) 16 4
  let sf := if bit (g 0) 24 then bits (g 0) 20 4 else d.fmt
  do
    need (eb sf == eb d.fmt && sf != 15 && df != 15) .shape 0
    need (convOk sf df && decide (bits (g 3) 20 3 ≤ 4) && (!bit (g 3) 23 || !intFmt df)) .shape 0
    need (!bit (g 4) 11 || decide (bits (g 4) 0 11 < place)) .badCont (g 4)
    boxCheck d (coordsOf m.recw) nr nc
    pure (boxRows (coordsOf m.recw) nr, nc)

/-- TSTORE (R240): the granules it writes, in tile row order, those of a LOGGED tensor page by page. -/
def tstorePlan (c : Cell) (m : Cmd) (d : Desc) : Chk (List Piece) :=
  let g := fun i => m.recw.getD i 0
  do
    let t ← c.operand (g 0)
    need (t.fmt == d.fmt) .shape 0
    boxCheck d (coordsOf m.recw) t.rows t.cols
    need (eb d.fmt != 4 || (bits (g 1) 0 32 % 2 == 0 && t.cols % 2 == 0)) .shape 0
    need (d.attr != 2) .permission 0
    need (!t.poison && !(d.peer && t.badBox t.rows t.cols)) .poison 0
    let rows := boxRows (coordsOf m.recw) t.rows
    let ps := gather d (bits (g 3) 0 20) ((rows.zip (tileRows t t.rows t.cols)).flatMap fun r => rowBytes d r.1 r.2)
    pure (if d.attr = 0 && !d.peer then byPage ps else ps)

/-- The indices of TGATH and TSCAT in row-major order. -/
def indexList (t : Tile) : List Int := (List.range (t.rows * t.cols)).map fun i => sext 32 (t.readEl i)

/-- The first coordinates of row v (R242): none where the row lies beyond the tensor. -/
def rowAt (d : Desc) (l : Nat) (v : Int) : Option (List Nat) :=
  if v < 0 then none
  else if d.rank = 1 then
    (if (v.toNat + 1) * l ≤ d.dim 0 then some [v.toNat * l, 0, 0, 0] else none)
  else if l ≤ d.dim 0 && v.toNat < d.dim 1 then some [0, v.toNat, 0, 0] else none

/-- The rows that an index tile names, each checked before any moves (R242): SHAPE with the place of the first
that fails. -/
def rowsOf (d : Desc) (l : Nat) : Nat → List Int → Chk (List (List Nat))
  | _, [] => .ok []
  | j, v :: vs =>
    match rowAt d l v with
    | none => .error (.shape, word j)
    | some r => match rowsOf d l (j + 1) vs with
      | .error e => .error e
      | .ok rs => .ok (r :: rs)

/-- What TGATH and TSCAT have in common (R242): their rows, the row length and the data tile. -/
def rowPlan (c : Cell) (m : Cmd) (d : Desc) (scatter : Bool) : Chk (List (List Nat) × Nat × Tile) :=
  let g := fun i => m.recw.getD i 0
  let l := bits (g 2) 0 16
  do
    let ix ← c.operand (g 1)
    need (ix.fmt == 10) .shape 0
    need (decide (1 ≤ l) && decide (l ≤ 256) && decide (d.rank ≤ 2)) .shape 0
    let t ← c.operand (g 3)
    need (decide (ix.rows * ix.cols ≤ t.rows) && decide (l ≤ t.cols) && t.fmt == d.fmt) .shape 0
    need (!scatter || eb d.fmt != 4 || l % 2 == 0) .shape (word l)
    let rows ← rowsOf d l 0 (indexList ix)
    pure (rows, l, t)

/-- TSCAT (R242): its masked granules, row by row. -/
def tscatPieces (d : Desc) (tid : Nat) (rows : List (List Nat)) (es : List (List Nat)) : List Piece :=
  (rows.zip es).zipIdx.flatMap fun r => (gather d tid (rowBytes d r.1.1 r.1.2)).map fun p => { p with elem := r.2 }

/-- The tensor id of a command that uses one. -/
def Cmd.tid (m : Cmd) : Nat := bits (m.recw.getD (if m.op = .tstore then 3 else 0) 0) 0 20

/-- The fields of a record that no rule gives a meaning are zero (R146). -/
def copyRecord (m : Cmd) : Chk Unit :=
  let g := fun i => m.recw.getD i 0
  match m.op with
  | .tload =>
    need (only (g 0) [(0, 20), (20, 4), (24, 1)] && only (g 3) [(0, 8), (8, 8), (16, 4), (20, 3), (23, 1)] &&
      only (g 4) [(0, 11), (11, 1)]) .shape 0
  | .tstore => need (only (g 3) [(0, 20)]) .shape 0
  | .tgath | .tscat => need (only (g 0) [(0, 20)] && only (g 2) [(0, 16)]) .shape 0
  | .tcopy => need (only (g 1) [(0, 11)] && only (g 2) [(0, 2)] && bits (g 2) 0 2 != 3) .shape 0
  | _ => need (only (g 0) [(0, 4), (8, 8), (16, 8), (28, 2), (53, 11)] && bits (g 0) 28 2 == 2 && only (g 1) [(0, 32)]) .shape 0

/-- The cell on which a copy command creates its tile (R239, R241, R243), by its record. -/
def State.copyDest (s : State) (m : Cmd) : Nat :=
  let g := fun i => m.recw.getD i 0
  let place := (s.cx m.who.cell m.who.ctx).place
  match m.op with
  | .tload => if bit (g 4) 11 then place.getD (bits (g 4) 0 11) m.who.cell else m.who.cell
  | .tcopy => place.getD (bits (g 1) 0 11) m.who.cell
  | .tfill => place.getD (vcellOf (g 0)) m.who.cell
  | _ => m.who.cell

/-- The ring direction that a TCOPY names (R241). -/
def Cmd.way (m : Cmd) : Option Bool :=
  if m.op = .tcopy then (match bits (m.recw.getD 2 0) 0 2 with | 1 => some true | 2 => some false | _ => none) else none

/-- A copy command's tile (R237): made at once on its own cell, else asked for on VN0 of the cell that it names. -/
def State.askTile (s : State) (r : Run) (fmt rows cols : Nat) : Chk (State × Run) :=
  let w := r.cmd.who
  let d := s.copyDest r.cmd
  if d = w.cell then s.makeTile d r fmt rows cols
  else
    .ok (s.inject { vn := 0, src := w.cell, dst := d, ctx := w.ctx, counts := false, force := r.cmd.way,
                    body := .alloc r.cmd.uid fmt rows cols w }, { r with asked := true })

/-- Elements in block rows whose check value is not that of their bytes (R359): a TCOPY that reads them takes them as
uncorrectable, and so does a store of them over Septord. -/
def Tile.mismatched (t : Tile) : List Nat :=
  if t.unchecked.isEmpty then []
  else (List.range (t.rows * t.cols)).filter fun e =>
    t.unchecked.contains (t.rowOfEl e) && !t.bad.contains e

/-- A tile checked as it is read by a TCOPY (R359): what does not match is uncorrectable from then on, and recorded. -/
def State.checkTile (s : State) (m : Cmd) (h : Word) : State :=
  let c := m.who.cell
  let bad := ((s.cell c).named (indexOf h) (genOf h)).mismatched
  if bad.isEmpty then s
  else (s.modCell c fun d => d.modNamed (indexOf h) (genOf h) fun t =>
    { t with bad := t.bad ++ bad, unchecked := [] }).errRec 0x07 (s.cx c m.who.ctx).part c m.who.ctx h 0

/-- A command whose descriptor has been read, opened: run and operation, or its fault. -/
def State.copyPlan (s : State) (r : Run) (o : MemOp) (d : Desc) (ws : List Word) : Chk (State × Run × MemOp) :=
  let m := r.cmd
  let x := m.who.cell
  let c := (s.cell x).readBy m.uid
  let tid := m.tid
  let place := (s.cx x m.who.ctx).place
  match m.op with
  | .tload => do
    let p ← tloadPlan place.length m d
    let k ← s.accessKey o.inst.1 d
    let g3 := m.recw.getD 3 0
    let q ← s.askTile r (bits g3 16 4) (bits g3 0 8 + 1) (bits g3 8 8 + 1)
    let o := o.settle d ws k (readPieces d tid p.2 p.1)
    pure (q.1, q.2, { o with kind := .cread, rows := p.1 })
  | .tstore => do
    let s := if d.peer then s.checkTile m (m.recw.getD 0 0) else s
    let c := (s.cell x).readBy m.uid
    let ps ← tstorePlan c m d
    let k ← s.accessKey o.inst.1 d
    let o := o.settle d ws k ps
    let t := c.named (indexOf (m.recw.getD 0 0)) (genOf (m.recw.getD 0 0))
    let q := s.logBad { r with poisoned := t.badBox t.rows t.cols } (c.badRead [(m.recw.getD 0 0, t.rows, t.cols)])
    pure (q.1, q.2,
      { o with kind := .cwrite, covered := if d.attr = 0 && !d.peer then wholePages d.psize ps else [] })
  | .tgath => do
    let p ← rowPlan c m d false
    let k ← s.accessKey o.inst.1 d
    let ix := c.named (indexOf (m.recw.getD 1 0)) (genOf (m.recw.getD 1 0))
    let o := o.settle d ws k (readPieces d tid p.2.1 p.1)
    let q := s.logBad { r with value := m.recw.getD 3 0, poisoned := ix.taints ix.rows ix.cols }
      (c.badRead [(m.recw.getD 1 0, ix.rows, ix.cols)])
    pure (q.1, q.2, { o with kind := .cread, rows := p.1 })
  | _ => do
    let s := if d.peer then s.checkTile m (m.recw.getD 3 0) else s
    let c := (s.cell x).readBy m.uid
    let p ← rowPlan c m d true
    let nr := p.1.length
    need (d.attr != 2) .permission 0
    need (!p.2.2.poison && !(d.peer && p.2.2.badBox nr p.2.1)) .poison 0
    let k ← s.accessKey o.inst.1 d
    let ix := c.named (indexOf (m.recw.getD 1 0)) (genOf (m.recw.getD 1 0))
    let o := o.settle d ws k (tscatPieces d tid p.1 (tileRows p.2.2 nr p.2.1))
    let q := s.logBad { r with poisoned := ix.taints ix.rows ix.cols || p.2.2.badBox nr p.2.1 }
      (c.badRead [(m.recw.getD 1 0, ix.rows, ix.cols), (m.recw.getD 3 0, nr, p.2.1)])
    pure (q.1, q.2, { o with kind := .cwrite, rows := p.1 })

/-- The descriptor of a command in execution is read and the command opened (R74, R234). -/
def State.openCopy (s : State) (o : MemOp) : State :=
  match s.copyRun o with
  | none => s.dropOps fun q => q.id == o.id
  | some r =>
    s.withDesc o r.cmd.tid fun s d ws =>
      match s.copyPlan r o d ws with
      | .error e => s.failCopy o e.1 e.2 0
      | .ok p => (p.1.setRun o.who.cell o.id (some { p.2.1 with opened := true })).modOp o.id fun _ => p.2.2

/-! ## TCOPY and TFILL (R241, R243) -/

/-- The A48 word of an FP32 pattern and the flags of its conversion (R127). -/
def fillA48 (v : Nat) : Nat × Fl := fp32.toFloat a48 0 0 false v

/-- The element that TFILL writes, and its flags (R243). -/
def fillEl (fmt v : Nat) : Nat × Fl := if fmt = 9 then fillA48 v else (if eb fmt = 64 then v else v % 2 ^ eb fmt, 0)

/-- A run that knows the elements of its tile: on its own cell they are written at once, to another one they go in transfers. -/
def State.giveEls (s : State) (r : Run) (els : List Word) : State × Run :=
  if r.asked then (s, { r with out := some els })
  else (s.fillMade r els, { r with ready := true, op := none })

/-- TCOPY or TFILL taken: the state and run, or the fault. A TCOPY reads its source later, part by part (R206). -/
def State.copyNow (s : State) (c : Nat) (m : Cmd) : Chk (State × Run) :=
  let g := fun i => m.recw.getD i 0
  let place := (s.cx c m.who.ctx).place
  let r : Run := { cmd := m }
  if m.op = .tcopy then do
    need (decide (bits (g 1) 0 11 < place.length)) .badCont (g 1)
    let t ← (s.cell c).operand (g 0)
    let q ← s.askTile { r with poisoned := t.poison } t.fmt t.rows t.cols
    pure (q.1, { q.2 with count := t.rows * t.cols })
  else do
    need (decide (vcellOf (g 0) < place.length)) .badCont (g 0)
    let fmt := bits (g 0) 0 4
    need (fmt != 15) .shape 0
    let nr := bits (g 0) 8 8 + 1
    let nc := bits (g 0) 16 8 + 1
    let q ← s.askTile r fmt nr nc
    let e := fillEl fmt (bits (g 1) 0 32)
    pure (q.1.giveEls { q.2 with count := nr * nc, flags := e.2 } (List.replicate (nr * nc) (word e.1)))

/-! ## COPY_TAKE (R234, R236) -/

/-- Acquires of the command's firing that were issued before it are pending (R215, R236). -/
def State.acqBefore (s : State) (m : Cmd) : Bool :=
  s.ops.any fun o => o.kind.acquires && o.who.serial == m.who.serial && o.who.cell == m.who.cell && decide (o.id < m.uid)

/-- A command in execution writes a tile that this one names, or reads one that it writes (R236). -/
def Cell.tileBusy (c : Cell) (m : Cmd) : Bool :=
  c.copies.any fun r => !r.ready &&
    (m.named.any (fun n => r.cmd.writes.contains n.1) || r.cmd.named.any fun n => m.writes.contains n.1)

/-- A run joins those in execution. -/
def State.addCopy (s : State) (c : Nat) (r : Run) : State := s.modCell c fun d => { d with copies := d.copies ++ [r] }

/-- A command that fails at take. -/
def State.refuseCopy (s : State) (c : Nat) (m : Cmd) (e : FaultCode × Word) : State :=
  match s.failRun { cmd := m } e.1 e.2 0 with
  | (s, some r) => s.addCopy c r
  | (s, none) => s

/-- COPY_TAKE (R234, R236): at most four commands are in execution. -/
def execCopyTake (cell : Nat) (s : State) : Host.Outcome State Fault Refusal :=
  .next (let c := s.cell cell
    match if s.runs cell && decide (c.copies.length < 4) then c.copyq else [] with
    | [] => s
    | m :: q =>
      if s.acqBefore m || c.tileBusy m then s
      else
        let s := (s.modCell cell fun d => { d with copyq := q }).retainCmd cell m
        match copyRecord m with
        | .error e => s.refuseCopy cell m e
        | .ok _ =>
          if m.op = .tcopy || m.op = .tfill then
            (match s.copyNow cell m with
             | .error e => s.refuseCopy cell m e
             | .ok p => p.1.addCopy cell p.2)
          else
            let o : MemOp := { id := m.uid, kind := if m.op = .tstore || m.op = .tscat then .cwrite else .cread,
                               who := m.who, inst := (s.cx cell m.who.ctx).inst.getD (0, 0), recw := m.recw }
            let s := s.addCopy cell { cmd := m, op := some m.uid }
            { s with ops := s.ops ++ [o] }.openCopy o)

/-! ## What a command has read or written -/

/-- The descriptor of an operation that has been opened. -/
def MemOp.desc (o : MemOp) : Option Desc := (descCheck o.dw).toOption

/-- Elements of row i of an operation, from what it has read. -/
def MemOp.rowEls (o : MemOp) (d : Desc) (i n : Nat) : List Nat :=
  let ps := o.pieces.filter fun p => p.elem == i
  (List.range n).map fun j => readEl d ps (rowBit d (o.rows.getD i []) j)

/-- Rows of an operation whose accesses are done: a prefix. -/
def MemOp.rowsDone (o : MemOp) : Nat :=
  match o.pieces.find? fun p => !p.back with
  | some p => p.elem
  | none => o.rows.length

/-- TLOAD with all it reads (R239): the tile is filled with converted elements. -/
def State.finishLoad (s : State) (o : MemOp) (r : Run) (d : Desc) : State :=
  let g := fun i => r.cmd.recw.getD i 0
  let nc := bits (g 3) 8 8 + 1
  let sf := if bit (g 0) 24 then bits (g 0) 20 4 else d.fmt
  let els := (List.range o.rows.length).map fun i => o.rowEls { d with fmt := sf } i nc
  let e := convRows sf (bits (g 3) 16 4) (bits (g 3) 20 3) (bit (g 3) 23) els (seedAll r.cmd.seed)
  let q := s.giveEls { r with flags := r.flags ||| e.2, count := e.1.length } e.1
  q.1.setRun o.who.cell o.id (some { q.2 with op := none })

/-- TGATH with more rows read (R242): rows are written in ascending order, the count follows them. What another command in flight reads of
the tile is, element by element, from before or after (R236). -/
def State.advanceRows (s : State) (o : MemOp) (r : Run) (d : Desc) : State :=
  let h := r.cmd.recw.getD 3 0
  let l := bits (r.cmd.recw.getD 2 0) 0 16
  let n := o.rowsDone
  let put := fun (t : Tile) => (List.range (n - r.count)).foldl (fun t i =>
    t.engineSets s.serial r.cmd.uid ((r.count + i) * t.cols) ((o.rowEls d (r.count + i) l).map word)) { t with poison := t.poison || r.poisoned }
  let s := if n = r.count then s else s.modCell o.who.cell fun c => c.modNamed (indexOf h) (genOf h) put
  let all := decide (n = o.rows.length)
  s.setRun o.who.cell o.id (some { r with count := n, ready := all, op := if all then none else r.op })

/-- The accesses of a reading command have got further. -/
def State.copyRead (s : State) (id : Nat) : State :=
  match s.op? id with
  | none => s
  | some o => match s.copyRun o, o.desc with
    | some r, some d =>
      let all := o.pieces.all (·.back)
      let s := if r.cmd.op = .tgath then s.advanceRows o r d
        else if all then s.finishLoad o r d else s
      if all then s.dropOps fun q => q.id == id else s
    | _, _ => s

/-- The entries of a writing command have got further: `n` more were appended (R240, R242). -/
def State.copyWrote (s : State) (id n : Nat) : State :=
  match s.op? id with
  | none => s
  | some o => match s.copyRun o with
    | none => s
    | some r =>
      let all := o.pieces.all (·.back) && !o.opened
      let s := s.setRun o.who.cell id (some { r with count := r.count + n, ready := all, op := if all then none else r.op })
      if all then s.dropOps fun q => q.id == id else s

/-- Elements of a row that a reading command takes. -/
def Cmd.rowLength (m : Cmd) : Nat := if m.op = .tgath then bits (m.recw.getD 2 0) 0 16 else bits (m.recw.getD 3 0) 8 8 + 1

/-- A command has read a granule of a tensor with uncorrectable bytes (R238): where elements of its row lie in them it is POISONED, and
the first of them is logged by its coordinates. -/
def State.copyPoison (s : State) (o : MemOp) (p : Piece) : State :=
  match s.copyRun o, o.desc with
  | some r, some d =>
    let row := o.rows.getD p.elem []
    let at' := p.tpn * pageBytes d.psize + p.pgo
    let hit := fun (b : Nat) => (List.range ((b % 8 + eb d.fmt + 7) / 8)).any fun i =>
      decide (at' ≤ b / 8 + i) && p.bad.testBit (b / 8 + i - at')
    match (List.range r.cmd.rowLength).find? fun j => hit (rowBit d row j) with
    | none => s
    | some j =>
      let g := fun i => (elCoords row j).getD i 0
      let q := s.poisonRec r (word (p.tid + g 0 * 2 ^ 20)) (word (g 1 % 2 ^ 21 + g 2 % 2 ^ 21 * 2 ^ 21 + g 3 % 2 ^ 21 * 2 ^ 42))
      q.1.setRun o.who.cell o.id (some { q.2 with poisoned := true })
  | _, _ => s

/-! ## Transfers of a new tile (R237, R241, R347) -/

/-- Elements of one transfer: as many of a row as four granules hold. -/
def xferEls (fmt : Nat) : Nat := Nat.max 1 (2048 / eb fmt)

/-- Transfers of a tile. -/
def xfers (fmt rows cols : Nat) : Nat := rows * ceilDiv cols (xferEls fmt)

/-- The first element of a transfer, and how many it has. -/
def xferAt (fmt cols k : Nat) : Nat × Nat :=
  let n := ceilDiv cols (xferEls fmt)
  let j := k % n * xferEls fmt
  (k / n * cols + j, Nat.min (xferEls fmt) (cols - j))

/-- Format, rows and columns of the tile that a copy command makes. -/
def Cell.newShape (c : Cell) (m : Cmd) : Nat × Nat × Nat :=
  let g := fun i => m.recw.getD i 0
  match m.op with
  | .tload => (bits (g 3) 16 4, bits (g 3) 0 8 + 1, bits (g 3) 8 8 + 1)
  | .tcopy => let t := c.named (indexOf (g 0)) (genOf (g 0)); (t.fmt, t.rows, t.cols)
  | _ => (bits (g 0) 0 4, bits (g 0) 8 8 + 1, bits (g 0) 16 8 + 1)

/-- The elements of a transfer: those that the command has, or as a TCOPY reads them of its source now (R206, R238, R359). -/
def State.xferData (s : State) (c : Nat) (r : Run) (first n : Nat) : State × Run × List Word :=
  match r.out with
  | some es => (s, r, (es.drop first).take n)
  | none =>
    let h := r.cmd.recw.getD 0 0
    let s := s.checkTile r.cmd h
    let t := ((s.cell c).readBy r.cmd.uid).named (indexOf h) (genOf h)
    let is := (List.range n).map (first + ·)
    let bad := is.any t.bad.contains
    let q := s.logBad { r with poisoned := r.poisoned || bad } (if bad then some h else none)
    (q.1, q.2, is.map fun i => word (t.readEl i))

/-- A transfer of the tile of a run stands where the tile is: the last one ends the command's work. -/
def Run.land (r : Run) (total : Nat) : Run :=
  { r with landed := r.landed + 1, ready := r.ready || decide (total ≤ r.landed + 1) }

/-- A copy command makes the next transfer of its new tile: on its own cell the elements are written, to another one they travel. -/
def State.xfer (s : State) (c : Nat) (r : Run) : State :=
  match r.made with
  | none => s
  | some (d, i, g) =>
    let sh := (s.cell c).newShape r.cmd
    let total := xfers sh.1 sh.2.1 sh.2.2
    if r.ready || total ≤ r.passed || (r.cmd.op != .tcopy && r.out.isNone) then s
    else
      let k := xferAt sh.1 sh.2.2 r.passed
      let q := s.xferData c r k.1 k.2
      let r := { q.2.1 with passed := r.passed + 1 }
      if d = c then (q.1.modTile d i fun t => if t.gen == g then t.setEls k.1 q.2.2 else t).setRun c r.cmd.uid (some (r.land total))
      else (q.1.inject { vn := 2, src := c, dst := d, ctx := r.cmd.who.ctx, counts := false, force := r.cmd.way,
                         flits := granules sh.1 k.2, chks := elChks sh.1 q.2.2, body := .tile r.cmd.uid i g k.1 q.2.2 r.cmd.who }).setRun c r.cmd.uid (some r)

/-- The request of a copy command for a tile is performed on its cell (R197, R237): HEAP_EXHAUSTED's detail or the tile go back. -/
def State.allocHere (s : State) (p : Packet) (uid fmt rows cols : Nat) (w : Issuer) : State :=
  let t : Tile := { ctx := w.ctx, fmt := fmt, rows := rows, cols := cols, count := 1, hidden := true, region := regionOf w.tag }
  let back := fun (s : State) (x : Except Nat (Nat × BitVec 8)) =>
    s.inject { vn := 3, src := p.dst, dst := p.src, ctx := p.ctx, counts := false, force := p.force, body := .allocated uid x w }
  if (s.cx p.dst p.ctx).inst.isNone || (regionOf w.tag != 0 && (s.cx p.dst p.ctx).regions.get? (regionOf w.tag) == some .failed) then s
  else match (s.cell p.dst).heap.alloc t with
    | .error n => back s (.error n)
    | .ok (i, h) =>
      let s := s.modCell p.dst fun c => { c with heap := h }
      back s (.ok (i, ((s.cell p.dst).tile i).gen))

/-- A run of the copy engine of a cell by its command's number. -/
def Cell.copyOf (c : Cell) (uid : Nat) : Option Run := c.copies.find? fun r => r.cmd.uid == uid

/-- The answer to such a request reaches the command (R234, R237); a tile for a command that has failed since is freed. -/
def State.allocated (s : State) (p : Packet) (uid : Nat) (x : Except Nat (Nat × BitVec 8)) : State :=
  match (s.cell p.dst).copyOf uid, x with
  | some r, .ok (i, g) =>
    let r := { r with made := some (p.src, i, g) }
    if r.failed.isSome then s.dropMade r else s.setRun p.dst uid (some r)
  | some r, .error n =>
    if r.failed.isSome then s
    else
      let s := s.dropOps fun o => o.id == uid
      let q := s.failRun r .heapExhausted (word n) 0
      q.1.setRun p.dst uid q.2
  | none, .ok (i, g) => s.modCell p.src fun d => if (d.tile i).live && (d.tile i).gen == g then d.freeTile i else d
  | none, .error _ => s

/-- A transfer reaches its tile, and is acknowledged (R347, R359). -/
def State.tileHere (s : State) (p : Packet) (uid i : Nat) (g : BitVec 8) (first : Nat) (els : List Word) (w : Issuer) : State :=
  (s.modTile p.dst i fun t => if t.live && t.gen == g then t.setEls first els else t).inject
    { vn := 3, src := p.dst, dst := p.src, ctx := p.ctx, counts := false, force := p.force, body := .tileAck uid w }

/-- The acknowledgement of a transfer reaches the command. -/
def State.tileAcked (s : State) (c uid : Nat) : State :=
  match (s.cell c).copyOf uid with
  | none => s
  | some r =>
    let sh := (s.cell c).newShape r.cmd
    s.setRun c uid (some (r.land (xfers sh.1 sh.2.1 sh.2.2)))

/-! ## COMMAND_COMPLETE (R235, R236) -/

/-- The head of a list of commands completes once it is ready. -/
def State.completeHead (s : State) (runs : List Run) (rest : State → List Run → State) : State :=
  match runs with
  | [] => s
  | r :: rs => if r.ready && !s.draining r then (rest s rs).completeRun r else s

/-- COMMAND_COMPLETE (R235, R236, R254, R262): the next command of an engine in its order. -/
def execCommandComplete (cell : Nat) (engine : Engine) (s : State) : Host.Outcome State Fault Refusal :=
  .next (if !s.runs cell then s
    else match engine with
      | .copy => s.completeHead (s.cell cell).copies fun s rs => s.modCell cell fun c => { c with copies := rs }
      | .matrix => s.completeHead (s.cell cell).matrix.runs fun s rs =>
        s.modCell cell fun c => { c with matrix := { c.matrix with runs := rs } }
      | .reducer =>
        let s := s.settleReduction cell
        s.completeHead (s.cell cell).reducer.ended fun s rs => s.modRed cell fun x => { x with ended := rs }
      | .vector => s.endKernel cell)

end Sys2Proof.Machine
end

