-- ==== Sys2Proof/Machine/Serve.lean ====
section
/-! DEFINITION. Memory operations at the stacks: walks, loads, stores into the logs, releases and far atomics
(R78 to R83, R89, R90, R92, R97, R98, R209 to R214, R316). -/

namespace Sys2Proof.Machine

/-- TRANSLATION_WALK (R70, R74, R316, R318, R370): an operation that has not been checked is checked first. -/
def execTranslationWalk (op chunk : Nat) (s : State) : Host.Outcome State Fault Refusal :=
  .next (match s.op? op with
    | none => s
    | some o =>
      if !o.kind.tensor || !o.behind.isEmpty || !s.runs o.who.cell || o.dpark.any (fun d => d.2 != 0) then s
      else
        let s := if o.checked then s else if o.kind.engine then s.openCopy o else s.openAccess o
        match s.op? op with
        | none => s
        | some o => if o.checked then s.walk o chunk else s)

/-! ## Loads (R81, R89, R97, R209, R210, R238, R355) -/

/-- A granule whose storage is uncorrectable or whose metadata marks it poisoned (R355). -/
def State.granBad (s : State) (g : Nat) : Bool := s.gpoison.contains g

/-- The bytes of a granule that are uncorrectable, as a mask: none of a granule that is not poisoned (R238, R355). -/
def State.granMask (s : State) (g : Nat) : Nat := if s.granBad g then s.gbad.getD g (2 ^ 64 - 1) else 0

/-- A write of a granule through a mask that checks the old bytes it keeps (R359): a mismatch is recorded (R358). -/
def State.mergeChecked (s : State) (key : Option (BitVec 512)) (g : Nat) (bs : List Byte) (mask : Nat) : State :=
  let bad := mask ≠ 0 && mask ≠ 2 ^ 64 - 1 && s.unchecked.contains g && !s.granBad g
  (if bad then s.errRec 0x07 8 0 0 (word (g * 64)) 0 else s).mergeGran key g bs mask

/-- The check of a granule that an engine, a host interface or a Septord port reads (R359): one whose check value is not that of
its bytes is marked poisoned and recorded. -/
def State.checkGran (s : State) (g : Nat) : State :=
  if !s.unchecked.contains g || s.granBad g then s
  else { s with gpoison := s.gpoison ++ [g], unchecked := s.unchecked.filter (· != g) }.errRec 0x07 8 0 0 (word (g * 64)) 0

/-- A load must wait: an SC page with publish messages that touch the granule still to be applied (R97). -/
def State.scWait (s : State) (o : MemOp) (st g : Nat) : Bool := o.attr == 1 && (s.stack st).touches g

/-- The value of an LDG (R209): its elements packed. -/
def MemOp.loaded (o : MemOp) (p : Piece) (bs : List Byte) : Word :=
  let w := match o.desc with | some d => eb d.fmt | none => 8
  word (leNat bs / 2 ^ p.nib % 2 ^ (p.nel * w))

/-- Piece `k` of a load served at an agent with its bytes, of which a mask tells the uncorrectable ones: its answer leaves for the cell. -/
def State.served (s : State) (a : Nat) (o : MemOp) (k : Nat) (p : Piece) (bs : List Byte) (bad : Nat) : State :=
  if o.kind.engine then
    (s.modPiece o.id k fun q => { q with done := true, data := bs, bad := bad }).sendAnswer a o k 1 (bad != 0) [some (crc16 bs)]
  else if bad ≠ 0 then s.refuseAt a o k .poison 0 0
  else ((s.modPiece o.id k fun q => { q with done := true }).modOp o.id fun q => { q with result := some (o.loaded p bs) }).sendAnswer a o k

/-- The request of a piece stands at its stack, which has not performed it. -/
def State.atStack (s : State) (o : MemOp) (p : Piece) : Bool := s.runs o.who.cell && p.asked == .there && !p.done && o.peer.isNone

/-- LOAD_SERVE (R81, R89, R97). -/
def execLoadServe (op chunk : Nat) (s : State) : Host.Outcome State Fault Refusal :=
  .next (match s.op? op with
    | none => s
    | some o => match o.pieces[chunk]? with
      | none => s
      | some p => match p.xl with
        | .at pa =>
          let st := stackOf pa
          if (o.kind != .ldg && o.kind != .cread) || !s.atStack o p || s.scWait o st (granOf pa) then s
          else
            let s := if o.kind.engine then s.checkGran (granOf pa) else s
            s.served (stackPort o.who.cell st) o chunk p (s.loadBytes (s.logOf o.who) (some o.key) pa p.len) (s.granMask (granOf pa))
        | _ => s)

/-- LDCH_HOP (R212): one link word read at its home stack, which forwards the walk or answers the cell. -/
def execLdchHop (op : Nat) (s : State) : Host.Outcome State Fault Refusal :=
  .next (match s.op? op with
    | none => s
    | some o => match o.pieces[0]?, o.desc with
      | some p, some d =>
        (match p.xl with
         | .at pa =>
           let st := stackOf pa
           if o.kind != .ldch || !s.atStack o p || s.scWait o st (granOf pa) then s
           else
             let h := bits (o.recw.getD 3 0) 0 8
             let lw := bits (o.recw.getD 3 0) 8 3
             let a := stackPort o.who.cell st
             let reply := fun (ended : Bool) (j c : Nat) =>
               ((s.modPiece op 0 fun q => { q with done := true }).modOp op fun q =>
                 { q with result := some (word (ended.toNat * 2 ^ 63 + j * 2 ^ 32 + c)) }).sendAnswer a o 0
             if h = 0 then reply false 0 o.cur
             else if s.granBad (granOf pa) then s.refuseAt a o 0 .poison 0 0
             else
               let l := leNat (s.loadBytes (s.logOf o.who) (some o.key) pa 8)
               if l = 2 ^ 64 - 1 then reply true o.hops o.cur
               else if l % 8 ≠ 0 || d.dim 0 < l + 8 * lw + 8 then s.refuseAt a o 0 .shape (word l) 0
               else if o.hops + 1 = h then reply false h l
               else s.modOp op fun q => { q with
                 hops := q.hops + 1
                 cur := l
                 there := BitVec.ofNat 16 (2 ^ st)
                 pieces := [d.piece p.tid (8 * (l + 8 * lw)) 64] }
         | _ => s)
      | _, _ => s)

/-! ## Stores (R77, R78, R80, R90, R92, R97) -/

/-- A store outside the engines has all its entries (R80): its token is sent. -/
def State.finishStore (s : State) (o : MemOp) : State :=
  let s := (s.dropOps fun q => q.id == o.id).lowerOut o.who.cell o.who.ctx 1
  match o.cont with
  | none => s
  | some k => s.sendReply o.who.cell o.who k 0

/-- `n` more entries of a store stand and are known to: what follows for its operation. -/
def State.stored (s : State) (id n : Nat) : State :=
  match s.op? id with
  | none => s
  | some o =>
    if o.kind.engine then s.copyWrote id n
    else if o.opened || !o.pieces.all (·.back) then s else s.finishStore o

/-- The data of a piece of a TSTORE or TSCAT as its source tile holds it now (R206): an HST since the command was opened may have
changed the tile. -/
def State.lateData (s : State) (o : MemOp) (k : Nat) (p : Piece) : Piece :=
  match s.copyRun o, o.desc with
  | some r, some d =>
    let m := r.cmd
    let c := s.cell o.who.cell
    let h := m.recw.getD (if m.op = .tscat then 3 else 0) 0
    if (c.named (indexOf h) (genOf h)).olds.isEmpty || (p.xl == .todo && o.peer.isNone) then p
    else
      let ps : Chk (List Piece) := match m.op with
        | .tstore => tstorePlan (c.readBy m.uid) m d
        | .tscat => (rowPlan (c.readBy m.uid) m d true).map fun q => tscatPieces d m.tid q.1 (tileRows q.2.2 q.1.length q.2.1)
        | _ => .ok o.pieces
      match ps with
      | .ok ps => { p with data := ((ps[k]?).map (·.data)).getD p.data }
      | .error _ => p
  | _, _ => p

/-- Shadow pages given to the pages that fit the shadow path, and their data written (R92). -/
def State.giveShadows (s : State) (o : MemOp) (pages : List (Nat × Nat)) : State :=
  let pageOf := fun (p : Piece) => (pages.find? fun e => e.1 == p.tpn).map (·.2)
  let s := o.pieces.zipIdx.foldl (fun s e => match pageOf e.1 with
    | some pg => s.wrGran (some o.key) ((pg + e.1.pgo) / 64) (s.lateData o e.2 e.1).data
    | none => s) s
  s.modOp o.id fun q => { q with
    covered := []
    pieces := q.pieces.map fun p => match pageOf p, p.xl with
      | some pg, .at pa => { p with xl := .shadow pg, old := pa - p.pgo }
      | _, _ => p }

/-- The choice of path of the pages that a TSTORE covers whole (R92), once all of them are translated: none
while one is not. SHADOW_EXHAUSTED where the reserve is short. -/
def State.choosePath (s : State) (o : MemOp) : Option State :=
  if o.covered.isEmpty then some s
  else if !(o.pieces.all fun p => !o.covered.contains p.tpn || p.stack.isSome) then none
  else
    let f := o.inst.1
    let free := (s.fn f).shadow.filter fun e => e.1 == o.psize
    if free.length < o.fit.length then some (s.failAccess o .shadowExhausted 0 0)
    else
      let pages := o.fit.zip (free.map (·.2))
      let s := s.modFn f fun k => { k with shadow := k.shadow.filter fun e => !pages.any fun q => e == (o.psize, q.2) }
      some (s.giveShadows o pages)

/-- The entry of a piece: DATA, or a REMAP for a shadow page (R77). -/
def MemOp.entry (o : MemOp) (p : Piece) (pa : Nat) : Entry :=
  match p.xl with
  | .shadow pg =>
    let ws : List Word := [word (p.gpa - p.pgo), word pg, word o.psize, 0, 0, 0, 0, 0]
    { kind := .remap, data := BitVec.ofNat 512 (leNat (wordBytes ws)), gran := p.old / 64, region := regionOf o.who.tag,
      check := crc16 (wordBytes ws), key := some o.key, gpa := p.gpa - p.pgo, size := o.psize, fn := o.inst.1 }
  | _ => dataEntry (granOf pa) p.data p.mask (regionOf o.who.tag) (some o.key) p.gpa

/-- The pieces that one entry stands for: the piece, or every piece of its shadow page. -/
def Piece.covers (p q : Piece) : Bool :=
  match p.xl with
  | .shadow _ => p.xl == q.xl
  | _ => false

/-- An entry of a store appended (R78), which its stack acknowledges; on an SC page it is published at once, and acknowledged once it is
applied (R97). -/
def State.appendPiece (s : State) (o : MemOp) (k : Nat) (p : Piece) (st pa : Nat) : State :=
  let log := s.logOf o.who
  let s := s.appendEntry st log (o.entry p pa)
  let s := (s.modPiece o.id k fun q => { q with done := true, wait := none }).modOp o.id fun q =>
    { q with opened := q.attr == 1, pieces := q.pieces.map fun r => if p.covers r then { r with done := true } else r }
  if o.attr = 1 then s.publish st log .sc (s.cx o.who.cell o.who.ctx).rseq o.who.ia o.id o.who.tag o.who.faulty
  else s.stackAnswer st o k

/-- The paths chosen, where the operation may go at all. -/
def State.choosePathOf (s : State) (o : MemOp) : Option State :=
  if o.behind.isEmpty && s.runs o.who.cell && o.checked && o.peer.isNone then s.choosePath o else some s

/-- LOG_ENTRY_APPEND (R78, R80, R90, R97): an entry that has come to its stack; one that finds its ring full begins to wait. -/
def execLogEntryAppend (op chunk : Nat) (s : State) : Host.Outcome State Fault Refusal :=
  .next (match s.op? op with
    | none => s
    | some o => match o.pieces[chunk]? with
      | none => s
      | some p => match p.stack with
        | none => s
        | some st =>
          let pa := match p.xl with | .at a => a | .shadow g => g | _ => 0
          if !o.kind.stores || o.opened || !s.atStack o p then s
          else if (s.sub st (s.logOf o.who)).full then
            s.modPiece op chunk fun q => { q with wait := some (q.wait.getD (s.ac o.who.cell)) }
          else s.appendPiece o chunk p st pa)

/-- STORE_RING_SPACE (R90): the wait of a store ends once its ring has space. -/
def execStoreRingSpace (op : Nat) (s : State) : Host.Outcome State Fault Refusal :=
  .next (match s.op? op with
    | none => s
    | some o => s.modOp op fun q => { q with
        pieces := q.pieces.map fun p => match p.stack with
          | some st => if (s.sub st (s.logOf o.who)).full then p else { p with wait := none }
          | none => p })

/-- A piece that has waited 2^20 ac on a ring of unpublished entries (R90). -/
def State.starved (s : State) (o : MemOp) (p : Piece) : Option Nat :=
  match p.stack, p.wait with
  | some st, some t =>
    let l := s.sub st (s.logOf o.who)
    if l.full && l.entries.all (fun e => !e.published) && decide (t + Config.logFullAc ≤ s.ac o.who.cell) && !p.done then some st
    else none
  | _, _ => none

/-- LOG_FULL (R90). -/
def execLogFull (op : Nat) (s : State) : Host.Outcome State Fault Refusal :=
  .next (match s.op? op with
    | none => s
    | some o => match o.pieces.findSome? (s.starved o) with
      | none => s
      | some st =>
        if s.runs o.who.cell then s.failAccess o .logFull (word st) (word (s.sub st (s.logOf o.who)).size) else s)

/-- An answer of an operation is on its way. -/
def State.answering (s : State) (op : Nat) : Bool := s.net.any fun p => match p.body with | .answer q _ _ => q == op | _ => false

/-- SC_STORE_APPLY (R97): the published segment of an SC store has been applied, and its stack acknowledges the store. -/
def execScStoreApply (op : Nat) (s : State) : Host.Outcome State Fault Refusal :=
  .next (match s.op? op with
    | none => s
    | some o => match o.pieces.zipIdx.find? fun e => e.1.done && !e.1.back with
      | none => s
      | some e =>
        if o.kind.stores && o.opened && s.runs o.who.cell && !s.answering op && !(s.hbm.toList.any fun k => k.segs.any fun g => g.op == op) then
          s.stackAnswer (e.1.stack.getD 0) o e.2
        else s)

/-! ## Releases (R82, R83, R90, R99) -/

/-- One stack as a mask. -/
def one16 (st : Nat) : BitVec 16 := BitVec.ofNat 16 (2 ^ st)

/-- A stack acknowledges a message of an operation (R82, R87, R88). -/
def State.ackTo (s : State) (st : Nat) (o : MemOp) : State :=
  (s.modOp o.id fun q => { q with pub := q.pub ||| one16 st }).inject
    { vn := 3, src := stackPort o.who.cell st, dst := o.who.cell, ctx := o.who.ctx, counts := false, body := .ack o.id st o.who }

/-- PUBLISH_MESSAGE (R82, R90): a message of a release that has come to a stack publishes there; a release that has not formed its
messages forms them once it can. -/
def execPublishMessage (op stack : Nat) (s : State) : Host.Outcome State Fault Refusal :=
  .next (match s.op? op with
    | none => s
    | some o =>
      let log := s.logOf o.who
      if (o.kind != .rel && o.kind != .closing) || !s.runs o.who.cell then s
      else if o.toInterim stack && o.there.getLsbD stack then
        (s.publish stack log .interim (s.cx o.who.cell o.who.ctx).rseq o.who.ia 0 o.who.tag o.who.faulty).modOp op fun q =>
          { q with interim := q.interim &&& ~~~one16 stack, there := q.there &&& ~~~one16 stack }
      else if !o.opened then s.openRel o
      else if !o.there.getLsbD stack || o.pub.getLsbD stack then s
      else (s.publish stack log .release o.rseq o.who.ia 0 o.who.tag o.who.faulty).ackTo stack o)

/-- Every stack has accepted the messages of a release, and every peer its stores (R82, R99). -/
def MemOp.accepted (o : MemOp) : Bool :=
  (o.kind == .rel || o.kind == .closing) && o.opened && (o.mask &&& ~~~o.acked) == 0 && o.peers.isEmpty

/-- The release token of vcell 0's closing release, which CRCLOSE answers with (R225). -/
def State.keepToken (s : State) (o : MemOp) : State :=
  if o.val = 0 || o.who.vcell ≠ 0 then s
  else s.modInst o.inst.1 o.inst.2 fun i => match i.regions.get? o.val.toNat with
    | some q => { i with regions := i.regions.put o.val.toNat { q with token := o.token } }
    | none => i

/-- RELEASE_ACCEPTED (R82, R99, R214). -/
def execReleaseAccepted (op : Nat) (s : State) : Host.Outcome State Fault Refusal :=
  .next (match s.op? op with
    | none => s
    | some o =>
      if !o.accepted || !s.runs o.who.cell then s
      else if o.kind = .closing then (s.dropOps fun q => q.id == op).keepToken o
      else
        let s := (s.dropOps fun q => q.id == op).lowerOut o.who.cell o.who.ctx 1
        match o.cont with
        | none => s
        | some k => s.sendReply o.who.cell o.who k o.token)

/-! ## Far atomics (R98, R213) -/

/-- The new value and the flags of an AMO (R213), for an operand of `W` bits. -/
def amoNew (op W old op1 cmp : Nat) : Nat × Fl :=
  let a := sext W old
  let b := sext W op1
  match op with
  | 0 => ((old + op1) % 2 ^ W, 0)
  | 1 => (if a ≤ b then old else op1, 0)
  | 2 => (if a ≤ b then op1 else old, 0)
  | 3 => (Nat.min old op1, 0)
  | 4 => (Nat.max old op1, 0)
  | 5 => (old &&& op1, 0)
  | 6 => (old ||| op1, 0)
  | 7 => (old ^^^ op1, 0)
  | 8 => (op1, 0)
  | 9 => (if old = cmp then op1 else old, 0)
  | 10 => fp32.sum 0 0 .largest (fp32.dec old) (fp32.dec op1) false
  | _ =>
    let lo := bf16.sum 0 0 .largest (bf16.dec (old % 2 ^ 16)) (bf16.dec (op1 % 2 ^ 16)) false
    let hi := bf16.sum 0 0 .largest (bf16.dec (old / 2 ^ 16)) (bf16.dec (op1 / 2 ^ 16)) false
    (lo.1 + hi.1 * 2 ^ 16, lo.2 ||| hi.2)

/-- A 64 KiB guest page entered in the dirty-page log of a function (R337). DESIGN CHOICE (log 105): the log's address is one of the function's
guest-physical addresses. -/
def State.dirty (s : State) (f gpa : Nat) : State :=
  let k := s.fn f
  if k.dirtySize = 0 then s
  else if k.dirtySize < 8 * (k.dirtyN + 1) then s.modFn f fun k => { k with dirtyOvf := true }
  else
    let a := k.dirtyBase + 8 * k.dirtyN
    let s := (s.wrGuest f a (leBytes (gpa / 2 ^ 16 % 2 ^ 32) 8)).getD (s.errRec 0x0C 8 0 0 (word a) (word f))
    s.modFn f fun k => { k with dirtyN := k.dirtyN + 1 }

/-! ## Pages of a checkpoint (R362) -/

/-- The Septord ports of the checkpoint's mask that are left. -/
def State.ckptPorts (s : State) : List Nat := (List.range 16).filter fun p => bit s.ckpt.ctl (16 + p) && s.portAt p != .lost

/-- One of them is left. -/
def State.ckptUp (s : State) : Bool := !s.ckptPorts.isEmpty

/-- The port by which a page is streamed: the pages are shared among the ports that are left. -/
def State.ckptPort (s : State) (page : Nat) : Nat := s.ckptPorts.getD (page % s.ckptPorts.length) 0

/-- Pages of a checkpoint streamed (R362), each as it stands, which is how it stood at the cut: the check values of their granules are tested
(R359). None where no port is left. -/
def State.streamed (s : State) (ps : List Nat) : State :=
  if !s.ckptUp then s
  else
    let ps := s.ckpt.todo.filter ps.contains
    let s := (s.unchecked.filter fun g => ps.contains (g / 1024)).foldl State.checkGran s
    { s with
      ckpt := { s.ckpt with
        todo := s.ckpt.todo.filter fun p => !ps.contains p
        pages := s.ckpt.pages + BitVec.ofNat 56 ps.length }
      septord := s.septord ++ ps.map fun p => SepOut.page (s.ckptPort p) p (s.mem.filter fun c => c.1 / 2 ^ 16 == p) }

/-- Pages still to be streamed that writes at some system-physical addresses would change. -/
def State.aheadOf (s : State) (as : List Nat) : List Nat :=
  if s.ckpt.st = 1 then s.ckpt.todo.filter fun p => as.any fun a => a / 2 ^ 16 == p else []

/-- The read, the computation and the one write of an AMO (R98, R213). -/
def State.amoDo (s : State) (o : MemOp) (pa gpa : Nat) : State :=
  let g := fun i => o.recw.getD i 0
  let op := bits (g 3) 0 4
  let wide := bits (g 3) 4 2 == 1
  let W := if wide then 64 else 32
  let op1 := if wide then (g 4).toNat else bits (g 3) 32 32
  let cmp := if wide then (g 5).toNat else bits (g 4) 0 32
  let old := leNat (s.rdKeyBytes o.key pa (W / 8))
  let r := amoNew op W old op1 cmp
  let lo := pa % 64
  let bs := List.replicate lo 0 ++ leBytes r.1 (W / 8) ++ List.replicate (64 - lo - W / 8) 0
  let s := (s.mergeChecked (some o.key) (granOf pa) bs ((2 ^ (W / 8) - 1) * 2 ^ lo)).dirty o.inst.1 gpa
  ((s.modPiece o.id 0 fun q => { q with done := true }).modOp o.id fun q =>
    { q with result := some (word old), flags := r.2 }).stackAnswer (stackOf pa) o 0

/-- AMO_PERFORM (R98): the context's sub-log at the stack is published; once that segment has been applied the
AMO is performed. -/
def execAmoPerform (op : Nat) (s : State) : Host.Outcome State Fault Refusal :=
  .next (match s.op? op with
    | none => s
    | some o => match o.pieces[0]? with
      | none => s
      | some p => match p.xl with
        | .at pa =>
          let st := stackOf pa
          if o.kind != .amo || !s.atStack o p then s
          else if !o.opened then
            (s.publish st (s.logOf o.who) .amo (s.cx o.who.cell o.who.ctx).rseq o.who.ia op o.who.tag o.who.faulty).modOp op fun q => { q with opened := true }
          else if (s.stack st).segs.any fun g => g.op == op then s
          else if s.granBad (granOf pa) then s.refuseAt (stackPort o.who.cell st) o 0 .poison 0 0
          else if !(s.aheadOf [pa]).isEmpty then s.streamed (s.aheadOf [pa])
          else s.amoDo o pa p.gpa
        | _ => s)

end Sys2Proof.Machine
end

