-- ==== Sys2Proof/Machine/Replay.lean ====
section
/-! DEFINITION. The replay of published segments (R84 to R86, R93, R94, R337), the return of old pages (R93),
acquires (R87, R88, R215 to R217) and stores between modules (R99, R101). -/

namespace Sys2Proof.Machine

/-! ## The checks of a segment (R86, R355) -/

/-- Sequence numbers follow on from the first of the segment. -/
def seqFrom (n : BitVec 32) : List Entry → Bool
  | [] => true
  | e :: es => e.seq == n && seqFrom (n + 1) es

/-- A segment and its entries pass the checks of R86. -/
def Segment.sound (q : Segment) (es : List Entry) : Bool :=
  es.length == q.count && seqFrom q.first es &&
    es.all fun e => e.published && !e.bad && (e.kind != .data || e.check == crc16 e.bytes)

/-- Release sequences compared modulo 2^32: `a` is not after `b`. -/
def seqLe (a b : BitVec 32) : Bool := decide ((b - a).toNat < 2 ^ 31)

/-- The first release sequence that a failed segment spoils (R86). -/
def Segment.spoils (q : Segment) : BitVec 32 := if q.kind = .release then q.rseq else q.rseq + 1

/-- The head segment of a stack is gone and its ring space reclaimed (R84). -/
def State.reclaim (s : State) (st : Nat) (q : Segment) : State :=
  s.modStack st fun k => { k with
    segs := k.segs.tail
    doneSegs := k.doneSegs + 1
    subs := k.subs.put q.key { (k.sub q.key) with entries := (k.sub q.key).entries.drop q.count } }

/-! ## A failed segment (R86, R97, R98) -/

/-- The operation that waits for a failed publication (R86, R97): an SC store and an AMO end with no report of their own; a
copy command whose store fails so ends without completing (log 49). -/
def State.failWaiting (s : State) (id : Nat) : State :=
  match s.op? id with
  | none => s
  | some o =>
    if o.kind.engine then
      match s.copyRun o with
      | some r => ((s.setRun o.who.cell id none).endRun r).countLost o.who.cell o.who.ctx o.who.tag 1
      | none => s.dropOps fun q => q.id == id
    else ((s.dropOps fun q => q.id == id).lowerOut o.who.cell o.who.ctx 1).countLost o.who.cell o.who.ctx o.who.tag 1

/-- Acquires of all kinds that wait for a segment of a sub-log fail with it (R86): those of the log's own
function whose marker at the stack arrived after its publish message. -/
def State.failAcqas (s : State) (st : Nat) (l : SubLog) (rseq : BitVec 32) : State :=
  let n := (s.stack st).doneSegs
  { s with ops := s.ops.map fun o =>
      if o.kind == .acqa && o.failed.isNone && l.fn != 0 && o.inst.1 == l.fn &&
          (match o.marks.get? st with | some m => decide (n ≤ m) | none => false) then
        { o with failed := some (st, rseq) }
      else o }

/-- The ACQ_FAILED record that a stack sends to the writing context (R86). -/
def State.reportSegment (s : State) (st : Nat) (l : SubLog) (q : Segment) : State :=
  match l.owner with
  | none => s
  | some (c, x) =>
    if (s.cx c x).inst != some l.inst then s
    else
      s.deliverTo { cell := c, ctx := x, cls := 2, code := .acqFailed, ia := q.ia, frame := 0,
                    d1 := word (st * 2 ^ 32 + q.rseq.toNat), d2 := 0, tag := q.tag, faulty := q.faulty }
        (s.cx c x).ctl.faultc []

/-- A page back in a function's shadow reserve, zeroed (R91, R93, R314). -/
def State.reservePage (s : State) (f size page : Nat) : State :=
  (s.zeroRange page (pageBytes size)).modFn f fun k => { k with shadow := k.shadow ++ [(size, page)] }

/-- A segment that fails is skipped and reported (R86); the shadow pages of its REMAP entries return. -/
def State.skipSegment (s : State) (st : Nat) (q : Segment) : State :=
  let l := s.sub st q.key
  let s := ((l.entries.take q.count).filter fun e => e.kind == .remap).foldl (fun s e => s.reservePage e.fn e.size e.page) s
  let s := (s.modSub st q.key fun l => { l with failedFrom := some (l.failedFrom.getD q.spoils) }).reclaim st q
  let s := s.failAcqas st l q.rseq
  (if q.op = 0 then s else s.failWaiting q.op).reportSegment st l q

/-! ## Where an entry is applied (R93, R94) -/

/-- One of the segment's REMAPs stands after this entry and names its page: the entry is superseded (R94). -/
def superseded (rs : List Entry) (e : Entry) : Bool :=
  rs.any fun r => decide (e.stamp < r.stamp) && inPage (r.gran * 64) r.size (e.gran * 64)

/-- DATA entries compacted per granule (R84): granule, merged bytes, mask, the last writer's key and address. -/
structure Merged where
  gran : Nat
  bytes : List Byte
  mask : Nat
  key : Option (BitVec 512)
  gpa : Nat
  deriving DecidableEq, Repr

/-- One entry joins the writes of its granule. -/
def compact (ms : List Merged) (g : Nat) (e : Entry) : List Merged :=
  let one : Merged := { gran := g, bytes := e.bytes, mask := e.mask.toNat, key := e.key, gpa := e.gpa }
  if ms.any fun m => m.gran == g then
    ms.map fun m => if m.gran = g then
      { one with bytes := mergeBytes 0 m.bytes e.bytes e.mask.toNat, mask := m.mask ||| e.mask.toNat }
    else m
  else ms ++ [one]

/-- Whether the translation agent has made the swap of a REMAP entry of a log (R93). -/
def State.swapped (s : State) (log : Nat) (e : Entry) : Bool := s.leaving.any fun m => m.log == log && m.stamp == e.stamp

/-- The DATA entries of a segment applied once its REMAPs are committed (R84, R93, R94): where a REMAP made no swap its page is written as if
it did not stand there. -/
def State.applyData (s : State) (log f : Nat) (es : List Entry) : State :=
  let mine := es.filter fun e => e.kind == .remap
  let rs := (s.remapsDue log).filter fun e => mine.all fun r => r.stamp != e.stamp
  let own := mine.filter (s.swapped log)
  let ds := es.filter fun e => e.kind == .data && !superseded own e
  let ms := ds.foldl (fun ms e => compact ms (e.landing s.leaving rs log) e) []
  ms.foldl (fun s m =>
    if m.mask = 0 then s
    else
      let s := s.mergeChecked m.key m.gran m.bytes m.mask
      if f = 0 then (s.trackedAt (m.gran * 64)).foldl (fun s e => s.dirty e.1 e.2) s else s.dirty f m.gpa) s

/-- Where the entries of a segment may write (R84, R93): the granules of its DATA with and without its REMAPs, and the pages that these
replace. -/
def State.writesOf (s : State) (log : Nat) (es : List Entry) : List Nat :=
  let rs := s.remapsDue log
  es.flatMap fun e => match e.kind with
    | .data => [e.landing s.leaving rs log * 64, e.here s.leaving log * 64]
    | .remap => (List.range (pageBytes e.size / 2 ^ 16)).map fun i => e.here s.leaving log * 64 + i * 2 ^ 16
    | .void => []

/-! ## REMAP (R93) -/

/-- The addresses of the table entries that make up the nested leaf of a guest page, and the step between
their pages (R316). -/
def State.leafEntries (s : State) (root gpa size : Nat) : List Nat × Nat :=
  let t1 := entryAddr (s.rdWord (root + gpa / 2 ^ 39 % 512 * 8))
  let t2 := entryAddr (s.rdWord (t1 + gpa / 2 ^ 30 % 512 * 8))
  let i2 := gpa / 2 ^ 21 % 512
  if size = 0 then
    let t3 := entryAddr (s.rdWord (t2 + i2 * 8))
    let i3 := gpa / 2 ^ 12 % 512 / 16 * 16
    ((List.range 16).map fun j => t3 + (i3 + j) * 8, 2 ^ 12)
  else if size = 1 then ([t2 + i2 * 8], 2 ^ 21)
  else ((List.range 8).map fun j => t2 + (i2 / 8 * 8 + j) * 8, 2 ^ 21)

/-- The nested mapping of a guest page swapped to another page: the address bits of its leaf's entries. -/
def State.swapLeaf (s : State) (root gpa size page : Nat) : State :=
  let es := s.leafEntries root gpa size
  es.1.zipIdx.foldl (fun s e =>
    let w := (s.rdWord e.1).toNat % 2 ^ 12
    s.wrBytes e.1 (leBytes (page + e.2 * es.2 + w) 8)) s

/-- Operations with an access translated to a page that has not completed. -/
def State.usersOf (s : State) (page n : Nat) : List Nat :=
  (s.ops.filter fun o => o.pieces.any fun p => !p.done && (match p.xl with
    | .at pa => decide (page ≤ pa) && decide (pa < page + n)
    | _ => false)).map (·.id)

/-- The translation agent applies a REMAP (R93): the swap, or its skipping. -/
def State.commitRemap (s : State) (log : Nat) (e : Entry) : State :=
  let root := (s.fn e.fn).ntroot
  match nestedWalk s root e.gpa with
  | .ok _ gb pb size _ w =>
    if w && size == pageBytes e.size && gb == e.gpa then
      let s := (s.dropXlate e.fn e.gpa size).swapLeaf root e.gpa e.size e.page
      let s := (List.range (size / 2 ^ 16)).foldl (fun s i => s.dirty e.fn (e.gpa + i * 2 ^ 16)) s
      { s with leaving := s.leaving ++
          [{ fn := e.fn, size := e.size, page := pb, waits := s.usersOf pb size, next := e.page, log := log, stamp := e.stamp }] }
    else (s.reservePage e.fn e.size e.page).errRec 0x0D 8 0 0 (word e.gpa) (word e.fn)
  | _ => (s.reservePage e.fn e.size e.page).errRec 0x0D 8 0 0 (word e.gpa) (word e.fn)

/-! ## SEGMENT_REPLAY -/

/-- A segment applied (R84, R93). DESIGN CHOICE (log 94): what it writes at its stack becomes visible in this one step, also to observers
that have not acquired it, who may see any subset of it by R85. -/
def State.applySegment (s : State) (st : Nat) (q : Segment) (es : List Entry) : State :=
  let l := s.sub st q.key
  let s := (es.filter fun e => e.kind == .remap).foldl (fun s e => s.commitRemap q.key e) s
  let s := s.applyData q.key l.fn es
  (if q.kind = .release then s.modSub st q.key fun l => { l with applied := q.rseq } else s).reclaim st q

/-- SEGMENT_REPLAY (R84, R86, R93, R97): the next segment in order of arrival. One that writes to pages a checkpoint has not streamed
stays while they are streamed ahead of their turn (R362). -/
def execSegmentReplay (stack : Nat) (s : State) : Host.Outcome State Fault Refusal :=
  .next (match (s.stack stack).segs with
    | [] => s
    | q :: _ =>
      let es := (s.sub stack q.key).entries.take q.count
      if !q.sound es then s.skipSegment stack q
      else match s.aheadOf (if s.ckpt.st = 1 then s.writesOf q.key es else []) with
        | [] => s.applySegment stack q es
        | ps => s.streamed ps)

/-- Unapplied entries that are still to be written to an old page. -/
def State.pageDue (s : State) (m : Leaving) : Bool :=
  s.hbm.toList.any fun k => k.subs.any fun l =>
    let rs := s.remapsDue l.1
    l.2.entries.any fun e => e.kind == .data && inPage m.page m.size (e.landing s.leaving rs l.1 * 64)

/-- SHADOW_PAGE_RETURN (R93): an old page returns once every access translated before the swap has completed. -/
def execShadowPageReturn (page : Nat) (s : State) : Host.Outcome State Fault Refusal :=
  .next (match s.leaving.find? fun m => m.page == page with
    | none => s
    | some m =>
      let due := s.hbm.toList.any fun k => k.subs.any fun l => l.1 == m.log && l.2.entries.any fun e =>
        e.here s.leaving l.1 != e.here (s.leaving.erase m) l.1
      if due || s.pageDue m || s.ops.any fun o => m.waits.contains o.id then s
      else { s with leaving := s.leaving.erase m }.reservePage m.fn m.size m.page)

/-! ## Acquires (R87, R88, R215 to R217) -/

/-- What an acquire's end lets go: operations behind it, and a posted launch among them is sent. -/
def State.freeBehind (s : State) (id : Nat) : State :=
  let freed := s.ops.filter fun o => o.kind == .qpost && o.behind == [id]
  let s := { s with ops := s.ops.map fun o => { o with behind := o.behind.filter (· != id) } }
  freed.foldl (fun s o => s.sendQpost o) s

/-- An acquire completes (R87, R215, R216): the descriptor cache is emptied, what waited goes on, the reply is
sent. -/
def State.acquired (s : State) (o : MemOp) (v : Word) : State :=
  let s := (s.dropOps fun q => q.id == o.id).modCx o.who.cell o.who.ctx fun k => { k with descs := [] }
  let s := (s.freeBehind o.id).lowerOut o.who.cell o.who.ctx 1
  match o.cont with
  | none => s
  | some k => s.sendReply o.who.cell o.who k v

/-- The copy-engine command that a lane holds for a full queue, where `p` picks it. -/
def State.stalledCmd (s : State) (c : Nat) (p : Cmd → Bool) : List Cmd :=
  match (s.cell c).lane.stall with
  | some (.queue m) => if p m then [m] else []
  | _ => []

/-- An acquire ends with ACQ_FAILED (R217): what waits behind it is not performed; the lane goes on past a command
among them that waits for its full queue. -/
def State.acqEnds (s : State) (o : MemOp) (st : Nat) (rseq : BitVec 32) : State :=
  let c := o.who.cell
  let gone := s.ops.filter fun q => q.behind.contains o.id
  let cmd := fun (m : Cmd) => m.op.copies && m.who.serial == o.who.serial && decide (o.id < m.uid)
  let held := s.stalledCmd c cmd
  let cmds := (s.cell c).copyq.filter cmd ++ held
  let n := gone.length + cmds.length
  let s := s.dropOps fun q => q.behind.contains o.id
  let s := s.modCell c fun d =>
    cmds.foldl (fun d m => (d.dropAll m.named).landAll m.named) { d with copyq := d.copyq.filter fun m => !cmd m }
  let s := (s.lowerOut c o.who.ctx n).countLost c o.who.ctx o.who.tag n
  let s := if held.isEmpty then s else (s.unstall c).step1
  { s with failedAcqs := s.failedAcqs ++ [o.who.serial] }.failOp o 2 .acqFailed (word (st * 2 ^ 32 + rseq.toNat)) (word n)

/-- The sub-log that a release token names. -/
def State.tokenLog (s : State) (o : MemOp) : Nat :=
  let k := s.cx o.who.cell o.who.ctx
  (s.cx (k.place.getD (vcellOf o.val) 0) o.who.ctx).log

/-- A stack that an acquire's question has come to answers it (R86, R87): where the releasing sub-log is FAILED at or below the token's
sequence, or once it records an applied rseq at least the token's. -/
def State.acqAnswer (s : State) (o : MemOp) (st : Nat) : State :=
  let l := s.sub st (s.tokenLog o)
  let want : BitVec 32 := o.val.setWidth 32
  if !o.there.getLsbD st || o.pub.getLsbD st then s
  else match l.failedFrom.filter fun f => seqLe f want with
    | some f => (s.modOp o.id fun q => { q with failed := q.failed.or (some (st, f)) }).ackTo st o
    | none => if seqLe want l.applied then s.ackTo st o else s

/-- ACQ_COMPLETE (R86, R87, R215, R217): the acquire ends once a stack has told of a FAILED sub-log, or every stack has answered; else
the stacks that can answer do. -/
def execAcqComplete (op : Nat) (s : State) : Host.Outcome State Fault Refusal :=
  .next (match s.op? op with
    | none => s
    | some o =>
      if o.kind != .acq || !s.runs o.who.cell then s
      else match o.failed.filter fun f => o.acked.getLsbD f.1 with
        | some f => s.acqEnds o f.1 f.2
        | none => if o.mask &&& ~~~o.acked = 0 then s.acquired o o.val else (List.range 16).foldl (fun s st => s.acqAnswer o st) s)

/-- ACQA_MARKER (R86, R88, R216, R217): a stack that has applied what had arrived before the marker answers it; once all have, the acquire
ends. -/
def execAcqaMarker (op stack : Nat) (s : State) : Host.Outcome State Fault Refusal :=
  .next (match s.op? op with
    | none => s
    | some o =>
      if o.kind != .acqa || !s.runs o.who.cell || 16 ≤ stack then s
      else if o.acked = 0xFFFF then
        (match o.failed with
         | some f => s.acqEnds o f.1 f.2
         | none => s.acquired o 0)
      else if o.there.getLsbD stack && !o.pub.getLsbD stack && decide (o.marks.getD stack 0 ≤ (s.stack stack).doneSegs) then s.ackTo stack o
      else s)

/-! ## Between modules (R99, R101) -/

/-- The key of the part of a module's inbound log that one flow of it has written: a flow is a context there (R101). -/
def inboundKey (smod : BitVec 16) (flow : Nat) : Nat := 2 ^ 40 + flow * 2 ^ 16 + smod.toNat

/-- PEER_STORE_ARRIVAL (R77, R101): an entry of another module joins its inbound log. -/
def execPeerStoreArrival (src : BitVec 16 × Nat) (gran : Nat) (mask : BitVec 64) (data : BitVec 512) (s : State) :
    Host.Outcome State Fault Refusal :=
  .next (let st := stackOf (gran * 64)
    let key := inboundKey src.1 src.2
    if !inStacks (gran * 64) 64 then s
    else
    let s := s.modSub st key fun l => { l with src := 0xFC00, smod := src.1 }
    if (s.sub st key).full then s
    else s.appendEntry st key (dataEntry gran (leBytes data.toNat 64) mask.toNat 0 none 0))

/-- The stores of a release of a context of another module become published here (R101). -/
def State.peerPublish (s : State) (smod : BitVec 16) (flow : Nat) : State :=
  let key := inboundKey smod flow
  (List.range 16).foldl (fun s st => if (s.sub st key).unpublished.isEmpty then s else s.publish st key .inbound 0 0x3FFF 0) s

/-- A load of a peer module served at its home stack here (R89, R101): the applied image, of a granule whose check value is tested as it
goes to Septord (R359). DESIGN CHOICE (log 52): the bytes are read under the key that they were written under. -/
def State.peerLoad (s : State) (smod : BitVec 16) (flow pa len : Nat) : State :=
  if !inStacks pa len || !(List.range 16).any fun p => s.portAt p != .lost then s
  else
    let s := (List.range ((pa % 64 + len + 63) / 64)).foldl (fun s i => s.checkGran (granOf pa + i)) s
    let bad := (List.range ((pa % 64 + len + 63) / 64)).any fun i => s.granBad (granOf pa + i)
    { s with septord := s.septord ++ [.data smod flow pa (if bad then none else some (s.rdBytes pa len))] }

/-- An operation on a peer tensor may leave the cell: nothing that it must follow is pending (R95, R101). -/
def State.mayLeave (s : State) (o : MemOp) : Bool :=
  let before := s.ops.filter fun q => q.who.cell == o.who.cell && decide (q.id < o.id) && q.behind.isEmpty
  o.behind.isEmpty && s.runs o.who.cell && o.checked && !s.scOpen o.who.cell o.who.ctx && !s.copyBefore o &&
    !s.tileDue o && o.pieces.all fun p => !before.any fun q => q.holds o p 16 (fun _ => false) (s.pageParked q)

/-- The flow of an operation on a peer: its cell and context (R351). -/
def MemOp.flow (o : MemOp) : Nat × Nat := (o.who.cell, o.who.ctx)

/-- The port that a flow's packets take to a peer (R351): none where no port is usable. -/
def State.flowPort (s : State) (o : MemOp) (m : Nat) : Option Nat :=
  let ps := s.peerPorts m
  ps[(o.who.vcell * 8 + o.who.ctx) % ps.length]?

/-- The link layer of a port. -/
def State.layer (s : State) (p : Nat) : SepLayer := s.links.layers.getD p {}

/-- The link layer of a port set. -/
def State.setLayer (s : State) (p : Nat) (l : SepLayer) : State := { s with links := { s.links with layers := s.links.layers.put p l } }

/-- Packets of a flow that another live port has sent have not been acknowledged: its new packets wait (R351). -/
def State.flowHeld (s : State) (o : MemOp) (m port : Nat) : Bool :=
  s.links.layers.any fun e => e.1 != port && s.portAt e.1 != .lost && e.2.window.any fun p => p.flow == o.flow && p.peer == m

/-- An earlier request of the flow has not been sent: of an operation issued before, or of an earlier piece. -/
def State.flowAhead (s : State) (o : MemOp) (m k : Nat) (sent : Piece → Bool) : Bool :=
  (o.pieces.take k).any (fun p => !p.done && !sent p) ||
    s.ops.any fun q => q.flow == o.flow && q.peer == some m && decide (q.id < o.id) && q.behind.isEmpty && q.pieces.any fun p => !p.done && !sent p

/-- The check that goes with a Septord packet (R350): the CRC-32 of its header and its flits. -/
def septordCrc (header : List Byte) (flits : List Byte) : BitVec 32 := crc32 (header ++ flits)

/-- The flits of the packet of a piece (R350): a store's entry is a 128-byte record, its two flits (R340). -/
def MemOp.septordFlits (o : MemOp) (p seq k : Nat) : List Byte :=
  match if o.kind.stores then o.pieces[k]? else none with
  | some q => q.data ++ leBytes (q.tpn * pageBytes o.psize + q.pgo) 8 ++ leBytes q.mask 8 ++ List.replicate 48 0
  | none => Config.septordFlits p (BitVec.ofNat 12 seq) o.id k

/-- The packet of piece `k` of an operation on a peer, which has come to a Septord port, leaves by the port of its flow, into the window of
that port (R350, R351). -/
def State.sendPeer (s : State) (id k : Nat) : State :=
  match s.op? id with
  | none => s
  | some o => match o.peer, o.pieces[k]? with
    | some m, some q => match s.flowPort o m with
      | none => s
      | some p =>
        let l := s.layer p
        if q.asked != .there || q.done || q.via.isSome || !s.runs o.who.cell || Config.septordWindow ≤ l.window.length || s.flowHeld o m p ||
            s.flowAhead o m k (·.via.isSome) then s
        else
          let pk : SepPacket := { seq := l.next, flow := o.flow, op := id, piece := k, peer := m,
                                  crc := septordCrc (Config.septordHeader p l.next id k) (o.septordFlits p l.next.toNat k) }
          let s := s.setLayer p { next := l.next + 1, window := l.window ++ [pk], since := if l.window.isEmpty then s.clock.nc else l.since }
          ({ s with septord := s.septord ++ [SepOut.packet p pk] }).modPiece id k fun q => { q with via := some p }
    | _, _ => s

/-- A peer acknowledges the packets of a port up to a sequence number (R350). -/
def State.septordAck (s : State) (port : Nat) (seq : BitVec 12) : State :=
  let l := s.layer port
  if s.portAt port == .lost || !l.window.any (fun p => p.seq == seq) then s
  else s.setLayer port { l with window := (l.window.dropWhile fun p => p.seq != seq).tail, since := s.clock.nc }

/-- Something arrives from Septord for an instance (R334). -/
def State.peerArrival (s : State) (o : MemOp) : State :=
  s.modInst o.inst.1 o.inst.2 fun i => { i with lastAct := s.ac (i.place.headD 0) }

/-- Operations on peers that no port reaches any more end with LINK_LOST (R351). -/
def State.losePeers (s : State) : State :=
  let gone := s.ops.filter fun o => (match o.peer with | some m => !s.peerUp m | none => false) || o.peers.any fun m => !s.peerUp m
  gone.foldl (fun s o => if (s.op? o.id).isSome then s.failAccess o .linkLost 0 0 else s) s

/-- PEER_ACK (R57, R80, R101): the peer has appended a store. -/
def execPeerAck (op : Nat) (s : State) : Host.Outcome State Fault Refusal :=
  .next (match s.op? op with
    | none => s
    | some o => match o.peer with
      | none => s
      | some m =>
        if !o.kind.stores || !o.pieces.all (fun p => p.via.isSome && !p.done) || !s.runs o.who.cell then s
        else
          let s := (s.peerArrival o).modCx o.who.cell o.who.ctx fun k =>
            { k with peersOut := if k.peersOut.contains m then k.peersOut else k.peersOut ++ [m] }
          let s := s.modOp op fun q => { q with pieces := q.pieces.map fun p => { p with done := true } }
          o.pieces.zipIdx.foldl (fun s e => s.sendAnswer (septordAt o.who.cell (e.1.via.getD 0)) o e.2) s)

/-- A peer's answer to a load (R101): the bytes of a piece. -/
def State.peerData (s : State) (op k : Nat) (bs : List Byte) : State :=
  match s.op? op with
  | none => s
  | some o => match o.pieces[k]? with
    | none => s
    | some p =>
      match p.via with
      | none => s
      | some v =>
        if o.peer.isNone || p.done || o.kind.stores || !s.runs o.who.cell then s
        else (s.peerArrival o).served (septordAt o.who.cell v) o k p ((bs ++ List.replicate p.len 0).take p.len) 0

/-- Every peer written has applied the stores of a system-scope release (R99). -/
def State.peerApplied (s : State) (op : Nat) : State :=
  match s.op? op with
  | some o => (s.peerArrival o).modOp op fun q => { q with peers := [] }
  | none => s

/-! ## Faults resolved (R320) -/

/-- A piece parked under an id. -/
def Piece.parkedAt (p : Piece) (f id : Nat) : Bool :=
  match p.xl with
  | .parked g i => g == f && i == id
  | _ => false

/-- Requests parked under an id of a function's ring. -/
def MemOp.parkedAt (o : MemOp) (f id : Nat) : Bool := o.dpark == some (f, id) || o.pieces.any fun p => p.parkedAt f id

/-- Every request parked under an id walks again (R320). -/
def State.unpark (s : State) (f id : Nat) : State :=
  { s with ops := s.ops.map fun o => { o with
      dpark := if o.dpark = some (f, id) then none else o.dpark
      pieces := o.pieces.map fun p => if p.parkedAt f id then { p with xl := .todo } else p } }

end Sys2Proof.Machine
end

