-- ==== Sys2Proof/Machine/Port.lean ====
section
/-! DEFINITION. What travels between a cell and the stacks and Septord ports, and between the cells of a copy command, as packets
(R13, R79, R101, R212, R237, R340, R343): what a memory port sends, and what an agent does with a packet that has come to it. -/

namespace Sys2Proof.Machine

/-! ## Sending (R79, R101, R212) -/

/-- Flits of the request of a piece: a store's is a log entry of 128 bytes (R77, R340). -/
def OpKind.flits (k : OpKind) : Nat := if k.stores then 2 else 1

/-- The check values of those flits: a store's granule carries its own (R359). -/
def MemOp.chks (o : MemOp) (p : Piece) : List (Option (BitVec 16)) := if o.kind.stores then [some (crc16 p.data), none] else []

/-- The request of a piece sent by an agent to an attachment. -/
def State.sendRequest (s : State) (o : MemOp) (k : Nat) (p : Piece) (a b : Nat) : State :=
  (s.modPiece o.id k fun _ => { p with asked := .sent }).inject
    { vn := 2, src := a, dst := b, ctx := o.who.ctx, counts := false, flits := o.kind.flits, chks := o.chks p, body := .request o.id k o.who }

/-- Where the request of a hop of an LDCH leaves from: its cell, or the stack that has read the link before it (R212). -/
def MemOp.asker (o : MemOp) : Nat :=
  if o.hops = 0 then o.who.cell else stackPort o.who.cell (((List.range 16).find? o.there.getLsbD).getD 0)

/-- The request of piece `k` of an operation on this module's memory leaves for its stack, once it may. -/
def State.askStack (s : State) (o : MemOp) (k : Nat) : State :=
  match (s.choosePathOf o).bind fun s => (s.op? o.id).map fun o => (s, o) with
  | none => s
  | some (s, o) => match o.pieces[k]?, (o.pieces[k]?).bind Piece.stack with
    | some p, some st =>
      if !s.mayGo o k p st then s
      else (s.unreached o st).getD <|
        let p := s.lateData o k p
        if o.asker = stackPort o.who.cell st then s.modPiece o.id k fun _ => { p with asked := .there }
        else s.sendRequest o k p o.asker (stackPort o.who.cell st)
    | _, _ => s

/-- The request of piece `k` of an operation on a peer module leaves for a Septord port, once it may; one that stands there leaves by the
port (R101, R350, R351). -/
def State.askPeer (s : State) (o : MemOp) (m k : Nat) : State :=
  match o.pieces[k]?, s.flowPort o m with
  | some p, some port => match p.asked with
    | .none =>
      if p.done || !s.mayLeave o || s.flowAhead o m k (fun q => q.asked != .none) then s
      else s.sendRequest o k (s.lateData o k p) o.who.cell (septordAt o.who.cell port)
    | .sent => s
    | .there => s.sendPeer o.id k
  | _, _ => s

/-- An ACQA at system scope waits until the host interfaces have done what the notify writes that they hold ask for (R216). -/
def State.notifyHeld (s : State) : Bool := s.hostq.any fun i => match i with | .qNotify _ _ _ => true | _ => false

/-- The question of an acquire or the marker of an ACQA may leave for a stack (R87, R88, R216). -/
def State.mayMark (s : State) (o : MemOp) (st : Nat) : Bool :=
  o.kind.acquires && o.mask.getLsbD st && !o.told.getLsbD st && s.runs o.who.cell && !(o.kind == .acqa && o.sys && s.notifyHeld)

/-- A message of an operation for a stack sent. -/
def State.sendMessage (s : State) (o : MemOp) (st : Nat) (b : Payload) : State :=
  (s.unreached o st).getD <| s.inject { vn := 2, src := o.who.cell, dst := stackPort o.who.cell st, ctx := o.who.ctx, counts := false, body := b }

/-- What a release or an acquire has to tell a stack leaves for it, once it may (R82, R87, R88, R90). -/
def State.askMessage (s : State) (o : MemOp) (st : Nat) : State :=
  if 16 ≤ st then s
  else if s.mayInterim o st then
    (s.modOp o.id fun q => { q with interim := q.interim ||| one16 st }).sendMessage o st (.interim o.id st o.who)
  else if s.mayPublish o st || s.mayMark o st then
    (s.modOp o.id fun q => { q with told := q.told ||| one16 st }).sendMessage o st (.publish o.id st o.who)
  else s

/-- The next transfer of the tile that a copy command makes (R241, R347). -/
def State.askTransfer (s : State) (uid : Nat) : State :=
  match s.cells.findSome? fun (e : Nat × Cell) => (e.2.copyOf uid).map fun r => (e.1, r) with
  | some (c, r) => if s.runs c then s.xfer c r else s
  | none => s

/-- The memory port, a Septord port or the copy engine sends what it has of an operation or command: its piece `k`, or what it has for
stack `k`. -/
def State.ask (s : State) (id k : Nat) : State :=
  match s.op? id with
  | none => s.askTransfer id
  | some o =>
    if !o.kind.tensor then s.askMessage o k
    else match o.peer with
      | some m => s.askPeer o m k
      | none => s.askStack o k

/-! ## Taking in (R343) -/

/-- The request of a piece stands where it is performed. -/
def State.requestHere (s : State) (id k : Nat) : State := s.modPiece id k fun p => { p with asked := .there }

/-- A message stands at a stack: a marker counts the segments that have arrived there before it (R88). -/
def State.messageHere (s : State) (id st : Nat) : State :=
  s.modOp id fun o => { o with
    there := o.there ||| one16 st
    marks := if o.kind = .acqa then o.marks.put st ((s.stack st).doneSegs + (s.stack st).segs.length) else o.marks }

/-- Pieces whose answers are back with those of all before them. -/
def MemOp.known (o : MemOp) : List Piece := o.pieces.takeWhile (·.back)

/-- A reading command goes on with what an answer has brought: the uncorrectable bytes first, in the order of its elements (R238). -/
def State.readOn (s : State) (o : MemOp) : State :=
  match s.op? o.id with
  | none => s
  | some q =>
    let new := q.known.drop o.known.length
    (new.foldl (fun s p => if p.bad = 0 then s else s.copyPoison q p) s).copyRead o.id

/-- The answer to piece `k` reaches the cell that issued the operation (R80, R193, R194, R234). -/
def State.answered (s : State) (id k : Nat) : State :=
  match s.op? id with
  | none => s
  | some o => match o.fault with
    | some e => s.failAccess o e.1 e.2.1 e.2.2
    | none =>
      let mine := fun (p : Piece) (j : Nat) => j == k || ((o.pieces[k]?).any fun q => q.covers p)
      let s := s.modOp id fun o => { o with
        opened := false
        pieces := o.pieces.zipIdx.map fun e => if mine e.1 e.2 then { e.1 with back := true } else e.1
        reply := if o.kind.stores || o.kind.engine then none else o.result }
      if o.kind = .cread then s.readOn o else if o.kind.stores then s.stored id 1 else s

/-- A stack's acknowledgement of a message reaches the cell. -/
def State.acknowledged (s : State) (id st : Nat) : State := s.modOp id fun o => { o with acked := o.acked ||| one16 st }

/-- Packet `n` is the oldest of its source, destination, context and virtual network (R26). -/
def State.oldest (s : State) (n : Nat) (p : Packet) : Bool :=
  !(s.net.take n).any fun q => q.vn == p.vn && q.src == p.src && q.dst == p.dst && q.ctx == p.ctx

/-- Packet `n`, which has come to its agent, is taken in where no step of the table takes it: answers before the rest (R343). -/
def State.takeIn (s : State) (n : Nat) (p : Packet) : State :=
  if !p.arrived || !s.oldest n p || (p.vn != 3 && s.drains p.dst) then s
  else
    let t := { s with net := s.net.eraseIdx n }
    match p.body with
    | .request id k _ => t.requestHere id k
    | .publish id st _ => t.messageHere id st
    | .interim id st _ => t.messageHere id st
    | .answer id k _ => t.answered id k
    | .ack id st _ => t.acknowledged id st
    | .alloc uid fmt rows cols w => if s.behindTokens p.src p.dst p.ctx then s else t.allocHere p uid fmt rows cols w
    | .allocated uid x _ => t.allocated p uid x
    | .tile uid i g n els w => t.tileHere p uid i g n els w
    | .tileAck uid _ => t.tileAcked p.dst uid
    | _ => s

end Sys2Proof.Machine
end

