-- ==== Sys2Proof/Machine/Registers.lean ====
section
/-! DEFINITION. The registers of BAR0 (R294, R295, R312, R314, R320, R331, R363, R366, R369): what a read
returns, and the writes that have no behaviour of their own or restart a record ring. -/

namespace Sys2Proof.Machine

/-! ## Offsets -/

/-- A queue's register by BAR0 offset (R294): queue number and offset in its block. -/
def queueAt (off : Nat) : Option (Nat × Nat) :=
  if 0x200000 ≤ off then some ((off - 0x200000) / 128, (off - 0x200000) % 128) else none

/-- A queue of a function that has been granted to it (R294). -/
def State.hasQ (s : State) (f q : Nat) : Bool := decide (q < (s.fn f).qcount)

/-- A flag as a number. -/
def flagN (b : Bool) (n : Nat) : Nat := if b then n else 0

/-! ## Reads -/

/-- The base register of a record ring. -/
def RecRing.reg (r : RecRing) : Word := word (r.base + r.lsize)

/-- The state field of Q_STATUS (R295). -/
def QState.code : QState → Nat
  | .disabled => 0 | .active => 1 | .error => 2

/-- A register of a queue block (R295). -/
def Queue.reg (q : Queue) (r : Nat) : Word :=
  match r with
  | 0x00 => word q.base
  | 0x08 => word q.size
  | 0x10 => word q.notify
  | 0x18 => word q.head
  | 0x20 => word (flagN q.en 1 + q.prio * 4)
  | 0x28 => word (q.st.code + q.code.toNat * 2 ^ 8 + q.live.length * 2 ^ 32)
  | 0x30 => q.cring.reg
  | 0x38 => q.ering.reg
  | 0x40 => q.pkts
  | 0x48 => q.waits
  | 0x50 => q.fetchw
  | _ => 0

/-- A byte of the VF_SAR window of a partition (R331). -/
def Sar.byte (r : Sar) (i : Nat) : Byte :=
  if i < 128 then BitVec.ofNat 8 (bits (r.words.getD (i / 8) 0) (i % 8 * 8) 8)
  else if i < 3437 then Config.signature r.words (i - 128)
  else if 3440 ≤ i && i < 3448 then
    (if i = 3440 then BitVec.ofNat 8 (flagN r.signed 1) else BitVec.ofNat 8 (bits (r.words.getD 5 0) ((i - 3441) * 8) 8))
  else 0

/-- A word of eight bytes that a function gives. -/
def byteWord (b : Nat → Byte) (i : Nat) : Word := word (leNat ((List.range 8).map fun k => b (i + k)))

/-- A word of the VF_SAR window (R331): zeros for a partition that is not the function's. -/
def State.sarWord (s : State) (f p i : Nat) : Word :=
  if (s.fn f).parts.getLsbD p then
    match (s.parts.getD p {}).sar with
    | some r => byteWord r.byte i
    | none => 0
  else 0

/-- Free shadow pages of a size (R314). -/
def Fn.pages (k : Fn) (code : Nat) : Nat := (k.shadow.filter fun e => e.1 == code).length

/-- A register that every function has (R294, R314, R320, R331, R363, R366). -/
def State.fnReg (s : State) (f off : Nat) : Word :=
  let k := s.fn f
  match off with
  | 0x00 => word f
  | 0x08 => word k.ttbase
  | 0x10 => word k.ttcount
  | 0x18 => word k.itbase
  | 0x20 => word k.itcount
  | 0x28 => word k.qcount
  | 0x30 => k.parts.setWidth 64
  | 0x38 => word (k.postq + flagN k.posten (2 ^ 24))
  | 0x40 => k.wdog.setWidth 64
  | 0x48 => k.fring.reg
  | 0x58 => k.diag.reg
  | 0x60 => word (k.recr.base + k.recr.lsize + flagN k.recEn 16 + flagN k.recReplay 32 + flagN k.recOvf 64)
  | 0x68 => word k.recPos
  | 0x70 => word (k.pages 0 % 2 ^ 20 + k.pages 1 % 2 ^ 20 * 2 ^ 20 + k.pages 2 % 2 ^ 20 * 2 ^ 40)
  | 0x78 => word ((k.pool.map (·.2)).sum % 2 ^ 48)
  | 0xC000 => Config.deviceCertLen.setWidth 64
  | _ =>
    if 0xC008 ≤ off && off < 0x10000 then byteWord Config.deviceCert (off - 0xC008)
    else if 0x4000 ≤ off && off < 0xC000 then s.sarWord f ((off - 0x4000) / 0x1000) ((off - 0x4000) % 0x1000)
    else 0

/-- The state field of PART_CTL (R312). -/
def PartState.code : PartState → Nat
  | .free => 0 | .granted => 1 | .frozen => 2 | .scrubbing => 3

/-- PART_CTL of a partition (R312). -/
def Part.ctl (p : Part) : Word :=
  word (p.tenant.toNat + p.vf % 32 * 2 ^ 16 + p.st.code * 2 ^ 22 + p.whbm.toNat * 2 ^ 32 + p.wring.toNat * 2 ^ 40 +
    p.wpcie.toNat * 2 ^ 48)

/-- MGMT_STATUS (R312). -/
def Mgmt.status (m : Mgmt) : Word :=
  word (flagN m.busy 1 + m.tag.toNat * 2 ^ 8 + m.code.toNat * 2 ^ 16 + m.result.toNat * 2 ^ 32)

/-- The state field of GT_STATE (R366). -/
def GtState.code : GtState → Nat
  | .free => 0 | .locking => 1 | .locked => 2 | .holdover => 3

/-- The bits that `p` sets, of `n`. -/
def bitMap (n : Nat) (p : Nat → Bool) : Nat := ((List.range n).map fun i => flagN (p i) (2 ^ i)).sum

/-- LINK_STATUS (R366). -/
def Links.status (k : Links) : Word :=
  let port := fun (i : Nat) => k.septord.toList.getD i .up
  let ring := fun (i : Nat) => k.ring.toList.getD (i % 8) .full
  word (bitMap 16 (fun i => port i != .lost) + bitMap 16 (fun i => port i == .half) * 2 ^ 16 +
    bitMap 8 (fun d => ring d != .lost) * 2 ^ 32 + bitMap 8 (fun d => ring (d + 7) != .lost) * 2 ^ 40)

/-- A SEPTORD_PEER register (R366). -/
def Peer.reg (p : Peer) : Word := word (p.pmod.toNat + p.ports.toNat * 2 ^ 16 + flagN p.valid (2 ^ 32))

/-- A management register of the PF (R366). The power in PWR_STATUS is at most R21's. -/
def State.moduleReg (s : State) (off : Nat) : Word :=
  match off with
  | 0x100000 => s.now 0
  | 0x100008 => word (s.clock.gtst.code + s.clock.gtoff.toNat * 2 ^ 32)
  | 0x100010 => word s.links.bad.length
  | 0x100018 => s.errRing.reg
  | 0x100020 => s.ckpt.ctl
  | 0x100028 => word (s.ckpt.st.toNat + s.ckpt.pages.toNat * 2 ^ 8)
  | 0x100030 => s.ckpt.cut
  | 0x100038 =>
    word (((s.clock.throttle.toList.zipIdx).map fun e => e.1 % 8 * 2 ^ (3 * e.2)).sum +
      bits (Config.powerStatus s.clock.nc) 24 8 * 2 ^ 24 + Nat.min Config.tdp (bits (Config.powerStatus s.clock.nc) 32 16) * 2 ^ 32)
  | 0x100040 => s.links.status
  | _ =>
    if 0x100100 ≤ off && off < 0x100800 then
      (match s.links.bad[(off - 0x100100) / 8]? with | some e => e.word | none => 0)
    else if 0x100800 ≤ off && off < 0x101000 then (s.links.peers.getD ((off - 0x100800) / 8) {}).reg
    else 0

/-- A partition or management-command register of the PF (R312). -/
def State.partReg (s : State) (off : Nat) : Word :=
  if off < 0x20200 then
    let p := s.parts.getD ((off - 0x20000) / 0x40) {}
    match (off - 0x20000) % 0x40 with
    | 0x00 => p.bays.setWidth 64
    | 0x08 => (p.bays >>> 64).setWidth 64
    | 0x10 => p.ctl
    | _ => 0
  else if 0x20400 ≤ off && off < 0x20500 then word (s.fn ((off - 0x20400) / 8)).ntroot
  else match off with
    | 0x20800 => word (bits s.mgmt.cmd 0 16)
    | 0x20808 => s.mgmt.arg0
    | 0x20810 => s.mgmt.arg1
    | 0x20818 => s.mgmt.arg2
    | 0x20820 => s.mgmt.arg3
    | 0x20828 => s.mgmt.status
    | _ => 0

/-- A read of a register of a function (R294): unlisted ones read zero. -/
def State.regRead (s : State) (f off : Nat) : Word :=
  if 32 ≤ f || off % 8 ≠ 0 then 0
  else match queueAt off with
    | some (q, r) => if s.hasQ f q then (s.queue f q).reg r else 0
    | none =>
      if off < 0x20000 then s.fnReg f off
      else if f ≠ 0 then 0
      else if off < 0x100000 then s.partReg off
      else s.moduleReg off

/-! ## Writes -/

/-- Q_BASE and Q_SIZE (R295), which take writes only while the queue is DISABLED. -/
def Queue.write (q : Queue) (r : Nat) (v : Word) : Queue :=
  if q.st ≠ .disabled then q
  else match r with
    | 0x00 => { q with base := bits v 12 52 * 4096 }
    | 0x08 => { q with size := if 12 ≤ bits v 0 5 && bits v 0 5 ≤ 24 then bits v 0 5 else 12 }
    | _ => q

/-- The registers of a function with no behaviour of their own (R294). -/
def Fn.write (k : Fn) (off : Nat) (v : Word) : Fn :=
  match off with
  | 0x08 => { k with ttbase := bits v 6 58 * 64 }
  | 0x10 => { k with ttcount := bits v 0 21 }
  | 0x18 => { k with itbase := bits v 3 61 * 8 }
  | 0x20 => { k with itcount := bits v 0 21 }
  | 0x38 => { k with postq := bits v 0 21, posten := bit v 24 }
  | 0x40 => { k with wdog := v.setWidth 32 }
  | _ => k

/-- A weight (R311): 1 to 255. -/
def weight (v : Word) (lo : Nat) : BitVec 8 := BitVec.ofNat 8 (Nat.max 1 (bits v lo 8))

/-- A partition block (R312): only a FREE partition's bays, tenant and VF take writes; the weights always do. -/
def Part.write (p : Part) (r : Nat) (v : Word) : Part :=
  let free := p.st == .free
  match r with
  | 0x00 =>
    if free then { p with bays := (p.bays >>> 64) <<< 64 ||| (v.setWidth 128 &&& ~~~(1 : BitVec 128)) } else p
  | 0x08 => if free then { p with bays := (p.bays.setWidth 64).setWidth 128 ||| v.setWidth 128 <<< 64 } else p
  | 0x10 =>
    { p with
      tenant := if free then v.setWidth 16 else p.tenant
      vf := if free then bits v 16 5 else p.vf
      whbm := weight v 32
      wring := weight v 40
      wpcie := weight v 48 }
  | _ => p

/-- The arguments of the management commands (R312). -/
def Mgmt.write (m : Mgmt) (off : Nat) (v : Word) : Mgmt :=
  match off with
  | 0x20808 => { m with arg0 := v }
  | 0x20810 => { m with arg1 := v }
  | 0x20818 => { m with arg2 := v }
  | 0x20820 => { m with arg3 := v }
  | _ => m

/-- A register of the PF beside those that every function has (R312, R362, R366). -/
def State.pfWrite (s : State) (off : Nat) (v : Word) : State :=
  if off < 0x20200 then
    let n := (off - 0x20000) / 0x40
    { s with parts := s.parts.put n ((s.parts.getD n {}).write ((off - 0x20000) % 0x40) v) }
  else if 0x20400 ≤ off && off < 0x20500 then s.modFn ((off - 0x20400) / 8) fun k => { k with ntroot := bits v 12 40 * 4096 }
  else if off = 0x100020 then (if bit v 0 then s else { s with ckpt := { s.ckpt with ctl := v &&& 0x00FFFFFFFFFF0000 } })
  else if 0x100800 ≤ off && off < 0x101000 then
    { s with links := { s.links with
        peers := s.links.peers.put ((off - 0x100800) / 8) { pmod := v.setWidth 16, ports := BitVec.ofNat 16 (bits v 16 16), valid := bit v 32 } } }.losePeers
  else { s with mgmt := s.mgmt.write off v }

/-- REGISTER_WRITE (R294, R295, R312, R366): read-only and unlisted registers ignore it. -/
def execRegisterWrite (fn off : Nat) (val : BitVec 64) (s : State) : Host.Outcome State Fault Refusal :=
  .next (if 32 ≤ fn || off % 8 ≠ 0 then s
    else match queueAt off with
      | some (q, r) => if s.hasQ fn q then s.modQ fn q fun k => k.write r val else s
      | none =>
        if off < 0x20000 then s.modFn fn fun k => k.write off val
        else if fn = 0 then s.pfWrite off val
        else s)

/-! ## Record rings (R363, R369) -/

/-- The record ring after a write of VF_REC (R363). -/
def Fn.writeRec (k : Fn) (v : Word) : Fn :=
  { k with
    recr := { base := bits v 12 52 * 4096, lsize := bits v 0 4 }
    recEn := bit v 4
    recReplay := bit v 5
    recOvf := false
    recPos := 0
    recUsed := [] }

/-- RING_RESTART (R320, R363, R369): the ring goes to offset 0 with phase 1. -/
def execRingRestart (fn off : Nat) (val : BitVec 64) (s : State) : Host.Outcome State Fault Refusal :=
  .next (if 32 ≤ fn then s
    else match queueAt off with
      | some (q, r) =>
        if !s.hasQ fn q || (s.queue fn q).st != .disabled then s
        else if r = 0x30 then s.modQ fn q fun k => { k with cring := .restart val }
        else if r = 0x38 then s.modQ fn q fun k => { k with ering := .restart val }
        else s
      | none =>
        if off = 0x48 then s.modFn fn fun k => { k with fring := .restart val, faultId := 0 }
        else if off = 0x58 then s.modFn fn fun k => { k with diag := .restart val }
        else if off = 0x60 then s.modFn fn fun k => k.writeRec val
        else if off = 0x100018 && fn = 0 then { s with errRing := .restart val }
        else s)

/-! ## The host's memory windows (R100, R352) -/

/-- A window access that is refused (R352): reported through AER and to ERR_RING. -/
def State.refuseHost (s : State) (f gpa : Nat) : State :=
  { (s.errRec 0x0B 8 0 0 (word gpa) (word f)) with pcie := s.pcie ++ [.aer f gpa] }

/-- The range of HBM that the module reserves for a function's host log, sixteen sub-logs of 256 KiB (R100). DESIGN CHOICE (log 108): the
last 128 MiB of the module's memory hold them in the order of the functions. -/
def hostRange (f : Nat) : Nat := 16 * Config.stackBytes - (32 - f) * 2 ^ 22

/-- The sub-logs of a function's host log (R77, R100). -/
def State.hostLog (s : State) (f st : Nat) : State :=
  s.modSub st f fun l => { l with fn := f, src := BitVec.ofNat 16 (0xF800 + f), base := some (hostRange f) }

/-- A function is bound to the host interface of die 4; the PF and every other function to that of die 0 (R336, R352). -/
def State.ifaceOf (s : State) (f : Nat) : Nat := if (s.fn f).die4 then 1 else 0

/-- The interface of a function is enabled (R19), and die 4's reaches the front end across the ring (R352). -/
def State.ifaceUp (s : State) (f : Nat) : Bool :=
  if (s.fn f).die4 then s.links.hosts.2 && !s.links.cut.contains 4 else s.links.hosts.1

/-- A register as the host reads it: all ones while the function's FLR is not over (R336). -/
def State.hostReg (s : State) (f off : Nat) : Word := if (s.fn f).resetting then BitVec.allOnes 64 else s.regRead f off

/-- The function whose interface brings a write of the host: a management command is a register write of the PF's (R294, R312). -/
def hostFn (i : Instr) : Option Nat :=
  match i with
  | .hostWindowWrite f _ _ => some f
  | .qNotify f _ _ => some f
  | .qEnable f _ _ => some f
  | .qDisable f _ _ => some f
  | .qReset f _ _ => some f
  | .ringRestart f _ _ => some f
  | .faultResume f _ => some f
  | .faultAbort f _ => some f
  | .registerWrite f _ _ => some f
  | .flr f => some f
  | .grant _ => some 0
  | .takeback _ => some 0
  | .freeze _ => some 0
  | .thaw _ => some 0
  | .save _ => some 0
  | .restore _ => some 0
  | .keyload _ => some 0
  | .keyclear _ => some 0
  | .invalidate _ => some 0
  | .dirty _ => some 0
  | .exportq _ => some 0
  | .importq _ => some 0
  | .halt _ => some 0
  | .shadowadd _ => some 0
  | .shadowtake _ => some 0
  | .ringpool _ => some 0
  | .mgmtBadCommand _ => some 0
  | .ckptStart _ => some 0
  | _ => none

/-- The interface of a function cannot pass anything on: no path joins it to the front end (R13, R352). -/
def State.hostShut (s : State) (f : Nat) : Bool := !s.hostReach (s.ifaceOf f)

/-- A write of the host that its interface does not pass on now: it is lost while the interface is not enabled or the function's FLR
is not over (R19, R336), and held where no path leads on or behind an earlier write that waits for log space (R13, R100). None: it is
accepted. -/
def State.hostIn (s : State) (i : Instr) : Option State :=
  match hostFn i with
  | none => none
  | some f =>
    if 32 ≤ f then none
    else if !s.ifaceUp f || (s.fn f).resetting then some s
    else if s.hostShut f || s.hostq.any fun j => (hostFn j).any fun g => s.ifaceOf g == s.ifaceOf f then some { s with hostq := s.hostq ++ [i] }
    else none

/-- The first write that an interface holds, where it is passed on, and the state without it (R13, R100): one of a function whose FLR is
not over is lost (R336). -/
def State.hostOut (s : State) (iface : Nat) : Option Instr × State :=
  match if s.hostReach iface then s.hostq.find? fun j => (hostFn j).any fun g => s.ifaceOf g == iface else none with
  | some j => (if (hostFn j).any fun g => (s.fn g).resetting then none else some j, { s with hostq := s.hostq.erase j })
  | none => (none, s)

/-- A write inside one granule as an entry of a host log (R77, R100). -/
def State.hostEntry (s : State) (f pa gpa : Nat) (bs : List Byte) : State :=
  let lo := pa % 64
  let ds := List.replicate lo 0 ++ bs ++ List.replicate (64 - lo - bs.length) 0
  let st := stackOf pa
  (s.hostLog f st).appendEntry st f (dataEntry (granOf pa) ds ((2 ^ bs.length - 1) * 2 ^ lo) 0 none gpa)

/-- Translated parts of a window write, in order, enter the host log. The first that finds its sub-log full waits at the interface with what
is left of the write; where the sub-log is full of unpublished entries the interface publishes it (R100). -/
def State.windowWrite (s : State) (f : Nat) : List (Nat × Nat × List Byte) → State
  | [] => s
  | e :: es =>
    let l := s.sub (stackOf e.1) f
    if l.full then
      let s := if l.entries.any (·.published) then s else s.publish (stackOf e.1) f .interim 0 0x3FFF 0
      { s with hostq := .hostWindowWrite f e.2.1 (e.2.2 ++ es.flatMap fun q => q.2.2) :: s.hostq }
    else (s.hostEntry f e.1 e.2.1 e.2.2).windowWrite f es

/-- HOST_WINDOW_WRITE (R100, R352): it enters the host log in the order of acceptance. -/
def execHostWindowWrite (fn gpa : Nat) (bytes : List (BitVec 8)) (s : State) : Host.Outcome State Fault Refusal :=
  .next (let ps := cutGrans gpa bytes
    let at' := ps.map fun p => (p, s.gpaOf fn p.1 true)
    if 32 ≤ fn then s
    else match at'.find? fun e => match e.2 with | .ok _ => false | .error _ => true with
      | some e => s.refuseHost fn e.1.1
      | none => s.windowWrite fn (at'.filterMap fun e => match e.2 with | .ok pa => some (pa, e.1.1, e.1.2) | .error _ => none))

/-- HOST_WINDOW_READ (R100, R336, R352, R359): the applied image with the function's own host-log entries merged; all ones while its
FLR is not over. The granules' check values are tested. -/
def execHostWindowRead (fn gpa len : Nat) (s : State) : Host.Outcome State Fault Refusal :=
  .next (let ps := (cutGrans gpa (List.replicate len 0)).map fun p => (p.1, p.2.length, s.gpaOf fn p.1 false)
    if 32 ≤ fn || !s.ifaceUp fn || s.hostShut fn then s
    else if (s.fn fn).resetting then { s with pcie := s.pcie ++ [.read fn gpa (some (List.replicate len 0xFF)) false] }
    else match ps.find? fun e => match e.2.2 with | .ok _ => false | .error _ => true with
      | some e => { (s.refuseHost fn e.1) with pcie := s.pcie ++ [.aer fn e.1, .read fn gpa none false] }
      | none =>
        let pas := ps.filterMap fun e => match e.2.2 with | .ok pa => some (pa, e.2.1) | .error _ => none
        let s := pas.foldl (fun s e => s.checkGran (granOf e.1)) s
        let bad := pas.any fun e => s.granBad (granOf e.1)
        { s with pcie := s.pcie ++ [.read fn gpa (some (pas.flatMap fun e => s.loadBytes fn none e.1 e.2)) bad] })

/-- The host log of a function published (R100, R297). -/
def State.publishHost (s : State) (f : Nat) : State :=
  (List.range 16).foldl (fun s st => if (s.sub st f).unpublished.isEmpty then s else s.publish st f .host 0 0x3FFF 0) s

end Sys2Proof.Machine
end

