-- ==== Sys2Proof/Machine/Image.lean ====
section
/-! DEFINITION. Graph images (R154) and the checks that the placement allocator makes of them (R155). -/

namespace Sys2Proof.Machine

/-- An entry of a segment (R154): argument, place, and the presets of its frame. -/
structure ImgEntry where
  arg : Nat
  vcell : Nat
  ia : Nat
  port : Nat
  level : Nat
  presets : List (Nat × Word)
  deriving DecidableEq, Repr

/-- A segment of an image (R154). -/
structure Seg where
  load : Nat
  first : Nat
  count : Nat
  /-- frame-area slots, sub-log bytes, spill-ring bytes -/
  area : Nat
  log : Nat
  spill : Nat
  pools : List Word
  entries : List ImgEntry
  code : List IWord
  deriving DecidableEq, Repr

/-- A graph image (R154). -/
structure Image where
  vcount : Nat
  nload : Nat
  segs : List Seg
  deriving DecidableEq, Repr

/-- The low and the high 32-bit word of each word. -/
def halves (ws : List Word) : List IWord := ws.flatMap fun (w : Word) => [w.setWidth 32, (w >>> 32).setWidth 32]

/-- Preset pairs taken for entries in order; none where the pairs run out or are left over (R155). -/
def takePresets : List Word → List Word → Option (List ImgEntry)
  | [], [] => some []
  | [], _ => none
  | e :: es, ps =>
    let n := bits e 40 8
    if ps.length < 2 * n then none
    else
      match takePresets es (ps.drop (2 * n)) with
      | none => none
      | some r => some ({
          arg := bits e 0 4
          vcell := bits e 4 11
          ia := bits e 15 14
          port := bits e 29 1
          level := bits e 30 3
          presets := (List.range n).map fun i => ((ps.getD (2 * i) 0).toNat, ps.getD (2 * i + 1) 0) } :: r)

/-- A pool is declared (R58, R154). -/
def poolDeclared (w : Word) : Bool := bit w 0
/-- Slots of a pool's frames. -/
def poolSlots (w : Word) : Nat := clsSlots (bits w 1 3)
/-- Frames a pool may have. -/
def poolMax (w : Word) : Nat := bits w 8 12
/-- Frames a pool reserves. -/
def poolReserve (w : Word) : Nat := bits w 20 12

/-- A pool word that R155 accepts. -/
def poolOk (w : Word) : Bool :=
  bits w 4 4 == 0 && bits w 32 32 == 0 && (!poolDeclared w || (decide (1 ≤ poolReserve w) && decide (poolReserve w ≤ poolMax w)))

/-- Slots that the reserves of a segment take (R58). -/
def reserveSlots (pools : List Word) : Nat := ((pools.filter poolDeclared).map fun w => poolReserve w * poolSlots w).sum

/-- An entry that R155 accepts in its segment. -/
def Seg.entryOk (g : Seg) (e : ImgEntry) : Bool :=
  let p := g.pools.getD e.level 0
  decide (g.first ≤ e.vcell) && decide (e.vcell < g.first + g.count) && poolDeclared p && decide (e.ia < g.code.length) &&
    e.presets.all fun q => decide (q.1 < poolSlots p)

/-- A segment from its two table words and its body (R154, R155). DESIGN CHOICE (log 87): the layout gives no count of
preset pairs beside the entries' own, so a segment holds as many pairs as its entries' counts add up to. -/
def parseSeg (t0 t1 : Word) (body : List Word) : Option Seg :=
  let size := (body.getD 0 0).toNat
  let pools := (body.drop 1).take 8
  let e := (body.getD 9 0).toNat
  let es := (body.drop 10).take e
  let np := (es.map fun w => bits w 40 8).sum
  let ps := (body.drop (10 + e)).take (2 * np)
  let nc := (size + 1) / 2
  if body.length < 10 || size = 0 || 16384 < size || body.length < 10 + e || body.length < 10 + e + 2 * np + nc then none
  else if !(pools.all poolOk) || es.any (fun w => bits w 33 7 != 0 || bits w 48 16 != 0) then none
  else if 3 < bits t1 0 3 || bits t1 8 5 < 12 || 24 < bits t1 8 5 || bits t1 16 5 < 12 || 20 < bits t1 16 5 then none
  else match takePresets es ps with
    | none => none
    | some entries =>
      let g : Seg := {
        load := bits t0 32 8
        first := bits t0 40 11
        count := bits t0 51 12 + 1
        area := 4096 * 2 ^ bits t1 0 3
        log := 2 ^ bits t1 8 5
        spill := 2 ^ bits t1 16 5
        pools := pools
        entries := entries
        code := (halves ((body.drop (10 + e + 2 * np)).take nc)).take size }
      if decide (reserveSlots pools ≤ g.area) && entries.all g.entryOk then some g else none

/-- The whole words from a byte offset: nothing of a body lies beyond the image (R155). -/
def fromByte (ws : List Word) (off : Nat) : List Word :=
  if off % 8 = 0 then ws.drop (off / 8) else (bytesWords ((wordBytes ws).drop off)).take ((8 * ws.length - off) / 8)

/-- The segments of an image's table. -/
def parseSegs (ws : List Word) : Nat → Nat → Option (List Seg)
  | 0, _ => some []
  | n + 1, i =>
    let t0 := ws.getD (4 + 2 * i) 0
    match parseSeg t0 (ws.getD (5 + 2 * i) 0) (fromByte ws (bits t0 0 32)), parseSegs ws n (i + 1) with
    | some g, some gs => some (g :: gs)
    | _, _ => none

/-- Segments of one load have no vcell in common and lie within the image's vcells (R155). -/
def segsApart (vcount : Nat) : List Seg → Bool
  | [] => true
  | g :: gs =>
    decide (g.first + g.count ≤ vcount) &&
      gs.all (fun h => h.load != g.load || decide (g.first + g.count ≤ h.first) || decide (h.first + h.count ≤ g.first)) &&
      segsApart vcount gs

/-- The CRC-32 of an image (R154): over its bytes but for those of word 3. -/
def imageCrc (ws : List Word) : BitVec 32 := crc32 (wordBytes (ws.take 3) ++ wordBytes (ws.drop 4))

/-- The check of an image's words (R155), its counts and loads within the ranges of R154 (log entry 65): none where it
is refused. -/
def parseImage (ws : List Word) : Option Image :=
  let g := fun i => ws.getD i 0
  let nseg := bits (g 1) 0 8
  let nload := bits (g 1) 8 8
  let vcount := bits (g 1) 16 11 + 1
  if nseg = 0 || nload = 0 || ws.length < 4 + 2 * nseg || bits (g 0) 0 32 ≠ 0x4D594231 || bits (g 3) 0 32 ≠ (imageCrc ws).toNat then none
  else match parseSegs ws nseg 0 with
    | none => none
    | some gs => if segsApart vcount gs && gs.all (fun s => decide (s.load < nload)) then some { vcount := vcount, nload := nload, segs := gs } else none

/-- The segment of a load that covers a vcell. -/
def Image.seg (m : Image) (load v : Nat) : Option Seg :=
  m.segs.find? fun g => g.load == load && decide (g.first ≤ v) && decide (v < g.first + g.count)

end Sys2Proof.Machine
end

