-- ==== Sys2Proof/Machine/Queues.lean ====
section
/-! DEFINITION. The command queues (R295 to R304) and their packets (R300 to R303, R368): registers with a
behaviour of their own, fetching, the checks of a packet, waits, and every packet but LAUNCH. -/

namespace Sys2Proof.Machine

/-! ## Where a queue parses -/

/-- Words of the ring (R295). -/
def Queue.words (q : Queue) : Nat := 2 ^ (q.size - 3)

/-- The parse offset: in the ring, or in the innermost IB (the head of `ibs`). -/
def Queue.pos (q : Queue) : Nat :=
  match q.ibs with
  | [] => q.head
  | b :: _ => b.pos

/-- Words that lie before the parse pointer's end: of the notified range, or of the IB (R297, R304). -/
def Queue.avail (q : Queue) : Nat :=
  match q.ibs with
  | [] => (q.notify + q.words - q.head % q.words) % q.words
  | b :: _ => b.len - b.pos

/-- The offset of word `i` from the parse pointer. -/
def Queue.offAt (q : Queue) (i : Nat) : Nat :=
  match q.ibs with
  | [] => (q.head + i) % q.words
  | b :: _ => b.pos + i

/-- A fetched word at the parse pointer's depth. -/
def Queue.word? (q : Queue) (i : Nat) : Option Word :=
  (q.fetched.find? fun e => e.1 == q.ibs.length && e.2.1 == q.offAt i).map (·.2.2)

/-- The offset from which fetched words of the present depth are still needed: a LOOP keeps its body (R304). -/
def Queue.start (q : Queue) : Nat :=
  match q.loop with
  | some (d, _, _, first, _) => if d = q.ibs.length then first else q.pos
  | none => q.pos

/-- How far an offset lies after another at the present depth. -/
def Queue.dist (q : Queue) (a b : Nat) : Nat :=
  match q.ibs with
  | [] => (b + q.words - a % q.words) % q.words
  | _ => b - a

/-- A word of the ring lies in the notified range, or in the part of a LOOP's body that has been parsed (R297, R304). -/
def Queue.notified (q : Queue) (off : Nat) : Bool :=
  let d := fun (a b : Nat) => (b + q.words - a % q.words) % q.words
  decide (d q.head off < d q.head q.notify) ||
    (match q.loop with
     | some (0, _, _, first, _) => decide (d first off < d first q.head)
     | _ => false)

/-- Fetched words that lie behind the parse pointer are gone, and those of the ring, whatever the depth of the parse, that are
outside the notified range are discarded (R297). -/
def Queue.trim (q : Queue) : Queue :=
  { q with fetched := q.fetched.filter fun e =>
      if e.1 = 0 then q.notified e.2.1
      else if e.1 = q.ibs.length then decide (q.start ≤ e.2.1)
      else decide (e.1 < q.ibs.length) }

/-! ## Errors (R298, R299) -/

/-- A packet error written to the error ring (R298, R299): halting below code 0x0A. -/
def State.pktError (s : State) (f q code id : Nat) : State :=
  let k := s.queue f q
  let halting := decide (code < 0x0A)
  let w0 := word ((if halting then 0x80 else 0x81) + code * 2 ^ 8 + q * 2 ^ 16 + k.ibs.length * 2 ^ 28 + id * 2 ^ 32)
  let s := s.putE f q [w0, word (8 * k.pos), word (match k.ibs with | [] => 0 | b :: _ => b.addr)] (s.now 0)
  s.modQ f q fun k => { k with code := BitVec.ofNat 8 code, st := if halting then .error else k.st,
                               wait := if halting then .none else k.wait }

/-- A length error met by a skip or a loop that runs past the end of an IB (R302). -/
def Queue.overrun (q : Queue) : Bool :=
  match q.ibs with
  | [] => false
  | b :: _ =>
    decide (b.len ≤ b.pos) &&
      ((match q.skip with | some (d, _) => d == q.ibs.length | none => false) ||
        (match q.loop with | some (d, _, _, _, _) => d == q.ibs.length | none => false))

/-- The parse pointer set. -/
def Queue.setPos (q : Queue) (n : Nat) : Queue :=
  match q.ibs with
  | [] => { q with head := n }
  | b :: bs => { q with ibs := { b with pos := n } :: bs }

/-- One packet more of a LOOP's body has been parsed, the indirect buffer of an IBCALL with it; the next pass at its end (R302). -/
def Queue.counted (q : Queue) : Queue :=
  match q.loop with
  | none => q
  | some (d, body, left, first, done) =>
    if d ≠ q.ibs.length then q
    else if done + 1 < body then { q with loop := some (d, body, left, first, done + 1) }
    else if left ≤ 1 then { q with loop := none }
    else { q.setPos first with loop := some (d, body, left - 1, first, 0) }

/-- The ends of indirect buffers (R302): parsing returns after the IBCALL, which is then a packet more of a LOOP's body. -/
def Queue.pop : Nat → Queue → Queue
  | 0, q => q
  | n + 1, q =>
    match q.ibs with
    | [] => q
    | b :: bs => if b.len ≤ b.pos && !q.overrun then Queue.pop n (Queue.counted { q with ibs := bs }) else q

/-- The parse pointer past a packet of `n` words. -/
def Queue.past (q : Queue) (n : Nat) : Queue := (q.setPos (q.offAt n)).counted

/-- The queue past a packet of `n` words: the ends of IBs, words that are behind it. -/
def Queue.advance (q : Queue) (n : Nat) : Queue := (Queue.pop 2 (q.past n)).trim

/-- A packet processed (R302): it counts, and what has not completed of it stands among the pending. -/
def State.processed (s : State) (f q n : Nat) (p : List Pending) : State :=
  let s := s.modQ f q fun k =>
    let k := k.advance n
    { k with
      pkts := k.pkts + 1
      num := k.num + 1
      cleared := false
      wait := .none
      copied := 0
      pending := k.pending ++ p }
  if (s.queue f q).overrun then s.pktError f q 2 0 else s.modQ f q Queue.settle

/-! ## The checks of a packet (R368) -/

/-- The opcode of a packet. -/
def pktOp (h : Word) : Nat := bits h 56 8
/-- The length of a packet in words. -/
def pktLen (h : Word) : Nat := bits h 44 12

/-- The header fields of a packet are within their ranges (R300, R301). -/
def pktFields (h : Word) : Bool :=
  let op := pktOp h
  let arg := bits h 0 40
  !bit h 43 && (!bit h 42 || op == 1) && (!bit h 41 || op == 1 || op == 7) &&
    (match op with
     | 0x01 => bits h 3 5 == 0 && bits h 10 6 == 0 && bits h 21 19 == 0 && decide (bits h 16 5 ≤ 16)
     | 0x03 => bits h 0 8 != 0 && decide (bits h 8 4 ≤ 11) && bits h 12 28 == 0
     | 0x04 => bits h 0 8 != 0 && bits h 8 16 != 0 && bits h 24 16 == 0
     | 0x07 => bits h 11 29 == 0
     | 0x08 => decide (bits h 0 4 ≤ 11) && bits h 4 36 == 0
     | 0x0A => true
     | _ => arg == 0)

/-- The length of an opcode (R301): none where any is right. -/
def opLength (h : Word) : Option Nat :=
  match pktOp h with
  | 0x01 => some (3 + bits h 16 5)
  | 0x02 => some 3
  | 0x03 => some 3
  | 0x04 => some 1
  | 0x05 => some 1
  | 0x06 => some 3
  | 0x07 => some 3
  | 0x08 => some 4
  | 0x09 => some 2
  | 0x0B => some 4
  | 0x0C => some 1
  | _ => none

/-- Checks 1 to 4 of R368 on a header: the error's code. -/
def Queue.headerErr (q : Queue) (h : Word) : Option Nat :=
  let n := pktLen h
  if pktOp h = 0 || 12 < pktOp h then some 1
  else if n = 0 || q.words < n || (!q.ibs.isEmpty && q.avail < n) then some 2
  else if !pktFields h then some 4
  else match opLength h with
    | some m => if n = m then none else some 2
    | none => none

/-- The fields of the words after the header (R301, R368). -/
def wordFields (h : Word) (w : List Word) : Bool :=
  match pktOp h with
  | 0x02 => bits (w.getD 2 0) 32 32 == 0 && decide (1 ≤ bits (w.getD 2 0) 0 32) && decide (bits (w.getD 2 0) 0 32 ≤ 2 ^ 21)
  | 0x06 => bits (w.getD 1 0) 47 17 == 0
  | 0x0B => bits (w.getD 3 0) 32 32 == 0 && bits (w.getD 3 0) 0 32 % 64 == 0
  | _ => true

/-- The addresses of a packet are aligned (R300, R368). -/
def wordAddrs (h : Word) (w : List Word) : Bool :=
  match pktOp h with
  | 0x02 | 0x03 | 0x07 | 0x08 | 0x09 => (w.getD 1 0).toNat % 8 == 0
  | 0x0B => (w.getD 1 0).toNat % 64 == 0 && (w.getD 2 0).toNat % 64 == 0
  | _ => true

/-- Nothing is parsed at a queue now: it is not ACTIVE, it stops at this packet boundary, or an access of it is parked. -/
def Queue.still (q : Queue) : Bool := q.st != .active || (q.stopping && !q.begun) || q.parked.isSome

/-- What stands at a queue's parse pointer. -/
inductive Parse where
  /-- nothing that can be parsed now -/
  | nothing
  | err (code : Nat)
  /-- a packet that has passed checks 1 to 5: its words -/
  | pkt (w : List Word)
  deriving DecidableEq, Repr

/-- The words of a packet, all of them fetched. -/
def Queue.take (q : Queue) (n : Nat) : Option (List Word) :=
  let ws := (List.range n).filterMap q.word?
  if ws.length = n then some ws else none

/-- The packet at the parse pointer (R300, R304, R368). The words of a NOPP beyond its header are ignored. -/
def Queue.parse (q : Queue) : Parse :=
  if q.still then .nothing
  else match q.word? 0 with
    | none => .nothing
    | some h => match q.headerErr h with
      | some c => .err c
      | none =>
        if q.avail < pktLen h then .nothing
        else match q.take (if pktOp h = 0x0A then 1 else pktLen h) with
          | none => .nothing
          | some w => if !wordFields h w then .err 4 else if !wordAddrs h w then .err 5 else .pkt w

/-! ## Waits (R302, R303) -/

/-- A pending packet has completed, as far as the stacks tell. -/
def State.landed (s : State) (p : Pending) : Bool :=
  p.launch.isNone && p.wake.isNone && p.waitSegs.all fun e => decide (e.2 ≤ (s.stack e.1).doneSegs)

/-- Every earlier packet of a queue has completed (R303). An IBCALL has no entry: its packets have. -/
def State.earlierDone (s : State) (f q : Nat) : Bool := (s.queue f q).pending.all s.landed

/-- A packet that waits as bar does (R300, R302). -/
def waitsBar (h : Word) : Bool := bit h 40 || [0x03, 0x05, 0x07, 0x0C].contains (pktOp h)

/-- The header at the parse pointer of a queue that skips (R302): that of a packet wholly inside the notified range or IB, or one
whose opcode or length is an error. DESIGN CHOICE (log 105): a length in range that is not its opcode's is no error there. -/
def Queue.skipHeader (q : Queue) : Option (Word × Option Nat) :=
  if q.still then none
  else match q.word? 0 with
    | none => none
    | some h =>
      if pktOp h = 0 || 12 < pktOp h then some (h, some 1)
      else if pktLen h = 0 || q.words < pktLen h || (!q.ibs.isEmpty && q.avail < pktLen h) then some (h, some 2)
      else if q.avail < pktLen h then none
      else some (h, none)

/-- A queue has something to parse at a turn of the front end's (R310). -/
def Queue.parsable (q : Queue) : Bool :=
  if q.skip.isSome then q.skipHeader.isSome else !q.begun && q.parse != .nothing

/-- A function's device queue has a launch to dispatch (R309). -/
def State.devParsable (s : State) (f : Nat) : Bool :=
  !(s.fn f).devq.isEmpty && (s.queue f Config.devq).parked.isNone &&
    decide ((s.insts.filter fun i => i.fn == f && i.dev).length < Config.liveLaunches)

/-- Turns that a queue may have in a round, and those it has had (R309, R310). -/
def State.share (s : State) (f q : Nat) : Nat × Nat :=
  if q = Config.devq then (8, (s.fn f).devServed) else (2 ^ (s.queue f q).prio, (s.queue f q).served)

/-- Another queue can be parsed and has turns left in this round (R310). -/
def State.othersTurn (s : State) (f q : Nat) : Bool :=
  s.fns.any fun e =>
    ((e.1, Config.devq) != (f, q) && s.devParsable e.1 && decide (e.2.devServed < 8)) ||
      e.2.queues.any fun k => (e.1, k.1) != (f, q) && s.hasQ e.1 k.1 && k.2.parsable && decide (k.2.served < 2 ^ k.2.prio)

/-- A new round of the front end. -/
def State.newRound (s : State) : State :=
  { s with fns := s.fns.map fun (e : Nat × Fn) => (e.1, { e.2 with
      devServed := 0
      queues := e.2.queues.map fun (k : Nat × Queue) => (k.1, { k.2 with served := 0 }) }) }

/-- One turn of a queue counted. -/
def State.countTurn (s : State) (f q : Nat) : State :=
  if q = Config.devq then s.modFn f fun k => { k with devServed := k.devServed + 1 }
  else s.modQ f q fun k => { k with served := k.served + 1 }

/-- A queue takes a turn of the weighted round robin (R310), one packet long: none while its turns of this round are over and
another queue has some left. A queue alone goes on. -/
def State.turn (s : State) (f q : Nat) : Option State :=
  if (s.share f q).2 < (s.share f q).1 then some (s.countTurn f q)
  else if s.othersTurn f q then none
  else some (s.newRound.countTurn f q)

/-- A packet whose own access is parked has begun (R296). -/
def State.markBegun (s : State) (f q : Nat) : State :=
  if (s.queue f q).parked.isSome then s.modQ f q fun k => { k with cleared := true } else s

/-- What a packet event does on the words of a packet of its opcode: it goes on with `body` once the packet's bar wait is over. -/
def State.process (s : State) (f q : Nat) (w : List Word) (body : State → List Word → State) : State :=
  if waitsBar (w.getD 0 0) && !(s.queue f q).cleared && !s.earlierDone f q then s.modQ f q fun k => { k with wait := .bar }
  else (body s w).markBegun f q

/-- A packet event (R302): on the packet of its opcode, in the queue's turn where the packet has not begun; a packet that fails a
check is an error whichever event meets it. -/
def State.packet (s : State) (f q op : Nat) (body : State → List Word → State) : State :=
  let k := s.queue f q
  if !s.hasQ f q || k.skip.isSome then s
  else match k.parse with
    | .nothing => s
    | .err c => if k.begun then s else ((s.turn f q).map fun s => s.pktError f q c 0).getD s
    | .pkt w =>
      if pktOp (w.getD 0 0) ≠ op || k.wait = .bar || k.wait = .launches then s
      else if k.begun then s.process f q w body
      else ((s.turn f q).map fun s => s.process f q w body).getD s

/-- BAR_WAIT_END (R303). -/
def execBarWaitEnd (fn q : Nat) (s : State) : Host.Outcome State Fault Refusal :=
  .next (match (s.queue fn q).wait with
    | .bar => if s.earlierDone fn q then s.modQ fn q fun k => { k with wait := .none, cleared := true } else s
    | .launches =>
      if (s.queue fn q).live.length < Config.liveLaunches then s.modQ fn q fun k => { k with wait := .none, cleared := true } else s
    | _ => s)

/-- How many segments each stack must have done for an acquire that starts now (R88). -/
def State.segMarks (s : State) : List Nat := (List.range 16).map fun st => (s.stack st).doneSegs + (s.stack st).segs.length

/-- Every stack has done so many segments. -/
def State.reached (s : State) (m : List Nat) : Bool := m.zipIdx.all fun e => decide (e.1 ≤ (s.stack e.2).doneSegs)

/-- The acquire of a PRED or an FFENCE (R302): what follows happens once it is complete. -/
def State.acquired? (s : State) (f q : Nat) (k : State → State) : State :=
  match (s.queue f q).wait with
  | .acqa m => if s.reached m then k s else s
  | _ => if s.reached s.segMarks then k s else s.modQ f q fun k => { k with wait := .acqa s.segMarks }

/-! ## The front end's own accesses (R300, R318) -/

/-- An access of the front end for a queue (R73, R300, R318): it goes on with the address; a resolvable page
fault parks it; otherwise `bad` follows. -/
def State.front (s : State) (f q gpa : Nat) (write : Bool) (bad : State → State) (go : State → Nat → State) : State :=
  match s.nested Config.frontEnd f gpa with
  | .ok pa _ _ _ r w => if write && !w || !write && !r then bad s else go s pa
  | .missing e =>
    if (s.fn 0).fring.base = 0 then bad s
    else (match s.park { ring := 0, entry := e, vf := f, write := write, what := gpaWord gpa, vcell := 0x7FF, ctx := 0, cell := 0 } with
      | none => s
      | some r => r.1.modQ f q fun k => { k with parked := some (0, r.2) })
  | .broken => bad s
  | .lost => bad s

/-- ADDRESS, for a packet's own access (R299). -/
def badAddress (f q : Nat) (s : State) : State := s.pktError f q 5 0

/-- A word read by the front end. -/
def State.frontRead (s : State) (f q gpa : Nat) (go : State → Word → State) : State :=
  s.front f q gpa false (badAddress f q) fun s pa => go s (word (leNat (s.loadBytes f none pa 8)))

/-- An applied write of a word (R302, R337): a page of a checkpoint under it is streamed first (R362). -/
def State.frontWrite (s : State) (f gpa pa : Nat) (v : Word) : State :=
  let lo := pa % 64
  let bs := List.replicate lo 0 ++ leBytes v.toNat 8 ++ List.replicate (56 - lo) 0
  ((s.streamed (s.aheadOf [pa])).mergeChecked none (granOf pa) bs (255 * 2 ^ lo)).dirty f gpa

/-! ## Queue registers (R296, R297, R369) -/

/-- The words of a notify's record (R363): queue, tail, and the host-log entries it publishes. -/
def State.notifyWords (s : State) (f q tail : Nat) : List Word :=
  [word q, word tail] ++ (List.range 16).flatMap fun st =>
    (s.sub st f).unpublished.flatMap fun e => e.words (s.sub st f).src (s.sub st f).smod

/-- Q_NOTIFY (R297, R369): the host log is published and the tail set, whatever the queue's state. -/
def execQNotify (fn q : Nat) (val : BitVec 64) (s : State) : Host.Outcome State Fault Refusal :=
  .next (if 32 ≤ fn || !s.hasQ fn q then s
    else
      let tail := bits val 0 21
      let s := (s.recordTo fn 2 (s.notifyWords fn q tail)).publishHost fn
      let s := s.modQ fn q fun k => { k with notify := tail }
      if (s.queue fn q).words ≤ tail then
        let s := s.putE fn q [word (0x80 + 9 * 2 ^ 8 + q * 2 ^ 16), word tail, 0] (s.now 0)
        s.modQ fn q fun k => { k with code := 9, st := .error, wait := .none }
      else s.modQ fn q Queue.trim)

/-- Q_ENABLE (R296). -/
def execQEnable (fn q : Nat) (val : BitVec 64) (s : State) : Host.Outcome State Fault Refusal :=
  .next (if 32 ≤ fn || !s.hasQ fn q || !bit val 0 || bit val 1 then s
    else s.modQ fn q fun k =>
      let k := { k with en := true, prio := bits val 2 2, stopping := false }
      if k.st = .disabled then
        { k with
          st := .active
          head := k.notify
          fetched := []
          ibs := []
          loop := none
          skip := none
          wait := .none
          cleared := false
          copied := 0
          parked := none }
      else k)

/-- Q_DISABLE (R296): an ACTIVE queue stops at the next packet boundary. -/
def execQDisable (fn q : Nat) (val : BitVec 64) (s : State) : Host.Outcome State Fault Refusal :=
  .next (if 32 ≤ fn || !s.hasQ fn q || bit val 0 || bit val 1 then s
    else s.modQ fn q fun k =>
      ({ k with en := false, prio := bits val 2 2, stopping := k.st == .active } : Queue).settle)

/-- Q_RESET (R296): fetched words go, launches run on. -/
def execQReset (fn q : Nat) (val : BitVec 64) (s : State) : Host.Outcome State Fault Refusal :=
  .next (if 32 ≤ fn || !s.hasQ fn q || !bit val 1 then s
    else s.modQ fn q fun k => { k with
      en := bit val 0
      prio := bits val 2 2
      st := if bit val 0 then .active else .disabled
      head := k.notify
      fetched := []
      ibs := []
      loop := none
      skip := none
      wait := .none
      cleared := false
      copied := 0
      parked := none
      stopping := false })

/-! ## Fetching (R304) -/

/-- The next word to fetch at the parse pointer's depth: within the notified range or the IB, at most 512 ahead. -/
def Queue.nextFetch (q : Queue) : Option Nat :=
  (List.range (Nat.min q.avail Config.fetchAhead)).find? fun i => (q.word? i).isNone

/-- The guest address of a word at the parse pointer's depth. -/
def Queue.addrOf (q : Queue) (off : Nat) : Nat :=
  match q.ibs with
  | [] => q.base + 8 * off
  | b :: _ => b.addr + 8 * off

/-- The parse waits for word `i`, the first that has not been fetched: the header, or a word of the packet there. -/
def Queue.needs (q : Queue) (i : Nat) : Bool :=
  match q.word? 0 with
  | none => i == 0
  | some h => q.skip.isNone && (q.headerErr h).isNone && decide (i < if pktOp h = 0x0A then 1 else pktLen h)

/-- The parse waits for words that have not been fetched or notified (R295). -/
def Queue.starving (q : Queue) : Bool :=
  !q.still && q.wait == .none &&
    match q.word? 0 with
    | none => decide (0 < q.avail) || q.skip.isSome
    | some h => if q.skip.isSome then q.skipHeader.isNone else q.parse == .nothing

/-- QUEUE_FETCH (R304): one more word. Ring words are fetched once the publications of earlier notifies have been
applied (R100). A word ahead of the packet being parsed that cannot be read is left until the parse needs it. -/
def execQueueFetch (fn q : Nat) (s : State) : Host.Outcome State Fault Refusal :=
  .next (let k := s.queue fn q
    if !s.hasQ fn q || k.st != .active || k.parked.isSome then s
    else if k.ibs.isEmpty && (List.range 16).any (fun st => (s.stack st).waiting fn != 0) then s
    else match k.nextFetch with
      | none => s
      | some i =>
        let off := k.offAt i
        if (match s.gpaOf fn (k.addrOf off) false with | .ok _ => false | .error _ => true) && !k.needs i then s
        else s.frontRead fn q (k.addrOf off) fun s v => s.modQ fn q fun k => { k with fetched := k.fetched ++ [(k.ibs.length, off, v)] })

/-! ## Packets (R302) -/

/-- IBCALL (R299, R302). -/
def execIbcall (fn q : Nat) (s : State) : Host.Outcome State Fault Refusal :=
  .next (s.packet fn q 0x02 fun s w =>
    if 2 ≤ (s.queue fn q).ibs.length then s.pktError fn q 3 0
    else s.modQ fn q fun k =>
      let k := (k.setPos (k.offAt 3)).trim
      ({ k with
        pkts := k.pkts + 1
        num := k.num + 1
        cleared := false
        ibs := { addr := (w.getD 1 0).toNat, len := bits (w.getD 2 0) 0 32 } :: k.ibs } : Queue).settle)

/-- One packet of a PRED's skip (R302): only its opcode and its length are checked. -/
def State.skipOne (s : State) (f q d left : Nat) : State :=
  match (s.queue f q).skipHeader with
  | none => s
  | some (h, err) => match s.turn f q with
    | none => s
    | some s => match err with
      | some c => s.pktError f q c 0
      | none =>
        let s := s.modQ f q fun k => ({ k with skip := if left ≤ 1 then none else some (d, left - 1) } : Queue).advance (pktLen h)
        if (s.queue f q).overrun then s.pktError f q 2 0 else s.modQ f q Queue.settle

/-- PRED (R302): while its skip goes on, it takes one packet more. -/
def execPredP (fn q : Nat) (s : State) : Host.Outcome State Fault Refusal :=
  .next (match (s.queue fn q).skip with
    | some (d, left) => if s.hasQ fn q then s.skipOne fn q d left else s
    | none => s.packet fn q 0x03 fun s w =>
      s.acquired? fn q fun s =>
        s.frontRead fn q (w.getD 1 0).toNat fun s v =>
          let h := w.getD 0 0
          let holds := condInt (bits h 8 4) 64 v.toNat (w.getD 2 0).toNat
          let s := s.modQ fn q fun k => { k with skip := if holds then none else some (k.ibs.length, bits h 0 8) }
          s.processed fn q 3 [])

/-- LOOP (R299, R302). -/
def execLoopP (fn q : Nat) (s : State) : Host.Outcome State Fault Refusal :=
  .next (s.packet fn q 0x04 fun s w =>
    let h := w.getD 0 0
    if (s.queue fn q).loop.isSome then s.pktError fn q 3 0
    else if !(s.queue fn q).ibs.isEmpty && (s.queue fn q).avail ≤ 1 then s.pktError fn q 2 0
    else
      let first := (s.queue fn q).offAt 1
      let s := s.processed fn q 1 []
      let d := (s.queue fn q).ibs.length
      s.modQ fn q fun k => { k with loop := some (d, bits h 0 8, bits h 8 16, first, 0) })

/-- Fetched words beyond the present packet discarded, at every depth (R302). -/
def Queue.discard (q : Queue) : Queue :=
  { q with fetched := q.fetched.filter fun e => e.1 == q.ibs.length && decide (q.dist q.start e.2.1 ≤ q.dist q.start q.pos) }

/-- FFENCE (R302). -/
def execFfence (fn q : Nat) (s : State) : Host.Outcome State Fault Refusal :=
  .next (s.packet fn q 0x05 fun s _ =>
    (s.modQ fn q Queue.discard).acquired? fn q fun s => s.processed fn q 1 [])

/-- A wake value on its way to its port (R221, R302): by an instance that may fire. -/
def State.sendWake (s : State) (i : Inst) (q num vcell port : Nat) (v : Word) : State :=
  s.inject { vn := 4, src := Config.frontEnd, dst := i.place.getD vcell 0, ctx := i.ctx, committed := true, counts := false,
             body := .wake port i.ctx v (i.fn, q, num) }

/-- A wake packet for a launch whose first firing is not allowed yet: it is kept (R302). -/
def State.keepWake (s : State) (q f id vcell port : Nat) (v : Word) : State :=
  s.processed f q 3 [{ num := (s.queue f q).num, wake := some (id, vcell, port, v, false) }]

/-- WAKE (R299, R302, R309, R363): at once, or once the first firing of its launch, which may still stand in the device queue, is
allowed. -/
def execWake (fn q : Nat) (s : State) : Host.Outcome State Fault Refusal :=
  .next (s.packet fn q 0x06 fun s w =>
    let id := bits (w.getD 1 0) 0 32
    let vcell := bits (w.getD 1 0) 32 11
    let port := bits (w.getD 1 0) 43 4
    let v := w.getD 2 0
    match s.inst? fn id with
    | none =>
      (match (s.fn fn).devq.find? fun p => p.id == id with
       | none => (s.pktError fn q 0x0A id).processed fn q 3 []
       | some p => if p.vcountM1 < vcell then s.pktError fn q 4 id else s.keepWake q fn id vcell port v)
    | some i =>
      match parseImage i.words with
      | none => s
      | some m =>
        if m.vcount ≤ vcell then s.pktError fn q 4 id
        else
          let num := (s.queue fn q).num
          if !i.started then s.keepWake q fn id vcell port v
          else
            let s := s.processed fn q 3 [{ num := num, wake := some (id, vcell, port, v, true) }]
            (s.recordTo fn 3 [w.getD 1 0, v]).sendWake i q num vcell port v)

/-- SIGNAL (R302). -/
def execSignal (fn q : Nat) (s : State) : Host.Outcome State Fault Refusal :=
  .next (s.packet fn q 0x07 fun s w =>
    let h := w.getD 0 0
    let gpa := (w.getD 1 0).toNat
    s.front fn q gpa true (badAddress fn q) fun s pa =>
      let s := (s.frontWrite fn gpa pa (w.getD 2 0)).processed fn q 3 []
      if bit h 41 then { s with pcie := s.pcie ++ [.msix fn (bits h 0 11)] } else s)

/-- One read of a WAITV (R302). -/
def State.waitvRead (s : State) (f q : Nat) (w : List Word) : State :=
  s.frontRead f q (w.getD 1 0).toNat fun s v =>
    if condInt (bits (w.getD 0 0) 0 4) 64 (v &&& w.getD 3 0).toNat (w.getD 2 0).toNat then s.processed f q 4 []
    else s.modQ f q fun k => { k with wait := .waitv s.clock.nc }

/-- WAITV (R302): its first read. -/
def execWaitv (fn q : Nat) (s : State) : Host.Outcome State Fault Refusal :=
  .next (s.packet fn q 0x08 fun s w =>
    match (s.queue fn q).wait with
    | .waitv _ => s
    | _ => s.waitvRead fn q w)

/-- WAITV_POLL (R302): every 1,024 nc. -/
def execWaitvPoll (fn q : Nat) (s : State) : Host.Outcome State Fault Refusal :=
  .next (s.packet fn q 0x08 fun s w =>
    match (s.queue fn q).wait with
    | .waitv last => if last + Config.waitvNc ≤ s.clock.nc then s.waitvRead fn q w else s
    | _ => s)

/-- TIMESTAMP (R302). -/
def execTimestamp (fn q : Nat) (s : State) : Host.Outcome State Fault Refusal :=
  .next (s.packet fn q 0x09 fun s w =>
    let gpa := (w.getD 1 0).toNat
    s.front fn q gpa true (badAddress fn q) fun s pa => (s.frontWrite fn gpa pa (s.now 0)).processed fn q 2 [])

/-- NOPP (R302). -/
def execNopp (fn q : Nat) (s : State) : Host.Outcome State Fault Refusal :=
  .next (s.packet fn q 0x0A fun s w => s.processed fn q (pktLen (w.getD 0 0)) [])

/-- A granule as HCOPY reads it (R302, R355). -/
def State.copyGran (s : State) (f pa : Nat) : List Byte :=
  if s.gpoison.contains (granOf pa) then (List.range 64).map fun i => Config.badByte (pa + i)
  else s.loadGran f none (granOf pa)

/-- The granules of an HCOPY still to be copied, in order (R302): a full sub-log is published, and the copy goes on
once replay has freed space. -/
def State.hcopyFrom (s : State) (f q src dst : Nat) : Nat → State
  | 0 =>
    let s := s.publishHost f
    let segs := (List.range 16).filterMap fun st =>
      if (s.stack st).waiting f = 0 then none else some (st, (s.stack st).doneSegs + (s.stack st).segs.length)
    s.processed f q 4 [{ num := (s.queue f q).num, waitSegs := segs }]
  | n + 1 =>
    s.front f q src false (badAddress f q) fun s a =>
      s.front f q dst true (badAddress f q) fun s b =>
        let st := stackOf b
        if (s.sub st f).full then
          (if (s.sub st f).unpublished.isEmpty then s else s.publish st f .interim 0 0x3FFF 0).modQ f q fun k => { k with cleared := true }
        else
          ((s.hostEntry f b dst (s.copyGran f a)).modQ f q fun k => { k with copied := k.copied + 1 }).hcopyFrom f q
            (src + 64) (dst + 64) n

/-- HCOPY (R302). -/
def execHcopy (fn q : Nat) (s : State) : Host.Outcome State Fault Refusal :=
  .next (s.packet fn q 0x0B fun s w =>
    let done := (s.queue fn q).copied
    let all := bits (w.getD 3 0) 0 32 / 64
    s.hcopyFrom fn q ((w.getD 1 0).toNat + 64 * done) ((w.getD 2 0).toNat + 64 * done) (all - done))

/-- DRAIN (R302). -/
def execDrain (fn q : Nat) (s : State) : Host.Outcome State Fault Refusal :=
  .next (s.packet fn q 0x0C fun s _ => s.processed fn q 1 [])

end Sys2Proof.Machine
end

