-- ==== Sys2Proof/Machine/Place.lean ====
section
/-! DEFINITION. From LAUNCH to the end of an instance (R56, R58, R64, R305 to R309, R314): dispatch, placement,
the first firing, loads, the return token, completion, posted launches, and the writes of VF_FRESUME (R320). -/

namespace Sys2Proof.Machine

/-! ## Dispatch (R305, R309) -/

/-- The guest address of a granule that the front end cannot read now. -/
def State.unread (s : State) (f gpa n : Nat) : Option Nat :=
  ((List.range n).map fun i => gpa + 64 * i).find? fun a => match s.gpaOf f a false with | .ok _ => false | .error _ => true

/-- `n` granules of guest memory as the front end reads them. -/
def State.guestBytes (s : State) (f gpa n : Nat) : List Byte :=
  (List.range n).flatMap fun i => match s.gpaOf f (gpa + 64 * i) false with
    | .ok pa => s.loadBytes f none pa 64
    | .error _ => []

/-- A graph image read (R154, R305): no words where its first granule shows that it is none. DESIGN CHOICE (log 87): a
length below 32, no multiple of 8, or of 2^40 or more is one that no offset or size can lie within. -/
def State.readImage (s : State) (f q gpa : Nat) (bad : State → State) (go : State → List Word → State) : State :=
  s.front f q gpa false bad fun s pa =>
    let h := bytesWords (s.loadBytes f none pa 32)
    let len := (h.getD 2 0).toNat
    if bits (h.getD 0 0) 0 32 ≠ 0x4D594231 || len < 32 || len % 8 ≠ 0 || 2 ^ 40 ≤ len then go s []
    else match s.unread f gpa (ceilDiv len 64) with
      | some a => s.front f q a false bad fun s _ => s
      | none => go s ((bytesWords (s.guestBytes f gpa (ceilDiv len 64))).take (len / 8))

/-- The stack segments that a first firing waits for (R100, R306): a host log's, or, for a posted launch, every one
published so far (R309). -/
def State.firstAcq (s : State) (f : Nat) (dev : Bool) : List (Nat × Nat) :=
  (List.range 16).filterMap fun st =>
    if dev || (s.stack st).waiting f != 0 then some (st, (s.stack st).doneSegs + (s.stack st).segs.length) else none

/-- The checks of R305 in their order, with the check of R309 on a posted launch's vcount: `fail` takes the error's
code, `ok` the instance with its image. DESIGN CHOICE (log 105): an image table entry with a nonzero bit of [11:1] gives IMAGE, and a launch
that waits in its partition's queue is a live instance for BUSY. -/
def State.dispatch (s : State) (q : Nat) (i : Inst) (vc : Option Nat) (fail : State → Nat → State)
    (ok : State → Inst → State) : State :=
  let f := i.fn
  let p := s.parts.getD i.part {}
  if !(s.fn f).parts.getLsbD i.part then fail s 7
  else if (s.fn f).itcount ≤ i.image then fail s 6
  else s.front f q ((s.fn f).itbase + 8 * i.image) false (fun s => fail s 5) fun s pa =>
    let e := word (leNat (s.loadBytes f none pa 8))
    if !bit e 0 || bits e 1 11 ≠ 0 then fail s 6
    else s.readImage f q (bits e 12 52 * 4096) (fun s => fail s 5) fun s ws =>
      match parseImage ws with
      | none => fail s 6
      | some m =>
        if (match vc with | some n => m.vcount != n + 1 | none => false) then fail s 6
        else if (s.usableCells p).length < m.vcount then fail s 7
        else if i.scrub && s.insts.any (fun j => j.part == i.part) then fail s 8
        else ok s { i with words := ws, imageAt := bits e 12 52 * 4096, acq := s.firstAcq f i.dev }

/-- A launch enters its partition's placement queue (R305). -/
def State.enrol (s : State) (i : Inst) : State :=
  let p := s.parts.getD i.part {}
  { s with insts := s.insts ++ [i], parts := s.parts.put i.part { p with queue := p.queue ++ [(i.fn, i.id)] } }

/-- A LAUNCH packet as an instance (R300, R301). -/
def launchOf (f q depth off : Nat) (w : List Word) : Inst :=
  let h := w.getD 0 0
  { fn := f
    q := q
    depth := depth
    off := off
    part := bits h 0 3
    prio := bits h 8 2
    image := bits (w.getD 1 0) 0 32
    budget := bits (w.getD 1 0) 32 32
    nonce := w.getD 2 0
    scrub := bit h 41
    retc := bit h 42
    args := (w.drop 3).take (bits h 16 5) }

/-- A posted launch as an instance (R309). -/
def Posted.inst (p : Posted) (f : Nat) : Inst :=
  { fn := f
    id := p.id
    dev := true
    parent := some p.parent
    part := p.part
    prio := p.prio
    image := p.image
    budget := p.budget
    retc := true
    args := p.args }

/-- A posted launch that fails its dispatch (R309): an error record of class 0x81 and a REFUSED completion. -/
def State.refusePost (s : State) (f : Nat) (p : Posted) (code : Nat) : State :=
  let dq := (s.fn f).postq / 2 ^ 8 % 2 ^ 13
  let s := s.putE f dq [word (0x81 + code * 2 ^ 8 + dq * 2 ^ 16 + p.id * 2 ^ 32), 0, 0] (s.now 0)
  (s.complete (p.inst f) .refused).modFn f fun k => { k with devq := k.devq.tail }

/-- The head of the device queue dispatched (R309). -/
def State.dispatchPost (s : State) (f : Nat) : State :=
  match (s.fn f).devq with
  | [] => s
  | p :: _ =>
    if !s.devParsable f then s
    else match s.turn f Config.devq with
      | none => s
      | some s => s.dispatch Config.devq (p.inst f) (some p.vcountM1) (fun s c => s.refusePost f p c) fun s i =>
          (s.enrol i).modFn f fun k => { k with devq := k.devq.tail }

/-- LAUNCH (R303, R305, R363): of a queue, or of the device queue (R309). -/
def execLaunch (fn q : Nat) (s : State) : Host.Outcome State Fault Refusal :=
  .next (if q = Config.devq then s.dispatchPost fn
    else s.packet fn q 0x01 fun s w =>
      let k := s.queue fn q
      if Config.liveLaunches ≤ k.live.length then s.modQ fn q fun k => { k with wait := .launches }
      else s.dispatch q (launchOf fn q k.ibs.length k.pos w) none (fun s c => s.pktError fn q c 0) fun s i =>
        let id := (s.fn fn).launchCount.toNat
        let s := (s.recordTo fn 1 w).enrol { i with id := id }
        let s := s.modFn fn fun k => { k with launchCount := k.launchCount + 1 }
        let s := s.modQ fn q fun k => { k with live := k.live ++ [id] }
        s.processed fn q (pktLen (w.getD 0 0)) [{ num := (s.queue fn q).num, launch := some id }])

/-! ## The ring pool (R314) -/

/-- A free range entered in address order. -/
def insRange (r : Nat × Nat) : List (Nat × Nat) → List (Nat × Nat)
  | [] => [r]
  | q :: qs => if r.1 ≤ q.1 then r :: q :: qs else q :: insRange r qs

/-- Neighbouring free ranges joined. -/
def joinRanges : List (Nat × Nat) → List (Nat × Nat)
  | [] => []
  | r :: rs =>
    match joinRanges rs with
    | [] => [r]
    | q :: qs => if r.1 + r.2 = q.1 then (r.1, r.2 + q.2) :: qs else r :: q :: qs

/-- Free ranges in address order, neighbours joined. -/
def poolNorm (rs : List (Nat × Nat)) : List (Nat × Nat) := joinRanges (rs.foldr insRange [])

/-- A ring carved by lowest-address first fit: its base, and what stays free. -/
def carve (n align : Nat) : List (Nat × Nat) → Option (Nat × List (Nat × Nat))
  | [] => none
  | r :: rs =>
    let a := ceilDiv r.1 align * align
    if a + n ≤ r.1 + r.2 then
      some (a, [(r.1, a - r.1), (a + n, r.1 + r.2 - (a + n))].filter (fun q => q.2 != 0) ++ rs)
    else match carve n align rs with
      | none => none
      | some q => some (q.1, r :: q.2)

/-- Rings carved one after the other: bytes and alignment of each. -/
def carveAll : List (Nat × Nat) → List (Nat × Nat) → Option (List (Nat × Nat) × List (Nat × Nat))
  | [], free => some ([], free)
  | w :: ws, free =>
    match carve w.1 w.2 free with
    | none => none
    | some q => match carveAll ws q.2 with
      | none => none
      | some r => some ((q.1, w.1) :: r.1, r.2)

/-- The rings of one context (R27, R38, R76, R314): sub-logs, spill ring, suspension area. -/
def Seg.rings (g : Seg) : List (Nat × Nat) := [(16 * g.log, 16 * g.log), (g.spill, g.spill), (192 * g.area, 4096)]

/-! ## Contexts (R30, R58, R132, R306) -/

/-- The lowest-addressed free run for a frame area (R30). -/
def Cell.areaFor (c : Cell) (n : Nat) : Option Nat :=
  if n = 0 then some 0
  else ((List.range (Config.frameSlots / n)).map (· * n)).find? fun a =>
    !c.ctxs.any fun e => e.2.inst.isSome && overlap a n e.2.areaStart e.2.areaSize

/-- The reserved frames of a segment (R58): from the top of the area down, the larger classes first. -/
def reserveFrames (top : Nat) : List (Nat × Word) → Nat × Tbl Pool
  | [] => (top, [])
  | (level, w) :: ws =>
    let n := poolSlots w
    let v := poolReserve w
    let p : Pool := {
      cls := bits w 1 3
      max := poolMax w
      reserve := v
      places := (List.range v).map fun i => top - (i + 1) * n }
    let r := reserveFrames (top - v * n) ws
    (r.1, r.2.put level p)

/-- The pools of a segment in a frame area (R58). -/
def Seg.pools' (g : Seg) (start : Nat) : Tbl Pool :=
  let ds := g.pools.zipIdx.filterMap fun e => if poolDeclared e.1 then some (e.2, e.1) else none
  let byClass := [7, 6, 5, 4, 3, 2, 1, 0].flatMap fun c => ds.filter fun e => bits e.2 1 3 == c
  (reserveFrames (start + g.area) byClass).2

/-! ## Cupboards (R15, R54, R306) -/

/-- The number of a segment in its image (the model's own): its load and first vcell. -/
def Seg.id (g : Seg) : Nat := g.load * 2048 + g.first

/-- The image that a die's Cupboard holds for a tenant's segment. -/
def State.cupImage (s : State) (die : Nat) (tenant : BitVec 16) (image : Nat) (g : Seg) : Option CupImage :=
  (s.cupboards.getD die []).find? fun m => m.tenant == tenant && m.image == image && m.seg == g.id

/-- The oldest images leave a Cupboard until what is left takes `n` bytes at most. -/
def trimCup (n : Nat) : List CupImage → List CupImage
  | [] => []
  | m :: ms => if ((m :: ms).map fun m => 4 * m.code.length).sum ≤ n then m :: ms else trimCup n ms

/-- A segment's image copied from memory into a die's Cupboard, unless the Cupboard already holds it for this tenant and image id
(R306). A full Cupboard lets its oldest images go (log 93). -/
def State.stockCup (s : State) (die : Nat) (tenant : BitVec 16) (image : Nat) (g : Seg) : State :=
  if (s.cupImage die tenant image g).isSome then s
  else
    let kept := trimCup (Config.cupboardBytes - 4 * g.code.length) (s.cupboards.getD die [])
    { s with cupboards := s.cupboards.put die (kept ++ [{ tenant := tenant, image := image, seg := g.id, code := g.code }]) }

/-- The code of a segment as its die's Cupboard holds it. -/
def State.cupCode (s : State) (die : Nat) (tenant : BitVec 16) (image : Nat) (g : Seg) : List IWord :=
  ((s.cupImage die tenant image g).map (·.code)).getD g.code

/-- A segment as the image in memory has it now (R306): what was checked at dispatch where that can no longer be read as an image. -/
def State.segNow (s : State) (i : Inst) (g : Seg) : Seg :=
  let n := ceilDiv (8 * i.words.length) 64
  if (s.unread i.fn i.imageAt n).isSome then g
  else match parseImage ((bytesWords (s.guestBytes i.fn i.imageAt n)).take i.words.length) with
    | none => g
    | some m => match m.segs.find? fun h => h.load == g.load && h.first == g.first && h.count == g.count with
      | some h => { g with code := h.code }
      | none => g

/-- A segment's codelets as they come into a cell's codelet store (R306): by the Cupboard of its die, which is stocked from memory first. -/
def State.fetchSeg (s : State) (i : Inst) (tenant : BitVec 16) (die : Nat) (g : Seg) : State × List IWord :=
  let s := s.stockCup die tenant i.image (s.segNow i g)
  (s, s.cupCode die tenant i.image g)

/-- The image of the next load on a cell that load `load` does not use is fetched as soon as that load starts (R56, R307). -/
def State.preload (s : State) (i : Inst) (m : Image) (load x : Nat) (place : List Nat) : State :=
  place.zipIdx.foldl (fun s e =>
    match m.seg load e.2, m.seg (load + 1) e.2 with
    | none, some g =>
      let r := s.fetchSeg i (s.parts.getD i.part {}).tenant (dieOf e.1) g
      r.1.modCx e.1 x fun k => { k with ahead := some (r.2, false) }
    | _, _ => s) s

/-- The codelets that a cell's image fetch brings (R54): what the Cupboard of its die holds for the context's segment, else those that the
context was loaded with, which the Cupboards' backing in HBM keeps. -/
def State.fetched (s : State) (c x : Nat) : List IWord :=
  let k := s.cx c x
  match s.instAt c x with
  | none => k.image
  | some i => match (parseImage i.words).bind fun m => m.seg i.load k.vcell with
    | none => k.image
    | some g => ((s.cupImage (dieOf c) k.tenant i.image g).map (·.code)).getD k.image

/-- IMAGE_FETCH_DONE (R29, R54, R67, R307): the image has come from the Cupboard, or from HBM, into a context slot with no live frame, and
the frame requests that waited for it are served; or the next load's image has come ahead. -/
def execImageFetchDone (cell ctx : Nat) (s : State) : Host.Outcome State Fault Refusal :=
  .next (let k := s.cx cell ctx
    if k.resident then
      (match k.ahead with
       | some (code, false) =>
         (match (s.cell cell).evict ctx (k.image.length + code.length) (List.range 8) with
          | some c => s.modCell cell fun _ => c.modCx ctx fun k => { k with ahead := some (code, true) }
          | none => s)
       | _ => s)
    else if !k.frames.isEmpty then s
    else match (s.cell cell).evict ctx (s.fetched cell ctx).length (List.range 8) with
      | some c => (s.modCell cell fun _ => c.modCx ctx fun k => { k with resident := true, image := s.fetched cell ctx }).serveLevels cell ctx
      | none => s)

/-- A context that is loaded (R132, R144, R306): the control registers are reset but for its priority; its codelets are those of the
Cupboard of its die, or what was fetched ahead (R307); they are in the codelet store at once where it has room for them; `ring` is the range
of its sub-logs (R314), and its TIME count goes on from the instance's (R363). -/
def State.loadCtx (s : State) (i : Inst) (p : Part) (x v c start : Nat) (place : List Nat) (seg : Option Seg) (ring : Option Nat)
    (ahead : Option (List IWord)) : State :=
  let r := match seg with | some g => s.fetchSeg i p.tenant (dieOf c) g | none => (s, [])
  let (n, s) := r.1.fresh
  let k : Ctx := {
    inst := some (i.fn, i.id)
    part := i.part
    tenant := p.tenant
    vcell := v
    place := place
    ctl := { prio := BitVec.ofNat 2 i.prio }
    loadedAt := s.ac c
    times := i.times.getD v 0 }
  match seg with
  | none => s.modCx c x fun _ => k
  | some g =>
    let log := 0x20000 + n
    let code := ahead.getD r.2
    let room := (s.cell c).evict x code.length (List.range 8)
    let s := (s.modCell c fun d => room.getD d).modCx c x fun _ => { k with
      image := code
      resident := room.isSome
      areaStart := start
      areaSize := g.area
      pools := g.pools' start
      spillCap := g.spill / 32
      log := log
      logSize := g.log }
    (List.range 16).foldl (fun s st => s.modSub st log fun l =>
      { l with size := g.log, base := ring, fn := i.fn, src := BitVec.ofNat 16 (v * 8 + x), owner := some (c, x), inst := (i.fn, i.id) }) s

/-- The value that an entry's token carries (R305, R306). -/
def Inst.argument (i : Inst) (x arg : Nat) : Word :=
  if i.retc && arg = 0 then mkCont 0 x 0 Config.returnIA 0 3 else i.args.getD arg 0

/-- A token of the front end on its way to a cell. -/
def State.frontToken (s : State) (c : Nat) (t : Token) (also : Option Nat) : State :=
  s.inject { vn := 0, src := Config.frontEnd, dst := c, ctx := ctxOf t.cont, committed := true, counts := false,
             also := also, body := .token t }

/-- One entry of a load (R306): a frame with its presets, and a token; none where no frame is granted now. -/
def State.formEntry (s : State) (i : Inst) (x : Nat) (place : List Nat) (e : ImgEntry) : Option State :=
  let c := place.getD e.vcell 0
  match (s.cx c x).grantable e.level with
  | none => none
  | some (b, reserved) =>
    let s := s.modCell c fun d => d.grant x e.level b 0 reserved
    let s := e.presets.foldl (fun s q => s.setSlot c (b + q.1) (some (.full q.2))) s
    some (s.frontToken c { cont := mkCont e.vcell x b e.ia e.port i.prio, val := i.argument x e.arg, tag := 0 } none)

/-- Entries of a load in order, with their places in it; the places of those whose frame was not granted. -/
def State.formEntries (s : State) (i : Inst) (x : Nat) (place : List Nat) : List (ImgEntry × Nat) → State × List Nat
  | [] => (s, [])
  | e :: es =>
    match s.formEntry i x place e.1 with
    | some s => s.formEntries i x place es
    | none =>
      let r := s.formEntries i x place es
      (r.1, e.2 :: r.2)

/-- The entries of a load in their order. -/
def Image.entriesOf (m : Image) (load : Nat) : List (ImgEntry × Nat) :=
  ((m.segs.filter fun g => g.load == load).flatMap (·.entries)).zipIdx

/-- The entries of an instance's load that have not been formed, formed where a frame is granted now. -/
def State.formDue (s : State) (i : Inst) : State :=
  if i.unformed.isEmpty then s
  else match parseImage i.words with
    | none => s
    | some m =>
      let r := s.formEntries i i.ctx i.place ((m.entriesOf i.load).filter fun e => i.unformed.contains e.2)
      r.1.modInst i.fn i.id fun i => { i with unformed := r.2 }

/-- The segments of a load by vcell. -/
def Image.byVcell (m : Image) (load : Nat) : List (Option Seg) := (List.range m.vcount).map (m.seg load)

/-- Slots that a vcell's context needs. -/
def areaOf (g : Option Seg) : Nat := match g with | some g => g.area | none => 0

/-- The ranges of the sub-logs of a load's segments among the rings carved for them. -/
def ringBases : List (Option Seg) → List (Nat × Nat) → List (Option Nat)
  | [], _ => []
  | none :: gs, rs => none :: ringBases gs rs
  | some _ :: gs, rs => rs.head?.map (·.1) :: ringBases gs (rs.drop 3)

/-- A load entered on its cells (R306, R307): rings carved, contexts set, entries formed, the next load's images fetched ahead; none where
the rings do not fit. `starts` gives each cell's frame area, `aheads` what was fetched ahead for it. -/
def State.enterLoad (s : State) (i : Inst) (m : Image) (load x : Nat) (place starts : List Nat) (aheads : List (Option (List IWord))) :
    Option State :=
  let p := s.parts.getD i.part {}
  let segs := m.byVcell load
  match carveAll (segs.flatMap fun g => match g with | some g => g.rings | none => []) (poolNorm (s.fn i.fn).pool) with
  | none => none
  | some (rings, free) =>
    let s := s.modFn i.fn fun k => { k with pool := free }
    let s := (segs.zip (place.zip (starts.zip (ringBases segs rings)))).zipIdx.foldl (fun s e =>
      s.loadCtx i p x e.2 e.1.2.1 e.1.2.2.1 place e.1.1 e.1.2.2.2 (aheads.getD e.2 none)) s
    let r := (s.preload i m load x place).formEntries i x place (m.entriesOf load)
    some (r.1.modInst i.fn i.id fun i => { i with
      phase := if i.phase = .waiting then .placed else i.phase
      ctx := x
      place := place
      load := load
      rings := rings
      leaving := false
      unformed := r.2 })

/-! ## Placement (R30, R306, R354) -/

/-- A context slot that a partition's tenant can have (R56): free, or released by the same tenant. -/
def Ctx.open? (k : Ctx) (tenant : BitVec 16) : Bool := k.inst.isNone && (!k.released || k.tenant == tenant)

/-- The cells of vcells in order: for each the first cell from here on where the context slot is free and the
frame area fits. -/
def State.pick (s : State) (tenant : BitVec 16) (x : Nat) : List Nat → List (Option Seg) → Option (List (Nat × Nat))
  | _, [] => some []
  | [], _ :: _ => none
  | c :: cs, g :: gs =>
    match if (s.cx c x).open? tenant then (s.cell c).areaFor (areaOf g) else none with
    | none => s.pick tenant x cs (g :: gs)
    | some a => match s.pick tenant x cs gs with
      | some r => some ((c, a) :: r)
      | none => none

/-- Every cell of a placement reaches every other, and every stack in both directions (R13, R354). -/
def State.allReach (s : State) (cs : List Nat) : Bool :=
  (s.links.whole && s.links.cut.isEmpty) || cs.all fun a => (cs.all fun b => s.reach a b) &&
    (List.range 16).all fun st => !s.links.cut.contains (stackDie st) && s.reach a (stackPort a st) && s.reach (stackPort a st) a

/-- A waiting launch placed, if it fits: at the lowest context index. -/
def State.placeInst (s : State) (i : Inst) : Option State :=
  let p := s.parts.getD i.part {}
  match parseImage i.words with
  | none => none
  | some m =>
    match (List.range 8).findSome? fun x =>
        match s.pick p.tenant x (s.usableCells p) (m.byVcell 0) with
        | some r => if s.allReach (r.map (·.1)) then some (x, r) else none
        | none => none with
    | none => none
    | some (x, r) =>
      match s.enterLoad i m 0 x (r.map (·.1)) (r.map (·.2)) [] with
      | none => none
      | some s =>
        let p := s.parts.getD i.part {}
        some { s with parts := s.parts.put i.part { p with queue := p.queue.filter (· != (i.fn, i.id)) } }

/-- A scrub of a partition begins (R330). -/
def State.startScrub (s : State) (p : Nat) (why : ScrubWhy) (out : BitVec 16) : State :=
  { s with parts := s.parts.put p { (s.parts.getD p {}) with
      st := .scrubbing
      scrub := some why
      scrubStart := s.now 0
      outTenant := out
      freezing := none
      hung := []
      pages := 0
      bayfail := false } }

/-- What the allocator does with the head of a class (R306): a launch with REQUIRE_SCRUB first has its partition
scrubbed, once nothing is placed there. -/
def State.serveHead (s : State) (part : Nat) (i : Inst) : Option State :=
  let p := s.parts.getD part {}
  if i.scrub && !i.scrubbed then
    (if s.insts.any fun j => j.part == part && j.phase != .waiting then none
     else some (s.startScrub part (.launch i.fn i.id) p.tenant))
  else s.placeInst i

/-- LAUNCH_PLACEMENT (R306): the first class head, from class 3 down, that fits. -/
def execLaunchPlacement (part : Nat) (s : State) : Host.Outcome State Fault Refusal :=
  .next (let p := s.parts.getD part {}
    if p.st != .granted || p.freezing.isSome then s
    else
      let waiting := p.queue.filterMap fun e => s.inst? e.1 e.2
      let heads := [3, 2, 1, 0].filterMap fun c => waiting.find? fun i => i.prio == c
      (heads.findSome? (s.serveHead part)).getD s)

/-- The wake values that waited for an instance's start (R302). -/
def State.startWakes (s : State) (i : Inst) : State :=
  (s.fn i.fn).queues.foldl (fun s e =>
    e.2.pending.foldl (fun s p => match p.wake with
      | some (id, vcell, port, v, false) =>
        if id = i.id then
          ((s.recordTo i.fn 3 [word (id + vcell * 2 ^ 32 + port * 2 ^ 43), v]).modQ i.fn e.1 fun k => { k with
            pending := k.pending.map fun r => if r.num = p.num then { r with wake := some (id, vcell, port, v, true) } else r }).sendWake
            i e.1 p.num vcell port v
        else s
      | _ => s) s) s

/-- INSTANCE_START (R100, R306, R309, R332, R333): entries that still wait for their image are formed first. -/
def execInstanceStart (fn id : Nat) (s : State) : Host.Outcome State Fault Refusal :=
  .next (match ((s.inst? fn id).map fun i => if i.phase == .placed then s.formDue i else s).bind fun s => (s.inst? fn id).map fun i => (s, i) with
    | none => s
    | some (s, i) =>
      if i.phase != .placed || !i.unformed.isEmpty || (i.scrub && !i.scrubbed) ||
          !(i.acq.all fun e => decide (e.2 ≤ (s.stack e.1).doneSegs)) then s
      else
        (s.modInst fn id fun i => { i with phase := .running, started := true, wdog := 0, lastAct := s.ac (i.place.headD 0) }).startWakes i)

/-! ## Loads and completion (R56, R64, R99, R307, R308) -/

/-- A cell is idle for a context (R56). -/
def State.idleOn (s : State) (c x : Nat) : Bool :=
  let d := s.cell c
  let k := d.cx x
  !(d.inq.any fun t => ctxOf t.cont == x) && k.spill.isEmpty &&
    !(d.ready.any fun r => match r.body with | .fresh f => f.ctx == x | .resumed n => (match d.recs.get? n with | some q => q.fir.ctx == x | none => false)) &&
    !(d.recs.any fun e => e.2.fir.ctx == x) && !(d.lane.busy && d.lane.fir.ctx == x) && k.outstanding == 0 &&
    !(d.wakes.any fun e => e.2.armed && e.2.owner == x) && !(d.barriers.any fun e => e.2.armed && e.2.owner == x)

/-- Every cell of an instance's load is idle, and nothing is on its way to it. -/
def State.loadIdle (s : State) (i : Inst) : Bool :=
  i.unformed.isEmpty && i.place.all (fun c => s.idleOn c i.ctx) && !(s.net.any fun p => p.ofInst i)

/-- A closing release on one cell (R64, R225, R307): `region` is 0 but for CRCLOSE's. -/
def State.closingRel (s : State) (i : Inst) (c ia region : Nat) (sys : Bool) : State :=
  if (s.cx c i.ctx).log = 0 then s
  else
    let (n, s) := s.fresh
    let w : Issuer := { cell := c, ctx := i.ctx, vcell := (s.cx c i.ctx).vcell, ia := ia, serial := n }
    { s with ops := s.ops ++ [{ id := n, kind := .closing, who := w, inst := (i.fn, i.id), sys := sys, checked := true, val := word region }] }

/-- Closing releases of an instance (of a region, where given) have been accepted and applied at every stack. DESIGN CHOICE (log 105): a
segment of theirs that fails its check and is skipped (R86) counts as applied here. -/
def State.relsApplied (s : State) (i : Inst) (region : Nat) : Bool :=
  !(s.ops.any fun o => o.kind == .closing && o.inst == (i.fn, i.id) && o.val == word region) &&
    i.place.all fun c => (s.cx c i.ctx).log == 0 || (List.range 16).all fun st => (s.stack st).waiting (s.cx c i.ctx).log == 0

/-- The system-scope releases of every context of an instance (R64, R99, R307). -/
def State.releaseAll (s : State) (i : Inst) : State := i.place.foldl (fun s c => s.closingRel i c 0x3FFF 0 true) s

/-- Frames still live are freed (R56, R307): their values are dropped. -/
def State.freeFrames (s : State) (i : Inst) : State :=
  i.place.foldl (fun s c => s.modCell c fun d => (d.cx i.ctx).frames.foldl (fun d e => d.dropFrame i.ctx e.1 e.2) d) s

/-- The next load on the same cells (R307): the contexts of the last one are released. -/
def State.nextLoad (s : State) (i : Inst) (m : Image) : Option State :=
  let load := i.load + 1
  let count := fun (c : Nat) => (s.cx c i.ctx).times
  let aheads := i.place.map fun c => (s.cx c i.ctx).ahead.bind fun a => if a.2 then some a.1 else none
  let s := i.rings.foldl (fun s r => s.zeroRange r.1 r.2) s
  let s := s.modFn i.fn fun f => { f with pool := f.pool ++ i.rings }
  let s := i.place.foldl (fun s c => s.modCell c fun d => d.releaseCtx i.ctx) s
  let starts := (i.place.zip (m.byVcell load)).map fun e => (s.cell e.1).areaFor (areaOf e.2)
  if starts.all (·.isSome) then
    let times := i.place.zipIdx.map fun e => (e.2, count e.1)
    let i := { i with regions := [], times := times }
    (s.modInst i.fn i.id fun _ => i).enterLoad i m load i.ctx i.place (starts.map (·.getD 0)) aheads
  else none

/-- LOAD_ADVANCE (R56, R307): an idle load is ended with its releases; once they are applied the next is entered. Entries of the present load
that still wait for their image are formed. -/
def execLoadAdvance (fn id : Nat) (s : State) : Host.Outcome State Fault Refusal :=
  .next (match s.inst? fn id with
    | none => s
    | some i => match parseImage i.words with
      | none => s
      | some m =>
        if i.phase == .running && !i.unformed.isEmpty then s.formDue i
        else if i.phase != .running || m.nload ≤ i.load + 1 || !s.loadIdle i || !(i.place.all s.runs) then s
        else if !i.leaving then ((s.freeFrames i).releaseAll i).modInst fn id fun i => { i with leaving := true }
        else if s.relsApplied i 0 then (s.nextLoad i m).getD s
        else s)

/-- RETURN_TOKEN (R305): the first is kept, later ones are discarded. -/
def execReturnToken (src ctx : Nat) (s : State) : Host.Outcome State Fault Refusal :=
  .next (match s.packet? 4 src Config.frontEnd ctx with
    | none => s
    | some p => match p.body with
      | .ret t =>
        let s := (s.takePacket 4 src Config.frontEnd ctx).accepted p
        match s.instAt src ctx with
        | none => s
        | some i => s.modInst i.fn i.id fun i => { i with ret := some (i.ret.getD t.val) }
      | _ => s)

/-- A partition changed. -/
def State.modPart (s : State) (p : Nat) (f : Part → Part) : State := { s with parts := s.parts.put p (f (s.parts.getD p {})) }

/-- The partition of an instance freezes because the instance hangs (R334). -/
def State.hangs (s : State) (i : Inst) : Bool := (s.parts.getD i.part {}).hung.any fun h => (h.1, h.2.1) == (i.fn, i.id)

/-- The conditions of R64 and R307 but for the release: the return token is there, the last load's counters are
zero and, in a graph of several loads, it is idle. -/
def State.canEnd (s : State) (i : Inst) : Bool :=
  match parseImage i.words with
  | none => false
  | some m =>
    i.ret.isSome && decide (m.nload ≤ i.load + 1) && (i.place.all fun c => (s.cx c i.ctx).outstanding == 0) &&
      (decide (m.nload ≤ 1) || s.loadIdle i)

/-- The completion conditions of R64 hold, the release among them. -/
def State.allDone (s : State) (i : Inst) : Bool := i.phase == .releasing && s.relsApplied i 0 && s.canEnd i

/-- END_OF_GRAPH_RELEASE (R64, R99). DESIGN CHOICE (log 63): in a graph of one load it is issued once, as soon as the counters read zero,
even while firings are still ready or running; entries that they append later are voided at completion. -/
def execEndOfGraphRelease (fn id : Nat) (s : State) : Host.Outcome State Fault Refusal :=
  .next (match s.inst? fn id with
    | none => s
    | some i =>
      if i.phase != .running || !s.canEnd i || !(i.place.all s.runs) || s.hangs i then s
      else (s.releaseAll i).modInst fn id fun i => { i with phase := .releasing })

/-- INSTANCE_COMPLETE (R64, R298, R303, R307, R308, R333). -/
def execInstanceComplete (fn id : Nat) (s : State) : Host.Outcome State Fault Refusal :=
  .next (match s.inst? fn id with
    | none => s
    | some i => if s.allDone i && !i.expired && !s.hangs i then s.endInst i .complete else s)

/-! ## Posted launches (R229, R309) -/

/-- The bits of a QPOST record that R146 does not show are zero. -/
def qpostRecord (w : List Word) : Bool := only (w.getD 0 0) [(0, 32)] && only (w.getD 1 0) [(0, 11)]

/-- The reply of a QPOST (R194, R229). DESIGN CHOICE (log 86): the front end forms the token and sends it on VN0, so a
reply that names the return continuation reaches the matcher of vcell 0 and is discarded there with BAD_HEADER. -/
def State.postReply (s : State) (w : Issuer) (cont v : Word) : State :=
  let s := match s.instAt w.cell w.ctx with
    | some i => s.modInst i.fn i.id fun i => { i with lastAct := s.ac (i.place.headD 0) }
    | none => s
  s.frontToken ((s.cx w.cell w.ctx).place.getD (vcellOf cont) 0) { cont := cont, val := v, tag := w.tag } (some w.cell)

/-- What the device queue answers (R309): accepted with its launch id, or the reason why not. -/
def State.post (s : State) (i : Inst) (w : List Word) (prio : Nat) : State × Word :=
  let k := s.fn i.fn
  let g := fun n => w.getD n 0
  if !k.posten || bits (word k.postq) 0 8 ≤ k.postedLive.length then (s, word (2 ^ 63 + 1))
  else if Config.deviceQueue ≤ k.devq.length then (s, word (2 ^ 63 + 2))
  else
    let id := k.launchCount.toNat
    let p : Posted := {
      id := id
      parent := i.id
      image := bits (g 0) 0 32
      vcountM1 := bits (g 1) 0 11
      part := i.part
      prio := prio
      budget := k.wdog.toNat
      args := (w.drop 2).take 4 }
    (s.modFn i.fn fun k => { k with
      launchCount := k.launchCount + 1
      devq := k.devq ++ [p]
      postedLive := k.postedLive ++ [id] }, word id)

/-- QPOST_REQUEST (R146, R193, R229, R309): a record with a bit that R146 does not show raises SHAPE here and is not
answered. The reply to a request whose region has failed is discarded (R326). -/
def execQpostRequest (src ctx : Nat) (s : State) : Host.Outcome State Fault Refusal :=
  .next (match s.packet? 4 src Config.frontEnd ctx with
    | none => s
    | some p => match p.body with
      | .qpost w cont prio op who =>
        let live := (s.op? op).isSome
        let s := (s.takePacket 4 src Config.frontEnd ctx).dropOps fun o => o.id == op
        match s.instAt src ctx with
        | none => s
        | some i =>
          if !qpostRecord w then
            (if live then (s.lowerOut who.cell who.ctx 1).opLost who .shape 0 0 else s)
          else
          let r := s.post i w prio
          if live then r.1.postReply who cont r.2 else r.1
      | _ => s)

/-! ## VF_FRESUME (R320) -/

/-- A fault id is in force in a function's ring. -/
def State.faultOpen (s : State) (f id : Nat) : Bool := (s.fn f).faults.any fun e => e.2 == id

/-- Instances with requests parked under an id: their resumption is an event for deadlock detection (R334). -/
def State.stirParked (s : State) (f id : Nat) : State :=
  (s.ops.filter fun o => o.parkedAt f id).foldl (fun s o =>
    s.modInst o.inst.1 o.inst.2 fun i => { i with lastAct := s.ac (i.place.headD 0) }) s

/-- An id is resolved: it names nothing any more, and queues parked under it go on. -/
def State.closeFault (s : State) (f id : Nat) : State :=
  let s := s.modFn f fun k => { k with faults := k.faults.filter fun e => e.2 != id }
  { s with fns := s.fns.map fun (e : Nat × Fn) => (e.1, { e.2 with
      queues := e.2.queues.map fun (q : Nat × Queue) =>
        (q.1, { q.2 with parked := if q.2.parked = some (f, id) then none else q.2.parked }) }) }

/-- FAULT_RESUME (R320). -/
def execFaultResume (fn : Nat) (val : BitVec 64) (s : State) : Host.Outcome State Fault Refusal :=
  .next (let id := bits val 0 32
    if 32 ≤ fn || bit val 32 || !s.faultOpen fn id then s
    else ((s.stirParked fn id).unpark fn id).closeFault fn id)

/-- Queues whose front end waits under an id. -/
def State.parkedQueues (s : State) (f id : Nat) : List (Nat × Nat) :=
  s.fns.flatMap fun e => e.2.queues.filterMap fun q => if q.2.parked = some (f, id) then some (e.1, q.1) else none

/-- The access of a queue ended with TRANSLATION (R299, R309, R320). -/
def State.abortQueue (s : State) (f q : Nat) : State :=
  if q = Config.devq then
    (match (s.fn f).devq with
     | p :: _ => s.refusePost f p 5
     | [] => s)
  else s.pktError f q 5 0

/-- FAULT_ABORT (R320): the requests parked under the id end with TRANSLATION. -/
def execFaultAbort (fn : Nat) (val : BitVec 64) (s : State) : Host.Outcome State Fault Refusal :=
  .next (let id := bits val 0 32
    if 32 ≤ fn || !bit val 32 || !s.faultOpen fn id then s
    else
      let qs := s.parkedQueues fn id
      let os := s.ops.filter fun o => o.parkedAt fn id
      let s := (s.stirParked fn id).closeFault fn id
      let s := os.foldl (fun s o => if (s.op? o.id).isSome then s.failAccess o .translation 0 0 else s) s
      qs.foldl (fun s q => s.abortQueue q.1 q.2) s)

end Sys2Proof.Machine
end

