-- ==== Sys2Proof/Machine/Regions.lean ====
section
/-! DEFINITION. The failure and the closing of containment regions (R49, R91, R225, R325, R326). -/

namespace Sys2Proof.Machine

/-! ## What belongs to a region -/

/-- The tag under which a packet was sent, where its sender was a firing. -/
def Payload.tag (b : Payload) : Word :=
  match b with
  | .token t => t.tag
  | .ret t => t.tag
  | .falloc _ r => r.tag
  | _ => (b.issuer.map (·.tag)).getD 0

/-- A ready entry starts or resumes a firing of a region in a context. -/
def Cell.readyIn (c : Cell) (x r : Nat) (e : Ready) : Bool :=
  match e.body with
  | .fresh f => f.ctx == x && regionOf f.tag == r
  | .resumed q => match c.recs.get? q with | some d => d.fir.ctx == x && regionOf d.fir.tag == r | none => false

/-- Waiting frame requests of a region in a context. -/
def Ctx.asking (k : Ctx) (r : Nat) : List FrameReq := k.pools.flatMap fun e => e.2.queue.filter fun q => regionOf q.tag == r

/-- The lane runs a firing of a region. -/
def Cell.laneIn (c : Cell) (x r : Nat) : Bool := c.lane.busy && c.lane.fir.ctx == x && regionOf c.lane.fir.tag == r

/-- An operation of the instance that a firing of a region has issued. -/
def MemOp.inRegion (o : MemOp) (i : Inst) (r : Nat) : Bool := o.inst == (i.fn, i.id) && regionOf o.who.tag == r

/-! ## REGION_FAILURE_REPORT (R325) -/

/-- A region of an instance changed. -/
def State.modRegion (s : State) (i : Inst) (r : Nat) (f : Region → Region) : State :=
  s.modInst i.fn i.id fun i => match i.regions.get? r with
    | some q => { i with regions := i.regions.put r (f q) }
    | none => i

/-- REGION_FAILURE_REPORT (R325): vcell 0 marks the region failed and sends the failure to every cell. -/
def execRegionFailureReport (src ctx : Nat) (s : State) : Host.Outcome State Fault Refusal :=
  .next (let dst := (s.cx src ctx).place.getD 0 0
    match s.packet? 4 src dst ctx with
    | none => s
    | some p => match p.body with
      | .regionFail r recd tag faulty =>
        let s := s.takePacket 4 src dst ctx
        (match s.instAt dst ctx with
         | none => s
         | some i =>
           if (i.regions.get? r).isNone || (i.regions.getD r {}).mark == .failed then s
           else
             let s := s.modRegion i r fun q => { q with mark := .failed, first := recd, tag := tag, faulty := faulty, todo := i.place }
             i.place.foldl (fun s c =>
               s.inject { vn := 4, src := dst, dst := c, ctx := ctx, counts := false, body := .regionApply r }) s)
      | _ => s)

/-! ## REGION_FAILURE_APPLY (R326) -/

/-- Tokens, firings and the lane of a cell after a region's failure. -/
def Cell.voidFirings (c : Cell) (x r : Nat) : Cell :=
  let k := c.cx x
  let waits := c.recs.filterMap fun e =>
    if e.2.fir.ctx == x && regionOf e.2.fir.tag == r && e.2.value.isNone then some e.2.slot else none
  let gone : List (Nat × Nat) := (k.frames.filter fun (e : Nat × Frame) => e.2.region == r).map fun (e : Nat × Frame) => (e.1, r)
  let k := { k with regions := k.regions.put r .failed, lost := k.lost ++ gone }
  { c with
    ctxs := c.ctxs.put x { k with spill := k.spill.filter fun t => !k.voids t }
    inq := c.inq.filter fun t => !(ctxOf t.cont == x && k.voids t)
    ready := c.ready.filter fun e => !c.readyIn x r e
    recs := c.recs.filter fun e => !(e.2.fir.ctx == x && regionOf e.2.fir.tag == r)
    slots := c.slots.filter fun e => !(waits.contains e.1 && isDeferred (some e.2))
    lane := if c.laneIn x r then { c.lane with fir := { c.lane.fir with dead := true } } else c.lane }

/-- The command that the lane could not place yet, where it is of the region: cancelled. -/
def Cell.dropStalled (c : Cell) (x r : Nat) : Cell × Nat :=
  match c.lane.stall with
  | some (.queue m) =>
    if m.who.ctx == x && regionOf m.who.tag == r then
      ({ (c.dropAll m.named).landAll m.named with lane := { c.lane with stall := none } }, 1)
    else (c, 0)
  | _ => (c, 0)

/-- Tiles that firings of a region created freed (R49). -/
def Cell.freeRegionTiles (c : Cell) (x r : Nat) : Cell :=
  c.heap.tiles.foldl (fun c e => if e.2.live && e.2.ctx == x && e.2.region == r then c.freeTile e.1 else c) c

/-- Frames of a region freed on a cell, and what waited for frames served (R59). -/
def State.freeRegionFrames (s : State) (c x r : Nat) : State :=
  (s.modCell c fun d => ((d.cx x).frames.filter fun e => e.2.region == r).foldl (fun d e => d.dropFrame x e.1 e.2) d).serveLevels c x

/-- Queued frame requests of a region taken out; their issuers' counts fall. -/
def State.dropAsking (s : State) (c x r : Nat) : State :=
  let gone := (s.cx c x).asking r
  let s := s.modCx c x fun k => { k with pools := k.pools.map fun (e : Nat × Pool) =>
    (e.1, { e.2 with queue := e.2.queue.filter fun q => regionOf q.tag != r }) }
  gone.foldl (fun s q => (s.lowerOut q.src x 1).countLost q.src x q.tag 1) s

/-- The cell that issued the operation whose message or reply a packet is: none for what is no operation of its own. -/
def Packet.opCell (p : Packet) : Option Nat :=
  match p.body with
  | .token _ => p.also.or p.reply
  | .falloc _ _ => some p.src
  | .count _ _ _ _ => some p.src
  | .bara _ _ _ _ => some p.src
  | .hst _ _ _ => some p.src
  | _ => none

/-- A packet is a message of an operation of a region that a cell issued, or the reply of one (R326). -/
def Packet.cancels (p : Packet) (c x r : Nat) : Bool := p.ctx == x && regionOf p.body.tag == r && p.opCell == some c

/-- Operations of a region that a cell issued and that are neither on it nor at a memory port: on their way, asking
for a frame, or with their reply on its way (R326). -/
def State.lostAway (s : State) (i : Inst) (c r : Nat) : Nat :=
  (s.net.filter fun p => p.cancels c i.ctx r).length +
    ((i.place.flatMap fun d => (s.cx d i.ctx).asking r).filter fun q => q.src == c).length

/-- CRCLOSEs that a firing of a region issued on a cell and that wait. -/
def Region.waits (q : Region) (c r : Nat) : List (Word × Issuer) := q.closing.filter fun w => w.2.cell == c && regionOf w.2.tag == r

/-- Such CRCLOSEs taken out, of every region of the instance. -/
def State.dropClosing (s : State) (i : Inst) (c r : Nat) : State :=
  s.modInst i.fn i.id fun i => { i with regions := i.regions.map fun (e : Nat × Region) =>
    (e.1, { e.2 with closing := e.2.closing.filter fun w => !(w.2.cell == c && regionOf w.2.tag == r) }) }

/-- The whole step of a cell: the state after it, and how many operations it cancels. -/
def State.applyFailure (s : State) (i : Inst) (c r : Nat) : State × Nat :=
  let x := i.ctx
  let mine := fun (m : Cmd) => m.who.ctx == x && regionOf m.who.tag == r
  let cmds := ((s.cell c).cmds.filter mine).length
  let op := fun (o : MemOp) => o.who.cell == c && o.inRegion i r
  let own := ((s.ops.filter op).filter fun o => !o.kind.engine && o.kind != .closing).length
  let away := s.lostAway i c r
  let shut := (i.regions.flatMap fun (e : Nat × Region) => e.2.waits c r).length
  let s := ((s.cell c).running.filter fun r => mine r.cmd).foldl State.dropMade s
  let d := ((s.cell c).voidFirings x r).dropStalled x r
  let s := s.modCell c fun _ => (cancelCmds d.1 mine true).freeRegionTiles x r
  let s := ((s.dropOps op).dropClosing i c r).lowerOut c x (cmds + own + d.2 + shut)
  ((s.dropAsking c x r).freeRegionFrames c x r, cmds + own + d.2 + shut + away)

/-- Fault tokens that wait at a cell and that a region's failure discards (R326, R367). -/
def Cell.faultToks (c : Cell) (x r : Nat) : List Token :=
  let k := (c.voidFirings x r).cx x
  (c.inq ++ (c.cx x).spill).filter fun t => t.faulty && ctxOf t.cont == x && k.voids t

/-- REGION_FAILURE_APPLY (R326): between two firings of the lane, or during a firing of the region itself, whose
later effects are discarded. -/
def execRegionFailureApply (cell ctx : Nat) (s : State) : Host.Outcome State Fault Refusal :=
  .next (let src := (s.cx cell ctx).place.getD 0 0
    match s.packet? 4 src cell ctx with
    | none => s
    | some p => match p.body with
      | .regionApply r =>
        if (s.cell cell).lane.busy && !(s.cell cell).laneIn ctx r then s
        else
          let s := s.takePacket 4 src cell ctx
          (match s.instAt cell ctx with
           | none => s
           | some i =>
             let ts := (s.cell cell).faultToks ctx r
             let q := s.applyFailure i cell r
             let s := q.1.modRegion i r fun k => { k with todo := k.todo.erase cell, cancelled := k.cancelled + q.2 }
             ts.foldl (fun s t => s.voidTok cell t) s)
      | _ => s)

/-! ## REGION_FAILED_DELIVERY (R91, R326) -/

/-- Unpublished entries of a region made VOID on every stack; the shadow pages of its REMAPs return (R91). -/
def State.voidRegion (s : State) (i : Inst) (r : Nat) : State :=
  i.place.foldl (fun s c =>
    let log := (s.cx c i.ctx).log
    if log = 0 then s
    else (List.range 16).foldl (fun s st =>
      let rs := (s.sub st log).remaps fun e => e.region == r
      (rs.foldl (fun s e => s.reservePage e.fn e.size e.page) s).voidIn st log fun e => e.region == r) s) s

/-- Nothing of a region is outstanding at a stack, a peer or on its way to a frame pool. -/
def State.regionDone (s : State) (i : Inst) (r : Nat) : Bool :=
  !(s.ops.any fun o => o.inRegion i r) &&
    !(s.net.any fun p => p.ctx == i.ctx && i.place.contains p.dst && (match p.body with | .falloc _ q => regionOf q.tag == r | _ => false))

/-- REGION_FAILED_DELIVERY (R323, R326). -/
def execRegionFailedDelivery (fn id region : Nat) (s : State) : Host.Outcome State Fault Refusal :=
  .next (match s.inst? fn id with
    | none => s
    | some i => match i.regions.get? region with
      | none => s
      | some q =>
        if q.mark != .failed || q.delivered || !q.todo.isEmpty || !s.regionDone i region then s
        else
          let s := (s.voidRegion i region).modRegion i region fun q => { q with delivered := true }
          s.deliverTo { cell := i.place.headD 0, ctx := i.ctx, cls := 3, code := .regionFailed, ia := 0x3FFF, frame := 0,
                        d1 := word region, d2 := word q.cancelled, tag := q.tag, faulty := q.faulty } q.handler q.first)

/-! ## REGION_CLOSE_PROCEED (R225) -/

/-- A cell has nothing of a region: no live frame, no token, firing, command or frame request. -/
def Cell.quiet (c : Cell) (x r : Nat) : Bool :=
  let k := c.cx x
  !(k.frames.any fun e => e.2.region == r) && (k.asking r).isEmpty &&
    !((c.inq ++ k.spill).any fun t => ctxOf t.cont == x && regionOf t.tag == r) &&
    !(c.ready.any (c.readyIn x r)) && !(c.recs.any fun e => e.2.fir.ctx == x && regionOf e.2.fir.tag == r) && !c.laneIn x r &&
    !(c.cmds.any fun m => m.who.ctx == x && regionOf m.who.tag == r)

/-- A region is quiescent (R225). -/
def State.regionQuiet (s : State) (i : Inst) (r : Nat) : Bool :=
  i.place.all (fun c => (s.cell c).quiet i.ctx r) && !(s.ops.any fun o => o.inRegion i r) &&
    !(s.net.any fun p => p.ctx == i.ctx && (i.place.contains p.src || i.place.contains p.dst) && regionOf p.body.tag == r) &&
    !(i.regions.any fun e => e.2.closing.any fun w => regionOf w.2.tag == r)

/-- A context has unpublished entries of a region (R225). -/
def State.hasEntries (s : State) (log r : Nat) : Bool :=
  (List.range 16).any fun st => (s.sub st log).unpublished.any fun e => e.region == r

/-- The closing releases of a region (R225): cells that hold unpublished entries of it, and vcell 0 always. -/
def State.closeRegion (s : State) (i : Inst) (r ia : Nat) : State :=
  let s := i.place.zipIdx.foldl (fun s e =>
    if e.2 = 0 || s.hasEntries (s.cx e.1 i.ctx).log r then s.closingRel i e.1 ia r false else s) s
  s.modRegion i r fun q => { q with released := true }

/-- A region id removed everywhere and freed, and every CRCLOSE that waited answered (R225). -/
def State.endRegion (s : State) (i : Inst) (r : Nat) (q : Region) (v : Word) : State :=
  let s := i.place.foldl (fun s c => s.modCx c i.ctx fun k =>
    { k with regions := k.regions.del r, lost := k.lost.filter fun e => e.2 != r }) s
  let s := s.modInst i.fn i.id fun i => { i with regions := i.regions.del r }
  q.closing.foldl (fun s w => s.sendAs w.2.cell { cont := w.1, val := v, tag := w.2.tag } (some w.2.cell)) s

/-- REGION_CLOSE_PROCEED (R225). -/
def execRegionCloseProceed (fn id region : Nat) (s : State) : Host.Outcome State Fault Refusal :=
  .next (match s.inst? fn id with
    | none => s
    | some i => match i.regions.get? region with
      | none => s
      | some q => match q.closing with
        | [] => s
        | w :: _ =>
          if q.mark == .failed then (if q.delivered then s.endRegion i region q 0 else s)
          else if !s.runs (i.place.headD 0) then s
          else if !q.released then (if s.regionQuiet i region then s.closeRegion i region w.2.ia else s)
          else if s.relsApplied i region then s.endRegion i region q q.token
          else s)

end Sys2Proof.Machine
end

