-- ==== Sys2Proof/Machine/Hops.lean ====
section
/-! DEFINITION. Packets on the mesh and the die ring: the sideband of their flits and its check (R340, R341), the slots that they
take at each input (R343, R345, R346), the shares of partitions (R311), the order that pairs keep at a change of path or of direction
(R342, R347), and what is lost when a hop fails (R344). -/

namespace Sys2Proof.Machine

/-! ## Flits (R340, R341) -/

/-- The parity byte of a flit: bit i is even over the payload bits and the sideband bits up to 55 whose number is i modulo 8. -/
def flitParity (payload : List Byte) (low : Nat) : Byte := (payload ++ leBytes low 7).foldl (fun a b => a ^^^ b) 0

/-- The sideband of a flit of a packet (R340): its payload, and whose check value goes with it. -/
def Packet.sideband (p : Packet) (flit : Nat) (payload : List Byte) : Word :=
  let chk : Option (BitVec 16) := (p.chks[flit]?).join
  let low := onMesh p.dst % 2 ^ 11 + (isAttached p.dst).toNat * 2 ^ 11 + p.vn % 2 ^ 3 * 2 ^ 12 + p.part % 2 ^ 4 * 2 ^ 15 +
    (decide (p.flits ≤ flit + 1)).toNat * 2 ^ 19 + p.yx.toNat * 2 ^ 20 + p.poison.toNat * 2 ^ 21 + chk.isSome.toNat * 2 ^ 22 +
    (chk.getD 0).toNat * 2 ^ 23 + onMesh p.src % 2 ^ 11 * 2 ^ 39
  word (low + (flitParity payload low).toNat * 2 ^ 56)

/-- The check of a flit by the receiver of a hop (R341). -/
def flitOk (payload : List Byte) (side : Word) : Bool :=
  BitVec.ofNat 8 (side.toNat / 2 ^ 56) == flitParity payload (side.toNat % 2 ^ 56)

/-! ## Slots of a router input (R343) -/

/-- Flit slots of a virtual network's sub-channel for one partition at a router input. -/
def vnSlots (vn : Nat) (yx : Bool) : Nat := if yx then 1 else if vn = 1 then 4 else 2

/-- Slots that a packet takes there: a longer one stretches over the inputs behind it. -/
def Packet.slots (p : Packet) : Nat := min p.flits (vnSlots p.vn p.yx)

/-- Two packets draw on one pool: partition, virtual network and sub-channel. -/
def Packet.pooled (p q : Packet) : Bool := p.part == q.part && p.vn == q.vn && p.yx == q.yx

/-- The input at the far end of a hop onto or within a mesh has room for a packet. -/
def State.meshRoom (s : State) (p : Packet) (h : Hop) : Bool :=
  decide (((s.net.filter fun q => q.last == some h && p.pooled q).map Packet.slots).sum + p.slots ≤ vnSlots p.vn p.yx)

/-! ## Slots and channels of a ring stop (R345, R346, R348) -/

/-- Flit slots that channels A and B share for one partition: half of them while the link before them runs at half width. -/
def Links.sharedSlots (k : Links) (h : Hop) : Nat :=
  match h with
  | .ring d cw => if k.ringAt (ringLink d cw) == .full then 16 else 8
  | _ => 16

/-- Flit slots of the escape channel of one virtual network. -/
def escapeSlots : Nat := 4

/-- Flits of the ring packet that crosses next: a longer packet crosses as several, one after the other (R345). -/
def Packet.ringPart (p : Packet) : Nat := min 4 (p.flits - p.across)

/-- Flits of a packet that stand at the input at the far end of a ring hop on channels that `c` picks. -/
def Packet.ringFlits (p : Packet) (h : Hop) (c : Chan → Bool) : Nat :=
  (if p.last == some h && c p.chan then p.flits - p.across else 0) +
    (if (p.hops.getD []).head? == some h && c p.onward then p.across else 0)

/-- The next ring packet fits whole in the shared slots of the stop ahead. -/
def State.sharedRoom (s : State) (p : Packet) (h : Hop) : Bool :=
  decide (((s.net.filter fun q => q.part == p.part).map fun q => q.ringFlits h (· != .escape)).sum + p.ringPart ≤ s.links.sharedSlots h)

/-- It fits whole in the escape slots of its virtual network there. -/
def State.escapeRoom (s : State) (p : Packet) (h : Hop) : Bool :=
  decide (((s.net.filter fun q => q.part == p.part && q.vn == p.vn).map fun q => q.ringFlits h (· == .escape)).sum + p.ringPart ≤ escapeSlots)

/-- The link from the last die of a direction to its first (R345). -/
def Hop.dateline (h : Hop) : Bool := h == .ring 7 true || h == .ring 0 false

/-- A packet stands at a ring stop, having come over the ring. -/
def Packet.onRing (p : Packet) : Bool := match p.last with | some (.ring _ _) => true | _ => false

/-- The channel on which the next ring packet of a packet arrives at the stop ahead (R345, R346): none while it has no room there.
All ring packets of one packet take one channel. -/
def State.nextChan (s : State) (p : Packet) (h : Hop) : Option Chan :=
  if p.across ≠ 0 then
    if (if p.onward == .escape then s.escapeRoom p h else s.sharedRoom p h) then some p.onward else none
  else if p.onRing && p.chan == .escape then (if s.escapeRoom p h then some .escape else none)
  else if s.sharedRoom p h then some (if h.dateline || (p.onRing && p.chan == .b) then .b else .a)
  else if s.escapeRoom p h then some .escape
  else none

/-- A packet has room at the far end of its next hop. -/
def State.roomAhead (s : State) (p : Packet) (h : Hop) : Bool :=
  match h with
  | .ring _ _ => (s.nextChan p h).isSome
  | _ => s.meshRoom p h

/-- The number of hops that a packet has still to cross: none at its sender. -/
def Packet.toGo (p : Packet) : Option Nat := p.hops.map List.length

/-- An earlier packet of one source, destination and virtual network is not ahead of packet `n`, which has `m` hops to go: it may
not be overtaken (R342). -/
def State.behindOwn (s : State) (n m : Nat) (p : Packet) : Bool :=
  (s.net.take n).any fun q => q.src == p.src && q.dst == p.dst && q.vn == p.vn && (match q.toGo with | none => true | some k => decide (m ≤ k))

/-- Packets that wait before a hop and could cross it, oldest first. -/
def State.waitsAt (s : State) (h : Hop) : List Packet :=
  (s.net.zipIdx.filter fun e => (e.1.hops.getD []).head? == some h && e.1.hurt.isNone && s.roomAhead e.1 h &&
    !s.behindOwn e.2 (e.1.hops.getD []).length e.1).map (·.1)

/-! ## Shares of an arbiter (R311) -/

/-- What a partition has to come at an arbiter. -/
def Links.lag (k : Links) (a n : Nat) : Rat := k.lags.getD (a * 16 + n) 0

/-- The oldest transfer of each partition among those that wait, with its flits; system traffic has no share. -/
def heads : List (Nat × Nat) → List (Nat × Nat)
  | [] => []
  | e :: es => if 8 ≤ e.1 then heads es else e :: (heads es).filter fun q => q.1 != e.1

/-- When the transfer of a partition is due at an arbiter: the service of all that puts it as far ahead as it is then. -/
def Links.due (k : Links) (a : Nat) (w : Nat → Nat) (e : Nat × Nat) : Rat := ((e.2 : Rat) - k.lag a e.1) / (w e.1 : Rat)

/-- A partition has the turn of an arbiter where partitions with weights `w` wait with transfers (R311): of those that are not ahead of their
share, or of all where all are, its transfer is due first. DESIGN CHOICE (log 107): the rule bounds what a partition receives and names no
order. -/
def Links.hasTurn (k : Links) (a : Nat) (w : Nat → Nat) (wait : List (Nat × Nat)) (p : Nat) : Bool :=
  let hs := heads wait
  let behind := hs.filter fun e => decide (0 ≤ k.lag a e.1)
  let hs := if behind.isEmpty then hs else behind
  decide (8 ≤ p) || hs.any fun e => e.1 == p && hs.all fun q => decide (k.due a w e ≤ k.due a w q)

/-- The links once an arbiter has served `n` flits of a partition: those that wait gain by their weights, and one that does not wait keeps
nothing to come (R311). -/
def Links.serve (k : Links) (a : Nat) (w : Nat → Nat) (wait : List (Nat × Nat)) (p n : Nat) : Links :=
  let hs := (heads wait).map (·.1)
  let sum := (hs.map w).sum
  let next := fun (q : Nat) =>
    let g := k.lag a q
    if hs.contains q then g + (n : Rat) * (w q : Rat) / (sum : Rat) - (if q = p then (n : Rat) else 0) else if 0 ≤ g then 0 else g
  if 8 ≤ p then k
  else { k with lags := (List.range 8).foldl (fun t q => if next q = 0 then t.del (a * 16 + q) else t.put (a * 16 + q) (next q)) k.lags }

/-- The number of a ring output as an arbiter. -/
def ringOut (d : Nat) (cw : Bool) : Nat := d % 8 * 2 + cw.toNat

/-- The W_RING shares (R311). -/
def State.ringWeight (s : State) (n : Nat) : Nat := (s.parts.getD n {}).wring.toNat

/-- The transfers that wait at a ring output. -/
def State.ringWaits (s : State) (h : Hop) : List (Nat × Nat) := (s.waitsAt h).map fun q => (q.part, q.ringPart)

/-- A partition has the turn of a hop: on the mesh every one (R311, R346). -/
def State.hopTurn (s : State) (h : Hop) (part : Nat) : Bool :=
  match h with
  | .ring d cw => s.links.hasTurn (ringOut d cw) s.ringWeight (s.ringWaits h) part
  | _ => true

/-- An escape flit that can go, and has the turn, takes a ring output, or an exit into a die's mesh, ahead of one on A or B (R346). -/
def State.escapeFirst (s : State) (p : Packet) (h : Hop) : Bool :=
  !(p.onRing && p.chan == .escape) && (s.waitsAt h).any fun q => q.onRing && q.chan == .escape && s.hopTurn h q.part

/-! ## Lost traffic (R344) -/

/-- Sent by the front end: system traffic, which its sender sends again (R344). -/
def Packet.system (p : Packet) : Bool := p.src == Config.frontEnd

/-- A packet that stands at its sender again. -/
def Packet.back (p : Packet) : Packet :=
  { p with route := [], hops := none, last := none, chan := .a, across := 0, onward := .a, yx := false, hurt := none, tried := (0, 0) }

/-- The instance whose packet it is, the cell whose traffic it is and its tag. -/
def State.lossOf (s : State) (p : Packet) : Option ((Nat × Nat) × Nat × Word) :=
  let c := (p.body.issuer.map (·.cell)).getD (if p.src < Config.cells then p.src else p.dst)
  (s.instAt c p.ctx).map fun i => ((i.fn, i.id), c, p.body.tag)

/-- What instances suffer for lost traffic: by instance, the cells that sent it and its tags (R344). -/
def State.loseTraffic (s : State) (ls : List ((Nat × Nat) × Nat × Word)) : State :=
  ((ls.map (·.1)).eraseDups).foldl (fun s i =>
    let mine := ls.filter fun l => l.1 == i
    s.linkLost i.1 i.2 ((mine.head?.map (·.2.1)).getD 0) (mine.map (·.2.2))) s

/-- The counts of a packet that is lost: the counters it counted in fall, and its operation is cancelled (R57, R326). -/
def State.uncount (s : State) (p : Packet) : State :=
  let s := s.accepted p
  let s := match p.body with | .falloc _ _ => s.lowerOut p.src p.ctx 1 | _ => s
  match p.opCell with
  | some c => s.countLost c p.ctx p.body.tag 1
  | none => s

/-- Packets taken off the network as lost; those of system agents are sent again (R344). -/
def State.takeLost (s : State) (gone : List Packet) : State :=
  let lost := gone.filter fun p => !p.system
  let s := { s with net := (lost.foldl List.erase s.net).map fun p => if p.system && gone.contains p then p.back else p }
  lost.foldl State.uncount s

/-- Packets lost, and what their instances suffer. -/
def State.losePackets (s : State) (gone : List Packet) : State :=
  (s.takeLost gone).loseTraffic ((gone.filter fun p => !p.system).filterMap s.lossOf)

/-! ## A packet crosses a hop (R341 to R347) -/

/-- The cell and port under which failed attempts on a hop are counted (R341): ports 5 and 6 are the two ring outputs of a die, port
7 an attachment's into its edge router. -/
def Hop.place : Hop → Nat × Nat
  | .mesh c p => (c, p)
  | .off c => (c, (attachPort c).getD 3)
  | .onto c => (c, 7)
  | .ring d cw => (d * 256, if cw then 5 else 6)

/-- Packet `n` is held at its sender (R342, R347): packets of its pair are on their way on another path, or earlier packets of its
pair of dies go, or will go, around the ring in the other direction and have not been delivered. -/
def State.pairHeld (s : State) (n : Nat) (p : Packet) (path : List Hop) : Bool :=
  (s.net.any fun q => q.src == p.src && q.dst == p.dst && q.route != path && (match q.hops with | some (_ :: _) => true | _ => false)) ||
    match s.wayOf { p with route := path, hops := some path } with
    | none => false
    | some cw => (s.net.take n).any fun q =>
        dieOf (onMesh q.src) == dieOf (onMesh p.src) && dieOf (onMesh q.dst) == dieOf (onMesh p.dst) && q.hops != some [] &&
          s.wayOf q == some (!cw)

/-- Packet `n` becomes `p`, having crossed a hop: the attempts counted on that hop are over. -/
def State.crossed (s : State) (n : Nat) (p : Packet) : State := { s with net := listMod s.net n fun _ => { p with tried := (0, 0) } }

/-- Packet `n`, that is `p`, crosses a hop if it can. On the mesh it goes whole; on the ring one ring packet goes at a time. One of whose
flits has come in wrong waits until that is asked for again (R341). -/
def State.cross (s : State) (n : Nat) (p : Packet) (h : Hop) (rest : List Hop) : State :=
  if p.hurt.isSome then s
  else match h with
    | .ring d cw =>
      if s.links.ringAt (ringLink d cw) == .retraining || s.links.ringAt (ringLink d cw) == .lost || s.escapeFirst p h || !s.hopTurn h p.part then s
      else match s.nextChan p h with
        | some c =>
          let s := { s with links := s.links.serve (ringOut d cw) s.ringWeight (s.ringWaits h) p.part p.ringPart }
          let far := p.across + p.ringPart
          if far < p.flits then s.crossed n { p with across := far, onward := c }
          else s.crossed n { p with hops := some rest, last := some h, chan := c, across := 0, onward := .a }
        | none => s
    | _ =>
      if s.links.badHop h then s.losePackets (s.net[n]?).toList
      else if s.escapeFirst p h || !s.meshRoom p h then s
      else s.crossed n { p with hops := some rest, last := some h, chan := .a }

/-! ## The shares of a stack (R311) -/

/-- The stack whose attachment an agent is. -/
def stackAt (a : Nat) : Option Nat :=
  let e := onMesh a
  if !isAttached a then none else if rowOf e = 0 then some (2 * dieOf e) else if rowOf e = 15 then some (2 * dieOf e + 1) else none

/-- The requests that wait at a stack, oldest first: partition and flits. -/
def State.stackWaits (s : State) (st : Nat) : List (Nat × Nat) :=
  (s.net.zipIdx.filter fun e => e.1.arrived && stackAt e.1.dst == some st && s.oldest e.2 e.1).map fun e => (e.1.part, e.1.flits)

/-- The W_HBM shares (R311). -/
def State.hbmWeight (s : State) (n : Nat) : Nat := (s.parts.getD n {}).whbm.toNat

/-- Packet `n`, which has come to its agent, is taken in; a stack takes them by the shares of their partitions. -/
def State.arriveAt (s : State) (n : Nat) (p : Packet) : State :=
  match stackAt p.dst with
  | none => s.takeIn n p
  | some st =>
    if !s.links.hasTurn (16 + st) s.hbmWeight (s.stackWaits st) p.part then s
    else { s with links := s.links.serve (16 + st) s.hbmWeight (s.stackWaits st) p.part p.flits }.takeIn n p

/-- Packet `n` of the network crosses its next hop, where it may (R342 to R347). One that stands at its sender takes the path that holds
now, and one whose destination has none is lost (R344). One that has come to its destination is taken in. -/
def State.hopMove (s : State) (n : Nat) : State :=
  match s.net[n]? with
  | none => s
  | some p =>
    if !p.committed then s
    else match p.hops with
      | some [] => s.arriveAt n p
      | some (h :: rest) => if s.behindOwn n (rest.length + 1) p then s else s.cross n p h rest
      | none => match s.path p.force p.src p.dst with
        | none => if p.system then s else s.losePackets [p]
        | some (_, []) => s
        | some (yx, h :: rest) =>
          if s.pairHeld n p (h :: rest) || s.behindOwn n (rest.length + 1) p then s
          else s.cross n { p with route := h :: rest, yx := yx, hops := some (h :: rest) } h rest

/-! ## Flits that come in wrong (R341) -/

/-- The hop that a packet crosses next: of one at its sender, the first of the path that holds now. -/
def State.nextHop (s : State) (p : Packet) : Option Hop :=
  match p.hops with
  | some hs => hs.head?
  | none => (s.path p.force p.src p.dst).bind fun q => q.2.head?

/-- Bits of a flit of packet `n` come out wrong at the receiver of its next hop (R341), which checks the parity of what comes in. A parity
is linear, so it tells the same of the bits that differ, beside the flit's own sideband, as of the flit. DESIGN CHOICE (log 110): bits that the
parity does not show leave the flit as it was sent. -/
def State.flitError (s : State) (n flit : Nat) (payload : List Byte) (side : Word) : State :=
  match s.net[n]? with
  | none => s
  | some p =>
    let bits := (payload ++ List.replicate 64 0).take 64
    if !p.committed || p.flits ≤ flit || p.hurt.isSome || (s.nextHop p).isNone || flitOk bits (p.sideband flit (List.replicate 64 0) ^^^ side) then s
    else { s with net := listMod s.net n fun p => { p with hurt := some flit } }

/-! ## A hop fails (R344) -/

/-- A hop touches an element: a router (port 4) or the link at a port of a router. -/
def Hop.touches (cell port : Nat) : Hop → Bool
  | .mesh c p =>
    if port = 4 then c == cell || neighbour c p == some cell
    else (c == cell && p == port) || (neighbour c p == some cell && opposite p == port)
  | .off c => c == cell && (port == 4 || attachPort c == some port)
  | .onto c => c == cell && (port == 4 || attachPort c == some port)
  | .ring _ _ => false

/-- A hop leads into a cell's router. -/
def Hop.into (cell : Nat) : Hop → Bool
  | .mesh c p => neighbour c p == some cell
  | .onto c => c == cell
  | _ => false

/-- A packet stands before an element, or in a router that is one. -/
def Packet.touching (p : Packet) (cell port : Nat) : Bool :=
  (port == 4 && p.last.any fun h => h.into cell) || ((p.hops.getD []).head?.any fun h => h.touches cell port)

/-- Stacks to which an operation has something outstanding: requests, messages, or what answers them. -/
def MemOp.targets (o : MemOp) : List Nat :=
  (o.pieces.filterMap fun p => if p.back then none else p.stack) ++
    (List.range 16).filter fun st => o.mask.getLsbD st && !o.acked.getLsbD st && (o.opened || o.kind.acquires)

/-- A mesh or attachment hop fails (R344): of the packets that stand at it, which ones it holds is free. A router's failure kills every
instance that has its cell. -/
def State.failHop (s : State) (cell port : Nat) : State :=
  let held := (((s.net.filter fun p => p.touching cell port).zipIdx).filter fun e => Config.hopHolds s.free e.2).map (·.1)
  let s := { s with free := s.free + 1 }
  let s := (s.addBad (if port = 4 then 1 else 2) cell port 0).errRec 0x06 8 cell 0 (word (cell + port * 2 ^ 11)) 0
  let s := s.losePackets held
  if port = 4 then (s.insts.filter fun i => i.place.contains cell).foldl (fun s i => s.linkLost i.fn i.id cell []) s else s

/-- HOP_FAILED (R344): a mesh or attachment link of a router or, at port 4, the router. -/
def execHopFailed (cell port : Nat) (s : State) : Host.Outcome State Fault Refusal :=
  .next (if decide (cell < Config.cells) && (port == 4 || isLink cell port) then s.failHop cell port else s)

end Sys2Proof.Machine
end

