-- ==== Sys2Proof/Machine/Hang.lean ====
section
/-! DEFINITION. Watchdogs, deadlock detection, freeze timeouts and the blocked-port map (R333 to R335). -/

namespace Sys2Proof.Machine

/-! ## The blocked-port map (R335) -/

/-- An entry of the map: its header word and the words that follow. -/
def mapEntry (vcell ctx ty : Nat) (ws : List Word) : List Word :=
  word (vcell + ctx * 2 ^ 11 + ty * 2 ^ 14 + ws.length * 2 ^ 22) :: ws

/-- The deferred-reader word of a slot (R37). -/
def Slot.word : Slot → Word
  | .full v => v
  | .deferred recd ia prio region => Machine.word (recd % 2 ^ 16 * 2 ^ 48 + ia % 2 ^ 14 * 2 ^ 34 + prio % 4 * 2 ^ 32 + region % 2 ^ 8 * 2 ^ 24)

/-- Type 1: deferred slots of a context. -/
def Cell.mapDeferred (c : Cell) (x : Nat) : List (List Word) :=
  let k := c.cx x
  (c.slots.filter fun (e : Nat × Slot) =>
    decide (k.areaStart ≤ e.1) && decide (e.1 < k.areaStart + k.areaSize) && isDeferred (some e.2)).map fun (e : Nat × Slot) =>
      mapEntry k.vcell x 1 [word e.1, e.2.word]

/-- The continuation of a ready firing, and its context. -/
def Cell.readyCont (c : Cell) (e : Ready) : Nat × Word :=
  match e.body with
  | .fresh f => (f.ctx, mkCont (c.cx f.ctx).vcell f.ctx f.base f.hdr 0 f.prio)
  | .resumed q =>
    let f := (c.recs.getD q {}).fir
    (f.ctx, mkCont (c.cx f.ctx).vcell f.ctx f.base f.hdr 0 f.prio)

/-- Type 2: heads of ready classes that are of a context. -/
def Cell.mapReady (c : Cell) (x : Nat) : List (List Word) :=
  [3, 2, 1, 0].filterMap fun cls =>
    match c.ready.find? fun e => e.cls == cls with
    | some e => if (c.readyCont e).1 = x then some (mapEntry (c.cx x).vcell x 2 [word cls, (c.readyCont e).2]) else none
    | none => none

/-- The opcode of an engine command. -/
def EngOp.code : EngOp → Nat
  | .tload => 0x80 | .tstore => 0x81 | .tcopy => 0x82 | .tgath => 0x83 | .tscat => 0x84 | .tfill => 0x85
  | .mwld => 0x88 | .macc => 0x89 | .mrun => 0x8A | .mdrain => 0x8B | .rset => 0x90 | .rfeed => 0x91 | .vrun => 0x98

/-- Type 3: the heads of the engines' queues, with the cause for which the engine waits. -/
def State.mapEngines (s : State) (c x : Nat) : List (List Word) :=
  let d := s.cell c
  let xlate := d.copies.any fun r => match s.ops.find? fun o => o.id == r.cmd.uid with
    | some o => o.dpark.isSome || o.pieces.any fun p => p.xl == .todo || p.rests
    | none => false
  let mx := if d.matrix.heldLoad.isSome then 0x09 else if d.matrix.heldRows.isSome then 0x0A else 0x0B
  [(0, d.copyq, if xlate then 0x0C else 0x0D), (1, d.matrix.mq0, mx), (2, d.matrix.mq1, mx), (3, d.vec.queue, 0x0E),
   (4, d.reducer.queue, 0x0A)].filterMap fun (e : Nat × List Cmd × Nat) =>
    match e.2.1 with
    | [] => none
    | m :: _ => if m.who.ctx = x then some (mapEntry m.who.vcell x 3 [word e.1, word (m.op.code + m.who.ia * 2 ^ 8), word e.2.2]) else none

/-- Type 4: pool levels of a context where requests wait. -/
def Ctx.mapPools (k : Ctx) (x : Nat) : List (List Word) :=
  (k.pools.filter fun (e : Nat × Pool) => !e.2.queue.isEmpty).map fun (e : Nat × Pool) =>
    mapEntry k.vcell x 4 [word e.1, word e.2.live, word e.2.queue.length]

/-- Type 5: stacks where a store of a context waits on a full sub-log. -/
def State.mapLogs (s : State) (c x : Nat) : List (List Word) :=
  let k := s.cx c x
  let sts := ((s.ops.filter fun o => o.who.cell == c && o.who.ctx == x).flatMap fun o =>
    o.pieces.filterMap fun p => if p.wait.isSome then p.stack else none).eraseDups
  sts.map fun st => mapEntry k.vcell x 5 [word st, word k.logSize, word (s.sub st k.log).unpublished.length]

/-- The binding field of a stream port (R335). -/
def Binding.code : Binding → Nat
  | .none => 0 | .reducer => 1 | .kernel => 2

/-- Type 7: stream ports that hold rows of a context. -/
def Cell.mapPorts (c : Cell) (x : Nat) : List (List Word) :=
  (c.ports.filter fun (e : Nat × Port) => e.2.rows.any fun r => r.ctx == x).map fun (e : Nat × Port) =>
    mapEntry (c.cx x).vcell x 7 [word e.1, word ((e.2.rows.map Row.flits).sum + e.2.rows.length), word e.2.bound.code]

/-- Type 8: parked requests of a context. -/
def State.mapParked (s : State) (c x : Nat) : List (List Word) :=
  (s.ops.filter fun o => o.who.cell == c && o.who.ctx == x).flatMap fun o =>
    ((o.dpark.toList.filter fun d => d.2 != 0).map fun d => mapEntry o.who.vcell x 8 [word d.2, word (bits (o.recw.getD 0 0) 0 20)]) ++
    o.pieces.filterMap fun p => match p.xl with
      | .parked _ id => some (mapEntry o.who.vcell x 8 [word id, word (p.tid + p.tpn * 2 ^ 20)])
      | _ => none

/-- Type 9: armed barriers and wake ports of a context. -/
def Cell.mapArmed (c : Cell) (x : Nat) : List (List Word) :=
  ((c.barriers.filter fun (e : Nat × Barrier) => e.2.armed && e.2.owner == x).map fun (e : Nat × Barrier) =>
    mapEntry (c.cx x).vcell x 9 [word e.1, e.2.arrivals.setWidth 64, e.2.target.setWidth 64]) ++
  (c.wakes.filter fun (e : Nat × WakePort) => e.2.armed && e.2.owner == x).map fun (e : Nat × WakePort) =>
    mapEntry (c.cx x).vcell x 9 [word (128 + e.1), 0, 0]

/-- A cell's packet can still be delivered (R327): a token unless its ring is full, a message unless tokens of its
source wait before it, a stream row while its port has room. -/
def State.deliverable (s : State) (p : Packet) : Bool :=
  match p.body with
  | .token t => ((s.cell p.dst).accept (ctxOf t.cont) t).isSome
  | .stream q r _ => ((s.cell p.dst).ports.getD q {}).fits r
  | .falloc _ _ | .ffree _ _ | .count _ _ _ _ | .bara _ _ _ _ | .alloc _ _ _ _ _ => !s.behindTokens p.src p.dst p.ctx
  | _ => true

/-- Slots that a packet's partition has free in its virtual network's pool at the far end of a hop of the mesh (R343). -/
def State.meshFree (s : State) (p : Packet) (h : Hop) : Nat :=
  vnSlots p.vn p.yx - ((s.net.filter fun q => q.last == some h && p.pooled q).map Packet.slots).sum

/-- Type 6: ports of the router of a cell at which packets of a context's partition wait for room: a port of the mesh or to an
attachment, or the local one where the cell does not take what has arrived. Free slots at the cell itself are none. -/
def State.mapRouter (s : State) (c x : Nat) : List (List Word) :=
  let k := s.cx c x
  let here := s.net.filter fun p => p.part == k.part && p.committed && p.dst == c && p.hops == some [] && !s.deliverable p
  let stand := s.net.filter fun p => p.part == k.part && p.last.any fun h => h.into c
  let ahead : List (Nat × Nat × Nat) := stand.filterMap fun p => match p.hops with
    | some (h :: _) => if s.roomAhead p h then none else some (h.place.2, p.vn, s.meshFree p h)
    | _ => none
  let there : List (Nat × Nat × Nat) := here.map fun p => (4, p.vn, 0)
  (ahead ++ there).eraseDups.map fun e => mapEntry k.vcell x 6 [word e.1, word e.2.1, word e.2.2]

/-- The entries of an instance's map, in vcell order and in type order within a vcell. -/
def State.portMap (s : State) (i : Inst) : List (List Word) :=
  i.place.flatMap fun c =>
    let d := s.cell c
    let x := i.ctx
    d.mapDeferred x ++ d.mapReady x ++ s.mapEngines c x ++ (d.cx x).mapPools x ++ s.mapLogs c x ++ s.mapRouter c x ++
      d.mapPorts x ++ s.mapParked c x ++ d.mapArmed x

/-- The entries that fit in a number of words, and how many they are. -/
def fitEntries : Nat → List (List Word) → List (List Word)
  | _, [] => []
  | n, e :: es => if e.length ≤ n then e :: fitEntries (n - e.length) es else []

/-- The map of an instance written to VF_DIAG: the state after it, the map's byte offset and its length in
bytes. Maps follow one another; one that does not fit in the rest of the buffer starts it again. -/
def State.writeMap (s : State) (i : Inst) : State × Nat × Nat :=
  let g := (s.fn i.fn).diag
  if g.base = 0 then (s, 0, 0)
  else
    let es := s.portMap i
    let need := 8 * (es.flatten.length + 1)
    let off := if g.pos + need ≤ g.bytes then g.pos else 0
    let kept := fitEntries ((g.bytes - off) / 8 - 1) es
    let head := word (kept.length + i.id % 2 ^ 31 * 2 ^ 32 + (if kept.length < es.length then 2 ^ 63 else 0))
    let ws := head :: kept.flatten
    let s := (s.wrGuest i.fn (g.base + off) (wordBytes ws)).getD (s.errRec 0x0C 8 0 0 (word (g.base + off)) (word i.fn))
    (s.modFn i.fn fun k => { k with diag := { k.diag with pos := off + 8 * ws.length } }, off, 8 * ws.length)

/-! ## Hang handling (R334) -/

/-- The clock by which a partition's freeze is timed: that of its first cell. -/
def State.partAc (s : State) (p : Part) : Nat := s.ac (((baysOf p.bays).flatMap bayCells).headD 0)

/-- An instance hangs (R334): the Puppeteer freezes its partition, unless a freeze has begun. -/
def State.hang (s : State) (i : Inst) (st : EndStatus) : State :=
  if s.hangs i then s
  else s.modPart i.part fun p => { p with hung := p.hung ++ [(i.fn, i.id, st)], freezing := p.freezing.or (some (s.partAc p)) }

/-- The hung instances of a partition, with the status each ends with. -/
def State.hungOf (s : State) (p : Part) : List (Inst × EndStatus) :=
  p.hung.filterMap fun h => (s.inst? h.1 h.2.1).map fun i => (i, h.2.2)

/-- The blocked-port maps of hung instances written one after another: with each its byte offset and length. -/
def State.writeMaps (s : State) : List (Inst × EndStatus) → State × List (Inst × EndStatus × Nat × Nat)
  | [] => (s, [])
  | e :: es =>
    let (t, off, len) := s.writeMap e.1
    let r := t.writeMaps es
    (r.1, (e.1, e.2, off, len) :: r.2)

/-- A hung instance's kill, with its record of class 0x05 (R324, R334). -/
def State.killHung (s : State) (i : Inst) (st : EndStatus) (off len : Nat) : State :=
  let code := if st == .watchdog then FaultCode.watchdog else .hang
  let r : Raise := { cell := i.place.headD 0, ctx := i.ctx, cls := 5, code := code, ia := 0x3FFF, frame := 0, d1 := word off, d2 := word len,
                     tag := 0, faulty := false }
  s.kill i st (r.words s) (s.now 0)

/-- What follows for the hung instances of a partition that has frozen (R334): their maps, then their kills. -/
def State.settleHung (s : State) (n : Nat) : State :=
  let r := s.writeMaps (s.hungOf (s.parts.getD n {}))
  (r.2.foldl (fun s e => s.killHung e.1 e.2.1 e.2.2.1 e.2.2.2) r.1).modPart n fun p => { p with hung := [] }

/-- WATCHDOG_EXPIRY (R333, R334): an instance whose conditions of R64 held no later than the expiry tick completes instead. -/
def execWatchdogExpiry (fn id : Nat) (s : State) : Host.Outcome State Fault Refusal :=
  .next (match s.inst? fn id with
    | none => s
    | some i =>
      if i.expired then s.hang i .watchdog else s)

/-- DEADLOCK_DETECT (R334). -/
def execDeadlockDetect (fn id : Nat) (s : State) : Host.Outcome State Fault Refusal :=
  .next (match s.inst? fn id with
    | none => s
    | some i =>
      let c := i.place.headD 0
      if i.started && s.runs c && (i.place.any fun c => !(s.cx c i.ctx).frames.isEmpty) &&
          decide (i.lastAct + Config.deadlockAc ≤ s.ac c) then
        s.hang i .hang
      else s)

/-- Lanes of a partition that are not idle. -/
def State.busyLanes (s : State) (p : Part) : List Nat := ((baysOf p.bays).flatMap bayCells).filter fun c => (s.cell c).lane.busy

/-- Those of them whose firing is not of a hung or killed instance. -/
def State.liveLanes (s : State) (p : Part) : List Nat :=
  (s.busyLanes p).filter fun c => (s.instAt c (s.cell c).lane.fir.ctx).any fun i => !s.hangs i

/-- The lanes of a partition that freezes are idle, or 2^20 ac have passed and what still runs is of hung or killed instances (R327). -/
def State.lanesDone (s : State) (p : Part) : Bool :=
  (s.busyLanes p).isEmpty || (p.freezing.any (fun t => decide (t + Config.freezeAc ≤ s.partAc p)) && (s.liveLanes p).isEmpty)

/-- FREEZE_TIMEOUT (R327, R334): instances whose firings keep a lane from becoming idle are hung. -/
def execFreezeTimeout (part : Nat) (s : State) : Host.Outcome State Fault Refusal :=
  .next (let p := s.parts.getD part {}
    match p.freezing with
    | none => s
    | some t =>
      if s.partAc p < t + Config.freezeAc then s
      else (((s.liveLanes p).filterMap fun c => s.instAt c (s.cell c).lane.fir.ctx).eraseDups).foldl (fun s i => s.hang i .hang) s)

end Sys2Proof.Machine
end

