-- ==== Sys2Proof/Machine/Moving.lean ====
section
/-! DEFINITION. The part of a cell that belongs to one context, taken out and put into another cell with the
physical cell numbers in it renamed: what SAVE keeps, RESTORE writes back and a segment's move carries (R55,
R258, R292, R328, R329). -/

namespace Sys2Proof.Machine

/-! ## Renaming -/

/-- A cell number after a move from the cells `a` to the cells `b`, taken in order. -/
def renamed (a b : List Nat) (c : Nat) : Nat :=
  match (a.zip b).find? fun e => e.1 == c with
  | some e => e.2
  | none => c

/-- An issuer renamed. -/
def Issuer.moved (w : Issuer) (f : Nat → Nat) : Issuer := { w with cell := f w.cell }

/-- A command renamed. -/
def Cmd.moved (m : Cmd) (f : Nat → Nat) : Cmd := { m with who := m.who.moved f }

/-- A run renamed. -/
def Run.moved (r : Run) (f : Nat → Nat) : Run :=
  { r with cmd := r.cmd.moved f, made := r.made.map fun q => (f q.1, q.2) }

/-- A token renamed. -/
def Token.moved (t : Token) (f : Nat → Nat) : Token := { t with src := f t.src }

/-- An operation renamed. -/
def MemOp.moved (o : MemOp) (f : Nat → Nat) : MemOp := { o with who := o.who.moved f }

/-- A packet's content renamed. -/
def Payload.moved (f : Nat → Nat) : Payload → Payload
  | .token t => .token t
  | .ret t => .ret t
  | .falloc l r => .falloc l { r with src := f r.src }
  | .ffree b w => .ffree b (w.moved f)
  | .count h n up w => .count h n up (w.moved f)
  | .hld h off op w => .hld h off op (w.moved f)
  | .hst h off w => .hst h off (w.moved f)
  | .bara i n k w => .bara i n k (w.moved f)
  | .wake p x v q => .wake p x v q
  | .regionId id => .regionId id
  | .regionFail id r t b => .regionFail id r t b
  | .regionApply id => .regionApply id
  | .stream p r u => .stream p r u
  | .qpost r k p op w => .qpost r k p op (w.moved f)
  | .request o k w => .request o k (w.moved f)
  | .publish o k w => .publish o k (w.moved f)
  | .interim o k w => .interim o k (w.moved f)
  | .answer o k w => .answer o k (w.moved f)
  | .ack o k w => .ack o k (w.moved f)
  | .alloc u a b c w => .alloc u a b c (w.moved f)
  | .allocated u x w => .allocated u x (w.moved f)
  | .tile u i g n es w => .tile u i g n es (w.moved f)
  | .tileAck u w => .tileAck u (w.moved f)

/-- A packet renamed. -/
def Packet.moved (p : Packet) (f : Nat → Nat) : Packet :=
  { p with src := f p.src, dst := f p.dst, also := p.also.map f, reply := p.reply.map f, body := p.body.moved f }

/-- A context renamed. -/
def Ctx.moved (k : Ctx) (f : Nat → Nat) : Ctx :=
  { k with
    place := k.place.map f
    spill := k.spill.map fun t => t.moved f
    pools := k.pools.map fun (e : Nat × Pool) => (e.1, { e.2 with queue := e.2.queue.map fun (r : FrameReq) => { r with src := f r.src } }) }

/-- A reduction in progress renamed. -/
def Reduction.moved (r : Reduction) (f : Nat → Nat) : Reduction := { r with run := r.run.moved f }

/-- A cell's content renamed: `f x` renames what belongs to context `x`. -/
def Cell.moved (c : Cell) (f : Nat → Nat → Nat) : Cell :=
  let cmd := fun (m : Cmd) => m.moved (f m.who.ctx)
  let run := fun (r : Run) => r.moved (f r.cmd.who.ctx)
  { c with
    ctxs := c.ctxs.map fun (e : Nat × Ctx) => (e.1, e.2.moved (f e.1))
    inq := c.inq.map fun t => t.moved (f (ctxOf t.cont))
    recs := c.recs.map fun (e : Nat × SuspRec) =>
      (e.1, { e.2 with frees := e.2.frees.map fun (q : Nat × Issuer) => (q.1, q.2.moved (f q.2.ctx)) })
    copyq := c.copyq.map cmd
    copies := c.copies.map run
    matrix := { c.matrix with
      mq0 := c.matrix.mq0.map cmd
      mq1 := c.matrix.mq1.map cmd
      runs := c.matrix.runs.map run
      heldLoad := c.matrix.heldLoad.map cmd
      heldRows := c.matrix.heldRows.map cmd }
    reducer := { c.reducer with
      queue := c.reducer.queue.map cmd
      cur := c.reducer.cur.map fun r => r.moved (f r.run.cmd.who.ctx)
      feed := c.reducer.feed.map fun (e : Run × Nat) => (run e.1, e.2)
      ended := c.reducer.ended.map run }
    vec := { c.vec with queue := c.vec.queue.map cmd, run := c.vec.run.map run } }

/-! ## Clocks -/

/-- A time by one cell's arithmetic clock, which stands at `a`, as one by another's, which stands at `b` (R17). -/
def rebase (a b t : Nat) : Nat := t + b - a

/-- What a cell measures by its arithmetic clock, which stood at `a`, on a cell whose clock stands at `b`. -/
def Cell.shifted (c : Cell) (a b : Nat) : Cell :=
  { c with
    ctxs := c.ctxs.map fun (e : Nat × Ctx) => (e.1, { e.2 with loadedAt := rebase a b e.2.loadedAt })
    ready := c.ready.map fun e => { e with since := rebase a b e.since }
    retained := c.retained.map fun r => { r with born := rebase a b r.born } }

/-- The same of an operation that the cell issued. -/
def MemOp.shifted (o : MemOp) (a b : Nat) : MemOp :=
  { o with pieces := o.pieces.map fun p => { p with wait := p.wait.map (rebase a b) } }

/-- A packet of a moved context, before its cells are renamed: one between cells starts at its sender again, on its way to where the
context stands now (R55). -/
def Packet.redirected (p : Packet) : Packet :=
  if p.src = p.dst then p else p.back

/-- An instance renamed. -/
def Inst.moved (i : Inst) (f : Nat → Nat) : Inst :=
  { i with
    place := i.place.map f
    regions := i.regions.map fun (e : Nat × Region) => (e.1, { e.2 with
      todo := e.2.todo.map f
      closing := e.2.closing.map fun (w : Word × Issuer) => (w.1, w.2.moved f) }) }

/-- The sub-logs of an instance renamed. -/
def State.moveLogs (s : State) (i : Inst) (f : Nat → Nat) : State :=
  { s with hbm := s.hbm.map fun k => { k with subs := k.subs.map fun (e : Nat × SubLog) =>
      (e.1, if e.2.inst = (i.fn, i.id) then { e.2 with owner := e.2.owner.map fun q => (f q.1, q.2) } else e.2) } }

/-! ## The part of a cell that is one context's -/

/-- Ready entries of a context. -/
def Cell.readyOf (c : Cell) (x : Nat) (e : Ready) : Bool :=
  match e.body with
  | .fresh f => f.ctx == x
  | .resumed q => match c.recs.get? q with | some d => d.fir.ctx == x | none => false

/-- What a cell holds for some of its contexts, in the order in which it holds it. The matrix banks, the accumulators and the tags that
the reducer discards belong to the cell and go with it. -/
def Cell.only (c : Cell) (xs : List Nat) : Cell :=
  let area := fun (q : Nat) => xs.any fun x => decide ((c.cx x).areaStart ≤ q) && decide (q < (c.cx x).areaStart + (c.cx x).areaSize)
  let mine := fun (m : Cmd) => xs.contains m.who.ctx
  let run := match c.vec.run with | some r => mine r.cmd | none => false
  let sum := match c.reducer.cur with | some r => mine r.run.cmd | none => false
  { ctxs := xs.map fun x => (x, c.cx x)
    slots := c.slots.filter fun e => area e.1
    ftoks := c.ftoks.filter area
    inq := c.inq.filter fun t => xs.contains (ctxOf t.cont)
    ready := c.ready.filter fun e => xs.any fun x => c.readyOf x e
    recs := c.recs.filter fun e => xs.contains e.2.fir.ctx
    retained := c.retained.filter fun r => xs.contains r.ctx
    heap := {
      tiles := c.heap.tiles.filter (fun e => e.2.live && xs.contains e.2.ctx)
      ghosts := c.heap.ghosts.filter fun e => xs.contains e.2.ctx }
    copyq := c.copyq.filter mine
    copies := c.copies.filter fun r => mine r.cmd
    matrix := { c.matrix with
      mq0 := c.matrix.mq0.filter mine
      mq1 := c.matrix.mq1.filter mine
      runs := c.matrix.runs.filter fun r => mine r.cmd
      heldLoad := c.matrix.heldLoad.filter mine
      heldRows := c.matrix.heldRows.filter mine
      products := c.matrix.products.filter fun p => xs.contains p.ctx }
    reducer := { c.reducer with
      queue := c.reducer.queue.filter mine
      cur := c.reducer.cur.filter fun r => mine r.run.cmd
      feed := c.reducer.feed.filter fun e => mine e.1.cmd
      ended := c.reducer.ended.filter fun r => mine r.cmd }
    vec := if run then { c.vec with queue := c.vec.queue.filter mine } else { queue := c.vec.queue.filter mine }
    ports := c.ports.map fun (e : Nat × Port) => (e.1, {
      rows := e.2.rows.filter fun r => xs.contains r.ctx
      bound := if (run && e.2.bound == .kernel) || (sum && e.2.bound == .reducer) then e.2.bound else .none })
    barriers := c.barriers.filter fun e => xs.contains e.2.owner
    wakes := c.wakes.filter fun e => xs.contains e.2.owner }

/-- No weights, accumulators or tags to be discarded, which belong to a cell as a whole. -/
def Cell.blank (c : Cell) : Bool :=
  !c.matrix.wb0.valid && !c.matrix.wb1.valid && c.matrix.acc.isEmpty && c.matrix.marks.isEmpty && c.reducer.dead.isEmpty

/-- What belongs to a cell as a whole is the same in two cells. -/
def Cell.sameBanks (a b : Cell) : Bool :=
  a.matrix.wb0 == b.matrix.wb0 && a.matrix.wb1 == b.matrix.wb1 && a.matrix.acc == b.matrix.acc && a.matrix.marks == b.matrix.marks &&
    a.reducer.dead == b.reducer.dead

/-- A cell whose contexts are all free: what its engines were left with is of no one. -/
def Cell.cleared (c : Cell) : Cell :=
  if c.ctxs.any fun e => e.2.inst.isSome then c else { c with matrix := {}, reducer := {}, vec := {}, ports := [] }

/-- Entries of one table put into another. -/
def joinTbl {α : Type} (a b : Tbl α) : Tbl α := b.foldl (fun a e => a.put e.1 e.2) a

/-- A bank that holds weights, of two. -/
def Bank.either (a b : Bank) : Bank := if a.valid then a else b

/-- Blocks of live and freed tiles that a part of a cell holds. -/
def Heap.held (h : Heap) : Nat := ((h.tiles.map fun e => if e.2.live then e.2.blocks else 0).sum) + (h.ghosts.map fun e => e.2.blocks).sum

/-- The matrix engines of two parts joined. -/
def Matrix.joined (a b : Matrix) : Matrix :=
  { mq0 := a.mq0 ++ b.mq0
    mq1 := a.mq1 ++ b.mq1
    streak := Nat.max a.streak b.streak
    wb0 := a.wb0.either b.wb0
    wb1 := a.wb1.either b.wb1
    acc := joinTbl b.acc a.acc
    marks := (a.marks ++ b.marks).eraseDups
    products := a.products ++ b.products
    runs := a.runs ++ b.runs
    heldLoad := a.heldLoad.or b.heldLoad
    heldRows := a.heldRows.or b.heldRows }

/-- The reducers of two parts joined. -/
def Reducer.join (a b : Reducer) : Reducer :=
  { queue := a.queue ++ b.queue
    cur := a.cur.or b.cur
    feed := a.feed.or b.feed
    ended := a.ended ++ b.ended
    dead := (a.dead ++ b.dead).eraseDups }

/-- Suspension records put into a cell: each under its own number, or another where that is taken (R38). With the cell, the old number of
each and the new one. -/
def Cell.addRecs (c : Cell) : List (Nat × SuspRec) → Cell × List (Nat × Nat)
  | [] => (c, [])
  | e :: es =>
    let n := if (c.recs.get? e.1).isNone then e.1 else c.recKey e.2.slot
    let r := Cell.addRecs { c with recs := c.recs.put n e.2 } es
    (r.1, (e.1, n) :: r.2)

/-- The new key of a record. -/
def newRec (ns : List (Nat × Nat)) (n : Nat) : Nat := ((ns.find? fun e => e.1 == n).map (·.2)).getD n

/-- A ready entry that names a renumbered record. -/
def Ready.renumbered (e : Ready) (ns : List (Nat × Nat)) : Ready :=
  match e.body with
  | .resumed m => { e with body := .resumed (newRec ns m) }
  | .fresh _ => e

/-- The record field of a slot whose reader waits under a key: an on-chip record's number, or 64 and the slot's place in the context's
frame area (R38). -/
def recField (key slot area : Nat) : Nat := if key < Config.chipRecords then key else Config.chipRecords + (slot - area)

/-- A DEFERRED slot of a cell's part, as it names its record in cell `c`, where the part's records are now (R37, R38). -/
def Slot.renumbered (v : Slot) (c : Cell) (k : Nat) : Slot :=
  match v with
  | .deferred recd ia prio region =>
    match c.waiter k with
    | some (key, q) => .deferred (recField key k (c.cx q.fir.ctx).areaStart) ia prio region
    | none => .deferred recd ia prio region
  | .full v => .full v

/-- Of the images of some contexts, those that the codelet store has no room for are not resident: they are fetched again (R11, R54). -/
def Cell.fitImages (c : Cell) (xs : List Nat) : Cell :=
  xs.foldl (fun c x =>
    if Config.codeletStore < 4 * (c.storeWords x + (c.cx x).image.length) then c.modCx x fun k => { k with resident := false } else c) c

/-- A part of a cell put into another cell. -/
def Cell.join (a b : Cell) : Cell :=
  let (c, ns) := a.addRecs b.recs
  let c := { c with ctxs := joinTbl a.ctxs b.ctxs }
  let c := c.fitImages (b.ctxs.map (·.1))
  { c with
    slots := joinTbl a.slots (b.slots.map fun (e : Nat × Slot) => (e.1, e.2.renumbered c e.1))
    ftoks := a.ftoks ++ b.ftoks
    inq := a.inq ++ b.inq
    ready := a.ready ++ b.ready.map fun e => e.renumbered ns
    retained := a.retained ++ b.retained
    heap := { a.heap with
      free := a.heap.free - b.heap.held
      tiles := joinTbl a.heap.tiles b.heap.tiles
      ghosts := joinTbl a.heap.ghosts b.heap.ghosts }
    copyq := a.copyq ++ b.copyq
    copies := a.copies ++ b.copies
    matrix := a.matrix.joined b.matrix
    reducer := a.reducer.join b.reducer
    vec := if b.vec.run.isSome then { b.vec with queue := a.vec.queue ++ b.vec.queue } else { a.vec with queue := a.vec.queue ++ b.vec.queue }
    ports := b.ports.foldl (fun t e =>
      let p := t.getD e.1 {}
      t.put e.1 { rows := p.rows ++ e.2.rows, bound := if e.2.bound = .none then p.bound else e.2.bound }) a.ports
    barriers := joinTbl a.barriers b.barriers
    wakes := joinTbl a.wakes b.wakes }

/-- The queues of a cell have room for those of a part (R11). -/
def Cell.roomFor (a b : Cell) : Bool :=
  let e := a.cleared
  decide (a.inq.length + b.inq.length ≤ Config.inputQueue) && decide (a.newReady + b.newReady ≤ Config.readyNew) &&
    decide (a.copyq.length + b.copyq.length ≤ 16) && decide (e.matrix.mq0.length + b.matrix.mq0.length ≤ 8) &&
    decide (e.matrix.mq1.length + b.matrix.mq1.length ≤ 8) && decide (e.vec.queue.length + b.vec.queue.length ≤ 8) &&
    decide (e.reducer.queue.length + b.reducer.queue.length ≤ 4)

/-- A stream port holds no row and is bound to nothing. -/
def Port.idle (p : Port) : Bool := p.rows.isEmpty && p.bound == .none

/-- Two parts use no stream port both. -/
def Cell.portsApart (a b : Cell) : Bool := b.ports.all fun e => e.2.idle || (a.ports.getD e.1 {}).idle

/-- A part fits a cell: the context slot is free, no tile-table entry, barrier or stream port is taken twice, blocks and queue entries are
there, and what belongs to a cell as a whole is not held twice. DESIGN CHOICE (log 105): a cell that lacks the room is not taken. `home`: what
the cell holds of the image stood on one cell with this part, and its ports with it. -/
def Cell.takes (a b : Cell) (x : Nat) (tenant : BitVec 16) (home : Bool := false) : Bool :=
  (a.cx x).open? tenant &&
    !(a.ctxs.any fun e => e.2.inst.isSome && overlap (b.cx x).areaStart (b.cx x).areaSize e.2.areaStart e.2.areaSize) &&
    !(b.heap.tiles.any fun e => (a.tile e.1).live) && decide (b.heap.held ≤ a.heap.free) &&
    !(b.barriers.any fun e => !(a.barriers.getD e.1 {}).idle) && !(b.wakes.any fun e => !(a.wake e.1).idle) &&
    !(b.vec.run.isSome && a.vec.run.isSome) && !(b.reducer.cur.isSome && a.reducer.cur.isSome) &&
    a.roomFor b && (home || a.cleared.portsApart b) &&
    (a.cleared.blank || b.blank || a.sameBanks b)

/-! ## SEGMENT_MOVE (R55) -/

/-- A cell without one of its contexts, moved away. -/
def Cell.without (c : Cell) (x : Nat) : Cell :=
  let k := c.cx x
  let area := fun (q : Nat) => decide (k.areaStart ≤ q) && decide (q < k.areaStart + k.areaSize)
  let gone := (c.only [x]).heap
  { c with
    ctxs := c.ctxs.del x
    slots := c.slots.filter fun e => !area e.1
    ftoks := c.ftoks.filter fun q => !area q
    inq := c.inq.filter fun t => ctxOf t.cont != x
    ready := c.ready.filter fun e => !c.readyOf x e
    recs := c.recs.filter fun e => e.2.fir.ctx != x
    retained := c.retained.filter fun r => r.ctx != x
    heap := { c.heap with
      tiles := c.heap.tiles.map fun (e : Nat × Tile) => (e.1, if e.2.live && e.2.ctx == x then { gen := e.2.gen + 1 } else e.2)
      ghosts := c.heap.ghosts.filter fun e => e.2.ctx != x
      zeroing := c.heap.zeroing + gone.held }
    barriers := c.barriers.map fun (e : Nat × Barrier) => (e.1, if e.2.owner == x && !e.2.idle then { phase := e.2.phase } else e.2)
    wakes := c.wakes.filter fun e => e.2.owner != x
    ports := c.ports.map fun (e : Nat × Port) => (e.1, { e.2 with rows := e.2.rows.filter fun r => r.ctx != x }) }

/-- A cell has no engine work of a context: no command, open product or stream row. -/
def Cell.engineFree (c : Cell) (x : Nat) : Bool :=
  !(c.cmds.any fun m => m.who.ctx == x) && !(c.matrix.products.any fun p => p.ctx == x) &&
    !(c.ports.any fun e => e.2.rows.any fun r => r.ctx == x)

/-- The packets and operations of an instance after one of its segments has moved from cell `c` to `d` (R55). -/
def State.redirect (s : State) (i : Inst) (c d : Nat) : State :=
  let f := renamed [c] [d]
  { s with
    net := s.net.map fun (p : Packet) =>
      if !p.ofInst i then p
      else if p.src = c then { p.redirected.moved f with born := rebase (s.ac c) (s.ac d) p.born }
      else if p.dst = c then p.redirected.moved f
      else p.moved f
    ops := s.ops.map fun (o : MemOp) =>
      if o.inst ≠ (i.fn, i.id) then o
      else if o.who.cell = c then (o.shifted (s.ac c) (s.ac d)).moved f
      else o.moved f }

/-- SEGMENT_MOVE (R55): a segment with no firing on its lane and no engine work goes to another cell of the
partition, with what the engines of its cell hold. Tokens in flight to the old cell reach the new one in their order. -/
def execSegmentMove (fn id vcell target : Nat) (s : State) : Host.Outcome State Fault Refusal :=
  .next (match s.inst? fn id with
    | none => s
    | some i =>
      let c := i.place.getD vcell 0
      let x := i.ctx
      let p := s.parts.getD i.part {}
      let f := renamed [c] [target]
      if i.place.length ≤ vcell || i.phase == .waiting || !s.runs c || !(s.usableCells p).contains target || i.place.contains target ||
          ((s.cell c).lane.busy && (s.cell c).lane.fir.ctx == x) || !(s.cell c).engineFree x ||
          !(s.cell target).takes ((s.cell c).only [x]) x p.tenant || !s.allReach (i.place.map f) then s
      else
        let part := (((s.cell c).only [x]).moved fun _ => f).shifted (s.ac c) (s.ac target)
        let s := (s.modCell c fun d => d.without x).modCell target fun d => d.cleared.join { part with vec := {}, ports := [] }
        let s := (i.place.filter (· != c)).foldl (fun s q => s.modCell q fun d => d.moved fun y => if y = x then f else fun n => n) s
        (((s.redirect i c target).moveLogs i f).modInst fn id fun i => i.moved f))

end Sys2Proof.Machine
end

