-- ==== Sys2Proof/Machine/Manage.lean ====
section
/-! DEFINITION. The management commands of the PF (R312 to R314, R317, R319, R337, R338), freeze and thaw
(R327), save and restore (R328, R329), scrub and its record (R330 to R332), and the reset of a function (R336). -/

namespace Sys2Proof.Machine

/-! ## Beginning and completing a command (R312, R313) -/

/-- The completion of the running command (R313): a command written meanwhile makes its code 2. -/
def State.mgmtDone (s : State) (code result : Nat) : State :=
  { s with mgmt := { s.mgmt with
      busy := false
      waits := none
      ops := []
      marks := []
      removed := false
      code := if s.mgmt.clash then 2 else BitVec.ofNat 8 code
      result := BitVec.ofNat 32 result } }

/-- A command written to MGMT_CMD: discarded while another runs; else it starts (R312, R313). -/
def State.command (s : State) (n : Nat) (cmd : Word) (f : State → State) : State :=
  if bits cmd 0 8 ≠ n then s
  else if s.mgmt.busy then { s with mgmt := { s.mgmt with clash := true } }
  else
    let s := { s with mgmt := { s.mgmt with
      cmd := cmd
      busy := true
      tag := BitVec.ofNat 8 (bits cmd 8 8)
      code := 0
      result := 0
      clash := false
      given := [s.mgmt.arg0, s.mgmt.arg1, s.mgmt.arg2, s.mgmt.arg3] } }
    if bits cmd 16 48 ≠ 0 then s.mgmtDone 1 0 else f s

/-- The running command waits, for a partition or a function. -/
def State.mgmtWait (s : State) (n k : Nat) : State := { s with mgmt := { s.mgmt with waits := some (n, k) } }

/-- An argument of the running command, as it was when the command was written. -/
def State.arg (s : State) (n : Nat) : Word := s.mgmt.given.getD n 0

/-- A command on a partition: its number, then what it does in the partition's state. -/
def State.onPart (s : State) (f : Nat → Part → State) : State :=
  if 8 ≤ s.mgmt.arg0.toNat then s.mgmtDone 1 0 else f s.mgmt.arg0.toNat (s.parts.getD s.mgmt.arg0.toNat {})

/-- A command on a VF. -/
def State.onVf (s : State) (w : Word) (f : Nat → State) : State :=
  if w = 0 || 32 ≤ w.toNat then s.mgmtDone 1 0 else f w.toNat

/-- Instances of a partition. -/
def State.instsOf (s : State) (p : Nat) : List Inst := s.insts.filter fun i => i.part == p

/-! ## GRANT (R313, R330) -/

/-- Another partition holds a bay of a bitmap. -/
def State.heldElsewhere (s : State) (p : Nat) (bays : BitVec 128) : Bool :=
  s.parts.any fun e => e.1 != p && e.2.st != .free && e.2.bays &&& bays != 0

/-- A bay of a bitmap lies on a die that failed its training, or failed its scrub (R19, R330, R353). -/
def State.listedBay (s : State) (bays : BitVec 128) : Bool :=
  (baysOf bays).any fun b => s.links.listed 7 (b / 16 * 256) || s.links.bad.any fun e => e.kind == 8 && bayOf e.loc == b

/-- GRANT (R19, R313): a bay of a die that failed its training is never granted. -/
def execGrant (cmd : BitVec 64) (s : State) : Host.Outcome State Fault Refusal :=
  .next (s.command 0x01 cmd fun s => s.onPart fun n p =>
    if 2 ^ 16 ≤ s.mgmt.arg1.toNat then s.mgmtDone 1 0
    else s.onVf s.mgmt.arg2 fun vf =>
      if p.st != .free then s.mgmtDone 2 0
      else if s.heldElsewhere n p.bays || s.listedBay p.bays then s.mgmtDone 3 0
      else
        let s := s.modPart n fun p => { p with tenant := s.mgmt.arg1.setWidth 16, vf := vf }
        let s := s.modFn vf fun k => { k with parts := k.parts ||| BitVec.ofNat 8 (2 ^ n) }
        (s.startScrub n .grant 0xFFFF).mgmtWait 0x01 n)

/-! ## FREEZE, HALT, THAW (R313, R327, R333) -/

/-- A freeze begins (R327). -/
def State.beginFreeze (s : State) (n : Nat) (halt : Bool) : State :=
  s.modPart n fun p => { p with freezing := some (s.partAc p), halted := p.halted || halt }

/-- FREEZE (R313, R327). -/
def execFreeze (cmd : BitVec 64) (s : State) : Host.Outcome State Fault Refusal :=
  .next (s.command 0x03 cmd fun s => s.onPart fun n p =>
    if p.st != .granted then s.mgmtDone 2 0 else (s.beginFreeze n false).mgmtWait 0x03 n)

/-- HALT (R313, R333). -/
def execHalt (cmd : BitVec 64) (s : State) : Host.Outcome State Fault Refusal :=
  .next (s.command 0x0D cmd fun s => s.onPart fun n p =>
    if p.st != .granted then s.mgmtDone 2 0 else (s.beginFreeze n true).mgmtWait 0x0D n)

/-- A frozen partition goes on (R313): delivery, clocks and watchdogs. -/
def State.thaw (s : State) (n : Nat) : State :=
  s.modPart n fun p => { p with st := .granted, freezing := none, halted := false }

/-- THAW (R313). -/
def execThaw (cmd : BitVec 64) (s : State) : Host.Outcome State Fault Refusal :=
  .next (s.command 0x04 cmd fun s => s.onPart fun n p =>
    if p.st != .frozen then s.mgmtDone 2 0 else (s.thaw n).mgmtDone 0 0)

/-- A partition can go from freezing to FROZEN (R327). -/
def State.settled (s : State) (n : Nat) (p : Part) : Bool :=
  let cells := (baysOf p.bays).flatMap bayCells
  s.lanesDone p && !(s.ops.any fun o => cells.contains o.who.cell && o.reply.isSome) &&
    !(s.net.any fun q => (cells.contains q.src || cells.contains q.dst || q.body.issuer.any fun w => cells.contains w.cell) && s.deliverable q) &&
    !((s.instsOf n).any fun i => i.regions.any fun e => e.2.mark == .failed && !e.2.delivered)

/-! ## SAVE and TAKEBACK (R313, R328) -/

/-- The contexts of a cell that are of some instances. -/
def ctxsOn (is : List Inst) (c : Nat) : List Nat := (is.filter fun i => i.place.contains c).map (·.ctx)

/-- What SAVE keeps of a partition's instances: each cell whole, so that the order of its queues is kept. -/
def State.saveImage (s : State) (n addr : Nat) (words : List Word) : SaveImage :=
  let is := s.instsOf n
  let cs := (is.flatMap (·.place)).eraseDups
  let own := fun (o : Nat × Nat) => is.any fun i => (i.fn, i.id) == o
  { addr := addr
    words := words
    tenant := (s.parts.getD n {}).tenant
    insts := is
    cells := cs.map fun c => (c, (s.cell c).only (ctxsOn is c))
    acs := cs.map fun c => (c, s.ac c)
    ops := s.ops.filter fun o => own o.inst
    packets := s.net.filter fun p => is.any p.ofInst }

/-- The sections of a save image (R328): type, vcell and context. The matrix engine's, which is a cell's, stands with the first instance
on the cell; an instance's front-end state with its vcell 0. -/
def sectionsOf : List Inst → List Inst → List (Nat × Nat × Nat)
  | _, [] => []
  | seen, i :: is =>
    (i.place.zipIdx.flatMap fun e =>
      let own := fun (ty : Nat) => (ty, e.2, i.ctx)
      [1, 2, 3, 4, 5].map own ++ (if seen.any fun j => j.place.contains e.1 then [] else [(6, e.2, 0)]) ++ [7, 8, 9, 10, 11].map own) ++
      (12, 0, i.ctx) :: sectionsOf (seen ++ [i]) is

/-- A section's words: its header, then its body, which is free. -/
def sectionWords (image n : Nat) (e : Nat × Nat × Nat) : List Word :=
  let len := Config.saveLength image n % 2 ^ 20
  word (e.1 + e.2.1 % 2 ^ 11 * 2 ^ 8 + e.2.2 % 2 ^ 3 * 2 ^ 19 + len * 2 ^ 32) :: (List.range len).map (Config.saveWord image n)

/-- The words of the next save image (R328): header and sections, with the CRC-32 of all but the word that holds it (R154). -/
def State.saveWords (s : State) (n : Nat) : List Word :=
  let es := sectionsOf [] (s.instsOf n)
  let body := (es.zipIdx.map fun e => sectionWords s.saves.length e.2 e.1).flatten
  let p := s.parts.getD n {}
  let head := [word (0x53564731 + 2 ^ 32),
    word (es.length % 2 ^ 16 + (s.instsOf n).length % 2 ^ 8 * 2 ^ 16 + 8 * (body.length + 4) % 2 ^ 32 * 2 ^ 32),
    word (p.tenant.toNat + (baysOf p.bays).length * 2 ^ 16)]
  head ++ (imageCrc (head ++ 0 :: body)).setWidth 64 :: body

/-- Bytes written under key slot 0 (R319). DESIGN CHOICE (log 105): a command that names an address at or above the 768 GiB of HBM (R14) has
been refused with code 1 before. -/
def State.wrReserved (s : State) (a : Nat) (bs : List Byte) : State :=
  let s := s.wrBytes a bs
  match s.keys.get? 0 with
  | none => s
  | some k => { s with gkeys := (List.range ((a + bs.length + 63) / 64 - a / 64)).foldl (fun t i => t.put (a / 64 + i) k.key) s.gkeys }

/-- A save image written to the save area: none where it does not fit. -/
def State.writeSave (s : State) (n addr size : Nat) : Option State :=
  let ws := s.saveWords n
  if size < 8 * ws.length then none
  else some ({ s with saves := s.saves ++ [s.saveImage n addr ws] }.wrReserved addr (wordBytes ws))

/-- SAVE (R313, R328). -/
def execSave (cmd : BitVec 64) (s : State) : Host.Outcome State Fault Refusal :=
  .next (s.command 0x05 cmd fun s => s.onPart fun n p =>
    if p.st != .frozen then s.mgmtDone 2 0
    else if !inStacks (s.arg 1).toNat (s.arg 2).toNat then s.mgmtDone 1 0
    else match s.writeSave n s.mgmt.arg1.toNat s.mgmt.arg2.toNat with
      | none => s.mgmtDone 3 0
      | some s => s.mgmtDone 0 0)

/-- Instances that have been saved leave the module without a completion record; their logs stay (R328). -/
def State.leave (s : State) (n : Nat) : State :=
  let is := s.instsOf n
  let own := fun (o : Nat × Nat) => is.any fun i => (i.fn, i.id) == o
  { s with
    insts := s.insts.filter fun i => i.part != n
    away := s.away ++ is.map fun i => (i.fn, i.id)
    ops := s.ops.filter fun o => !own o.inst
    net := s.net.filter fun p => !is.any p.ofInst }

/-- Every instance of a partition aborted (R308). -/
def State.abortAll (s : State) (n : Nat) : State := (s.instsOf n).foldl (fun s i => s.endInst i .aborted) s

/-- 64 KiB pages that the rings of a partition's instances take: the scrub that follows their end has them zeroed (R314, R330, R331). -/
def State.ringPages (s : State) (n : Nat) : Nat := ceilDiv ((s.instsOf n).flatMap fun i => i.rings.map (·.2)).sum (2 ^ 16)

/-- TAKEBACK of a partition (R313): save or abort, then scrub. -/
def State.takeback (s : State) (n : Nat) : State :=
  let p := s.parts.getD n {}
  let out := fun (s : State) (saved : Bool) (pages : Nat) =>
    (((s.modPart n fun p => { p with queue := [] }).startScrub n (.takeback saved) p.tenant).modPart n fun p =>
      { p with pages := pages }).mgmtWait 0x02 n
  if s.arg 1 = 0 then out (s.abortAll n) false (s.ringPages n)
  else match s.writeSave n (s.arg 2).toNat (s.arg 3).toNat with
    | none => s.mgmtDone 3 0
    | some s => out (s.leave n) true 0

/-- TAKEBACK (R313): to save, it freezes a GRANTED partition first. -/
def execTakeback (cmd : BitVec 64) (s : State) : Host.Outcome State Fault Refusal :=
  .next (s.command 0x02 cmd fun s => s.onPart fun n p =>
    if 1 < s.mgmt.arg1.toNat || (s.arg 1 != 0 && !inStacks (s.arg 2).toNat (s.arg 3).toNat) then s.mgmtDone 1 0
    else if p.st == .frozen || (p.st == .granted && s.mgmt.arg1 = 0) then s.takeback n
    else if p.st == .granted then (s.beginFreeze n false).mgmtWait 0x02 n
    else s.mgmtDone 2 0)

/-- FREEZE_COMPLETE (R327, R334): the partition is FROZEN, its hung instances are killed, and the command that froze it goes on; without
one it is thawed. A TAKEBACK whose image does not fit leaves the partition as it was. -/
def execFreezeComplete (part : Nat) (s : State) : Host.Outcome State Fault Refusal :=
  .next (let p := s.parts.getD part {}
    if p.st != .granted || p.freezing.isNone || !s.settled part p then s
    else
      let s := (s.modPart part fun p => { p with st := .frozen, freezing := none }).settleHung part
      match s.mgmt.waits with
      | some (n, k) =>
        if k ≠ part then s.thaw part
        else if n = 0x02 then
          let s := s.takeback part
          if s.mgmt.busy then s else s.thaw part
        else if n = 0x03 || n = 0x0D then s.mgmtDone 0 0
        else s.thaw part
      | none => s.thaw part)

/-! ## RESTORE (R329) -/

/-- The cells of a saved instance on a partition: for each vcell in order the first cell from here on that its
part fits. A part comes with the cell on which it stood; `homes` are cells that have been given, by the old ones. -/
def State.pickParts (s : State) (x : Nat) (tenant : BitVec 16) (homes : List (Nat × Nat)) : List Nat → List (Nat × Cell) → Option (List Nat)
  | _, [] => some []
  | [], _ :: _ => none
  | c :: cs, q :: qs =>
    if (s.cell c).takes q.2 x tenant (homes.contains (q.1, c)) then
      (match s.pickParts x tenant homes cs qs with
       | some r => some (c :: r)
       | none => none)
    else s.pickParts x tenant homes cs (q :: qs)

/-- A context of a saved instance as it belongs to the partition that takes it. -/
def Ctx.owned (k : Ctx) (i : Inst) (vf n : Nat) (tenant : BitVec 16) : Ctx := { k with inst := some (vf, i.id), part := n, tenant := tenant }

/-- Saved instances placed one after another (R329): each with its cells; none where one does not fit. -/
def State.placeSaved (s : State) (n : Nat) (m : SaveImage) (homes : List (Nat × Nat)) : List Inst → Option (List (Inst × List Nat))
  | [] => some []
  | i :: is =>
    let p := s.parts.getD n {}
    let parts := i.place.map fun c => (c, (m.cells.getD c {}).only [i.ctx])
    match s.pickParts i.ctx p.tenant homes (s.usableCells p) parts with
    | none => none
    | some cs =>
      let s := (cs.zip parts).foldl (fun s e => s.modCell e.1 fun d =>
        d.cleared.join (e.2.2.modCx i.ctx fun k => k.owned i p.vf n p.tenant)) s
      (s.placeSaved n m (homes ++ i.place.zip cs) is).map fun r => (i, cs) :: r

/-- The contexts of a saved cell that stand on cell `c` now. -/
def movedTo (is : List (Inst × List Nat)) (old c : Nat) : List Nat :=
  (is.filter fun e => e.1.place.contains old && renamed e.1.place e.2 old == c).map fun e => e.1.ctx

/-- The renaming for what belongs to context `x` of a saved cell. -/
def renamedFor (is : List (Inst × List Nat)) (old x : Nat) : Nat → Nat :=
  match is.find? fun e => e.1.place.contains old && e.1.ctx == x with
  | some e => renamed e.1.place e.2
  | none => id

/-- What saved cells held written to a cell, each in the order in which it held it (R258, R292, R328). -/
def State.fillCell (s : State) (n : Nat) (m : SaveImage) (is : List (Inst × List Nat)) (c : Nat) : State :=
  let p := s.parts.getD n {}
  s.modCell c fun d => m.cells.foldl (fun d e =>
    let xs := movedTo is e.1 c
    if xs.isEmpty then d
    else
      let part := ((e.2.only xs).moved (renamedFor is e.1)).shifted (m.acs.getD e.1 0) (s.ac c)
      let part := (is.filter fun q => xs.contains q.1.ctx && q.1.place.contains e.1).foldl (fun (part : Cell) q =>
        part.modCx q.1.ctx fun k => k.owned q.1 p.vf n p.tenant) part
      d.join part) d.cleared

/-- An operation of a saved instance: what of it was translated and not performed is translated again, under the keys that are loaded
then (R329), and asked for again. -/
def MemOp.reloaded (o : MemOp) : MemOp :=
  { o with pieces := o.pieces.map fun p =>
      if p.done || p.via.isSome then p
      else { p with asked := .none, xl := match p.xl with | .at _ => .todo | x => x } }

/-- Logs, operations, packets and the instance itself of a saved instance that has its cells. -/
def State.enterSaved (s : State) (n : Nat) (m : SaveImage) (i : Inst) (cs : List Nat) : State :=
  let p := s.parts.getD n {}
  let f := renamed i.place cs
  let s := s.moveLogs i f
  let s := { s with
    hbm := s.hbm.map fun k => { k with subs := k.subs.map fun (e : Nat × SubLog) =>
      (e.1, if e.2.inst = (i.fn, i.id) then { e.2 with inst := (p.vf, i.id), fn := p.vf } else e.2) }
    ops := s.ops ++ (m.ops.filter fun o => o.inst == (i.fn, i.id)).map fun o =>
      { (o.reloaded.shifted (m.acs.getD o.who.cell 0) (s.ac (f o.who.cell))).moved f with inst := (p.vf, i.id) }
    net := s.net ++ (m.packets.filter fun q => q.ofInst i).map fun q =>
      { q.redirected.moved f with born := rebase (m.acs.getD q.src 0) (s.ac (f q.src)) q.born }
    away := s.away.filter (· != (i.fn, i.id))
    insts := s.insts ++ [{ i.moved f with fn := p.vf, part := n }] }
  if i.phase = .waiting then s.modPart n fun p => { p with queue := p.queue ++ [(p.vf, i.id)] } else s

/-- Every instance of an image placed and written back: none where one does not fit. -/
def State.restoreAll (s : State) (n : Nat) (m : SaveImage) : Option State :=
  (s.placeSaved n m [] m.insts).map fun is =>
    let s := ((is.flatMap (·.2)).eraseDups).foldl (fun s c => s.fillCell n m is c) s
    is.foldl (fun s e => s.enterSaved n m e.1 e.2) s

/-- A word read under key slot 0 (R319). -/
def State.rdReserved (s : State) (a : Nat) : Word :=
  match s.keys.get? 0 with
  | none => s.rdWord a
  | some k => word (leNat (s.rdKeyBytes k.key a 8))

/-- Words at a save area that are an image (R328): magic, version, and the CRC-32 over its total bytes. -/
def State.imageAt (s : State) (a : Nat) : Option (List Word) :=
  let h := s.rdReserved (a + 8)
  let ws := (List.range (bits h 32 32 / 8)).map fun i => s.rdReserved (a + 8 * i)
  if inStacks a (8 * ws.length) && bits (ws.getD 0 0) 0 48 = 0x53564731 + 2 ^ 32 && 4 ≤ ws.length && bits (ws.getD 3 0) 0 32 = (imageCrc ws).toNat then some ws else none

/-- What an image holds (R329): that which this module saved with these words, or what another module's words say. -/
def State.savedAs (s : State) (ws : List Word) : SaveImage :=
  (s.saves.reverse.find? fun m => m.words == ws).getD (Config.savedElsewhere ws)

/-- RESTORE (R313, R329): the tenant is the one that the image's header names. -/
def execRestore (cmd : BitVec 64) (s : State) : Host.Outcome State Fault Refusal :=
  .next (s.command 0x06 cmd fun s => s.onPart fun n p =>
    if !inStacks (s.arg 1).toNat 32 then s.mgmtDone 1 0
    else if p.st != .granted || !(s.instsOf n).isEmpty then s.mgmtDone 2 0
    else match s.imageAt (s.arg 1).toNat with
      | none => s.mgmtDone 2 0
      | some ws =>
        let m := s.savedAs ws
        if bits (ws.getD 2 0) 0 16 ≠ p.tenant.toNat || m.insts.any (fun i => decide ((s.usableCells p).length < i.place.length)) then
          s.mgmtDone 2 0
        else match s.restoreAll n m with
          | none => s.mgmtDone 3 0
          | some s => (s.modPart n fun p => { p with st := .frozen }).mgmtDone 0 0)

/-! ## Keys and translations (R313, R317, R319) -/

/-- A slot's key set to the one that the running KEYLOAD names (R313). -/
def State.setKey (s : State) (slot vf addr : Nat) : State :=
  { s with keys := s.keys.put slot { owner := vf, owned := true, key := BitVec.ofNat 512 (leNat (s.rdBytes addr 64)) } }.mgmtDone 0 0

/-- An operation has an access that has been translated and has not completed. -/
def MemOp.inFlight (o : MemOp) : Bool :=
  o.pieces.any fun p => !p.done && (match p.xl with
    | .at _ => true
    | .shadow _ => true
    | _ => false)

/-- An access uses the key of a slot now (R319). -/
def State.keyInUse (s : State) (slot : Nat) : Bool :=
  match s.keys.get? slot with
  | none => false
  | some k => s.ops.any fun o => o.checked && o.key == k.key && o.inFlight

/-- KEYLOAD (R313, R319): a key is replaced once every access that uses the old one has completed. -/
def execKeyload (cmd : BitVec 64) (s : State) : Host.Outcome State Fault Refusal :=
  .next (s.command 0x07 cmd fun s =>
    let slot := s.mgmt.arg0.toNat
    let vf := s.mgmt.arg1.toNat
    if 1024 ≤ slot || 32 ≤ vf || (slot = 0) != (vf = 0) || !inStacks s.mgmt.arg2.toNat 64 then s.mgmtDone 1 0
    else if (s.keys.get? slot).any (fun k => k.owned && k.owner != vf) then s.mgmtDone 2 0
    else if s.keyInUse slot then s.mgmtWait 0x07 slot
    else s.setKey slot vf s.mgmt.arg2.toNat)

/-- KEYCLEAR (R313, R319): the slot is cleared once every access that uses its key has completed. -/
def execKeyclear (cmd : BitVec 64) (s : State) : Host.Outcome State Fault Refusal :=
  .next (s.command 0x08 cmd fun s =>
    let slot := s.mgmt.arg0.toNat
    if 1024 ≤ slot then s.mgmtDone 1 0
    else if s.keyInUse slot then s.mgmtWait 0x08 slot
    else { s with keys := s.keys.del slot }.mgmtDone 0 0)

/-- Operations of a function with an access that has been translated and not completed (R317). -/
def State.midway (s : State) (f : Nat) : List Nat := (s.ops.filter fun o => o.inst.1 == f && o.inFlight).map (·.id)

/-- INVALIDATE (R317): it publishes the PF's host log; what follows waits until that has been applied. -/
def execInvalidate (cmd : BitVec 64) (s : State) : Host.Outcome State Fault Refusal :=
  .next (s.command 0x09 cmd fun s => s.onVf s.mgmt.arg0 fun vf =>
    if s.mgmt.arg1.toNat % 4096 ≠ 0 then s.mgmtDone 1 0
    else
      let s := s.publishHost 0
      { s with mgmt := { s.mgmt with marks := s.firstAcq 0 false } }.mgmtWait 0x09 vf)

/-- The steps of an INVALIDATE that follow (R317): once the PF's writes have been applied the cached translations go, and it completes when
the accesses that were translated before that have completed. -/
def State.settleInvalidate (s : State) (vf : Nat) : State :=
  if s.mgmt.removed then (if s.mgmt.ops.any (s.midway vf).contains then s else s.mgmtDone 0 0)
  else if s.mgmt.marks.all fun e => decide (e.2 ≤ (s.stack e.1).doneSegs) then
    let s := s.dropXlate vf (s.arg 1).toNat (4096 * (s.arg 2).toNat)
    if (s.midway vf).isEmpty then s.mgmtDone 0 0 else { s with mgmt := { s.mgmt with removed := true, ops := s.midway vf } }
  else s

/-! ## DIRTY (R337) -/

/-- DIRTY (R337): the round closes at once, or, where every partition of the VF is FROZEN, once its published
segments are applied. -/
def execDirty (cmd : BitVec 64) (s : State) : Host.Outcome State Fault Refusal :=
  .next (s.command 0x0A cmd fun s => s.onVf s.mgmt.arg0 fun vf =>
    if 48 < s.mgmt.arg2.toNat then s.mgmtDone 1 0 else s.mgmtWait 0x0A vf)

/-- Every partition of a VF is FROZEN (R337, R338). -/
def State.allFrozen (s : State) (vf : Nat) : Bool :=
  s.parts.all fun e => e.2.vf != vf || e.2.st == .free || e.2.st == .frozen

/-- Published segments of a VF that have not been applied. -/
def State.unapplied (s : State) (vf : Nat) : Bool := s.hbm.toList.any fun k => k.segs.any fun g => (k.sub g.key).fn == vf

/-- The round of a DIRTY closed (R337). -/
def State.closeRound (s : State) (vf : Nat) : State :=
  let k := s.fn vf
  let s := s.modFn vf fun k => { k with
    dirtyBase := (s.arg 1).toNat
    dirtySize := if s.arg 2 = 0 then 0 else 2 ^ (s.arg 2).toNat
    dirtyN := 0
    dirtyOvf := false }
  s.mgmtDone 0 (k.dirtyN % 2 ^ 31 + flagN k.dirtyOvf (2 ^ 31))

/-- A command that waits for accesses or segments goes on once they are done (R317, R319, R337). -/
def State.settleMgmt (s : State) : State :=
  match s.mgmt.waits with
  | some (0x07, slot) => if s.keyInUse slot then s else s.setKey slot (s.arg 1).toNat (s.arg 2).toNat
  | some (0x08, slot) => if s.keyInUse slot then s else { s with keys := s.keys.del slot }.mgmtDone 0 0
  | some (0x09, vf) => s.settleInvalidate vf
  | some (0x0A, vf) => if s.allFrozen vf && s.unapplied vf then s else s.closeRound vf
  | _ => s

/-! ## EXPORTQ and IMPORTQ (R338) -/

/-- An indirect buffer's two words. -/
def ibWords (b : Option IbLevel) : List Word :=
  match b with
  | some b => [word b.addr, word (b.len % 2 ^ 32 + b.pos % 2 ^ 32 * 2 ^ 32)]
  | none => [0, 0]

/-- Launch ids, two to a word. -/
def idWords (ids : List Nat) : List Word :=
  (List.range 32).map fun i => word (ids.getD (2 * i) 0 % 2 ^ 32 + ids.getD (2 * i + 1) 0 % 2 ^ 32 * 2 ^ 32)

/-- The record of a queue (R338): 64 words. An IBCALL whose buffer is being parsed counts among the packets of its LOOP's pass. -/
def Queue.exported (q : Queue) (n : Nat) : List Word :=
  let out := q.ibs.reverse
  let loop := match q.loop with
    | some (d, body, left, first, done) =>
      let done := if d < q.ibs.length then done + 1 else done
      [word (1 + d * 2 + body % 2 ^ 8 * 2 ^ 3 + left % 2 ^ 16 * 2 ^ 11 + first % 2 ^ 32 * 2 ^ 32), word (done % 2 ^ 8)]
    | none => [0, 0]
  let skip := match q.skip with
    | some (d, n) => word (1 + d * 2 + n % 2 ^ 8 * 2 ^ 3)
    | none => 0
  [0x00, 0x08, 0x10, 0x18, 0x20, 0x28, 0x30, 0x38, 0x40, 0x48, 0x50].map q.reg ++
    [word (n % 2 ^ 13 + q.ibs.length * 2 ^ 13 + q.cring.pos / 32 % 2 ^ 20 * 2 ^ 16 + q.ering.pos / 32 % 2 ^ 20 * 2 ^ 36 +
       flagN q.cring.phase (2 ^ 56) + flagN q.ering.phase (2 ^ 57))] ++
    ibWords out[0]? ++ ibWords out[1]? ++ loop ++ [skip, word q.live.length] ++ idWords q.live ++ List.replicate 12 0

/-- The record of a device-queue launch (R338): 8 words. -/
def Posted.exported (p : Posted) : List Word :=
  [word (p.id % 2 ^ 32 + p.parent % 2 ^ 32 * 2 ^ 32), word (p.image % 2 ^ 32 + p.vcountM1 % 2 ^ 11 * 2 ^ 32),
   word (p.part + p.prio * 2 ^ 8 + p.budget % 2 ^ 32 * 2 ^ 32)] ++ (List.range 4).map (fun i => p.args.getD i 0) ++ [0]

/-- The whole layout of a VF (R338). -/
def State.exportWords (s : State) (vf : Nat) : List Word :=
  let k := s.fn vf
  [word (0x51455831 + 2 ^ 32), word (k.qcount % 2 ^ 13 + k.devq.length * 2 ^ 13)] ++
    (List.range k.qcount).flatMap (fun q => (s.queue vf q).exported q) ++ k.devq.flatMap Posted.exported ++
    [s.fnReg vf 0x38, s.fnReg vf 0x40, s.fnReg vf 0x48, s.fnReg vf 0x58, k.launchCount.setWidth 64]

/-- EXPORTQ (R313, R338). -/
def execExportq (cmd : BitVec 64) (s : State) : Host.Outcome State Fault Refusal :=
  .next (s.command 0x0B cmd fun s => s.onVf s.mgmt.arg0 fun vf =>
    if !inStacks s.mgmt.arg1.toNat (8 * (s.exportWords vf).length) then s.mgmtDone 1 0
    else if !s.allFrozen vf then s.mgmtDone 2 0
    else (s.wrBytes s.mgmt.arg1.toNat (wordBytes (s.exportWords vf))).mgmtDone 0 0)

/-- An indirect buffer from its two words. -/
def ibOf (a b : Word) : IbLevel := { addr := a.toNat, len := bits b 0 32, pos := bits b 32 32 }

/-- A record ring from its register, position and phase. -/
def ringOf (reg : Word) (pos : Nat) (phase : Bool) : RecRing := { RecRing.restart reg with pos := 32 * pos, phase := phase }

/-- A queue from its record (R338). -/
def importQueue (w : List Word) : Queue :=
  let g := fun i => w.getD i 0
  let depth := bits (g 11) 13 2
  let ids := (List.range (Nat.min 64 (bits (g 19) 0 7))).map fun i => bits (g (20 + i / 2)) (32 * (i % 2)) 32
  { base := (g 0).toNat
    size := if 12 ≤ (g 1).toNat && (g 1).toNat ≤ 24 then (g 1).toNat else 12
    notify := (g 2).toNat
    head := (g 3).toNat
    en := bit (g 4) 0
    prio := bits (g 4) 2 2
    st := if bits (g 5) 0 2 = 1 then .active else if bits (g 5) 0 2 = 2 then .error else .disabled
    code := BitVec.ofNat 8 (bits (g 5) 8 8)
    cring := ringOf (g 6) (bits (g 11) 16 20) (bit (g 11) 56)
    ering := ringOf (g 7) (bits (g 11) 36 20) (bit (g 11) 57)
    pkts := g 8
    waits := g 9
    fetchw := g 10
    ibs := (if 2 ≤ depth then [ibOf (g 14) (g 15)] else []) ++ (if 1 ≤ depth then [ibOf (g 12) (g 13)] else [])
    loop := if bit (g 16) 0 then
        some (bits (g 16) 1 2, bits (g 16) 3 8, bits (g 16) 11 16, bits (g 16) 32 32,
          bits (g 17) 0 8 - if bits (g 16) 1 2 < depth then 1 else 0) else none
    skip := if bit (g 18) 0 then some (bits (g 18) 1 2, bits (g 18) 3 8) else none
    num := 1
    pending := ids.map fun id => { num := 0, launch := some id }
    live := ids
    stopping := bits (g 5) 0 2 = 1 && !bit (g 4) 0 }

/-- A device-queue launch from its record (R338). -/
def importPosted (w : List Word) : Posted :=
  let g := fun i => w.getD i 0
  { id := bits (g 0) 0 32
    parent := bits (g 0) 32 32
    image := bits (g 1) 0 32
    vcountM1 := bits (g 1) 32 11
    part := bits (g 2) 0 3
    prio := bits (g 2) 8 2
    budget := bits (g 2) 32 32
    args := (List.range 4).map fun i => g (3 + i) }

/-- `n` words of system memory. -/
def State.rdWords (s : State) (a n : Nat) : List Word := (List.range n).map fun i => s.rdWord (a + 8 * i)

/-- A layout loaded onto a VF (R338). -/
def State.importq (s : State) (vf a : Nat) : State :=
  let h := s.rdWord (a + 8)
  let nq := bits h 0 13
  let nd := Nat.min Config.deviceQueue (bits h 13 7)
  let qs := (List.range nq).map fun i => s.rdWords (a + 16 + 512 * i) 64
  let d := a + 16 + 512 * nq
  let t := d + 64 * bits h 13 7
  let ps := (List.range nd).map fun i => importPosted (s.rdWords (d + 64 * i) 8)
  let dev := (s.insts.filter fun i => i.fn == vf && i.dev).map (·.id)
  s.modFn vf fun k => { k with
    queues := qs.foldl (fun t w => t.put (bits (w.getD 11 0) 0 13) (importQueue w)) k.queues
    devq := ps
    postedLive := ps.map (·.id) ++ dev
    postq := bits (s.rdWord t) 0 21
    posten := bit (s.rdWord t) 24
    wdog := BitVec.ofNat 32 (bits (s.rdWord (t + 8)) 0 32)
    fring := .restart (s.rdWord (t + 16))
    faultId := 0
    diag := .restart (s.rdWord (t + 24))
    launchCount := BitVec.ofNat 32 (bits (s.rdWord (t + 32)) 0 32) }

/-- IMPORTQ (R313, R338). -/
def execImportq (cmd : BitVec 64) (s : State) : Host.Outcome State Fault Refusal :=
  .next (s.command 0x0C cmd fun s => s.onVf s.mgmt.arg0 fun vf =>
    let a := s.mgmt.arg1.toNat
    if !inStacks a (16 + 512 * bits (s.rdWord (a + 8)) 0 13 + 64 * bits (s.rdWord (a + 8)) 13 7 + 40) then s.mgmtDone 1 0
    else if (s.fn vf).queues.any fun e => e.2.en then s.mgmtDone 2 0
    else if bits (s.rdWord a) 0 48 ≠ 0x51455831 + 2 ^ 32 then s.mgmtDone 1 0
    else if (s.fn vf).qcount < bits (s.rdWord (a + 8)) 0 13 then s.mgmtDone 3 0
    else (s.importq vf a).mgmtDone 0 0)

/-! ## The pools of a VF (R314) -/

/-- Two ranges of bytes overlap. -/
def rangesMeet (a n b m : Nat) : Bool := overlap a n b m

/-- A range is mapped by a nested table, or held in a pool (R314). -/
def State.taken (s : State) (a n : Nat) : Bool :=
  s.fns.any fun e =>
    (e.1 != 0 && (s.mappedBy e.2.ntroot).any fun m => rangesMeet a n m.1 m.2) ||
      (e.2.shadow.any fun p => rangesMeet a n p.2 (pageBytes p.1)) || e.2.poolAll.any fun r => rangesMeet a n r.1 r.2

/-- No two pages of a list are one. -/
def distinctPages : List Nat → Bool
  | [] => true
  | p :: ps => !ps.contains p && distinctPages ps

/-- SHADOWADD (R313, R314). -/
def execShadowadd (cmd : BitVec 64) (s : State) : Host.Outcome State Fault Refusal :=
  .next (s.command 0x0E cmd fun s => s.onVf s.mgmt.arg0 fun vf =>
    let code := s.mgmt.arg1.toNat
    if 3 ≤ code || !inStacks s.mgmt.arg2.toNat (8 * s.mgmt.arg3.toNat) then s.mgmtDone 1 0
    else
    let pages := (s.rdWords s.mgmt.arg2.toNat s.mgmt.arg3.toNat).map (·.toNat)
    if !distinctPages pages || pages.any (fun p => p % pageBytes code != 0 || !inStacks p (pageBytes code) || s.taken p (pageBytes code)) then
      s.mgmtDone 1 0
    else
      let s := pages.foldl (fun s p => s.zeroRange p (pageBytes code)) s
      (s.modFn vf fun k => { k with shadow := k.shadow ++ pages.map fun p => (code, p) }).mgmtDone 0 0)

/-- SHADOWTAKE (R313, R314). -/
def execShadowtake (cmd : BitVec 64) (s : State) : Host.Outcome State Fault Refusal :=
  .next (s.command 0x0F cmd fun s => s.onVf s.mgmt.arg0 fun vf =>
    let code := s.mgmt.arg1.toNat
    if 3 ≤ code || !inStacks s.mgmt.arg2.toNat (8 * s.mgmt.arg3.toNat) then s.mgmtDone 1 0
    else
      let gone := ((s.fn vf).shadow.filter fun e => e.1 == code).take s.mgmt.arg3.toNat
      let s := s.modFn vf fun k => { k with shadow := k.shadow.filter fun e => !gone.contains e }
      (s.wrBytes s.mgmt.arg2.toNat (wordBytes (gone.map fun e => word e.2))).mgmtDone 0 gone.length)

/-- A range cut out of a list of free ranges. -/
def cutOut (r : Nat × Nat) (free : List (Nat × Nat)) : List (Nat × Nat) :=
  free.flatMap fun q =>
    if rangesMeet r.1 r.2 q.1 q.2 then
      [(q.1, r.1 - q.1), (r.1 + r.2, q.1 + q.2 - (r.1 + r.2))].filter fun p => p.2 != 0
    else [q]

/-- RINGPOOL (R313, R314). -/
def execRingpool (cmd : BitVec 64) (s : State) : Host.Outcome State Fault Refusal :=
  .next (s.command 0x10 cmd fun s => s.onVf s.mgmt.arg0 fun vf =>
    let base := s.mgmt.arg1.toNat
    let n := s.mgmt.arg2.toNat
    if n = 0 then
      let free := poolNorm (s.fn vf).pool
      let gone := (s.fn vf).poolAll.filter fun r => free.any fun q => decide (q.1 ≤ r.1) && decide (r.1 + r.2 ≤ q.1 + q.2)
      let s := s.modFn vf fun k => { k with
        pool := gone.foldl (fun f r => cutOut r f) free
        poolAll := k.poolAll.filter fun r => !gone.contains r }
      s.mgmtDone 0 ((gone.map (·.2)).sum / 4096)
    else if base % 4096 ≠ 0 || !inStacks base n then s.mgmtDone 1 0
    else (s.modFn vf fun k => { k with pool := poolNorm (k.pool ++ [(base, n)]), poolAll := k.poolAll ++ [(base, n)] }).mgmtDone 0 0)

/-- MGMT_BAD_COMMAND (R313). -/
def execMgmtBadCommand (cmd : BitVec 64) (s : State) : Host.Outcome State Fault Refusal :=
  .next (let n := bits cmd 0 8
    if 1 ≤ n && n ≤ 0x10 then s else s.command n cmd fun s => s.mgmtDone 1 0)

/-! ## Scrub (R330 to R332) -/

/-- The scrub attestation record of a scrub that ends (R331). -/
def State.sarWords (s : State) (n : Nat) (p : Part) (inn : BitVec 16) (nonce : Word) (bound saved : Bool) : List Word :=
  [word (0x53415231 + 2 ^ 32 + 128 * 2 ^ 48), word (n + (baysOf p.bays).length * 2 ^ 8),
   p.bays.setWidth 64, (p.bays >>> 64).setWidth 64, word (p.outTenant.toNat + inn.toNat * 2 ^ 16), s.sarSeq,
   p.scrubStart, s.now 0, word (2 ^ 19 - 1), word p.pages] ++ (List.range 4).map Config.firmwareDigest ++
    [nonce, word (flagN bound 1 + flagN saved 2 + flagN p.bayfail 4)]

/-- A sub-log of a context that has left a partition's cells for good: its instance is neither live nor away in a save image (R330). -/
def State.departed (s : State) (p : Part) (l : SubLog) : Bool :=
  (match l.owner with
   | some (c, _) => p.bays.getLsbD (bayOf c) && decide (c < Config.cells)
   | none => false) &&
    !(s.insts.any fun i => (i.fn, i.id) == l.inst) && !s.away.contains l.inst

/-- Published segments of departed contexts have still to be applied: they are never withdrawn (R91). -/
def State.departing (s : State) (p : Part) : Bool := s.hbm.toList.any fun k => k.segs.any fun g => s.departed p (k.sub g.key)

/-- The cells of a partition's bays, the Cupboards' images of the tenant that departs, the translations, the sub-logs of departed
contexts and, where `keys` says so, the keys of its VF set to their reset state (R330). -/
def State.scrubbed (s : State) (p : Part) (keys : Bool) : State :=
  let cells := (baysOf p.bays).flatMap bayCells
  { s with
    cells := s.cells.filter fun e => !cells.contains e.1
    cupboards := s.cupboards.map fun (e : Nat × List CupImage) => (e.1, e.2.filter fun m => m.tenant != p.outTenant)
    hbm := s.hbm.map fun k => { k with subs := k.subs.filter fun e => !s.departed p e.2 }
    tlb := s.tlb.filter fun t => t.fn != p.vf
    keys := if keys then s.keys.filter fun e => !(e.2.owned && e.2.owner == p.vf && e.2.owner != 0) else s.keys }

/-- A partition without tenant (R313). -/
def State.toFree (s : State) (n : Nat) (p : Part) : State :=
  (s.modFn p.vf fun k => { k with parts := k.parts &&& ~~~(BitVec.ofNat 8 (2 ^ n)) }).modPart n fun p =>
    { p with st := .free, tenant := 0xFFFF, vf := 0, halted := false, queue := [] }

/-- The FLR of a function is over once no partition of it is left to scrub (R336). -/
def State.endFlr (s : State) (f : Nat) : State :=
  if s.parts.any fun e => e.2.vf == f && e.2.st != .free then s else s.modFn f fun k => { k with resetting := false }

/-- SCRUB_DONE (R330, R331): every class is cleared, the record is written, and what the scrub was for follows. Segments that
departing contexts have published are applied first. -/
def execScrubDone (part : Nat) (s : State) : Host.Outcome State Fault Refusal :=
  .next (let p := s.parts.getD part {}
    match p.scrub with
    | none => s
    | some why =>
      if s.departing p then s
      else
      let last := !(s.parts.any fun e => e.1 != part && e.2.vf == p.vf && e.2.st != .free)
      let out := match why with | .takeback _ => true | .flr => true | _ => false
      let i := match why with | .launch f id => s.inst? f id | _ => none
      let s := (s.scrubbed p (out && last))
      let s := { s with sarSeq := s.sarSeq + 1 }
      let r : Sar := { words := s.sarWords part p (if out then 0xFFFF else p.tenant) ((i.map (·.nonce)).getD 0) i.isSome
                                  (match why with | .takeback b => b | _ => false) }
      let s := s.modPart part fun p => { p with scrub := none, sar := some r, sars := r :: p.sars }
      match why with
      | .grant => (s.modPart part fun p => { p with st := .granted }).mgmtDone 0 0
      | .takeback _ => (s.toFree part p).mgmtDone 0 0
      | .flr => (s.toFree part p).endFlr p.vf
      | .launch f id => (s.modPart part fun p => { p with st := .granted }).modInst f id fun i => { i with scrubbed := true })

/-- SAR_SIGN (R331, R332): the signature stands, then the status bit is set. -/
def execSarSign (part : Nat) (s : State) : Host.Outcome State Fault Refusal :=
  .next (let p := s.parts.getD part {}
    match p.sar with
    | none => s
    | some r => s.modPart part fun p => { p with sar := some { r with signed := true } })

/-! ## FLR (R336) -/

/-- The sub-logs and segments of a function dropped from a stack. -/
def Stack.drop (k : Stack) (f : Nat) : Stack :=
  let mine := fun (key : Nat) => (k.sub key).fn == f
  { k with
    subs := k.subs.filter fun e => e.2.fn != f
    segs := k.segs.filter fun g => !mine g.key
    doneSegs := k.doneSegs + (k.segs.filter fun g => mine g.key).length }

/-- What an FLR leaves of a function (R336): its registers at reset, and what the PF keeps for it (R312, R314). -/
def Fn.reset (k : Fn) : Fn :=
  { ntroot := k.ntroot, parts := k.parts, shadow := k.shadow, pool := k.pool, poolAll := k.poolAll, die4 := k.die4, resetting := k.resetting }

/-- Instances of a function end with no completion record (R336). -/
def State.dropInsts (s : State) (f : Nat) : State :=
  let s := (s.insts.filter fun i => i.fn == f).foldl (fun s i => s.releaseInst i) s
  { s with insts := s.insts.filter fun i => i.fn != f }

/-- A partition of a function whose FLR takes effect is scrubbed to become FREE; `pages` 64 KiB pages are zeroed with it. -/
def State.flrPart (s : State) (n pages : Nat) : State :=
  let p := s.parts.getD n {}
  let s := if s.mgmt.busy && (match s.mgmt.waits with
      | some (c, k) => k == n && (c == 0x01 || c == 0x02 || c == 0x03 || c == 0x0D)
      | none => false) then s.mgmtDone 2 0 else s
  ((s.modPart n fun p => { p with queue := [] }).startScrub n .flr p.tenant).modPart n fun p => { p with pages := pages }

/-- The partitions of an FLR: the pages of the function's device memory count with the first. -/
def State.flrParts (s : State) : List Nat → Nat → State
  | [], _ => s
  | n :: ns, pages => (s.flrPart n pages).flrParts ns 0

/-- Steps 3 to 6 of an FLR (R336). -/
def State.finishFlr (s : State) (f : Nat) : State :=
  let s := s.dropInsts f
  let s := { s with hbm := s.hbm.map fun (k : Stack) => k.drop f }
  let s := (s.leaving.filter fun m => m.fn == f).foldl (fun s m => s.reservePage m.fn m.size m.page) s
  let s := { s with leaving := s.leaving.filter fun m => m.fn != f }
  let mem := s.mappedBy (s.fn f).ntroot
  let s := mem.foldl (fun s m => s.zeroRange m.1 m.2) s
  let s := { s with
    keys := s.keys.filter fun e => !(e.2.owned && e.2.owner == f)
    tlb := s.tlb.filter fun t => t.fn != f
    cells := s.cells.map fun (e : Nat × Cell) => (e.1, { e.2 with tlb := e.2.tlb.filter fun t => t.fn != f }) }
  let s := { s with away := s.away.filter fun i => i.1 != f }.modFn f Fn.reset
  let ns := (s.parts.filter fun e => e.2.vf == f && e.2.st != .free).map (·.1)
  (s.flrParts ns (ceilDiv (mem.map (·.2)).sum (2 ^ 16))).endFlr f

/-- A queue of a function can parse a packet that a notify has covered (R336): it is ACTIVE, and neither waits nor has a parked access,
nor is it at the end of what was notified. -/
def Queue.going (q : Queue) : Bool := !q.still && q.wait == .none && decide (0 < q.avail)

/-- FLRs whose functions' accepted writes have been processed, with the packets that their notifies cover (R336), go on: every queue
stops at its packet boundary. -/
def State.settleFlrs (s : State) : State :=
  (s.fns.filter fun e => e.2.flrWaits && !(e.2.queues.any fun q => q.2.going)).foldl (fun s e => s.finishFlr e.1) s

/-- FLR (R336): from here on the function's transactions are dropped. -/
def execFlr (fn : Nat) (s : State) : Host.Outcome State Fault Refusal :=
  .next (if fn = 0 || 32 ≤ fn || (s.fn fn).resetting then s
    else (s.modFn fn fun k => { k with resetting := true, flrWaits := true }).settleFlrs)

end Sys2Proof.Machine
end

