-- ==== Sys2Proof/Machine/Links.lean ====
section
/-! DEFINITION. Power and throttling (R18, R19, R331, R365), resends on a hop (R341), the die ring when it fails (R347 to
R349), Septord ports (R350, R351), commit delay and strikes (R356, R357), global time (R360) and checkpoint cuts
(R362). -/

namespace Sys2Proof.Machine

/-! ## Power (R18, R19, R353, R365) -/

/-- The link of a ring direction of a die (R347): clockwise, or counter-clockwise for direction 1. -/
def ringLinkOf (die dir : Nat) : Nat := if dir = 0 then die % 8 else (die + 7) % 8

/-- Where the links stand after training (R19): as the bad-cell register, which survives, tells. `gone` are the dies that fail
training now: without die 0 no host interface is enabled, without die 4 one. -/
def trainLinks (bad : List BadEntry) (gone : List Nat) : Links :=
  let ring := fun (l : Nat) =>
    if bad.any fun e => e.kind == 4 && ringLinkOf (e.loc / 256) e.dir == l then RingLink.lost
    else if bad.any fun e => e.kind == 3 && ringLinkOf (e.loc / 256) e.dir == l then .half
    else .full
  let port := fun (p : Nat) =>
    if bad.any fun e => e.kind == 6 && e.loc % 16 == p then SeptordPort.lost
    else if bad.any fun e => e.kind == 5 && e.loc % 16 == p then .half
    else .up
  { ring := Vector.ofFn fun l => ring l.val
    septord := Vector.ofFn fun p => port p.val
    lanes := (List.range 8).filterMap fun l =>
      match bad.filterMap fun e => if e.kind == 3 && ringLinkOf (e.loc / 256) e.dir == l then some (e.lane * 16) else none with
      | [] => none
      | ls => some (l, ls)
    bad := bad
    cut := (bad.filter fun e => e.kind == 7).map fun e => e.loc / 256
    hosts := (!gone.contains 0, !gone.contains 0 && !gone.contains 4) }

/-- The module without supply: what is left is the Puppeteer's non-volatile store (R331, R353), and the model's
own counters and agenda. -/
def State.unpowered (s : State) : State :=
  { State.reset with
    power := false
    agenda := s.agenda
    serial := s.serial
    free := s.free
    pcie := s.pcie
    septord := s.septord
    sarSeq := s.sarSeq
    untrained := s.untrained
    links := { bad := s.links.bad } }

/-- Dies that fail training entered in the bad-cell register (R19). -/
def State.enterUntrained (s : State) : State :=
  s.untrained.foldl (fun s d => if s.links.listed 7 (d * 256) then s else s.addBad 7 (d * 256) 0 0) s

/-- POWER_UP (R19). -/
def execPowerUp (s : State) : Host.Outcome State Fault Refusal :=
  .next (if s.power then s
    else
      let t := s.unpowered.enterUntrained
      { t with power := true, links := trainLinks t.links.bad s.untrained, untrained := [] })

/-- POWER_LOSS (R331). -/
def execPowerLoss (s : State) : Host.Outcome State Fault Refusal := .next s.unpowered

/-- THERMAL_CUTOFF (R365). -/
def execThermalCutoff (s : State) : Host.Outcome State Fault Refusal := .next s.unpowered

/-- THROTTLE (R18): from none to 7 in every 8 cycles. -/
def execThrottle (die eighths : Nat) (s : State) : Host.Outcome State Fault Refusal :=
  .next (if h : die < 8 ∧ eighths < 8 then
    { s with clock := { s.clock with throttle := s.clock.throttle.set die eighths h.1 } }
  else s)

/-! ## The die ring (R347 to R349) -/

/-- A ring link set. -/
def State.setRing (s : State) (l : Nat) (v : RingLink) : State :=
  if h : l < 8 then { s with links := { s.links with ring := s.links.ring.set l v h } } else s

/-- A ring link's state. -/
def State.ringAt (s : State) (l : Nat) : RingLink := s.links.ringAt l

/-- An operation has something outstanding at a stack of a die, or at a Septord port there (R349). -/
def MemOp.needsDie (o : MemOp) (die : Nat) : Bool :=
  (o.targets.any fun st => stackDie st == die) || o.pieces.any fun p => !p.back && p.via.any fun v => v / 2 == die

/-- A die that has lost both its links is cut off (R349). -/
def State.cutDie (s : State) (die : Nat) : State :=
  if s.links.cut.contains die || s.ringAt die != .lost || s.ringAt (die + 7) != .lost then s
  else
    let s := { s with links := { s.links with cut := s.links.cut ++ [die] } }
    let s := ((s.addBad 7 (die * 256) 0 0).addBad 9 (2 * die) 0 0).addBad 9 (2 * die + 1) 0 0
    let hit := s.insts.filter fun i => (i.place.any fun c => dieOf c == die) ||
      s.ops.any fun o => o.inst == (i.fn, i.id) && o.needsDie die
    hit.foldl (fun s i => s.linkLost i.fn i.id (i.place.headD 0) []) s

/-- Hops up to the ring, and hops from it on. -/
def splitRing (hs : List Hop) : List Hop × List Hop := hs.span fun h => match h with | .ring _ _ => false | _ => true

/-- A packet whose path crosses a lost link goes the other way around the ring, from where it stands (R349): none where that way is
lost too. -/
def Links.turn (k : Links) (p : Packet) : Option Packet :=
  match p.hops with
  | none => some p
  | some hs =>
    if !hs.any (fun h => match h with | .ring d cw => k.ringAt (ringLink d cw) == .lost | _ => false) then some p
    else match splitRing hs with
      | (pre, .ring d cw :: _) =>
        let b := onMesh p.dst
        if ringWay k (some (!cw)) d (dieOf b) == some (!cw) then
          let in' := cellAt (dieOf b) (6 + rowOf b % 4) (if cw then 15 else 0)
          let new := pre ++ ringHops d (dieOf b) (!cw) ++ [.onto in'] ++ legHops p.yx in' b
          some { p with route := new, hops := some new, across := 0, onward := .a, chan := .a }
        else none
      | _ => some p

/-- A ring link is lost (R349): what was on its way over it goes the other way around; a die may be cut off. -/
def State.loseRing (s : State) (l : Nat) : State :=
  if s.ringAt l == .lost then s
  else
    let s := ((s.setRing l .lost).addBad 4 (l * 256) 0 0).errRec 0x0A 8 0 0 (word l) 0
    let s := (s.cutDie l).cutDie ((l + 1) % 8)
    let gone := s.net.filter fun p => (s.links.turn p).isNone
    let s := s.losePackets gone
    { s with net := s.net.map fun p => (s.links.turn p).getD p }

/-- RING_LINK_LOST (R349). -/
def execRingLinkLost (die : Nat) (s : State) : Host.Outcome State Fault Refusal := .next (if die < 8 then s.loseRing die else s)

/-- RING_LANE_LOST (R348): the link retrains on the half that has no failed lane; with none it is lost. -/
def execRingLaneLost (die dir lane : Nat) (s : State) : Host.Outcome State Fault Refusal :=
  .next (if 8 ≤ die || 2 ≤ dir || 512 ≤ lane then s
    else
      let l := ringLinkOf die dir
      let gone := lane :: s.links.lanes.getD l []
      let s := { s with links := { s.links with lanes := s.links.lanes.put l gone } }
      let s := (s.addBad 3 (die * 256) dir (lane / 16)).errRec 0x09 8 0 0 (word (l + lane * 2 ^ 8)) 0
      if (gone.any fun n => decide (n < 256)) && gone.any fun n => decide (256 ≤ n) then s.loseRing l
      else if s.ringAt l == .full then s.setRing l .retraining
      else s)

/-- RING_RETRAIN_DONE (R347, R348). -/
def execRingRetrainDone (die : Nat) (s : State) : Host.Outcome State Fault Refusal :=
  .next (if s.ringAt die == .retraining && die < 8 then s.setRing die .half else s)

/-! ## HOP_RETRY (R341) -/

/-- A flit fails for the third time in a row on a hop (R341): the hop fails, or its ring link is lost. -/
def State.exhaust (s : State) (cell port : Nat) : State :=
  match port with
  | 5 => s.loseRing (ringLink (dieOf cell) true)
  | 6 => s.loseRing (ringLink (dieOf cell) false)
  | 7 => match attachPort cell with | some p => s.failHop cell p | none => s
  | p => if isLink cell p then s.failHop cell p else s

/-- Packet `n` becomes one whose bad flit is asked for again: the attempts on that flit that have failed in a row are kept. -/
def Packet.retried (p : Packet) (flit fails : Nat) : Packet := { p with hurt := none, tried := (flit, fails) }

/-- HOP_RETRY (R341): the flit that has come in wrong at the receiver of a hop is sent again, with everything after it, in order, and the
resend counts; the third attempt in a row that fails is the last. Ports 0 to 3 are a router's links, 5 and 6 the ring outputs of the
cell's die, 7 the attachment's into the router. -/
def execHopRetry (cell port : Nat) (s : State) : Host.Outcome State Fault Refusal :=
  .next (let at' := (if port = 5 || port = 6 then dieOf cell * 256 else cell, port)
    match s.net.zipIdx.find? fun e => e.1.hurt.isSome && (s.nextHop e.1).any fun h => h.place == at' with
    | none => s
    | some (p, n) =>
      let f := p.hurt.getD 0
      let k := if p.tried.1 = f then p.tried.2 + 1 else 1
      let set := fun (k : Nat) => { s with net := listMod s.net n fun p => p.retried f k }
      if Config.cells ≤ cell then s else if k < 3 then (set k).countCell cell 0x1B else (set 0).exhaust at'.1 port)

/-! ## Septord (R350, R351) -/

/-- A Septord port set. -/
def State.setPort (s : State) (p : Nat) (v : SeptordPort) : State :=
  if h : p < 16 then { s with links := { s.links with septord := s.links.septord.set p v h } } else s

/-- SEPTORD_RESEND (R350): a packet of the window that has failed its check, and all after it, are sent again; which one is free. What is
acknowledged does not change. -/
def execSeptordResend (port : Nat) (s : State) : Host.Outcome State Fault Refusal :=
  .next (let w := (s.layer port).window
    if port < 16 && s.portAt port != .lost then
      { s with
        links := { s.links with resends := s.links.resends.put port (s.links.resends.getD port 0 + 1) }
        septord := s.septord ++ (w.drop (Config.septordFails s.free % Nat.max 1 w.length)).map (SepOut.packet port)
        free := s.free + 1 }
    else s)

/-- A port has had nothing acknowledged for the limit (R350). -/
def State.portDead (s : State) (port : Nat) : Bool :=
  let l := s.layer port
  !l.window.isEmpty && decide (l.since + Config.septordLimit ≤ s.clock.nc)

/-- SEPTORD_PORT_LOST (R350, R351): the packets of its window are sent first, in order, on the ports to which their flows go now. -/
def execSeptordPortLost (port : Nat) (s : State) : Host.Outcome State Fault Refusal :=
  .next (if 16 ≤ port || s.portAt port == .lost || !s.portDead port then s
    else
      let w := (s.layer port).window
      let s := (((s.setPort port .lost).setLayer port {}).addBad 6 port 0 0).errRec 0x0A 8 0 0 (word port) 0
      let s := w.foldl (fun s q => s.modPiece q.op q.piece fun p => { p with via := none }) s
      (w.foldl (fun s q => s.sendPeer q.op q.piece) s).losePeers)

/-- SEPTORD_LANE_LOST (R350). -/
def execSeptordLaneLost (port lane : Nat) (s : State) : Host.Outcome State Fault Refusal :=
  .next (if 16 ≤ port || 8 ≤ lane || s.portAt port == .lost then s
    else ((s.setPort port .half).addBad 5 port 0 lane).errRec 0x09 8 0 0 (word (port + lane * 2 ^ 8)) 0)

/-! ## Commit delay and strikes (R356, R357) -/

/-- What was produced at an ac has stood in the commit buffer of a cell for D. -/
def State.commits (s : State) (c born : Nat) : Bool := decide (born + Config.commitDelay ≤ s.ac c)

/-- Inputs that a rollback of a cell can still want (R356): those of its running firing and of what began less than D ago. -/
def State.keepInputs (s : State) (c : Nat) : List Retained :=
  (s.cell c).retained.filter fun r => !s.commits c r.born || ((s.cell c).lane.busy && (s.cell c).lane.fir.base == r.base)

/-- The cell whose commit buffer, or that of the attachment at its off-die port, holds what an agent sends (R356): none for the front end. -/
def Packet.madeAt (p : Packet) : Option Nat := if p.src = Config.frontEnd then none else some (onMesh p.src)

/-- RESULT_COMMIT (R356): what a cell, or the attachment at its off-die port, has held for D ac leaves it: packets may be sent. -/
def execResultCommit (cell : Nat) (s : State) : Host.Outcome State Fault Refusal :=
  .next (let s := { s with
      net := s.net.map fun (p : Packet) => if p.madeAt = some cell && s.commits cell p.born then { p with committed := true } else p }
    if (s.cell cell).retained.isEmpty then s else s.modCell cell fun d => { d with retained := s.keepInputs cell })

/-- The cells of a strike zone (R356): a block of 2 × 2. -/
def zoneCells (die zone : Nat) : List Nat :=
  (List.range 4).map fun i => cellAt die (zone / 8 * 2 + i / 2) (zone % 8 * 2 + i % 2)

/-- An uncorrectable error in what a firing of a region, or its frame, depends on: the region fails; else the
context is killed with POISON (R324, R325, R355). -/
def State.poisonFiring (s : State) (c x r base : Nat) : State :=
  match s.instAt c x with
  | none => s
  | some i =>
    let q : Raise := { cell := c, ctx := x, cls := 4, code := .poison, ia := 0x3FFF, frame := base, d1 := 0, d2 := 0,
                       tag := word (r * 2 ^ 24), faulty := false }
    if r ≠ 0 && ((s.cx c x).regions.get? r).isSome then s.take q
    else s.kill i .killed (q.words s) (s.now c)

/-- The recomputation of a cell from its retained inputs (R357): one that is uncorrectable fails it (R325). -/
def State.recompute (s : State) (c : Nat) : State :=
  let bad := (s.keepInputs c).filter (·.bad)
  let s := if bad.isEmpty then s else s.modCell c fun d => { d with retained := d.retained.filter fun r => !r.bad }
  bad.foldl (fun s r => s.poisonFiring c r.ctx r.region r.base) s

/-- STRIKE_ROLLBACK (R357): what the cells and attachments of the zone have not committed is discarded and made again from the retained inputs, with the
same values in the same order, so that only the time of its commit changes. -/
def execStrikeRollback (die zone : Nat) (s : State) : Host.Outcome State Fault Refusal :=
  .next (if 8 ≤ die || 64 ≤ zone then s
    else
      let cs := zoneCells die zone
      let s := cs.foldl (fun s c => s.countCell c 0x18) s
      let s := { s with
        net := s.net.map fun (p : Packet) => if p.madeAt.any cs.contains && !p.committed then { p with born := s.ac (onMesh p.src) } else p }
      let s := s.errRec 0x08 8 (cs.headD 0) 0 (word zone) 0
      cs.foldl State.recompute s)

/-! ## Global time (R360) -/

/-- TIME_LOCK (R360): the first lock steps the time forward, once; later ones set what slewing corrects. -/
def execTimeLock (ref : BitVec 64) (s : State) : Host.Outcome State Fault Refusal :=
  .next (let off : Int := (ref.toNat : Int) - ((s.now 0).toNat : Int)
    let k := { s.clock with gtoff := BitVec.ofInt 32 off }
    if k.stepped then { s with clock := { k with gtst := .locked, slew := off } }
    else if s.now 0 < ref then { s with clock := { k with gtst := .locked, stepped := true, slew := 0, gt := Vector.replicate 8 ref } }
    else { s with clock := { k with gtst := .locking } })

/-- TIME_LOCK_LOST (R360). -/
def execTimeLockLost (s : State) : Host.Outcome State Fault Refusal :=
  .next { s with clock := { s.clock with slew := 0, gtst := if s.clock.stepped then .holdover else .free } }

/-- A module linked over Septord gives its time (R360): a module without a locked reference follows it, as it would a reference, in one
forward step at first and by slewing from then on; its lock state stays what it is (log 92). -/
def State.followLinked (s : State) (t : Word) : State :=
  if s.clock.gtst == .locked || !(List.range 16).any (fun p => s.portAt p != .lost) then s
  else if s.clock.stepped then { s with clock := { s.clock with slew := (t.toNat : Int) - ((s.now 0).toNat : Int) } }
  else if s.now 0 < t then { s with clock := { s.clock with stepped := true, slew := 0, gt := Vector.replicate 8 t } }
  else s

/-! ## Checkpoints (R362) -/

/-- The applied release sequence of every sub-log of every stack (R362). -/
def State.cutRecord (s : State) : List (Nat × Nat × BitVec 32) :=
  s.hbm.toList.zipIdx.flatMap fun (k : Stack × Nat) => k.1.subs.map fun (e : Nat × SubLog) => (k.2, e.1, e.2.applied)

/-- The 64 KiB pages of the functions of the partitions in a mask, by number. -/
def State.ckptPages (s : State) (mask : Nat) : List Nat :=
  let fs := ((s.parts.filter fun e => decide (mask / 2 ^ e.1 % 2 = 1) && e.2.st != .free).map fun e => e.2.vf).eraseDups
  ((fs.flatMap fun f => s.mappedBy (s.fn f).ntroot).flatMap fun m =>
    (List.range ((m.2 + 65535) / 65536)).map fun i => m.1 / 65536 + i).eraseDups

/-- CKPT_START (R362): the cut is taken between two steps of the stacks; the pages as they stand then are to be streamed. -/
def execCkptStart (val : BitVec 64) (s : State) : Host.Outcome State Fault Refusal :=
  .next (if !bit val 0 || s.ckpt.st = 1 then s
    else { s with ckpt :=
      { todo := s.ckptPages (bits val 48 8), ctl := val &&& 0x00FFFFFFFFFF0001, st := 1, pages := 0, cut := s.now 0, rseqs := s.cutRecord } })

/-- The next page of a checkpoint is streamed in its turn (R362). -/
def State.ckptPage (s : State) : State :=
  match s.ckpt.todo with
  | p :: _ => if s.ckptUp then s.streamed [p] else s
  | [] => s

/-- CKPT_END (R362): done, once every page and then the cut record has been streamed, or failed where no port remains; then held writes go on. -/
def execCkptEnd (ok : Bool) (s : State) : Host.Outcome State Fault Refusal :=
  .next (if s.ckpt.st ≠ 1 then s
    else if ok && s.ckptUp then
      (if s.ckpt.todo.isEmpty then
        { s with ckpt := { s.ckpt with st := 2, ctl := s.ckpt.ctl &&& ~~~1 }, septord := s.septord ++ [.cut (s.ckptPort 0) s.ckpt.rseqs] }
      else s)
    else if s.ckptUp then s
    else { s with ckpt := { s.ckpt with st := 3, todo := [], ctl := s.ckpt.ctl &&& ~~~1 } })

end Sys2Proof.Machine
end

