-- ==== Sys2Proof/Machine/Dispatch.lean ====
section
/-! DEFINITION. The meaning of every instruction: one arm per constructor, each a direct call. -/

namespace Sys2Proof.Machine

/-- The meaning of a step of the table in a state. -/
def exec (i : Instr) (s : State) : Host.Outcome State Fault Refusal :=
  match i with
  | .nop g => Sys2Proof.Machine.execNop g s
  | .add d a b g s1 u w => Sys2Proof.Machine.execAdd d a b g s1 u w s
  | .sub d a b g s1 u w => Sys2Proof.Machine.execSub d a b g s1 u w s
  | .mul d a b g s1 u w => Sys2Proof.Machine.execMul d a b g s1 u w s
  | .mulh d a b g u => Sys2Proof.Machine.execMulh d a b g u s
  | .div d a b g u w => Sys2Proof.Machine.execDiv d a b g u w s
  | .rem d a b g u w => Sys2Proof.Machine.execRem d a b g u w s
  | .and d a b g w => Sys2Proof.Machine.execAnd d a b g w s
  | .or d a b g w => Sys2Proof.Machine.execOr d a b g w s
  | .xor d a b g w => Sys2Proof.Machine.execXor d a b g w s
  | .andn d a b g w => Sys2Proof.Machine.execAndn d a b g w s
  | .shl d a b g w => Sys2Proof.Machine.execShl d a b g w s
  | .shr d a b g w => Sys2Proof.Machine.execShr d a b g w s
  | .sra d a b g w => Sys2Proof.Machine.execSra d a b g w s
  | .rol d a b g w => Sys2Proof.Machine.execRol d a b g w s
  | .min d a b g u w => Sys2Proof.Machine.execMin d a b g u w s
  | .max d a b g u w => Sys2Proof.Machine.execMax d a b g u w s
  | .clz d a g => Sys2Proof.Machine.execClz d a g s
  | .popc d a g => Sys2Proof.Machine.execPopc d a g s
  | .extr d a b g => Sys2Proof.Machine.execExtr d a b g s
  | .ins d a b g => Sys2Proof.Machine.execIns d a b g s
  | .sel d a b g c => Sys2Proof.Machine.execSel d a b g c s
  | .cmp d a b g c => Sys2Proof.Machine.execCmp d a b g c s
  | .plog d a b g l => Sys2Proof.Machine.execPlog d a b g l s
  | .addi d a i1 => Sys2Proof.Machine.execAddi d a i1 s
  | .andi d a i1 => Sys2Proof.Machine.execAndi d a i1 s
  | .ori d a i1 => Sys2Proof.Machine.execOri d a i1 s
  | .xori d a i1 => Sys2Proof.Machine.execXori d a i1 s
  | .shfi d a k n => Sys2Proof.Machine.execShfi d a k n s
  | .cmpi d a c i1 => Sys2Proof.Machine.execCmpi d a c i1 s
  | .movi d i1 => Sys2Proof.Machine.execMovi d i1 s
  | .movk d h i1 => Sys2Proof.Machine.execMovk d h i1 s
  | .fadd d a b g r s1 => Sys2Proof.Machine.execFadd d a b g r s1 s
  | .fsub d a b g r s1 => Sys2Proof.Machine.execFsub d a b g r s1 s
  | .fmul d a b g r s1 => Sys2Proof.Machine.execFmul d a b g r s1 s
  | .fma d a b g r s1 => Sys2Proof.Machine.execFma d a b g r s1 s
  | .fdiv d a b g r s1 => Sys2Proof.Machine.execFdiv d a b g r s1 s
  | .fsqrt d a g r s1 => Sys2Proof.Machine.execFsqrt d a g r s1 s
  | .fmin d a b g r s1 => Sys2Proof.Machine.execFmin d a b g r s1 s
  | .fmax d a b g r s1 => Sys2Proof.Machine.execFmax d a b g r s1 s
  | .fcmp d a b g c s1 => Sys2Proof.Machine.execFcmp d a b g c s1 s
  | .fcvt d a g r v => Sys2Proof.Machine.execFcvt d a g r v s
  | .fclass d a g s1 => Sys2Proof.Machine.execFclass d a g s1 s
  | .fld d i1 s1 t p => Sys2Proof.Machine.execFld d i1 s1 t p s
  | .fst x i1 s1 p => Sys2Proof.Machine.execFst x i1 s1 p s
  | .fclr i1 s1 p => Sys2Proof.Machine.execFclr i1 s1 p s
  | .ftst d i1 s1 p => Sys2Proof.Machine.execFtst d i1 s1 p s
  | .send v c k e l g => Sys2Proof.Machine.execSend v c k e l g s
  | .sendd a b c e l g => Sys2Proof.Machine.execSendd a b c e l g s
  | .mkc d c k f g => Sys2Proof.Machine.execMkc d c k f g s
  | .swch v i1 k e l g => Sys2Proof.Machine.execSwch v i1 k e l g s
  | .falloc a c r l g => Sys2Proof.Machine.execFalloc a c r l g s
  | .ffree a g => Sys2Proof.Machine.execFfree a g s
  | .join d i1 s1 p => Sys2Proof.Machine.execJoin d i1 s1 p s
  | .brf g o => Sys2Proof.Machine.execBrf g o s
  | .fend g => Sys2Proof.Machine.execFend g s
  | .tnew d a g f => Sys2Proof.Machine.execTnew d a g f s
  | .tseal a g => Sys2Proof.Machine.execTseal a g s
  | .tdup a b g => Sys2Proof.Machine.execTdup a b g s
  | .tdrop a g => Sys2Proof.Machine.execTdrop a g s
  | .tinfo d a g s1 => Sys2Proof.Machine.execTinfo d a g s1 s
  | .hld x i1 s1 p => Sys2Proof.Machine.execHld x i1 s1 p s
  | .hst a b c n r v g => Sys2Proof.Machine.execHst a b c n r v g s
  | .tchk d a g => Sys2Proof.Machine.execTchk d a g s
  | .ldg x i1 s1 p => Sys2Proof.Machine.execLdg x i1 s1 p s
  | .stg a b c g => Sys2Proof.Machine.execStg a b c g s
  | .ldch x i1 s1 p => Sys2Proof.Machine.execLdch x i1 s1 p s
  | .amo x i1 s1 p => Sys2Proof.Machine.execAmo x i1 s1 p s
  | .rel c s1 g => Sys2Proof.Machine.execRel c s1 g s
  | .acq a c g => Sys2Proof.Machine.execAcq a c g s
  | .acqa c s1 g => Sys2Proof.Machine.execAcqa c s1 g s
  | .bars a b c r g => Sys2Proof.Machine.execBars a b c r g s
  | .bara a b c g => Sys2Proof.Machine.execBara a b c g s
  | .watch a c g => Sys2Proof.Machine.execWatch a c g s
  | .wdrop a g => Sys2Proof.Machine.execWdrop a g s
  | .time d g => Sys2Proof.Machine.execTime d g s
  | .cropen d a g => Sys2Proof.Machine.execCropen d a g s
  | .crclose a c g => Sys2Proof.Machine.execCrclose a c g s
  | .trap i1 => Sys2Proof.Machine.execTrap i1 s
  | .mfc d g n => Sys2Proof.Machine.execMfc d g n s
  | .mtc a g n => Sys2Proof.Machine.execMtc a g n s
  | .scrubrd d g w => Sys2Proof.Machine.execScrubrd d g w s
  | .qpost a c g => Sys2Proof.Machine.execQpost a c g s
  | .perf d g n => Sys2Proof.Machine.execPerf d g n s
  | .tload a c g => Sys2Proof.Machine.execTload a c g s
  | .tstore a c k g => Sys2Proof.Machine.execTstore a c k g s
  | .tcopy a c k g => Sys2Proof.Machine.execTcopy a c k g s
  | .tgath a c k g => Sys2Proof.Machine.execTgath a c k g s
  | .tscat a c k g => Sys2Proof.Machine.execTscat a c k g s
  | .tfill a c g => Sys2Proof.Machine.execTfill a c g s
  | .mwld a c h k g => Sys2Proof.Machine.execMwld a c h k g s
  | .macc a c h k g => Sys2Proof.Machine.execMacc a c h k g s
  | .mrun a c h k g => Sys2Proof.Machine.execMrun a c h k g s
  | .mdrain a c h g => Sys2Proof.Machine.execMdrain a c h g s
  | .rset a c g => Sys2Proof.Machine.execRset a c g s
  | .rfeed a c k g => Sys2Proof.Machine.execRfeed a c k g s
  | .vrun a b c g => Sys2Proof.Machine.execVrun a b c g s
  | .vloop l c n => Sys2Proof.Machine.execVloop l c n s
  | .vld d n => Sys2Proof.Machine.execVld d n s
  | .vst n a k => Sys2Proof.Machine.execVst n a k s
  | .vmov d a k w => Sys2Proof.Machine.execVmov d a k w s
  | .vmovs d n k p => Sys2Proof.Machine.execVmovs d n k p s
  | .viota d k w => Sys2Proof.Machine.execViota d k w s
  | .vsel d a b k w => Sys2Proof.Machine.execVsel d a b k w s
  | .vadd d a b k t s1 u => Sys2Proof.Machine.execVadd d a b k t s1 u s
  | .vsub d a b k t s1 u => Sys2Proof.Machine.execVsub d a b k t s1 u s
  | .vmul d a b k t s1 u => Sys2Proof.Machine.execVmul d a b k t s1 u s
  | .vmad d a b k t s1 u => Sys2Proof.Machine.execVmad d a b k t s1 u s
  | .vand d a b k t => Sys2Proof.Machine.execVand d a b k t s
  | .vor d a b k t => Sys2Proof.Machine.execVor d a b k t s
  | .vxor d a b k t => Sys2Proof.Machine.execVxor d a b k t s
  | .vshl d a b k t => Sys2Proof.Machine.execVshl d a b k t s
  | .vshr d a b k t u => Sys2Proof.Machine.execVshr d a b k t u s
  | .vmin d a b k t u => Sys2Proof.Machine.execVmin d a b k t u s
  | .vmax d a b k t u => Sys2Proof.Machine.execVmax d a b k t u s
  | .vabs d a k t s1 => Sys2Proof.Machine.execVabs d a k t s1 s
  | .vcmp d a b k t c => Sys2Proof.Machine.execVcmp d a b k t c s
  | .vfadd d a b k t r => Sys2Proof.Machine.execVfadd d a b k t r s
  | .vfsub d a b k t r => Sys2Proof.Machine.execVfsub d a b k t r s
  | .vfmul d a b k t r => Sys2Proof.Machine.execVfmul d a b k t r s
  | .vfma d a b k t r => Sys2Proof.Machine.execVfma d a b k t r s
  | .vfmin d a b k t => Sys2Proof.Machine.execVfmin d a b k t s
  | .vfmax d a b k t => Sys2Proof.Machine.execVfmax d a b k t s
  | .vfabs d a k t => Sys2Proof.Machine.execVfabs d a k t s
  | .vfcmp d a b k t c => Sys2Proof.Machine.execVfcmp d a b k t c s
  | .vrcp d a k => Sys2Proof.Machine.execVrcp d a k s
  | .vrsq d a k => Sys2Proof.Machine.execVrsq d a k s
  | .vexp2 d a k => Sys2Proof.Machine.execVexp2 d a k s
  | .vlog2 d a k => Sys2Proof.Machine.execVlog2 d a k s
  | .vsin d a k => Sys2Proof.Machine.execVsin d a k s
  | .vcos d a k => Sys2Proof.Machine.execVcos d a k s
  | .vtanh d a k => Sys2Proof.Machine.execVtanh d a k s
  | .vcvt d a c k n r => Sys2Proof.Machine.execVcvt d a c k n r s
  | .vpack d a s1 p => Sys2Proof.Machine.execVpack d a s1 p s
  | .vunpk d a s1 p => Sys2Proof.Machine.execVunpk d a s1 p s
  | .vbscl d a b k t => Sys2Proof.Machine.execVbscl d a b k t s
  | .vqnt d a b k t r => Sys2Proof.Machine.execVqnt d a b k t r s
  | .vred d a o k t r => Sys2Proof.Machine.execVred d a o k t r s
  | .vscan d a o k t r => Sys2Proof.Machine.execVscan d a o k t r s
  | .vperm d a b k w => Sys2Proof.Machine.execVperm d a b k w s
  | .vbcst d a k w => Sys2Proof.Machine.execVbcst d a k w s
  | .vsld d a b k s1 => Sys2Proof.Machine.execVsld d a b k s1 s
  | .vbfly d a b k t r => Sys2Proof.Machine.execVbfly d a b k t r s
  | .vtwid d a k n => Sys2Proof.Machine.execVtwid d a k n s
  | .vcmul d a b k t r => Sys2Proof.Machine.execVcmul d a b k t r s
  | .vmset d a w => Sys2Proof.Machine.execVmset d a w s
  | .vmsetZero d => Sys2Proof.Machine.execVmsetZero d s
  | .vmsetOnes d => Sys2Proof.Machine.execVmsetOnes d s
  | .vmlog d a b l => Sys2Proof.Machine.execVmlog d a b l s
  | .vend => Sys2Proof.Machine.execVend s
  | .illegalOp word => Sys2Proof.Machine.execIllegalOp word s
  | .tokenArrival src dst ctx => Sys2Proof.Machine.execTokenArrival src dst ctx s
  | .spillReturn cell ctx => Sys2Proof.Machine.execSpillReturn cell ctx s
  | .matcherTake cell => Sys2Proof.Machine.execMatcherTake cell s
  | .imageFetchDone cell ctx => Sys2Proof.Machine.execImageFetchDone cell ctx s
  | .laneTake cell => Sys2Proof.Machine.execLaneTake cell s
  | .readyPromotion cell cls => Sys2Proof.Machine.execReadyPromotion cell cls s
  | .laneStallEnd cell => Sys2Proof.Machine.execLaneStallEnd cell s
  | .engineQueueRoom cell => Sys2Proof.Machine.execEngineQueueRoom cell s
  | .fallocRequest src dst ctx => Sys2Proof.Machine.execFallocRequest src dst ctx s
  | .ffreeMessage src dst ctx => Sys2Proof.Machine.execFfreeMessage src dst ctx s
  | .countMessage src dst ctx => Sys2Proof.Machine.execCountMessage src dst ctx s
  | .heapBlockZero cell => Sys2Proof.Machine.execHeapBlockZero cell s
  | .remoteHeapRequest src dst ctx => Sys2Proof.Machine.execRemoteHeapRequest src dst ctx s
  | .producerReply op => Sys2Proof.Machine.execProducerReply op s
  | .barrierMessage src dst ctx => Sys2Proof.Machine.execBarrierMessage src dst ctx s
  | .wakeValue cell port => Sys2Proof.Machine.execWakeValue cell port s
  | .regionIdRecord cell ctx => Sys2Proof.Machine.execRegionIdRecord cell ctx s
  | .copyTake cell => Sys2Proof.Machine.execCopyTake cell s
  | .matrixTake cell => Sys2Proof.Machine.execMatrixTake cell s
  | .mwldBankFree cell => Sys2Proof.Machine.execMwldBankFree cell s
  | .accumulatorHazardEnd cell => Sys2Proof.Machine.execAccumulatorHazardEnd cell s
  | .drainRowAccepted cell => Sys2Proof.Machine.execDrainRowAccepted cell s
  | .reducerTake cell => Sys2Proof.Machine.execReducerTake cell s
  | .reducerRow cell fromPort => Sys2Proof.Machine.execReducerRow cell fromPort s
  | .vrunTake cell => Sys2Proof.Machine.execVrunTake cell s
  | .streamTokenArrival src dst ctx => Sys2Proof.Machine.execStreamTokenArrival src dst ctx s
  | .vldRowReady cell => Sys2Proof.Machine.execVldRowReady cell s
  | .kernelEnd cell => Sys2Proof.Machine.execKernelEnd cell s
  | .commandComplete cell engine => Sys2Proof.Machine.execCommandComplete cell engine s
  | .logEntryAppend op chunk => Sys2Proof.Machine.execLogEntryAppend op chunk s
  | .storeRingSpace op => Sys2Proof.Machine.execStoreRingSpace op s
  | .logFull op => Sys2Proof.Machine.execLogFull op s
  | .publishMessage op stack => Sys2Proof.Machine.execPublishMessage op stack s
  | .segmentReplay stack => Sys2Proof.Machine.execSegmentReplay stack s
  | .shadowPageReturn page => Sys2Proof.Machine.execShadowPageReturn page s
  | .loadServe op chunk => Sys2Proof.Machine.execLoadServe op chunk s
  | .scStoreApply op => Sys2Proof.Machine.execScStoreApply op s
  | .amoPerform op => Sys2Proof.Machine.execAmoPerform op s
  | .ldchHop op => Sys2Proof.Machine.execLdchHop op s
  | .acqComplete op => Sys2Proof.Machine.execAcqComplete op s
  | .acqaMarker op stack => Sys2Proof.Machine.execAcqaMarker op stack s
  | .releaseAccepted op => Sys2Proof.Machine.execReleaseAccepted op s
  | .peerStoreArrival src gran mask data => Sys2Proof.Machine.execPeerStoreArrival src gran mask data s
  | .peerAck op => Sys2Proof.Machine.execPeerAck op s
  | .endOfGraphRelease fn id => Sys2Proof.Machine.execEndOfGraphRelease fn id s
  | .translationWalk op chunk => Sys2Proof.Machine.execTranslationWalk op chunk s
  | .hostWindowWrite fn gpa bytes => Sys2Proof.Machine.execHostWindowWrite fn gpa bytes s
  | .hostWindowRead fn gpa len => Sys2Proof.Machine.execHostWindowRead fn gpa len s
  | .qNotify fn q val => Sys2Proof.Machine.execQNotify fn q val s
  | .qEnable fn q val => Sys2Proof.Machine.execQEnable fn q val s
  | .qDisable fn q val => Sys2Proof.Machine.execQDisable fn q val s
  | .qReset fn q val => Sys2Proof.Machine.execQReset fn q val s
  | .ringRestart fn off val => Sys2Proof.Machine.execRingRestart fn off val s
  | .faultResume fn val => Sys2Proof.Machine.execFaultResume fn val s
  | .faultAbort fn val => Sys2Proof.Machine.execFaultAbort fn val s
  | .registerWrite fn off val => Sys2Proof.Machine.execRegisterWrite fn off val s
  | .queueFetch fn q => Sys2Proof.Machine.execQueueFetch fn q s
  | .launch fn q => Sys2Proof.Machine.execLaunch fn q s
  | .ibcall fn q => Sys2Proof.Machine.execIbcall fn q s
  | .predP fn q => Sys2Proof.Machine.execPredP fn q s
  | .loopP fn q => Sys2Proof.Machine.execLoopP fn q s
  | .ffence fn q => Sys2Proof.Machine.execFfence fn q s
  | .wake fn q => Sys2Proof.Machine.execWake fn q s
  | .signal fn q => Sys2Proof.Machine.execSignal fn q s
  | .waitv fn q => Sys2Proof.Machine.execWaitv fn q s
  | .waitvPoll fn q => Sys2Proof.Machine.execWaitvPoll fn q s
  | .timestamp fn q => Sys2Proof.Machine.execTimestamp fn q s
  | .nopp fn q => Sys2Proof.Machine.execNopp fn q s
  | .hcopy fn q => Sys2Proof.Machine.execHcopy fn q s
  | .drain fn q => Sys2Proof.Machine.execDrain fn q s
  | .barWaitEnd fn q => Sys2Proof.Machine.execBarWaitEnd fn q s
  | .launchPlacement part => Sys2Proof.Machine.execLaunchPlacement part s
  | .instanceStart fn id => Sys2Proof.Machine.execInstanceStart fn id s
  | .segmentMove fn id vcell target => Sys2Proof.Machine.execSegmentMove fn id vcell target s
  | .loadAdvance fn id => Sys2Proof.Machine.execLoadAdvance fn id s
  | .returnToken src ctx => Sys2Proof.Machine.execReturnToken src ctx s
  | .instanceComplete fn id => Sys2Proof.Machine.execInstanceComplete fn id s
  | .qpostRequest src ctx => Sys2Proof.Machine.execQpostRequest src ctx s
  | .grant cmd => Sys2Proof.Machine.execGrant cmd s
  | .takeback cmd => Sys2Proof.Machine.execTakeback cmd s
  | .freeze cmd => Sys2Proof.Machine.execFreeze cmd s
  | .freezeComplete part => Sys2Proof.Machine.execFreezeComplete part s
  | .freezeTimeout part => Sys2Proof.Machine.execFreezeTimeout part s
  | .thaw cmd => Sys2Proof.Machine.execThaw cmd s
  | .save cmd => Sys2Proof.Machine.execSave cmd s
  | .restore cmd => Sys2Proof.Machine.execRestore cmd s
  | .keyload cmd => Sys2Proof.Machine.execKeyload cmd s
  | .keyclear cmd => Sys2Proof.Machine.execKeyclear cmd s
  | .invalidate cmd => Sys2Proof.Machine.execInvalidate cmd s
  | .dirty cmd => Sys2Proof.Machine.execDirty cmd s
  | .exportq cmd => Sys2Proof.Machine.execExportq cmd s
  | .importq cmd => Sys2Proof.Machine.execImportq cmd s
  | .halt cmd => Sys2Proof.Machine.execHalt cmd s
  | .shadowadd cmd => Sys2Proof.Machine.execShadowadd cmd s
  | .shadowtake cmd => Sys2Proof.Machine.execShadowtake cmd s
  | .ringpool cmd => Sys2Proof.Machine.execRingpool cmd s
  | .mgmtBadCommand cmd => Sys2Proof.Machine.execMgmtBadCommand cmd s
  | .scrubDone part => Sys2Proof.Machine.execScrubDone part s
  | .sarSign part => Sys2Proof.Machine.execSarSign part s
  | .flr fn => Sys2Proof.Machine.execFlr fn s
  | .regionFailureReport src ctx => Sys2Proof.Machine.execRegionFailureReport src ctx s
  | .regionFailureApply cell ctx => Sys2Proof.Machine.execRegionFailureApply cell ctx s
  | .regionFailedDelivery fn id region => Sys2Proof.Machine.execRegionFailedDelivery fn id region s
  | .regionCloseProceed fn id region => Sys2Proof.Machine.execRegionCloseProceed fn id region s
  | .watchdogExpiry fn id => Sys2Proof.Machine.execWatchdogExpiry fn id s
  | .deadlockDetect fn id => Sys2Proof.Machine.execDeadlockDetect fn id s
  | .powerUp => Sys2Proof.Machine.execPowerUp s
  | .throttle die eighths => Sys2Proof.Machine.execThrottle die eighths s
  | .thermalCutoff => Sys2Proof.Machine.execThermalCutoff s
  | .hopRetry cell port => Sys2Proof.Machine.execHopRetry cell port s
  | .hopFailed cell port => Sys2Proof.Machine.execHopFailed cell port s
  | .ringLaneLost die dir lane => Sys2Proof.Machine.execRingLaneLost die dir lane s
  | .ringRetrainDone die => Sys2Proof.Machine.execRingRetrainDone die s
  | .ringLinkLost die => Sys2Proof.Machine.execRingLinkLost die s
  | .septordResend port => Sys2Proof.Machine.execSeptordResend port s
  | .septordPortLost port => Sys2Proof.Machine.execSeptordPortLost port s
  | .septordLaneLost port lane => Sys2Proof.Machine.execSeptordLaneLost port lane s
  | .resultCommit cell => Sys2Proof.Machine.execResultCommit cell s
  | .strikeRollback die zone => Sys2Proof.Machine.execStrikeRollback die zone s
  | .timeLock ref => Sys2Proof.Machine.execTimeLock ref s
  | .timeLockLost => Sys2Proof.Machine.execTimeLockLost s
  | .ckptStart val => Sys2Proof.Machine.execCkptStart val s
  | .ckptEnd ok => Sys2Proof.Machine.execCkptEnd ok s
  | .powerLoss => Sys2Proof.Machine.execPowerLoss s

end Sys2Proof.Machine
end

