-- ==== Sys2Proof/Machine/Outside.lean ====
section
/-! DEFINITION. What reaches the module from outside beside the table's steps: storage errors where they lie
(R238, R355), what the PF and the host ask of registers (R294), and what peer modules send (R99, R101). -/

namespace Sys2Proof.Machine

/-! ## Storage errors (R355) -/

/-- An error of a cell's storage recorded (R358): its partition, or 8 where no partition holds the cell. -/
def State.cellErr (s : State) (kind c x : Nat) (a : Word) : State := s.errRec kind (s.partNo c) c x a 0

/-- An error in a frame slot: of a live frame, else without effect. -/
def State.badSlot (s : State) (c slot : Nat) : State :=
  let hit := (s.cell c).ctxs.findSome? fun (e : Nat × Ctx) =>
    (e.2.frames.find? fun (f : Nat × Frame) => decide (f.1 ≤ slot) && decide (slot < f.1 + clsSlots f.2.cls)).map fun f => (e.1, f)
  match hit with
  | none => s
  | some (x, b, f) => s.poisonFiring c x f.region b

/-- An error in a heap element: it reads as zero and is marked (R238). -/
def Tile.spoil (t : Tile) (i : Nat) : Tile := { t with els := t.els.set 0 i 0, bad := if t.bad.contains i then t.bad else t.bad ++ [i] }

/-- A row of an accumulator or of a weight bank whose word of a column is lost: the word reads as zero, and the row is marked. -/
def Matrix.badAcc (m : Matrix) (row col : Nat) : Matrix :=
  { m with acc := m.acc.del (row * 64 + col), marks := if m.marks.contains row then m.marks else m.marks ++ [row] }

/-- A weight of a bank that is lost: it reads as zero, and the bank is marked. -/
def Bank.spoil (b : Bank) (row col : Nat) : Bank := { b with w := b.w.del (row * 64 + col), poison := true }

/-- The same of a word of the sum buffer: the reduction is marked. -/
def Reduction.spoil (q : Reduction) (row col : Nat) : Reduction := { q with sum := q.sum.del (row * 64 + col), poisoned := true }

/-- A 64-bit word of a vector register set to zero. -/
def zeroWord (v : BitVec 2048) (w : Nat) : BitVec 2048 := v &&& ~~~((BitVec.ofNat 2048 (2 ^ 64 - 1)) <<< (64 * w))

/-- A vector register's uncorrectable word (R273, R355): read as zero; a running kernel is POISONED. -/
def State.badVec (s : State) (c reg w : Nat) : State :=
  if h : reg < 32 then
    let s := s.modCell c fun d => { d with vec := { d.vec with
      v := d.vec.v.set reg (zeroWord (d.vec.v.get ⟨reg, h⟩) (w % 32)) h
      run := d.vec.run.map fun r => { r with poisoned := true } } }
    s.modCell c Cell.taintOuts
  else s

/-- A row of a stream port's buffer whose 64-bit word is lost (R238, R355): the elements that lie in it read as zero, and the row is
marked. -/
def Port.spoil (p : Port) (idx word : Nat) : Port :=
  { p with rows := listMod p.rows idx fun r => { r with
      poison := true
      els := r.els.zipIdx.map fun e => if overlap (e.2 * eb r.fmt) (eb r.fmt) (64 * word) 64 then 0 else e.1 } }

/-- A granule whose storage is uncorrectable (R238, R355): the bytes of it that are lost, all of them where the mask names none. -/
def State.badGranule (s : State) (g mask : Nat) : State :=
  let lost := if mask % 2 ^ 64 = 0 then 2 ^ 64 - 1 else mask % 2 ^ 64
  { s with
    gpoison := if s.gpoison.contains g then s.gpoison else s.gpoison ++ [g]
    gbad := s.gbad.put g (s.granMask g ||| lost) }

/-- An element that a list holds by place dropped. -/
def dropAt {α : Type} (l : List α) (n : Nat) : List α := l.take n ++ l.drop (n + 1)

/-- An error in an entry of a die's last-level TLB or its walkers' caches (R355): the entry is dropped, and the next access walks. -/
def State.badWalk (s : State) (die idx : Nat) : State :=
  match (s.tlb.filter fun t => t.die == die)[idx]? with
  | some t => { s with tlb := s.tlb.erase t }
  | none => s

/-- A corrected error (R358): one that comes again at its place within 2^30 ticks is recorded once. -/
def State.corrected (s : State) (c kind : Nat) (a : Word) : State :=
  let t := s.now c
  let mine := fun (e : Nat × Nat × Word × Word) => e.1 == kind && e.2.1 == c && e.2.2.1 == a
  if s.seen.any fun e => mine e && decide (t.toNat < e.2.2.2.toNat + 2 ^ 30) then s
  else { s with seen := (s.seen.filter fun e => !mine e) ++ [(kind, c, a, t)] }.cellErr kind c 0 a

/-! ## Everything from outside -/

/-- Queues granted to a function by the PF (R294): at most 4,096 in all. -/
def State.grantQueues (s : State) (f n : Nat) : State :=
  let others := ((s.fns.filter fun e => e.1 != f).map fun e => e.2.qcount).sum
  if 32 ≤ f || 4096 < others + n then s else s.modFn f fun k => { k with qcount := n }

/-- A bay that fails its scrub leaves its partition (R330). -/
def State.bayFails (s : State) (n b : Nat) : State :=
  let p := s.parts.getD n {}
  if p.st != .scrubbing || 128 ≤ b || !p.bays.getLsbD b then s
  else (s.modPart n fun p => { p with bays := p.bays &&& ~~~((1 : BitVec 128) <<< b), bayfail := true }).addBad 8 ((bayCells b).headD 0) 0 0

/-- An event from outside the module. -/
def State.outside (s : State) (o : Outside) : State :=
  match o with
  | .badGranule g mask => (s.badGranule g mask).errRec 0x04 8 0 0 (word (g * 64)) 0
  | .badEntry st key idx =>
    (s.modSub st key fun l => { l with entries := listMod l.entries idx fun e => { e with bad := true } }).errRec 0x04 8 0 0 (word st) 0
  | .badElement c t e => (s.modTile c t fun k => k.spoil e).cellErr 0x02 c 0 (word t)
  | .badSlot c k => (s.cellErr 0x02 c 0 (word k)).badSlot c k
  | .badAcc c row col => (s.modCell c fun d => { d with matrix := d.matrix.badAcc row col }).cellErr 0x02 c 0 (word row)
  | .badBank c b row col =>
    (s.modCell c fun d => { d with matrix :=
      if b then { d.matrix with wb1 := d.matrix.wb1.spoil row col } else { d.matrix with wb0 := d.matrix.wb0.spoil row col } }).cellErr 0x02 c 0
      (word row)
  | .badVec c r w => (s.cellErr 0x02 c 0 (word r)).badVec c r w
  | .badSum c row col =>
    (s.modCell c fun d => { d with reducer := { d.reducer with cur := d.reducer.cur.map fun q => q.spoil row col } }).cellErr 0x02 c 0 (word row)
  | .badRow c p i w =>
    (s.modCell c fun d => { d with ports := d.ports.put p ((d.ports.getD p {}).spoil i w) }).cellErr 0x02 c 0 (word p)
  | .badCtx c x r => (s.cellErr 0x02 c x 0).poisonFiring c x r 0
  | .corrected c kind a => if kind = 1 || kind = 3 then s.corrected c kind a else s
  | .badTlb c i => (s.modCell c fun d => { d with tlb := dropAt d.tlb i }).cellErr 0x02 c 0 (word i)
  | .badWalk die i => (s.badWalk die i).errRec 0x02 8 (die * 256) 0 (word i) 0
  | .badCode c x both =>
    let s := s.cellErr 0x02 c x 0
    if both then s.poisonFiring c x 0 0 else s
  | .badRetained c i =>
    (s.modCell c fun d => { d with retained := listMod d.retained i fun r => { r with bad := true } }).cellErr 0x02 c 0 (word i)
  | .badCheck g => { s with unchecked := if s.unchecked.contains g then s.unchecked else s.unchecked ++ [g] }
  | .badRowCheck c t r => s.modTile c t fun k => { k with unchecked := if k.unchecked.contains r then k.unchecked else k.unchecked ++ [r] }
  | .flitError n f p w => s.flitError n f p w
  | .hostRetry _ => s
  | .septordAck p q => s.septordAck p q
  | .trainingFails d => { s with untrained := if d < 8 && !s.untrained.contains d then s.untrained ++ [d] else s.untrained }
  | .ckptPage => s.ckptPage
  | .linkedTime t => s.followLinked t
  | .bindHost f b => if f = 0 || 32 ≤ f then s else s.modFn f fun k => { k with die4 := b }
  | .bayFails n b => s.bayFails n b
  | .grantQueues f n => s.grantQueues f n
  | .readReg f off => if f < 32 && s.ifaceUp f && !s.hostShut f then { s with pcie := s.pcie ++ [.reg f off (s.hostReg f off)] } else s
  | .peerPublish m fl => s.peerPublish m fl
  | .peerLoad m fl pa n => s.peerLoad m fl pa n
  | .peerData op k bs => s.peerData op k bs
  | .peerApplied op => s.peerApplied op

end Sys2Proof.Machine
end

