-- ==== Sys2Proof/Machine/Clock.lean ====
section
/-! DEFINITION. Time: the clocks that advance between two moves (R17, R18, R360), and what counts it: watchdogs
(R333), stall counters (R230) and the queues' wait counters (R295). -/

namespace Sys2Proof.Machine

/-- Ticks that slewing adds or takes away in `n` cycles (R360): at most one in every 1,024. -/
def Clock.correction (k : Clock) (n : Nat) : Int :=
  let m : Int := ((k.nc + n) / 1024 - k.nc / 1024 : Nat)
  if 0 ≤ k.slew then min k.slew m else max k.slew (-m)

/-- The clocks after `n` cycles of the network clock: global time by one tick each and its correction (R2, R17,
R360), the arithmetic clock of a die by the cycles that are not suppressed (R18), in sixteenths of an ac. -/
def Clock.tick (k : Clock) (n : Nat) : Clock :=
  let c := k.correction n
  { k with
    nc := k.nc + n
    gt := k.gt.map fun t => t + BitVec.ofInt 64 ((n : Int) + c)
    slew := k.slew - c
    ac16 := Vector.zipWith (fun a th => a + n * (8 - th)) k.ac16 k.throttle }

/-! ## Watchdogs (R333) -/

/-- All that an operation has still to do waits for parked page faults. -/
def MemOp.onlyParked (o : MemOp) : Bool :=
  o.dpark.isSome || ((o.pieces.any fun p => !p.done) && o.pieces.all fun p => p.done || p.rests)

/-- A cell does nothing for a context but wait for parked accesses: no ready firing, none on the lane, no engine work but
copy commands that are parked. -/
def State.restsOn (s : State) (c x : Nat) : Bool :=
  let d := s.cell c
  !(d.ready.any (d.readyOf x)) && !(d.lane.busy && d.lane.fir.ctx == x) &&
    d.cmds.all fun m => m.who.ctx != x || (match s.op? m.uid with | some o => o.onlyParked | none => false)

/-- Every outstanding operation of an instance is a parked page fault, and nothing else moves (R333). A queued FALLOC and a CRCLOSE that
waits are operations of another kind. -/
def State.allParked (s : State) (i : Inst) : Bool :=
  let os := s.ops.filter fun o => o.inst == (i.fn, i.id)
  !os.isEmpty && os.all (·.onlyParked) && i.place.all (fun c => s.restsOn c i.ctx) &&
    !(s.net.any fun p => p.ofInst i) &&
    !(i.place.any fun c => (s.cx c i.ctx).pools.any fun e => !e.2.queue.isEmpty) && !(i.regions.any fun e => !e.2.closing.isEmpty)

/-- Time passes for an instance: its watchdog counts from its first firing on, but in the cases of R333. -/
def State.tickInst (s : State) (n : Nat) (i : Inst) : Inst :=
  if i.fired && !((s.parts.getD i.part {}).halted) && (s.parts.getD i.part {}).st == .granted && !s.allParked i then
    let w := i.wdog + n
    { i with wdog := w, expired := i.expired || (i.budget != 0 && decide (i.budget * 2 ^ 16 ≤ w) && !s.allDone i) }
  else i

/-! ## Stall counters (R230) -/

/-- What a command of the copy engine waits for: its counter. -/
def State.copyCause (s : State) (r : Run) : Option Nat :=
  match r.op with
  | none => none
  | some id => match s.op? id with
    | none => none
    | some o =>
      if !o.checked || o.pieces.any fun p => !p.done && (p.xl == .todo || p.rests) then some 0x0C
      else if o.pieces.any fun p => !p.back then some 0x0D
      else none

/-- A drain of a cell's matrix engine whose row has reached its stream port and is not taken for want of space (R252). -/
def State.drainWaits (s : State) (c : Nat) : Option Run :=
  (s.cell c).matrix.runs.find? fun r => s.net.any fun p => match p.body with
    | .stream n row u => u == r.cmd.uid && p.committed && p.hops == some [] && !((s.cell p.dst).port n).fits row
    | _ => false

/-- The counter that runs for such a drain. -/
def State.drainHeld (s : State) (c : Nat) : Option (Nat × Nat × Nat) :=
  (s.drainWaits c).map fun r => (r.cmd.who.ctx, 0x0B, 1)

/-- The stall counters that run on a cell: context, counter, and how much they gain in one ac. -/
def State.stalls (s : State) (c : Nat) : List (Nat × Nat × Nat) :=
  let d := s.cell c
  (match d.lane.stall with | some (.queue m) => [(m.who.ctx, 0x08, 1)] | _ => []) ++
    (d.matrix.heldLoad.toList.map fun m => (m.who.ctx, 0x09, 1)) ++
    (d.matrix.heldRows.toList.map fun m => (m.who.ctx, 0x0A, 1)) ++
    (s.drainHeld c).toList ++
    ((d.copies.filterMap fun r => (s.copyCause r).map fun n => (r.cmd.who.ctx, n, 1)).eraseDups) ++
    (if d.vec.waiting then d.vec.run.toList.map fun r => (r.cmd.who.ctx, 0x0E, 1) else []) ++
    (((s.ops.filter fun o => o.who.cell == c && o.pieces.any fun p => p.wait.isSome && !p.done).map fun o => (o.who.ctx, 0x0F, 1)).eraseDups) ++
    (d.ctxs.filterMap fun (e : Nat × Ctx) =>
      let n := (e.2.pools.map fun (p : Nat × Pool) => p.2.queue.length).sum
      if n = 0 then none else some (e.1, 0x10, n)) ++
    (d.ctxs.filterMap fun (e : Nat × Ctx) =>
      if !e.2.resident && d.inq.any fun t => ctxOf t.cont == e.1 then some (e.1, 0x11, 1) else none)

/-- The stall counters of a cell after some ac. -/
def State.tickCell (s : State) (c n : Nat) (d : Cell) : Cell :=
  if n = 0 || !s.runs c then d
  else (s.stalls c).foldl (fun d e => d.modCx e.1 fun k => { k with perf := k.perf.put e.2.1 (k.perf.getD e.2.1 0 + word (n * e.2.2)) }) d

/-! ## Queues (R295) -/

/-- The packet at the parse pointer waits on a value that it reads: a PRED or WAITV, whose read is parked (R295, R302). -/
def Queue.reading (q : Queue) : Bool :=
  q.parked.isSome && match { q with parked := none : Queue }.parse with
    | .pkt w => [0x03, 0x08].contains (pktOp (w.getD 0 0))
    | _ => false

/-- A queue's wait counters after some ac (R295, R310): what its parsing waits on. A parked access keeps nothing from counting. -/
def Queue.tick (q : Queue) (n : Nat) : Queue :=
  match q.wait with
  | .bar => { q with waits := q.waits + word n }
  | .acqa _ => { q with waits := q.waits + word n }
  | .waitv _ => { q with waits := q.waits + word n }
  | .launches => { q with waits := q.waits + word n }
  | .none =>
    if q.reading then { q with waits := q.waits + word n }
    else if { q with parked := none : Queue }.starving then { q with fetchw := q.fetchw + word n } else q

/-- Bays whose cells' arithmetic clock stands still: those of FROZEN partitions (R327). -/
def State.frozenBays (s : State) : List Nat := (s.parts.filter fun e => e.2.st == .frozen).flatMap fun e => baysOf e.2.bays

/-- Time passes: `n` cycles of the network clock. -/
def State.tick (s : State) (n : Nat) : State :=
  if n = 0 then s
  else
    let k := s.clock.tick n
    let raw := fun (die : Nat) => k.ac16.toList.getD die 0 / 16 - s.clock.ac16.toList.getD die 0 / 16
    let still := s.frozenBays
    let gain := fun (c : Nat) => if still.contains (bayOf c) then 0 else raw (dieOf c)
    { s with
      clock := k
      gated := still.foldl (fun t b => t.put b (t.getD b 0 + raw (b / 16))) s.gated
      insts := s.insts.map (s.tickInst n)
      cells := s.cells.map fun (e : Nat × Cell) => (e.1, s.tickCell e.1 (gain e.1) e.2)
      fns := s.fns.map fun (e : Nat × Fn) => (e.1, { e.2 with queues := e.2.queues.map fun (q : Nat × Queue) => (q.1, q.2.tick (gain 0)) }) }

end Sys2Proof.Machine
end

