-- ==== Sys2Proof/Machine/Fetch.lean ====
section
/-! DEFINITION. Fetching: the word a lane or a vector unit runs next, and what it decodes to. -/

namespace Sys2Proof.Machine

/-- A word of the codelet lane as an instruction: a word that is no lane instruction, a vector word
among them, issues as ILLEGAL_OP's step (R140). -/
def laneInstr (w : IWord) : Instr :=
  if 0xC0 ≤ w.toNat / 2 ^ 24 then .illegalOp w
  else match decode w with
    | some i => i
    | none => .illegalOp w

/-- The absolute slot that an access of the present lane reaches (R180): none where its guard fails, its operand is in error or it
is an FLD that resumes. -/
def State.reaches (s : State) (i : Instr) : Option Nat :=
  let reach := fun (p : BitVec 3) (j : BitVec 4) (k : BitVec 12) =>
    if s.pr p then (match s.fslot j k with | .ok a => some a | .error _ => none) else none
  match i with
  | .fld _ j k _ p => if s.lane.resume.isSome then none else reach p j k
  | .fst _ j k p => reach p j k
  | .fclr j k p => reach p j k
  | .ftst _ j k p => reach p j k
  | .join _ j k p => reach p j k
  | _ => none

/-- The lane of a cell would reach a slot after another event of the same ac has: the access goes first, so that one here
comes in a later ac (R180). -/
def State.behind (s : State) (c : Nat) (i : Instr) : Bool :=
  let d := s.cell c
  decide (d.touched.1 = s.ac c) && match ({ s with cur := c }).reaches i with
    | some k => d.touched.2.contains k
    | none => false

/-- What the lane of a cell runs next: nothing while it is free or held, its clock is stopped or its access comes too late
for this ac (R42, R157, R180, R327). -/
def State.laneNext (s : State) (c : Nat) : Option Instr :=
  let l := (s.cell c).lane
  let i := laneInstr (imageWord (s.cx c l.fir.ctx).image l.fir.ia)
  if l.busy && l.stall.isNone && s.runs c && !s.behind c i then some i else none

/-- What the vector unit of a cell runs next (R262): nothing without a running kernel, past its end,
while it waits for a row or its clock is stopped. -/
def State.vecNext (s : State) (c : Nat) : Option Instr :=
  let v := (s.cell c).vec
  if v.run.isSome && !v.waiting && !v.ended && s.runs c then
    match v.buf[v.pc]? with
    | none => none
    | some w => if 0xC0 ≤ w.toNat / 2 ^ 24 then decode w else none
  else none

end Sys2Proof.Machine
end

