-- ==== Sys2Proof/Machine/Step.lean ====
section
/-! DEFINITION. One step of the module: the next move of the agenda is made (log entry 1). -/

namespace Sys2Proof.Machine

/-- What a mover does. A lane or a vector unit runs the word it fetches; a step of the table that has no
encoding is run as it stands, a write of the host when its interface accepts it (R100). -/
def State.move (s : State) (who : Mover) : Host.Outcome State Fault Refusal :=
  match who with
  | .lane c held =>
    (match s.laneNext c with
     | some i => exec i { s with cur := c, held := held }
     | none => .next s)
  | .vector c =>
    (match s.vecNext c with
     | some i => exec i { s with cur := c, held := false }
     | none => .next s)
  | .event i =>
    if i.isWord then .next s
    else (match s.hostIn i with
      | some t => .next t
      | none => exec i s)
  | .flit n => .next (s.hopMove n)
  | .outside (.hostRetry k) =>
    (match s.hostOut k with
     | (some i, t) => exec i t
     | (none, t) => .next t)
  | .ask op k => .next (s.ask op k)
  | .work c => .next (s.matrixWork c)
  | .outside o => .next (s.outside o)

/-- The state in which the head of the agenda moves: time has passed, and an FLR or a management command that waited
has gone on where it can. -/
def State.advance (s : State) (m : Move) : State := (({ s with agenda := s.agenda.tail }).tick m.dt).settleFlrs.settleMgmt

/-- One step: time passes and the head of the agenda moves. Without supply only POWER_UP has a meaning. -/
def step (s : State) : Host.Outcome State Fault Refusal :=
  match s.agenda with
  | [] => .next (s.tick 2).settleFlrs.settleMgmt
  | m :: _ => if s.power || m.who == .event .powerUp then (s.advance m).move m.who else .fault .noPower

/-- The state with a word placed where the next step fetches: a codelet of one word on the lane of cell
0 in context 0, or, for a vector word, the loop buffer of the vector unit of cell 0 (log entry 2). -/
def State.withFetchWord (s : State) (nbits w : Nat) : State :=
  let iw : IWord := BitVec.ofNat 32 (w % 2 ^ nbits)
  if 0xC0 ≤ iw.toNat / 2 ^ 24 then
    { (s.modCell 0 fun c => { c with vec := { c.vec with run := some {}, buf := [iw], pc := 0, waiting := false, ended := false } }) with
      agenda := [{ who := .vector 0 }] }
  else
    let s := s.modCell 0 fun c =>
      { c.modCx 0 fun k => { k with image := [BitVec.ofNat 32 (2 ^ 10), iw], vcell := 0, place := [0] } with
        lane := { busy := true, fir := { ia := 1 } } }
    { s with agenda := [{ who := .lane 0 false }] }

end Sys2Proof.Machine
end

