-- ==== Sys2Proof/Safety.lean ====
section
/-! DEFINITION. The terms the statements use: what a lane instruction leaves, the invariant of memory, and
results written from the rules' tables with bit-vector arithmetic of their own, apart from the meanings. -/

namespace Sys2Proof.Machine

/-! ## What a lane instruction leaves -/

/-- The lane stands at the last word of the body (R43): after it the firing ends. -/
def State.atLast (s : State) : Bool := decide (s.fir.hdr + s.fhdr.length < s.fir.ia + 1)

/-- No frame of the firing waits for its end (R189), or its end is not near. -/
def State.plain (s : State) : Prop := s.atLast = true → s.lane.frees = []

/-- The same state with no frame of the firing waiting for its end. -/
def State.bare (s : State) : State := s.modLane fun l => { l with frees := [] }

/-- The frees that waited for the end of the firing of `s` applied in `t`, in the order in which they were asked for (R189, R192). -/
def State.freed (s t : State) : State := s.lane.frees.foldl (fun q e => q.freeLater s.cur s.fir.ctx e.1 e.2) t

/-- The lane after an instruction that left the registers at `r`: at the next word, or free past the last
one (R43, R192). -/
def State.laneAfter (s : State) (r : Regs) : Lane :=
  if s.atLast then {} else { s.lane with regs := r, fir := { s.fir with ia := s.fir.ia + 1 } }

/-- Nothing but the present cell differs. -/
structure OnlyCell (s t : State) : Prop where
  rest : { t with cells := s.cells } = s
  others : ∀ c, c ≠ s.cur → t.cell c = s.cell c

/-- Nothing but one cell differs. -/
structure OnlyAt (s : State) (c : Nat) (t : State) : Prop where
  rest : { t with cells := s.cells } = s
  others : ∀ d, d ≠ c → t.cell d = s.cell d

/-- A lane instruction has left the registers at `r` and ORed `fl` into its context's CTL_FLAGS (R133); the lane
has gone on, and nothing else of the module differs: no other register of the firing, slot, tile, context, cell,
byte of memory, packet or operation. -/
structure RegsOnly (s : State) (r : Regs) (fl : BitVec 7) (t : State) : Prop where
  only : OnlyCell s t
  cell : { t.cell s.cur with ctxs := (s.cell s.cur).ctxs } = { s.cell s.cur with lane := s.laneAfter r }
  ctx : t.cx s.cur s.fir.ctx = { s.fcx with ctl := { s.fcx.ctl with flags := s.fcx.ctl.flags ||| fl } }
  ctxs : ∀ x, x ≠ s.fir.ctx → t.cx s.cur x = s.cx s.cur x

/-- A packet as the network holds it once a cell has sent it. -/
def State.sent (s : State) (p : Packet) : Packet :=
  { p with
    committed := p.committed || p.src == p.dst
    born := s.ac (onMesh p.src)
    part := s.partNo (if isAttached p.src then p.dst else p.src)
    flits := Nat.max p.flits p.body.flits
    hops := if onMesh p.src = onMesh p.dst && !isAttached p.src && !isAttached p.dst then some [] else none }

/-- A lane instruction has sent one packet and left the registers at `r`: the packet stands behind those already in
the network, the context has one more operation outstanding (R57), the lane has gone on, nothing else differs. -/
structure Sends (s : State) (r : Regs) (p : Packet) (t : State) : Prop where
  rest : { t with cells := s.cells, net := s.net } = s
  net : t.net = s.net ++ [s.sent p]
  others : ∀ c, c ≠ s.cur → t.cell c = s.cell c
  cell : { t.cell s.cur with ctxs := (s.cell s.cur).ctxs } = { s.cell s.cur with lane := s.laneAfter r }
  ctx : t.cx s.cur s.fir.ctx = { s.fcx with outstanding := s.fcx.outstanding + 1 }
  ctxs : ∀ x, x ≠ s.fir.ctx → t.cx s.cur x = s.cx s.cur x

/-- A lane instruction has issued the split-phase operation `o` (R193), whose destination slot, where it has one, is
emptied (R39) and which has sent nothing yet; the lane has gone on, nothing else differs. -/
structure Issues (s : State) (slot : Option Nat) (o : MemOp) (t : State) : Prop where
  rest : { t with cells := s.cells, ops := s.ops, serial := s.serial } = s
  ops : t.ops = s.ops ++ [{ o with
    id := s.serial, who := s.issuer, inst := s.fcx.inst.getD (0, 0), slot := slot }]
  serial : t.serial = s.serial + 1
  others : ∀ c, c ≠ s.cur → t.cell c = s.cell c
  cell : { t.cell s.cur with ctxs := (s.cell s.cur).ctxs, slots := (s.cell s.cur).slots, ftoks := (s.cell s.cur).ftoks } =
    { s.cell s.cur with lane := s.laneAfter s.lane.regs }
  slots : (t.cell s.cur).slots = match slot with | none => (s.cell s.cur).slots | some k => (s.cell s.cur).slots.del k
  ctx : t.cx s.cur s.fir.ctx = { s.fcx with outstanding := s.fcx.outstanding + 1 }
  ctxs : ∀ x, x ≠ s.fir.ctx → t.cx s.cur x = s.cx s.cur x

/-- The lowest DEFERRED slot of a frame of `n` slots, counted from its base. -/
def Cell.lowestDeferred (c : Cell) (b n : Nat) : Option Nat := (List.range n).find? fun j => isDeferred (c.slots.get? (b + j))

/-- A live frame of a context has been taken away (R35): its slots are EMPTY, the firings suspended on them are gone, its level has one
live frame less, and nothing else differs. -/
structure FrameGone (s : State) (c x b : Nat) (f : Frame) (t : State) : Prop where
  only : OnlyAt s c t
  cell : { t.cell c with ctxs := (s.cell c).ctxs } = { s.cell c with
    recs := (s.cell c).recs.filter fun e => !(e.2.value.isNone && decide (b ≤ e.2.slot) && decide (e.2.slot < b + clsSlots f.cls) &&
      isDeferred (s.slot c e.2.slot))
    slots := (s.cell c).slots.filter fun e => decide (e.1 < b) || decide (b + clsSlots f.cls ≤ e.1)
    ftoks := (s.cell c).ftoks.filter fun k => decide (k < b) || decide (b + clsSlots f.cls ≤ k) }
  ctx : t.cx c x = { s.cx c x with
    frames := (s.cx c x).frames.del b
    pools := match (s.cx c x).pools.get? f.level with
      | some p => (s.cx c x).pools.put f.level { p with live := p.live - 1 }
      | none => (s.cx c x).pools }
  ctxs : ∀ y, y ≠ x → t.cx c y = s.cx c y

/-- At each of these levels in turn, the heads of the queue have been granted for as long as the rule grants them (R59). -/
inductive Granted (c x : Nat) : List Nat → State → State → Prop where
  | done (s : State) : Granted c x [] s s
  | next (l : Nat) (ls : List Nat) (s t : State) :
      (∀ p, (s.cx c x).pools.get? l = some p → p.queue = [] ∨ (s.cx c x).grantable l = none) →
      Granted c x ls s t → Granted c x (l :: ls) s t
  | grant (l : Nat) (ls : List Nat) (s t : State) (p : Pool) (r : FrameReq) (rest : List FrameReq) (b : Nat) (reserved : Bool) :
      (s.cx c x).pools.get? l = some p → p.queue = r :: rest → (s.cx c x).grantable l = some (b, reserved) →
      Granted c x (l :: ls)
        ((s.modCx c x fun k => { k with pools := k.pools.put l { p with queue := rest } }).grantTo c x l b reserved r) t →
      Granted c x (l :: ls) s t

/-- A relative slot lies inside the firing's frame, which is live (R33, R34). -/
def State.inFrame (s : State) (rel : Nat) : Prop :=
  ∃ f, s.frame? s.cur s.fir.ctx s.fir.base = some f ∧ rel < clsSlots f.cls

/-- The slots from a relative one on are FULL with these values, the record's eight slots inside the frame (R145). -/
def State.recordIs (s : State) (first : Nat) (w : List Word) : Prop :=
  s.inFrame (first + 7) ∧ ∀ j v, w[j]? = some v → s.slot s.cur (s.fir.base + first + j) = some (.full v)

/-- A register names a reply continuation that passes the check of R23, or is `x0` and names none (R194). -/
def State.replyIs (s : State) (c : BitVec 4) (r : Option Word) : Prop :=
  (c = 0 ∧ r = none) ∨ (c ≠ 0 ∧ r = some (s.x c) ∧ replyOk s.fcx.place.length s.fir.ctx (s.x c) = true)

/-- The packet that carries a control token of the firing (R22, R305). -/
def State.tokenPacket (s : State) (cont val tag : Word) : Packet :=
  if isReturn cont then
    { vn := 4, src := s.cur, dst := Config.frontEnd, ctx := s.fir.ctx, body := .ret { cont := cont, val := val, tag := tag } }
  else
    { vn := 0, src := s.cur, dst := s.fcx.place.getD (vcellOf cont) 0, ctx := s.fir.ctx,
      body := .token { cont := cont, val := val, tag := tag } }

/-! ## What a word of a vector kernel leaves -/

/-- Element `j` of width `w` of a vector register (R264). -/
def State.el (s : State) (n : BitVec 5) (w j : Nat) : Nat := (s.vec.v.get n.toFin).toNat / 2 ^ (w * j) % 2 ^ w

/-- Element `j` is not masked off by mask register `k` (R265): `m0` masks nothing. -/
def State.on (s : State) (k : BitVec 3) (j : Nat) : Bool := k == 0 || (s.vec.m.get k.toFin).getLsbD j

/-- A word of a kernel has changed only the vector registers `vs`, the mask registers `ms`, the generators and the
flags gathered, by `fl`; control has gone on (R274); nothing else of the module differs. -/
structure VecStep (s : State) (vs : List (BitVec 5)) (ms : List (BitVec 3)) (fl : BitVec 7) (t : State) : Prop where
  only : OnlyCell s t
  cell : { t.cell s.cur with vec := s.vec } = s.cell s.cur
  vec : { t.vec with v := s.vec.v, m := s.vec.m, gens := s.vec.gens, run := s.vec.run } = s.vec.advance (s.vec.pc + 1)
  run : t.vec.run = s.vec.run.map fun r => { r with flags := r.flags ||| fl }
  regs : ∀ n, n ∉ vs → t.vec.v.get n.toFin = s.vec.v.get n.toFin
  masks : ∀ n, n ∉ ms → t.vec.m.get n.toFin = s.vec.m.get n.toFin

/-! ## Logs -/

/-- Memory after an entry has been appended to a sub-log (R77, R314): where the log has its place in memory, the 128 bytes of
the entry stand there, at the tail; every other byte is as before. -/
def State.ringStored (s t : State) (stack log : Nat) (e : Entry) (src smod : BitVec 16) : Prop :=
  let l := s.sub stack log
  let off := l.tail.toNat % (l.size / 128) * 128
  ∀ a, t.rd a = match l.base with
    | none => s.rd a
    | some b =>
      let z := b + off / 4096 * 65536 + stack * 4096 + off % 4096
      if z ≤ a ∧ a < z + 128 then (wordBytes (e.words src smod)).getD (a - z) 0 else s.rd a

/-- The place of a sub-log in memory begins with a granule. -/
def SubLog.aligned (l : SubLog) : Prop := ∀ b, l.base = some b → b % 64 = 0

/-! ## Queues -/

/-- A queue stands at a packet with these words that passes the checks of R368, and nothing makes it wait (R300, R302,
R303): a packet that waits as bar does has every earlier packet complete. Where the packet has not begun, the queue has its
turn (R310): `u` is the state in which that turn has been counted. -/
structure AtPacket (s : State) (f q : Nat) (w : List Word) (u : State) : Prop where
  turn : ((s.queue f q).begun = true ∧ u = s) ∨ ((s.queue f q).begun = false ∧ s.turn f q = some u)
  granted : s.hasQ f q = true
  skip : (s.queue f q).skip = none
  parse : (s.queue f q).parse = .pkt w
  bar : (s.queue f q).wait ≠ .bar
  launches : (s.queue f q).wait ≠ .launches
  clear : waitsBar (w.getD 0 0) = true → (s.queue f q).cleared = true ∨ s.earlierDone f q = true

/-! ## Invariants -/

/-- Applied memory is in its canonical form: addresses strictly rising, no entry that reads as an absent one. -/
def State.Inv (s : State) : Prop := Memory.wf s.mem

/-! ## Results by the rules' tables -/

namespace Ref

/-- The tail of R158: a `.w` result is the sign-extended low word. -/
def tail (w : Bool) (v : Word) : Word := if w then (v.setWidth 32).signExtend 64 else v

/-- An operand under `.w`: its low word, extended as the operation takes it. -/
def opd (u w : Bool) (v : Word) : Word :=
  if w then (if u then (v.setWidth 32).setWidth 64 else (v.setWidth 32).signExtend 64) else v

/-- A value clamped to a range (R158). -/
def sat (lo hi t : Int) : Word × BitVec 7 :=
  if hi < t then (BitVec.ofInt 64 hi, 32) else if t < lo then (BitVec.ofInt 64 lo, 32) else (BitVec.ofInt 64 t, 0)

/-- The saturated result of an exact sum, difference or product (R158). -/
def satTail (u w : Bool) (t : Int) : Word × BitVec 7 :=
  let r := match u, w with
    | false, false => sat (-2 ^ 63) (2 ^ 63 - 1) t
    | false, true => sat (-2 ^ 31) (2 ^ 31 - 1) t
    | true, false => sat 0 (2 ^ 64 - 1) t
    | true, true => sat 0 (2 ^ 32 - 1) t
  (tail w r.1, r.2)

/-- An operand as the integer it stands for. -/
def int (u w : Bool) (v : Word) : Int := if u then (opd u w v).toNat else (opd u w v).toInt

/-- Destination and value of the wrapping two-source instructions, the logic and the shifts (R158). -/
def arith (s : State) : Instr → Option (BitVec 4 × BitVec 4 × Word)
  | .add d a b g false _ w => some (g, d, tail w (s.x a + s.x b))
  | .sub d a b g false _ w => some (g, d, tail w (s.x a - s.x b))
  | .mul d a b g false _ w => some (g, d, tail w (s.x a * s.x b))
  | .and d a b g w => some (g, d, tail w (s.x a &&& s.x b))
  | .or d a b g w => some (g, d, tail w (s.x a ||| s.x b))
  | .xor d a b g w => some (g, d, tail w (s.x a ^^^ s.x b))
  | .andn d a b g w => some (g, d, tail w (s.x a &&& ~~~ s.x b))
  | .shl d a b g w => some (g, d, tail w (s.x a <<< (if w then (s.x b).toNat % 32 else (s.x b).toNat % 64)))
  | .shr d a b g w => some (g, d, tail w (opd true w (s.x a) >>> (if w then (s.x b).toNat % 32 else (s.x b).toNat % 64)))
  | .sra d a b g w => some (g, d, tail w ((opd false w (s.x a)).sshiftRight (if w then (s.x b).toNat % 32 else (s.x b).toNat % 64)))
  | .rol d a b g w => some (g, d,
      if w then (((s.x a).setWidth 32).rotateLeft ((s.x b).toNat % 32)).signExtend 64 else (s.x a).rotateLeft ((s.x b).toNat % 64))
  | _ => none

/-- The saturating instructions (R158). -/
def satArith (s : State) : Instr → Option (BitVec 4 × BitVec 4 × Word × BitVec 7)
  | .add d a b g true u w => some (g, d, satTail u w (int u w (s.x a) + int u w (s.x b)))
  | .sub d a b g true u w => some (g, d, satTail u w (int u w (s.x a) - int u w (s.x b)))
  | .mul d a b g true u w => some (g, d, satTail u w (int u w (s.x a) * int u w (s.x b)))
  | _ => none

/-- Division and remainder (R159): all ones, or the dividend, and DZ for a zero divisor. -/
def divide (s : State) : Instr → Option (BitVec 4 × BitVec 4 × Word × BitVec 7)
  | .div d a b g u w =>
    some (g, d, if opd true w (s.x b) = 0 then (-1, 2)
      else (tail w (if u then opd true w (s.x a) / opd true w (s.x b) else (opd false w (s.x a)).sdiv (opd false w (s.x b))), 0))
  | .rem d a b g u w =>
    some (g, d, if opd true w (s.x b) = 0 then (tail w (s.x a), 2)
      else (tail w (if u then opd true w (s.x a) % opd true w (s.x b) else (opd false w (s.x a)).srem (opd false w (s.x b))), 0))
  | _ => none

/-- Bits `lo` to `lo + n - 1` of a value, in the low places. -/
def slice (v : Word) (lo n : Nat) : Word := (v >>> lo) &&& ~~~ (BitVec.allOnes 64 <<< n)

/-- The width that an EXTR or INS descriptor names (R162). -/
def fieldWidth (desc : Word) : Nat := Nat.min (slice desc 8 7).toNat (64 - (slice desc 0 6).toNat)

/-- The high product, counts, bit fields, selection, smaller and larger value (R158, R160 to R163). -/
def bitwise (s : State) : Instr → Option (BitVec 4 × BitVec 4 × Word)
  | .mulh d a b g u => some (g, d,
      if u then (((s.x a).setWidth 128 * (s.x b).setWidth 128) >>> 64).setWidth 64
      else (((s.x a).signExtend 128 * (s.x b).signExtend 128) >>> 64).setWidth 64)
  | .min d a b g u w => some (g, d, tail w
      (if (if u then (opd u w (s.x b)).ult (opd u w (s.x a)) else (opd u w (s.x b)).slt (opd u w (s.x a))) then s.x b else s.x a))
  | .max d a b g u w => some (g, d, tail w
      (if (if u then (opd u w (s.x a)).ult (opd u w (s.x b)) else (opd u w (s.x a)).slt (opd u w (s.x b))) then s.x b else s.x a))
  | .clz d a g => some (g, d, BitVec.ofNat 64 (((List.range 64).find? fun i => (s.x a).getLsbD (63 - i)).getD 64))
  | .popc d a g => some (g, d, BitVec.ofNat 64 ((List.range 64).countP fun i => (s.x a).getLsbD i))
  | .extr d a b g => some (g, d,
      let pos := (slice (s.x b) 0 6).toNat
      let n := fieldWidth (s.x b)
      let f := slice (s.x a) pos n
      if (s.x b).getLsbD 15 && n != 0 && (s.x a).getLsbD (pos + n - 1) then f ||| (BitVec.allOnes 64 <<< n) else f)
  | .ins d a b g => some (g, d,
      let pos := (slice (s.x b) 0 6).toNat
      let mask := (~~~ (BitVec.allOnes 64 <<< fieldWidth (s.x b))) <<< pos
      (s.x d &&& ~~~ mask) ||| ((s.x a <<< pos) &&& mask))
  | .sel d a b g c => some (g, d, if s.pr c then s.x a else s.x b)
  | _ => none

/-- The new value of an atomic with an integer operation (R213) on 64 or 32 bits: old value, operand, comparand. -/
def atomic (op : Nat) (wide : Bool) (old b e : Nat) : Option Nat :=
  let W := if wide then 64 else 32
  let x := BitVec.ofNat W old
  let y := BitVec.ofNat W b
  match op with
  | 0 => some (x + y).toNat
  | 1 => some (if y.slt x then y else x).toNat
  | 2 => some (if x.slt y then y else x).toNat
  | 3 => some (if y.ult x then y else x).toNat
  | 4 => some (if x.ult y then y else x).toNat
  | 5 => some (x &&& y).toNat
  | 6 => some (x ||| y).toNat
  | 7 => some (x ^^^ y).toNat
  | 8 => some y.toNat
  | 9 => some (if x = BitVec.ofNat W e then y else x).toNat
  | _ => none

/-- The conditions of R164 on 64-bit values. -/
def cond (c : BitVec 4) (a b : Word) : Bool :=
  match c.toNat with
  | 0 => a == b
  | 1 => a != b
  | 2 => a.slt b
  | 3 => b.sle a
  | 4 => a.ult b
  | 5 => b.ule a
  | 6 => a.sle b
  | 7 => b.slt a
  | 8 => a.ule b
  | 9 => b.ult a
  | 10 => (a &&& b) != 0
  | _ => (a &&& b) == 0

/-- The guard, destination predicate and value of CMP and PLOG (R164, R166). -/
def compare (s : State) : Instr → Option (BitVec 4 × BitVec 3 × Bool)
  | .cmp d a b g c => some (g, d, cond c (s.x a) (s.x b))
  | .cmpi d a c i => some (0, d, cond c (s.x a) (i.signExtend 64))
  | .plog d a b g l => some (g, d, l.getLsbD ((if s.pr a then 2 else 0) + (if s.pr b then 1 else 0)))
  | _ => none

/-- The immediate instructions (R167). -/
def immediate (s : State) : Instr → Option (BitVec 4 × Word)
  | .addi d a i => some (d, s.x a + i.signExtend 64)
  | .andi d a i => some (d, s.x a &&& i.setWidth 64)
  | .ori d a i => some (d, s.x a ||| i.setWidth 64)
  | .xori d a i => some (d, s.x a ^^^ i.setWidth 64)
  | .shfi d a k n => some (d,
      match k.toNat with
      | 0 => s.x a <<< n.toNat
      | 1 => s.x a >>> n.toNat
      | 2 => (s.x a).sshiftRight n.toNat
      | _ => (s.x a).rotateLeft n.toNat)
  | .movi d i => some (d, i.setWidth 64)
  | .movk d h i => some (d,
      (s.x d &&& ~~~ ((0xFFFF : Word) <<< (16 * h.toNat))) ||| ((i.setWidth 64 : Word) <<< (16 * h.toNat)))
  | _ => none

/-- A guard holds (R138): its predicate, `p0` being true, xor its negate bit. -/
def holds (s : State) (g : BitVec 4) : Bool := xor (s.pr (g.setWidth 3)) (g.getLsbD 3)

/-- A guarded instruction that passes its decode checks and whose guard, or predicate, does not hold (R138, R140). -/
def off (s : State) : Instr → Bool
  | .add _ _ _ g _ _ _ => !holds s g
  | .sub _ _ _ g _ _ _ => !holds s g
  | .mul _ _ _ g _ _ _ => !holds s g
  | .mulh _ _ _ g _ => !holds s g
  | .div _ _ _ g _ _ => !holds s g
  | .rem _ _ _ g _ _ => !holds s g
  | .and _ _ _ g _ => !holds s g
  | .or _ _ _ g _ => !holds s g
  | .xor _ _ _ g _ => !holds s g
  | .andn _ _ _ g _ => !holds s g
  | .shl _ _ _ g _ => !holds s g
  | .shr _ _ _ g _ => !holds s g
  | .sra _ _ _ g _ => !holds s g
  | .rol _ _ _ g _ => !holds s g
  | .min _ _ _ g _ _ => !holds s g
  | .max _ _ _ g _ _ => !holds s g
  | .clz _ _ g => !holds s g
  | .popc _ _ g => !holds s g
  | .extr _ _ _ g => !holds s g
  | .ins _ _ _ g => !holds s g
  | .sel _ _ _ g _ => !holds s g
  | .cmp _ _ _ g _ => !holds s g
  | .plog _ _ _ g _ => !holds s g
  | .fadd _ _ _ g _ _ => !holds s g
  | .fsub _ _ _ g _ _ => !holds s g
  | .fmul _ _ _ g _ _ => !holds s g
  | .fma _ _ _ g _ _ => !holds s g
  | .fdiv _ _ _ g _ _ => !holds s g
  | .fsqrt _ _ g _ _ => !holds s g
  | .fmin _ _ _ g _ _ => !holds s g
  | .fmax _ _ _ g _ _ => !holds s g
  | .fcmp _ _ _ g _ _ => !holds s g
  | .fcvt _ _ g _ _ => !holds s g
  | .fclass _ _ g _ => !holds s g
  | .fld _ _ _ _ p => !s.pr p
  | .fst _ _ _ p => !s.pr p
  | .fclr _ _ p => !s.pr p
  | .ftst _ _ _ p => !s.pr p
  | .send _ c k _ _ g => s.destOk k.toNat c && !holds s g
  | .sendd _ _ _ _ _ g => !holds s g
  | .mkc _ c k f g => (f || s.destOk k.toNat c) && !holds s g
  | .swch _ _ _ _ _ g => !holds s g
  | .falloc _ _ _ _ g => !holds s g
  | .ffree _ g => !holds s g
  | .join _ _ _ p => !s.pr p
  | .brf g o => decide (s.fir.ia + o.toNat ≤ s.fir.hdr + 1 + s.fhdr.length) && !holds s g
  | .fend g => !holds s g
  | .tnew _ _ g _ => !holds s g
  | .tseal _ g => !holds s g
  | .tdup _ _ g => !holds s g
  | .tdrop _ g => !holds s g
  | .tinfo _ _ g _ => !holds s g
  | .hld _ _ _ p => !s.pr p
  | .hst _ _ _ _ _ _ g => !holds s g
  | .tchk _ _ g => !holds s g
  | .ldg _ _ _ p => !s.pr p
  | .stg _ _ c g => c != 0 && !holds s g
  | .ldch _ _ _ p => !s.pr p
  | .amo _ _ _ p => !s.pr p
  | .rel _ _ g => !holds s g
  | .acq _ _ g => !holds s g
  | .acqa _ _ g => !holds s g
  | .bars _ _ _ _ g => !holds s g
  | .bara _ _ _ g => !holds s g
  | .watch _ _ g => !holds s g
  | .wdrop _ g => !holds s g
  | .time _ g => !holds s g
  | .cropen _ _ g => !holds s g
  | .crclose _ _ g => !holds s g
  | .mfc _ g _ => !holds s g
  | .mtc _ g _ => !holds s g
  | .scrubrd _ g _ => !holds s g
  | .qpost _ _ g => !holds s g
  | .perf _ g _ => !holds s g
  | .tload _ _ g => !holds s g
  | .tstore _ _ _ g => !holds s g
  | .tcopy _ _ _ g => !holds s g
  | .tgath _ _ _ g => !holds s g
  | .tscat _ _ _ g => !holds s g
  | .tfill _ _ g => !holds s g
  | .mwld _ _ _ _ g => !holds s g
  | .macc _ _ _ _ g => !holds s g
  | .mrun _ _ _ _ g => !holds s g
  | .mdrain _ _ _ g => !holds s g
  | .rset _ _ g => !holds s g
  | .rfeed _ _ _ g => !holds s g
  | .vrun _ _ _ g => !holds s g
  | _ => false

/-- Register-only instructions: NOP to FCLASS, and MOVK. -/
def registerOnly : Instr → Bool
  | .nop _ => true
  | .add _ _ _ _ _ _ _ => true
  | .sub _ _ _ _ _ _ _ => true
  | .mul _ _ _ _ _ _ _ => true
  | .mulh _ _ _ _ _ => true
  | .div _ _ _ _ _ _ => true
  | .rem _ _ _ _ _ _ => true
  | .and _ _ _ _ _ => true
  | .or _ _ _ _ _ => true
  | .xor _ _ _ _ _ => true
  | .andn _ _ _ _ _ => true
  | .shl _ _ _ _ _ => true
  | .shr _ _ _ _ _ => true
  | .sra _ _ _ _ _ => true
  | .rol _ _ _ _ _ => true
  | .min _ _ _ _ _ _ => true
  | .max _ _ _ _ _ _ => true
  | .clz _ _ _ => true
  | .popc _ _ _ => true
  | .extr _ _ _ _ => true
  | .ins _ _ _ _ => true
  | .sel _ _ _ _ _ => true
  | .cmp _ _ _ _ _ => true
  | .plog _ _ _ _ _ => true
  | .addi _ _ _ => true
  | .andi _ _ _ => true
  | .ori _ _ _ => true
  | .xori _ _ _ => true
  | .shfi _ _ _ _ => true
  | .cmpi _ _ _ _ => true
  | .movi _ _ => true
  | .movk _ _ _ => true
  | .fadd _ _ _ _ _ _ => true
  | .fsub _ _ _ _ _ _ => true
  | .fmul _ _ _ _ _ _ => true
  | .fma _ _ _ _ _ _ => true
  | .fdiv _ _ _ _ _ _ => true
  | .fsqrt _ _ _ _ _ => true
  | .fmin _ _ _ _ _ _ => true
  | .fmax _ _ _ _ _ _ => true
  | .fcmp _ _ _ _ _ _ => true
  | .fcvt _ _ _ _ _ => true
  | .fclass _ _ _ _ => true
  | _ => false

/-- The instructions that put something on the network, so that back-pressure can hold them (R157). -/
def sending : Instr → Bool
  | .send _ _ _ _ _ _ => true
  | .swch _ _ _ _ _ _ => true
  | .sendd _ _ _ _ _ _ => true
  | .falloc _ _ _ _ _ => true
  | .ffree _ _ => true
  | .tdup _ _ _ => true
  | .tdrop _ _ => true
  | .hld _ _ _ _ => true
  | .hst _ _ _ _ _ _ _ => true
  | .bara _ _ _ _ => true
  | .bars _ _ _ _ _ => true
  | .ldg _ _ _ _ => true
  | .ldch _ _ _ _ => true
  | .amo _ _ _ _ => true
  | .stg _ _ _ _ => true
  | .rel _ _ _ => true
  | .acq _ _ _ => true
  | .acqa _ _ _ => true
  | .crclose _ _ _ => true
  | .qpost _ _ _ => true
  | .watch _ _ _ => true
  | _ => false

/-- The sign of a float's bits. -/
def neg (f : Fmt) (b : Nat) : Bool := decide (2 ^ (f.width - 1) ≤ b)

/-- The magnitude bits of a float. -/
def mag (f : Fmt) (b : Nat) : Nat := b % 2 ^ (f.width - 1)

/-- The magnitude of an infinity: exponent all ones, fraction zero. -/
def infMag (f : Fmt) : Nat := (2 ^ f.ebits - 1) * 2 ^ f.frac

/-- A NaN by its bits (R107). -/
def isNan (f : Fmt) (b : Nat) : Bool := decide (infMag f < mag f b)

/-- An infinity by its bits. -/
def isInf (f : Fmt) (b : Nat) : Bool := decide (mag f b = infMag f)

/-- A zero by its bits. -/
def isZero (f : Fmt) (b : Nat) : Bool := decide (mag f b = 0)

/-- The bit of FCLASS's result for a float's bits (R174). -/
def clsBit (f : Fmt) (b : Nat) : Nat :=
  let n := decide (2 ^ (f.width - 1) ≤ b)
  if infMag f < mag f b then (if f.snan && decide (b / 2 ^ (f.frac - 1) % 2 = 0) then 8 else 9)
  else if mag f b = infMag f then (if n then 0 else 7)
  else if mag f b = 0 then (if n then 3 else 4)
  else if mag f b < 2 ^ f.frac then (if n then 2 else 5)
  else (if n then 1 else 6)

/-- The bits of a finite value: none lies above the largest one of the format (R104). -/
def isFin (f : Fmt) (b : Nat) : Bool := decide (mag f b ≤ f.max)

/-- A signalling NaN of a format that has them (R107): the top fraction bit is 0. -/
def isSig (f : Fmt) (b : Nat) : Bool := f.snan && isNan f b && decide (b / 2 ^ (f.frac - 1) % 2 = 0)

/-- NV where something is so. -/
def nv (x : Bool) : BitVec 7 := if x then 1 else 0

/-- A zero of a sign. -/
def signed (f : Fmt) (n : Bool) : Nat := if n then 2 ^ (f.width - 1) else 0

/-- A finite value as a multiple of the smallest positive value of its format (R104, R105). -/
def units (f : Fmt) (b : Nat) : Int :=
  let n : Nat := if mag f b < 2 ^ f.frac then mag f b else (2 ^ f.frac + mag f b % 2 ^ f.frac) * 2 ^ (mag f b / 2 ^ f.frac - 1)
  if neg f b then -(n : Int) else n

/-- The number of those in one. -/
def unit (f : Fmt) : Nat := 2 ^ (f.bias + f.frac - 1)

/-- `y` is what the nonzero exact value of n / d units rounds to (R124): mode 0 to the nearest, ties to the even one, 1 toward zero, 2 up,
3 down. -/
def rounds (f : Fmt) (m : Nat) (n : Int) (d : Nat) (y : Nat) : Prop :=
  y < 2 ^ f.width ∧ isFin f y = true ∧ neg f y = decide (n < 0) ∧
  ∀ z, z < 2 ^ f.width → isFin f z = true →
    match m with
    | 0 => |units f y * d - n| ≤ |units f z * d - n| ∧ (|units f y * d - n| = |units f z * d - n| → units f y ≠ units f z → y % 2 = 0)
    | 1 => |units f y| * d ≤ |n| ∧ (|units f z| * d ≤ |n| → |units f z| ≤ |units f y|)
    | 2 => n ≤ units f y * d ∧ (n ≤ units f z * d → units f y ≤ units f z)
    | _ => units f y * d ≤ n ∧ (units f z * d ≤ n → units f z ≤ units f y)

/-- The number of units in one ulp at a magnitude of n / d units. -/
def ulp (f : Fmt) (n d : Nat) : Nat := if n < 2 ^ (f.frac + 1) * d then 1 else 2 ^ (Nat.log2 (n / d) - f.frac)

/-- `y` is what the nonzero exact value of n / d units rounds to with the draw `x` (R126): the largest magnitude not above |n / d| and
x / 2^16 of an ulp there. -/
def drawsTo (f : Fmt) (x : Nat) (n : Int) (d y : Nat) : Prop :=
  y < 2 ^ f.width ∧ isFin f y = true ∧ neg f y = decide (n < 0) ∧
  ∀ z, z < 2 ^ f.width → isFin f z = true →
    |units f y| * d * 2 ^ 16 ≤ |n| * 2 ^ 16 + x * ulp f n.natAbs d * d ∧
    (|units f z| * d * 2 ^ 16 ≤ |n| * 2 ^ 16 + x * ulp f n.natAbs d * d → |units f z| ≤ |units f y|)

/-- The value after the largest one, were there a larger exponent, in units (R127). -/
def past (f : Fmt) : Int := units f f.max + 2 ^ (f.max / 2 ^ f.frac - 1)

/-- A result and its flags for the exact value of n / d units (R127, R170): rounded where it is in range, by the mode or, in mode 4, with
the draw `x`; NX where it is inexact, UF with it where it is tiny; `big` where it overflows. -/
def deliveredAs (f : Fmt) (m x : Nat) (n : Int) (d big : Nat) (r : Nat × BitVec 7) : Prop :=
  n ≠ 0 →
  (|n| ≤ units f f.max * d →
    (m = 4 → drawsTo f x n d r.1 ∧ r.2 = if units f r.1 * d = n then 0 else if |units f r.1| < 2 ^ f.frac then 24 else 16) ∧
    (m < 4 → rounds f m n d r.1 ∧
      (2 ^ f.frac * d ≤ |n| → r.2 = if units f r.1 * d = n then 0 else 16) ∧
      (|n| * 2 ^ (f.frac + 1) ≤ (2 ^ (f.frac + 1) - 1) * 2 ^ f.frac * d → r.2 = if units f r.1 * d = n then 0 else 24))) ∧
  (past f * d ≤ |n| → r = (big, 20))

/-- The largest finite value of a sign. -/
def largest (f : Fmt) (n : Int) : Nat := signed f (decide (n < 0)) + f.max

/-- The same of an operation of R170, whose overflow gives an infinity or the largest finite value by the mode. -/
def delivered (f : Fmt) (m x : Nat) (n : Int) (d : Nat) (r : Nat × BitVec 7) : Prop :=
  deliveredAs f m x n d
    (if m == 0 || (m == 2 && decide (0 < n)) || (m == 3 && decide (n < 0)) then f.infBits (decide (n < 0)) else largest f n) r

/-- What `round_a48` makes of the nonzero exact value of n / d units (R111): to the nearest with no flag, or from the middle between the
largest value and 2^256 on an infinity with OF. -/
def sum48 (n : Int) (d : Nat) (r : Nat × BitVec 7) : Prop :=
  if |n| ≤ units a48 a48.max * d then rounds a48 0 n d r.1 ∧ r.2 = 0
  else if 2 * |n| < (units a48 a48.max + past a48) * d then r = (largest a48 n, 0)
  else r = (a48.infBits (decide (n < 0)), 4)

/-- An exact value (R105): a NaN, which may signal, an infinity, or a sign and a magnitude of n / d. -/
inductive Val where
  | nan (sig : Bool)
  | inf (neg : Bool)
  | num (neg : Bool) (n d : Nat)
  deriving DecidableEq, Repr

/-- The value of a float's bits. -/
def val (f : Fmt) (b : Nat) : Val :=
  if f.max < mag f b then
    (if f.inf && decide (mag f b = infMag f) then .inf (neg f b) else .nan (f.snan && decide (b / 2 ^ (f.frac - 1) % 2 = 0)))
  else .num (neg f b) (units f b).natAbs (unit f)

/-- An exact product (R114): zero times an infinity is a NaN that sets NV. -/
def times : Val → Val → Val
  | .nan s, .nan t => .nan (s || t)
  | .nan s, _ => .nan s
  | _, .nan t => .nan t
  | .inf s, .inf t => .inf (s != t)
  | .inf s, .num t n _ => if n = 0 then .nan true else .inf (s != t)
  | .num s n _, .inf t => if n = 0 then .nan true else .inf (s != t)
  | .num s n d, .num t k e => .num (s != t) (n * k) (d * e)

/-- The same with a factor that may be missing, which is 1. -/
def scaled (p : Val) : Option Val → Val
  | none => p
  | some q => times p q

/-- The value of a scale (R106, R116): E8M0 or FP32. -/
def scale (fmt b : Nat) : Val := if fmt = 14 then (if b = 255 then .nan false else .num false (2 ^ b) (2 ^ 127)) else val fp32 b

/-- Element (k, n) of a weight bank (R119, R246): of a codebook bank by its code, sign bits 0 to 6 and their parity, and the magnitude
code of its entry in halves. -/
def weight (b : Bank) (k n : Nat) : Val :=
  if b.fmt = 8 then
    let code := (b.w.getD (k / 8 * 64 + n) 0).toNat
    let m := (b.codebook.getD (code / 2 ^ 7 % 512) 0).toNat / 16 ^ (k % 8) % 16
    let minus := if k % 8 = 7 then decide (((List.range 7).countP fun i => code.testBit i) % 2 = 1) else code.testBit (k % 8)
    .num (minus && m != 0) m 2
  else match fmtOf b.fmt with
    | some f => val f (b.w.getD (k * 64 + n) 0).toNat
    | none => .num false 0 1

/-- The scale of that element (R115). -/
def weightScale (b : Bank) (k n : Nat) : Option Val :=
  let at' := fun (i : Nat) => some (scale b.scaleFmt (b.scales.getD i 0).toNat)
  match b.mode with | 0 => none | 1 => at' (k / 32 * 64 + n) | 2 => at' n | _ => at' 0

/-- An A48 word plus an exact value (R111, R121), with the flags of the value. -/
def plus48 (a : Nat) (p : Val) (r : Nat × BitVec 7) : Prop :=
  match p with
  | .nan s => r = (a48.nanBits, nv s)
  | .inf s => r = if isNan a48 a then (a48.nanBits, 0) else if isInf a48 a && neg a48 a != s then (a48.nanBits, 1) else (a48.infBits s, 0)
  | .num s n d =>
    let v : Int := units a48 a * d + (if s then -(n : Int) else n) * unit a48
    if isNan a48 a then r = (a48.nanBits, 0)
    else if isInf a48 a then r = (a48.infBits (neg a48 a), 0)
    else if v = 0 then r = (signed a48 (neg a48 a && s), 0)
    else sum48 v d r

/-- `sat48` (R112). -/
def clamp48 (x : Int) : Int × BitVec 7 :=
  if 2 ^ 47 - 1 < x then (2 ^ 47 - 1, 32) else if x < -(2 ^ 47 - 1) then (-(2 ^ 47 - 1), 32) else (x, 0)

/-- The integer to which n / d rounds (R124). -/
def roundInt (m : Nat) (n : Int) (d : Nat) : Int :=
  match m with
  | 0 => let q := n / d; let r := n % d
    if 2 * r < d then q else if d < 2 * r then q + 1 else if q % 2 = 0 then q else q + 1
  | 1 => if n < 0 then -(-n / d) else n / d
  | 2 => -(-n / d)
  | _ => n / d

/-- The integer to which n / d rounds with a draw `x` (R126). -/
def drawnInt (x : Nat) (n : Int) (d : Nat) : Int :=
  let k : Int := (|n| * 2 ^ 16 + x * d) / (d * 2 ^ 16)
  if n < 0 then -k else k

/-- Sign and magnitude as one integer. -/
def key (f : Fmt) (b : Nat) : Int := if neg f b then -(mag f b : Int) else mag f b

/-- The engine commands with a record (R231 to R233): engine command, record register, reply register, guard, high-priority
bit, keep bit, record slots read, and the record slots that hold handles with their roles. -/
def engine : Instr → Option (EngOp × BitVec 4 × BitVec 4 × BitVec 4 × Bool × Bool × Nat × List (Nat × Role))
  | .tload a c g => some (.tload, a, c, g, false, false, 5, [])
  | .tstore a c k g => some (.tstore, a, c, g, false, k, 4, [(0, .source)])
  | .tcopy a c k g => some (.tcopy, a, c, g, false, k, 3, [(0, .source)])
  | .tgath a c k g => some (.tgath, a, c, g, false, k, 4, [(1, .source), (3, .dest)])
  | .tscat a c k g => some (.tscat, a, c, g, false, k, 4, [(1, .source), (3, .source)])
  | .tfill a c g => some (.tfill, a, c, g, false, false, 2, [])
  | .mwld a c h k g => some (.mwld, a, c, g, h, k, 4, [(0, .source), (1, .source), (2, .source)])
  | .macc a c h k g => some (.macc, a, c, g, h, k, 3, [(2, .source)])
  | .mrun a c h k g => some (.mrun, a, c, g, h, k, 4, [(0, .source), (3, .source)])
  | .mdrain a c h g => some (.mdrain, a, c, g, h, false, 3, [])
  | .rset a c g => some (.rset, a, c, g, false, false, 4, [])
  | .rfeed a c k g => some (.rfeed, a, c, g, false, k, 2, [(0, .source)])
  | _ => none

/-- A generator of R125 stepped `n` times. -/
def stepped (x : BitVec 32) : Nat → BitVec 32
  | 0 => x
  | n + 1 => stepped ((let y := x ^^^ (x <<< 13); let z := y ^^^ (y >>> 17); z ^^^ (z <<< 5))) n

/-- The draw of element `j` of width `w`: its lane's generator is stepped once for each element of the lane up to it. -/
def drawn (g : Vector (BitVec 32) 64) (w j : Nat) : Nat := (stepped (g.toList.getD (j * w / 32) 0) (j % (32 / w) + 1)).toNat / 2 ^ 16

/-- Elements of the first `n` of width `w` that lie in a lane. -/
def inLane (w n l : Nat) : Nat := (List.range n).countP fun j => j * w / 32 == l

/-- The rounding mode of a vector word (R139). -/
def vmode (s : State) (r : BitVec 4) : Nat := if r = 0 then s.vcmd.rmode.toNat else r.toNat - 8

/-- The flags of the unmasked ones of `n` elements together. -/
def flags (n : Nat) (on : Nat → Bool) (f : Nat → BitVec 7) : BitVec 7 :=
  (List.range n).foldl (fun a j => if on j then a ||| f j else a) 0

/-- Node `i` of level `n` of the tree of R123 over elements `x`; `f` combines two nodes into position `i` of the level above `n`. -/
def tree (f : Nat → Nat → Nat → Nat → Nat × BitVec 7) (x : Nat → Nat) : Nat → Nat → Nat
  | 0, i => x i
  | n + 1, i => (f n i (tree f x n (2 * i)) (tree f x n (2 * i + 1))).1

/-- The flags of the lowest `h` levels of that tree over `e` elements. -/
def treeFlags (f : Nat → Nat → Nat → Nat → Nat × BitVec 7) (x : Nat → Nat) (e : Nat) : Nat → BitVec 7
  | 0 => 0
  | n + 1 => treeFlags f x e n |||
      flags (e / 2 ^ (n + 1)) (fun _ => true) fun i => (f n i (tree f x n (2 * i)) (tree f x n (2 * i + 1))).2

/-- The draws that lane `l` has made when the lowest `h` levels of the tree over `e` elements of width `w` are done (R125). -/
def treeDraws (w e l : Nat) : Nat → Nat
  | 0 => 0
  | n + 1 => treeDraws w e l n + inLane w (e / 2 ^ (n + 1)) l

/-- The running value of a scan at element `j` (R123); `f` combines it with element `j + 1`. -/
def running (f : Nat → Nat → Nat → Nat × BitVec 7) (x : Nat → Nat) : Nat → Nat
  | 0 => x 0
  | j + 1 => (f (j + 1) (running f x j) (x (j + 1))).1

/-- The `n`-th draw of a lane's generator, counted from 1. -/
def drawNo (g : Vector (BitVec 32) 64) (l n : Nat) : Nat := (stepped (g.toList.getD l 0) n).toNat / 2 ^ 16

/-- The operations of VRED and VSCAN (R286) in a class and a mode: element width, identity, and the result of a draw and two values. -/
def reduction (o : Nat) (c : BitVec 2) (m : Nat) : Nat × Nat × (Nat → Nat → Nat → Nat × BitVec 7) :=
  let f := floatOf c
  let w := 32 / 2 ^ c.toNat
  let s := fun (x : Nat) => (BitVec.ofNat w x).toInt
  match o with
  | 0 => (f.width, 2 ^ (f.width - 1), fun x a b => f.add m x a b)
  | 1 => (f.width, f.infBits true, fun _ a b => f.minMax true a b)
  | 2 => (f.width, f.infBits false, fun _ a b => f.minMax false a b)
  | 3 => (w, 0, fun _ a b => ((a + b) % 2 ^ w, 0))
  | 4 => (w, 2 ^ (w - 1), fun _ a b => ((if s a < s b then b else a) % 2 ^ w, 0))
  | 5 => (w, 2 ^ (w - 1) - 1, fun _ a b => ((if s b < s a then b else a) % 2 ^ w, 0))
  | 6 => (w, 0, fun _ a b => (Nat.max a b % 2 ^ w, 0))
  | _ => (w, 2 ^ w - 1, fun _ a b => (Nat.min a b % 2 ^ w, 0))

/-- The draw for the `k`-th rounded part, real or imaginary, of complex element `j` (R125): a C32 element has a lane for each part, a
CBF16 element one for both. -/
def partDraw (g : Vector (BitVec 32) 64) (n j k : Nat) (im : Bool) : Nat :=
  if n = 32 then drawNo g (2 * j + im.toNat) (k + 1) else drawNo g j (2 * k + im.toNat + 1)

/-- The scale byte of a block for a target's emax (R284). -/
def blockScale (emax : Int) (es : List Nat) : Nat × BitVec 7 :=
  if es.any (fun b => isNan fp32 b || isInf fp32 b) then (255, 1)
  else
    let m := es.foldl (fun (n b : Nat) => Nat.max n (units fp32 b).natAbs) 0
    if m = 0 then (0, 0) else ((min (max ((Nat.log2 m : Int) - 149 - emax + 127) 0) 254).toNat, 0)

/-- An integer element as its class reads it. -/
def elInt (w : Nat) (u : Bool) (x : Nat) : Int := if u then (x : Int) else (BitVec.ofNat w x).toInt

/-- The two-source vector integer instructions (R277) on elements x, y and the old destination z: the exact value. -/
def vexact (i : Instr) (w x y z : Nat) : Option (BitVec 5 × BitVec 5 × BitVec 5 × BitVec 3 × BitVec 2 × Bool × Bool × Int) :=
  let e := fun u v => elInt w u v
  match i with
  | .vadd d a b k t s u => some (d, a, b, k, t, s, u, e u x + e u y)
  | .vsub d a b k t s u => some (d, a, b, k, t, s, u, e u x - e u y)
  | .vmul d a b k t s u => some (d, a, b, k, t, s, u, e u x * e u y)
  | .vmad d a b k t s u => some (d, a, b, k, t, s, u, e u x * e u y + e u z)
  | .vmin d a b k t u => some (d, a, b, k, t, false, u, if e u x ≤ e u y then e u x else e u y)
  | .vmax d a b k t u => some (d, a, b, k, t, false, u, if e u x ≤ e u y then e u y else e u x)
  | .vabs d a k t s => some (d, a, a, k, t, s, false, |e false x|)
  | _ => none

/-- The exact value narrowed (R277): wrapped, or with .sat clamped and SAT set. -/
def narrow (w : Nat) (sat u : Bool) (v : Int) : Nat × BitVec 7 :=
  let lo : Int := if u then 0 else -2 ^ (w - 1)
  let hi : Int := if u then 2 ^ w - 1 else 2 ^ (w - 1) - 1
  if sat && decide (hi < v) then ((BitVec.ofInt w hi).toNat, 32)
  else if sat && decide (v < lo) then ((BitVec.ofInt w lo).toNat, 32)
  else ((BitVec.ofInt w v).toNat, 0)

/-- The vector instructions on bits (R277) and the moves of elements (R276, R287): destination, mask, width and the
value of element `j`. -/
def vbits (s : State) (j : Nat) : Instr → Option (BitVec 5 × BitVec 3 × Nat × Nat)
  | .vand d a b k t => let w := 32 / 2 ^ t.toNat; some (d, k, w, s.el a w j &&& s.el b w j)
  | .vor d a b k t => let w := 32 / 2 ^ t.toNat; some (d, k, w, s.el a w j ||| s.el b w j)
  | .vxor d a b k t => let w := 32 / 2 ^ t.toNat; some (d, k, w, s.el a w j ^^^ s.el b w j)
  | .vshl d a b k t => let w := 32 / 2 ^ t.toNat; some (d, k, w, (BitVec.ofNat w (s.el a w j) <<< (s.el b w j % w)).toNat)
  | .vshr d a b k t u => let w := 32 / 2 ^ t.toNat; some (d, k, w,
      if u then (BitVec.ofNat w (s.el a w j) >>> (s.el b w j % w)).toNat
      else ((BitVec.ofNat w (s.el a w j)).sshiftRight (s.el b w j % w)).toNat)
  | .vmov d a k w => some (d, k, rawW w, s.el a (rawW w) j)
  | .vmovs d n k p => let v := s.vcmd.params.getD n.toNat 0; some (d, k, if p.toNat < 2 then 32 else 64,
      match p.toNat with | 0 => (v.setWidth 32).toNat | 1 => (v >>> 32).toNat | _ => v.toNat)
  | .viota d k w => some (d, k, rawW w, j % 2 ^ rawW w)
  | .vsel d a b k w => some (d, 0, rawW w, if s.on k j then s.el a (rawW w) j else s.el b (rawW w) j)
  | .vperm d a b k w => some (d, k, rawW w, s.el a (rawW w) (s.el b (rawW w) j % (2048 / rawW w)))
  | .vbcst d a k w => some (d, k, rawW w, s.el a (rawW w) 0)
  | .vsld d a b k n => some (d, k, 32, if j + n.toNat < 64 then s.el a 32 (j + n.toNat) else s.el b 32 (j + n.toNat - 64))
  | _ => none

/-- The float instructions of a kernel that may draw (R279, R282, R285): destination, mask, rounding mode, element width,
element count, whether the bits above are cleared, and the value of element `j` for a draw. -/
def vdraws (s : State) (j : Nat) : Instr → Option (BitVec 5 × BitVec 3 × Nat × Nat × Nat × Bool × (Nat → Nat × BitVec 7))
  | .vfadd d a b k t r => let f := floatOf t; let m := vmode s r
    some (d, k, m, f.width, 2048 / f.width, false, fun x => f.add m x (s.el a f.width j) (s.el b f.width j))
  | .vfsub d a b k t r => let f := floatOf t; let m := vmode s r
    some (d, k, m, f.width, 2048 / f.width, false, fun x => f.sub m x (s.el a f.width j) (s.el b f.width j))
  | .vfmul d a b k t r => let f := floatOf t; let m := vmode s r
    some (d, k, m, f.width, 2048 / f.width, false, fun x => f.mul m x (s.el a f.width j) (s.el b f.width j))
  | .vfma d a b k t r => let f := floatOf t; let m := vmode s r
    some (d, k, m, f.width, 2048 / f.width, false, fun x => f.fma m x (s.el a f.width j) (s.el b f.width j) (s.el d f.width j))
  | .vfmin d a b k t => let f := floatOf t
    some (d, k, 0, f.width, 2048 / f.width, false, fun _ => f.minMax false (s.el a f.width j) (s.el b f.width j))
  | .vfmax d a b k t => let f := floatOf t
    some (d, k, 0, f.width, 2048 / f.width, false, fun _ => f.minMax true (s.el a f.width j) (s.el b f.width j))
  | .vfabs d a k t => let f := floatOf t
    some (d, k, 0, f.width, 2048 / f.width, false, fun _ =>
      if isNan f (s.el a f.width j) then (f.nanBits, if s.el a f.width j / 2 ^ (f.frac - 1) % 2 = 0 then 1 else 0)
      else (mag f (s.el a f.width j), 0))
  | .vrcp d a k => some (d, k, 0, 32, 64, false, fun _ => vrcp (s.el a 32 j))
  | .vrsq d a k => some (d, k, 0, 32, 64, false, fun _ => vrsq (s.el a 32 j))
  | .vexp2 d a k => some (d, k, 0, 32, 64, false, fun _ => vexp2 (s.el a 32 j))
  | .vlog2 d a k => some (d, k, 0, 32, 64, false, fun _ => vlog2 (s.el a 32 j))
  | .vsin d a k => some (d, k, 0, 32, 64, false, fun _ => vsin (s.el a 32 j))
  | .vcos d a k => some (d, k, 0, 32, 64, false, fun _ => vcos (s.el a 32 j))
  | .vtanh d a k => some (d, k, 0, 32, 64, false, fun _ => vtanh (s.el a 32 j))
  | .vcvt d a c k n r => let q := vcvtOf c.toNat; let m := vmode s r
    some (d, k, m, q.2.1, 2048 / Nat.max q.1 q.2.1, true, fun x => q.2.2 m x n (s.el a q.1 j))
  | .vqnt d a b k t r => let f := (mxOf t).1; let m := vmode s r
    some (d, k, m, f.width, 64, true, fun x => quantise f m x (s.el b 8 (j / 32)) (s.el a 32 j))
  | .vtwid d a k n => some (d, k, 0, 64, 32, false, fun _ =>
      ((twiddle n.toNat (s.el a 32 j)).1 + 2 ^ 32 * (twiddle n.toNat (s.el a 32 j)).2, 0))
  | _ => none

end Ref

end Sys2Proof.Machine
end

