-- ==== Sys2Proof/Certificates/Slice0/Obligations.lean ====
section
/-! DEFINITION. The statements for the provers. Each docstring names the rules of the spec that it formalises; `Ref`
and the relations of Safety.lean say what a lane instruction leaves. -/

open Sys2Proof Sys2Proof.Machine

/-- ADD, SUB, MUL without .sat, AND, OR, XOR, ANDN, SHL, SHR, SRA and ROL write their result and nothing else (R158, R156, R138, R157, R43). -/
def Obligations.IntegerArithmeticResults : Prop :=
  ∀ (i : Instr) (s : State) (g d : BitVec 4) (v : Word), Ref.arith s i = some (g, d, v) → Ref.holds s g = true → s.plain →
    ∃ t, exec i s = .next t ∧ RegsOnly s (s.lane.regs.set d v) 0 t

/-- ADD, SUB and MUL with .sat clamp the exact result and set SAT (R158, R132, R133). -/
def Obligations.SaturatingResults : Prop :=
  ∀ (i : Instr) (s : State) (g d : BitVec 4) (v : Word) (fl : BitVec 7), Ref.satArith s i = some (g, d, v, fl) →
    Ref.holds s g = true → s.plain → ∃ t, exec i s = .next t ∧ RegsOnly s (s.lane.regs.set d v) fl t

/-- DIV and REM: truncated quotient, remainder with the dividend's sign, all ones and DZ for a zero divisor (R159). -/
def Obligations.DivisionResults : Prop :=
  ∀ (i : Instr) (s : State) (g d : BitVec 4) (v : Word) (fl : BitVec 7), Ref.divide s i = some (g, d, v, fl) →
    Ref.holds s g = true → s.plain → ∃ t, exec i s = .next t ∧ RegsOnly s (s.lane.regs.set d v) fl t

/-- MULH, MIN, MAX, CLZ, POPC, EXTR, INS and SEL write their result and nothing else (R158, R160, R161, R162, R163). -/
def Obligations.BitFieldResults : Prop :=
  ∀ (i : Instr) (s : State) (g d : BitVec 4) (v : Word), Ref.bitwise s i = some (g, d, v) → Ref.holds s g = true → s.plain →
    ∃ t, exec i s = .next t ∧ RegsOnly s (s.lane.regs.set d v) 0 t

/-- CMP, CMPI and PLOG write their predicate and nothing else (R164, R165, R166). -/
def Obligations.CompareResults : Prop :=
  ∀ (i : Instr) (s : State) (g : BitVec 4) (d : BitVec 3) (v : Bool), Ref.compare s i = some (g, d, v) → Ref.holds s g = true →
    s.plain → ∃ t, exec i s = .next t ∧ RegsOnly s (s.lane.regs.setPred d v) 0 t

/-- ADDI, ANDI, ORI, XORI, SHFI, MOVI and MOVK write their result, NOP nothing (R167, R168). -/
def Obligations.ImmediateResults : Prop :=
  (∀ (i : Instr) (s : State) (d : BitVec 4) (v : Word), Ref.immediate s i = some (d, v) → s.plain →
    ∃ t, exec i s = .next t ∧ RegsOnly s (s.lane.regs.set d v) 0 t) ∧
  (∀ (g : BitVec 4) (s : State), s.plain → ∃ t, exec (.nop g) s = .next t ∧ RegsOnly s s.lane.regs 0 t)

/-- x0 reads zero and p0 true, their writes are discarded; any other register holds what was written (R156). -/
def Obligations.RegisterFile : Prop :=
  ∀ (r : Regs) (n m : BitVec 4) (p q : BitVec 3) (v : Word) (b : Bool),
    r.get 0 = 0 ∧ r.pred 0 = true ∧
    (r.set n v).get m = (if m = n ∧ n ≠ 0 then v else r.get m) ∧ (r.setPred p b).pred q = (if q = p ∧ p ≠ 0 then b else r.pred q) ∧
    (r.set n v).pred p = r.pred p ∧ (r.setPred p b).get n = r.get n

/-- An instruction that is guarded off only lets the lane go on (R138, R140, R175). -/
def Obligations.GuardedOffNoEffect : Prop :=
  ∀ (i : Instr) (s : State), i.wf = true → Ref.off s i = true → s.lane.resume = none → s.plain →
    ∃ t, exec i s = .next t ∧ RegsOnly s s.lane.regs 0 t

/-- Integer, float and predicate instructions leave memory, slots, tiles and every other cell alone (R43, R156, R157, R133). -/
def Obligations.RegisterFrame : Prop :=
  ∀ (i : Instr) (s t : State), Ref.registerOnly i = true → s.plain → exec i s = .next t →
    (∀ a, t.rd a = s.rd a) ∧ (∀ c k, t.slot c k = s.slot c k) ∧ (∀ c, (t.cell c).heap = (s.cell c).heap) ∧
    (∀ c, c ≠ s.cur → t.cell c = s.cell c) ∧ { t.cell s.cur with ctxs := (s.cell s.cur).ctxs, lane := s.lane } = s.cell s.cur ∧
    t.net = s.net ∧ t.ops = s.ops ∧ t.insts = s.insts ∧ t.parts = s.parts ∧
    t.hbm = s.hbm ∧ t.clock = s.clock ∧
    (∀ c x, (t.cx c x).ctl.faultc = (s.cx c x).ctl.faultc ∧ (t.cx c x).ctl.rmode = (s.cx c x).ctl.rmode ∧
      (t.cx c x).ctl.seed = (s.cx c x).ctl.seed ∧ (t.cx c x).ctl.prio = (s.cx c x).ctl.prio) ∧
    (∀ c x, x ≠ s.fir.ctx → t.cx c x = s.cx c x)

/-- FADD, FSUB, FMUL, FDIV, FMA, FSQRT, FMIN, FMAX, FCMP, FCVT and FCLASS write what the format's operation delivers (R156, R169, R170, R171, R172, R173, R174, R133). -/
def Obligations.FloatResults : Prop :=
  ∀ (s : State) (d a b g r v : BitVec 4) (p : BitVec 3) (c : BitVec 4) (sz : Bool), Ref.holds s g = true → s.plain →
    let f := if sz then fp64 else fp32
    let m := if r = 0 then (if s.fcx.ctl.rmode = 4 then 0 else s.fcx.ctl.rmode.toNat) else r.toNat - 8
    let arg := fun (n : BitVec 4) => if sz then (s.x n).toNat else ((s.x n).setWidth 32).toNat
    let gives := fun (i : Instr) (y : Nat × BitVec 7) =>
      ∃ t, exec i s = .next t ∧ RegsOnly s (s.lane.regs.set d (BitVec.ofNat 64 y.1)) y.2 t
    gives (.fadd d a b g r sz) (f.add m 0 (arg a) (arg b)) ∧ gives (.fsub d a b g r sz) (f.sub m 0 (arg a) (arg b)) ∧
    gives (.fmul d a b g r sz) (f.mul m 0 (arg a) (arg b)) ∧ gives (.fdiv d a b g r sz) (f.div m 0 (arg a) (arg b)) ∧
    gives (.fma d a b g r sz) (f.fma m 0 (arg a) (arg b) (arg d)) ∧ gives (.fsqrt d a g r sz) (f.sqrt m 0 (arg a)) ∧
    gives (.fmin d a b g r sz) (f.minMax false (arg a) (arg b)) ∧ gives (.fmax d a b g r sz) (f.minMax true (arg a) (arg b)) ∧
    gives (.fclass d a g sz) (2 ^ Ref.clsBit f (arg a), 0) ∧
    (∃ t, exec (.fcvt d a g r v) s = .next t ∧
      RegsOnly s (s.lane.regs.set d (fcvt v.toNat m (s.x a)).1) (fcvt v.toNat m (s.x a)).2 t) ∧
    (∃ t, exec (.fcmp p a b g c sz) s = .next t ∧
      RegsOnly s (s.lane.regs.setPred p (f.cmp c.toNat (arg a) (arg b)).1) (f.cmp c.toNat (arg a) (arg b)).2 t)

/-- Float arithmetic and FCVT: NaN operands, infinities, zeros, and every finite result rounded once (R170, R107, R173, R124, R126, R127, R132, R279). -/
def Obligations.FloatSpecialCases : Prop :=
  ∀ (f : Fmt) (m x a b c : Nat), f ∈ [fp64, fp32, bf16, fp16] → m < 5 → x < 2 ^ 16 → a < 2 ^ f.width → b < 2 ^ f.width → c < 2 ^ f.width →
    let q := f.nanBits
    let sig := Ref.isSig f
    let nv := Ref.nv
    let nan := Ref.isNan f
    let inf := Ref.isInf f
    let zero := Ref.isZero f
    let fin := Ref.isFin f
    let neg := Ref.neg f
    let signed := Ref.signed f
    let zi := (zero a && inf b) || (inf a && zero b)
    let u := Ref.units f
    let d := Ref.unit f
    (nan a = true ∨ nan b = true →
      f.add m x a b = (q, nv (sig a || sig b)) ∧ f.sub m x a b = (q, nv (sig a || sig b)) ∧
      f.mul m x a b = (q, nv (sig a || sig b)) ∧ f.div m x a b = (q, nv (sig a || sig b))) ∧
    (nan a = true ∨ nan b = true ∨ nan c = true → f.fma m x a b c = (q, nv (sig a || sig b || sig c || zi))) ∧
    (nan a = true → f.sqrt m x a = (q, nv (sig a))) ∧
    (zi = true → f.mul m x a b = (q, 1) ∧ f.fma m x a b c = (q, 1)) ∧
    (inf a = true → nan b = false →
      f.add m x a b = (if inf b && neg b != neg a then (q, 1) else (f.infBits (neg a), 0)) ∧
      f.sub m x a b = (if inf b && neg b == neg a then (q, 1) else (f.infBits (neg a), 0)) ∧
      f.div m x a b = (if inf b then (q, 1) else (f.infBits (neg a != neg b), 0)) ∧
      f.sqrt m x a = (if neg a then (q, 1) else (f.infBits false, 0)) ∧
      (zero b = false → f.mul m x a b = (f.infBits (neg a != neg b), 0) ∧ f.mul m x b a = (f.infBits (neg a != neg b), 0))) ∧
    (inf a = false → nan a = false → inf b = true →
      f.add m x a b = (f.infBits (neg b), 0) ∧ f.sub m x a b = (f.infBits (!neg b), 0) ∧
      f.div m x a b = (signed (neg a != neg b), 0)) ∧
    (nan a = false → nan b = false → nan c = false → zi = false →
      ((inf a || inf b) = true → f.fma m x a b c =
        if inf c && neg c != (neg a != neg b) then (q, 1) else (f.infBits (neg a != neg b), 0)) ∧
      ((inf a || inf b) = false → inf c = true → f.fma m x a b c = (f.infBits (neg c), 0))) ∧
    (zero a = true → zero b = true → f.div m x a b = (q, 1)) ∧
    (fin a = true → zero a = false → zero b = true → f.div m x a b = (f.infBits (neg a != neg b), 2)) ∧
    (zero a = true → f.sqrt m x a = (a, 0)) ∧
    (neg a = true → zero a = false → nan a = false → f.sqrt m x a = (q, 1)) ∧
    (fin a = true → fin b = true →
      Ref.delivered f m x (u a + u b) 1 (f.add m x a b) ∧ Ref.delivered f m x (u a - u b) 1 (f.sub m x a b) ∧
      Ref.delivered f m x (u a * u b) d (f.mul m x a b) ∧
      (u a + u b = 0 → f.add m x a b = (signed (if neg a == neg b then neg a else m == 3), 0)) ∧
      (u a - u b = 0 → f.sub m x a b = (signed (if neg a != neg b then neg a else m == 3), 0)) ∧
      (u a * u b = 0 → f.mul m x a b = (signed (neg a != neg b), 0)) ∧
      (zero b = false → m < 4 → Ref.delivered f m x (if neg b then -(u a * d) else u a * d) (u b).natAbs (f.div m x a b) ∧
        (zero a = true → f.div m x a b = (signed (neg a != neg b), 0))) ∧
      (fin c = true → Ref.delivered f m x (u a * u b + u c * d) d (f.fma m x a b c) ∧
        (u a * u b + u c * d = 0 →
          f.fma m x a b c = (signed (if (neg a != neg b) == neg c then neg c else m == 3), 0)))) ∧
    (m < 4 → fin a = true → zero a = false → neg a = false →
      let y := u (f.sqrt m x a).1
      Ref.neg f (f.sqrt m x a).1 = false ∧ (f.sqrt m x a).2 = (if y * y = u a * d then 0 else 16) ∧
      ∀ z, z < 2 ^ f.width → fin z = true → neg z = false →
        match m with
        | 0 => (y < u z → 4 * (u a * d) ≤ (y + u z) * (y + u z)) ∧ (u z < y → (y + u z) * (y + u z) ≤ 4 * (u a * d))
        | 2 => u a * d ≤ y * y ∧ (u a * d ≤ u z * u z → y ≤ u z)
        | _ => y * y ≤ u a * d ∧ (u z * u z ≤ u a * d → u z ≤ y)) ∧
    (m < 4 → ∀ (w : Word) (v : Nat),
      let r : Nat × BitVec 7 := ((fcvt v m w).1.toNat, (fcvt v m w).2)
      (∀ src dst, (v, src, dst) ∈ [(0, fp32, fp64), (1, fp64, fp32), (12, fp32, bf16), (13, fp32, fp16), (14, bf16, fp32), (15, fp16, fp32)] →
        let s := w.toNat % 2 ^ src.width
        (Ref.isNan src s = true → r = (dst.nanBits, nv (Ref.isSig src s))) ∧
        (Ref.isInf src s = true → r = (dst.infBits (Ref.neg src s), 0)) ∧
        (Ref.isZero src s = true → r = (if Ref.neg src s then 2 ^ (dst.width - 1) else 0, 0)) ∧
        (Ref.isFin src s = true → Ref.deliveredAs dst m 0 (Ref.units src s * Ref.unit dst) (Ref.unit src) (Ref.largest dst (Ref.units src s)) r)) ∧
      (∀ src n un, (v, src, n, un) ∈ [(2, fp32, 64, false), (3, fp64, 64, false), (4, fp32, 64, true), (5, fp64, 64, true),
          (6, fp32, 32, false), (7, fp64, 32, false)] →
        let s := w.toNat % 2 ^ src.width
        let lo : Int := if un then 0 else -2 ^ (n - 1)
        let hi : Int := if un then 2 ^ n - 1 else 2 ^ (n - 1) - 1
        let k := Ref.roundInt m (Ref.units src s) (Ref.unit src)
        (Ref.isNan src s = true → fcvt v m w = (0, 1)) ∧
        (Ref.isInf src s = true → fcvt v m w = (BitVec.ofInt 64 (if Ref.neg src s then lo else hi), 33)) ∧
        (Ref.isFin src s = true → fcvt v m w = if hi < k then (BitVec.ofInt 64 hi, 33) else if k < lo then (BitVec.ofInt 64 lo, 33)
          else (BitVec.ofInt 64 k, if k * Ref.unit src = Ref.units src s then 0 else 16))) ∧
      (∀ dst n, (v, dst, n) ∈ [(8, fp32, w.toInt), (9, fp64, w.toInt), (10, fp32, (w.toNat : Int)), (11, fp64, (w.toNat : Int))] →
        Ref.deliveredAs dst m 0 (n * Ref.unit dst) 1 (Ref.largest dst n) r ∧ (n = 0 → r = (0, 0))))

/-- FCMP orders floats as their sign and magnitude do; FMIN and FMAX choose by that order; NaN operands of the three (R171, R172, R107). -/
def Obligations.FloatOrder : Prop :=
  ∀ (f : Fmt) (a b : Nat), f ∈ [fp64, fp32, bf16, fp16] → a < 2 ^ f.width → b < 2 ^ f.width →
    let fl := Ref.nv (Ref.isSig f a || Ref.isSig f b)
    (Ref.isNan f a = false → Ref.isNan f b = false →
      f.cmp 0 a b = (decide (Ref.key f a = Ref.key f b), 0) ∧ f.cmp 1 a b = (decide (Ref.key f a ≠ Ref.key f b), 0) ∧
      f.cmp 2 a b = (decide (Ref.key f a < Ref.key f b), 0) ∧ f.cmp 3 a b = (decide (Ref.key f a ≤ Ref.key f b), 0) ∧
      f.cmp 4 a b = (decide (Ref.key f b < Ref.key f a), 0) ∧ f.cmp 5 a b = (decide (Ref.key f b ≤ Ref.key f a), 0) ∧
      f.cmp 6 a b = (false, 0) ∧ f.cmp 7 a b = (true, 0) ∧
      (Ref.key f a < Ref.key f b → f.minMax false a b = (a, 0) ∧ f.minMax true a b = (b, 0) ∧
        f.minMax false b a = (a, 0) ∧ f.minMax true b a = (b, 0)) ∧
      (Ref.isZero f a = true → Ref.isZero f b = true → Ref.neg f a = true → Ref.neg f b = false →
        f.minMax false a b = (a, 0) ∧ f.minMax false b a = (a, 0) ∧ f.minMax true a b = (b, 0) ∧ f.minMax true b a = (b, 0))) ∧
    (Ref.isNan f a = true → Ref.isNan f b = false → ∀ x, f.minMax x a b = (b, fl) ∧ f.minMax x b a = (b, fl)) ∧
    (Ref.isNan f a = true → Ref.isNan f b = true → ∀ x, f.minMax x a b = (f.nanBits, fl)) ∧
    (Ref.isNan f a = true ∨ Ref.isNan f b = true → ∀ c, c < 8 →
      f.cmp c a b = (decide (c = 1 ∨ c = 6), if 2 ≤ c ∧ c ≤ 5 then 1 else fl))

/-- FLD of a FULL slot, FST, FCLR, FTST and JOIN act on the slot as the table of presence states says (R33, R39, R175, R176, R177, R178, R179). -/
def Obligations.SlotInstructions : Prop :=
  ∀ (s : State) (x i : BitVec 4) (slot : BitVec 12) (p : BitVec 3), s.pr p = true → s.plain → s.lane.resume = none →
    s.inFrame (if i = 0 then slot.toNat else slot.toNat + (s.x i).toNat) →
    let k := s.fir.base + if i = 0 then slot.toNat else slot.toNat + (s.x i).toNat
    let c := s.cell s.cur
    let put := fun (t : State) (r : Regs) (v : Option Word) =>
      OnlyCell s t ∧ t.cell s.cur = { c with
        lane := s.laneAfter r
        slots := match v with | none => c.slots.del k | some w => c.slots.put k (.full w)
        ftoks := c.ftoks.filter (· != k) }
    (∀ v tf, s.slot s.cur k = some (.full v) → ∃ t, exec (.fld x i slot tf p) s = .next t ∧ RegsOnly s (s.lane.regs.set x v) 0 t) ∧
    (∃ t, exec (.ftst x i slot p) s = .next t ∧ RegsOnly s (s.lane.regs.set x
      (match s.slot s.cur k with | none => 0 | some (.full _) => 1 | some (.deferred _ _ _ _) => 2)) 0 t) ∧
    (isDeferred (s.slot s.cur k) = false → ∃ t, exec (.fst x i slot p) s = .next t ∧ put t s.lane.regs (some (s.x x))) ∧
    (isDeferred (s.slot s.cur k) = false → ∃ t, exec (.fclr i slot p) s = .next t ∧ put t s.lane.regs none) ∧
    (∀ v, s.slot s.cur k = some (.full v) → v ≠ 0 → ∃ t, exec (.join x i slot p) s = .next t ∧
      put t (s.lane.regs.set x (v - 1)) (if v = 1 then none else some (v - 1)))

/-- A block FLD of an EMPTY slot suspends the firing; an FST of its slot resumes it with the value (R37, R38, R39, R40, R176, R177). -/
def Obligations.BlockingLoadSuspendsAndResumes : Prop :=
  ∀ (s : State) (x i : BitVec 4) (slot : BitVec 12) (p : BitVec 3), s.pr p = true →
    s.inFrame (if i = 0 then slot.toNat else slot.toNat + (s.x i).toNat) →
    let k := s.fir.base + if i = 0 then slot.toNat else slot.toNat + (s.x i).toNat
    let c := s.cell s.cur
    let free := fun (n : Nat) => n < 64 ∧ c.recs.get? n = none
    (∀ num key, (free num ∧ (∀ j, j < num → ¬ free j) ∧ key = num) ∨
        ((∀ n, ¬ free n) ∧ num = 64 + (k - s.fcx.areaStart) ∧ key = c.recKey k) →
      s.lane.resume = none → s.fir.dead = false → s.slot s.cur k = none →
      ∃ t, exec (.fld x i slot false p) s = .next t ∧ OnlyCell s t ∧ { t.cell s.cur with ctxs := c.ctxs } = { c with
        lane := {}
        slots := c.slots.put k (.deferred num s.fir.ia s.fir.prio (regionOf s.fir.tag))
        ftoks := c.ftoks.filter (· != k)
        recs := c.recs.put key { regs := s.lane.regs, fir := s.fir, slot := k, frees := s.lane.frees } }) ∧
    (∀ n a pr r key q, s.slot s.cur k = some (.deferred n a pr r) → c.waiter k = some (key, q) → s.plain →
      ∃ t, exec (.fst x i slot p) s = .next t ∧ OnlyCell s t ∧ t.slot s.cur k = some (.full (s.x x)) ∧
        (t.cell s.cur).recs.get? key = some { q with value := some (s.x x) } ∧
        (t.cell s.cur).ready = c.ready ++ [{ cls := pr, since := s.ac s.cur, body := .resumed key }]) ∧
    (∀ v tf, s.lane.resume = some v → s.plain → ∃ t, exec (.fld x i slot tf p) s = .next t ∧ OnlyCell s t ∧ t.mem = s.mem ∧
      t.lane = (if s.atLast then {} else
        { s.lane with resume := none, regs := s.lane.regs.set x v, fir := { s.fir with ia := s.fir.ia + 1 } }))

/-- Slot instructions outside the frame, and on the wrong presence state, take the fault the table names (R33, R34, R39, R175, R176, R178, R179). -/
def Obligations.SlotFaults : Prop :=
  ∀ (s : State) (x i : BitVec 4) (slot : BitVec 12) (p : BitVec 3), s.pr p = true → s.lane.resume = none →
    let rel := if i = 0 then slot.toNat else slot.toNat + (s.x i).toNat
    let k := s.fir.base + rel
    let d := BitVec.ofNat 64 rel
    let all := fun (c : FaultCode) (v : Word) => ∀ tf, exec (.fld x i slot tf p) s = .next (s.raise c v 0) ∧
      exec (.fst x i slot p) s = .next (s.raise c v 0) ∧ exec (.fclr i slot p) s = .next (s.raise c v 0) ∧
      exec (.ftst x i slot p) s = .next (s.raise c v 0) ∧ exec (.join x i slot p) s = .next (s.raise c v 0)
    (s.frame? s.cur s.fir.ctx s.fir.base = none → all .frameFree 0) ∧
    (∀ f, s.frame? s.cur s.fir.ctx s.fir.base = some f → clsSlots f.cls ≤ rel → all .frameBound d) ∧
    (s.inFrame rel → s.slot s.cur k = none → exec (.fld x i slot true p) s = .next (s.raise .slotTrap d 0) ∧
      exec (.join x i slot p) s = .next (s.raise .slotTrap d 0)) ∧
    (s.inFrame rel → s.slot s.cur k = some (.full 0) → exec (.join x i slot p) s = .next (s.raise .slotTrap d 0)) ∧
    (s.inFrame rel → isDeferred (s.slot s.cur k) = true → exec (.fld x i slot true p) s = .next (s.raise .slotTrap d 0) ∧
      exec (.fld x i slot false p) s = .next (s.raise .slotConflict d 0) ∧
      exec (.fclr i slot p) s = .next (s.raise .slotConflict d 0) ∧ exec (.join x i slot p) s = .next (s.raise .slotConflict d 0))

/-- SEND, SWCH, SENDD and MKC form the continuation of their rule and send one token (R57, R135, R181, R182, R183, R184, R185, R186). -/
def Obligations.TokenInstructions : Prop :=
  ∀ (s : State) (v c k0 : BitVec 4) (k : BitVec 8) (e : Bool) (l : BitVec 2) (g : BitVec 4), Ref.holds s g = true → s.plain →
    s.held = false → s.fir.dead = false →
    let n := s.fcx.place.length
    let word := fun (j : Nat) (r : Word) => let d := s.dest j
      if d / 2 ^ 15 % 2 = 1 then
        mkCont (vcellOf r) (ctxOf r) (baseOf r) (d / 2 % 2 ^ 14) (d % 2) s.fcx.ctl.prio.toNat ||| (r &&& 0x3FFFF)
      else mkCont s.fcx.vcell s.fir.ctx s.fir.base (d / 2 % 2 ^ 14) (d % 2) s.fcx.ctl.prio.toNat
    let cls := fun (w : Word) => if e then withPrio w l.toNat else w
    let sends := fun (i : Instr) (w val tag : Word) => ∃ t, exec i s = .next t ∧ Sends s s.lane.regs (s.tokenPacket w val tag) t
    let fits := fun (w : Word) => replyOk n s.fir.ctx w = true
    let own := tagOk s.fir.tag = true
    (s.destOk k.toNat c = true → (c = 0 ∨ isFrameRef (s.x c) = true) → fits (cls (word k.toNat (s.x c))) → own →
      sends (.send v c k e l g) (cls (word k.toNat (s.x c))) (s.x v) s.fir.tag) ∧
    (∀ j, j = k.toNat + (s.x k0).toNat → j < s.fhdr.ndest → s.dest j / 2 ^ 15 % 2 = 0 → fits (cls (word j 0)) → own →
      sends (.swch v k0 k e l g) (cls (word j 0)) (s.x v) s.fir.tag) ∧
    (fits (cls (s.x c)) → own → sends (.sendd c v 0 e l g) (cls (s.x c)) (s.x v) s.fir.tag) ∧
    (k0 ≠ 0 → fits (cls (s.x c)) → tagOk (s.x k0) = true →
      (regionOf (s.x k0) = 0 ∨ regionOf (s.x k0) = regionOf s.fir.tag ∨
        (regionOf s.fir.tag = 0 ∧ s.fcx.regions.get? (regionOf (s.x k0)) ≠ none)) →
      sends (.sendd c v k0 e l g) (cls (s.x c)) (s.x v) (s.x k0)) ∧
    (s.destOk k.toNat c = true → (c = 0 ∨ isFrameRef (s.x c) = true) → fits (word k.toNat (s.x c)) → own →
      ∃ t, exec (.mkc v c k false g) s = .next t ∧ RegsOnly s (s.lane.regs.set v (word k.toNat (s.x c))) 0 t) ∧
    (∃ t, exec (.mkc v 0 0 true g) s = .next t ∧
      RegsOnly s (s.lane.regs.set v (mkCont s.fcx.vcell s.fir.ctx s.fir.base 0 0 0)) 0 t)

/-- A continuation or tag that fails R23 takes BAD_CONT and sends nothing (R23, R182, R188, R194). -/
def Obligations.BadContinuationFaults : Prop :=
  ∀ (s : State) (a b c : BitVec 4) (e : Bool) (l : BitVec 2) (g : BitVec 4), Ref.holds s g = true → s.held = false →
    let w := if e then withPrio (s.x a) l.toNat else s.x a
    let tag := if c = 0 then s.fir.tag else s.x c
    let bad := fun (w : Word) => bits w 0 18 ≠ 0 ∨ s.fcx.place.length ≤ vcellOf w ∨ ctxOf w ≠ s.fir.ctx ∨ (iaOf w = 0 ∧ portOf w = 0)
    (bad w ∨ bits tag 0 24 ≠ 0 → exec (.sendd a b c e l g) s = .next (s.raise .badCont w 0)) ∧
    (bad (s.x c) → (∀ r lv, s.fcx.vcell < s.fcx.place.length → exec (.falloc 0 c r lv g) s = .next (s.raise .badCont 0 0)) ∧
      (c ≠ 0 → exec (.acqa c e g) s = .next (s.raise .badCont 0 0) ∧ exec (.rel c e g) s = .next (s.raise .badCont 0 0)))

/-- FALLOC sends its request and the allocator decides it by R59; FFREE frees another local frame at once, its own at the end, a remote one by message (R35, R57, R58, R59, R60, R187, R188, R189). -/
def Obligations.FrameInstructions : Prop :=
  (∀ (k : Ctx) (level : Nat) (p : Pool), k.pools.get? level = some p →
    let n := clsSlots p.cls
    let shared := fun (b : Nat) => (∃ i, i < k.areaSize / n ∧ b = k.areaStart + i * n) ∧
      (∀ e, e ∈ k.frames → b + n ≤ e.1 ∨ e.1 + clsSlots e.2.cls ≤ b) ∧
      (∀ e q, e ∈ k.pools → q ∈ e.2.places → b + n ≤ q ∨ q + clsSlots e.2.cls ≤ b)
    let kept := fun (b : Nat) => b ∈ p.places ∧ k.frames.get? b = none
    (p.max ≤ p.live → k.grantable level = none) ∧
    (∀ b, p.live < p.max → shared b → (∀ a, shared a → b ≤ a) → k.grantable level = some (b, false)) ∧
    (p.live < p.max → (∀ b, ¬ shared b) →
      (∀ b, kept b → (∀ a, kept a → b ≤ a) → k.grantable level = some (b, true)) ∧ ((∀ b, ¬ kept b) → k.grantable level = none))) ∧
  ∀ (s : State) (a c : BitVec 4) (r : Bool) (l : BitVec 3) (g : BitVec 4), Ref.holds s g = true → s.plain → s.fir.dead = false →
    let w := s.x a
    let ok := contOk s.fcx.place.length s.fir.ctx w = true ∧ isFrameRef w = true
    (∀ tgt, tgt = (if a = 0 then s.fcx.vcell else w.toNat) → (s.held = false ∨ tgt = s.fcx.vcell) → tgt < s.fcx.place.length →
      replyOk s.fcx.place.length s.fir.ctx (s.x c) = true →
      ∃ t, exec (.falloc a c r l g) s = .next t ∧ Sends s s.lane.regs
        { vn := 0, src := s.cur, dst := s.fcx.place.getD tgt 0, ctx := s.fir.ctx, counts := false,
          body := .falloc l.toNat { src := s.cur, base := s.fir.base, reply := s.x c, tag := s.fir.tag,
                                    region := if r then regionOf s.fir.tag else 0, faulty := s.fir.faulty, ia := s.fir.ia } } t) ∧
    (ok → vcellOf w = s.fcx.vcell → baseOf w = s.fir.base → s.atLast = false →
      ∃ t, exec (.ffree a g) s = .next t ∧ OnlyCell s t ∧ t.cell s.cur = { s.cell s.cur with
        lane := { s.laneAfter s.lane.regs with frees := s.lane.frees ++ [(s.fir.base, s.issuer)] } }) ∧
    (ok → vcellOf w = s.fcx.vcell → baseOf w = s.fir.base → s.atLast = true → ∃ u, OnlyCell s u ∧
      u.cell s.cur = { s.cell s.cur with lane := {} } ∧
      exec (.ffree a g) s = .next (u.freeLater s.cur s.fir.ctx s.fir.base s.issuer)) ∧
    (ok → vcellOf w = s.fcx.vcell → baseOf w ≠ s.fir.base →
      (∀ f, s.frame? s.cur s.fir.ctx (baseOf w) = some f →
        ∃ u v, FrameGone s s.cur s.fir.ctx (baseOf w) f u ∧ Granted s.cur s.fir.ctx [7, 6, 5, 4, 3, 2, 1, 0] u v ∧
          match (s.cell s.cur).lowestDeferred (baseOf w) (clsSlots f.cls) with
          | none => ∃ t, exec (.ffree a g) s = .next t ∧ RegsOnly v v.lane.regs 0 t
          | some d => exec (.ffree a g) s = .next (v.raise .frameFree (BitVec.ofNat 64 d) 0)) ∧
      (s.frame? s.cur s.fir.ctx (baseOf w) = none → exec (.ffree a g) s = .next (s.raise .frameFree 0 0))) ∧
    (ok → s.held = false → vcellOf w ≠ s.fcx.vcell → ∃ t, exec (.ffree a g) s = .next t ∧ Sends s s.lane.regs
      { vn := 0, src := s.cur, dst := s.fcx.place.getD (vcellOf w) 0, ctx := s.fir.ctx, body := .ffree (baseOf w) s.issuer } t)

/-- BRF goes forward or ends the firing; END ends it, applying the frees that waited (R43, R189, R191, R192). -/
def Obligations.BranchAndEnd : Prop :=
  ∀ (s : State) (g : BitVec 4) (o : BitVec 8),
    (Ref.holds s g = true → s.fir.ia + o.toNat ≤ s.fir.hdr + s.fhdr.length → ∃ t, exec (.brf g o) s = .next t ∧ OnlyCell s t ∧
      t.cell s.cur = { s.cell s.cur with lane := { s.lane with fir := { s.fir with ia := s.fir.ia + o.toNat } } }) ∧
    (Ref.holds s g = true → s.fir.ia + o.toNat = s.fir.hdr + 1 + s.fhdr.length → exec (.brf g o) s = exec (.fend 0) s) ∧
    (s.fir.hdr + 1 + s.fhdr.length < s.fir.ia + o.toNat → exec (.brf g o) s = .next (s.raise .illegalOp 0 0)) ∧
    (Ref.holds s g = true → s.lane.frees = [] → ∃ t, exec (.fend g) s = .next t ∧ OnlyCell s t ∧
      t.cell s.cur = { s.cell s.cur with lane := {} }) ∧
    (∀ b w, Ref.holds s g = true → s.lane.frees = [(b, w)] → ∃ t u, exec (.fend g) s = .next t ∧ OnlyCell s u ∧
      u.cell s.cur = { s.cell s.cur with lane := {} } ∧ t = u.freeLater s.cur s.fir.ctx b w) ∧
    (Ref.holds s g = true → ∃ u, exec (.fend g) s = .next (s.freed u) ∧ OnlyCell s u ∧
      u.cell s.cur = { s.cell s.cur with lane := {} }) ∧
    (∀ i : Instr, s.atLast = true → i.wf = true → s.lane.resume = none → (Ref.registerOnly i = true ∨ Ref.off s i = true) →
      ∃ u, exec i s.bare = .next u ∧ exec i s = .next (s.freed u))

/-- TNEW, TSEAL, TDUP and TDROP change the tile table as their rules say (R44, R45, R46, R47, R48, R197, R198, R199, R200). -/
def Obligations.TileInstructions : Prop :=
  ∀ (s : State) (d a b g f : BitVec 4), Ref.holds s g = true → s.plain → s.fir.dead = false →
    let c := s.cell s.cur
    let h := s.x a
    let n := (s.x b).toNat
    let heap := fun (t : State) (r : Regs) (p : Heap) => OnlyCell s t ∧ t.cell s.cur = { c with lane := s.laneAfter r, heap := p }
    (∀ i, bits h 16 48 = 0 → i < 4096 → (∀ j, j < i → (c.tile j).live = true) → (c.tile i).live = false → c.heap.owed = 0 →
      let rows := bits h 0 8 + 1
      let cols := bits h 8 8 + 1
      blocksOf f.toNat rows cols ≤ c.heap.free →
      ∃ t, exec (.tnew d a g f) s = .next t ∧ heap t (s.lane.regs.set d (mkHandle s.fcx.vcell s.fir.ctx i (c.tile i).gen))
        { c.heap with
          free := c.heap.free - blocksOf f.toNat rows cols
          tiles := c.heap.tiles.put i { live := true, gen := (c.tile i).gen, ctx := s.fir.ctx, fmt := f.toNat, rows := rows, cols := cols,
                                        count := 1, region := regionOf s.fir.tag, blocks := blocksOf f.toNat rows cols } }) ∧
    (∀ i, s.resolve s.cur s.fir.ctx h = .here i →
      let mine := (c.tile i).sealed = true ∨ (c.tile i).ctx = s.fir.ctx
      ((c.tile i).sealed = false → mine → c.written i = false → ∃ t, exec (.tseal a g) s = .next t ∧
        heap t s.lane.regs { c.heap with tiles := c.heap.tiles.put i { c.tile i with sealed := true } }) ∧
      ((c.tile i).sealed = true → exec (.tseal a g) s = .next (s.raise .tileState h 0)) ∧
      (¬ mine → exec (.tseal a g) s = .next (s.raise .tileState h 0) ∧ exec (.tdrop a g) s = .next (s.raise .tileState 0 0)) ∧
      (n = 0 ∨ 65535 < n → exec (.tdup a b g) s = .next (s.raise .shape (s.x b) 0)) ∧
      (0 < n → (c.tile i).sealed = true → (c.tile i).count + n ≤ 65535 → ∃ t, exec (.tdup a b g) s = .next t ∧
        heap t s.lane.regs { c.heap with tiles := c.heap.tiles.put i { c.tile i with count := (c.tile i).count + n } }) ∧
      (mine → 1 < (c.tile i).count → ∃ t, exec (.tdrop a g) s = .next t ∧
        heap t s.lane.regs { c.heap with tiles := c.heap.tiles.put i { c.tile i with count := (c.tile i).count - 1 } }) ∧
      (mine → (c.tile i).count = 1 → (c.tile i).live = true → (c.tile i).inflight = 0 → ∃ t, exec (.tdrop a g) s = .next t ∧
        heap t s.lane.regs { c.heap with
          zeroing := c.heap.zeroing + (c.tile i).blocks, tiles := c.heap.tiles.put i { gen := (c.tile i).gen + 1 } })) ∧
    (∀ k, s.resolve s.cur s.fir.ctx h = .there k → s.held = false →
      (∃ t, exec (.tdup a b g) s = .next t ∧ Sends s s.lane.regs
        { vn := 0, src := s.cur, dst := k, ctx := s.fir.ctx, body := .count h n true s.issuer } t) ∧
      (∃ t, exec (.tdrop a g) s = .next t ∧ Sends s s.lane.regs
        { vn := 0, src := s.cur, dst := k, ctx := s.fir.ctx, body := .count h 1 false s.issuer } t))

/-- A handle names a tile of this cell, of another one, or is stale (R44, R71, R195). -/
def Obligations.HandleResolution : Prop :=
  ∀ (s : State) (d a b g : BitVec 4) (slot : BitVec 12) (sel : BitVec 2), Ref.holds s g = true → s.plain →
    let h := s.x a
    let t := (s.cell s.cur).tile (bits h 38 12)
    let shut := bits h 0 30 ≠ 0 ∨ bits h 50 3 ≠ s.fir.ctx ∨ s.fcx.place.length ≤ bits h 53 11
    let here := ¬ shut ∧ bits h 53 11 = s.fcx.vcell
    let good := t.live = true ∧ t.gen.toNat = bits h 30 8 ∧ t.hidden = false
    let chk := fun (v : Word) => ∃ u, exec (.tchk d a g) s = .next u ∧ RegsOnly s (s.lane.regs.set d v) 0 u
    (shut ∨ (here ∧ ¬ good) → s.resolve s.cur s.fir.ctx h = .stale ∧ chk 3 ∧
      exec (.tseal a g) s = .next (s.raise .handleStale h 0) ∧ exec (.tdup a b g) s = .next (s.raise .handleStale h 0) ∧
      exec (.tdrop a g) s = .next (s.raise .handleStale h 0) ∧ exec (.tinfo d a g sel) s = .next (s.raise .handleStale h 0) ∧
      (∀ p, s.pr p = true → exec (.hld a b slot p) s = .next (s.raise .handleStale h 0)) ∧
      (∀ c n r v, exec (.hst a b c n r v g) s = .next (s.raise .handleStale h 0))) ∧
    (here → good → s.resolve s.cur s.fir.ctx h = .here (bits h 38 12) ∧ chk (if t.sealed then 0 else if t.ctx = s.fir.ctx then 1 else 3)) ∧
    (¬ shut → bits h 53 11 ≠ s.fcx.vcell →
      s.resolve s.cur s.fir.ctx h = .there (s.fcx.place.getD (bits h 53 11) 0) ∧ chk 2)

/-- HLD and HST move one element; TINFO reads the tile-table entry (R202, R203, R204, R205, R206, R39). -/
def Obligations.TileElementInstructions : Prop :=
  ∀ (s : State) (d a b c g : BitVec 4) (slot : BitVec 12) (p : BitVec 3) (n : Bool) (r : BitVec 4), s.plain → s.fir.dead = false →
    let h := s.x a
    let off := (s.x b).toNat
    let k := s.fir.base + slot.toNat
    let cell := s.cell s.cur
    (∀ i, s.resolve s.cur s.fir.ctx h = .here i → off < (cell.tile i).rows * (cell.tile i).cols →
      let own := (cell.tile i).sealed = true ∨ (cell.tile i).ctx = s.fir.ctx
      let put := fun (v : Nat) =>
        let q := (cell.tile i).setEl off (BitVec.ofNat 64 v)
        if (cell.tile i).inflight = 0 then q
        else { q with olds := (cell.tile i).olds ++ [(off, s.serial, (cell.tile i).els.getD off 0, 0)] }
      (¬ own → (s.pr p = true → s.inFrame slot.toNat → exec (.hld a b slot p) s = .next (s.raise .tileState 0 0)) ∧
        (Ref.holds s g = true → ∀ v, exec (.hst a b c n r v g) s = .next (s.raise .tileState 0 0))) ∧
      (own → s.pr p = true → s.inFrame slot.toNat → isDeferred (s.slot s.cur k) = false → off ∉ (cell.tile i).bad →
        ∃ t, exec (.hld a b slot p) s = .next t ∧ OnlyCell s t ∧ t.cell s.cur = { cell with
          lane := s.laneAfter s.lane.regs
          slots := cell.slots.put k (.full ((cell.tile i).els.getD off 0))
          ftoks := cell.ftoks.filter (· != k) }) ∧
      (own → Ref.holds s g = true → (cell.tile i).sealed = false →
        ∃ t, exec (.hst a b c n r false g) s = .next t ∧ OnlyCell s t ∧ t.cell s.cur = { cell with
          lane := s.laneAfter s.lane.regs
          heap := { cell.heap with tiles := cell.heap.tiles.put i (put ((s.x c).toNat % 2 ^ eb (cell.tile i).fmt)) } } ∧
        (∀ y, (match fmtOf (cell.tile i).fmt with
            | some f => some (fp64.toFloat f (if r = 0 then (if s.fcx.ctl.rmode = 4 then 0 else s.fcx.ctl.rmode.toNat) else r.toNat - 8) 0 n (s.x c).toNat)
            | none => if (cell.tile i).fmt ∈ [6, 7, 10, 11] then
                some ((if 2 ^ (eb (cell.tile i).fmt - 1) ≤ (s.x c).toInt then (2 ^ (eb (cell.tile i).fmt - 1) - 1, 32)
                  else if (s.x c).toInt < -2 ^ (eb (cell.tile i).fmt - 1) then (2 ^ (eb (cell.tile i).fmt - 1), 32)
                  else ((s.x c).toNat % 2 ^ eb (cell.tile i).fmt, 0) : Nat × BitVec 7))
              else none) = some y →
          ∃ t, exec (.hst a b c n r true g) s = .next t ∧ OnlyCell s t ∧
            (t.cell s.cur).heap.tiles = cell.heap.tiles.put i (put y.1) ∧
            (t.cx s.cur s.fir.ctx).ctl.flags = s.fcx.ctl.flags ||| y.2))) ∧
    (∀ i, s.resolve s.cur s.fir.ctx h = .here i → Ref.holds s g = true →
      (∃ t, exec (.tinfo d a g 0) s = .next t ∧ RegsOnly s (s.lane.regs.set d (BitVec.ofNat 64
        ((cell.tile i).fmt + ((cell.tile i).rows - 1) * 2 ^ 4 + ((cell.tile i).cols - 1) * 2 ^ 12 +
          (if (cell.tile i).sealed then 2 else 1) * 2 ^ 20 + (cell.tile i).blocks * 2 ^ 22))) 0 t) ∧
      (∃ t, exec (.tinfo d a g 1) s = .next t ∧ RegsOnly s (s.lane.regs.set d (BitVec.ofNat 64
        ((cell.tile i).count + (cell.tile i).gen.toNat * 2 ^ 16 + (cell.tile i).inflight % 2 ^ 8 * 2 ^ 24))) 0 t)) ∧
    (∀ m, s.resolve s.cur s.fir.ctx h = .there m → s.held = false → s.pr p = true → s.inFrame slot.toNat →
      isDeferred (s.slot s.cur k) = false →
      ∃ t u, exec (.hld a b slot p) s = .next t ∧
        Issues s (some k) { kind := .hld } u ∧ t = { u with net := s.net ++ [s.sent
          { vn := 2, src := s.cur, dst := m, ctx := s.fir.ctx, counts := false, body := .hld h (s.x b) s.serial s.issuer }] }) ∧
    (∀ m, s.resolve s.cur s.fir.ctx h = .there m → s.held = false → Ref.holds s g = true → ∀ v, ∃ t,
      exec (.hst a b c n r v g) s = .next t ∧ Sends s s.lane.regs
        { vn := 2, src := s.cur, dst := m, ctx := s.fir.ctx, body := .hst h (s.x b) s.issuer } t)

/-- LDG, LDCH, AMO and STG issue one operation with the record of their frame (R39, R57, R145, R193, R194, R208, R210, R211, R212, R213, R215). -/
def Obligations.MemoryInstructionsIssue : Prop :=
  ∀ (s : State) (x i a b c g : BitVec 4) (slot : BitVec 12) (p : BitVec 3) (w : List Word), s.plain → s.held = false →
    s.fir.dead = false → s.acqFailed = false →
    let rel := if i = 0 then slot.toNat else slot.toNat + (s.x i).toNat
    let k := s.fir.base + rel
    let behind := s.pendingAcqs s.fir.serial
    let loads := s.pr p = true ∧ s.inFrame rel ∧ isDeferred (s.slot s.cur k) = false
    (loads → w.length = 4 → s.recordIs (s.x x).toNat w →
      (∃ t, exec (.ldg x i slot p) s = .next t ∧ Issues s (some k) { kind := .ldg, recw := w, behind := behind } t) ∧
      (∃ t, exec (.ldch x i slot p) s = .next t ∧ Issues s (some k) { kind := .ldch, recw := w, behind := behind } t)) ∧
    (loads → s.recordIs (s.x x).toNat w →
      w.length = (if bits (w.getD 3 0) 0 4 = 9 ∧ bits (w.getD 3 0) 4 2 = 1 then 6 else 5) →
      ∃ t, exec (.amo x i slot p) s = .next t ∧ Issues s (some k)
        { kind := .amo, behind := behind, recw := if w.length = 6 then w else w ++ [0] } t) ∧
    (Ref.holds s g = true → c ≠ 0 → replyOk s.fcx.place.length s.fir.ctx (s.x c) = true → w.length = 4 →
      s.recordIs (s.x a).toNat w →
      ∃ t, exec (.stg a b c g) s = .next t ∧ Issues s none
        { kind := .stg, recw := w, val := s.x b, cont := some (s.x c), behind := behind } t)

/-- REL, ACQ and ACQA issue their operation; a release fixes its stack mask and raises the release sequence (R82, R83, R87, R193, R194, R214, R215, R216). -/
def Obligations.LogInstructionsIssue : Prop :=
  ∀ (s : State) (a c g : BitVec 4) (sys : Bool) (r : Option Word), Ref.holds s g = true → s.plain → s.held = false →
    s.fir.dead = false → s.replyIs c r →
    (ctxOf (s.x a) = s.fir.ctx → vcellOf (s.x a) < s.fcx.place.length → bits (s.x a) 32 2 < 2 →
      ∃ t, exec (.acq a c g) s = .next t ∧ Issues s none
        { kind := .acq, cont := r, val := s.x a, mask := BitVec.ofNat 16 (bits (s.x a) 34 16), checked := true } t) ∧
    (ctxOf (s.x a) ≠ s.fir.ctx ∨ s.fcx.place.length ≤ vcellOf (s.x a) ∨ 2 ≤ bits (s.x a) 32 2 →
      exec (.acq a c g) s = .next (s.opLost s.issuer .badCont 0 0).step1) ∧
    (∃ t, exec (.acqa c sys g) s = .next t ∧ Issues s none { kind := .acqa, cont := r, sys := sys, mask := 0xFFFF, checked := true } t) ∧
    (∃ t, exec (.rel c sys g) s = .next t ∧ ∃ o, o ∈ t.ops ∧ o.id = s.serial ∧ o.kind = .rel ∧ o.cont = r ∧ o.sys = sys ∧
      o.who = s.issuer ∧ t.mem = s.mem ∧
      ((∀ q, q ∈ s.ops → q.who.serial = s.fir.serial → q.pendingStore sys = false) →
        (∀ m, m ∈ (s.cell s.cur).copyq → m.who.serial = s.fir.serial → m.op ≠ .tstore ∧ m.op ≠ .tscat) →
        o.opened = true ∧ o.peers = (if sys then s.fcx.peersOut else []) ∧
        (t.cx s.cur s.fir.ctx).peersOut = (if sys then [] else s.fcx.peersOut) ∧ o.rseq = s.fcx.rseq + 1 ∧ (t.cx s.cur s.fir.ctx).rseq = s.fcx.rseq + 1 ∧
        ∀ k, k < 16 → o.mask.getLsbD k = !((s.sub k s.fcx.log).unpublished.isEmpty && decide ((s.stack k).waiting s.fcx.log = 0))))

/-- FCLR and FTST on each presence state (R178). -/
def Obligations.ClearAndTest : Prop :=
  ∀ (s : State) (x i : BitVec 4) (slot : BitVec 12) (p : BitVec 3), s.pr p = true → s.plain →
    let rel := if i = 0 then slot.toNat else slot.toNat + (s.x i).toNat
    let k := s.fir.base + rel
    s.inFrame rel →
    (isDeferred (s.slot s.cur k) = true → exec (.fclr i slot p) s = .next (s.raise .slotConflict (BitVec.ofNat 64 rel) 0)) ∧
    (isDeferred (s.slot s.cur k) = false → ∃ t, exec (.fclr i slot p) s = .next t ∧ OnlyCell s t ∧
      (t.cell s.cur).slots = (s.cell s.cur).slots.del k ∧ t.lane = s.laneAfter s.lane.regs) ∧
    (∃ t, exec (.ftst x i slot p) s = .next t ∧ RegsOnly s (s.lane.regs.set x
      (match s.slot s.cur k with | none => 0 | some (.full _) => 1 | some (.deferred _ _ _ _) => 2)) 0 t)

/-- BARS and BARA arm a barrier and count arrivals; an arrival that reaches the target sends its token (R57, R194, R219, R220). -/
def Obligations.BarrierInstructions : Prop :=
  ∀ (s : State) (a b c : BitVec 4) (rep : Bool) (g : BitVec 4) (r : Option Word), Ref.holds s g = true → s.plain → s.fir.dead = false →
    bits (s.x a) 7 46 = 0 → vcellOf (s.x a) < s.fcx.place.length →
    let n := bits (s.x a) 0 7
    let k := (s.x b).toNat
    let q := (s.cell s.cur).barrier n
    let mine := q.idle = true ∨ q.owner = s.fir.ctx
    let sets := fun (t : State) (w : Barrier) => (t.cell s.cur).barriers = (s.cell s.cur).barriers.set {} n w ∧
      t.lane = s.laneAfter s.lane.regs ∧ t.mem = s.mem ∧ ∀ m, m ≠ s.cur → t.cell m = s.cell m
    let ack := fun (m : Nat) (ph : BitVec 32) => match r with
      | none => []
      | some x => [s.sent { s.tokenPacket x (BitVec.ofNat 64 (m * 2 ^ 32 + ph.toNat)) s.fir.tag with reply := some s.cur }]
    (vcellOf (s.x a) = s.fcx.vcell → mine → c ≠ 0 → 0 < k → k < 2 ^ 32 → q.arrivals.toNat < k →
      replyOk s.fcx.place.length s.fir.ctx (s.x c) = true →
      ∃ t, exec (.bars a b c rep g) s = .next t ∧ t.net = s.net ∧ sets t { q with
        target := BitVec.ofNat 32 k, rep := rep, cont := s.x c, tag := s.fir.tag, armed := true, owner := s.fir.ctx }) ∧
    (∀ w, (c ≠ 0 → replyOk s.fcx.place.length s.fir.ctx (s.x c) = true) → s.held = false →
      (w = FaultCode.shape ∧ (vcellOf (s.x a) ≠ s.fcx.vcell ∨ k = 0 ∨ 2 ^ 32 ≤ k)) ∨
        (w = FaultCode.privilege ∧ vcellOf (s.x a) = s.fcx.vcell ∧ 0 < k ∧ k < 2 ^ 32 ∧ ¬ mine) →
      c ≠ 0 → exec (.bars a b c rep g) s = .next (s.opLost s.issuer w 0 0).step1) ∧
    (∀ w, s.replyIs c r → s.held = false → vcellOf (s.x a) = s.fcx.vcell →
      (w = FaultCode.shape ∧ (k = 0 ∨ 2 ^ 16 ≤ k)) ∨ (w = FaultCode.privilege ∧ 0 < k ∧ k < 2 ^ 16 ∧ ¬ mine) →
      exec (.bara a b c g) s = .next (s.opLost s.issuer w 0 0).step1) ∧
    (s.held = true → s.replyIs c r →
      (vcellOf (s.x a) ≠ s.fcx.vcell ∨ r ≠ none ∨ (q.armed = true ∧ q.target.toNat ≤ q.arrivals.toNat + k) →
        exec (.bara a b c g) s = .next (s.modLane fun l => { l with stall := some (.net (.bara a b c g)) })) ∧
      (c ≠ 0 → k ≤ q.arrivals.toNat →
        exec (.bars a b c rep g) s = .next (s.modLane fun l => { l with stall := some (.net (.bars a b c rep g)) }))) ∧
    (vcellOf (s.x a) = s.fcx.vcell → mine → 0 < k → k < 65536 → q.arrivals.toNat + k < 2 ^ 32 → (r = none ∨ s.held = false) →
      (q.armed = false ∨ q.arrivals.toNat + k < q.target.toNat) → s.replyIs c r →
      ∃ t, exec (.bara a b c g) s = .next t ∧ t.net = s.net ++ ack (q.arrivals.toNat + k) q.phase ∧ sets t
        { q with arrivals := q.arrivals + BitVec.ofNat 32 k, owner := s.fir.ctx }) ∧
    (vcellOf (s.x a) = s.fcx.vcell → mine → 0 < k → k < 65536 → q.arrivals.toNat + k < 2 ^ 32 →
      s.held = false → q.armed = true → q.target.toNat ≤ q.arrivals.toNat + k → q.arrivals.toNat + k < 2 * q.target.toNat →
      ctxOf q.cont = s.fir.ctx → s.replyIs c r →
      ∃ t, exec (.bara a b c g) s = .next t ∧
        t.net = s.net ++ [s.sent (s.tokenPacket q.cont
          (BitVec.ofNat 64 ((q.arrivals.toNat + k - q.target.toNat) * 2 ^ 32 + (q.phase + 1).toNat)) q.tag)] ++
          ack (q.arrivals.toNat + k - q.target.toNat) (q.phase + 1) ∧
        sets t { q with
          arrivals := BitVec.ofNat 32 (q.arrivals.toNat + k - q.target.toNat)
          phase := q.phase + 1
          armed := q.rep
          owner := s.fir.ctx }) ∧
    (vcellOf (s.x a) ≠ s.fcx.vcell → s.held = false → s.replyIs c r →
      ∃ t, exec (.bara a b c g) s = .next t ∧ Sends s s.lane.regs
        { vn := 0, src := s.cur, dst := s.fcx.place.getD (vcellOf (s.x a)) 0, ctx := s.fir.ctx, body := .bara n k r s.issuer } t)

/-- WATCH takes a latched value or arms the port; WDROP empties it (R221, R193, R194, R157). -/
def Obligations.WakePortInstructions : Prop :=
  ∀ (s : State) (a c g : BitVec 4), Ref.holds s g = true → s.plain → s.fir.dead = false →
    let n := bits (s.x a) 0 4
    let q := (s.cell s.cur).wake n
    let after := fun (t : State) (w : WakePort) => (t.cell s.cur).wakes = (s.cell s.cur).wakes.set {} n w ∧
      t.lane = s.laneAfter s.lane.regs ∧ t.mem = s.mem ∧ ∀ m, m ≠ s.cur → t.cell m = s.cell m
    (∀ w, (w = FaultCode.shape ∧ bits (s.x a) 4 60 ≠ 0) ∨
        (w = FaultCode.privilege ∧ bits (s.x a) 4 60 = 0 ∧ q.idle = false ∧ q.owner ≠ s.fir.ctx) →
      exec (.wdrop a g) s = .next (s.opLost s.issuer w 0 0).step1 ∧
      (c ≠ 0 → replyOk s.fcx.place.length s.fir.ctx (s.x c) = true → (s.held = false ∨ q.latch = none) →
        exec (.watch a c g) s = .next (s.opLost s.issuer w 0 0).step1)) ∧
    (bits (s.x a) 4 60 = 0 → (q.idle = true ∨ q.owner = s.fir.ctx) →
    (c ≠ 0 → replyOk s.fcx.place.length s.fir.ctx (s.x c) = true →
      (∀ v, q.latch = some v →
        (s.held = false → ∃ t, exec (.watch a c g) s = .next t ∧ after t {} ∧
          t.net = s.net ++ [s.sent (s.tokenPacket (s.x c) v s.fir.tag)]) ∧
        (s.held = true → exec (.watch a c g) s = .next (s.modLane fun l => { l with stall := some (.net (.watch a c g)) }))) ∧
      (q.latch = none → ∃ t, exec (.watch a c g) s = .next t ∧ t.net = s.net ∧
        after t { armed := true, cont := s.x c, tag := s.fir.tag, owner := s.fir.ctx })) ∧
    (∃ t, exec (.wdrop a g) s = .next t ∧ t.net = s.net ∧ after t {}))

/-- MFC, PERF, SCRUBRD and TIME write a register and nothing else (R144, R222, R227, R228, R230, R363). -/
def Obligations.SystemReads : Prop :=
  ∀ (s : State) (d g : BitVec 4) (w : BitVec 4) (pn : BitVec 8), Ref.holds s g = true → s.plain →
    let k := s.fcx
    let mfc := fun (n : BitVec 6) (v : Word) => ∃ t, exec (.mfc d g n) s = .next t ∧ RegsOnly s (s.lane.regs.set d v) 0 t
    let perf := fun (v : Word) => ∃ t, exec (.perf d g pn) s = .next t ∧ RegsOnly s (s.lane.regs.set d v) 0 t
    (mfc 0x00 (BitVec.ofNat 64 s.cur) ∧ mfc 0x01 (BitVec.ofNat 64 k.vcell) ∧ mfc 0x02 (BitVec.ofNat 64 s.fir.ctx) ∧
      mfc 0x03 (k.tenant.setWidth 64) ∧ mfc 0x04 (BitVec.ofNat 64 (bits s.fir.tag 24 8)) ∧ mfc 0x08 k.ctl.faultc ∧
      mfc 0x09 (k.ctl.rmode.setWidth 64) ∧ mfc 0x0A k.ctl.seed ∧ mfc 0x0B (k.ctl.flags.setWidth 64) ∧
      mfc 0x0C (k.ctl.prio.setWidth 64) ∧
      ∀ l, l < 8 → mfc (BitVec.ofNat 6 (16 + l)) (match k.pools.get? l with
        | none => 0
        | some p => BitVec.ofNat 64 (p.live % 2 ^ 12 + p.queue.length % 2 ^ 12 * 2 ^ 12 + p.cls * 2 ^ 24 + 2 ^ 27))) ∧
    (pn = 0 → perf (BitVec.ofNat 64 (s.ac s.cur - k.loadedAt))) ∧
    ((1 ≤ pn.toNat ∧ pn.toNat ≤ 4) ∨ (8 ≤ pn.toNat ∧ pn.toNat ≤ 0x11) → perf (k.perf.getD pn.toNat 0)) ∧
    (0x18 ≤ pn.toNat ∧ pn.toNat ≤ 0x1B → perf ((s.cell s.cur).perf.getD pn.toNat 0)) ∧
    (∃ t, exec (.scrubrd d g w) s = .next t ∧ RegsOnly s (s.lane.regs.set d
      (match s.sarOf s.cur s.fir.ctx with | some r => r.words.getD w.toNat 0 | none => 0)) 0 t) ∧
    ((s.fn (k.inst.getD (0, 0)).1).recEn = false → (s.fn (k.inst.getD (0, 0)).1).recReplay = false →
      ∃ t, exec (.time d g) s = .next t ∧ OnlyCell s t ∧
        t.lane = s.laneAfter (s.lane.regs.set d (s.clock.gt.toList.getD (s.cur / 256 % 8) 0)) ∧
        t.cx s.cur s.fir.ctx = { k with times := k.times + 1 })

/-- MTC writes the five writable control registers within their range, faults otherwise, and changes nothing else (R132, R133, R144, R227, R23). -/
def Obligations.ControlRegisterWrites : Prop :=
  ∀ (s : State) (a g : BitVec 4), Ref.holds s g = true → s.plain →
    let v := s.x a
    let wrote := fun (n : BitVec 6) (k : Ctl) => ∃ t, exec (.mtc a g n) s = .next t ∧ OnlyCell s t ∧
      t.lane = s.laneAfter s.lane.regs ∧ t.cx s.cur s.fir.ctx = { s.fcx with ctl := k } ∧
      (∀ x, x ≠ s.fir.ctx → t.cx s.cur x = s.cx s.cur x) ∧
      { t.cell s.cur with lane := s.lane, ctxs := (s.cell s.cur).ctxs } = s.cell s.cur
    let traps := fun (n : BitVec 6) (e : FaultCode) => exec (.mtc a g n) s = .next (s.raise e 0 0)
    (if v = 0 ∨ replyOk s.fcx.place.length s.fir.ctx v = true then wrote 8 { s.fcx.ctl with faultc := v } else traps 8 .badCont) ∧
    (if v.toNat ≤ 4 then wrote 9 { s.fcx.ctl with rmode := v.setWidth 3 } else traps 9 .illegalOp) ∧
    wrote 10 { s.fcx.ctl with seed := v } ∧
    (if v.toNat < 128 then wrote 11 { s.fcx.ctl with flags := v.setWidth 7 } else traps 11 .illegalOp) ∧
    (if v.toNat < 4 then wrote 12 { s.fcx.ctl with prio := v.setWidth 2 } else traps 12 .illegalOp) ∧
    (∀ l, l < 8 → traps (BitVec.ofNat 6 (16 + l)) .privilege) ∧ (traps 0 .privilege ∧ traps 1 .privilege ∧ traps 2 .privilege ∧ traps 3 .privilege ∧ traps 4 .privilege)

/-- CROPEN takes the lowest free region id, tells every cell and holds the lane; CRCLOSE registers its continuation (R224, R225, R57, R157, R193). -/
def Obligations.RegionInstructions : Prop :=
  ∀ (s : State) (d a c g : BitVec 4) (i : Inst), Ref.holds s g = true → s.plain → s.held = false → s.fir.dead = false →
    s.instAt s.cur s.fir.ctx = some i →
    (s.fcx.vcell ≠ 0 → exec (.cropen d a g) s = .next (s.raise .privilege 0 0) ∧
      ((c = 0 ∨ replyOk s.fcx.place.length s.fir.ctx (s.x c) = true) →
        exec (.crclose a c g) s = .next (s.opLost s.issuer .privilege 0 0).step1)) ∧
    (s.fcx.vcell = 0 → (c = 0 ∨ (replyOk s.fcx.place.length s.fir.ctx (s.x c) = true ∧ i.regions.get? (s.x a).toNat = none)) →
      exec (.crclose a c g) s = .next (s.opLost s.issuer .badCont (s.x a) 0).step1) ∧
    (s.fcx.vcell = 0 → replyOk s.fcx.place.length s.fir.ctx (s.x a) = true →
      (∀ id, 0 < id → id < 256 → i.regions.get? id = none → (∀ j, 0 < j → j < id → i.regions.get? j ≠ none) →
        ∃ t, exec (.cropen d a g) s = .next t ∧ t.lane = { s.lane with stall := some (.cropen d id) } ∧
          t.insts = s.insts.map (fun j => if j.fn == i.fn && j.id == i.id then { j with regions := j.regions.put id { handler := s.x a } } else j) ∧
          t.net = s.net ++ i.place.map (fun m => s.sent
            { vn := 4, src := s.cur, dst := m, ctx := i.ctx, counts := false, body := .regionId id }) ∧
          ∀ m, m ≠ s.cur → t.cell m = s.cell m) ∧
      ((∀ j, 0 < j → j < 256 → i.regions.get? j ≠ none) →
        ∃ t, exec (.cropen d a g) s = .next t ∧ RegsOnly s (s.lane.regs.set d 0) 0 t)) ∧
    (s.fcx.vcell = 0 → c ≠ 0 → replyOk s.fcx.place.length s.fir.ctx (s.x c) = true →
      ∀ r, i.regions.get? (s.x a).toNat = some r →
        ∃ t, exec (.crclose a c g) s = .next t ∧ t.lane = s.laneAfter s.lane.regs ∧
          (t.cx s.cur s.fir.ctx).outstanding = s.fcx.outstanding + 1 ∧
          t.insts = s.insts.map (fun j => if j.fn == i.fn && j.id == i.id then
            { j with regions := j.regions.put (s.x a).toNat { r with closing := r.closing ++ [(s.x c, s.issuer)] } } else j))

/-- QPOST issues one operation and sends the record to the device queue unless acquires of its firing are pending (R145, R193, R215, R229, R309). -/
def Obligations.PostedLaunchIssues : Prop :=
  ∀ (s : State) (a c g : BitVec 4) (w : List Word), Ref.holds s g = true → s.plain → s.held = false → s.fir.dead = false →
    s.acqFailed = false → c ≠ 0 → w.length = 6 → s.recordIs (s.x a).toNat w →
    replyOk s.fcx.place.length s.fir.ctx (s.x c) = true →
    let o : MemOp := { kind := .qpost, recw := w, cont := some (s.x c), checked := true, val := s.fcx.ctl.prio.setWidth 64,
                       behind := s.pendingAcqs s.fir.serial }
    ∃ t u, exec (.qpost a c g) s = .next t ∧ Issues s none o u ∧
      t = { u with net := s.net ++ if s.pendingAcqs s.fir.serial = [] then [s.sent
        { vn := 4, src := s.cur, dst := Config.frontEnd, ctx := s.fir.ctx, counts := false,
          body := .qpost w (s.x c) s.fcx.ctl.prio.toNat s.serial s.issuer }] else [] }

/-- Every engine command copies its record, handles and control registers into its queue (R39, R50, R57, R145, R201, R231, R232, R233, R236). -/
def Obligations.EngineCommandsIssue : Prop :=
  ∀ (s : State) (i : Instr) (op : EngOp) (a c g : BitVec 4) (hi keep : Bool) (n : Nat) (roles : List (Nat × Role)) (w : List Word)
    (r : Option Word) (ns : List (Nat × BitVec 8 × Bool)),
    Ref.engine i = some (op, a, c, g, hi, keep, n, roles) → Ref.holds s g = true → s.plain → s.fir.dead = false → s.acqFailed = false →
    w.length = n → s.recordIs (s.x a).toNat w → s.replyIs c r →
    let k := s.fir.base + (s.x a).toNat + 7
    let cell := s.cell s.cur
    isDeferred (s.slot s.cur k) = false → s.checkHandles w keep roles = .ok ns →
    (cell.queueOf op hi).1.length < (cell.queueOf op hi).2 →
    ∃ t m, exec i s = .next t ∧ t.lane = s.laneAfter s.lane.regs ∧ t.serial = s.serial + 1 ∧
      ((t.cell s.cur).queueOf op hi).1 = (cell.queueOf op hi).1 ++ [m] ∧
      m.op = op ∧ m.keep = keep ∧ m.hi = hi ∧ m.uid = s.serial ∧ m.who = s.issuer ∧ m.recw = w ∧ m.statusSlot = k ∧ m.cont = r ∧
      m.named = ns ∧ m.rmode = s.fcx.ctl.rmode ∧ m.seed = s.fcx.ctl.seed ∧ m.prio = s.fcx.ctl.prio ∧
      (t.cell s.cur).slots = cell.slots.del k ∧
      (∀ j, j ∈ ns.map (·.1) → ((t.cell s.cur).tile j).inflight = (cell.tile j).inflight + 1) ∧
      (∀ j, j ∉ ns.map (·.1) → (t.cell s.cur).tile j = cell.tile j) ∧
      (t.cx s.cur s.fir.ctx).outstanding = s.fcx.outstanding + 1 ∧
      t.mem = s.mem ∧ t.net = s.net ∧ t.ops = s.ops ∧ ∀ d, d ≠ s.cur → t.cell d = s.cell d

/-- VRUN copies its record, shape records and parameters into the vector queue (R50, R145, R148, R231, R232, R259, R260). -/
def Obligations.KernelLaunchIssues : Prop :=
  ∀ (s : State) (a b c g : BitVec 4) (w params : List Word) (shapes : List (Option (List Word))) (r : Option Word)
    (ns : List (Nat × BitVec 8 × Bool)), Ref.holds s g = true → s.plain → s.fir.dead = false → s.acqFailed = false →
    (s.x a).toNat < 2 ^ 14 → w.length = 7 → s.recordIs (s.x b).toNat w → s.replyIs c r →
    s.shapeRecords (w.take 6) = .ok shapes → s.slotGroup (bits (w.getD 6 0) 0 12) 8 = .ok params →
    let k := s.fir.base + (s.x b).toNat + 7
    let cell := s.cell s.cur
    isDeferred (s.slot s.cur k) = false → s.bindHandles 0 shapes = .ok ns → cell.vec.queue.length < 8 →
    ∃ t m, exec (.vrun a b c g) s = .next t ∧ t.lane = s.laneAfter s.lane.regs ∧
      (t.cell s.cur).vec = { cell.vec with queue := cell.vec.queue ++ [m] } ∧ m.op = .vrun ∧ m.uid = s.serial ∧ m.who = s.issuer ∧
      m.recw = w ∧ m.statusSlot = k ∧ m.cont = r ∧ m.named = ns ∧ m.kernel = (s.x a).toNat ∧ m.shapes = shapes ∧ m.params = params ∧
      m.rmode = s.fcx.ctl.rmode ∧ m.seed = s.fcx.ctl.seed ∧ m.prio = s.fcx.ctl.prio ∧
      (t.cell s.cur).slots = cell.slots.del k ∧ (t.cx s.cur s.fir.ctx).outstanding = s.fcx.outstanding + 1 ∧
      t.mem = s.mem ∧ t.net = s.net ∧ ∀ d, d ≠ s.cur → t.cell d = s.cell d

/-- The exception of a lane instruction ends the firing and delivers its record (R140, R157, R193, R321, R322, R323, R324, R325). -/
def Obligations.FaultDelivery : Prop :=
  ∀ (s : State) (code : FaultCode) (d1 d2 : Word) (i : Inst), s.fir.dead = false → s.lane.frees = [] →
    s.instAt s.cur s.fir.ctx = some i →
    let s' := s.modLane fun _ => {}
    let r : Raise := { cell := s.cur, ctx := s.fir.ctx, cls := 1, code := code, ia := s.fir.ia, frame := s.fir.base, d1 := d1, d2 := d2,
                       tag := s.fir.tag, faulty := s.fir.faulty }
    let w := [BitVec.ofNat 64 (1 + code.num * 2 ^ 8 + s.fcx.vcell * 2 ^ 16 + s.fir.ctx * 2 ^ 27 + s.fir.ia % 2 ^ 14 * 2 ^ 30 +
      s.fir.base % 2 ^ 15 * 2 ^ 44), d1, d2]
    let now := BitVec.ofNat 64 ((s.now s.cur).toNat % 2 ^ 63)
    let reg := regionOf s.fir.tag
    let fc := s.fcx.ctl.faultc
    let d := s.fcx.place.getD (vcellOf fc) 0
    let els := (w ++ [now]).zipIdx.filterMap fun (e : Word × Nat) => if e.1 = 0 then none else some (e.2, e.1)
    let tile : Tile := { sealed := true, ctx := s.fir.ctx, fmt := 12, rows := 2, cols := 4, count := 1, els := els }
    (s.raise code d1 d2 = s'.take r) ∧
    (reg = 0 ∨ s.fcx.regions.get? reg = none →
      ((fc = 0 ∨ s.fir.faulty = true) → s.raise code d1 d2 = s'.kill i .killed w (s.now s.cur)) ∧
      (fc ≠ 0 → s.fir.faulty = false → replyOk s.fcx.place.length s.fir.ctx fc = true → ∀ n heap,
        (s'.cell d).heap.alloc tile = .ok (n, heap) →
        ∃ t, s.raise code d1 d2 = t ∧ t.net = s.net ++ [s.sent
            (let tok : Token := { cont := fc, val := mkHandle (vcellOf fc) s.fir.ctx n ((s.cell d).tile n).gen, tag := noRegion s.fir.tag, faulty := true }
             if isReturn fc then { vn := 4, src := s.cur, dst := Config.frontEnd, ctx := s.fir.ctx, body := .ret tok }
             else { vn := 0, src := s.cur, dst := d, ctx := s.fir.ctx, body := .token tok })] ∧
          (t.cell d).heap = heap ∧ t.lane = {} ∧ t.insts = s.insts)) ∧
    (reg ≠ 0 → s.fcx.regions.get? reg = some .opened → ∃ t, s.raise code d1 d2 = t ∧ t.lane = {} ∧ t.net = s.net ++ [s.sent
      { vn := 4, src := s.cur, dst := s.fcx.place.getD 0 0, ctx := s.fir.ctx, counts := false,
        body := .regionFail reg (w ++ [now]) s.fir.tag s.fir.faulty }]) ∧
    (reg ≠ 0 → s.fcx.regions.get? reg = some .failed → s.raise code d1 d2 = s')

/-- TRAP, an unassigned word and a kernel word on the lane take their exceptions (R140, R143, R157, R226). -/
def Obligations.TrapAndIllegalWord : Prop :=
  ∀ (s : State) (n : BitVec 16) (w : IWord),
    exec (.trap n) s = .next (s.raise .trap (n.setWidth 64) (s.x 1)) ∧
    (w.toNat < 0xC0000000 → exec (.illegalOp w) s = .next (s.raise .illegalOp 0 0)) ∧
    (0xC0000000 ≤ w.toNat → exec (.illegalOp w) s = .next (s.raise .illegalContext 0 0))

/-- Words written out from the spec's encodings decode to their instructions (R136, R137, R141, R142, R158, R167, R175, R181, R191). -/
def Obligations.DecodedWords : Prop :=
  decode 0x00000000 = some (.nop 0) ∧ decode 0x01123500 = some (.add 1 2 3 5 false false false) ∧
  decode 0x01123007 = some (.add 1 2 3 0 true true true) ∧ decode 0x1812FFFF = some (.addi 1 2 0xFFFF) ∧
  decode 0x1D329FFE = some (.cmpi 3 2 9 0xFFE) ∧ decode 0x30450129 = some (.fld 4 5 0x012 true 1) ∧
  decode 0x34120360 = some (.send 1 2 3 true 2 0) ∧ decode 0x3B090400 = some (.brf 9 4) ∧ decode 0x3C000900 = some (.fend 9) ∧
  decode 0x20123002 = none ∧ decode 0x20123018 = none ∧ decode 0x20123012 = some (.fadd 1 2 3 0 9 false) ∧ decode 0x2B000000 = none ∧ decode 0xC1000000 = none ∧ decode 0x01123002 = none

/-- Decoding the word of a well-formed instruction gives that instruction, whatever its operands (R136, R137, R138, R139, R141, R142). -/
def Obligations.DecodeOfEncode : Prop :=
  ∀ i : Instr, i.isWord = true → i.wf = true → ∃ w, encode i = some w ∧ decode w = some i

/-- A word that decodes is the word of its instruction: no bit is dropped, and it is well-formed (R136, R137, R138, R140, R141, R142, R143). -/
def Obligations.EncodeOfDecode : Prop :=
  ∀ (w : IWord) (i : Instr), decode w = some i → i.wf = true ∧ i.isWord = true ∧ encode i = some w

/-- A word with an unassigned opcode decodes to nothing (R143). -/
def Obligations.UnassignedOpcodes : Prop :=
  ∀ w : IWord, let op := w.toNat / 2 ^ 24
    ((0x2B ≤ op ∧ op ≤ 0x2F) ∨ (0x3D ≤ op ∧ op ≤ 0x3F) ∨ (0x48 ≤ op ∧ op ≤ 0x4F) ∨ (0x57 ≤ op ∧ op ≤ 0x5F) ∨
      (0x65 ≤ op ∧ op ≤ 0x6F) ∨ (0x78 ≤ op ∧ op ≤ 0x7F) ∨ op = 0x86 ∨ op = 0x87 ∨ (0x8C ≤ op ∧ op ≤ 0x8F) ∨
      (0x92 ≤ op ∧ op ≤ 0x97) ∨ (0x99 ≤ op ∧ op ≤ 0xBF) ∨ op = 0xC1 ∨ op = 0xE4 ∨ 0xF5 ≤ op) →
    decode w = none ∧ (op < 0xC0 → laneInstr w = .illegalOp w)

/-- A step runs the instruction its mover fetches (R42, R43, R140, R262, R327, R180, R100, R342). -/
def Obligations.StepRunsDecodedInstruction : Prop :=
  ∀ (s : State) (m : Move) (rest : List Move), s.power = true →
    let u := (({ s with agenda := rest }).tick m.dt).settleFlrs.settleMgmt
    (s.agenda = m :: rest →
      (∀ c h, m.who = .lane c h →
        let l := (u.cell c).lane
        let w := (u.cx c l.fir.ctx).image.getD l.fir.ia 0
        let late := u.behind c (if w.toNat / 2 ^ 24 < 0xC0 then (decode w).getD (.illegalOp w) else .illegalOp w) = true
        (l.busy = true → l.stall = none → u.runs c = true → ¬ late →
          (∀ i, w.toNat / 2 ^ 24 < 0xC0 → decode w = some i → step s = exec i { u with cur := c, held := h }) ∧
          (0xC0 ≤ w.toNat / 2 ^ 24 ∨ decode w = none → step s = exec (.illegalOp w) { u with cur := c, held := h })) ∧
        (l.busy = false ∨ l.stall ≠ none ∨ u.runs c = false ∨ late → step s = .next u)) ∧
      (∀ c, m.who = .vector c →
        let v := (u.cell c).vec
        (∀ w i, v.run ≠ none → v.waiting = false → v.ended = false → u.runs c = true → v.buf[v.pc]? = some w →
          0xC0 ≤ w.toNat / 2 ^ 24 → decode w = some i → step s = exec i { u with cur := c, held := false }) ∧
        (v.run = none ∨ v.waiting = true ∨ v.ended = true ∨ u.runs c = false ∨ v.buf[v.pc]? = none → step s = .next u)) ∧
      (∀ i, m.who = .event i → (i.isWord = true → step s = .next u) ∧
        (i.isWord = false → (u.hostIn i = none → step s = exec i u) ∧ ∀ t, u.hostIn i = some t → step s = .next t)) ∧
      (∀ n, m.who = .flit n → step s = .next (u.hopMove n)) ∧
      (∀ k, m.who = .outside (.hostRetry k) →
        (∀ t, u.hostOut k = (none, t) → step s = .next t) ∧ ∀ i t, u.hostOut k = (some i, t) → step s = exec i t) ∧
      (∀ op k, m.who = .ask op k → step s = .next (u.ask op k)) ∧ (∀ c, m.who = .work c → step s = .next (u.matrixWork c)) ∧
      (∀ o, (∀ k, o ≠ .hostRetry k) → m.who = .outside o → step s = .next (u.outside o))) ∧
    (s.agenda = [] → step s = .next (s.tick 2).settleFlrs.settleMgmt)

/-- Every step keeps applied memory in its canonical form (R19, 05_memory_model.md). -/
def Obligations.MemoryCanonicalKept : Prop :=
  ∀ s t : State, s.Inv → step s = .next t → t.Inv

/-- Memory after reset is in its canonical form, and a step never stops a powered module (R19). -/
def Obligations.MemoryCanonicalAtReset : Prop :=
  State.reset.Inv ∧ ∀ s : State, s.power = true → ∃ t, step s = .next t

/-- What power-up leaves: zeroed memory, free bays, clocks at zero, no firing anywhere (R19, R295, R312, R360, R366). -/
def Obligations.ResetState : Prop :=
  (∀ a, State.reset.rd a = 0) ∧ State.reset.gkeys = [] ∧ State.reset.gpoison = [] ∧
  (∀ p, (State.reset.parts.getD p {}).st = .free ∧ (State.reset.parts.getD p {}).tenant = 0xFFFF) ∧
  State.reset.insts = [] ∧ State.reset.net = [] ∧ State.reset.ops = [] ∧
  (∀ f q, (State.reset.queue f q).st = .disabled) ∧ State.reset.clock.gtst = .free ∧ State.reset.clock.gtoff = 0 ∧
  State.reset.ckpt.st = 0 ∧ State.reset.mgmt.busy = false ∧ State.reset.mgmt.cmd = 0 ∧ State.reset.tlb = [] ∧ State.reset.cupboards = [] ∧ State.reset.hostq = [] ∧
  (∀ c, (State.reset.cell c).lane.busy = false ∧ (State.reset.cell c).inq = [] ∧ (State.reset.cell c).heap.free = 2048)

/-- VADD, VSUB, VMUL, VMAD, VMIN, VMAX and VABS compute each unmasked element exactly and narrow it (R264, R265, R266, R277, R108). -/
def Obligations.VectorIntegerResults : Prop :=
  ∀ (i : Instr) (s : State) (d a b : BitVec 5) (k : BitVec 3) (c : BitVec 2) (sat u : Bool), i.wf = true →
    let w := 32 / 2 ^ c.toNat
    (∀ x y z, ∃ v, Ref.vexact i w x y z = some (d, a, b, k, c, sat, u, v)) →
    let value := fun j => match Ref.vexact i w (s.el a w j) (s.el b w j) (s.el d w j) with
      | some (_, _, _, _, _, _, _, v) => Ref.narrow w sat u v
      | none => (0, 0)
    ∃ t, exec i s = .next t ∧ VecStep s [d] [] (Ref.flags (2048 / w) (s.on k) fun j => (value j).2) t ∧ t.vec.gens = s.vec.gens ∧
      ∀ j, j < 2048 / w → t.el d w j = if s.on k j then (value j).1 else s.el d w j

/-- VAND, VOR, VXOR, VSHL, VSHR, VMOV, VMOVS, VIOTA, VSEL, VPERM, VBCST and VSLD write each unmasked element (R265, R266, R276, R277, R287). -/
def Obligations.VectorBitResults : Prop :=
  ∀ (i : Instr) (s : State) (d : BitVec 5) (k : BitVec 3) (w : Nat), i.wf = true →
    (∀ j, ∃ v, Ref.vbits s j i = some (d, k, w, v)) →
    ∃ t, exec i s = .next t ∧ VecStep s [d] [] 0 t ∧ t.vec.gens = s.vec.gens ∧
      ∀ j, j < 2048 / w → ∀ v, Ref.vbits s j i = some (d, k, w, v) → t.el d w j = if s.on k j then v else s.el d w j

/-- The float, conversion, quantisation, special and twiddle words write each unmasked element and draw from their lanes; the values at the edges (R125, R127, R128, R129, R130, R265, R266, R279, R281, R282, R285, R288). -/
def Obligations.VectorFloatResults : Prop :=
  (∀ a, a < 2 ^ 32 →
    let q := fp32.nanBits
    let u := Ref.units fp32 a
    let neg := Ref.neg fp32 a
    let inf := Ref.isInf fp32 a
    let unit : Int := 2 ^ 149
    let null := Ref.signed fp32 neg
    (Ref.isNan fp32 a = true → ∀ f, f ∈ [vrcp, vrsq, vexp2, vlog2, vtanh, vsin, vcos] → f a = (q, Ref.nv (Ref.isSig fp32 a))) ∧
    (inf = true → vrcp a = (null, 0) ∧ vrsq a = (if neg then (q, 1) else (0, 0)) ∧
      vexp2 a = (if neg then 0 else fp32.infBits false, 0) ∧ vlog2 a = (if neg then (q, 1) else (fp32.infBits false, 0)) ∧
      vtanh a = (null + 0x3F800000, 0) ∧ vsin a = (q, 1) ∧ vcos a = (q, 1)) ∧
    (Ref.isZero fp32 a = true → vrcp a = (fp32.infBits neg, 2) ∧ vrsq a = (fp32.infBits neg, 2) ∧ vexp2 a = (0x3F800000, 0) ∧
      vlog2 a = (fp32.infBits true, 2) ∧ vtanh a = (null, 0) ∧ vsin a = (null, 0) ∧ vcos a = (0x3F800000, 0)) ∧
    (Ref.isFin fp32 a = true → u < 0 → vrsq a = (q, 1) ∧ vlog2 a = (q, 1)) ∧
    (Ref.isFin fp32 a = true → u ≠ 0 →
      (Ref.mag fp32 a ≤ 2 ^ 21 → vrcp a = (fp32.infBits neg, 4)) ∧
      (2 ^ 21 < Ref.mag fp32 a → Ref.rounds fp32 0 (if neg then -(2 ^ 298) else 2 ^ 298) u.natAbs (vrcp a).1 ∧ (vrcp a).2 = 0) ∧
      (128 * unit ≤ u → vexp2 a = (fp32.infBits false, 4)) ∧ (u ≤ -150 * unit → vexp2 a = (0, 0)) ∧
      (∀ k : Int, -149 ≤ k → k < 128 → u = k * unit → (Ref.units fp32 (vexp2 a).1 = 2 ^ (k + 149).toNat ∧ (vexp2 a).2 = 0)) ∧
      (∀ k : Int, -149 ≤ k → u = 2 ^ (k + 149).toNat → Ref.units fp32 (vlog2 a).1 = k * unit ∧ (vlog2 a).2 = 0) ∧
      (a = 0x3F800000 → vlog2 a = (0, 0)) ∧
      (u % unit = 0 → vsin a = (null, 0) ∧ vcos a = (if u / unit % 2 = 0 then 0x3F800000 else 0xBF800000, 0)) ∧
      (∀ k : Int, u = k * 2 ^ 148 → k % 2 = 1 → vsin a = (if k % 4 = 1 then 0x3F800000 else 0xBF800000, 0) ∧ vcos a = (0, 0)))) ∧
  (∀ n k e : Nat, n ≤ 24 → 4 * (k % 2 ^ n) = e * 2 ^ n →
    twiddle n k = match e with | 0 => (0x3F800000, 0) | 1 => (0, 0xBF800000) | 2 => (0xBF800000, 0) | _ => (0, 0x3F800000)) ∧
  (∀ m x z : Nat, m < 5 → x < 2 ^ 16 → ∀ nan : Bool,
    (∀ c src dst, (c, src, dst) ∈ [(0, fp32, bf16), (1, fp32, fp16), (2, fp32, fp8e4), (3, fp32, fp8e5), (4, fp32, fp4), (5, bf16, fp32),
        (6, fp16, fp32), (8, fp8e5, fp32)] → z < 2 ^ src.width →
      let r := (vcvtOf c).2.2 m x nan z
      let top := Ref.largest dst (Ref.units src z)
      (vcvtOf c).1 = src.width ∧ (vcvtOf c).2.1 = dst.width ∧
      (Ref.isNan src z = true → r = if dst = fp4 then (0, 1) else (dst.nanBits, Ref.nv (Ref.isSig src z))) ∧
      (Ref.isInf src z = true → r = if dst.inf then (dst.infBits (Ref.neg src z), 0) else
        (if nan = true ∧ dst ≠ fp4 then dst.nanBits else Ref.signed dst (Ref.neg src z) + dst.max, 4)) ∧
      (Ref.isZero src z = true → r = (Ref.signed dst (Ref.neg src z), 0)) ∧
      (Ref.isFin src z = true → Ref.deliveredAs dst m x (Ref.units src z * Ref.unit dst) (Ref.unit src)
        (if nan = true ∧ dst ≠ fp4 then dst.nanBits else top) r)) ∧
    (∀ c src, (c, src) ∈ [(7, fp8e4), (9, fp4)] → z < 2 ^ src.width →
      let r := (vcvtOf c).2.2 m x nan z
      (vcvtOf c).1 = src.width ∧ (vcvtOf c).2.1 = 32 ∧ (src.max < Ref.mag src z → r = (fp32.nanBits, 0)) ∧
      (Ref.isFin src z = true → Ref.units fp32 r.1 * Ref.unit src = Ref.units src z * Ref.unit fp32 ∧
        Ref.neg fp32 r.1 = Ref.neg src z ∧ r.2 = 0)) ∧
    (∀ c w, (c, w) ∈ [(10, 32), (11, 16), (12, 8)] → z < 2 ^ 32 →
      let r := (vcvtOf c).2.2 m x nan z
      let k := if m = 4 then Ref.drawnInt x (Ref.units fp32 z) (Ref.unit fp32) else Ref.roundInt m (Ref.units fp32 z) (Ref.unit fp32)
      (vcvtOf c).1 = 32 ∧ (vcvtOf c).2.1 = w ∧ (Ref.isNan fp32 z = true → r = (0, 1)) ∧
      (Ref.isInf fp32 z = true → r = (if Ref.neg fp32 z then 2 ^ (w - 1) else 2 ^ (w - 1) - 1, 33)) ∧
      (Ref.isFin fp32 z = true → r = if (2 ^ (w - 1) : Int) ≤ k then (2 ^ (w - 1) - 1, 33) else if k < -2 ^ (w - 1) then (2 ^ (w - 1), 33)
        else ((BitVec.ofInt w k).toNat, if k * Ref.unit fp32 = Ref.units fp32 z then 0 else 16))) ∧
    (∀ c w, (c, w) ∈ [(13, 32), (14, 16), (15, 8)] → z < 2 ^ w →
      let r := (vcvtOf c).2.2 m x nan z
      let v := (BitVec.ofNat w z).toInt
      (vcvtOf c).1 = w ∧ (vcvtOf c).2.1 = 32 ∧ (z = 0 → r = (0, 0)) ∧
      Ref.deliveredAs fp32 m x (v * Ref.unit fp32) 1 (Ref.largest fp32 v) r) ∧
    (∀ c v w, (c, v, w) ∈ [(16, 32, 16), (17, 32, 8), (18, 16, 32), (19, 8, 32)] → z < 2 ^ v →
      (vcvtOf c).1 = v ∧ (vcvtOf c).2.1 = w ∧ (vcvtOf c).2.2 m x nan z = Ref.narrow w true false (BitVec.ofNat v z).toInt) ∧
    (∀ f b, f ∈ [fp8e4, fp8e5, fp4] → b < 256 → z < 2 ^ 32 →
      let r := quantise f m x b z
      (b = 255 → r = (f.nanBits, 1)) ∧
      (b < 255 → (Ref.isNan fp32 z = true → r = if f = fp4 then (0, 1) else (f.nanBits, Ref.nv (Ref.isSig fp32 z))) ∧
        (Ref.isInf fp32 z = true → r = if f.inf then (f.infBits (Ref.neg fp32 z), 0) else (Ref.signed f (Ref.neg fp32 z) + f.max, 4)) ∧
        (Ref.isZero fp32 z = true → r = (Ref.signed f (Ref.neg fp32 z), 0)) ∧
        (Ref.isFin fp32 z = true → Ref.deliveredAs f m x (Ref.units fp32 z * Ref.unit f * 2 ^ 127) (Ref.unit fp32 * 2 ^ b)
          (Ref.largest f (Ref.units fp32 z)) r)))) ∧
  ∀ (i : Instr) (s : State) (d : BitVec 5) (k : BitVec 3) (m w n : Nat) (clear : Bool), i.wf = true →
    (∀ j, ∃ f, Ref.vdraws s j i = some (d, k, m, w, n, clear, f)) →
    let value := fun j => match Ref.vdraws s j i with
      | some (_, _, _, _, _, _, f) => f (if m = 4 then Ref.drawn s.vec.gens w j else 0)
      | none => (0, 0)
    ∃ t, exec i s = .next t ∧ VecStep s [d] [] (Ref.flags n (s.on k) fun j => (value j).2) t ∧
      (∀ j, j < n → t.el d w j = if s.on k j then (value j).1 % 2 ^ w else s.el d w j) ∧
      (∀ j, n ≤ j → t.el d w j = if clear then 0 else s.el d w j) ∧
      ∀ l, l < 64 → t.vec.gens.toList.getD l 0 = Ref.stepped (s.vec.gens.toList.getD l 0) (if m = 4 then Ref.inLane w n l else 0)

/-- VCMP, VFCMP, VMSET, VMSET_ZERO, VMSET_ONES and VMLOG write one mask register (R142, R265, R278, R280, R290). -/
def Obligations.VectorMaskResults : Prop :=
  ∀ (s : State) (d e f : BitVec 3) (a b : BitVec 5) (k : BitVec 3) (c : BitVec 2) (cd l : BitVec 4),
    let sets := fun (i : Instr) (fl : BitVec 7) (bit : Nat → Bool) => ∃ t, exec i s = .next t ∧ VecStep s [] [d] fl t ∧
      t.vec.gens = s.vec.gens ∧ (d = 0 → t.vec.m = s.vec.m) ∧
      (d ≠ 0 → ∀ j, j < 256 → (t.vec.m.get d.toFin).getLsbD j = bit j)
    let w := 32 / 2 ^ c.toNat
    let fm := floatOf c
    (c ≠ 3 → cd.toNat < 12 → sets (.vcmp d a b k c cd) 0 fun j => decide (j < 2048 / w) && s.on k j &&
      (match cd.toNat with
        | 0 => s.el a w j == s.el b w j
        | 1 => s.el a w j != s.el b w j
        | 2 => (BitVec.ofNat w (s.el a w j)).slt (BitVec.ofNat w (s.el b w j))
        | 3 => (BitVec.ofNat w (s.el b w j)).sle (BitVec.ofNat w (s.el a w j))
        | 4 => decide (s.el a w j < s.el b w j)
        | 5 => decide (s.el b w j ≤ s.el a w j)
        | 6 => (BitVec.ofNat w (s.el a w j)).sle (BitVec.ofNat w (s.el b w j))
        | 7 => (BitVec.ofNat w (s.el b w j)).slt (BitVec.ofNat w (s.el a w j))
        | 8 => decide (s.el a w j ≤ s.el b w j)
        | 9 => decide (s.el b w j < s.el a w j)
        | 10 => (s.el a w j &&& s.el b w j) != 0
        | _ => (s.el a w j &&& s.el b w j) == 0)) ∧
    (c ≠ 3 → cd.toNat < 8 → sets (.vfcmp d a b k c cd)
      (Ref.flags (2048 / fm.width) (s.on k) fun j => (fm.cmp cd.toNat (s.el a fm.width j) (s.el b fm.width j)).2)
      fun j => decide (j < 2048 / fm.width) && s.on k j && (fm.cmp cd.toNat (s.el a fm.width j) (s.el b fm.width j)).1) ∧
    sets (.vmset d a c) 0 (fun j => decide (j < 2048 / rawW c) && s.el a (rawW c) j != 0) ∧
    sets (.vmsetZero d) 0 (fun _ => false) ∧ sets (.vmsetOnes d) 0 (fun _ => true) ∧
    sets (.vmlog d e f l) 0 (fun j => l.getLsbD ((if s.on e j then 2 else 0) + (if s.on f j then 1 else 0)))

/-- VPACK inserts a piece, VUNPK takes one out, VBSCL writes four block scales (R283, R284). -/
def Obligations.VectorPackResults : Prop :=
  ∀ (s : State) (d a b : BitVec 5) (z : BitVec 2) (p k : BitVec 3) (c : BitVec 2), p.toNat < 2 ^ (z.toNat + 1) →
    let n := 1024 / 2 ^ z.toNat
    let bitOf := fun (u : State) (r : BitVec 5) (j : Nat) => (u.vec.v.get r.toFin).getLsbD j
    let on := fun (x : Nat) => (List.range 32).filter fun j => s.on k (32 * x + j)
    let el := fun (x j : Nat) => if x < 2 then s.el a 32 (32 * x + j) else s.el b 32 (32 * (x - 2) + j)
    let scale := fun (x : Nat) => Ref.blockScale (match c.toNat with | 0 => 8 | 1 => 15 | _ => 2) ((on x).map (el x))
    (∃ t, exec (.vpack d a z p) s = .next t ∧ VecStep s [d] [] 0 t ∧ t.vec.gens = s.vec.gens ∧ ∀ j, j < 2048 →
      bitOf t d j = if p.toNat * n ≤ j ∧ j < (p.toNat + 1) * n then bitOf s a (j - p.toNat * n) else bitOf s d j) ∧
    (∃ t, exec (.vunpk d a z p) s = .next t ∧ VecStep s [d] [] 0 t ∧ t.vec.gens = s.vec.gens ∧ ∀ j, j < 2048 →
      bitOf t d j = if j < n then bitOf s a (j + p.toNat * n) else false) ∧
    (∃ t, exec (.vbscl d a b k c) s = .next t ∧
      VecStep s [d] [] ((scale 0).2 ||| (scale 1).2 ||| (scale 2).2 ||| (scale 3).2) t ∧ t.vec.gens = s.vec.gens ∧
      ∀ j, j < 256 → t.el d 8 j = if j < 4 then (scale j).1 % 256 else 0)

/-- VRED folds the tree of R123, VSCAN runs along it, VCMUL and VBFLY compute complex products and butterflies (R123, R125, R131, R286, R289, R265, R107, R127). -/
def Obligations.VectorReductionsAndComplex : Prop :=
  (∀ (f : Fmt) (m x a b c d : Nat) (minus : Bool), f = fp32 ∨ f = bf16 → m < 5 → x < 2 ^ 16 →
    a < 2 ^ f.width → b < 2 ^ f.width → c < 2 ^ f.width → d < 2 ^ f.width →
    let r := sumProd f m x minus a b c d
    let nan := Ref.isNan f
    let inf := Ref.isInf f
    let invalid := fun (y z : Nat) => (Ref.isZero f y && inf z) || (inf y && Ref.isZero f z)
    let s := Ref.neg f a != Ref.neg f b
    let t := (Ref.neg f c != Ref.neg f d) != minus
    let n := Ref.units f a * Ref.units f b + (if minus then -1 else 1) * (Ref.units f c * Ref.units f d)
    let some := nan a || nan b || nan c || nan d
    let bad := Ref.isSig f a || Ref.isSig f b || Ref.isSig f c || Ref.isSig f d || invalid a b || invalid c d
    ((some || bad) = true → r = (f.nanBits, Ref.nv bad)) ∧
    ((some || bad) = false →
      ((inf a || inf b) = true → r = if (inf c || inf d) && s != t then (f.nanBits, 1) else (f.infBits s, 0)) ∧
      ((inf a || inf b) = false → (inf c || inf d) = true → r = (f.infBits t, 0)) ∧
      ((inf a || inf b || inf c || inf d) = false → Ref.delivered f m x n (Ref.unit f) r ∧
        (n = 0 → r = (Ref.signed f (if s == t then s else m == 3), 0))))) ∧
  ∀ (s : State) (d a b : BitVec 5) (e : BitVec 4) (o k : BitVec 3) (c : BitVec 2) (r : BitVec 4), c ≠ 3 →
    let m := Ref.vmode s r
    let g := s.vec.gens
    let rs := o = 0 ∧ m = 4
    let q := Ref.reduction o.toNat c m
    let w := q.1
    let z := 2048 / w
    let h := if w = 32 then 6 else if w = 16 then 7 else 8
    let x := fun j => if s.on k j then s.el a w j else q.2.1
    let node := fun (n i y y' : Nat) =>
      q.2.2 (if rs then Ref.drawNo g (i * w / 32) (Ref.treeDraws w z (i * w / 32) n + i % (32 / w) + 1) else 0) y y'
    let seen := fun (l : Nat) => if l = 0 then 1 else 0
    let next := fun (j y y' : Nat) =>
      q.2.2 (if rs then Ref.drawNo g (j * w / 32) (j % (32 / w) + 1 - seen (j * w / 32)) else 0) y y'
    let gens := fun (t : State) (n : Nat → Nat) => ∀ l, l < 64 → t.vec.gens.toList.getD l 0 = Ref.stepped (g.toList.getD l 0) (n l)
    let f := cplxOf c
    let n := f.width
    let el := fun (r : BitVec 5) (j : Nat) (im : Bool) => s.el r n (2 * j + im.toNat)
    let draw := fun (j i : Nat) (im : Bool) => if m = 4 then Ref.partDraw g n j i im else 0
    let prod := fun (p q : BitVec 5) (j : Nat) (im : Bool) =>
      if im then sumProd f m (draw j 0 true) false (el p j false) (el q j true) (el p j true) (el q j false)
      else sumProd f m (draw j 0 false) true (el p j false) (el q j false) (el p j true) (el q j true)
    let steps := fun (i : Nat) => if m = 4 then (if n = 32 then i else 2 * i) else 0
    let w0 := e ++ 0#1
    let w1 := e ++ 1#1
    let sum := fun (j : Nat) (im : Bool) => f.add m (draw j 1 im) (el a j im) (prod w0 b j im).1
    let dif := fun (j : Nat) (im : Bool) => f.sub m (draw j 2 im) (el a j im) (prod w0 b j im).1
    (∃ t, exec (.vred d a o k c r) s = .next t ∧ VecStep s [d] [] (Ref.treeFlags node x z h) t ∧
      gens t (fun l => if rs then Ref.treeDraws w z l h else 0) ∧
      t.el d w 0 = Ref.tree node x h 0 % 2 ^ w ∧ ∀ j, 0 < j → j < z → t.el d w j = 0) ∧
    (∃ t, exec (.vscan d a o k c r) s = .next t ∧
      VecStep s [d] [] (Ref.flags (z - 1) (fun _ => true) fun j => (next (j + 1) (Ref.running next x j) (x (j + 1))).2) t ∧
      gens t (fun l => if rs then Ref.inLane w z l - seen l else 0) ∧
      ∀ j, j < z → t.el d w j = if s.on k j then Ref.running next x j % 2 ^ w else s.el d w j) ∧
    (c.toNat < 2 → ∃ t, exec (.vcmul d a b k c r) s = .next t ∧
      VecStep s [d] [] (Ref.flags (1024 / n) (s.on k) fun j => (prod a b j false).2 ||| (prod a b j true).2) t ∧
      gens t (fun _ => steps 1) ∧ ∀ j im, j < 1024 / n →
        t.el d n (2 * j + im.toNat) = if s.on k j then (prod a b j im).1 % 2 ^ n else el d j im) ∧
    (c.toNat < 2 → ∃ t, exec (.vbfly e a b k c r) s = .next t ∧
      VecStep s [w0, w1] [] (Ref.flags (1024 / n) (s.on k) fun j => (prod w0 b j false).2 ||| (prod w0 b j true).2 |||
        (sum j false).2 ||| (sum j true).2 ||| (dif j false).2 ||| (dif j true).2) t ∧
      gens t (fun _ => steps 3) ∧ ∀ j im, j < 1024 / n →
        t.el w0 n (2 * j + im.toNat) = (if s.on k j then (sum j im).1 % 2 ^ n else el w0 j im) ∧
        t.el w1 n (2 * j + im.toNat) = if s.on k j then (dif j im).1 % 2 ^ n else el w1 j im)

/-- VLOOP sets a loop, the end of its body turns back, VEND ends the kernel, VLD and VST move the next elements of a stream (R262, R267, R269, R270, R272, R274, R275). -/
def Obligations.VectorControlAndStreams : Prop :=
  ∀ (s : State) (d a : BitVec 5) (l : BitVec 2) (c : BitVec 14) (n : BitVec 8) (i : BitVec 2) (o : Bool) (k : BitVec 3),
    let v := s.vec
    let count := if c.getLsbD 13 then ((s.vcmd.params.getD (c.toNat % 8) 0).setWidth 32).toNat else c.toNat % 2 ^ 13
    let free := ∀ q : Fin 3, (v.loops.get q).active = true → (v.loops.get q).last ≠ v.pc
    let frame := fun (t : State) => OnlyCell s t ∧ t.lane = s.lane ∧ t.vec.m = v.m ∧ t.vec.gens = v.gens ∧ t.vec.queue = v.queue
    (∀ hl : l.toNat < 3, count ≠ 0 → n ≠ 0 → free →
      ∃ t, exec (.vloop l c n) s = .next t ∧ frame t ∧ t.vec.v = v.v ∧ t.vec.pc = v.pc + 1 ∧
        t.vec.loops = v.loops.set l.toNat { lc := BitVec.ofNat 32 count, top := v.pc + 1, last := v.pc + n.toNat, active := true } hl) ∧
    (count = 0 → free → ∃ t, exec (.vloop l c n) s = .next t ∧ frame t ∧ t.vec.v = v.v ∧ t.vec.loops = v.loops ∧
      t.vec.pc = v.pc + n.toNat + 1) ∧
    (∀ p : Nat,
      let ends := fun (q : Fin 3) => (v.loops.get q).active = true ∧ (v.loops.get q).last = v.pc
      let done := fun (q : Fin 3) => { v.loops.get q with lc := 0, active := false }
      (∀ l : Fin 3, ends l → 1 < (v.loops.get l).lc.toNat → (∀ q, l < q → ends q → (v.loops.get q).lc = 1) →
        (v.advance p).pc = (v.loops.get l).top ∧ (v.advance p).ended = decide (v.buf.length ≤ (v.loops.get l).top) ∧
        ∀ q, (v.advance p).loops.get q =
          if q = l then { v.loops.get l with lc := (v.loops.get l).lc - 1 } else if l < q ∧ ends q then done q else v.loops.get q) ∧
      ((∀ q, ends q → (v.loops.get q).lc = 1) →
        (v.advance p).pc = p ∧ (v.advance p).ended = decide (v.buf.length ≤ p) ∧
        ∀ q, (v.advance p).loops.get q = if ends q then done q else v.loops.get q)) ∧
    (∃ t, exec .vend s = .next t ∧ frame t ∧ t.vec.ended = true ∧ t.vec.v = v.v) ∧
    (∀ q, v.ins.getD i.toNat none = some q → q.port = none → 0 < q.chunk → free →
      let tile := ((s.cell s.cur).named q.tile q.gen).asRead s.vcmd.uid
      let place := fun j => (q.offset (q.pos + j)).toNat
      let taints := ∃ j, j < q.chunk ∧ (tile.poison = true ∨ place j ∈ tile.bad)
      ∃ t, exec (.vld d i) s = .next t ∧ t.lane = s.lane ∧ t.vec.m = v.m ∧ t.vec.gens = v.gens ∧ t.vec.queue = v.queue ∧
        (¬ taints → frame t ∧ t.vec.run = v.run) ∧ (taints → ∀ r, v.run = some r → ∃ r', t.vec.run = some r' ∧ r'.poisoned = true) ∧
        t.vec.pc = v.pc + 1 ∧ t.vec.outs = v.outs ∧
        t.vec.ins.getD i.toNat none = some { q with pos := q.pos + q.chunk } ∧
        (∀ r, r ≠ d → t.vec.v.get r.toFin = v.v.get r.toFin) ∧
        ∀ j, j < 2048 / eb q.fmt → t.el d (eb q.fmt) j =
          if j < q.chunk ∧ place j ∉ tile.bad then (tile.els.getD (place j) 0).toNat % 2 ^ eb q.fmt else 0) ∧
    (∀ q p, v.ins.getD i.toNat none = some q → q.port = some p → 0 < q.chunk → free →
      let rows := ((s.cell s.cur).ports.getD p {}).rows
      let cols := q.dims.headD 1
      let col := q.pos % cols
      0 < cols → (∀ r, r ∈ rows → r.ctx = s.vcmd.who.ctx ∧ r.fmt = q.fmt ∧ cols ≤ r.els.length ∧ r.poison = false) →
      col + q.chunk ≤ cols * rows.length →
      ∃ t, exec (.vld d i) s = .next t ∧ frame t ∧ t.vec.run = v.run ∧ t.vec.pc = v.pc + 1 ∧
        ((t.cell s.cur).ports.getD p {}).rows = rows.drop ((col + q.chunk) / cols) ∧
        t.vec.ins.getD i.toNat none = some { q with pos := q.pos + q.chunk } ∧
        (∀ r, r ≠ d → t.vec.v.get r.toFin = v.v.get r.toFin) ∧
        ∀ j, j < 2048 / eb q.fmt → t.el d (eb q.fmt) j =
          if j < q.chunk then (((rows.getD ((col + j) / cols) {}).els.getD ((col + j) % cols) 0).toNat) % 2 ^ eb q.fmt else 0) ∧
    (∀ q p, v.ins.getD i.toNat none = some q → q.port = some p → 0 < q.chunk → ((s.cell s.cur).ports.getD p {}).rows = [] →
      ∃ t, exec (.vld d i) s = .next t ∧ frame t ∧ t.vec = { v with waiting := true }) ∧
    (∀ q, v.outs.getD o.toNat none = some q → 0 < q.chunk → free →
      ((s.cell s.cur).tile q.tile).live = true → ((s.cell s.cur).tile q.tile).gen = q.gen →
      (∀ x y, x < y → y < q.chunk → q.offset (q.pos + x) ≠ q.offset (q.pos + y)) → (∀ x, x < q.chunk → 0 ≤ q.offset (q.pos + x)) →
      ∃ t, exec (.vst o a k) s = .next t ∧ frame t ∧ t.vec.v = v.v ∧ t.vec.pc = v.pc + 1 ∧ t.vec.ins = v.ins ∧
        (∀ j, j < q.chunk → s.on k j = true → (((t.cell s.cur).tile q.tile).els.getD (q.offset (q.pos + j)).toNat 0).toNat = s.el a (eb q.fmt) j) ∧
        (∀ e, (∀ j, j < q.chunk → s.on k j = true → (q.offset (q.pos + j)).toNat ≠ e) →
          ((t.cell s.cur).tile q.tile).els.getD e 0 = ((s.cell s.cur).tile q.tile).els.getD e 0))

/-- Tokens arrive, spill and return, are matched and parked, and firings start and resume (R24, R26, R27, R28, R29, R33, R39, R40, R41, R42, R53, R54). -/
def Obligations.TokensArriveMatchAndFire : Prop :=
  ∀ (s : State) (src c x : Nat),
    let d := s.cell c
    let k := s.cx c x
    (∀ p tk, s.packet? 0 src c x = some p → p.body = .token tk → k.inst ≠ none → k.voids tk = false →
      let u := s.takePacket 0 src c x
      let crowded := 512 ≤ d.inq.length ∨ k.spill ≠ []
      (¬ crowded → exec (.tokenArrival src c x) s =
        .next ((u.modCell c fun e => { e with inq := e.inq ++ [{ tk with src := src }] }).accepted p)) ∧
      (crowded → k.spill.length < k.spillCap → exec (.tokenArrival src c x) s =
        .next ((u.modCell c fun e => e.modCx x fun q => { q with spill := q.spill ++ [{ tk with src := src }], perf := q.perf.put 3 (q.perf.getD 3 0 + 1) }).accepted p)) ∧
      (crowded → k.spillCap ≤ k.spill.length → exec (.tokenArrival src c x) s = .next s)) ∧
    (∀ tk rest, k.spill = tk :: rest → d.inq.length < 512 → ∃ t, exec (.spillReturn c x) s = .next t ∧ OnlyAt s c t ∧
      (t.cell c).inq = d.inq ++ [tk] ∧ t.cx c x = { k with spill := rest } ∧
      { t.cell c with inq := d.inq, ctxs := d.ctxs } = d) ∧
    (k.resident = false → k.frames.isEmpty = true →
      let code := s.fetched c x
      (4 * (d.storeWords x + code.length) ≤ 65536 → exec (.imageFetchDone c x) s =
        .next ((s.modCx c x fun q => { q with resident := true, image := code }).serveLevels c x)) ∧
      ∀ t, exec (.imageFetchDone c x) s = .next t → t = s ∨ ∃ e : Cell, t = (s.modCell c fun _ => e).serveLevels c x ∧
        e.cx x = { k with resident := true, image := code } ∧ { e with ctxs := d.ctxs } = d ∧
        ∀ y, y ≠ x → e.cx y = s.cx c y ∨
          (e.cx y = { s.cx c y with resident := false } ∧ (s.cx c y).frames.isEmpty = true ∧ ¬ (d.lane.busy = true ∧ d.lane.fir.ctx = y))) ∧
    (k.resident = false → k.frames.isEmpty = false → exec (.imageFetchDone c x) s = .next s) ∧
    (k.resident = true → ∀ code, k.ahead = some (code, false) → 4 * (d.storeWords x + k.image.length + code.length) ≤ 65536 →
      exec (.imageFetchDone c x) s = .next (s.modCx c x fun q => { q with ahead := some (code, true) })) ∧
    (∀ tk, s.delivers c = true → d.inq.find? (s.open? c) = some tk →
      let y := s.cx c (ctxOf tk.cont)
      let b := baseOf tk.cont
      let h := headerOf (imageWord y.image (iaOf tk.cont))
      let slot := d.slots.get? (b + h.slot)
      let f : Fire := { ctx := ctxOf tk.cont, base := b, hdr := iaOf tk.cont, tag := tk.tag, prio := prioOf tk.cont, faulty := tk.faulty }
      let g : Fire := { f with faulty := tk.faulty || d.ftoks.contains (b + h.slot) }
      let bad := fun (e : FaultCode) => exec (.matcherTake c) s = .next ((s.dequeue c tk).discardTok c tk e)
      y.voids tk = false →
      (headerOk y.image (iaOf tk.cont) = false → bad .badHeader) ∧
      (headerOk y.image (iaOf tk.cont) = true → y.frames.get? b = none → bad .frameFree) ∧
      (headerOk y.image (iaOf tk.cont) = true → ∀ fr, y.frames.get? b = some fr →
        (h.kind = 0 → d.newReady < 256 → exec (.matcherTake c) s =
          .next ((s.dequeue c tk).pushReady c f.prio (.fresh { f with x1 := tk.val }))) ∧
        (h.kind = 1 → clsSlots fr.cls ≤ h.slot → bad .frameBound) ∧
        (h.kind = 1 → h.slot < clsSlots fr.cls →
          (slot = none → tk.faulty = false → exec (.matcherTake c) s = .next (((s.dequeue c tk).setSlot c (b + h.slot) (some (.full tk.val))).touch c (b + h.slot))) ∧
          (∀ r ia p g, slot = some (.deferred r ia p g) →
            exec (.matcherTake c) s = .next (((s.dequeue c tk).touch c (b + h.slot)).discardTok c tk .slotConflict)) ∧
          (∀ v, slot = some (.full v) → d.newReady < 256 → exec (.matcherTake c) s =
            .next ((((s.dequeue c tk).setSlot c (b + h.slot) none).touch c (b + h.slot)).pushReady c f.prio
              (.fresh (if portOf tk.cont = 0 then { g with x1 := tk.val, x2 := v } else { g with x1 := v, x2 := tk.val }))))))) ∧
    (∀ r, d.lane.busy = false → s.delivers c = true → readyHead d.firable = some r →
      (∀ f, r.body = .fresh f → ∃ t, exec (.laneTake c) s = .next t ∧ (t.cell c).ready = d.ready.erase r ∧ t.serial = s.serial + 1 ∧
        (t.cell c).lane.busy = true ∧ (t.cell c).lane.stall = none ∧ (t.cell c).lane.resume = none ∧ (t.cell c).lane.frees = [] ∧
        (t.cell c).lane.fir = { ctx := f.ctx, tag := f.tag, base := f.base, hdr := f.hdr, ia := f.hdr + 1, prio := f.prio, faulty := f.faulty, serial := s.serial } ∧
        (∀ n, (t.cell c).lane.regs.get n = if n = 1 then f.x1 else if n = 2 then f.x2 else if n = 3 then f.tag else 0) ∧
        ∀ n, (t.cell c).lane.regs.pred n = decide (n = 0)) ∧
      (∀ key q, r.body = .resumed key → d.recs.get? key = some q → ∃ t, exec (.laneTake c) s = .next t ∧
        (t.cell c).ready = d.ready.erase r ∧ (t.cell c).recs = d.recs.del key ∧
        (t.cell c).lane = { busy := true, fir := q.fir, regs := q.regs, resume := q.value, frees := q.frees })) ∧
    (∀ r cls, cls < 3 → d.ready.find? (fun r => r.cls == cls) = some r → r.since + 2048 ≤ s.ac c → ∃ t, exec (.readyPromotion c cls) s = .next t ∧
      OnlyAt s c t ∧ (t.cell c).ready = d.ready.erase r ++ [{ r with cls := cls + 1, since := s.ac c }] ∧ { t.cell c with ready := d.ready } = d)

/-- Stalls end, and frame, count, heap, barrier, wake and region messages take effect at their cell (R34, R35, R48, R50, R59, R188, R189, R194, R197, R204, R219, R220). -/
def Obligations.StallsEndAndMessagesArrive : Prop :=
  ∀ (s : State) (c src x : Nat),
    let d := s.cell c
    let u := s.unstall c
    let k := s.cx c x
    let got := fun (vn : Nat) (p : Packet) => (s.takePacket vn src c x).accepted p
    let answered := fun (p : Packet) (id : Nat) (o : MemOp) => (got 2 p).net ++
      [s.sent { vn := 3, src := c, dst := o.who.cell, ctx := o.who.ctx, counts := false, body := .answer id 0 o.who }]
    (∀ i, d.lane.stall = some (.net i) → Ref.sending i = true → exec (.laneStallEnd c) s = exec i u) ∧
    (∀ r h n, d.lane.stall = some (.blocks r h n) → u.plain →
      (0 < n → exec (.laneStallEnd c) s = .next s) ∧
      (n = 0 → ∃ t, exec (.laneStallEnd c) s = .next t ∧ RegsOnly u (u.lane.regs.set r h) 0 t)) ∧
    (∀ i, d.lane.stall = some (.seal i) → u.plain →
      (d.written i = true → exec (.laneStallEnd c) s = .next s) ∧
      (d.written i = false → (d.tile i).live = true →
        ∃ t, exec (.laneStallEnd c) s = .next t ∧ RegsOnly (u.modTile c i fun e => { e with sealed := true }) u.lane.regs 0 t)) ∧
    (∀ r id, d.lane.stall = some (.cropen r id) → u.plain →
      let all := ∀ m, m ∈ (s.cx c d.lane.fir.ctx).place → (s.cx m d.lane.fir.ctx).regions.get? id ≠ none
      (¬ all → exec (.laneStallEnd c) s = .next s) ∧
      (all → ∃ t, exec (.laneStallEnd c) s = .next t ∧ RegsOnly u (u.lane.regs.set r (BitVec.ofNat 64 id)) 0 t)) ∧
    (∀ m, d.lane.stall = some (.queue m) → u.plain →
      let q := d.queueOf m.op m.hi
      (q.2 ≤ q.1.length → exec (.engineQueueRoom c) s = .next s) ∧
      (q.1.length < q.2 → ∃ t, exec (.engineQueueRoom c) s = .next t ∧ OnlyAt s c { t with cur := s.cur, held := s.held } ∧
        (t.cell c).queueOf m.op m.hi = (q.1 ++ [m], q.2) ∧ (t.cell c).lane = u.laneAfter u.lane.regs ∧ (t.cell c).slots = d.slots)) ∧
    (∀ p level r q, s.message? src c x = some p → p.body = .falloc level r → s.late c x r.tag = false → k.pools.get? level = some q →
      (k.grantable level = none → exec (.fallocRequest src c x) s = .next ((got 0 p).modCx c x fun e =>
        { e with pools := e.pools.put level { q with queue := q.queue ++ [r] } })) ∧
      (∀ b res, k.grantable level = some (b, res) → q.queue = [] → ctxOf r.reply = x → isReturn r.reply = false →
        ∃ t, exec (.fallocRequest src c x) s = .next t ∧
          t.frame? c x b = some { cls := q.cls, level := level, region := r.region, reserved := res } ∧
          (∀ j, j < clsSlots q.cls → t.slot c (b + j) = none) ∧ (∀ j, j < b ∨ b + clsSlots q.cls ≤ j → t.slot c j = s.slot c j) ∧
          (t.cx c x).pools.get? level = some { q with live := q.live + 1 } ∧ t.mem = s.mem ∧
          t.net = (got 0 p).net ++ [s.sent { vn := 0, src := c, dst := k.place.getD (vcellOf r.reply) 0, ctx := x, also := some r.src, body := .token { cont := r.reply, val := mkCont k.vcell x b 0 0 0, tag := r.tag } }])) ∧
    (∀ p b w, s.message? src c x = some p → p.body = .ffree b w →
      let mine := d.lane.busy = true ∧ d.lane.fir.ctx = x ∧ d.lane.fir.base = b
      (mine → exec (.ffreeMessage src c x) s = .next ((got 0 p).modCell c fun e =>
        { e with lane := { e.lane with frees := e.lane.frees ++ [(b, w)] } })) ∧
      (∀ f, ¬ mine → k.frames.get? b = some f → ∃ u v, FrameGone (got 0 p) c x b f u ∧ Granted c x [7, 6, 5, 4, 3, 2, 1, 0] u v ∧
        exec (.ffreeMessage src c x) s = .next (match d.lowestDeferred b (clsSlots f.cls) with
          | none => v
          | some j => v.opFault w .frameFree (BitVec.ofNat 64 j) 0)) ∧
      (¬ mine → k.frames.get? b = none → exec (.ffreeMessage src c x) s = .next ((got 0 p).opFault w .frameFree 0 0))) ∧
    (∀ p h n up w, s.message? src c x = some p → p.body = .count h n up w →
      let e := d.tile (indexOf h)
      let excess := up = true ∧ (n = 0 ∨ 65535 < n)
      (excess → exec (.countMessage src c x) s = .next ((got 0 p).opLost w .shape (BitVec.ofNat 64 n) 0)) ∧
      (¬ excess → d.fits h = false → exec (.countMessage src c x) s = .next ((got 0 p).opLost w .handleStale h 0)) ∧
      (¬ excess → d.fits h = true → e.sealed = true →
        let goes := fun (f : Tile) => ∃ t, exec (.countMessage src c x) s = .next t ∧ OnlyAt (got 0 p) c t ∧
          (t.cell c).tile (indexOf h) = f ∧ ∀ j, j ≠ indexOf h → (t.cell c).tile j = d.tile j
        (up = true → e.count + n ≤ 65535 → goes { e with count := e.count + n }) ∧
        (up = false → 1 < e.count → goes { e with count := e.count - 1 }) ∧
        (up = false → e.count ≤ 1 → goes { gen := e.gen + 1 }))) ∧
    (0 < d.heap.zeroing → ∃ t, exec (.heapBlockZero c) s = .next t ∧ OnlyAt s c t ∧ (t.cell c).heap.tiles = d.heap.tiles ∧
      (t.cell c).heap.zeroing = d.heap.zeroing - 1 ∧
      (d.heap.owed = 0 → (t.cell c).heap.free = d.heap.free + 1 ∧ (t.cell c).heap.owed = 0) ∧
      (0 < d.heap.owed → (t.cell c).heap.free = d.heap.free ∧ (t.cell c).heap.owed = d.heap.owed - 1)) ∧
    (∀ p h off id w o, s.packet? 2 src c x = some p → p.body = .hld h off id w → s.op? id = some o →
      d.fits h = true → (d.tile (indexOf h)).sealed = true →
      off.toNat < (d.tile (indexOf h)).rows * (d.tile (indexOf h)).cols → off.toNat ∉ (d.tile (indexOf h)).bad →
      ∃ t, exec (.remoteHeapRequest src c x) s = .next t ∧ { t with net := (got 2 p).net } =
        ((got 2 p).modOp id fun q => { q with result := some ((d.tile (indexOf h)).els.getD off.toNat 0) }) ∧ t.net = answered p id o) ∧
    (∀ p h off id w o, s.packet? 2 src c x = some p → p.body = .hld h off id w → s.op? id = some o → d.fits h = false →
      ∃ t, exec (.remoteHeapRequest src c x) s = .next t ∧ { t with net := (got 2 p).net } =
        ((got 2 p).modOp id fun q => { q with fault := some (.handleStale, h, 0) }) ∧ t.net = answered p id o) ∧
    (∀ p h off w, s.packet? 2 src c x = some p → p.body = .hst h off w → d.fits h = true →
      exec (.remoteHeapRequest src c x) s = .next ((got 2 p).opLost w .tileState 0 0)) ∧
    (∀ id o v n f, s.op? id = some o → o.reply = some v → o.slot = some n → o.who.cell = c → o.who.ctx = x →
      k.frames.get? o.who.base = some f → n < o.who.base + clsSlots f.cls → ∃ t, exec (.producerReply id) s = .next t ∧
        t.ops = s.ops.filter (fun q => q.id != id) ∧ (t.cx c x).outstanding = k.outstanding - 1 ∧
        (t.cx c x).ctl.flags = k.ctl.flags ||| o.flags ∧ (t.cell c).slots = d.slots.put n (.full v) ∧
        (isDeferred (s.slot c n) = false → (t.cell c).ready = d.ready) ∧
        (∀ r ia pr g key q, s.slot c n = some (.deferred r ia pr g) → d.waiter n = some (key, q) →
          (t.cell c).recs = d.recs.put key { q with value := some v } ∧
          (t.cell c).ready = d.ready ++ [{ cls := pr, since := s.ac c, body := .resumed key }])) ∧
    (∀ id o v n, s.op? id = some o → o.reply = some v → o.slot = some n → o.who.cell = c → o.who.ctx = x →
      k.frames.get? o.who.base = none → exec (.producerReply id) s =
        .next ((((s.orFlags c x o.flags).dropOps fun q => q.id == id).opFault o.who .frameFree 0 0).lowerOut c x 1)) ∧
    (∀ p i n r w, s.message? src c x = some p → p.body = .bara i n r w →
      let q := d.barrier i
      (n = 0 ∨ 65536 ≤ n → exec (.barrierMessage src c x) s = .next ((got 0 p).opLost w .shape 0 0)) ∧ (0 < n → n < 65536 →
      (q.idle = true ∨ q.owner = w.ctx) → q.arrivals.toNat + n < 2 ^ 32 → (q.armed = false ∨ q.arrivals.toNat + n < q.target.toNat) →
      r = none → exec (.barrierMessage src c x) s = .next ((got 0 p).modCell c fun e =>
        { e with barriers := e.barriers.set {} i { q with arrivals := q.arrivals + BitVec.ofNat 32 n, owner := w.ctx } }))) ∧
    (∀ n p y v a, s.net.find? (fun p => p.dst == c && (p.arrived && match p.body with | .wake m _ _ _ => m == n | _ => false)) = some p →
      p.body = .wake n y v a →
      let q := d.wake n
      let seen := ∃ t, exec (.wakeValue c n) s = .next t ∧ t.net.length + 1 = s.net.length ∧ t.mem = s.mem ∧
        (∀ m, m ≠ c → t.cell m = s.cell m) ∧ (t.cell c).lane = d.lane ∧
        (((q.idle = true ∨ q.owner = y) → (t.cell c).wakes = d.wakes.set {} n { latch := some v, owner := y } ) ∧
          (q.idle = false → q.owner ≠ y → (t.cell c).wakes = d.wakes ∧
            (t.cell c).perf.getD 0x19 0 = d.perf.getD 0x19 0 + 1))
      (q.armed = false → seen) ∧
      (q.armed = true → q.owner = y → ∃ t, exec (.wakeValue c n) s = .next t ∧ (t.cell c).wakes = d.wakes.del n ∧
        ∃ z, t.net = z ++ [s.sent { vn := if isReturn q.cont then 4 else 0, src := c, ctx := ctxOf q.cont, dst := if isReturn q.cont then Config.frontEnd else (s.cx c (ctxOf q.cont)).place.getD (vcellOf q.cont) 0, body := if isReturn q.cont then .ret { cont := q.cont, val := v, tag := q.tag } else .token { cont := q.cont, val := v, tag := q.tag } }])) ∧
    (∀ p id, s.net.find? (fun p => p.vn == 4 && p.dst == c && p.ctx == x && p.arrived &&
        (match p.body with | .regionId _ => true | _ => false)) = some p → p.body = .regionId id → k.regions.get? id = none →
      ∃ t, exec (.regionIdRecord c x) s = .next t ∧ t.cx c x = { k with regions := k.regions.put id .opened } ∧
        t.net.length + 1 = s.net.length ∧ ∀ m, m ≠ c → t.cell m = s.cell m)

/-- The matrix engine takes, holds and carries out its commands, with the accumulator's arithmetic, drains rows, and commands complete (R51, R52, R111, R112, R114, R121, R127, R235, R245, R246, R247, R251). -/
def Obligations.MatrixEngineRuns : Prop :=
  ∀ (s : State) (c : Nat),
    let d := s.cell c
    let x := d.matrix
    let g := fun (m : Cmd) (i : Nat) => m.recw.getD i 0
    let a := fun (m : Cmd) => d.readBy m.uid
    let busy := fun (m : Cmd) => (m.op = .mwld ∧ x.bankBusy m = true) ∨ ((m.op = .macc ∨ m.op = .mdrain) ∧ d.rowsBusy m = true)
    let word := fun (k : Cell) (i n : Nat) => k.matrix.acc.getD (i * 64 + n) 0
    let becomes := fun (m : Cmd) (r : Run) => x.runs.map fun p => if p.cmd.uid = m.uid then r else p
    let ran := fun (t : State) (m : Cmd) => ∃ r, (t.cell c).matrix.runs = becomes m r ∧ r.cmd = m ∧ r.worked = true ∧
      r.ready = true ∧ r.failed = none ∧ (t.cell c).lane = d.lane ∧ (t.cell c).slots = d.slots ∧ t.ops = s.ops ∧ t.net = s.net ∧
      (m.op ≠ .mwld → (t.cell c).matrix.wb0 = x.wb0 ∧ (t.cell c).matrix.wb1 = x.wb1) ∧
      (m.op = .mwld ∨ m.op = .mdrain → (t.cell c).matrix.acc = x.acc) ∧
      (∀ b, m.op = .mwld → mwldBank (a m) m.recw = .ok b → r.count = b.k * b.n ∧ r.poisoned = b.poison ∧
        (bit (g m 3) 16 = false → (t.cell c).matrix.wb0 = b ∧ (t.cell c).matrix.wb1 = x.wb1) ∧
        (bit (g m 3) 16 = true → (t.cell c).matrix.wb1 = b ∧ (t.cell c).matrix.wb0 = x.wb0)) ∧
      (m.op = .macc → bit (g m 1) 0 = false → r.count = bits (g m 0) 8 8 + 1 ∧ ∀ i n, n < 64 → word (t.cell c) i n =
        if bits (g m 0) 0 8 ≤ i ∧ i ≤ bits (g m 0) 0 8 + bits (g m 0) 8 8 ∧ n ≤ bits (g m 0) 16 6 then 0 else word d i n) ∧
      (∀ p, m.op = .macc → bit (g m 1) 0 = true → (a m).operand (g m 2) = .ok p → r.count = bits (g m 0) 8 8 + 1 ∧
        r.poisoned = p.taints (bits (g m 0) 8 8 + 1) (bits (g m 0) 16 6 + 1) ∧ ∀ i n, n < 64 → word (t.cell c) i n =
        if bits (g m 0) 0 8 ≤ i ∧ i ≤ bits (g m 0) 0 8 + bits (g m 0) 8 8 ∧ n ≤ bits (g m 0) 16 6 then
          ((preload p.fmt (p.at2 (i - bits (g m 0) 0 8) n)).getD (0, 0)).1
        else word d i n) ∧
      (∀ q, m.op = .mrun → mrunChecks (a m) m.who.ctx m.recw = .ok q → q.bank.n ≤ 64 → r.count = q.m ∧ r.poisoned = q.poisoned ∧
        (t.cell c).matrix.products = q.products ∧ ∀ i n, n < 64 → word (t.cell c) i n =
        if q.first ≤ i ∧ i < q.first + q.m ∧ n < q.bank.n then (q.cell (word d i n) (i - q.first) n).1 else word d i n)
    let good := fun (m : Cmd) => (m.op = .mwld ∧ ∃ b, mwldBank (a m) m.recw = .ok b) ∨ (m.op = .macc ∧ ∃ p, maccRows (a m) m.recw = .ok p) ∨
      (m.op = .mrun ∧ ∃ q, mrunChecks (a m) m.who.ctx m.recw = .ok q)
    let joins := fun (e : Host.Outcome State Fault Refusal) (y : Matrix) => ∃ t, e = .next t ∧ OnlyAt s c t ∧ (t.cell c).matrix = y
    let pops := fun (m : Cmd) (a b : List Cmd) (n : Nat) => x.heldLoad = none → x.heldRows = none → x.unworked = none →
      x.runs.any s.draining = false → s.runs c = true →
      (busy m → ∃ t, exec (.matrixTake c) s = .next t ∧ OnlyAt s c t ∧ (t.cell c).matrix =
        if m.op = .mwld then { x with mq0 := a, mq1 := b, streak := n, heldLoad := some m }
        else { x with mq0 := a, mq1 := b, streak := n, heldRows := some m }) ∧
      (¬ busy m → joins (exec (.matrixTake c) s) { x with mq0 := a, mq1 := b, streak := n, runs := x.runs ++ [{ cmd := m }] })
    (∀ m q, x.mq0 = m :: q → (x.mq1 = [] ∨ x.streak < 15) → pops m q x.mq1 (x.streak + 1)) ∧
    (∀ m q, x.mq1 = m :: q → (x.mq0 = [] ∨ 15 ≤ x.streak) → pops m x.mq0 q 0) ∧
    (x.unworked ≠ none ∨ x.heldLoad ≠ none ∨ x.heldRows ≠ none → exec (.matrixTake c) s = .next s) ∧
    (∀ m, x.heldLoad = some m → s.runs c = true →
      (x.bankBusy m = true → exec (.mwldBankFree c) s = .next s) ∧
      (x.bankBusy m = false → joins (exec (.mwldBankFree c) s) { x with heldLoad := none, runs := x.runs ++ [{ cmd := m }] })) ∧
    (∀ m, x.heldRows = some m → s.runs c = true →
      (d.rowsBusy m = true → exec (.accumulatorHazardEnd c) s = .next s) ∧
      (d.rowsBusy m = false → joins (exec (.accumulatorHazardEnd c) s) { x with heldRows := none, runs := x.runs ++ [{ cmd := m }] })) ∧
    (∀ r, x.unworked = some r → s.runs c = true → r.cmd.who.cell = c → good r.cmd → ran (s.matrixWork c) r.cmd) ∧
    (∀ m first n cls float i h r', x.unworked = some r' → r'.cmd = m → s.runs c = true → m.op = .mdrain → m.who.cell = c →
      only (g m 0) [(0, 8), (8, 8), (16, 6), (32, 8)] = true → drainSpan d m.who.ctx m.recw = .ok (first, n, cls) →
      destChecks (s.cx c m.who.ctx).place.length (g m 1) (g m 2) cls = .ok float → bit (g m 1) 0 = false → bits (g m 1) 8 3 ≠ 4 →
      let fmt := bits (g m 1) 4 4
      let cols := bits (g m 0) 16 6 + 1
      d.heap.alloc { ctx := m.who.ctx, fmt := fmt, rows := n, cols := cols, count := 1, hidden := true, region := regionOf m.who.tag } = .ok (i, h) →
      let t := s.matrixWork c
      ∃ r, (t.cell c).matrix.runs = becomes m r ∧ r.cmd = m ∧ r.ready = true ∧ r.count = n ∧
        r.made = some (c, i, (h.tiles.getD i {}).gen) ∧ r.poisoned = (List.range n).any (fun j => x.marks.contains (first + j)) ∧
        ((t.cell c).tile i).hidden = true ∧ ((t.cell c).tile i).live = true ∧
        ((t.cell c).tile i).rows = n ∧ ((t.cell c).tile i).cols = cols ∧ ((t.cell c).tile i).fmt = fmt ∧
        ∀ a b, a < n → b < cols → ((t.cell c).tile i).els.getD (a * cols + b) 0 =
          BitVec.ofNat 64 (drainEl float fmt (bits (g m 1) 8 3) 0 (bit (g m 1) 11) (word d (first + a) b)).1) ∧
    (∀ r e rest, s.runs c = true → x.runs.find? s.maySend = some r → r.rows = e :: rest →
      let k := s.cx c r.cmd.who.ctx
      let row : Row := { ctx := r.cmd.who.ctx, fmt := e.1, poison := e.2.1, tag := e.2.2.1, els := e.2.2.2 }
      let body : Payload := .stream (bits (g r.cmd 2) 40 3) row r.cmd.uid
      ∃ t, exec (.drainRowAccepted c) s = .next t ∧ t.net = s.net ++ [s.sent
        { vn := 1, src := c, dst := k.place.getD (vcellOf (g r.cmd 2)) 0, ctx := r.cmd.who.ctx, counts := false, poison := e.2.1,
          chks := none :: elChks e.1 e.2.2.2, body := body }] ∧
        (t.cell c).matrix = { x with runs := x.runs.map fun p => if p.cmd.uid = r.cmd.uid then { r with rows := rest } else p } ∧
        ∀ z, z ≠ c → t.cell z = s.cell z) ∧
    (∀ src y p n row u, s.packet? 1 src c y = some p → p.body = .stream n row u → d.reducer.discards n row.tag = false →
      (∃ z, exec (.streamTokenArrival src c y) s = .next z ∧
        ((d.port n).fits row = true → (z.cell c).ports = d.ports.put n { (d.port n) with rows := (d.port n).rows ++ [row] } ∧
          z.net.length + 1 = s.net.length) ∧
        ((d.port n).fits row = false → z = s))) ∧
    (∀ r rest v f, s.runs c = true → (x.runs = r :: rest) → r.ready = true → s.draining r = false → r.cmd.who.cell = c → r.op = none →
      r.made = none → r.failed = none → (s.cx c r.cmd.who.ctx).frames.get? r.cmd.who.base = some f →
      r.cmd.statusSlot < r.cmd.who.base + clsSlots f.cls → v = BitVec.ofNat 64 (r.count % 2 ^ 48 + if r.poisoned then 2 ^ 63 else 0) →
      let k := s.cx c r.cmd.who.ctx
      ∃ t, exec (.commandComplete c .matrix) s = .next t ∧ (t.cell c).matrix = { x with runs := rest } ∧
        (t.cell c).slots = d.slots.put r.cmd.statusSlot (.full v) ∧ (t.cell c).heap = ((d.dropAll r.cmd.named).landAll r.cmd.named).heap ∧
        (t.cx c r.cmd.who.ctx).ctl.flags = k.ctl.flags ||| r.flags ||| (if r.poisoned then 64 else 0) ∧
        (r.cmd.cont = none → t.net = s.net ∧ (t.cx c r.cmd.who.ctx).outstanding = k.outstanding - 1) ∧
        (∀ w, r.cmd.cont = some w → ctxOf w = r.cmd.who.ctx → isReturn w = false → isReturn (withPrio w r.cmd.who.prio) = false → (t.cx c r.cmd.who.ctx).outstanding = k.outstanding + 1 ∧
          let body : Payload := .token { cont := withPrio w r.cmd.who.prio, val := r.value, tag := r.cmd.who.tag }
          t.net = s.net ++ [s.sent { vn := 0, src := c, dst := k.place.getD (vcellOf w) 0, ctx := r.cmd.who.ctx, also := some c, body := body }])) ∧
    (∀ (q : Mrun) (a : BitVec 48) (m n : Nat),
      let bits := fun (k : Nat) => (q.bank.w.getD (k * 64 + n) 0).toNat
      (∀ (f : Fmt) (sa : Nat → Option (Nat × Nat)), q.float = true → fmtOf q.fmt = some f → (∀ k, q.el m k < 2 ^ f.width) →
        (∀ k, q.scale m k = (sa k).map fun e => scaleVal e.1 e.2) → (∀ k e, sa k = some e → e.1 = 14 ∨ (e.1 = 0 ∧ e.2 < 2 ^ 32)) →
        (∀ g k, q.bank.fmt ≠ 8 → fmtOf q.bank.fmt = some g → bits k < 2 ^ g.width) →
        (∀ i, q.bank.scaleFmt = 14 ∨ (q.bank.scaleFmt = 0 ∧ (q.bank.scales.getD i 0).toNat < 2 ^ 32)) →
        ∃ w : Nat → Nat × BitVec 7, w 0 = (a.toNat, 0) ∧ q.cell a m n = (BitVec.ofNat 48 (w q.k).1, (w q.k).2) ∧ ∀ k, k < q.k →
          ∃ r, Ref.plus48 (w k).1 (Ref.scaled (Ref.scaled (Ref.times (Ref.val f (q.el m k)) (Ref.weight q.bank k n)) ((sa k).map fun e => Ref.scale e.1 e.2))
            (Ref.weightScale q.bank k n)) r ∧ w (k + 1) = (r.1, (w k).2 ||| r.2)) ∧
      (q.float = false → ∃ w : Nat → Int × BitVec 7, w 0 = (a.toInt, 0) ∧ q.cell a m n = (BitVec.ofInt 48 (w q.k).1, (w q.k).2) ∧ ∀ k, k < q.k →
        let r := Ref.clamp48 ((w k).1 + (BitVec.ofNat (eb q.fmt) (q.el m k)).toInt * (BitVec.ofNat (eb q.bank.fmt) (bits k)).toInt)
        w (k + 1) = (r.1, (w k).2 ||| r.2))) ∧
    (∀ e : Nat, preload 9 e = some (BitVec.ofNat 48 e, 0) ∧
      (∀ b, b ∈ [6, 10, 11] → preload b e = some ((BitVec.ofNat (eb b) e).signExtend 48, 0)) ∧
      ∀ b f, (b, f) ∈ [(0, fp32), (1, bf16), (2, fp16)] → e < 2 ^ f.width → ∃ r, preload b e = some r ∧
        match Ref.val f e with
        | .nan z => r = (BitVec.ofNat 48 a48.nanBits, Ref.nv z)
        | .inf z => r = (BitVec.ofNat 48 (a48.infBits z), 0)
        | .num z n d => Ref.units a48 r.1.toNat * d = (if z then -(n : Int) else n) * Ref.unit a48 ∧ Ref.isFin a48 r.1.toNat = true ∧
          Ref.neg a48 r.1.toNat = z ∧ r.2 = 0) ∧
    (∀ (m x : Nat) (nan : Bool) (a : BitVec 48), m < 5 → x < 2 ^ 16 → drainEl true 9 m x nan a = (a.toNat, 0) ∧
      (∀ b, b ∈ [6, 7, 10, 11] → drainEl false b m x nan a = Ref.narrow (eb b) true false a.toInt) ∧
      ∀ b f, (b, f) ∈ [(0, fp32), (1, bf16), (2, fp16), (3, fp8e4), (4, fp8e5), (5, fp4)] →
        let r := drainEl true b m x nan a
        let bad := nan = true ∧ f ≠ fp4
        match Ref.val a48 a.toNat with
        | .nan _ => r = if f = fp4 then (0, 1) else (f.nanBits, 0)
        | .inf z => r = if f.inf then (f.infBits z, 0) else (if bad then f.nanBits else Ref.signed f z + f.max, 4)
        | .num z n d =>
          let v : Int := (if z then -(n : Int) else n) * Ref.unit f
          (n = 0 → r = (Ref.signed f z, 0)) ∧ Ref.deliveredAs f m x v d (if bad then f.nanBits else Ref.largest f v) r)

/-- The reducer, the vector unit and the copy engine take their commands and do their work (R111, R122, R237, R241, R243, R253, R254, R255, R256, R261, R262, R272). -/
def Obligations.ReducerVectorAndCopyEnginesRun : Prop :=
  ∀ (s : State) (c : Nat), s.runs c = true →
    let d := s.cell c
    let g := fun (m : Cmd) (i : Nat) => m.recw.getD i 0
    (∀ m q k, d.reducer.queue = m :: q → m.op = .rset → d.reducer.cur = none → rsetStart (s.cx c m.who.ctx).place.length m = .ok k →
      (d.port k.port).bound ≠ .kernel →
      k.port = bits (g m 0) 24 3 ∧
      k.n = bits (g m 0) 0 8 + 1 ∧ k.rows = bits (g m 0) 8 8 + 1 ∧ k.cols = bits (g m 0) 16 6 + 1 ∧ k.next = [] ∧ k.store = [] ∧
      k.start = BitVec.ofNat 32 (bits (g m 3) 0 32) ∧
      let starts := fun (r : Run) => ∃ t, exec (.reducerTake c) s = .next t ∧ OnlyAt s c t ∧
        (t.cell c).reducer =
          { d.reducer with queue := q, cur := some { k with run := r }, dead := d.reducer.dead.filter fun e => e.1 != k.port } ∧
        (t.cell c).ports = d.ports.put k.port { (d.port k.port) with bound := .reducer } ∧
        ∀ z i n, r.made = some (z, i, n) → ((t.cell c).tile i).hidden = true ∧ ((t.cell c).tile i).live = true ∧
          ((t.cell c).tile i).gen = n ∧ ((t.cell c).tile i).fmt = bits (g m 1) 4 4 ∧ ((t.cell c).tile i).rows = k.rows ∧
          ((t.cell c).tile i).cols = k.cols
      (bit (g m 1) 0 = true → starts k.run) ∧
      (∀ i h, bit (g m 1) 0 = false → d.heap.alloc { ctx := m.who.ctx, fmt := bits (g m 1) 4 4, rows := k.rows, cols := k.cols, count := 1, hidden := true, region := regionOf m.who.tag } = .ok (i, h) →
        starts { k.run with made := some (c, i, (h.tiles.getD i {}).gen) })) ∧
    (∀ m q k o, d.reducer.queue = m :: q → m.op = .rfeed → d.reducer.feed = none → d.reducer.cur = some k → k.done = false →
      only (g m 1) [(0, 32)] = true → d.operand (g m 0) = .ok o →
      ∃ t, exec (.reducerTake c) s = .next t ∧ (t.cell c).reducer =
        { d.reducer with queue := q, feed := some ({ cmd := m, poisoned := o.poison }, 0) }) ∧
    (∀ k p w, d.reducer.cur = some k → k.done = false → k.lastPort ≠ p → d.inputRow k p = some w →
      let kk := { k with lastPort := p }
      (∀ q, kk.fate w = .hold q → p = true → ∃ t, exec (.reducerRow c p) s = .next t ∧ (t.cell c).ports =
          d.ports.put k.port { (d.port k.port) with rows := (d.port k.port).rows.tail } ∧
        ((d.reducer.feed = none) → (t.cell c).reducer = { d.reducer with cur := some { kk with store := k.store ++ [(q, w.fmt, w.poison, w.els)] } })) ∧
      (∀ q r, kk.fate w = .add q r → k.store = [] → k.cols ≤ 64 → p = true → d.reducer.feed = none → (kk.addRow r q w.fmt w.poison w.els).full = false →
        ∃ t z, exec (.reducerRow c p) s = .next t ∧ OnlyAt s c t ∧ (t.cell c).reducer = { d.reducer with cur := some z } ∧
          z.next = k.next.put r (q + 1) ∧ z.poisoned = (k.poisoned || w.poison) ∧
          ∀ i j, j < 64 → z.sum.getD (i * 64 + j) 0 = if i = r ∧ j < k.cols then
            (if q = 0 then rowEl w.fmt (w.els.getD j 0)
             else if k.float then BitVec.ofNat 48 (addA48 (a48.dec (k.sum.getD (i * 64 + j) 0).toNat) (a48.dec (rowEl w.fmt (w.els.getD j 0)).toNat)).1
             else BitVec.ofInt 48 (Ref.clamp48 ((k.sum.getD (i * 64 + j) 0).toInt + (rowEl w.fmt (w.els.getD j 0)).toInt)).1)
          else k.sum.getD (i * 64 + j) 0) ∧
      (kk.fate w = .fail →
        let dead := d.reducer.dead ++ [(k.port, k.start, k.n * k.rows)]
        let fed := d.reducer.feed.toList.map fun f => { f.1 with ready := true }
        let kept := (d.port k.port).rows.filter fun w => !dead.any fun e => e.1 == k.port && decide ((w.tag - e.2.1).toNat < e.2.2)
        let u := s.modCell c fun z => { z with
          reducer := { z.reducer with cur := none, feed := none, ended := z.reducer.ended ++ fed, dead := dead }
          ports := (z.ports.put k.port { (z.port k.port) with bound := .none }).put k.port { bound := .none, rows := kept } }
        exec (.reducerRow c p) s = .next (u.redFail c k.run (.shape, w.tag.setWidth 64)))) ∧
    (∀ m q, d.vec.run = none → d.vec.queue = m :: q → (s.cx c m.who.ctx).resident = false → exec (.vrunTake c) s = .next s) ∧
    (∀ m q n u outs, d.vec.run = none → d.vec.queue = m :: q → (s.cx c m.who.ctx).resident = true → kernelChecks d (s.cx c m.who.ctx) m = .ok n →
      (∀ p, p ∈ portsOf n.ins → (d.port p).bound ≠ .reducer) →
      ((s.modVec c fun k => { k with queue := q }).retainCmd c m).makeOuts c m (m.shapes.drop 4) n.outs = .ok (u, outs) →
      ∃ t, exec (.vrunTake c) s = .next t ∧ (t.cell c).vec =
        { queue := q, run := some { cmd := m }, buf := n.buf, ins := n.ins, outs := outs, gens := seedAll m.seed } ∧
        (∀ p, p ∈ portsOf n.ins → ((t.cell c).port p).bound = .kernel) ∧ (t.cell c).heap = (u.cell c).heap) ∧
    (d.vec.waiting = true →
      (s.vldReady c = true → ∃ t, exec (.vldRowReady c) s = .next t ∧ OnlyAt s c t ∧ t.cell c = { d with vec := { d.vec with waiting := false } }) ∧
      (s.vldReady c = false → exec (.vldRowReady c) s = .next s)) ∧
    (∀ r f, d.vec.ended = true → d.vec.run = some r → r.failed = none → (∀ q, some q ∈ d.vec.outs → q.made = false) → r.cmd.who.cell = c →
      r.op = none → r.made = none → r.cmd.cont = none → (s.cx c r.cmd.who.ctx).frames.get? r.cmd.who.base = some f →
      r.cmd.statusSlot < r.cmd.who.base + clsSlots f.cls →
      ∃ t, exec (.kernelEnd c) s = .next t ∧ (t.cell c).vec =
          { d.vec with run := none, buf := [], pc := 0, ins := [], outs := [], waiting := false, ended := false, flags := 0 } ∧
        (∀ n p, (t.cell c).ports.get? n = some p → p.bound ≠ .kernel) ∧
        (t.cell c).slots = d.slots.put r.cmd.statusSlot (.full (BitVec.ofNat 64 (r.count % 2 ^ 48 + if r.poisoned then 2 ^ 63 else 0))) ∧
        (t.cx c r.cmd.who.ctx).outstanding = (s.cx c r.cmd.who.ctx).outstanding - 1) ∧
    (∀ m q, d.copyq = m :: q → d.copies.length < 4 → s.acqBefore m = false → d.tileBusy m = false → copyRecord m = .ok () →
      m.who.cell = c →
      let place := (s.cx c m.who.ctx).place
      let w := m.who
      let shape := fun (fmt rows cols : Nat) =>
        { ctx := w.ctx, fmt := fmt, rows := rows, cols := cols, count := 1, hidden := true, region := regionOf w.tag : Tile }
      let joins := fun (t : State) (r : Run) => exec (.copyTake c) s = .next t ∧ (t.cell c).copyq = q ∧ (t.cell c).copies = d.copies ++ [r] ∧
        r.cmd = m ∧ r.failed = none ∧ t.ops = s.ops
      let makes := fun (fmt rows cols i : Nat) (h : Heap) (r : Run) (t : State) => joins t r ∧ t.net = s.net ∧ r.count = rows * cols ∧
        r.made = some (c, i, (h.tiles.getD i {}).gen) ∧ r.asked = false ∧ ((t.cell c).tile i).hidden = true ∧ ((t.cell c).tile i).live = true ∧
        ((t.cell c).tile i).fmt = fmt ∧ ((t.cell c).tile i).rows = rows ∧ ((t.cell c).tile i).cols = cols
      let asks := fun (z fmt rows cols : Nat) (way : Option Bool) (r : Run) (t : State) => joins t r ∧ r.count = rows * cols ∧ r.made = none ∧
        r.ready = false ∧ (∀ y, y ≠ c → t.cell y = s.cell y) ∧ (t.cell c).heap = d.heap ∧ t.net = s.net ++
          [s.sent { vn := 0, src := c, dst := z, ctx := w.ctx, counts := false, force := way, body := .alloc m.uid fmt rows cols w }]
      (m.op = .tfill → vcellOf (g m 0) < place.length → bits (g m 0) 0 4 ≠ 15 →
        let z := place.getD (vcellOf (g m 0)) c
        let fmt := bits (g m 0) 0 4
        let rows := bits (g m 0) 8 8 + 1
        let cols := bits (g m 0) 16 8 + 1
        let el := if fmt = 9 then fp32.toFloat a48 0 0 false (bits (g m 1) 0 32) else (bits (g m 1) 0 32 % 2 ^ eb fmt, 0)
        (∀ i h, z = c → d.heap.alloc (shape fmt rows cols) = .ok (i, h) → ∃ t r, makes fmt rows cols i h r t ∧ r.ready = true ∧ r.flags = el.2 ∧
          ∀ j, j < rows * cols → ((t.cell c).tile i).els.getD j 0 = BitVec.ofNat 64 el.1) ∧
        (z ≠ c → ∃ t r, asks z fmt rows cols none r t ∧ r.flags = el.2 ∧ r.out = some (List.replicate (rows * cols) (BitVec.ofNat 64 el.1)))) ∧
      (∀ o, m.op = .tcopy → bits (g m 1) 0 11 < place.length → d.operand (g m 0) = .ok o →
        let z := place.getD (bits (g m 1) 0 11) c
        let way := match bits (g m 2) 0 2 with | 1 => some true | 2 => some false | _ => none
        (∀ i h, z = c → d.heap.alloc (shape o.fmt o.rows o.cols) = .ok (i, h) →
          ∃ t r, makes o.fmt o.rows o.cols i h r t ∧ r.ready = false ∧ r.poisoned = o.poison) ∧
        (z ≠ c → ∃ t r, asks z o.fmt o.rows o.cols way r t ∧ r.poisoned = o.poison ∧ r.out = none)) ∧
      (m.op = .tload ∨ m.op = .tstore ∨ m.op = .tgath ∨ m.op = .tscat →
        let o : MemOp := { id := m.uid, kind := if m.op = .tstore ∨ m.op = .tscat then .cwrite else .cread, who := m.who,
                           inst := (s.cx c m.who.ctx).inst.getD (0, 0), recw := m.recw }
        let u := ((s.modCell c fun k => { k with copyq := q }).retainCmd c m).addCopy c { cmd := m, op := some m.uid }
        ∀ w e, s.descRead m.who o.inst.1 m.tid = .ok w → descCheck w = .ok e → (∀ r, r ∈ d.copies → r.cmd.uid ≠ m.uid) →
          ∀ p, ({ u with ops := s.ops ++ [o] }.keepDesc m.who o.inst.1 m.tid w).copyPlan { cmd := m, op := some m.uid } o e w = .ok p →
          ∃ t, exec (.copyTake c) s = .next t ∧ 
            (t.cell c).copyq = q ∧ (t.cell c).copies = d.copies ++ [{ p.2.1 with opened := true }] ∧
            t.ops = (s.ops.map fun y => if y.id = m.uid then p.2.2 else y) ++ [p.2.2])) ∧
    (∀ r z i n, r.cmd.who.cell = c → r.made = some (z, i, n) → r.ready = false →
      let h := g r.cmd 0
      let sh := d.newShape r.cmd
      let total := sh.2.1 * ((sh.2.2 + xferEls sh.1 - 1) / xferEls sh.1)
      let k := xferAt sh.1 sh.2.2 r.passed
      let next := fun (t : State) (p : Run) => (t.cell c).copies = d.copies.map fun y => if y.cmd.uid = r.cmd.uid then p else y
      let fits := (k.2 * eb sh.1 + 511) / 512
      let moves := fun (p : Run) (els : List Word) =>
        (z = c → ∃ t, s.xfer c r = t ∧ next t { p with passed := r.passed + 1, landed := r.landed + 1, ready := decide (total ≤ r.landed + 1) } ∧
          t.net = s.net ∧ (((t.cell c).tile i).gen = n → ∀ j, j < k.2 → ((t.cell c).tile i).els.getD (k.1 + j) 0 = els.getD j 0)) ∧
        (z ≠ c → ∃ t, s.xfer c r = t ∧ next t { p with passed := r.passed + 1 } ∧
          t.net = s.net ++ [s.sent { vn := 2, src := c, dst := z, ctx := r.cmd.who.ctx, counts := false, force := r.cmd.way, flits := Nat.max 1 fits, chks := elChks sh.1 els, body := .tile r.cmd.uid i n k.1 els r.cmd.who }])
      (total ≤ r.passed → s.xfer c r = s) ∧
      (∀ es, r.out = some es → r.passed < total → k.1 + k.2 ≤ es.length → moves r ((es.drop k.1).take k.2)) ∧
      (r.cmd.op = .tcopy → r.out = none → r.passed < total →
        let o := (d.readBy r.cmd.uid).named (indexOf h) (genOf h)
        let bad := (List.range k.2).any fun j => o.bad.contains (k.1 + j)
        let els := (List.range k.2).map fun j => BitVec.ofNat 64 (o.readEl (k.1 + j))
        ((d.named (indexOf h) (genOf h)).mismatched = [] → bad = false → moves r els) ∧
        ((d.named (indexOf h) (genOf h)).mismatched = [] → bad = true → ∀ p, next (s.xfer c r) p → r.cmd.uid ∈ d.copies.map (·.cmd.uid) → p.poisoned = true))) ∧
    (∀ n p, s.net[n]? = some p → p.arrived = true → s.oldest n p = true → p.dst = c → (p.vn = 3 ∨ s.drains c = false) →
      let k := s.cx c p.ctx
      let left := s.net.eraseIdx n
      let back := fun (b : Payload) => left ++ [s.sent { vn := 3, src := c, dst := p.src, ctx := p.ctx, counts := false, force := p.force, body := b }]
      (∀ uid fmt rows cols w, p.body = .alloc uid fmt rows cols w → s.behindTokens p.src c p.ctx = false → k.inst ≠ none →
        let x : Tile := { ctx := w.ctx, fmt := fmt, rows := rows, cols := cols, count := 1, hidden := true, region := regionOf w.tag }
        (regionOf w.tag ≠ 0 → k.regions.get? (regionOf w.tag) = some .failed → s.takeIn n p = { s with net := left }) ∧
        (regionOf w.tag = 0 ∨ k.regions.get? (regionOf w.tag) ≠ some .failed →
          (∀ e, d.heap.alloc x = .error e → s.takeIn n p = { s with net := back (.allocated uid (.error e) w) }) ∧
          (∀ i h, d.heap.alloc x = .ok (i, h) → ∃ t, s.takeIn n p = t ∧ ((t.cell c).tile i).live = true ∧ ((t.cell c).tile i).hidden = true ∧
            ((t.cell c).tile i).fmt = fmt ∧ ((t.cell c).tile i).rows = rows ∧ ((t.cell c).tile i).cols = cols ∧ t.mem = s.mem ∧ t.ops = s.ops ∧
            t.net = back (.allocated uid (.ok (i, ((t.cell c).tile i).gen)) w)))) ∧
      (∀ uid i v w r, p.body = .allocated uid (.ok (i, v)) w → d.copyOf uid = some r → r.failed = none →
        ∃ t, s.takeIn n p = t ∧ t.net = left ∧ (t.cell c).heap = d.heap ∧
          (t.cell c).copies = d.copies.map fun y => if y.cmd.uid = uid then { r with made := some (p.src, i, v) } else y) ∧
      (∀ uid i v a els w, p.body = .tile uid i v a els w → ∃ t, s.takeIn n p = t ∧ t.net = back (.tileAck uid w) ∧ t.ops = s.ops ∧ t.mem = s.mem ∧
        ((d.tile i).live = true → (d.tile i).gen = v → ∀ j, j < els.length → ((t.cell c).tile i).els.getD (a + j) 0 = els.getD j 0) ∧
        ((d.tile i).live = false ∨ (d.tile i).gen ≠ v → ∀ j, (t.cell c).tile j = d.tile j)) ∧
      (∀ uid w r, p.body = .tileAck uid w → d.copyOf uid = some r →
        let sh := d.newShape r.cmd
        let total := sh.2.1 * ((sh.2.2 + xferEls sh.1 - 1) / xferEls sh.1)
        ∃ t, s.takeIn n p = t ∧ t.net = left ∧ (t.cell c).copies = d.copies.map fun y => if y.cmd.uid = uid then
          { r with landed := r.landed + 1, ready := r.ready || decide (total ≤ r.landed + 1) } else y)) ∧
    (∀ (f b : Nat), f < 2 ^ 48 → b < 2 ^ 48 → Ref.plus48 f (Ref.val a48 b) (addA48 (a48.dec f) (a48.dec b))) ∧
    (∀ (f : Nat) (e : Word), rowEl f e = match preload f e.toNat with | some p => p.1 | none => 0)

/-- Walks, loads, stores into logs, releases, replay, atomics, acquires and stores of peers are performed (R70, R78, R79, R80, R81, R82, R84, R86, R87, R90, R93, R98). -/
def Obligations.MemoryOperationsArePerformed : Prop :=
  let keyed := fun (s : State) (g : Nat) (q : Option (BitVec 512)) => q = none ∨ s.gkeys.get? g = none ∨ s.gkeys.get? g = q
  (∀ (s : State) (k : Nat),
    (∀ g rest es, (s.stack k).segs = g :: rest → (s.sub k g.key).entries.take g.count = es → (∀ e, e ∈ es → e.kind = .data) →
      (g.sound es = true → s.ckpt.st ≠ 1 → ∃ t, exec (.segmentReplay k) s = .next t ∧ (t.stack k).segs = rest ∧
        (t.stack k).doneSegs = (s.stack k).doneSegs + 1 ∧
        (t.sub k g.key).entries = (s.sub k g.key).entries.drop g.count ∧
        (t.sub k g.key).applied = (if g.kind = .release then g.rseq else (s.sub k g.key).applied) ∧
        ∀ e a, es = [e] → s.leaving = [] → s.remapsDue g.key = [] → (∀ f, f ∈ s.fns → f.2.dirtySize = 0) → keyed s e.gran e.key → e.gran ∉ s.unchecked →
          t.rd a = if a / 64 = e.gran ∧ e.mask.getLsbD (a % 64) then BitVec.ofNat 8 (e.data.toNat / 2 ^ (8 * (a % 64))) else s.rd a) ∧
      (g.sound es = true → s.ckpt.st = 1 → s.ckptUp = true → s.aheadOf (s.writesOf g.key es) ≠ [] → ∃ t, exec (.segmentReplay k) s = .next t ∧
        t.hbm = s.hbm ∧ t.ckpt.todo = s.ckpt.todo.filter fun p => !(s.aheadOf (s.writesOf g.key es)).contains p) ∧
      (g.sound es = false →
        let l := s.sub k g.key
        ∃ u, u.hbm = (s.modStack k fun q => { q with
            segs := rest
            doneSegs := q.doneSegs + 1
            subs := (q.subs.put g.key { l with failedFrom := some (l.failedFrom.getD g.spoils) }).put g.key { l with
              failedFrom := some (l.failedFrom.getD g.spoils)
              entries := l.entries.drop g.count } }).hbm ∧
          (g.op = 0 → u.mem = s.mem ∧ u.ops.map (·.id) = s.ops.map (·.id)) ∧
          (∀ q, g.op ≠ 0 → s.op? g.op = some q → q.kind.engine = false →
            u.ops.map (·.id) = (s.ops.map (·.id)).filter (· != g.op)) ∧
          exec (.segmentReplay k) s = .next (match l.owner with
            | none => u
            | some (z, x) => if (s.cx z x).inst ≠ some l.inst then u else
              u.deliverTo { cell := z, ctx := x, cls := 2, code := .acqFailed, ia := g.ia, frame := 0,
                            d1 := BitVec.ofNat 64 (k * 2 ^ 32 + g.rseq.toNat), d2 := 0, tag := g.tag, faulty := g.faulty }
                (s.cx z x).ctl.faultc []))) ∧
    (∀ m, s.leaving.find? (fun m => m.page == k) = some m →
      ((∃ q, q ∈ s.ops ∧ q.id ∈ m.waits) → exec (.shadowPageReturn k) s = .next s) ∧
      ((∀ q, q ∈ s.ops → q.id ∉ m.waits) → (∀ st l, st ∈ s.hbm.toList → l ∈ st.subs → l.2.entries = []) →
        ∃ t, exec (.shadowPageReturn k) s = .next t ∧ t.leaving = s.leaving.erase m ∧
          (t.fn m.fn).shadow = (s.fn m.fn).shadow ++ [(m.size, m.page)] ∧
          ∀ a, t.rd a = if m.page ≤ a ∧ a < m.page + pageBytes m.size then 0 else s.rd a)) ∧
    (∀ (sm : BitVec 16) (fl gr : Nat) (mk : BitVec 64) (data : BitVec 512),
      let st := gr / 64 % 16
      let key := inboundKey sm fl
      let l := s.sub st key
      let e := exec (.peerStoreArrival (sm, fl) gr mk data) s
      (inStacks (gr * 64) 64 = false → e = .next s) ∧
      (inStacks (gr * 64) 64 = true → l.size / 128 ≤ l.entries.length → ∃ t, e = .next t ∧ t.mem = s.mem ∧ (t.sub st key).entries = l.entries) ∧
      (inStacks (gr * 64) 64 = true → l.entries.length < l.size / 128 → l.aligned →
        ∃ t y, e = .next t ∧ s.ringStored t st key y 0xFC00 sm ∧
        t.sub st key = { l with src := 0xFC00, smod := sm, tail := l.tail + 1, entries := l.entries ++ [y] } ∧
        y.kind = .data ∧ y.data = data ∧ y.mask = mk ∧ y.gran = gr ∧ y.seq = l.tail ∧ y.published = false))) ∧
  ∀ (s : State) (id k : Nat) (o : MemOp) (p : Piece), s.op? id = some o → s.runs o.who.cell = true →
    let log := s.logOf o.who
    let c := o.who.cell
    let cx := s.cx c o.who.ctx
    let with' := fun (e : Host.Outcome State Fault Refusal) (q : MemOp) (ps : List Packet) => ∃ t, e = .next t ∧ t.op? id = some q ∧ t.net = s.net ++ ps
    let port := fun (st : Nat) => stackPort c st
    let request := fun (st : Nat) => s.sent { vn := 2, src := c, dst := port st, ctx := o.who.ctx, counts := false, flits := if o.kind.stores then 2 else 1, chks := if o.kind.stores then [some (crc16 p.data), none] else [], body := .request id k o.who }
    let tells := fun (st : Nat) (b : Payload) => s.sent { vn := 2, src := c, dst := port st, ctx := o.who.ctx, counts := false, body := b }
    let back := fun (a j : Nat) => s.sent { vn := 3, src := a, dst := c, ctx := o.who.ctx, counts := false, body := .answer id j o.who }
    let ack := fun (st : Nat) => s.sent { vn := 3, src := port st, dst := c, ctx := o.who.ctx, counts := false, body := .ack id st o.who }
    let bit := fun (st : Nat) => BitVec.ofNat 16 (2 ^ st)
    let refused := fun (e : Host.Outcome State Fault Refusal) (a j : Nat) (code : FaultCode) (d1 : Word) =>
      with' e { o with fault := some (code, d1, 0), pieces := listMod o.pieces j fun q => { q with done := true } } [back a j]
    let answer := fun (v : Word) (t : State) => t.ops = s.ops.filter (fun q => q.id != id) ∧ (o.cont = none → t.net = s.net) ∧
      ∀ w, o.cont = some w → isReturn w = false →
        let body : Payload := .token { cont := w, val := v, tag := o.who.tag }
        t.net = s.net ++ [s.sent { vn := 0, src := c, dst := (s.cx c (ctxOf w)).place.getD (vcellOf w) 0, ctx := ctxOf w, reply := some c, body := body }]
    (∀ st, c < 2048 → o.kind.tensor = true → o.peer = none → o.covered = [] → s.copyRun o = none → o.hops = 0 → o.pieces[k]? = some p → p.stack = some st →
      (s.mayGo o k p st = false → s.ask id k = s) ∧
      (s.mayGo o k p st = true → s.unreached o st = none →
        with' (.next (s.ask id k)) { o with pieces := listMod o.pieces k fun _ => { p with asked := .sent } } [request st])) ∧
    (o.kind.tensor = false → k < 16 → s.unreached o k = none →
      (s.mayInterim o k = true → with' (.next (s.ask id k)) { o with interim := o.interim ||| bit k } [tells k (.interim id k o.who)]) ∧
      (s.mayInterim o k = false → s.mayPublish o k = true ∨ s.mayMark o k = true →
        with' (.next (s.ask id k)) { o with told := o.told ||| bit k } [tells k (.publish id k o.who)])) ∧
    (∀ n pk w, s.net[n]? = some pk → pk.arrived = true → s.oldest n pk = true → (pk.vn = 3 ∨ s.drains pk.dst = false) →
      let left := s.net.eraseIdx n
      let gets := fun (q : MemOp) => ∃ t, s.takeIn n pk = t ∧ t.op? id = some q ∧ t.net = left
      (pk.body = .request id k w → gets { o with pieces := listMod o.pieces k fun q => { q with asked := .there } }) ∧
      (pk.body = .publish id k w ∨ pk.body = .interim id k w →
        (o.kind ≠ .acqa → gets { o with there := o.there ||| bit k }) ∧
        (o.kind = .acqa → gets { o with
          there := o.there ||| bit k
          marks := o.marks.put k ((s.stack k).doneSegs + (s.stack k).segs.length) })) ∧
      (pk.body = .ack id k w → gets { o with acked := o.acked ||| bit k }) ∧
      (∀ e d1 d2, pk.body = .answer id k w → o.fault = some (e, d1, d2) → s.takeIn n pk = { s with net := left }.failAccess o e d1 d2) ∧
      (∀ a, pk.body = .answer id k w → o.fault = none → o.pieces = [p] → p.xl = .at a → k = 0 →
        (o.kind = .ldg ∨ o.kind = .ldch ∨ o.kind = .amo → gets { o with opened := false, pieces := [{ p with back := true }], reply := o.result }) ∧
        (o.kind = .stg → (∀ q, q ∈ s.ops → q.id = id → q = o) → ∃ t, s.takeIn n pk = t ∧ t.ops = s.ops.filter (fun q => q.id != id) ∧
          (o.cont = none → t.net = left) ∧ ∀ w, o.cont = some w → isReturn w = false →
            let body : Payload := .token { cont := w, val := 0, tag := o.who.tag }
            t.net = left ++ [s.sent { vn := 0, src := c, dst := (s.cx c (ctxOf w)).place.getD (vcellOf w) 0, ctx := ctxOf w, reply := some c, body := body }])) ∧
      (∀ a r d, pk.body = .answer id k w → o.fault = none → o.kind = .cread → o.pieces[k]? = some p → p.xl = .at a → (∀ q, q ∈ o.pieces → q.bad = 0) →
        s.copyRun o = some r → r.cmd.op = .tload → o.desc = some d →
        let ps := listMod o.pieces k fun q => { q with back := true }
        (ps.all (fun q => q.back) = false → gets { o with opened := false, pieces := ps, reply := none }) ∧
        (ps.all (fun q => q.back) = true → r.asked = false → ∃ t z, s.takeIn n pk = t ∧ t.net = left ∧ t.ops = s.ops.filter (fun q => q.id != id) ∧
          z ∈ (t.cell c).copies ∧ z.cmd = r.cmd ∧ z.ready = true ∧ z.op = none ∧
          z.count = o.rows.length * (bits (r.cmd.recw.getD 3 0) 8 8 + 1)) ∧
        (ps.all (fun q => q.back) = true → r.asked = true → ∃ t z els, s.takeIn n pk = t ∧ t.net = left ∧ t.ops = s.ops.filter (fun q => q.id != id) ∧
          z ∈ (t.cell c).copies ∧ z.cmd = r.cmd ∧ z.ready = r.ready ∧ z.op = none ∧ z.out = some els ∧
          els.length = o.rows.length * (bits (r.cmd.recw.getD 3 0) 8 8 + 1)))) ∧
    (∀ pa gpa leaf w, o.kind.tensor = true → o.checked = true → o.behind = [] → o.dpark = none → o.peer = none → o.pieces[k]? = some p →
      ((p.xl = .todo ∧ s.walkerFree o = true) ∨ ∃ a b, p.xl = .stuck a b) → s.pageParked o p = false → s.pageTurn o k p.tpn = true →
      (s.keyNow o = none → exec (.translationWalk id k) s = .next (s.failAccess o .permission 0 0)) ∧ ∀ key, s.keyNow o = some key →
      s.xlate c o.inst.1 o.root p.tpn (pageBytes o.psize) p.pgo o.kind.writes = .ok pa gpa leaf w → s.unreached o (stackOf pa) = none →
      ∃ t q e, exec (.translationWalk id k) s = .next t ∧ t.op? id = some q ∧ q.pieces = o.landed p pa gpa leaf ∧ q.key = key ∧ t.mem = s.mem ∧ t.net = s.net ∧
        (∀ z, { t.cell z with tlb := (s.cell z).tlb } = s.cell z) ∧
        e ∈ t.tlb ∧ e.die = dieOf c % 8 ∧ e.fn = o.inst.1 ∧ e.root = some (o.root, p.tpn)) ∧
    (∀ pa, o.kind = .ldg → o.pieces[k]? = some p → p.xl = .at pa → s.atStack o p = true → s.scWait o (stackOf pa) (granOf pa) = false →
      (s.granMask (granOf pa) ≠ 0 → refused (exec (.loadServe id k) s) (port (stackOf pa)) k .poison 0) ∧
      (s.granMask (granOf pa) = 0 → with' (exec (.loadServe id k) s)
          { o with
                   pieces := listMod o.pieces k (fun q => { q with done := true })
                   result := some (o.loaded p (s.loadBytes log (some o.key) pa p.len)) } [back (port (stackOf pa)) k]) ∧
      ((∀ i, i < 16 → (s.sub i log).entries = []) → pa % 64 + p.len ≤ 64 →
        s.loadBytes log (some o.key) pa p.len = s.rdKeyBytes o.key pa p.len)) ∧
    (∀ pa, o.kind = .cread → o.pieces[k]? = some p → p.xl = .at pa → s.atStack o p = true → s.scWait o (stackOf pa) (granOf pa) = false →
      s.granMask (granOf pa) = 0 → granOf pa ∉ s.unchecked →
      let bs := s.loadBytes log (some o.key) pa p.len
      with' (exec (.loadServe id k) s) { o with pieces := listMod o.pieces k (fun q => { q with done := true, data := bs, bad := 0 }) }
        [{ back (port (stackOf pa)) k with chks := [some (crc16 bs)] }]) ∧
    (∀ pa d, o.kind = .ldch → o.pieces = [p] → o.desc = some d → p.xl = .at pa → s.atStack o p = true → s.scWait o (stackOf pa) (granOf pa) = false →
      let h := bits (o.recw.getD 3 0) 0 8
      let lw := bits (o.recw.getD 3 0) 8 3
      let l := leNat (s.loadBytes log (some o.key) pa 8)
      let a := port (stackOf pa)
      let ends := fun (v : Nat) => with' (exec (.ldchHop id) s)
        { o with pieces := [{ p with done := true }], result := some (BitVec.ofNat 64 v) } [back a 0]
      if h = 0 then ends o.cur
      else if granOf pa ∈ s.gpoison then refused (exec (.ldchHop id) s) a 0 .poison 0
      else if l = 2 ^ 64 - 1 then ends (2 ^ 63 + o.hops * 2 ^ 32 + o.cur)
      else if l % 8 ≠ 0 ∨ d.dim 0 < l + 8 * lw + 8 then refused (exec (.ldchHop id) s) a 0 .shape (BitVec.ofNat 64 l)
      else if o.hops + 1 = h then ends (h * 2 ^ 32 + l)
      else with' (exec (.ldchHop id) s)
        { o with hops := o.hops + 1, cur := l, there := bit (stackOf pa), pieces := [d.piece p.tid (8 * (l + 8 * lw)) 64] } []) ∧
    (∀ pa, o.kind = .stg → o.opened = false → o.attr ≠ 1 → o.pieces = [p] → p.xl = .at pa → s.atStack o p = true →
      let ring := s.sub (stackOf pa) log
      (ring.size / 128 ≤ ring.entries.length → with' (exec (.logEntryAppend id 0) s)
        { o with pieces := [{ p with wait := some (p.wait.getD (s.ac c)) }] } []) ∧
      (ring.entries.length < ring.size / 128 → ring.aligned → ∃ t, exec (.logEntryAppend id 0) s = .next t ∧
        t.op? id = some { o with pieces := [{ p with done := true, wait := none }] } ∧ t.net = s.net ++ [back (port (stackOf pa)) 0] ∧
        s.ringStored t (stackOf pa) log { dataEntry (granOf pa) p.data p.mask (regionOf o.who.tag) (some o.key) p.gpa with seq := ring.tail }
          ring.src ring.smod ∧
        t.sub (stackOf pa) log = { ring with
          tail := ring.tail + 1
          entries := ring.entries ++ [{ dataEntry (granOf pa) p.data p.mask (regionOf o.who.tag) (some o.key) p.gpa with
            seq := ring.tail, stamp := s.serial }] })) ∧
    (∀ st, o.pieces[k]? = some p → p.stack = some st → ∃ t q, exec (.storeRingSpace id) s = .next t ∧ t.op? id = some q ∧ t.mem = s.mem ∧
      q.pieces[k]? = some (if (s.sub st log).full then p else { p with wait := none })) ∧
    (∀ st a, o.pieces = [p] → p.done = false → p.stack = some st → p.wait = some a → (s.sub st log).full = true →
      (∀ e, e ∈ (s.sub st log).entries → e.published = false) →
      exec (.logFull id) s = .next (if a + 2 ^ 20 ≤ s.ac c then
        s.failAccess o .logFull (BitVec.ofNat 64 st) (BitVec.ofNat 64 (s.sub st log).size) else s)) ∧
    (o.kind = .rel → (o.toInterim k = false ∨ o.there.getLsbD k = false → o.opened = false → s.uncovered o = [] → s.queuedStores o = [] →
        ∃ t, exec (.publishMessage id k) s = .next t ∧ (t.cx c o.who.ctx).rseq = cx.rseq + 1 ∧ t.op? id = some { o with
          opened := true
          mask := s.relMask log
          rseq := cx.rseq + 1
          sent := s.serial
          peers := if o.sys then cx.peersOut else [] }) ∧
      (o.toInterim k = true → o.there.getLsbD k = true → ∃ t, exec (.publishMessage id k) s = .next t ∧ t.mem = s.mem ∧ t.net = s.net ∧
        t.op? id = some { o with interim := o.interim &&& ~~~(bit k), there := o.there &&& ~~~(bit k) } ∧
        (t.sub k log).entries = (s.sub k log).entries.map (fun e => { e with published := true }) ∧
        (k < 16 → ∃ g, (t.stack k).segs = (s.stack k).segs ++ [g] ∧ g.key = log ∧ g.rseq = cx.rseq ∧ g.kind = .interim ∧
          g.count = ((s.sub k log).entries.filter fun e => !e.published).length)) ∧
      (k < 16 → o.toInterim k = false → o.opened = true → o.there.getLsbD k = true → o.pub.getLsbD k = false →
        ∃ t, exec (.publishMessage id k) s = .next t ∧ t.net = s.net ++ [ack k] ∧
        t.op? id = some { o with pub := o.pub ||| bit k } ∧ t.mem = s.mem ∧
        (t.sub k log).entries = (s.sub k log).entries.map (fun e => { e with published := true }) ∧
        ∃ g, (t.stack k).segs = (s.stack k).segs ++ [g] ∧ g.key = log ∧ g.rseq = o.rseq ∧ g.kind = .release ∧
          g.count = ((s.sub k log).entries.filter fun e => !e.published).length) ∧
      (o.accepted = true → ∃ t, exec (.releaseAccepted id) s = .next t ∧ answer (BitVec.ofNat 64
        (o.who.vcell * 2 ^ 53 + o.who.ctx * 2 ^ 50 + o.mask.toNat * 2 ^ 34 + o.sys.toNat * 2 ^ 32 + o.rseq.toNat)) t)) ∧
    (o.kind = .stg → o.opened = true → o.pieces = [p] → p.done = true → p.back = false → s.answering id = false →
      (∀ q g, q ∈ s.hbm.toList → g ∈ q.segs → g.op ≠ id) → with' (exec (.scStoreApply id) s) o [back (port (p.stack.getD 0)) 0]) ∧
    (∀ m v, o.kind = .stg → o.peer = some m → o.pieces = [p] → p.via = some v → p.done = false → ∃ t, exec (.peerAck id) s = .next t ∧
      m ∈ (t.cx c o.who.ctx).peersOut ∧ t.op? id = some { o with pieces := [{ p with done := true }] } ∧ t.net = s.net ++ [back (septordAt c v) 0]) ∧
    (∀ pa, o.kind = .amo → o.pieces = [p] → p.xl = .at pa → s.atStack o p = true →
      (o.opened = false → ∃ t, exec (.amoPerform id) s = .next t ∧ t.op? id = some { o with opened := true } ∧ t.mem = s.mem ∧ t.net = s.net ∧
        ∃ g, (t.stack (stackOf pa)).segs = (s.stack (stackOf pa)).segs ++ [g] ∧ g.kind = .amo ∧ g.op = id) ∧
      (o.opened = true → (∀ g, g ∈ (s.stack (stackOf pa)).segs → g.op ≠ id) → granOf pa ∈ s.gpoison →
        refused (exec (.amoPerform id) s) (port (stackOf pa)) 0 .poison 0) ∧
      (o.opened = true → (∀ g, g ∈ (s.stack (stackOf pa)).segs → g.op ≠ id) → granOf pa ∉ s.gpoison → granOf pa ∉ s.unchecked →
        (s.fn o.inst.1).dirtySize = 0 → s.ckpt.st ≠ 1 →
        let wide := bits (o.recw.getD 3 0) 4 2 = 1
        let n := if wide then 8 else 4
        let b := if wide then (o.recw.getD 4 0).toNat else bits (o.recw.getD 3 0) 32 32
        let e := if wide then (o.recw.getD 5 0).toNat else bits (o.recw.getD 4 0) 0 32
        let old := leNat (s.rdKeyBytes o.key pa n)
        let r := amoNew (bits (o.recw.getD 3 0) 0 4) (8 * n) old b e
        pa % 64 + n ≤ 64 → keyed s (granOf pa) (some o.key) →
        ∃ t, exec (.amoPerform id) s = .next t ∧ t.net = s.net ++ [back (port (stackOf pa)) 0] ∧
          t.op? id = some { o with pieces := [{ p with done := true }], result := some (BitVec.ofNat 64 old), flags := r.2 } ∧
          (∀ v, Ref.atomic (bits (o.recw.getD 3 0) 0 4) wide old b e = some v → r = (v, 0)) ∧
          ∀ a, t.rd a = if pa ≤ a ∧ a < pa + n then BitVec.ofNat 8 (r.1 / 2 ^ (8 * (a - pa))) else s.rd a)) ∧
    ((∀ q, q ∈ s.ops → id ∉ q.behind) →
      (o.kind = .acq → (∀ f, o.failed = some f → o.acked.getLsbD f.1 = false) →
        (o.mask &&& ~~~o.acked = 0 → ∃ t, exec (.acqComplete id) s = .next t ∧ answer o.val t ∧ (t.cx c o.who.ctx).descs = []) ∧
        (o.mask &&& ~~~o.acked ≠ 0 → o.failed = none →
          let l := s.sub k (s.tokenLog o)
          let want : BitVec 32 := o.val.setWidth 32
          let spoilt := fun (f : BitVec 32) => l.failedFrom = some f ∧ seqLe f want = true
          ((∀ st, st < 16 → o.there.getLsbD st = true → o.pub.getLsbD st = true) → exec (.acqComplete id) s = .next s) ∧
          (k < 16 → (∀ st, st < 16 → (o.there.getLsbD st = true ∧ o.pub.getLsbD st = false ↔ st = k)) →
            (∀ f, spoilt f → with' (exec (.acqComplete id) s) { o with failed := some (k, f), pub := o.pub ||| bit k } [ack k]) ∧
            ((∀ f, ¬ spoilt f) → seqLe want l.applied = true → with' (exec (.acqComplete id) s) { o with pub := o.pub ||| bit k } [ack k]) ∧
            ((∀ f, ¬ spoilt f) → seqLe want l.applied = false → exec (.acqComplete id) s = .next s)))) ∧
      (o.kind = .acqa → k < 16 →
        (o.acked ≠ 0xFFFF → o.there.getLsbD k = true → o.pub.getLsbD k = false →
          ((o.marks.get? k).getD 0 ≤ (s.stack k).doneSegs → with' (exec (.acqaMarker id k) s) { o with pub := o.pub ||| bit k } [ack k]) ∧
          ((s.stack k).doneSegs < (o.marks.get? k).getD 0 → exec (.acqaMarker id k) s = .next s)) ∧
        (o.acked = 0xFFFF → o.failed = none → ∃ t, exec (.acqaMarker id k) s = .next t ∧ answer 0 t ∧ (t.cx c o.who.ctx).descs = []))) ∧
    (∀ f st, o.kind = .acq → o.failed = some (st, f) → o.acked.getLsbD st = true → exec (.acqComplete id) s = .next (s.acqEnds o st f)) ∧
    (∀ f st, o.kind = .acqa → k < 16 → o.acked = 0xFFFF → o.failed = some (st, f) → exec (.acqaMarker id k) s = .next (s.acqEnds o st f))

/-- Registers, record rings, queue registers, host windows, fetching and resolved page faults (R100, R294, R295, R296, R297, R304, R312, R314, R320, R352, R363, R369). -/
def Obligations.HostRegistersAndWindows : Prop :=
  ∀ (s : State) (f q : Nat) (v : BitVec 64), f < 32 →
    let k := s.queue f q
    let writes := fun (off : Nat) (g : Fn → Fn) => exec (.registerWrite f off v) s = .next (s.modFn f g)
    let restarts := fun (off : Nat) (g : RecRing → Fn → Fn) =>
      exec (.ringRestart f off v) s = .next (s.modFn f (g { base := v.toNat / 4096 * 4096, lsize := v.toNat % 16 }))
    (writes 0x08 (fun k => { k with ttbase := v.toNat / 64 * 64 }) ∧ writes 0x10 (fun k => { k with ttcount := v.toNat % 2 ^ 21 }) ∧
      writes 0x18 (fun k => { k with itbase := v.toNat / 8 * 8 }) ∧ writes 0x20 (fun k => { k with itcount := v.toNat % 2 ^ 21 }) ∧
      writes 0x38 (fun k => { k with postq := v.toNat % 2 ^ 21, posten := v.getLsbD 24 }) ∧
      writes 0x40 (fun k => { k with wdog := v.setWidth 32 }) ∧ writes 0x28 id ∧ writes 0x30 id ∧ writes 0x68 id) ∧
    (f = 0 → ∀ n, n < 8 →
      (∀ i, i < 4 → exec (.registerWrite f (0x20808 + 8 * i) v) s = .next { s with mgmt := match i with
        | 0 => { s.mgmt with arg0 := v }
        | 1 => { s.mgmt with arg1 := v }
        | 2 => { s.mgmt with arg2 := v }
        | _ => { s.mgmt with arg3 := v } }) ∧
      (exec (.registerWrite f (0x20400 + 8 * n) v) s = .next (s.modFn n fun k => { k with ntroot := v.toNat / 4096 % 2 ^ 40 * 4096 })) ∧
      (v.getLsbD 0 = false → exec (.registerWrite f 0x100020 v) s = .next { s with ckpt := { s.ckpt with ctl := v &&& 0x00FFFFFFFFFF0000 } }) ∧
      (∃ t, exec (.registerWrite f (0x20010 + 0x40 * n) v) s = .next t ∧ { t with parts := s.parts } = s ∧
        (t.parts.getD n {}).whbm.toNat = Nat.max 1 (v.toNat / 2 ^ 32 % 256) ∧
        (t.parts.getD n {}).tenant = (if (s.parts.getD n {}).st = .free then v.setWidth 16 else (s.parts.getD n {}).tenant) ∧
        (t.parts.getD n {}).vf = (if (s.parts.getD n {}).st = .free then v.toNat / 2 ^ 16 % 32 else (s.parts.getD n {}).vf))) ∧
    (restarts 0x48 (fun r k => { k with fring := r, faultId := 0 }) ∧ restarts 0x58 (fun r k => { k with diag := r }) ∧
      (f = 0 → exec (.ringRestart f 0x100018 v) s = .next
        { s with errRing := { base := v.toNat / 4096 * 4096, lsize := v.toNat % 16 } }) ∧
      ∃ t, exec (.ringRestart f 0x60 v) s = .next t ∧ (t.fn f).recr.base = v.toNat / 4096 * 4096 ∧ (t.fn f).recEn = v.getLsbD 4 ∧
        (t.fn f).recReplay = v.getLsbD 5 ∧ (t.fn f).recOvf = false ∧ (t.fn f).recPos = 0) ∧
    (q < (s.fn f).qcount →
      let at' := 0x200000 + 128 * q
      (k.st = .disabled →
        exec (.registerWrite f at' v) s = .next (s.modQ f q fun k => { k with base := v.toNat / 4096 * 4096 }) ∧
        exec (.registerWrite f (at' + 8) v) s = .next (s.modQ f q fun k =>
          { k with size := if 12 ≤ v.toNat % 32 ∧ v.toNat % 32 ≤ 24 then v.toNat % 32 else 12 }) ∧
        (∃ t, exec (.ringRestart f (at' + 0x30) v) s = .next t ∧
          t.queue f q = { k with cring := { base := v.toNat / 4096 * 4096, lsize := v.toNat % 16 } }) ∧
        ∃ t, exec (.ringRestart f (at' + 0x38) v) s = .next t ∧
          t.queue f q = { k with ering := { base := v.toNat / 4096 * 4096, lsize := v.toNat % 16 } }) ∧
      (k.st ≠ .disabled → exec (.registerWrite f at' v) s = .next (s.modQ f q id) ∧ exec (.ringRestart f (at' + 0x30) v) s = .next s) ∧
      (let tail := v.toNat % 2 ^ 21
       ∃ t, exec (.qNotify f q v) s = .next t ∧ (t.queue f q).notify = tail ∧
        (∀ st e, st < 16 → e ∈ (t.sub st f).entries → e.published = true) ∧
        (2 ^ (k.size - 3) ≤ tail → (t.queue f q).st = .error ∧ (t.queue f q).code = 9) ∧
        (tail < 2 ^ (k.size - 3) → (t.queue f q).st = k.st ∧ (t.queue f q).code = k.code ∧ (t.queue f q).head = k.head)) ∧
      (v.getLsbD 1 = false → v.getLsbD 0 = true → ∃ t, exec (.qEnable f q v) s = .next t ∧ t.queue f q =
        if k.st = .disabled then
          { k with
            en := true
            prio := v.toNat / 4 % 4
            stopping := false
            st := .active
            head := k.notify
            fetched := []
            ibs := []
            loop := none
            skip := none
            wait := .none
            cleared := false
            copied := 0
            parked := none }
        else { k with en := true, prio := v.toNat / 4 % 4, stopping := false }) ∧
      (v.getLsbD 1 = false → v.getLsbD 0 = false → ∃ t, exec (.qDisable f q v) s = .next t ∧
        (t.queue f q).en = false ∧ (t.queue f q).prio = v.toNat / 4 % 4 ∧
        (k.st = .active → k.live = [] → k.wait = .none → k.cleared = false → (t.queue f q).st = .disabled) ∧
        (k.st = .active → k.live ≠ [] → (t.queue f q).st = .active ∧ (t.queue f q).stopping = true) ∧
        (k.st ≠ .active → (t.queue f q).st = k.st)) ∧
      (v.getLsbD 1 = true → ∃ t, exec (.qReset f q v) s = .next t ∧ (t.queue f q).st = (if v.getLsbD 0 then .active else .disabled) ∧
        (t.queue f q).en = v.getLsbD 0 ∧ (t.queue f q).head = k.notify ∧ (t.queue f q).fetched = [] ∧ (t.queue f q).ibs = [] ∧
        (t.queue f q).loop = none ∧ (t.queue f q).skip = none ∧ (t.queue f q).live = k.live ∧ (t.queue f q).pending = k.pending) ∧
      (∀ i pa gb pb size w, k.st = .active → k.parked = none → (k.ibs ≠ [] ∨ ∀ st, st < 16 → (s.stack st).waiting f = 0) →
        k.nextFetch = some i → s.nested Config.frontEnd f (k.addrOf (k.offAt i)) = .ok pa gb pb size true w →
        exec (.queueFetch f q) s = .next (s.modQ f q fun k =>
          { k with fetched := k.fetched ++ [(k.ibs.length, k.offAt i, BitVec.ofNat 64 (leNat (s.loadBytes f none pa 8)))] })) ∧
      (∀ i x, k.st = .active → k.parked = none → (k.ibs ≠ [] ∨ ∀ st, st < 16 → (s.stack st).waiting f = 0) →
        k.nextFetch = some i → s.gpaOf f (k.addrOf (k.offAt i)) false = .error x → k.needs i = false →
        exec (.queueFetch f q) s = .next s)) ∧
    (∀ gpa bs, bs ≠ [] → gpa % 64 + bs.length ≤ 64 →
      (∀ pa, s.gpaOf f gpa true = .ok pa → pa % 64 = gpa % 64 →
        let l := s.sub (stackOf pa) f
        (l.size / 128 ≤ l.entries.length → ∃ t, exec (.hostWindowWrite f gpa bs) s = .next t ∧ t.mem = s.mem ∧
          t.hostq = .hostWindowWrite f gpa bs :: s.hostq ∧
          ((∀ e, e ∈ l.entries → e.published = false) →
            (t.sub (stackOf pa) f).entries = l.entries.map fun e => { e with published := true }) ∧
          ((∃ e, e ∈ l.entries ∧ e.published = true) → (t.sub (stackOf pa) f).entries = l.entries)) ∧
        (l.entries.length < l.size / 128 → ∃ t e, exec (.hostWindowWrite f gpa bs) s = .next t ∧
          (s.hostLog f (stackOf pa)).ringStored t (stackOf pa) f e (BitVec.ofNat 16 (0xF800 + f)) l.smod ∧ t.hostq = s.hostq ∧
          (t.sub (stackOf pa) f).entries = l.entries ++ [e] ∧ e.kind = .data ∧ e.gran = pa / 64 ∧ e.seq = l.tail ∧ e.published = false ∧
          (∀ j, j < 64 → e.mask.getLsbD j = decide (pa % 64 ≤ j ∧ j < pa % 64 + bs.length)) ∧
          ∀ j, j < bs.length → BitVec.ofNat 8 (e.data.toNat / 2 ^ (8 * (pa % 64 + j))) = bs.getD j 0)) ∧
      (∀ x, s.gpaOf f gpa true = .error x → exec (.hostWindowWrite f gpa bs) s = .next (s.refuseHost f gpa)) ∧
      (∀ pa, s.ifaceUp f = true → s.hostShut f = false → (s.fn f).resetting = false → s.gpaOf f gpa false = .ok pa →
        let said := fun (t : State) (bad : Bool) => t.pcie = s.pcie ++ [.read f gpa (some (t.loadBytes f none pa bs.length)) bad]
        (granOf pa ∉ s.gpoison → granOf pa ∉ s.unchecked →
          exec (.hostWindowRead f gpa bs.length) s = .next { s with pcie := s.pcie ++
            [.read f gpa (some (s.loadBytes f none pa bs.length)) false] }) ∧
        (granOf pa ∈ s.gpoison → ∃ t, exec (.hostWindowRead f gpa bs.length) s = .next t ∧ t.mem = s.mem ∧ said t true) ∧
        (granOf pa ∉ s.gpoison → granOf pa ∈ s.unchecked → ∃ t, exec (.hostWindowRead f gpa bs.length) s = .next t ∧
          granOf pa ∈ t.gpoison ∧ said t true)) ∧
      (s.ifaceUp f = true → s.hostShut f = false → (s.fn f).resetting = true → exec (.hostWindowRead f gpa bs.length) s =
        .next { s with pcie := s.pcie ++ [.read f gpa (some (List.replicate bs.length 0xFF)) false] }) ∧
      ((s.ifaceUp f = false ∨ (s.fn f).resetting = true) → s.hostIn (.hostWindowWrite f gpa bs) = some s) ∧
      (s.ifaceUp f = true → (s.fn f).resetting = false →
        (s.hostShut f = true ∨ (∃ i g, i ∈ s.hostq ∧ hostFn i = some g ∧ (s.fn g).die4 = (s.fn f).die4) →
          s.hostIn (.hostWindowWrite f gpa bs) = some { s with hostq := s.hostq ++ [.hostWindowWrite f gpa bs] }) ∧
        (s.hostShut f = false → (∀ i g, i ∈ s.hostq → hostFn i = some g → (s.fn g).die4 ≠ (s.fn f).die4) → s.hostIn (.hostWindowWrite f gpa bs) = none))) ∧
    (let id := v.toNat % 2 ^ 32
     (∃ e, e ∈ (s.fn f).faults ∧ e.2 = id) →
      (v.getLsbD 32 = false → ∃ t, exec (.faultResume f v) s = .next t ∧ t.mem = s.mem ∧
        (t.fn f).faults = (s.fn f).faults.filter (fun e => e.2 != id) ∧
        (∀ j, (t.queue f j).parked = if (s.queue f j).parked = some (f, id) then none else (s.queue f j).parked) ∧
        t.ops = s.ops.map fun o => { o with
          dpark := if o.dpark = some (f, id) then none else o.dpark
          pieces := o.pieces.map fun p => if p.parkedAt f id then { p with xl := .todo } else p }) ∧
      (∀ o, v.getLsbD 32 = true → s.parkedQueues f id = [] → (s.ops.filter fun o => o.parkedAt f id) = [o] →
        exec (.faultAbort f v) s = .next (((s.stirParked f id).closeFault f id).failAccess o .translation 0 0)))

/-- Every packet of a command queue does what it says, and waits where it must (R299, R300, R302, R303, R305, R310, R368). -/
def Obligations.QueuePackets : Prop :=
  ∀ (s : State) (f q : Nat) (w : List Word),
    let k := s.queue f q
    let h := w.getD 0 0
    let a := (w.getD 1 0).toNat
    (∀ n p, (k.advance n).overrun = false → { s.processed f q n p with fns := s.fns } = s ∧
      (s.processed f q n p).queue f q = Queue.settle { k.advance n with
        pkts := k.pkts + 1
        num := k.num + 1
        cleared := false
        wait := .none
        copied := 0
        pending := k.pending ++ p } ∧
      (k.ibs = [] → k.loop = none → (k.advance n).head = (k.head + n) % 2 ^ (k.size - 3) ∧ (k.advance n).ibs = [] ∧ (k.advance n).loop = none)) ∧
    (k.wait = .bar →
      (s.earlierDone f q = true → exec (.barWaitEnd f q) s = .next (s.modQ f q fun k => { k with wait := .none, cleared := true })) ∧
      (s.earlierDone f q = false → exec (.barWaitEnd f q) s = .next s)) ∧
    (s.hasQ f q = true → k.skip = none → k.parse = .pkt w → k.wait = .none → k.cleared = false → s.earlierDone f q = false →
      (∀ u, s.turn f q = some u →
        (pktOp h = 0x0A → bit h 40 = true → exec (.nopp f q) s = .next (u.modQ f q fun k => { k with wait := .bar })) ∧
        (pktOp h = 0x0C → exec (.drain f q) s = .next (u.modQ f q fun k => { k with wait := .bar }))) ∧
      (s.turn f q = none → exec (.nopp f q) s = .next s ∧ exec (.drain f q) s = .next s)) ∧
    (q ≠ Config.devq →
      let more := fun (g r : Nat) => (g, r) ≠ (f, q) ∧ ((r = Config.devq ∧ s.devParsable g = true ∧ (s.fn g).devServed < 8) ∨
        (r ≠ Config.devq ∧ s.hasQ g r = true ∧ (s.queue g r).parsable = true ∧ (s.queue g r).served < 2 ^ (s.queue g r).prio))
      (k.served < 2 ^ k.prio → s.turn f q = some (s.modQ f q fun k => { k with served := k.served + 1 })) ∧
      (2 ^ k.prio ≤ k.served → (∃ g r, more g r ∧ (s.fns.get? g).isSome = true ∧ (r = Config.devq ∨ ((s.fn g).queues.get? r).isSome = true)) →
        s.turn f q = none) ∧
      (∀ u, 2 ^ k.prio ≤ k.served → s.turn f q = some u → u.queue f q = { k with served := 1 } ∧ { u with fns := s.fns } = s ∧
        ∀ g r, (g, r) ≠ (f, q) → (u.fn g).devServed = 0 ∧ u.queue g r = { s.queue g r with served := 0 })) ∧
    (∀ left d x, s.hasQ f q = true → k.skip = some (d, left) → k.st = .active → k.parked = none → k.stopping = false → k.word? 0 = some x →
      0 < pktOp x → pktOp x ≤ 12 → 0 < pktLen x → pktLen x ≤ k.avail → pktLen x ≤ k.words →
      let g := ({ k with skip := if left ≤ 1 then none else some (d, left - 1) } : Queue).advance (pktLen x)
      g.overrun = false → (k.served < 2 ^ k.prio → q ≠ Config.devq → ∃ t, exec (.predP f q) s = .next t ∧ { t with fns := s.fns } = s ∧
        t.queue f q = { g with served := k.served + 1 }) ∧
        (s.turn f q = none → exec (.predP f q) s = .next s)) ∧
    (∀ u, AtPacket s f q w u →
      let k := u.queue f q
      let byte := fun (v : Word) (t : State) (pa : Nat) => ∀ b, t.rd b =
        if pa ≤ b ∧ b < pa + 8 then BitVec.ofNat 8 (v.toNat / 2 ^ (8 * (b - pa))) else s.rd b
      (pktOp h = 0x0A → exec (.nopp f q) s = .next (u.processed f q (pktLen h) [])) ∧
      (pktOp h = 0x0C → exec (.drain f q) s = .next (u.processed f q 1 [])) ∧
      (pktOp h = 0x02 → k.ibs.length < 2 → ∃ t, exec (.ibcall f q) s = .next t ∧ { t with fns := s.fns } = s ∧
        (t.queue f q).ibs = { addr := a, len := bits (w.getD 2 0) 0 32 } :: (match k.ibs with
          | [] => []
          | b :: r => { b with pos := b.pos + 3 } :: r) ∧
        (t.queue f q).head = (if k.ibs = [] then (k.head + 3) % 2 ^ (k.size - 3) else k.head) ∧ (t.queue f q).loop = k.loop ∧
        (t.queue f q).pkts = k.pkts + 1) ∧
      (pktOp h = 0x02 → 2 ≤ k.ibs.length → exec (.ibcall f q) s = .next (u.pktError f q 3 0)) ∧
      (pktOp h = 0x04 → k.loop = none → k.ibs = [] → ∃ t, exec (.loopP f q) s = .next t ∧ (t.queue f q).pkts = k.pkts + 1 ∧
        (t.queue f q).loop = some (0, bits h 0 8, bits h 8 16, (k.head + 1) % 2 ^ (k.size - 3), 0)) ∧
      (∀ m, pktOp h = 0x05 → (k.wait = .acqa m ∧ u.reached m = true) ∨ ((∀ m, k.wait ≠ .acqa m) ∧ u.reached u.segMarks = true) →
        exec (.ffence f q) s = .next ((u.modQ f q Queue.discard).processed f q 1 [])) ∧
      (∀ pa gb pb size wr, pktOp h = 0x03 → u.reached u.segMarks = true → (∀ m, k.wait ≠ .acqa m) → u.nested Config.frontEnd f a = .ok pa gb pb size true wr →
        let v := leNat (u.loadBytes f none pa 8) % 2 ^ 64
        let skip := if condInt (bits h 8 4) 64 v (w.getD 2 0).toNat then none else some (k.ibs.length, bits h 0 8)
        exec (.predP f q) s = .next ((u.modQ f q fun k => { k with skip := skip }).processed f q 3 [])) ∧
      (∀ i m, pktOp h = 0x06 → u.inst? f (bits (w.getD 1 0) 0 32) = some i → parseImage i.words = some m →
        bits (w.getD 1 0) 32 11 < m.vcount → i.started = true → (k.advance 3).overrun = false →
        let port := bits (w.getD 1 0) 43 4
        let dst := i.place.getD (bits (w.getD 1 0) 32 11) 0
        let body : Payload := .wake port i.ctx (w.getD 2 0) (i.fn, q, k.num)
        ∃ t, exec (.wake f q) s = .next t ∧ t.net = u.net ++ [u.sent
          { vn := 4, src := Config.frontEnd, dst := dst, ctx := i.ctx, committed := true, counts := false, body := body }] ∧
          (t.queue f q).pkts = k.pkts + 1 ∧ (t.queue f q).num = k.num + 1) ∧
      (∀ i m, pktOp h = 0x06 → u.inst? f (bits (w.getD 1 0) 0 32) = some i → parseImage i.words = some m →
        bits (w.getD 1 0) 32 11 < m.vcount → i.started = false → exec (.wake f q) s = .next (u.processed f q 3
          [{ num := k.num, wake := some (bits (w.getD 1 0) 0 32, bits (w.getD 1 0) 32 11, bits (w.getD 1 0) 43 4, w.getD 2 0, false) }])) ∧
      (∀ p, pktOp h = 0x06 → u.inst? f (bits (w.getD 1 0) 0 32) = none →
        (u.fn f).devq.find? (fun p => p.id == bits (w.getD 1 0) 0 32) = some p → bits (w.getD 1 0) 32 11 ≤ p.vcountM1 →
        exec (.wake f q) s = .next (u.processed f q 3
          [{ num := k.num, wake := some (bits (w.getD 1 0) 0 32, bits (w.getD 1 0) 32 11, bits (w.getD 1 0) 43 4, w.getD 2 0, false) }])) ∧
      (∀ pa gb pb size r, u.ckpt.st ≠ 1 → u.nested Config.frontEnd f a = .ok pa gb pb size r true → pa % 64 + 8 ≤ 64 → granOf pa ∉ u.unchecked → (u.fn f).dirtySize = 0 →
        (pktOp h = 0x07 → (k.advance 3).overrun = false → ∃ t, exec (.signal f q) s = .next t ∧ byte (w.getD 2 0) t pa ∧
          (t.queue f q).pkts = k.pkts + 1 ∧ t.pcie = u.pcie ++ if h.getLsbD 41 then [.msix f (bits h 0 11)] else []) ∧
        (pktOp h = 0x09 → (k.advance 2).overrun = false → ∃ t, exec (.timestamp f q) s = .next t ∧ byte (u.clock.gt.toList.getD 0 0) t pa ∧
          (t.queue f q).pkts = k.pkts + 1)) ∧
      (∀ pa gb pb size wr, pktOp h = 0x08 → u.nested Config.frontEnd f a = .ok pa gb pb size true wr →
        let v := (BitVec.ofNat 64 (leNat (u.loadBytes f none pa 8)) &&& w.getD 3 0).toNat
        let out := if condInt (bits h 0 4) 64 v (w.getD 2 0).toNat then u.processed f q 4 []
          else u.modQ f q fun k => { k with wait := .waitv u.clock.nc }
        ((∀ l, k.wait ≠ .waitv l) → exec (.waitv f q) s = .next out) ∧
        ∀ l, k.wait = .waitv l → exec (.waitv f q) s = .next u ∧ exec (.waitvPoll f q) s = .next (if l + 1024 ≤ u.clock.nc then out else u)) ∧
      (∀ pa gb pb size wr pa' gb' pb' size' r, pktOp h = 0x0B → bits (w.getD 3 0) 0 32 = 64 → k.copied = 0 →
        u.nested Config.frontEnd f a = .ok pa gb pb size true wr → u.nested Config.frontEnd f (w.getD 2 0).toNat = .ok pa' gb' pb' size' r true →
        let l := u.sub (stackOf pa') f
        (l.size / 128 ≤ l.entries.length → ∃ t, exec (.hcopy f q) s = .next t ∧ t.mem = u.mem ∧ (t.queue f q).copied = 0 ∧
          (t.queue f q).pkts = k.pkts ∧ (t.queue f q).cleared = true ∧
          (t.sub (stackOf pa') f).entries = l.entries.map fun e => { e with published := true }) ∧
        (l.entries.length < l.size / 128 → pa' % 64 = 0 → granOf pa ∉ u.gpoison → (k.advance 4).overrun = false →
        ∃ t e, exec (.hcopy f q) s = .next t ∧ (t.sub (stackOf pa') f).entries = l.entries.map (fun e => { e with published := true }) ++ [e] ∧
          e.published = true ∧ e.gran = pa' / 64 ∧ e.mask = BitVec.allOnes 64 ∧ e.data = BitVec.ofNat 512 (leNat (u.loadGran f none (granOf pa))) ∧
          (s.hostLog f (stackOf pa')).ringStored t (stackOf pa') f e (BitVec.ofNat 16 (0xF800 + f)) l.smod ∧ (t.queue f q).pkts = k.pkts + 1)) ∧
      (∀ pa gb pb size wr pa' gb' pb' size' wr' m, pktOp h = 0x01 → q ≠ Config.devq → k.live.length < 64 →
        let i := launchOf f q k.ibs.length k.pos w
        let e := BitVec.ofNat 64 (leNat (u.loadBytes f none pa 8))
        let at' := bits e 12 52 * 4096
        let hd := bytesWords (u.loadBytes f none pa' 32)
        let len := (hd.getD 2 0).toNat
        let ws := (bytesWords (u.guestBytes f at' ((len + 63) / 64))).take (len / 8)
        (u.fn f).parts.getLsbD i.part = true → i.image < (u.fn f).itcount → u.nested Config.frontEnd f ((u.fn f).itbase + 8 * i.image) = .ok pa gb pb size true wr →
        bit e 0 = true → bits e 1 11 = 0 → u.nested Config.frontEnd f at' = .ok pa' gb' pb' size' true wr' → bits (hd.getD 0 0) 0 32 = 0x4D594231 →
        32 ≤ len → len % 8 = 0 → len < 2 ^ 40 → u.unread f at' ((len + 63) / 64) = none → parseImage ws = some m →
        m.vcount ≤ (u.usableCells (u.parts.getD i.part {})).length → i.scrub = false → (k.advance (pktLen h)).overrun = false →
        let id := (u.fn f).launchCount.toNat
        ∃ t, exec (.launch f q) s = .next t ∧ t.insts = u.insts ++ [{ i with words := ws, acq := u.firstAcq f false, id := id }] ∧
          (t.parts.getD i.part {}).queue = (u.parts.getD i.part {}).queue ++ [(f, id)] ∧ (t.fn f).launchCount = (u.fn f).launchCount + 1 ∧
          (t.queue f q).live = k.live ++ [id] ∧ (t.queue f q).pending = k.pending ++ [{ num := k.num, launch := some id }] ∧
          (t.queue f q).pkts = k.pkts + 1))

/-- Placement, start, moves, loads, returns, completion, posted launches, hangs and containment regions (R55, R64, R225, R305, R306, R307, R308, R309, R325, R326, R333, R334). -/
def Obligations.InstancesAndRegions : Prop :=
  ∀ (s : State) (f id : Nat) (i : Inst), s.inst? f id = some i →
    let part := i.part
    let p := s.parts.getD part {}
    let over' := fun (t : State) => t.inst? f id = none ∧
      (∀ c, c ∈ i.place → (t.cx c i.ctx).inst = none ∧ (t.cx c i.ctx).released = true) ∧
      (i.dev = false → (t.queue f i.q).live = (s.queue f i.q).live.filter (· != id))
    let hung := fun (st : EndStatus) => { s with parts := s.parts.put part { p with
      hung := p.hung ++ [(f, id, st)]
      freezing := p.freezing.or (some (s.partAc p)) } }
    let closes := fun (t : State) =>
      t.ops.length = s.ops.length + (i.place.filter fun c => decide ((s.cx c i.ctx).log ≠ 0)).length ∧
      ∀ o, o ∈ t.ops → o ∈ s.ops ∨ (o.kind = .closing ∧ o.sys = true ∧ o.inst = (f, id) ∧ o.who.cell ∈ i.place ∧ o.who.ctx = i.ctx)
    (p.st = .granted → p.freezing = none → p.queue = [(f, id)] → i.prio < 4 →
      (i.scrub = true → i.scrubbed = false → (∀ j, j ∈ s.insts → j.part = part → j.phase = .waiting) →
        exec (.launchPlacement part) s = .next { s with parts := s.parts.put part { p with
          st := .scrubbing
          scrub := some (.launch f id)
          scrubStart := s.now 0
          outTenant := p.tenant
          freezing := none
          hung := []
          pages := 0
          bayfail := false } }) ∧
      ((i.scrub = true → i.scrubbed = true) →
        (s.placeInst i = none → exec (.launchPlacement part) s = .next s) ∧
        (∀ t, s.placeInst i = some t → exec (.launchPlacement part) s = .next t ∧ (t.parts.getD part {}).queue = [] ∧
          (∃ j m, t.inst? f id = some j ∧ parseImage i.words = some m ∧ j.ctx < 8 ∧ j.place.length = m.vcount ∧ j.load = 0 ∧
            j.phase = (if i.phase = .waiting then .placed else i.phase) ∧ ∀ c, c ∈ j.place → c ∈ s.usableCells p ∧
              ((s.cx c j.ctx).inst = none ∧ ((s.cx c j.ctx).released = true → (s.cx c j.ctx).tenant = p.tenant)) ∧
              (t.cx c j.ctx).inst = some (f, id) ∧ (t.cx c j.ctx).tenant = p.tenant ∧ (t.cx c j.ctx).place = j.place) ∧
          ∃ j m, t.inst? f id = some j ∧ parseImage i.words = some m ∧ ∀ v, v < m.vcount →
            let k := t.cx (j.place.getD v 0) j.ctx
            k.vcell = v ∧ k.part = part ∧ k.ctl = { prio := BitVec.ofNat 2 i.prio } ∧
            (∀ g, m.seg 0 v = some g → k.areaSize = g.area ∧ k.logSize = g.log ∧ k.spillCap = g.spill / 32 ∧
              (k.resident = true ↔ ((s.cell (j.place.getD v 0)).evict j.ctx k.image.length (List.range 8)).isSome = true) ∧ k.ahead = none) ∧
            (m.seg 0 v = none → ∀ g, m.seg 1 v = some g → ∃ code, k.ahead = some (code, false))))) ∧
    (∀ die g,
      let r := s.fetchSeg i p.tenant die g
      (∀ n, s.cupImage die p.tenant i.image g = some n → r = (s, n.code)) ∧
      (s.cupImage die p.tenant i.image g = none → r.2 = (s.segNow i g).code ∧
        ∃ n, r.1.cupImage die p.tenant i.image g = some n ∧ n.code = (s.segNow i g).code)) ∧
    (i.phase = .placed → i.unformed = [] → (i.scrub = true → i.scrubbed = true) →
      ((∀ e, e ∈ i.acq → e.2 ≤ (s.stack e.1).doneSegs) → (∀ e, e ∈ (s.fn f).queues → ∀ r, r ∈ e.2.pending → r.wake = none) →
        exec (.instanceStart f id) s = .next (s.modInst f id fun i =>
          { i with phase := .running, started := true, wdog := 0, lastAct := s.ac (i.place.headD 0) })) ∧
      ((∃ e, e ∈ i.acq ∧ (s.stack e.1).doneSegs < e.2) → exec (.instanceStart f id) s = .next s)) ∧
    (∀ v d, v < i.place.length → i.phase ≠ .waiting →
      let c := i.place.getD v 0
      let x := i.ctx
      let g := renamed [c] [d]
      s.runs c = true → d ∈ s.usableCells p → d ∉ i.place → ((s.cell c).lane.busy = true → (s.cell c).lane.fir.ctx ≠ x) →
      (s.cell c).engineFree x = true → (s.cell d).takes ((s.cell c).only [x]) x p.tenant = true → s.allReach (i.place.map g) = true →
      ∃ t, exec (.segmentMove f id v d) s = .next t ∧ t.inst? f id = some (i.moved g) ∧ t.mem = s.mem ∧ t.cx c x = {} ∧
        (t.cx d x).inst = (s.cx c x).inst ∧ (t.cx d x).vcell = (s.cx c x).vcell ∧ (t.cx d x).frames = (s.cx c x).frames ∧
        (t.cx d x).ctl = (s.cx c x).ctl ∧ (t.cx d x).image = (s.cx c x).image ∧ (t.cx d x).outstanding = (s.cx c x).outstanding ∧
        (∀ b, b ∉ i.place → b ≠ d → t.cell b = s.cell b) ∧
        ((s.cell d).cleared.blank = true → (t.cell d).matrix.wb0 = (s.cell c).matrix.wb0 ∧
          (t.cell d).matrix.wb1 = (s.cell c).matrix.wb1 ∧ (t.cell d).matrix.acc = (s.cell c).matrix.acc) ∧
        t.net.length = s.net.length ∧ ∀ (n : Nat) (q : Packet), s.net[n]? = some q → q.ctx = x → q.dst = c → q.src ≠ c →
          ∃ q' : Packet, t.net[n]? = some q' ∧ q'.dst = d ∧ q'.src = q.src ∧ q'.vn = q.vn ∧ q'.hops = none) ∧
    (∀ m, parseImage i.words = some m → i.phase = .running → i.unformed ≠ [] → exec (.loadAdvance f id) s = .next (s.formDue i)) ∧
    (∀ m, parseImage i.words = some m → i.phase = .running → i.load + 1 < m.nload → s.loadIdle i = true → (∀ c, c ∈ i.place → s.runs c = true) →
      (i.leaving = false → ∃ t, exec (.loadAdvance f id) s = .next t ∧ t.inst? f id = some { i with leaving := true } ∧
        (∀ c, c ∈ i.place → (t.cx c i.ctx).frames = []) ∧ t.mem = s.mem ∧ closes t) ∧
      (i.leaving = true → s.relsApplied i 0 = false → exec (.loadAdvance f id) s = .next s) ∧
      (∀ t, i.leaving = true → s.relsApplied i 0 = true → s.nextLoad i m = some t → exec (.loadAdvance f id) s = .next t ∧
        ∃ j, t.inst? f id = some j ∧ j.load = i.load + 1 ∧ j.place = i.place ∧ j.ctx = i.ctx ∧ j.leaving = false ∧ j.regions = [] ∧
          (i.place.length = m.vcount → ∀ c, c ∈ i.place → (t.cx c i.ctx).times = (s.cx c i.ctx).times))) ∧
    (∀ src ctx q k, s.packet? 4 src Config.frontEnd ctx = some q → q.body = .ret k → s.instAt src ctx = some i →
      ∃ t, exec (.returnToken src ctx) s = .next t ∧ t.inst? f id = some { i with ret := some (i.ret.getD k.val) } ∧
        t.net = (s.takePacket 4 src Config.frontEnd ctx).net) ∧
    (i.phase = .running → s.canEnd i = true → s.hangs i = false → (∀ c, c ∈ i.place → s.runs c = true) →
      ∃ t, exec (.endOfGraphRelease f id) s = .next t ∧ t.inst? f id = some { i with phase := .releasing } ∧ t.cells = s.cells ∧
        t.mem = s.mem ∧ closes t) ∧
    (i.phase = .releasing → s.canEnd i = true → s.hangs i = false →
      (s.relsApplied i 0 = true → i.expired = false → ∃ t, exec (.instanceComplete f id) s = .next t ∧ over' t) ∧
      (s.relsApplied i 0 = false ∨ i.expired = true → exec (.instanceComplete f id) s = .next s)) ∧
    (∀ src ctx q w cont prio op who, s.packet? 4 src Config.frontEnd ctx = some q → q.body = .qpost w cont prio op who →
      s.instAt src ctx = some i →
      let k := s.fn f
      let no := k.posten = false ∨ bits (word k.postq) 0 8 ≤ k.postedLive.length
      let net := (s.takePacket 4 src Config.frontEnd ctx).net
      let shown := bits (w.getD 0 0) 32 32 = 0 ∧ bits (w.getD 1 0) 11 53 = 0
      (¬ shown → exec (.qpostRequest src ctx) s = .next (
        let u := (s.takePacket 4 src Config.frontEnd ctx).dropOps fun o => o.id == op
        if (s.op? op).isSome then (u.lowerOut who.cell who.ctx 1).opLost who .shape 0 0 else u)) ∧
      (shown → ∃ t v, exec (.qpostRequest src ctx) s = .next t ∧
        ((s.op? op = none → t.net = net) ∧ (s.op? op ≠ none →
          let tok : Token := { cont := cont, val := v, tag := who.tag }
          let dst := (s.cx who.cell who.ctx).place.getD (vcellOf cont) 0
          t.net = net ++ [s.sent { vn := 0, src := Config.frontEnd, dst := dst, ctx := ctxOf cont, committed := true, counts := false,
                                   also := some who.cell, body := .token tok }])) ∧
        (no → v = word (2 ^ 63 + 1) ∧ (t.fn f).devq = k.devq ∧ (t.fn f).launchCount = k.launchCount) ∧
        (¬ no → 64 ≤ k.devq.length → v = word (2 ^ 63 + 2) ∧ (t.fn f).devq = k.devq ∧ (t.fn f).launchCount = k.launchCount) ∧
        (¬ no → k.devq.length < 64 → v = word k.launchCount.toNat ∧ (t.fn f).launchCount = k.launchCount + 1 ∧
          (t.fn f).postedLive = k.postedLive ++ [k.launchCount.toNat] ∧ ∃ c, (t.fn f).devq = k.devq ++ [c] ∧
            c.id = k.launchCount.toNat ∧ c.parent = id ∧ c.part = part ∧ c.prio = prio ∧ c.budget = k.wdog.toNat ∧
            c.image = bits (w.getD 0 0) 0 32 ∧ c.vcountM1 = bits (w.getD 1 0) 0 11 ∧ c.args = (w.drop 2).take 4))) ∧
    (s.hangs i = true → exec (.watchdogExpiry f id) s = .next s ∧ exec (.deadlockDetect f id) s = .next s) ∧
    (∀ n, (i.fired = false → s.tickInst n i = i) ∧
      (i.fired = true → p.halted = false → p.st = .granted → s.allParked i = false →
        (s.tickInst n i).wdog = i.wdog + n ∧ ((s.tickInst n i).expired = true ↔
          i.expired = true ∨ (i.budget ≠ 0 ∧ i.budget * 2 ^ 16 ≤ i.wdog + n ∧
            ¬ (i.phase = .releasing ∧ s.relsApplied i 0 = true ∧ s.canEnd i = true))))) ∧
    (i.expired = false → exec (.watchdogExpiry f id) s = .next s) ∧
    (i.expired = true → s.hangs i = false → exec (.watchdogExpiry f id) s = .next (hung .watchdog)) ∧
    (i.started = true → s.hangs i = false → s.runs (i.place.headD 0) = true → (∃ c, c ∈ i.place ∧ (s.cx c i.ctx).frames ≠ []) →
      (i.lastAct + 2 ^ 24 ≤ s.ac (i.place.headD 0) → exec (.deadlockDetect f id) s = .next (hung .hang)) ∧
      (s.ac (i.place.headD 0) < i.lastAct + 2 ^ 24 → exec (.deadlockDetect f id) s = .next s)) ∧
    (∀ r g, i.regions.get? r = some g →
      (∀ src ctx q recd tag faulty,
        let dst := (s.cx src ctx).place.getD 0 0
        s.packet? 4 src dst ctx = some q → q.body = .regionFail r recd tag faulty → s.instAt dst ctx = some i →
        (g.mark = .failed → exec (.regionFailureReport src ctx) s = .next (s.takePacket 4 src dst ctx)) ∧
        (g.mark ≠ .failed → ∃ t j, exec (.regionFailureReport src ctx) s = .next t ∧ t.inst? f id = some j ∧
          j.regions.get? r = some { g with mark := .failed, first := recd, tag := tag, faulty := faulty, todo := i.place } ∧
          t.net = (s.takePacket 4 src dst ctx).net ++ i.place.map fun c => s.sent
            { vn := 4, src := dst, dst := c, ctx := ctx, counts := false, body := .regionApply r })) ∧
      (∀ o code d1 d2, regionOf o.who.tag = r → r ≠ 0 → (s.cx o.who.cell o.who.ctx).regions.get? r = some .opened →
        s.instAt o.who.cell o.who.ctx = some i →
        ∃ j, (s.failOp o 2 code d1 d2).inst? f id = some j ∧ j.regions.get? r = some { g with cancelled := g.cancelled + 1 }) ∧
      (∀ c q,
        let x := i.ctx
        let src := (s.cx c x).place.getD 0 0
        s.packet? 4 src c x = some q → q.body = .regionApply r → s.instAt c x = some i → r ≠ 0 →
        ((s.cell c).lane.busy = true → (s.cell c).laneIn x r = false → exec (.regionFailureApply c x) s = .next s) ∧
        ((s.cell c).lane.busy = false ∨ (s.cell c).laneIn x r = true →
          (s.cell c).faultToks x r = [] →
          (∀ e, e ∈ (s.cx c x).pools → ∀ a, a ∈ e.2.queue → a.region = 0 ∨ a.region = regionOf a.tag) →
          ∃ t j n, exec (.regionFailureApply c x) s = .next t ∧ t.inst? f id = some j ∧
            j.regions.get? r = some { g with todo := g.todo.erase c, cancelled := n, closing := g.closing.filter fun w => !(w.2.cell == c && regionOf w.2.tag == r) } ∧ (t.cx c x).regions.get? r = some .failed ∧
            (∀ e, e ∈ (t.cx c x).frames → e.2.region ≠ r) ∧ (∀ k, k ∈ (t.cell c).inq → ctxOf k.cont = x → regionOf k.tag ≠ r) ∧
            ∀ e, e ∈ (t.cell c).recs → e.2.fir.ctx = x → regionOf e.2.fir.tag ≠ r)) ∧
      (g.mark = .failed → g.delivered = false → g.todo = [] →
        (s.regionDone i r = false → exec (.regionFailedDelivery f id r) s = .next s) ∧
        (s.regionDone i r = true → exec (.regionFailedDelivery f id r) s = .next
          (((s.voidRegion i r).modRegion i r fun g => { g with delivered := true }).deliverTo
            { cell := i.place.headD 0
              ctx := i.ctx
              cls := 3
              code := .regionFailed
              ia := 0x3FFF
              frame := 0
              d1 := word r
              d2 := word g.cancelled
              tag := g.tag
              faulty := g.faulty } g.handler g.first))) ∧
      (∀ w ws, g.closing = w :: ws →
        let ends := fun (v : Word) => exec (.regionCloseProceed f id r) s = .next (s.endRegion i r g v) ∧
          ∃ j, (s.endRegion i r g v).inst? f id = some j ∧ j.regions.get? r = none
        (g.mark = .failed → g.delivered = true → ends 0) ∧
        (g.mark = .failed → g.delivered = false → exec (.regionCloseProceed f id r) s = .next s) ∧
        (g.mark ≠ .failed → s.runs (i.place.headD 0) = true →
          (g.released = true → s.relsApplied i r = true → ends g.token) ∧
          (g.released = false → s.regionQuiet i r = true → exec (.regionCloseProceed f id r) s = .next (s.closeRegion i r w.2.ia)) ∧
          (g.released = false → s.regionQuiet i r = false → exec (.regionCloseProceed f id r) s = .next s))))

/-- Every management command, freeze, scrub, signature and function reset does what the rules give it (R312, R313, R314, R317, R319, R327, R328, R329, R330, R331, R336, R338). -/
def Obligations.ManagementCommandsComplete : Prop :=
  ∀ (s : State) (cmd : Word),
    let n := bits cmd 0 8
    let a0 := s.mgmt.arg0
    let a1 := s.mgmt.arg1
    let a2 := s.mgmt.arg2
    let a3 := s.mgmt.arg3
    let u := { s with mgmt := { s.mgmt with
      cmd := cmd
      busy := true
      tag := BitVec.ofNat 8 (bits cmd 8 8)
      code := 0
      result := 0
      clash := false
      given := [a0, a1, a2, a3] } }
    let fin := fun (t : State) (c r : Nat) => { t with mgmt := { t.mgmt with
      busy := false
      waits := none
      ops := []
      marks := []
      removed := false
      code := BitVec.ofNat 8 c
      result := BitVec.ofNat 32 r } }
    let fits := fun (a : Word) (n : Nat) => a.toNat + n ≤ 3 * 2 ^ 38
    let cmds : List (Nat × Instr) := [(0x01, .grant cmd), (0x02, .takeback cmd), (0x03, .freeze cmd), (0x04, .thaw cmd), (0x05, .save cmd),
      (0x06, .restore cmd), (0x07, .keyload cmd), (0x08, .keyclear cmd), (0x09, .invalidate cmd), (0x0A, .dirty cmd), (0x0B, .exportq cmd),
      (0x0C, .importq cmd), (0x0D, .halt cmd), (0x0E, .shadowadd cmd), (0x0F, .shadowtake cmd), (0x10, .ringpool cmd)]
    (∀ e, e ∈ cmds → n = e.1 →
      (s.mgmt.busy = true → exec e.2 s = .next { s with mgmt := { s.mgmt with clash := true } }) ∧
      (s.mgmt.busy = false → bits cmd 16 48 ≠ 0 → exec e.2 s = .next (fin u 1 0)) ∧
      (s.mgmt.busy = false → bits cmd 16 48 = 0 → e.1 ∈ [0x01, 0x02, 0x03, 0x04, 0x05, 0x06, 0x0D] → 8 ≤ a0.toNat →
        exec e.2 s = .next (fin u 1 0)) ∧
      (s.mgmt.busy = false → bits cmd 16 48 = 0 → e.1 ∈ [0x09, 0x0A, 0x0B, 0x0C, 0x0E, 0x0F, 0x10] → a0 = 0 ∨ 32 ≤ a0.toNat →
        exec e.2 s = .next (fin u 1 0))) ∧
    (s.mgmt.busy = false → bits cmd 16 48 = 0 →
      (n = 0 ∨ 0x10 < n → exec (.mgmtBadCommand cmd) s = .next (fin u 1 0)) ∧
      (a0.toNat < 8 →
        let k := a0.toNat
        let p := s.parts.getD k {}
        let frozen := fun (h : Bool) (w : Nat) => { u with
          parts := s.parts.put k { p with freezing := some (s.partAc p), halted := p.halted || h }
          mgmt := { u.mgmt with waits := some (w, k) } }
        (n = 0x01 → 2 ^ 16 ≤ a1.toNat ∨ a2 = 0 ∨ 32 ≤ a2.toNat → exec (.grant cmd) s = .next (fin u 1 0)) ∧
        (n = 0x01 → a1.toNat < 2 ^ 16 → a2 ≠ 0 → a2.toNat < 32 →
          (p.st ≠ .free → exec (.grant cmd) s = .next (fin u 2 0)) ∧
          (p.st = .free → s.heldElsewhere k p.bays = true ∨ s.listedBay p.bays = true → exec (.grant cmd) s = .next (fin u 3 0)) ∧
          (p.st = .free → s.heldElsewhere k p.bays = false → s.listedBay p.bays = false → ∃ t, exec (.grant cmd) s = .next t ∧
            t.mgmt = { u.mgmt with waits := some (0x01, k) } ∧ (t.fn a2.toNat).parts.getLsbD k = true ∧
            t.parts.getD k {} = { p with
              tenant := a1.setWidth 16
              vf := a2.toNat
              st := .scrubbing
              scrub := some .grant
              scrubStart := s.now 0
              outTenant := 0xFFFF
              freezing := none
              hung := []
              pages := 0
              bayfail := false })) ∧
        (n = 0x03 → exec (.freeze cmd) s = .next (if p.st = .granted then frozen false 0x03 else fin u 2 0)) ∧
        (n = 0x0D → exec (.halt cmd) s = .next (if p.st = .granted then frozen true 0x0D else fin u 2 0)) ∧
        (n = 0x04 → (p.st ≠ .frozen → exec (.thaw cmd) s = .next (fin u 2 0)) ∧
          (p.st = .frozen → ∃ t, exec (.thaw cmd) s = .next t ∧ { t with parts := s.parts } = fin u 0 0 ∧
            t.parts.getD k {} = { p with st := .granted, freezing := none, halted := false })) ∧
        (n = 0x02 → (1 < a1.toNat ∨ (a1 ≠ 0 ∧ ¬ fits a2 a3.toNat) → exec (.takeback cmd) s = .next (fin u 1 0)) ∧ (a1.toNat ≤ 1 → (a1 = 1 → fits a2 a3.toNat) →
          (p.st = .granted → a1 = 1 → exec (.takeback cmd) s = .next (frozen false 0x02)) ∧
          (p.st = .free ∨ p.st = .scrubbing → exec (.takeback cmd) s = .next (fin u 2 0)) ∧
          (p.st = .frozen → a1 = 1 → a3.toNat < 8 * (s.saveWords k).length → exec (.takeback cmd) s = .next (fin u 3 0)) ∧
          ((p.st = .frozen ∧ (a1 = 0 ∨ 8 * (s.saveWords k).length ≤ a3.toNat)) ∨ (p.st = .granted ∧ a1 = 0) → ∃ t, exec (.takeback cmd) s = .next t ∧
            t.mgmt = { u.mgmt with waits := some (0x02, k) } ∧ (∀ j, j ∈ t.insts → j.part ≠ k) ∧
            (a1 = 1 → ∀ j, j ∈ s.insts → j.part = k → (j.fn, j.id) ∈ t.away) ∧
            t.saves.length = s.saves.length + a1.toNat ∧ (t.parts.getD k {}).pages = (if a1 = 0 then s.ringPages k else 0) ∧
            (t.parts.getD k {}).st = .scrubbing ∧ (t.parts.getD k {}).scrub = some (.takeback (a1 == 1)) ∧ (t.parts.getD k {}).queue = []))) ∧
        (n = 0x05 → (p.st ≠ .frozen → exec (.save cmd) s = .next (fin u 2 0)) ∧ (p.st = .frozen → ¬ fits a1 a2.toNat → exec (.save cmd) s = .next (fin u 1 0)) ∧
          (p.st = .frozen → fits a1 a2.toNat →
          (a2.toNat < 8 * (s.saveWords k).length → exec (.save cmd) s = .next (fin u 3 0)) ∧
          (8 * (s.saveWords k).length ≤ a2.toNat → ∃ t, exec (.save cmd) s = .next t ∧ t.mgmt = (fin u 0 0).mgmt ∧ t.parts = s.parts ∧
            t.insts = s.insts ∧ t.saves = s.saves ++ [s.saveImage k a1.toNat (s.saveWords k)] ∧
            (∀ j, j < 8 * (s.saveWords k).length → t.rd (a1.toNat + j) = (wordBytes (s.saveWords k)).getD j 0) ∧
            (s.saveWords k).getD 0 0 = 0x000153564731 ∧ bits ((s.saveWords k).getD 2 0) 0 16 = p.tenant.toNat ∧
            bits ((s.saveWords k).getD 1 0) 16 8 = (s.instsOf k).length % 256 ∧
            (s.saveWords k).getD 3 0 = (imageCrc (s.saveWords k)).setWidth 64))) ∧
        (n = 0x06 → (¬ fits a1 32 → exec (.restore cmd) s = .next (fin u 1 0)) ∧ (fits a1 32 → ((p.st ≠ .granted ∨ s.instsOf k ≠ []) → exec (.restore cmd) s = .next (fin u 2 0)) ∧
          (p.st = .granted → s.instsOf k = [] →
            (bits (s.rdReserved a1.toNat) 0 48 ≠ 0x000153564731 ∨ s.imageAt a1.toNat = none → exec (.restore cmd) s = .next (fin u 2 0)) ∧
            (∀ ws, s.imageAt a1.toNat = some ws →
              let m := s.savedAs ws
              (bits (ws.getD 2 0) 0 16 ≠ p.tenant.toNat ∨ (∃ j, j ∈ m.insts ∧ (s.usableCells p).length < j.place.length) →
                exec (.restore cmd) s = .next (fin u 2 0)) ∧
              (bits (ws.getD 2 0) 0 16 = p.tenant.toNat → (∀ j, j ∈ m.insts → j.place.length ≤ (s.usableCells p).length) →
                (u.restoreAll k m = none → exec (.restore cmd) s = .next (fin u 3 0)) ∧
                ∀ t, u.restoreAll k m = some t → t.insts.length = s.insts.length + m.insts.length ∧
                  exec (.restore cmd) s = .next ((t.modPart k fun p => { p with st := .frozen }).mgmtDone 0 0))))))) ∧
      (n = 0x07 → 1024 ≤ a0.toNat ∨ 32 ≤ a1.toNat ∨ (a0 = 0 ∧ a1 ≠ 0) ∨ (a0 ≠ 0 ∧ a1 = 0) ∨ ¬ fits a2 64 → exec (.keyload cmd) s = .next (fin u 1 0)) ∧
      (n = 0x07 → a0.toNat < 1024 → a1.toNat < 32 → (a0 = 0 ↔ a1 = 0) → fits a2 64 →
        (∀ k, s.keys.get? a0.toNat = some k → k.owned = true → k.owner ≠ a1.toNat → exec (.keyload cmd) s = .next (fin u 2 0)) ∧
        ((∀ k, s.keys.get? a0.toNat = some k → k.owned = true → k.owner = a1.toNat) → exec (.keyload cmd) s = .next
          (if s.keyInUse a0.toNat then { u with mgmt := { u.mgmt with waits := some (0x07, a0.toNat) } }
          else fin { u with
            keys := s.keys.put a0.toNat { owner := a1.toNat, owned := true, key := BitVec.ofNat 512 (leNat (s.rdBytes a2.toNat 64)) } } 0 0))) ∧
      (n = 0x08 → exec (.keyclear cmd) s = .next
        (if 1024 ≤ a0.toNat then fin u 1 0
        else if s.keyInUse a0.toNat then { u with mgmt := { u.mgmt with waits := some (0x08, a0.toNat) } }
        else fin { u with keys := s.keys.del a0.toNat } 0 0)) ∧
      (a0 ≠ 0 → a0.toNat < 32 →
        let f := a0.toNat
        let k := s.fn f
        (n = 0x09 → (a1.toNat % 4096 ≠ 0 → exec (.invalidate cmd) s = .next (fin u 1 0)) ∧
          (a1.toNat % 4096 = 0 → ∃ t, exec (.invalidate cmd) s = .next t ∧ t.mgmt.busy = true ∧ t.mgmt.waits = some (0x09, f) ∧ t.mem = s.mem ∧
            { t with mgmt := (s.publishHost 0).mgmt } = s.publishHost 0 ∧ t.mgmt.marks = t.firstAcq 0 false ∧ t.tlb = s.tlb)) ∧
        (n = 0x0A → exec (.dirty cmd) s = .next
          (if 48 < a2.toNat then fin u 1 0 else { u with mgmt := { u.mgmt with waits := some (0x0A, f) } })) ∧
        (n = 0x0B → exec (.exportq cmd) s = .next
          (if ¬ fits a1 (8 * (s.exportWords f).length) then fin u 1 0
          else if s.allFrozen f then fin (u.wrBytes a1.toNat (wordBytes (s.exportWords f))) 0 0 else fin u 2 0) ∧
          (s.exportWords f).length = 7 + 64 * k.qcount + 8 * k.devq.length) ∧
        (n = 0x0C →
          let nq := bits (s.rdWord (a1.toNat + 8)) 0 13
          let nd := bits (s.rdWord (a1.toNat + 8)) 13 7
          let whole := fits a1 (16 + 512 * nq + 64 * nd + 40)
          (¬ whole → exec (.importq cmd) s = .next (fin u 1 0)) ∧
          (whole → (∃ e, e ∈ k.queues ∧ e.2.en = true) → exec (.importq cmd) s = .next (fin u 2 0)) ∧
          (whole → (∀ e, e ∈ k.queues → e.2.en = false) →
            let last := a1.toNat + 16 + 512 * nq + 64 * nd
            (bits (s.rdWord a1.toNat) 0 48 ≠ 0x000151455831 → exec (.importq cmd) s = .next (fin u 1 0)) ∧
            (bits (s.rdWord a1.toNat) 0 48 = 0x000151455831 → k.qcount < nq → exec (.importq cmd) s = .next (fin u 3 0)) ∧
            (bits (s.rdWord a1.toNat) 0 48 = 0x000151455831 → nq ≤ k.qcount → ∃ t, exec (.importq cmd) s = .next t ∧
              { t with fns := s.fns } = fin u 0 0 ∧ (t.fn f).devq.length = Nat.min 64 nd ∧
              (t.fn f).wdog = (s.rdWord (last + 8)).setWidth 32 ∧ (t.fn f).launchCount = (s.rdWord (last + 32)).setWidth 32))) ∧
        (n = 0x0E → let pages := (s.rdWords a2.toNat a3.toNat).map (·.toNat)
          (3 ≤ a1.toNat ∨ ¬ fits a2 (8 * a3.toNat) → exec (.shadowadd cmd) s = .next (fin u 1 0)) ∧
          (a1.toNat < 3 → distinctPages pages = false ∨ (∃ g, g ∈ pages ∧ (g % pageBytes a1.toNat ≠ 0 ∨ 3 * 2 ^ 38 < g + pageBytes a1.toNat ∨
              s.taken g (pageBytes a1.toNat) = true)) →
            exec (.shadowadd cmd) s = .next (fin u 1 0)) ∧
          (a1.toNat < 3 → fits a2 (8 * a3.toNat) → distinctPages pages = true →
            (∀ g, g ∈ pages → g % pageBytes a1.toNat = 0 ∧ g + pageBytes a1.toNat ≤ 3 * 2 ^ 38 ∧ s.taken g (pageBytes a1.toNat) = false) →
            ∃ t, exec (.shadowadd cmd) s = .next t ∧ t.mgmt = (fin u 0 0).mgmt ∧
              (t.fn f).shadow = k.shadow ++ pages.map (fun g => (a1.toNat, g)) ∧
              ∀ g b, g ∈ pages → b < pageBytes a1.toNat → t.rd (g + b) = 0)) ∧
        (n = 0x0F → (3 ≤ a1.toNat ∨ ¬ fits a2 (8 * a3.toNat) → exec (.shadowtake cmd) s = .next (fin u 1 0)) ∧ (a1.toNat < 3 → fits a2 (8 * a3.toNat) →
          let gone := (k.shadow.filter fun e => e.1 == a1.toNat).take a3.toNat
          ∃ t, exec (.shadowtake cmd) s = .next t ∧ t.mgmt = (fin u 0 gone.length).mgmt ∧
            (t.fn f).shadow = k.shadow.filter (fun e => !gone.contains e) ∧
            ∀ j, j < 8 * gone.length → t.rd (a2.toNat + j) = (wordBytes (gone.map fun e => word e.2)).getD j 0)) ∧
        (n = 0x10 → (a2 ≠ 0 → a1.toNat % 4096 ≠ 0 ∨ ¬ fits a1 a2.toNat → exec (.ringpool cmd) s = .next (fin u 1 0)) ∧
          (a2 ≠ 0 → a1.toNat % 4096 = 0 → fits a1 a2.toNat → exec (.ringpool cmd) s = .next (fin (u.modFn f fun k => { k with
            pool := poolNorm (k.pool ++ [(a1.toNat, a2.toNat)])
            poolAll := k.poolAll ++ [(a1.toNat, a2.toNat)] }) 0 0)) ∧
          (a2 = 0 → let gone := k.poolAll.filter fun r => (poolNorm k.pool).any fun q => decide (q.1 ≤ r.1) && decide (r.1 + r.2 ≤ q.1 + q.2)
            ∃ t, exec (.ringpool cmd) s = .next t ∧ t.mgmt = (fin u 0 ((gone.map (·.2)).sum / 4096)).mgmt ∧
              (t.fn f).poolAll = k.poolAll.filter fun r => !gone.contains r)))) ∧
    (∀ k,
      let p := s.parts.getD k {}
      (∀ a, p.st = .granted → p.freezing = some a →
        (s.settled k p = false → exec (.freezeComplete k) s = .next s) ∧
        (s.settled k p = true →
          let v := s.modPart k fun p => { p with st := .frozen, freezing := none }
          let thawed := fun (t : State) => t.parts.getD k {} = { p with st := .granted, freezing := none, halted := false, hung := [] } ∧ t.insts = s.insts
          let done := if s.mgmt.clash then 2 else 0
          (p.hung = [] →
            (s.mgmt.waits = none → ∃ t, exec (.freezeComplete k) s = .next t ∧ thawed t ∧ t.mgmt = s.mgmt ∧ t.cells = s.cells) ∧
            (∀ c, (c = 0x03 ∨ c = 0x0D) → s.mgmt.waits = some (c, k) → ∃ t, exec (.freezeComplete k) s = .next t ∧
              t.mgmt = (fin v done 0).mgmt ∧ t.parts.getD k {} = { p with st := .frozen, freezing := none, hung := [] } ∧
              t.insts = s.insts ∧ t.cells = s.cells ∧ t.mem = s.mem) ∧
            (s.mgmt.waits = some (0x02, k) → s.mgmt.busy = true → s.arg 1 = 1 →
              (8 * (v.saveWords k).length ≤ (s.arg 3).toNat → ∃ t, exec (.freezeComplete k) s = .next t ∧ t.mgmt = s.mgmt ∧
                (∀ j, j ∈ t.insts → j.part ≠ k) ∧ t.saves.length = s.saves.length + 1 ∧ (t.parts.getD k {}).st = .scrubbing ∧
                (t.parts.getD k {}).scrub = some (.takeback true)) ∧
              ((s.arg 3).toNat < 8 * (v.saveWords k).length → ∃ t, exec (.freezeComplete k) s = .next t ∧ thawed t ∧
                t.mgmt = (fin v (if s.mgmt.clash then 2 else 3) 0).mgmt))) ∧
          (∀ f id st i, p.hung = [(f, id, st)] → s.inst? f id = some i → i.part = k → s.mgmt.waits = none →
            ∃ t, exec (.freezeComplete k) s = .next t ∧ t.inst? f id = none ∧ (t.parts.getD k {}).st = .granted ∧
              (t.parts.getD k {}).hung = [] ∧
              ∀ c, c ∈ i.place → (t.cx c i.ctx).inst = none ∧ ((s.cell c).lane.busy = true → (s.cell c).lane.fir.ctx = i.ctx →
                (t.cell c).lane.busy = true ∧ (t.cell c).lane.fir.dead = true))) ∧
        (let now := s.partAc p
         let hangs' := fun (t : State) => ∀ c, c ∈ s.busyLanes p → ∀ i, s.instAt c (s.cell c).lane.fir.ctx = some i → t.hangs i = true
         (hangs' s ∨ now < a + 2 ^ 20 → exec (.freezeTimeout k) s = .next s) ∧
         (a + 2 ^ 20 ≤ now → ∃ t, exec (.freezeTimeout k) s = .next t ∧
           (t.parts.getD k {}).freezing = some a ∧ t.insts = s.insts ∧ t.cells = s.cells ∧ hangs' t))) ∧
      (∀ why, p.scrub = some why → s.departing p = true → exec (.scrubDone k) s = .next s) ∧
      (∀ why, p.scrub = some why → s.departing p = false → ∃ t r, exec (.scrubDone k) s = .next t ∧ t.sarSeq = s.sarSeq + 1 ∧
        (∀ c, c ∈ (baysOf p.bays).flatMap bayCells → t.cell c = {}) ∧ (∀ e, e ∈ t.tlb → e.fn ≠ p.vf) ∧ t.mem = s.mem ∧
        (∀ e, e ∈ t.cupboards → ∀ m, m ∈ e.2 → m.tenant ≠ p.outTenant) ∧
        (∀ st e, st < 16 → e ∈ (t.stack st).subs → s.departed p e.2 = false) ∧
        (t.parts.getD k {}).scrub = none ∧ (t.parts.getD k {}).sar = some r ∧ (t.parts.getD k {}).sars = r :: p.sars ∧
        r.signed = false ∧ r.words.length = 16 ∧ r.words.getD 9 0 = word p.pages ∧
        ((∀ e, e ∈ s.parts → e.1 ≠ k → e.2.vf = p.vf → e.2.st = .free) → p.vf ≠ 0 → (∃ b, why = .takeback b) ∨ why = .flr →
          ∀ e, e ∈ t.keys → e.2.owned = true → e.2.owner ≠ p.vf) ∧
        r.words.getD 5 0 = s.sarSeq + 1 ∧ r.words.getD 8 0 = 2 ^ 19 - 1 ∧
        (match why with
          | .grant => (t.parts.getD k {}).st = .granted ∧ t.mgmt.busy = false
          | .launch f id => (t.parts.getD k {}).st = .granted ∧ ∀ i, s.inst? f id = some i → t.inst? f id = some { i with scrubbed := true }
          | .takeback _ => (t.parts.getD k {}).st = .free ∧ (t.parts.getD k {}).tenant = 0xFFFF ∧ t.mgmt.busy = false
          | .flr => (t.parts.getD k {}).st = .free ∧ (t.parts.getD k {}).tenant = 0xFFFF ∧
            ((∀ e, e ∈ t.parts → e.2.vf = p.vf → e.2.st = .free) → (t.fn p.vf).resetting = false))) ∧
      (∀ r, p.sar = some r → exec (.sarSign k) s = .next (s.modPart k fun p => { p with sar := some { r with signed := true } }))) ∧
    (s.mgmt.busy = true → let done := fun (t : State) (c r : Nat) => fin t (if s.mgmt.clash then 2 else c) r
      (∀ j, s.keyInUse j = true → s.mgmt.waits = some (0x07, j) ∨ s.mgmt.waits = some (0x08, j) → s.settleMgmt = s) ∧
      (∀ j, s.keyInUse j = false →
        (s.mgmt.waits = some (0x07, j) → s.settleMgmt = done (s.setKey j (s.arg 1).toNat (s.arg 2).toNat) 0 0 ∧
          (s.setKey j (s.arg 1).toNat (s.arg 2).toNat).keys.get? j = some
            { owner := (s.arg 1).toNat, owned := true, key := BitVec.ofNat 512 (leNat (s.rdBytes (s.arg 2).toNat 64)) }) ∧
        (s.mgmt.waits = some (0x08, j) → s.settleMgmt = done { s with keys := s.keys.del j } 0 0)) ∧
      (∀ f, s.mgmt.waits = some (0x09, f) →
        (s.mgmt.removed = false → (∃ e, e ∈ s.mgmt.marks ∧ (s.stack e.1).doneSegs < e.2) → s.settleMgmt = s) ∧
        (s.mgmt.removed = false → (∀ e, e ∈ s.mgmt.marks → e.2 ≤ (s.stack e.1).doneSegs) →
          (∀ e, e ∈ s.settleMgmt.tlb → e.fn = f → e.gpa + e.bytes ≤ (s.arg 1).toNat ∨ (s.arg 1).toNat + 4096 * (s.arg 2).toNat ≤ e.gpa) ∧
          (∀ d, d ∈ s.settleMgmt.cells → ∀ e, e ∈ d.2.tlb → e.fn = f →
            e.gpa + e.bytes ≤ (s.arg 1).toNat ∨ (s.arg 1).toNat + 4096 * (s.arg 2).toNat ≤ e.gpa) ∧
          s.settleMgmt.mgmt.busy = !(s.midway f).isEmpty) ∧
        (s.mgmt.removed = true → s.settleMgmt = if s.mgmt.ops.any (s.midway f).contains then s else done s 0 0)) ∧
      (∀ f, s.mgmt.waits = some (0x0A, f) → let k := s.fn f
        s.settleMgmt = if s.allFrozen f && s.unapplied f then s else done (s.modFn f fun k => { k with
          dirtyBase := (s.arg 1).toNat
          dirtySize := if s.arg 2 = 0 then 0 else 2 ^ (s.arg 2).toNat
          dirtyN := 0
          dirtyOvf := false }) 0 (k.dirtyN % 2 ^ 31 + flagN k.dirtyOvf (2 ^ 31)))) ∧
    (∀ f, (s.fn f).resetting = true → exec (.flr f) s = .next s) ∧
    (∀ f, f ≠ 0 → f < 32 → (s.fn f).resetting = false → (∀ e, e ∈ s.fns → e.2.flrWaits = false) →
      (∃ e, e ∈ (s.fn f).queues ∧ e.2.going = true) →
      exec (.flr f) s = .next (s.modFn f fun k => { k with resetting := true, flrWaits := true })) ∧
    (∀ f, f ≠ 0 → f < 32 → (s.fn f).resetting = false → (∀ e, e ∈ s.fns → e.2.flrWaits = false) →
      (∀ e, e ∈ (s.fn f).queues → e.2.going = false) → ∃ t, exec (.flr f) s = .next t ∧ (∀ i, i ∈ t.insts → i.fn ≠ f) ∧ (∀ o, o ∈ t.away → o.1 ≠ f) ∧ (∀ e, e ∈ t.tlb → e.fn ≠ f) ∧
      (∀ e, e ∈ t.keys → e.2.owned = true → e.2.owner ≠ f) ∧ (∀ m, m ∈ t.leaving → m.fn ≠ f) ∧
      (∀ st e, st < 16 → e ∈ (t.stack st).subs → e.2.fn ≠ f) ∧ (t.fn f).queues = [] ∧ (t.fn f).launchCount = 0 ∧ (t.fn f).ttbase = 0 ∧
      (t.fn f).ntroot = (s.fn f).ntroot ∧ (t.fn f).parts = (s.fn f).parts ∧ (t.fn f).die4 = (s.fn f).die4 ∧ (t.fn f).flrWaits = false ∧
      ((t.fn f).resetting = true ↔ ∃ e, e ∈ t.parts ∧ e.2.vf = f ∧ e.2.st ≠ .free) ∧
      (∀ e, e ∈ t.cells → ∀ x, x ∈ e.2.tlb → x.fn ≠ f) ∧
      ((∀ i, i ∈ s.insts → i.fn ≠ f) → (∀ m, m ∈ s.leaving → m.fn ≠ f) →
        ∀ m, m ∈ s.mappedBy (s.fn f).ntroot → ∀ b, b < m.2 → t.rd (m.1 + b) = 0) ∧
      ∀ e, e ∈ s.parts → e.2.vf = f → e.2.st ≠ .free → (t.parts.getD e.1 {}).st = .scrubbing ∧ (t.parts.getD e.1 {}).scrub = some .flr)

/-- Power, throttling, failing links, commit delay, strikes, global time and checkpoints (R18, R19, R331, R344, R348, R349, R350, R351, R356, R357, R360, R362). -/
def Obligations.PowerLinksAndTime : Prop :=
  ∀ (s : State),
    let dark := fun (t : State) (on : Bool) => t.power = on ∧ t.sarSeq = s.sarSeq ∧ t.links.bad = s.links.bad ∧
      { t with power := true, agenda := [], serial := State.reset.serial, free := 0, pcie := [], septord := [], sarSeq := 0, links := {}, untrained := [] } = State.reset
    (∃ t, exec .powerLoss s = .next t ∧ dark t false ∧ t.untrained = s.untrained) ∧ (∃ t, exec .thermalCutoff s = .next t ∧ dark t false) ∧
    (s.power = true → exec .powerUp s = .next s) ∧
    (s.power = false → ∃ t, exec .powerUp s = .next t ∧ (s.untrained = [] → dark t true) ∧ t.power = true ∧ t.untrained = [] ∧
      (s.links.bad = [] → s.untrained = [] → t.links = {}) ∧
      (∀ d, d ∈ s.untrained → s.links.bad.length + s.untrained.length ≤ 256 → t.links.listed 7 (d * 256) = true ∧ d * 256 / 256 ∈ t.links.cut) ∧
      t.links.hosts = (!s.untrained.contains 0, !s.untrained.contains 0 && !s.untrained.contains 4) ∧
      ∀ e, e ∈ s.links.bad → e.kind = 4 → t.ringAt (ringLinkOf (e.loc / 256) e.dir) = .lost) ∧
    (∀ die e, die < 8 → e < 8 → ∃ t, exec (.throttle die e) s = .next t ∧ t.clock.throttle.toList.getD die 0 = e ∧
      { t with clock := { t.clock with throttle := s.clock.throttle } } = s ∧
      ∀ d, d ≠ die → t.clock.throttle.toList.getD d 0 = s.clock.throttle.toList.getD d 0) ∧
    (∀ c port, c < 2048 → port < 8 →
      let at' := if port = 5 ∨ port = 6 then c / 256 * 256 else c
      let first := s.net.zipIdx.find? fun e => e.1.hurt.isSome && (s.nextHop e.1).any fun h => h.place == (at', port)
      (first = none → exec (.hopRetry c port) s = .next s) ∧ ∀ q n flit, first = some (q, n) → q.hurt = some flit →
      let fails := if q.tried.1 = flit then q.tried.2 + 1 else 1
      let asked := fun (m : Nat) => s.net.take n ++ [{ q with hurt := none, tried := (flit, m) }] ++ s.net.drop (n + 1)
      (fails < 3 → exec (.hopRetry c port) s = .next
        { (s.modCell c fun k => { k with perf := k.perf.put 0x1B (k.perf.getD 0x1B 0 + 1) }) with net := asked fails }) ∧
      (3 ≤ fails → let v := { s with net := asked 0 }
        (port < 4 → isLink c port = true → exec (.hopRetry c port) s = exec (.hopFailed c port) v) ∧
        (port = 5 → exec (.hopRetry c port) s = exec (.ringLinkLost (c / 256)) v) ∧
        (port = 6 → exec (.hopRetry c port) s = exec (.ringLinkLost ((c / 256 + 7) % 8)) v) ∧
        (port = 7 → ∀ q, attachPort c = some q → exec (.hopRetry c port) s = exec (.hopFailed c q) v))) ∧
    (∀ c port, c < 2048 → port ≠ 4 → isLink c port = false → exec (.hopFailed c port) s = .next s) ∧
    (∀ c port, c < 2048 → port = 4 ∨ isLink c port = true →
      ∃ t, exec (.hopFailed c port) s = .next t ∧ t.free = s.free + 1 ∧ (s.links.bad.length < 256 → ∃ e, t.links.bad = s.links.bad ++ [e] ∧
        e.kind = (if port = 4 then 1 else 2) ∧ e.loc = c ∧ e.dir = port)) ∧
    (∀ die,  die < 8 →
      (∃ t, exec (.ringLinkLost die) s = .next t ∧ t.ringAt die = .lost ∧
        (s.ringAt die ≠ .lost → s.ringAt (die + 7) = .lost → die ∈ t.links.cut) ∧
        (s.ringAt die ≠ .lost → s.ringAt (die + 1) = .lost → (die + 1) % 8 ∈ t.links.cut) ∧
        (s.ringAt die ≠ .lost → ∀ q, q ∈ t.net → ∀ hs, q.hops = some hs →
          ∀ d cw, Hop.ring d cw ∈ hs → t.ringAt (ringLink d cw) ≠ .lost)) ∧
      (s.ringAt die = .retraining → exec (.ringRetrainDone die) s = .next (s.setRing die .half) ∧ (s.setRing die .half).ringAt die = .half) ∧
      (s.ringAt die ≠ .retraining → exec (.ringRetrainDone die) s = .next s) ∧
      (∀ dir lane, dir < 2 → lane < 512 →
        let l := ringLinkOf die dir
        let old := s.links.lanes.getD l []
        ∃ t, exec (.ringLaneLost die dir lane) s = .next t ∧ t.links.lanes.getD l [] = lane :: old ∧
          (s.links.bad.length < 256 → ∃ e, e ∈ t.links.bad ∧ e.kind = 3 ∧ e.loc = die * 256 ∧ e.dir = dir ∧ e.lane = lane / 16) ∧
          (old = [] → s.ringAt l = .full → t.ringAt l = .retraining) ∧
          ((lane < 256 → ∃ m, m ∈ old ∧ 256 ≤ m) → (256 ≤ lane → ∃ m, m ∈ old ∧ m < 256) → t.ringAt l = .lost)) ∧
      (∀ zone c r i, zone < 64 → c ∈ zoneCells die zone → r ∈ s.keepInputs c → r.bad = true → r.region = 0 → s.instAt c r.ctx = some i →
        (∀ j, j ∈ s.insts → c ∈ j.place → j.ctx = r.ctx → (j.fn, j.id) = (i.fn, i.id)) →
        ∃ t, exec (.strikeRollback die zone) s = .next t ∧ t.inst? i.fn i.id = none) ∧
      (∀ zone, zone < 64 → (∀ c, c ∈ zoneCells die zone → ∀ r, r ∈ s.keepInputs c → r.bad = false) →
        ∃ t, exec (.strikeRollback die zone) s = .next t ∧ (s.errRing.base = 0 → t.mem = s.mem) ∧ t.insts = s.insts ∧ t.ops = s.ops ∧
        (t.net = s.net.map fun (p : Packet) => if p.src ≠ Config.frontEnd ∧ onMesh p.src ∈ zoneCells die zone ∧ p.committed = false then
          { p with born := s.ac (onMesh p.src) } else p) ∧
        ∀ c, c ∈ zoneCells die zone → t.cell c = { s.cell c with perf := (s.cell c).perf.put 0x18 ((s.cell c).perf.getD 0x18 0 + 1) })) ∧
    (∀ port, port < 16 →
      (s.portAt port = .lost → exec (.septordResend port) s = .next s ∧ exec (.septordPortLost port) s = .next s) ∧
      ((s.layer port).window = [] ∨ s.clock.nc < (s.layer port).since + 2 ^ 16 → exec (.septordPortLost port) s = .next s) ∧
      (s.portAt port ≠ .lost →
        (let w := (s.layer port).window
         ∃ n, (w ≠ [] → n < w.length) ∧ exec (.septordResend port) s = .next { s with
           links := { s.links with resends := s.links.resends.put port (s.links.resends.getD port 0 + 1) }
           septord := s.septord ++ (w.drop n).map (SepOut.packet port)
           free := s.free + 1 }) ∧
        ((s.layer port).window ≠ [] → (s.layer port).since + 2 ^ 16 ≤ s.clock.nc →
          ∃ t, exec (.septordPortLost port) s = .next t ∧ t.portAt port = .lost ∧
          (s.links.bad.length < 256 → ∃ e, t.links.bad = s.links.bad ++ [e] ∧ e.kind = 6 ∧ e.loc = port)) ∧
        ∀ lane, lane < 8 → ∃ t, exec (.septordLaneLost port lane) s = .next t ∧ t.portAt port = .half ∧
          (s.links.bad.length < 256 → ∃ e, t.links.bad = s.links.bad ++ [e] ∧ e.kind = 5 ∧ e.loc = port ∧ e.lane = lane))) ∧
    (∀ c, ∃ t, exec (.resultCommit c) s = .next t ∧
      (t.net = s.net.map fun (p : Packet) =>
        if p.src ≠ Config.frontEnd ∧ onMesh p.src = c ∧ p.born + 160 ≤ s.ac c then { p with committed := true } else p) ∧
      t.ops = s.ops ∧ t.mem = s.mem ∧ t.insts = s.insts ∧ ((s.cell c).retained = [] → t.cells = s.cells)) ∧
    (∀ ref : Word,
      let off : Int := ref.toNat - (s.now 0).toNat
      let k := { s.clock with gtoff := BitVec.ofInt 32 off }
      (s.clock.stepped = true → exec (.timeLock ref) s = .next { s with clock := { k with gtst := .locked, slew := off } }) ∧
      (s.clock.stepped = false → s.now 0 < ref → exec (.timeLock ref) s = .next
        { s with clock := { k with gtst := .locked, stepped := true, slew := 0, gt := Vector.replicate 8 ref } }) ∧
      (s.clock.stepped = false → ref ≤ s.now 0 → exec (.timeLock ref) s = .next { s with clock := { k with gtst := .locking } }) ∧
      (s.clock.gtst = .locked ∨ (∀ p, p < 16 → s.portAt p = .lost) → s.followLinked ref = s) ∧
      (s.clock.gtst ≠ .locked → (∃ p, p < 16 ∧ s.portAt p ≠ .lost) →
        (s.clock.stepped = true → s.followLinked ref = { s with clock := { s.clock with slew := off } }) ∧
        (s.clock.stepped = false → s.now 0 < ref → s.followLinked ref =
          { s with clock := { s.clock with stepped := true, slew := 0, gt := Vector.replicate 8 ref } })) ∧
      exec .timeLockLost s = .next { s with clock := { s.clock with slew := 0, gtst := if s.clock.stepped then .holdover else .free } }) ∧
    (∀ v : Word, v.getLsbD 0 = true → s.ckpt.st ≠ 1 → exec (.ckptStart v) s = .next { s with ckpt :=
      { todo := s.ckptPages (bits v 48 8), ctl := v &&& 0x00FFFFFFFFFF0001, st := 1, pages := 0, cut := s.now 0, rseqs := s.cutRecord } }) ∧
    (∀ ok, s.ckpt.st = 1 →
      ((∃ p, p < 16 ∧ s.ckpt.ctl.getLsbD (16 + p) = true ∧ s.portAt p ≠ .lost) →
        (ok = true → s.ckpt.todo = [] → ∃ p, p < 16 ∧ s.ckpt.ctl.getLsbD (16 + p) = true ∧ s.portAt p ≠ .lost ∧ exec (.ckptEnd ok) s = .next { s with
          ckpt := { s.ckpt with st := 2, ctl := s.ckpt.ctl &&& ~~~1 }
          septord := s.septord ++ [.cut p s.ckpt.rseqs] }) ∧
        (ok = false ∨ s.ckpt.todo ≠ [] → exec (.ckptEnd ok) s = .next s) ∧
        ∀ p ps, s.ckpt.todo = p :: ps → p ∉ s.ckptPage.ckpt.todo ∧
          s.ckptPage.ckpt.pages = s.ckpt.pages + BitVec.ofNat 56 ((p :: ps).filter fun q => q == p).length ∧
          (p ∉ ps → (∀ g, g ∈ s.unchecked → g / 1024 ≠ p) → ∃ n, n < 16 ∧ s.ckpt.ctl.getLsbD (16 + n) = true ∧ s.portAt n ≠ .lost ∧
            s.ckptPage.septord = s.septord ++ [.page n p (s.mem.filter fun c => c.1 / 2 ^ 16 == p)])) ∧
      ((∀ p, p < 16 → s.ckpt.ctl.getLsbD (16 + p) = true → s.portAt p = .lost) →
        exec (.ckptEnd ok) s = .next { s with ckpt := { s.ckpt with st := 3, todo := [], ctl := s.ckpt.ctl &&& ~~~1 } }))
end

