-- ==== Sys2Proof/Laws/Tables.lean ====
section
/-! SUPPORT. Laws of the keyed tables and of memory: read after write, and that every operation of memory
keeps its canonical form. -/

namespace Sys2Proof

variable {α : Type}

/-! ## Tables -/

@[simp] theorem Tbl.get?_nil (n : Nat) : Tbl.get? ([] : Tbl α) n = none := rfl

@[simp] theorem Tbl.get?_put_same (t : Tbl α) (n : Nat) (v : α) : (t.put n v).get? n = some v := by
  induction t with
  | nil => simp [Tbl.put, Tbl.get?]
  | cons e t ih =>
    obtain ⟨k, w⟩ := e
    simp only [Tbl.put]
    split
    · simp [Tbl.get?]
    · split
      · simp [Tbl.get?]
      · rename_i h; simp [Tbl.get?, h, ih]

@[simp] theorem Tbl.get?_put_other (t : Tbl α) (n m : Nat) (v : α) (h : m ≠ n) : (t.put n v).get? m = t.get? m := by
  induction t with
  | nil => simp [Tbl.put, Tbl.get?, h]
  | cons e t ih =>
    obtain ⟨k, w⟩ := e
    simp only [Tbl.put]
    split
    · simp [Tbl.get?, h]
    · split
      · rename_i h2; simp [Tbl.get?, h, ← h2]
      · simp [Tbl.get?, ih]

@[simp] theorem Tbl.getD_put_same (t : Tbl α) (n : Nat) (v d : α) : (t.put n v).getD n d = v := by simp [Tbl.getD]

@[simp] theorem Tbl.getD_put_other (t : Tbl α) (n m : Nat) (v d : α) (h : m ≠ n) : (t.put n v).getD m d = t.getD m d := by
  simp [Tbl.getD, h]

/-- Every key of a table that is strictly rising above `lo` lies above `lo`. -/
theorem Tbl.get?_of_sortedFrom (t : Tbl α) (lo n : Nat) (h : Tbl.sortedFrom (some lo) t = true) (hn : n ≤ lo) : t.get? n = none := by
  induction t generalizing lo with
  | nil => rfl
  | cons e t ih =>
    obtain ⟨k, w⟩ := e
    simp [Tbl.sortedFrom] at h
    have : n ≠ k := by omega
    simp [Tbl.get?, this]
    exact ih k h.2 (by omega)

theorem Tbl.sortedFrom_mono (t : Tbl α) (a b : Nat) (h : a ≤ b) (ht : Tbl.sortedFrom (some b) t = true) :
    Tbl.sortedFrom (some a) t = true := by
  cases t with
  | nil => rfl
  | cons e t => obtain ⟨k, w⟩ := e; simp [Tbl.sortedFrom] at ht ⊢; exact ⟨by omega, ht.2⟩

theorem Tbl.sortedFrom_none (t : Tbl α) (a : Nat) (ht : Tbl.sortedFrom (some a) t = true) : Tbl.sortedFrom none t = true := by
  cases t with
  | nil => rfl
  | cons e t => obtain ⟨k, w⟩ := e; simp [Tbl.sortedFrom] at ht ⊢; exact ht.2

theorem Tbl.sortedFrom_put (t : Tbl α) (lo : Option Nat) (n : Nat) (v : α) (ht : Tbl.sortedFrom lo t = true)
    (hn : ∀ l, lo = some l → l < n) : Tbl.sortedFrom lo (t.put n v) = true := by
  induction t generalizing lo with
  | nil => cases lo <;> simp_all [Tbl.put, Tbl.sortedFrom]
  | cons e t ih =>
    obtain ⟨k, w⟩ := e
    have h2 : Tbl.sortedFrom (some k) t = true := by cases lo <;> simp_all [Tbl.sortedFrom]
    simp only [Tbl.put]
    split
    · cases lo <;> simp_all [Tbl.sortedFrom]
    · split
      · rename_i h3; subst h3; cases lo <;> simp_all [Tbl.sortedFrom]
      · have := ih (some k) h2 (by intro l hl; cases hl; omega)
        cases lo <;> simp_all [Tbl.sortedFrom]

theorem Tbl.del_eq_filter (t : Tbl α) (n : Nat) : t.del n = t.filter fun e => e.1 != n := by
  induction t with
  | nil => rfl
  | cons e t ih =>
    obtain ⟨k, w⟩ := e
    by_cases h : n = k
    · subst h; simpa [Tbl.del] using ih
    · simp [Tbl.del, h, ih, Ne.symm h]

theorem Tbl.sortedFrom_filter (t : Tbl α) (lo : Option Nat) (p : Nat × α → Bool) (ht : Tbl.sortedFrom lo t = true) :
    Tbl.sortedFrom lo (t.filter p) = true := by
  induction t generalizing lo with
  | nil => exact ht
  | cons e t ih =>
    obtain ⟨k, w⟩ := e
    have h2 : Tbl.sortedFrom (some k) t = true := by cases lo <;> simp_all [Tbl.sortedFrom]
    have h3 := ih (some k) h2
    by_cases hp : p (k, w) = true
    · rw [List.filter_cons_of_pos hp]; cases lo <;> simp_all [Tbl.sortedFrom]
    · rw [List.filter_cons_of_neg hp]
      cases lo with
      | none => exact Tbl.sortedFrom_none _ k h3
      | some l => simp [Tbl.sortedFrom] at ht; exact Tbl.sortedFrom_mono _ l k (by omega) h3

theorem Tbl.mem_put (t : Tbl α) (n : Nat) (v : α) (e : Nat × α) (h : e ∈ t.put n v) : e ∈ t ∨ e = (n, v) := by
  induction t with
  | nil => simp [Tbl.put] at h; exact .inr h
  | cons q t ih =>
    obtain ⟨k, w⟩ := q
    simp only [Tbl.put] at h
    split at h
    · simp at h ⊢; tauto
    · split at h
      · simp at h ⊢; tauto
      · simp only [List.mem_cons] at h ⊢
        rcases h with h | h
        · exact .inl (.inl h)
        · rcases ih h with h | h
          · exact .inl (.inr h)
          · exact .inr h

theorem Tbl.sortedFrom_del (t : Tbl α) (lo : Option Nat) (n : Nat) (ht : Tbl.sortedFrom lo t = true) :
    Tbl.sortedFrom lo (t.del n) = true := by
  rw [Tbl.del_eq_filter]; exact Tbl.sortedFrom_filter t lo _ ht

theorem Tbl.mem_del (t : Tbl α) (n : Nat) (e : Nat × α) (h : e ∈ t.del n) : e ∈ t := by
  rw [Tbl.del_eq_filter] at h; exact (List.mem_filter.mp h).1

@[simp] theorem Tbl.get?_del_same (t : Tbl α) (n : Nat) : (t.del n).get? n = none := by
  induction t with
  | nil => rfl
  | cons e t ih =>
    obtain ⟨k, w⟩ := e
    by_cases h : n = k
    · subst h; simpa [Tbl.del] using ih
    · simpa [Tbl.del, Tbl.get?, h] using ih

@[simp] theorem Tbl.get?_del_other (t : Tbl α) (n m : Nat) (h : m ≠ n) : (t.del n).get? m = t.get? m := by
  induction t with
  | nil => rfl
  | cons e t ih =>
    obtain ⟨k, w⟩ := e
    by_cases h2 : n = k
    · subst h2; simpa [Tbl.del, Tbl.get?, h] using ih
    · simp [Tbl.del, Tbl.get?, h2, ih]

/-- An entry reads as it was set, whatever the table. -/
@[simp] theorem Tbl.getD_set_same [DecidableEq α] (t : Tbl α) (d : α) (n : Nat) (v : α) : (t.set d n v).getD n d = v := by
  unfold Tbl.set Tbl.getD
  split
  · rename_i h; simp [h]
  · simp

/-- Setting an entry leaves the others. -/
@[simp] theorem Tbl.getD_set_other [DecidableEq α] (t : Tbl α) (d : α) (n m : Nat) (v : α) (h : m ≠ n) :
    (t.set d n v).getD m d = t.getD m d := by
  unfold Tbl.set Tbl.getD
  split <;> simp [h]

namespace Machine

/-! ## Memory -/

theorem Memory.wf_iff (m : Memory) : Memory.wf m = true ↔ Tbl.sortedFrom none m = true ∧ ∀ e ∈ m, e.2 ≠ 0 := by
  simp [Memory.wf, Tbl.sorted]

/-- A byte written keeps the canonical form. -/
theorem Memory.wf_write (m : Memory) (a : Nat) (b : Byte) (h : Memory.wf m = true) : Memory.wf (m.write a b) = true := by
  rw [Memory.wf_iff] at h ⊢
  unfold Memory.write Tbl.set
  split
  · exact ⟨Tbl.sortedFrom_del m none a h.1, fun e he => h.2 e (Tbl.mem_del m a e he)⟩
  · rename_i hb
    refine ⟨Tbl.sortedFrom_put m none a b h.1 (by simp), fun e he => ?_⟩
    rcases Tbl.mem_put m a b e he with h1 | h1
    · exact h.2 e h1
    · subst h1; exact hb

/-- A run of bytes written keeps the canonical form. -/
theorem Memory.wf_writeBytes (m : Memory) (a : Nat) (bs : List Byte) (h : Memory.wf m = true) :
    Memory.wf (Memory.writeBytes m a bs) = true := by
  induction bs generalizing m a with
  | nil => exact h
  | cons b bs ih => exact ih _ _ (Memory.wf_write m a b h)

/-- Bytes taken away keep the canonical form. -/
theorem Memory.wf_filter (m : Memory) (p : Nat × Byte → Bool) (h : Memory.wf m = true) : Memory.wf (m.filter p) = true := by
  rw [Memory.wf_iff] at h ⊢
  exact ⟨Tbl.sortedFrom_filter m none p h.1, fun e he => h.2 e (List.mem_filter.mp he).1⟩

/-- A byte reads as it was written. -/
theorem Memory.read_write_same (m : Memory) (a : Nat) (b : Byte) : (m.write a b).read a = b :=
  Tbl.getD_set_same m 0 a b

/-- A byte written leaves every other byte. -/
theorem Memory.read_write_other (m : Memory) (a c : Nat) (b : Byte) (h : c ≠ a) : (m.write a b).read c = m.read c := by
  unfold Memory.write Memory.read Tbl.set Tbl.getD
  split <;> simp [h]

/-- A run of bytes written leaves every byte outside it. -/
theorem Memory.read_writeBytes_outside (m : Memory) (a c : Nat) (bs : List Byte) (h : c < a ∨ a + bs.length ≤ c) :
    (Memory.writeBytes m a bs).read c = m.read c := by
  induction bs generalizing m a with
  | nil => rfl
  | cons b bs ih =>
    simp only [List.length_cons] at h
    rw [Memory.writeBytes, ih _ _ (by omega), Memory.read_write_other _ _ _ _ (by omega)]

theorem State.wrBytes_wf (s : State) (a : Nat) (bs : List Byte) (h : Memory.wf s.mem = true) : Memory.wf (s.wrBytes a bs).mem = true :=
  Memory.wf_writeBytes s.mem a bs h

theorem State.wrGran_wf (s : State) (k : Option (BitVec 512)) (g : Nat) (bs : List Byte) (h : Memory.wf s.mem = true) :
    Memory.wf (s.wrGran k g bs).mem = true := Memory.wf_writeBytes s.mem _ bs h

theorem State.mergeGran_wf (s : State) (k : Option (BitVec 512)) (g : Nat) (bs : List Byte) (m : Nat) (h : Memory.wf s.mem = true) :
    Memory.wf (s.mergeGran k g bs m).mem = true := by
  unfold State.mergeGran
  split
  · exact h
  · have w : ∀ bs, Memory.wf (Memory.writeBytes s.mem (g * 64) bs) = true := fun bs => Memory.wf_writeBytes _ _ _ h
    dsimp only
    split
    · exact w _
    · split <;> exact w _

theorem State.zeroRange_wf (s : State) (a n : Nat) (h : Memory.wf s.mem = true) : Memory.wf (s.zeroRange a n).mem = true :=
  Memory.wf_filter s.mem _ h

end Machine

end Sys2Proof
end

