-- ==== Sys2Proof/Laws/State.lean ====
section
/-! SUPPORT. What each update of the state leaves: one lemma for a field and an update, and what the parts that
are read after an update hold. -/

namespace Sys2Proof.Machine

@[simp] theorem State.modCell_agenda (s : State) (c : Nat) (f : Cell → Cell) : (s.modCell c f).agenda = s.agenda := rfl
@[simp] theorem State.modCell_cur (s : State) (c : Nat) (f : Cell → Cell) : (s.modCell c f).cur = s.cur := rfl
@[simp] theorem State.modCell_held (s : State) (c : Nat) (f : Cell → Cell) : (s.modCell c f).held = s.held := rfl
@[simp] theorem State.modCell_power (s : State) (c : Nat) (f : Cell → Cell) : (s.modCell c f).power = s.power := rfl
@[simp] theorem State.modCell_clock (s : State) (c : Nat) (f : Cell → Cell) : (s.modCell c f).clock = s.clock := rfl
@[simp] theorem State.modCell_net (s : State) (c : Nat) (f : Cell → Cell) : (s.modCell c f).net = s.net := rfl
@[simp] theorem State.modCell_ops (s : State) (c : Nat) (f : Cell → Cell) : (s.modCell c f).ops = s.ops := rfl
@[simp] theorem State.modCell_serial (s : State) (c : Nat) (f : Cell → Cell) : (s.modCell c f).serial = s.serial := rfl
@[simp] theorem State.modCell_failedAcqs (s : State) (c : Nat) (f : Cell → Cell) : (s.modCell c f).failedAcqs = s.failedAcqs := rfl
@[simp] theorem State.modCell_hbm (s : State) (c : Nat) (f : Cell → Cell) : (s.modCell c f).hbm = s.hbm := rfl
@[simp] theorem State.modCell_leaving (s : State) (c : Nat) (f : Cell → Cell) : (s.modCell c f).leaving = s.leaving := rfl
@[simp] theorem State.modCell_mem (s : State) (c : Nat) (f : Cell → Cell) : (s.modCell c f).mem = s.mem := rfl
@[simp] theorem State.modCell_gkeys (s : State) (c : Nat) (f : Cell → Cell) : (s.modCell c f).gkeys = s.gkeys := rfl
@[simp] theorem State.modCell_gpoison (s : State) (c : Nat) (f : Cell → Cell) : (s.modCell c f).gpoison = s.gpoison := rfl
@[simp] theorem State.modCell_gbad (s : State) (c : Nat) (f : Cell → Cell) : (s.modCell c f).gbad = s.gbad := rfl
@[simp] theorem State.modCell_unchecked (s : State) (c : Nat) (f : Cell → Cell) : (s.modCell c f).unchecked = s.unchecked := rfl
@[simp] theorem State.modCell_keys (s : State) (c : Nat) (f : Cell → Cell) : (s.modCell c f).keys = s.keys := rfl
@[simp] theorem State.modCell_tlb (s : State) (c : Nat) (f : Cell → Cell) : (s.modCell c f).tlb = s.tlb := rfl
@[simp] theorem State.modCell_cupboards (s : State) (c : Nat) (f : Cell → Cell) : (s.modCell c f).cupboards = s.cupboards := rfl
@[simp] theorem State.modCell_fns (s : State) (c : Nat) (f : Cell → Cell) : (s.modCell c f).fns = s.fns := rfl
@[simp] theorem State.modCell_insts (s : State) (c : Nat) (f : Cell → Cell) : (s.modCell c f).insts = s.insts := rfl
@[simp] theorem State.modCell_parts (s : State) (c : Nat) (f : Cell → Cell) : (s.modCell c f).parts = s.parts := rfl
@[simp] theorem State.modCell_mgmt (s : State) (c : Nat) (f : Cell → Cell) : (s.modCell c f).mgmt = s.mgmt := rfl
@[simp] theorem State.modCell_saves (s : State) (c : Nat) (f : Cell → Cell) : (s.modCell c f).saves = s.saves := rfl
@[simp] theorem State.modCell_away (s : State) (c : Nat) (f : Cell → Cell) : (s.modCell c f).away = s.away := rfl
@[simp] theorem State.modCell_links (s : State) (c : Nat) (f : Cell → Cell) : (s.modCell c f).links = s.links := rfl
@[simp] theorem State.modCell_errRing (s : State) (c : Nat) (f : Cell → Cell) : (s.modCell c f).errRing = s.errRing := rfl
@[simp] theorem State.modCell_ckpt (s : State) (c : Nat) (f : Cell → Cell) : (s.modCell c f).ckpt = s.ckpt := rfl
@[simp] theorem State.modCell_sarSeq (s : State) (c : Nat) (f : Cell → Cell) : (s.modCell c f).sarSeq = s.sarSeq := rfl
@[simp] theorem State.modCell_pcie (s : State) (c : Nat) (f : Cell → Cell) : (s.modCell c f).pcie = s.pcie := rfl
@[simp] theorem State.modCell_septord (s : State) (c : Nat) (f : Cell → Cell) : (s.modCell c f).septord = s.septord := rfl
@[simp] theorem State.modCell_hostq (s : State) (c : Nat) (f : Cell → Cell) : (s.modCell c f).hostq = s.hostq := rfl
@[simp] theorem State.modCell_gated (s : State) (c : Nat) (f : Cell → Cell) : (s.modCell c f).gated = s.gated := rfl
@[simp] theorem State.modCell_untrained (s : State) (c : Nat) (f : Cell → Cell) : (s.modCell c f).untrained = s.untrained := rfl
@[simp] theorem State.modCell_seen (s : State) (c : Nat) (f : Cell → Cell) : (s.modCell c f).seen = s.seen := rfl
@[simp] theorem State.modCell_free (s : State) (c : Nat) (f : Cell → Cell) : (s.modCell c f).free = s.free := rfl

@[simp] theorem State.modCx_agenda (s : State) (c x : Nat) (f : Ctx → Ctx) : (s.modCx c x f).agenda = s.agenda := rfl
@[simp] theorem State.modCx_cur (s : State) (c x : Nat) (f : Ctx → Ctx) : (s.modCx c x f).cur = s.cur := rfl
@[simp] theorem State.modCx_held (s : State) (c x : Nat) (f : Ctx → Ctx) : (s.modCx c x f).held = s.held := rfl
@[simp] theorem State.modCx_power (s : State) (c x : Nat) (f : Ctx → Ctx) : (s.modCx c x f).power = s.power := rfl
@[simp] theorem State.modCx_clock (s : State) (c x : Nat) (f : Ctx → Ctx) : (s.modCx c x f).clock = s.clock := rfl
@[simp] theorem State.modCx_net (s : State) (c x : Nat) (f : Ctx → Ctx) : (s.modCx c x f).net = s.net := rfl
@[simp] theorem State.modCx_ops (s : State) (c x : Nat) (f : Ctx → Ctx) : (s.modCx c x f).ops = s.ops := rfl
@[simp] theorem State.modCx_serial (s : State) (c x : Nat) (f : Ctx → Ctx) : (s.modCx c x f).serial = s.serial := rfl
@[simp] theorem State.modCx_failedAcqs (s : State) (c x : Nat) (f : Ctx → Ctx) : (s.modCx c x f).failedAcqs = s.failedAcqs := rfl
@[simp] theorem State.modCx_hbm (s : State) (c x : Nat) (f : Ctx → Ctx) : (s.modCx c x f).hbm = s.hbm := rfl
@[simp] theorem State.modCx_leaving (s : State) (c x : Nat) (f : Ctx → Ctx) : (s.modCx c x f).leaving = s.leaving := rfl
@[simp] theorem State.modCx_mem (s : State) (c x : Nat) (f : Ctx → Ctx) : (s.modCx c x f).mem = s.mem := rfl
@[simp] theorem State.modCx_gkeys (s : State) (c x : Nat) (f : Ctx → Ctx) : (s.modCx c x f).gkeys = s.gkeys := rfl
@[simp] theorem State.modCx_gpoison (s : State) (c x : Nat) (f : Ctx → Ctx) : (s.modCx c x f).gpoison = s.gpoison := rfl
@[simp] theorem State.modCx_gbad (s : State) (c x : Nat) (f : Ctx → Ctx) : (s.modCx c x f).gbad = s.gbad := rfl
@[simp] theorem State.modCx_unchecked (s : State) (c x : Nat) (f : Ctx → Ctx) : (s.modCx c x f).unchecked = s.unchecked := rfl
@[simp] theorem State.modCx_keys (s : State) (c x : Nat) (f : Ctx → Ctx) : (s.modCx c x f).keys = s.keys := rfl
@[simp] theorem State.modCx_tlb (s : State) (c x : Nat) (f : Ctx → Ctx) : (s.modCx c x f).tlb = s.tlb := rfl
@[simp] theorem State.modCx_cupboards (s : State) (c x : Nat) (f : Ctx → Ctx) : (s.modCx c x f).cupboards = s.cupboards := rfl
@[simp] theorem State.modCx_fns (s : State) (c x : Nat) (f : Ctx → Ctx) : (s.modCx c x f).fns = s.fns := rfl
@[simp] theorem State.modCx_insts (s : State) (c x : Nat) (f : Ctx → Ctx) : (s.modCx c x f).insts = s.insts := rfl
@[simp] theorem State.modCx_parts (s : State) (c x : Nat) (f : Ctx → Ctx) : (s.modCx c x f).parts = s.parts := rfl
@[simp] theorem State.modCx_mgmt (s : State) (c x : Nat) (f : Ctx → Ctx) : (s.modCx c x f).mgmt = s.mgmt := rfl
@[simp] theorem State.modCx_saves (s : State) (c x : Nat) (f : Ctx → Ctx) : (s.modCx c x f).saves = s.saves := rfl
@[simp] theorem State.modCx_away (s : State) (c x : Nat) (f : Ctx → Ctx) : (s.modCx c x f).away = s.away := rfl
@[simp] theorem State.modCx_links (s : State) (c x : Nat) (f : Ctx → Ctx) : (s.modCx c x f).links = s.links := rfl
@[simp] theorem State.modCx_errRing (s : State) (c x : Nat) (f : Ctx → Ctx) : (s.modCx c x f).errRing = s.errRing := rfl
@[simp] theorem State.modCx_ckpt (s : State) (c x : Nat) (f : Ctx → Ctx) : (s.modCx c x f).ckpt = s.ckpt := rfl
@[simp] theorem State.modCx_sarSeq (s : State) (c x : Nat) (f : Ctx → Ctx) : (s.modCx c x f).sarSeq = s.sarSeq := rfl
@[simp] theorem State.modCx_pcie (s : State) (c x : Nat) (f : Ctx → Ctx) : (s.modCx c x f).pcie = s.pcie := rfl
@[simp] theorem State.modCx_septord (s : State) (c x : Nat) (f : Ctx → Ctx) : (s.modCx c x f).septord = s.septord := rfl
@[simp] theorem State.modCx_hostq (s : State) (c x : Nat) (f : Ctx → Ctx) : (s.modCx c x f).hostq = s.hostq := rfl
@[simp] theorem State.modCx_gated (s : State) (c x : Nat) (f : Ctx → Ctx) : (s.modCx c x f).gated = s.gated := rfl
@[simp] theorem State.modCx_untrained (s : State) (c x : Nat) (f : Ctx → Ctx) : (s.modCx c x f).untrained = s.untrained := rfl
@[simp] theorem State.modCx_seen (s : State) (c x : Nat) (f : Ctx → Ctx) : (s.modCx c x f).seen = s.seen := rfl
@[simp] theorem State.modCx_free (s : State) (c x : Nat) (f : Ctx → Ctx) : (s.modCx c x f).free = s.free := rfl

@[simp] theorem State.modLane_agenda (s : State) (f : Lane → Lane) : (s.modLane f).agenda = s.agenda := rfl
@[simp] theorem State.modLane_cur (s : State) (f : Lane → Lane) : (s.modLane f).cur = s.cur := rfl
@[simp] theorem State.modLane_held (s : State) (f : Lane → Lane) : (s.modLane f).held = s.held := rfl
@[simp] theorem State.modLane_power (s : State) (f : Lane → Lane) : (s.modLane f).power = s.power := rfl
@[simp] theorem State.modLane_clock (s : State) (f : Lane → Lane) : (s.modLane f).clock = s.clock := rfl
@[simp] theorem State.modLane_net (s : State) (f : Lane → Lane) : (s.modLane f).net = s.net := rfl
@[simp] theorem State.modLane_ops (s : State) (f : Lane → Lane) : (s.modLane f).ops = s.ops := rfl
@[simp] theorem State.modLane_serial (s : State) (f : Lane → Lane) : (s.modLane f).serial = s.serial := rfl
@[simp] theorem State.modLane_failedAcqs (s : State) (f : Lane → Lane) : (s.modLane f).failedAcqs = s.failedAcqs := rfl
@[simp] theorem State.modLane_hbm (s : State) (f : Lane → Lane) : (s.modLane f).hbm = s.hbm := rfl
@[simp] theorem State.modLane_leaving (s : State) (f : Lane → Lane) : (s.modLane f).leaving = s.leaving := rfl
@[simp] theorem State.modLane_mem (s : State) (f : Lane → Lane) : (s.modLane f).mem = s.mem := rfl
@[simp] theorem State.modLane_gkeys (s : State) (f : Lane → Lane) : (s.modLane f).gkeys = s.gkeys := rfl
@[simp] theorem State.modLane_gpoison (s : State) (f : Lane → Lane) : (s.modLane f).gpoison = s.gpoison := rfl
@[simp] theorem State.modLane_gbad (s : State) (f : Lane → Lane) : (s.modLane f).gbad = s.gbad := rfl
@[simp] theorem State.modLane_unchecked (s : State) (f : Lane → Lane) : (s.modLane f).unchecked = s.unchecked := rfl
@[simp] theorem State.modLane_keys (s : State) (f : Lane → Lane) : (s.modLane f).keys = s.keys := rfl
@[simp] theorem State.modLane_tlb (s : State) (f : Lane → Lane) : (s.modLane f).tlb = s.tlb := rfl
@[simp] theorem State.modLane_cupboards (s : State) (f : Lane → Lane) : (s.modLane f).cupboards = s.cupboards := rfl
@[simp] theorem State.modLane_fns (s : State) (f : Lane → Lane) : (s.modLane f).fns = s.fns := rfl
@[simp] theorem State.modLane_insts (s : State) (f : Lane → Lane) : (s.modLane f).insts = s.insts := rfl
@[simp] theorem State.modLane_parts (s : State) (f : Lane → Lane) : (s.modLane f).parts = s.parts := rfl
@[simp] theorem State.modLane_mgmt (s : State) (f : Lane → Lane) : (s.modLane f).mgmt = s.mgmt := rfl
@[simp] theorem State.modLane_saves (s : State) (f : Lane → Lane) : (s.modLane f).saves = s.saves := rfl
@[simp] theorem State.modLane_away (s : State) (f : Lane → Lane) : (s.modLane f).away = s.away := rfl
@[simp] theorem State.modLane_links (s : State) (f : Lane → Lane) : (s.modLane f).links = s.links := rfl
@[simp] theorem State.modLane_errRing (s : State) (f : Lane → Lane) : (s.modLane f).errRing = s.errRing := rfl
@[simp] theorem State.modLane_ckpt (s : State) (f : Lane → Lane) : (s.modLane f).ckpt = s.ckpt := rfl
@[simp] theorem State.modLane_sarSeq (s : State) (f : Lane → Lane) : (s.modLane f).sarSeq = s.sarSeq := rfl
@[simp] theorem State.modLane_pcie (s : State) (f : Lane → Lane) : (s.modLane f).pcie = s.pcie := rfl
@[simp] theorem State.modLane_septord (s : State) (f : Lane → Lane) : (s.modLane f).septord = s.septord := rfl
@[simp] theorem State.modLane_hostq (s : State) (f : Lane → Lane) : (s.modLane f).hostq = s.hostq := rfl
@[simp] theorem State.modLane_gated (s : State) (f : Lane → Lane) : (s.modLane f).gated = s.gated := rfl
@[simp] theorem State.modLane_untrained (s : State) (f : Lane → Lane) : (s.modLane f).untrained = s.untrained := rfl
@[simp] theorem State.modLane_seen (s : State) (f : Lane → Lane) : (s.modLane f).seen = s.seen := rfl
@[simp] theorem State.modLane_free (s : State) (f : Lane → Lane) : (s.modLane f).free = s.free := rfl

@[simp] theorem State.setX_agenda (s : State) (n : BitVec 4) (v : Word) : (s.setX n v).agenda = s.agenda := rfl
@[simp] theorem State.setX_cur (s : State) (n : BitVec 4) (v : Word) : (s.setX n v).cur = s.cur := rfl
@[simp] theorem State.setX_held (s : State) (n : BitVec 4) (v : Word) : (s.setX n v).held = s.held := rfl
@[simp] theorem State.setX_power (s : State) (n : BitVec 4) (v : Word) : (s.setX n v).power = s.power := rfl
@[simp] theorem State.setX_clock (s : State) (n : BitVec 4) (v : Word) : (s.setX n v).clock = s.clock := rfl
@[simp] theorem State.setX_net (s : State) (n : BitVec 4) (v : Word) : (s.setX n v).net = s.net := rfl
@[simp] theorem State.setX_ops (s : State) (n : BitVec 4) (v : Word) : (s.setX n v).ops = s.ops := rfl
@[simp] theorem State.setX_serial (s : State) (n : BitVec 4) (v : Word) : (s.setX n v).serial = s.serial := rfl
@[simp] theorem State.setX_failedAcqs (s : State) (n : BitVec 4) (v : Word) : (s.setX n v).failedAcqs = s.failedAcqs := rfl
@[simp] theorem State.setX_hbm (s : State) (n : BitVec 4) (v : Word) : (s.setX n v).hbm = s.hbm := rfl
@[simp] theorem State.setX_leaving (s : State) (n : BitVec 4) (v : Word) : (s.setX n v).leaving = s.leaving := rfl
@[simp] theorem State.setX_mem (s : State) (n : BitVec 4) (v : Word) : (s.setX n v).mem = s.mem := rfl
@[simp] theorem State.setX_gkeys (s : State) (n : BitVec 4) (v : Word) : (s.setX n v).gkeys = s.gkeys := rfl
@[simp] theorem State.setX_gpoison (s : State) (n : BitVec 4) (v : Word) : (s.setX n v).gpoison = s.gpoison := rfl
@[simp] theorem State.setX_gbad (s : State) (n : BitVec 4) (v : Word) : (s.setX n v).gbad = s.gbad := rfl
@[simp] theorem State.setX_unchecked (s : State) (n : BitVec 4) (v : Word) : (s.setX n v).unchecked = s.unchecked := rfl
@[simp] theorem State.setX_keys (s : State) (n : BitVec 4) (v : Word) : (s.setX n v).keys = s.keys := rfl
@[simp] theorem State.setX_tlb (s : State) (n : BitVec 4) (v : Word) : (s.setX n v).tlb = s.tlb := rfl
@[simp] theorem State.setX_cupboards (s : State) (n : BitVec 4) (v : Word) : (s.setX n v).cupboards = s.cupboards := rfl
@[simp] theorem State.setX_fns (s : State) (n : BitVec 4) (v : Word) : (s.setX n v).fns = s.fns := rfl
@[simp] theorem State.setX_insts (s : State) (n : BitVec 4) (v : Word) : (s.setX n v).insts = s.insts := rfl
@[simp] theorem State.setX_parts (s : State) (n : BitVec 4) (v : Word) : (s.setX n v).parts = s.parts := rfl
@[simp] theorem State.setX_mgmt (s : State) (n : BitVec 4) (v : Word) : (s.setX n v).mgmt = s.mgmt := rfl
@[simp] theorem State.setX_saves (s : State) (n : BitVec 4) (v : Word) : (s.setX n v).saves = s.saves := rfl
@[simp] theorem State.setX_away (s : State) (n : BitVec 4) (v : Word) : (s.setX n v).away = s.away := rfl
@[simp] theorem State.setX_links (s : State) (n : BitVec 4) (v : Word) : (s.setX n v).links = s.links := rfl
@[simp] theorem State.setX_errRing (s : State) (n : BitVec 4) (v : Word) : (s.setX n v).errRing = s.errRing := rfl
@[simp] theorem State.setX_ckpt (s : State) (n : BitVec 4) (v : Word) : (s.setX n v).ckpt = s.ckpt := rfl
@[simp] theorem State.setX_sarSeq (s : State) (n : BitVec 4) (v : Word) : (s.setX n v).sarSeq = s.sarSeq := rfl
@[simp] theorem State.setX_pcie (s : State) (n : BitVec 4) (v : Word) : (s.setX n v).pcie = s.pcie := rfl
@[simp] theorem State.setX_septord (s : State) (n : BitVec 4) (v : Word) : (s.setX n v).septord = s.septord := rfl
@[simp] theorem State.setX_hostq (s : State) (n : BitVec 4) (v : Word) : (s.setX n v).hostq = s.hostq := rfl
@[simp] theorem State.setX_gated (s : State) (n : BitVec 4) (v : Word) : (s.setX n v).gated = s.gated := rfl
@[simp] theorem State.setX_untrained (s : State) (n : BitVec 4) (v : Word) : (s.setX n v).untrained = s.untrained := rfl
@[simp] theorem State.setX_seen (s : State) (n : BitVec 4) (v : Word) : (s.setX n v).seen = s.seen := rfl
@[simp] theorem State.setX_free (s : State) (n : BitVec 4) (v : Word) : (s.setX n v).free = s.free := rfl

@[simp] theorem State.setP_agenda (s : State) (n : BitVec 3) (v : Bool) : (s.setP n v).agenda = s.agenda := rfl
@[simp] theorem State.setP_cur (s : State) (n : BitVec 3) (v : Bool) : (s.setP n v).cur = s.cur := rfl
@[simp] theorem State.setP_held (s : State) (n : BitVec 3) (v : Bool) : (s.setP n v).held = s.held := rfl
@[simp] theorem State.setP_power (s : State) (n : BitVec 3) (v : Bool) : (s.setP n v).power = s.power := rfl
@[simp] theorem State.setP_clock (s : State) (n : BitVec 3) (v : Bool) : (s.setP n v).clock = s.clock := rfl
@[simp] theorem State.setP_net (s : State) (n : BitVec 3) (v : Bool) : (s.setP n v).net = s.net := rfl
@[simp] theorem State.setP_ops (s : State) (n : BitVec 3) (v : Bool) : (s.setP n v).ops = s.ops := rfl
@[simp] theorem State.setP_serial (s : State) (n : BitVec 3) (v : Bool) : (s.setP n v).serial = s.serial := rfl
@[simp] theorem State.setP_failedAcqs (s : State) (n : BitVec 3) (v : Bool) : (s.setP n v).failedAcqs = s.failedAcqs := rfl
@[simp] theorem State.setP_hbm (s : State) (n : BitVec 3) (v : Bool) : (s.setP n v).hbm = s.hbm := rfl
@[simp] theorem State.setP_leaving (s : State) (n : BitVec 3) (v : Bool) : (s.setP n v).leaving = s.leaving := rfl
@[simp] theorem State.setP_mem (s : State) (n : BitVec 3) (v : Bool) : (s.setP n v).mem = s.mem := rfl
@[simp] theorem State.setP_gkeys (s : State) (n : BitVec 3) (v : Bool) : (s.setP n v).gkeys = s.gkeys := rfl
@[simp] theorem State.setP_gpoison (s : State) (n : BitVec 3) (v : Bool) : (s.setP n v).gpoison = s.gpoison := rfl
@[simp] theorem State.setP_gbad (s : State) (n : BitVec 3) (v : Bool) : (s.setP n v).gbad = s.gbad := rfl
@[simp] theorem State.setP_unchecked (s : State) (n : BitVec 3) (v : Bool) : (s.setP n v).unchecked = s.unchecked := rfl
@[simp] theorem State.setP_keys (s : State) (n : BitVec 3) (v : Bool) : (s.setP n v).keys = s.keys := rfl
@[simp] theorem State.setP_tlb (s : State) (n : BitVec 3) (v : Bool) : (s.setP n v).tlb = s.tlb := rfl
@[simp] theorem State.setP_cupboards (s : State) (n : BitVec 3) (v : Bool) : (s.setP n v).cupboards = s.cupboards := rfl
@[simp] theorem State.setP_fns (s : State) (n : BitVec 3) (v : Bool) : (s.setP n v).fns = s.fns := rfl
@[simp] theorem State.setP_insts (s : State) (n : BitVec 3) (v : Bool) : (s.setP n v).insts = s.insts := rfl
@[simp] theorem State.setP_parts (s : State) (n : BitVec 3) (v : Bool) : (s.setP n v).parts = s.parts := rfl
@[simp] theorem State.setP_mgmt (s : State) (n : BitVec 3) (v : Bool) : (s.setP n v).mgmt = s.mgmt := rfl
@[simp] theorem State.setP_saves (s : State) (n : BitVec 3) (v : Bool) : (s.setP n v).saves = s.saves := rfl
@[simp] theorem State.setP_away (s : State) (n : BitVec 3) (v : Bool) : (s.setP n v).away = s.away := rfl
@[simp] theorem State.setP_links (s : State) (n : BitVec 3) (v : Bool) : (s.setP n v).links = s.links := rfl
@[simp] theorem State.setP_errRing (s : State) (n : BitVec 3) (v : Bool) : (s.setP n v).errRing = s.errRing := rfl
@[simp] theorem State.setP_ckpt (s : State) (n : BitVec 3) (v : Bool) : (s.setP n v).ckpt = s.ckpt := rfl
@[simp] theorem State.setP_sarSeq (s : State) (n : BitVec 3) (v : Bool) : (s.setP n v).sarSeq = s.sarSeq := rfl
@[simp] theorem State.setP_pcie (s : State) (n : BitVec 3) (v : Bool) : (s.setP n v).pcie = s.pcie := rfl
@[simp] theorem State.setP_septord (s : State) (n : BitVec 3) (v : Bool) : (s.setP n v).septord = s.septord := rfl
@[simp] theorem State.setP_hostq (s : State) (n : BitVec 3) (v : Bool) : (s.setP n v).hostq = s.hostq := rfl
@[simp] theorem State.setP_gated (s : State) (n : BitVec 3) (v : Bool) : (s.setP n v).gated = s.gated := rfl
@[simp] theorem State.setP_untrained (s : State) (n : BitVec 3) (v : Bool) : (s.setP n v).untrained = s.untrained := rfl
@[simp] theorem State.setP_seen (s : State) (n : BitVec 3) (v : Bool) : (s.setP n v).seen = s.seen := rfl
@[simp] theorem State.setP_free (s : State) (n : BitVec 3) (v : Bool) : (s.setP n v).free = s.free := rfl

@[simp] theorem State.setSlot_agenda (s : State) (c k : Nat) (v : Option Slot) : (s.setSlot c k v).agenda = s.agenda := rfl
@[simp] theorem State.setSlot_cur (s : State) (c k : Nat) (v : Option Slot) : (s.setSlot c k v).cur = s.cur := rfl
@[simp] theorem State.setSlot_held (s : State) (c k : Nat) (v : Option Slot) : (s.setSlot c k v).held = s.held := rfl
@[simp] theorem State.setSlot_power (s : State) (c k : Nat) (v : Option Slot) : (s.setSlot c k v).power = s.power := rfl
@[simp] theorem State.setSlot_clock (s : State) (c k : Nat) (v : Option Slot) : (s.setSlot c k v).clock = s.clock := rfl
@[simp] theorem State.setSlot_net (s : State) (c k : Nat) (v : Option Slot) : (s.setSlot c k v).net = s.net := rfl
@[simp] theorem State.setSlot_ops (s : State) (c k : Nat) (v : Option Slot) : (s.setSlot c k v).ops = s.ops := rfl
@[simp] theorem State.setSlot_serial (s : State) (c k : Nat) (v : Option Slot) : (s.setSlot c k v).serial = s.serial := rfl
@[simp] theorem State.setSlot_failedAcqs (s : State) (c k : Nat) (v : Option Slot) : (s.setSlot c k v).failedAcqs = s.failedAcqs := rfl
@[simp] theorem State.setSlot_hbm (s : State) (c k : Nat) (v : Option Slot) : (s.setSlot c k v).hbm = s.hbm := rfl
@[simp] theorem State.setSlot_leaving (s : State) (c k : Nat) (v : Option Slot) : (s.setSlot c k v).leaving = s.leaving := rfl
@[simp] theorem State.setSlot_mem (s : State) (c k : Nat) (v : Option Slot) : (s.setSlot c k v).mem = s.mem := rfl
@[simp] theorem State.setSlot_gkeys (s : State) (c k : Nat) (v : Option Slot) : (s.setSlot c k v).gkeys = s.gkeys := rfl
@[simp] theorem State.setSlot_gpoison (s : State) (c k : Nat) (v : Option Slot) : (s.setSlot c k v).gpoison = s.gpoison := rfl
@[simp] theorem State.setSlot_gbad (s : State) (c k : Nat) (v : Option Slot) : (s.setSlot c k v).gbad = s.gbad := rfl
@[simp] theorem State.setSlot_unchecked (s : State) (c k : Nat) (v : Option Slot) : (s.setSlot c k v).unchecked = s.unchecked := rfl
@[simp] theorem State.setSlot_keys (s : State) (c k : Nat) (v : Option Slot) : (s.setSlot c k v).keys = s.keys := rfl
@[simp] theorem State.setSlot_tlb (s : State) (c k : Nat) (v : Option Slot) : (s.setSlot c k v).tlb = s.tlb := rfl
@[simp] theorem State.setSlot_cupboards (s : State) (c k : Nat) (v : Option Slot) : (s.setSlot c k v).cupboards = s.cupboards := rfl
@[simp] theorem State.setSlot_fns (s : State) (c k : Nat) (v : Option Slot) : (s.setSlot c k v).fns = s.fns := rfl
@[simp] theorem State.setSlot_insts (s : State) (c k : Nat) (v : Option Slot) : (s.setSlot c k v).insts = s.insts := rfl
@[simp] theorem State.setSlot_parts (s : State) (c k : Nat) (v : Option Slot) : (s.setSlot c k v).parts = s.parts := rfl
@[simp] theorem State.setSlot_mgmt (s : State) (c k : Nat) (v : Option Slot) : (s.setSlot c k v).mgmt = s.mgmt := rfl
@[simp] theorem State.setSlot_saves (s : State) (c k : Nat) (v : Option Slot) : (s.setSlot c k v).saves = s.saves := rfl
@[simp] theorem State.setSlot_away (s : State) (c k : Nat) (v : Option Slot) : (s.setSlot c k v).away = s.away := rfl
@[simp] theorem State.setSlot_links (s : State) (c k : Nat) (v : Option Slot) : (s.setSlot c k v).links = s.links := rfl
@[simp] theorem State.setSlot_errRing (s : State) (c k : Nat) (v : Option Slot) : (s.setSlot c k v).errRing = s.errRing := rfl
@[simp] theorem State.setSlot_ckpt (s : State) (c k : Nat) (v : Option Slot) : (s.setSlot c k v).ckpt = s.ckpt := rfl
@[simp] theorem State.setSlot_sarSeq (s : State) (c k : Nat) (v : Option Slot) : (s.setSlot c k v).sarSeq = s.sarSeq := rfl
@[simp] theorem State.setSlot_pcie (s : State) (c k : Nat) (v : Option Slot) : (s.setSlot c k v).pcie = s.pcie := rfl
@[simp] theorem State.setSlot_septord (s : State) (c k : Nat) (v : Option Slot) : (s.setSlot c k v).septord = s.septord := rfl
@[simp] theorem State.setSlot_hostq (s : State) (c k : Nat) (v : Option Slot) : (s.setSlot c k v).hostq = s.hostq := rfl
@[simp] theorem State.setSlot_gated (s : State) (c k : Nat) (v : Option Slot) : (s.setSlot c k v).gated = s.gated := rfl
@[simp] theorem State.setSlot_untrained (s : State) (c k : Nat) (v : Option Slot) : (s.setSlot c k v).untrained = s.untrained := rfl
@[simp] theorem State.setSlot_seen (s : State) (c k : Nat) (v : Option Slot) : (s.setSlot c k v).seen = s.seen := rfl
@[simp] theorem State.setSlot_free (s : State) (c k : Nat) (v : Option Slot) : (s.setSlot c k v).free = s.free := rfl

@[simp] theorem State.touch_agenda (s : State) (c k : Nat) : (s.touch c k).agenda = s.agenda := rfl
@[simp] theorem State.touch_cur (s : State) (c k : Nat) : (s.touch c k).cur = s.cur := rfl
@[simp] theorem State.touch_held (s : State) (c k : Nat) : (s.touch c k).held = s.held := rfl
@[simp] theorem State.touch_power (s : State) (c k : Nat) : (s.touch c k).power = s.power := rfl
@[simp] theorem State.touch_clock (s : State) (c k : Nat) : (s.touch c k).clock = s.clock := rfl
@[simp] theorem State.touch_net (s : State) (c k : Nat) : (s.touch c k).net = s.net := rfl
@[simp] theorem State.touch_ops (s : State) (c k : Nat) : (s.touch c k).ops = s.ops := rfl
@[simp] theorem State.touch_serial (s : State) (c k : Nat) : (s.touch c k).serial = s.serial := rfl
@[simp] theorem State.touch_failedAcqs (s : State) (c k : Nat) : (s.touch c k).failedAcqs = s.failedAcqs := rfl
@[simp] theorem State.touch_hbm (s : State) (c k : Nat) : (s.touch c k).hbm = s.hbm := rfl
@[simp] theorem State.touch_leaving (s : State) (c k : Nat) : (s.touch c k).leaving = s.leaving := rfl
@[simp] theorem State.touch_mem (s : State) (c k : Nat) : (s.touch c k).mem = s.mem := rfl
@[simp] theorem State.touch_gkeys (s : State) (c k : Nat) : (s.touch c k).gkeys = s.gkeys := rfl
@[simp] theorem State.touch_gpoison (s : State) (c k : Nat) : (s.touch c k).gpoison = s.gpoison := rfl
@[simp] theorem State.touch_gbad (s : State) (c k : Nat) : (s.touch c k).gbad = s.gbad := rfl
@[simp] theorem State.touch_unchecked (s : State) (c k : Nat) : (s.touch c k).unchecked = s.unchecked := rfl
@[simp] theorem State.touch_keys (s : State) (c k : Nat) : (s.touch c k).keys = s.keys := rfl
@[simp] theorem State.touch_tlb (s : State) (c k : Nat) : (s.touch c k).tlb = s.tlb := rfl
@[simp] theorem State.touch_cupboards (s : State) (c k : Nat) : (s.touch c k).cupboards = s.cupboards := rfl
@[simp] theorem State.touch_fns (s : State) (c k : Nat) : (s.touch c k).fns = s.fns := rfl
@[simp] theorem State.touch_insts (s : State) (c k : Nat) : (s.touch c k).insts = s.insts := rfl
@[simp] theorem State.touch_parts (s : State) (c k : Nat) : (s.touch c k).parts = s.parts := rfl
@[simp] theorem State.touch_mgmt (s : State) (c k : Nat) : (s.touch c k).mgmt = s.mgmt := rfl
@[simp] theorem State.touch_saves (s : State) (c k : Nat) : (s.touch c k).saves = s.saves := rfl
@[simp] theorem State.touch_away (s : State) (c k : Nat) : (s.touch c k).away = s.away := rfl
@[simp] theorem State.touch_links (s : State) (c k : Nat) : (s.touch c k).links = s.links := rfl
@[simp] theorem State.touch_errRing (s : State) (c k : Nat) : (s.touch c k).errRing = s.errRing := rfl
@[simp] theorem State.touch_ckpt (s : State) (c k : Nat) : (s.touch c k).ckpt = s.ckpt := rfl
@[simp] theorem State.touch_sarSeq (s : State) (c k : Nat) : (s.touch c k).sarSeq = s.sarSeq := rfl
@[simp] theorem State.touch_pcie (s : State) (c k : Nat) : (s.touch c k).pcie = s.pcie := rfl
@[simp] theorem State.touch_septord (s : State) (c k : Nat) : (s.touch c k).septord = s.septord := rfl
@[simp] theorem State.touch_hostq (s : State) (c k : Nat) : (s.touch c k).hostq = s.hostq := rfl
@[simp] theorem State.touch_gated (s : State) (c k : Nat) : (s.touch c k).gated = s.gated := rfl
@[simp] theorem State.touch_untrained (s : State) (c k : Nat) : (s.touch c k).untrained = s.untrained := rfl
@[simp] theorem State.touch_seen (s : State) (c k : Nat) : (s.touch c k).seen = s.seen := rfl
@[simp] theorem State.touch_free (s : State) (c k : Nat) : (s.touch c k).free = s.free := rfl

@[simp] theorem State.modTile_agenda (s : State) (c i : Nat) (f : Tile → Tile) : (s.modTile c i f).agenda = s.agenda := rfl
@[simp] theorem State.modTile_cur (s : State) (c i : Nat) (f : Tile → Tile) : (s.modTile c i f).cur = s.cur := rfl
@[simp] theorem State.modTile_held (s : State) (c i : Nat) (f : Tile → Tile) : (s.modTile c i f).held = s.held := rfl
@[simp] theorem State.modTile_power (s : State) (c i : Nat) (f : Tile → Tile) : (s.modTile c i f).power = s.power := rfl
@[simp] theorem State.modTile_clock (s : State) (c i : Nat) (f : Tile → Tile) : (s.modTile c i f).clock = s.clock := rfl
@[simp] theorem State.modTile_net (s : State) (c i : Nat) (f : Tile → Tile) : (s.modTile c i f).net = s.net := rfl
@[simp] theorem State.modTile_ops (s : State) (c i : Nat) (f : Tile → Tile) : (s.modTile c i f).ops = s.ops := rfl
@[simp] theorem State.modTile_serial (s : State) (c i : Nat) (f : Tile → Tile) : (s.modTile c i f).serial = s.serial := rfl
@[simp] theorem State.modTile_failedAcqs (s : State) (c i : Nat) (f : Tile → Tile) : (s.modTile c i f).failedAcqs = s.failedAcqs := rfl
@[simp] theorem State.modTile_hbm (s : State) (c i : Nat) (f : Tile → Tile) : (s.modTile c i f).hbm = s.hbm := rfl
@[simp] theorem State.modTile_leaving (s : State) (c i : Nat) (f : Tile → Tile) : (s.modTile c i f).leaving = s.leaving := rfl
@[simp] theorem State.modTile_mem (s : State) (c i : Nat) (f : Tile → Tile) : (s.modTile c i f).mem = s.mem := rfl
@[simp] theorem State.modTile_gkeys (s : State) (c i : Nat) (f : Tile → Tile) : (s.modTile c i f).gkeys = s.gkeys := rfl
@[simp] theorem State.modTile_gpoison (s : State) (c i : Nat) (f : Tile → Tile) : (s.modTile c i f).gpoison = s.gpoison := rfl
@[simp] theorem State.modTile_gbad (s : State) (c i : Nat) (f : Tile → Tile) : (s.modTile c i f).gbad = s.gbad := rfl
@[simp] theorem State.modTile_unchecked (s : State) (c i : Nat) (f : Tile → Tile) : (s.modTile c i f).unchecked = s.unchecked := rfl
@[simp] theorem State.modTile_keys (s : State) (c i : Nat) (f : Tile → Tile) : (s.modTile c i f).keys = s.keys := rfl
@[simp] theorem State.modTile_tlb (s : State) (c i : Nat) (f : Tile → Tile) : (s.modTile c i f).tlb = s.tlb := rfl
@[simp] theorem State.modTile_cupboards (s : State) (c i : Nat) (f : Tile → Tile) : (s.modTile c i f).cupboards = s.cupboards := rfl
@[simp] theorem State.modTile_fns (s : State) (c i : Nat) (f : Tile → Tile) : (s.modTile c i f).fns = s.fns := rfl
@[simp] theorem State.modTile_insts (s : State) (c i : Nat) (f : Tile → Tile) : (s.modTile c i f).insts = s.insts := rfl
@[simp] theorem State.modTile_parts (s : State) (c i : Nat) (f : Tile → Tile) : (s.modTile c i f).parts = s.parts := rfl
@[simp] theorem State.modTile_mgmt (s : State) (c i : Nat) (f : Tile → Tile) : (s.modTile c i f).mgmt = s.mgmt := rfl
@[simp] theorem State.modTile_saves (s : State) (c i : Nat) (f : Tile → Tile) : (s.modTile c i f).saves = s.saves := rfl
@[simp] theorem State.modTile_away (s : State) (c i : Nat) (f : Tile → Tile) : (s.modTile c i f).away = s.away := rfl
@[simp] theorem State.modTile_links (s : State) (c i : Nat) (f : Tile → Tile) : (s.modTile c i f).links = s.links := rfl
@[simp] theorem State.modTile_errRing (s : State) (c i : Nat) (f : Tile → Tile) : (s.modTile c i f).errRing = s.errRing := rfl
@[simp] theorem State.modTile_ckpt (s : State) (c i : Nat) (f : Tile → Tile) : (s.modTile c i f).ckpt = s.ckpt := rfl
@[simp] theorem State.modTile_sarSeq (s : State) (c i : Nat) (f : Tile → Tile) : (s.modTile c i f).sarSeq = s.sarSeq := rfl
@[simp] theorem State.modTile_pcie (s : State) (c i : Nat) (f : Tile → Tile) : (s.modTile c i f).pcie = s.pcie := rfl
@[simp] theorem State.modTile_septord (s : State) (c i : Nat) (f : Tile → Tile) : (s.modTile c i f).septord = s.septord := rfl
@[simp] theorem State.modTile_hostq (s : State) (c i : Nat) (f : Tile → Tile) : (s.modTile c i f).hostq = s.hostq := rfl
@[simp] theorem State.modTile_gated (s : State) (c i : Nat) (f : Tile → Tile) : (s.modTile c i f).gated = s.gated := rfl
@[simp] theorem State.modTile_untrained (s : State) (c i : Nat) (f : Tile → Tile) : (s.modTile c i f).untrained = s.untrained := rfl
@[simp] theorem State.modTile_seen (s : State) (c i : Nat) (f : Tile → Tile) : (s.modTile c i f).seen = s.seen := rfl
@[simp] theorem State.modTile_free (s : State) (c i : Nat) (f : Tile → Tile) : (s.modTile c i f).free = s.free := rfl

@[simp] theorem State.pushReady_agenda (s : State) (c k : Nat) (b : ReadyBody) : (s.pushReady c k b).agenda = s.agenda := rfl
@[simp] theorem State.pushReady_cur (s : State) (c k : Nat) (b : ReadyBody) : (s.pushReady c k b).cur = s.cur := rfl
@[simp] theorem State.pushReady_held (s : State) (c k : Nat) (b : ReadyBody) : (s.pushReady c k b).held = s.held := rfl
@[simp] theorem State.pushReady_power (s : State) (c k : Nat) (b : ReadyBody) : (s.pushReady c k b).power = s.power := rfl
@[simp] theorem State.pushReady_clock (s : State) (c k : Nat) (b : ReadyBody) : (s.pushReady c k b).clock = s.clock := rfl
@[simp] theorem State.pushReady_net (s : State) (c k : Nat) (b : ReadyBody) : (s.pushReady c k b).net = s.net := rfl
@[simp] theorem State.pushReady_ops (s : State) (c k : Nat) (b : ReadyBody) : (s.pushReady c k b).ops = s.ops := rfl
@[simp] theorem State.pushReady_serial (s : State) (c k : Nat) (b : ReadyBody) : (s.pushReady c k b).serial = s.serial := rfl
@[simp] theorem State.pushReady_failedAcqs (s : State) (c k : Nat) (b : ReadyBody) : (s.pushReady c k b).failedAcqs = s.failedAcqs := rfl
@[simp] theorem State.pushReady_hbm (s : State) (c k : Nat) (b : ReadyBody) : (s.pushReady c k b).hbm = s.hbm := rfl
@[simp] theorem State.pushReady_leaving (s : State) (c k : Nat) (b : ReadyBody) : (s.pushReady c k b).leaving = s.leaving := rfl
@[simp] theorem State.pushReady_mem (s : State) (c k : Nat) (b : ReadyBody) : (s.pushReady c k b).mem = s.mem := rfl
@[simp] theorem State.pushReady_gkeys (s : State) (c k : Nat) (b : ReadyBody) : (s.pushReady c k b).gkeys = s.gkeys := rfl
@[simp] theorem State.pushReady_gpoison (s : State) (c k : Nat) (b : ReadyBody) : (s.pushReady c k b).gpoison = s.gpoison := rfl
@[simp] theorem State.pushReady_gbad (s : State) (c k : Nat) (b : ReadyBody) : (s.pushReady c k b).gbad = s.gbad := rfl
@[simp] theorem State.pushReady_unchecked (s : State) (c k : Nat) (b : ReadyBody) : (s.pushReady c k b).unchecked = s.unchecked := rfl
@[simp] theorem State.pushReady_keys (s : State) (c k : Nat) (b : ReadyBody) : (s.pushReady c k b).keys = s.keys := rfl
@[simp] theorem State.pushReady_tlb (s : State) (c k : Nat) (b : ReadyBody) : (s.pushReady c k b).tlb = s.tlb := rfl
@[simp] theorem State.pushReady_cupboards (s : State) (c k : Nat) (b : ReadyBody) : (s.pushReady c k b).cupboards = s.cupboards := rfl
@[simp] theorem State.pushReady_fns (s : State) (c k : Nat) (b : ReadyBody) : (s.pushReady c k b).fns = s.fns := rfl
@[simp] theorem State.pushReady_insts (s : State) (c k : Nat) (b : ReadyBody) : (s.pushReady c k b).insts = s.insts := rfl
@[simp] theorem State.pushReady_parts (s : State) (c k : Nat) (b : ReadyBody) : (s.pushReady c k b).parts = s.parts := rfl
@[simp] theorem State.pushReady_mgmt (s : State) (c k : Nat) (b : ReadyBody) : (s.pushReady c k b).mgmt = s.mgmt := rfl
@[simp] theorem State.pushReady_saves (s : State) (c k : Nat) (b : ReadyBody) : (s.pushReady c k b).saves = s.saves := rfl
@[simp] theorem State.pushReady_away (s : State) (c k : Nat) (b : ReadyBody) : (s.pushReady c k b).away = s.away := rfl
@[simp] theorem State.pushReady_links (s : State) (c k : Nat) (b : ReadyBody) : (s.pushReady c k b).links = s.links := rfl
@[simp] theorem State.pushReady_errRing (s : State) (c k : Nat) (b : ReadyBody) : (s.pushReady c k b).errRing = s.errRing := rfl
@[simp] theorem State.pushReady_ckpt (s : State) (c k : Nat) (b : ReadyBody) : (s.pushReady c k b).ckpt = s.ckpt := rfl
@[simp] theorem State.pushReady_sarSeq (s : State) (c k : Nat) (b : ReadyBody) : (s.pushReady c k b).sarSeq = s.sarSeq := rfl
@[simp] theorem State.pushReady_pcie (s : State) (c k : Nat) (b : ReadyBody) : (s.pushReady c k b).pcie = s.pcie := rfl
@[simp] theorem State.pushReady_septord (s : State) (c k : Nat) (b : ReadyBody) : (s.pushReady c k b).septord = s.septord := rfl
@[simp] theorem State.pushReady_hostq (s : State) (c k : Nat) (b : ReadyBody) : (s.pushReady c k b).hostq = s.hostq := rfl
@[simp] theorem State.pushReady_gated (s : State) (c k : Nat) (b : ReadyBody) : (s.pushReady c k b).gated = s.gated := rfl
@[simp] theorem State.pushReady_untrained (s : State) (c k : Nat) (b : ReadyBody) : (s.pushReady c k b).untrained = s.untrained := rfl
@[simp] theorem State.pushReady_seen (s : State) (c k : Nat) (b : ReadyBody) : (s.pushReady c k b).seen = s.seen := rfl
@[simp] theorem State.pushReady_free (s : State) (c k : Nat) (b : ReadyBody) : (s.pushReady c k b).free = s.free := rfl

@[simp] theorem State.count_agenda (s : State) (c x n : Nat) : (s.count c x n).agenda = s.agenda := rfl
@[simp] theorem State.count_cur (s : State) (c x n : Nat) : (s.count c x n).cur = s.cur := rfl
@[simp] theorem State.count_held (s : State) (c x n : Nat) : (s.count c x n).held = s.held := rfl
@[simp] theorem State.count_power (s : State) (c x n : Nat) : (s.count c x n).power = s.power := rfl
@[simp] theorem State.count_clock (s : State) (c x n : Nat) : (s.count c x n).clock = s.clock := rfl
@[simp] theorem State.count_net (s : State) (c x n : Nat) : (s.count c x n).net = s.net := rfl
@[simp] theorem State.count_ops (s : State) (c x n : Nat) : (s.count c x n).ops = s.ops := rfl
@[simp] theorem State.count_serial (s : State) (c x n : Nat) : (s.count c x n).serial = s.serial := rfl
@[simp] theorem State.count_failedAcqs (s : State) (c x n : Nat) : (s.count c x n).failedAcqs = s.failedAcqs := rfl
@[simp] theorem State.count_hbm (s : State) (c x n : Nat) : (s.count c x n).hbm = s.hbm := rfl
@[simp] theorem State.count_leaving (s : State) (c x n : Nat) : (s.count c x n).leaving = s.leaving := rfl
@[simp] theorem State.count_mem (s : State) (c x n : Nat) : (s.count c x n).mem = s.mem := rfl
@[simp] theorem State.count_gkeys (s : State) (c x n : Nat) : (s.count c x n).gkeys = s.gkeys := rfl
@[simp] theorem State.count_gpoison (s : State) (c x n : Nat) : (s.count c x n).gpoison = s.gpoison := rfl
@[simp] theorem State.count_gbad (s : State) (c x n : Nat) : (s.count c x n).gbad = s.gbad := rfl
@[simp] theorem State.count_unchecked (s : State) (c x n : Nat) : (s.count c x n).unchecked = s.unchecked := rfl
@[simp] theorem State.count_keys (s : State) (c x n : Nat) : (s.count c x n).keys = s.keys := rfl
@[simp] theorem State.count_tlb (s : State) (c x n : Nat) : (s.count c x n).tlb = s.tlb := rfl
@[simp] theorem State.count_cupboards (s : State) (c x n : Nat) : (s.count c x n).cupboards = s.cupboards := rfl
@[simp] theorem State.count_fns (s : State) (c x n : Nat) : (s.count c x n).fns = s.fns := rfl
@[simp] theorem State.count_insts (s : State) (c x n : Nat) : (s.count c x n).insts = s.insts := rfl
@[simp] theorem State.count_parts (s : State) (c x n : Nat) : (s.count c x n).parts = s.parts := rfl
@[simp] theorem State.count_mgmt (s : State) (c x n : Nat) : (s.count c x n).mgmt = s.mgmt := rfl
@[simp] theorem State.count_saves (s : State) (c x n : Nat) : (s.count c x n).saves = s.saves := rfl
@[simp] theorem State.count_away (s : State) (c x n : Nat) : (s.count c x n).away = s.away := rfl
@[simp] theorem State.count_links (s : State) (c x n : Nat) : (s.count c x n).links = s.links := rfl
@[simp] theorem State.count_errRing (s : State) (c x n : Nat) : (s.count c x n).errRing = s.errRing := rfl
@[simp] theorem State.count_ckpt (s : State) (c x n : Nat) : (s.count c x n).ckpt = s.ckpt := rfl
@[simp] theorem State.count_sarSeq (s : State) (c x n : Nat) : (s.count c x n).sarSeq = s.sarSeq := rfl
@[simp] theorem State.count_pcie (s : State) (c x n : Nat) : (s.count c x n).pcie = s.pcie := rfl
@[simp] theorem State.count_septord (s : State) (c x n : Nat) : (s.count c x n).septord = s.septord := rfl
@[simp] theorem State.count_hostq (s : State) (c x n : Nat) : (s.count c x n).hostq = s.hostq := rfl
@[simp] theorem State.count_gated (s : State) (c x n : Nat) : (s.count c x n).gated = s.gated := rfl
@[simp] theorem State.count_untrained (s : State) (c x n : Nat) : (s.count c x n).untrained = s.untrained := rfl
@[simp] theorem State.count_seen (s : State) (c x n : Nat) : (s.count c x n).seen = s.seen := rfl
@[simp] theorem State.count_free (s : State) (c x n : Nat) : (s.count c x n).free = s.free := rfl

@[simp] theorem State.countCell_agenda (s : State) (c n : Nat) : (s.countCell c n).agenda = s.agenda := rfl
@[simp] theorem State.countCell_cur (s : State) (c n : Nat) : (s.countCell c n).cur = s.cur := rfl
@[simp] theorem State.countCell_held (s : State) (c n : Nat) : (s.countCell c n).held = s.held := rfl
@[simp] theorem State.countCell_power (s : State) (c n : Nat) : (s.countCell c n).power = s.power := rfl
@[simp] theorem State.countCell_clock (s : State) (c n : Nat) : (s.countCell c n).clock = s.clock := rfl
@[simp] theorem State.countCell_net (s : State) (c n : Nat) : (s.countCell c n).net = s.net := rfl
@[simp] theorem State.countCell_ops (s : State) (c n : Nat) : (s.countCell c n).ops = s.ops := rfl
@[simp] theorem State.countCell_serial (s : State) (c n : Nat) : (s.countCell c n).serial = s.serial := rfl
@[simp] theorem State.countCell_failedAcqs (s : State) (c n : Nat) : (s.countCell c n).failedAcqs = s.failedAcqs := rfl
@[simp] theorem State.countCell_hbm (s : State) (c n : Nat) : (s.countCell c n).hbm = s.hbm := rfl
@[simp] theorem State.countCell_leaving (s : State) (c n : Nat) : (s.countCell c n).leaving = s.leaving := rfl
@[simp] theorem State.countCell_mem (s : State) (c n : Nat) : (s.countCell c n).mem = s.mem := rfl
@[simp] theorem State.countCell_gkeys (s : State) (c n : Nat) : (s.countCell c n).gkeys = s.gkeys := rfl
@[simp] theorem State.countCell_gpoison (s : State) (c n : Nat) : (s.countCell c n).gpoison = s.gpoison := rfl
@[simp] theorem State.countCell_gbad (s : State) (c n : Nat) : (s.countCell c n).gbad = s.gbad := rfl
@[simp] theorem State.countCell_unchecked (s : State) (c n : Nat) : (s.countCell c n).unchecked = s.unchecked := rfl
@[simp] theorem State.countCell_keys (s : State) (c n : Nat) : (s.countCell c n).keys = s.keys := rfl
@[simp] theorem State.countCell_tlb (s : State) (c n : Nat) : (s.countCell c n).tlb = s.tlb := rfl
@[simp] theorem State.countCell_cupboards (s : State) (c n : Nat) : (s.countCell c n).cupboards = s.cupboards := rfl
@[simp] theorem State.countCell_fns (s : State) (c n : Nat) : (s.countCell c n).fns = s.fns := rfl
@[simp] theorem State.countCell_insts (s : State) (c n : Nat) : (s.countCell c n).insts = s.insts := rfl
@[simp] theorem State.countCell_parts (s : State) (c n : Nat) : (s.countCell c n).parts = s.parts := rfl
@[simp] theorem State.countCell_mgmt (s : State) (c n : Nat) : (s.countCell c n).mgmt = s.mgmt := rfl
@[simp] theorem State.countCell_saves (s : State) (c n : Nat) : (s.countCell c n).saves = s.saves := rfl
@[simp] theorem State.countCell_away (s : State) (c n : Nat) : (s.countCell c n).away = s.away := rfl
@[simp] theorem State.countCell_links (s : State) (c n : Nat) : (s.countCell c n).links = s.links := rfl
@[simp] theorem State.countCell_errRing (s : State) (c n : Nat) : (s.countCell c n).errRing = s.errRing := rfl
@[simp] theorem State.countCell_ckpt (s : State) (c n : Nat) : (s.countCell c n).ckpt = s.ckpt := rfl
@[simp] theorem State.countCell_sarSeq (s : State) (c n : Nat) : (s.countCell c n).sarSeq = s.sarSeq := rfl
@[simp] theorem State.countCell_pcie (s : State) (c n : Nat) : (s.countCell c n).pcie = s.pcie := rfl
@[simp] theorem State.countCell_septord (s : State) (c n : Nat) : (s.countCell c n).septord = s.septord := rfl
@[simp] theorem State.countCell_hostq (s : State) (c n : Nat) : (s.countCell c n).hostq = s.hostq := rfl
@[simp] theorem State.countCell_gated (s : State) (c n : Nat) : (s.countCell c n).gated = s.gated := rfl
@[simp] theorem State.countCell_untrained (s : State) (c n : Nat) : (s.countCell c n).untrained = s.untrained := rfl
@[simp] theorem State.countCell_seen (s : State) (c n : Nat) : (s.countCell c n).seen = s.seen := rfl
@[simp] theorem State.countCell_free (s : State) (c n : Nat) : (s.countCell c n).free = s.free := rfl

@[simp] theorem State.raiseOut_agenda (s : State) (c x n : Nat) : (s.raiseOut c x n).agenda = s.agenda := rfl
@[simp] theorem State.raiseOut_cur (s : State) (c x n : Nat) : (s.raiseOut c x n).cur = s.cur := rfl
@[simp] theorem State.raiseOut_held (s : State) (c x n : Nat) : (s.raiseOut c x n).held = s.held := rfl
@[simp] theorem State.raiseOut_power (s : State) (c x n : Nat) : (s.raiseOut c x n).power = s.power := rfl
@[simp] theorem State.raiseOut_clock (s : State) (c x n : Nat) : (s.raiseOut c x n).clock = s.clock := rfl
@[simp] theorem State.raiseOut_net (s : State) (c x n : Nat) : (s.raiseOut c x n).net = s.net := rfl
@[simp] theorem State.raiseOut_ops (s : State) (c x n : Nat) : (s.raiseOut c x n).ops = s.ops := rfl
@[simp] theorem State.raiseOut_serial (s : State) (c x n : Nat) : (s.raiseOut c x n).serial = s.serial := rfl
@[simp] theorem State.raiseOut_failedAcqs (s : State) (c x n : Nat) : (s.raiseOut c x n).failedAcqs = s.failedAcqs := rfl
@[simp] theorem State.raiseOut_hbm (s : State) (c x n : Nat) : (s.raiseOut c x n).hbm = s.hbm := rfl
@[simp] theorem State.raiseOut_leaving (s : State) (c x n : Nat) : (s.raiseOut c x n).leaving = s.leaving := rfl
@[simp] theorem State.raiseOut_mem (s : State) (c x n : Nat) : (s.raiseOut c x n).mem = s.mem := rfl
@[simp] theorem State.raiseOut_gkeys (s : State) (c x n : Nat) : (s.raiseOut c x n).gkeys = s.gkeys := rfl
@[simp] theorem State.raiseOut_gpoison (s : State) (c x n : Nat) : (s.raiseOut c x n).gpoison = s.gpoison := rfl
@[simp] theorem State.raiseOut_gbad (s : State) (c x n : Nat) : (s.raiseOut c x n).gbad = s.gbad := rfl
@[simp] theorem State.raiseOut_unchecked (s : State) (c x n : Nat) : (s.raiseOut c x n).unchecked = s.unchecked := rfl
@[simp] theorem State.raiseOut_keys (s : State) (c x n : Nat) : (s.raiseOut c x n).keys = s.keys := rfl
@[simp] theorem State.raiseOut_tlb (s : State) (c x n : Nat) : (s.raiseOut c x n).tlb = s.tlb := rfl
@[simp] theorem State.raiseOut_cupboards (s : State) (c x n : Nat) : (s.raiseOut c x n).cupboards = s.cupboards := rfl
@[simp] theorem State.raiseOut_fns (s : State) (c x n : Nat) : (s.raiseOut c x n).fns = s.fns := rfl
@[simp] theorem State.raiseOut_insts (s : State) (c x n : Nat) : (s.raiseOut c x n).insts = s.insts := rfl
@[simp] theorem State.raiseOut_parts (s : State) (c x n : Nat) : (s.raiseOut c x n).parts = s.parts := rfl
@[simp] theorem State.raiseOut_mgmt (s : State) (c x n : Nat) : (s.raiseOut c x n).mgmt = s.mgmt := rfl
@[simp] theorem State.raiseOut_saves (s : State) (c x n : Nat) : (s.raiseOut c x n).saves = s.saves := rfl
@[simp] theorem State.raiseOut_away (s : State) (c x n : Nat) : (s.raiseOut c x n).away = s.away := rfl
@[simp] theorem State.raiseOut_links (s : State) (c x n : Nat) : (s.raiseOut c x n).links = s.links := rfl
@[simp] theorem State.raiseOut_errRing (s : State) (c x n : Nat) : (s.raiseOut c x n).errRing = s.errRing := rfl
@[simp] theorem State.raiseOut_ckpt (s : State) (c x n : Nat) : (s.raiseOut c x n).ckpt = s.ckpt := rfl
@[simp] theorem State.raiseOut_sarSeq (s : State) (c x n : Nat) : (s.raiseOut c x n).sarSeq = s.sarSeq := rfl
@[simp] theorem State.raiseOut_pcie (s : State) (c x n : Nat) : (s.raiseOut c x n).pcie = s.pcie := rfl
@[simp] theorem State.raiseOut_septord (s : State) (c x n : Nat) : (s.raiseOut c x n).septord = s.septord := rfl
@[simp] theorem State.raiseOut_hostq (s : State) (c x n : Nat) : (s.raiseOut c x n).hostq = s.hostq := rfl
@[simp] theorem State.raiseOut_gated (s : State) (c x n : Nat) : (s.raiseOut c x n).gated = s.gated := rfl
@[simp] theorem State.raiseOut_untrained (s : State) (c x n : Nat) : (s.raiseOut c x n).untrained = s.untrained := rfl
@[simp] theorem State.raiseOut_seen (s : State) (c x n : Nat) : (s.raiseOut c x n).seen = s.seen := rfl
@[simp] theorem State.raiseOut_free (s : State) (c x n : Nat) : (s.raiseOut c x n).free = s.free := rfl

@[simp] theorem State.lowerOut_agenda (s : State) (c x n : Nat) : (s.lowerOut c x n).agenda = s.agenda := rfl
@[simp] theorem State.lowerOut_cur (s : State) (c x n : Nat) : (s.lowerOut c x n).cur = s.cur := rfl
@[simp] theorem State.lowerOut_held (s : State) (c x n : Nat) : (s.lowerOut c x n).held = s.held := rfl
@[simp] theorem State.lowerOut_power (s : State) (c x n : Nat) : (s.lowerOut c x n).power = s.power := rfl
@[simp] theorem State.lowerOut_clock (s : State) (c x n : Nat) : (s.lowerOut c x n).clock = s.clock := rfl
@[simp] theorem State.lowerOut_net (s : State) (c x n : Nat) : (s.lowerOut c x n).net = s.net := rfl
@[simp] theorem State.lowerOut_ops (s : State) (c x n : Nat) : (s.lowerOut c x n).ops = s.ops := rfl
@[simp] theorem State.lowerOut_serial (s : State) (c x n : Nat) : (s.lowerOut c x n).serial = s.serial := rfl
@[simp] theorem State.lowerOut_failedAcqs (s : State) (c x n : Nat) : (s.lowerOut c x n).failedAcqs = s.failedAcqs := rfl
@[simp] theorem State.lowerOut_hbm (s : State) (c x n : Nat) : (s.lowerOut c x n).hbm = s.hbm := rfl
@[simp] theorem State.lowerOut_leaving (s : State) (c x n : Nat) : (s.lowerOut c x n).leaving = s.leaving := rfl
@[simp] theorem State.lowerOut_mem (s : State) (c x n : Nat) : (s.lowerOut c x n).mem = s.mem := rfl
@[simp] theorem State.lowerOut_gkeys (s : State) (c x n : Nat) : (s.lowerOut c x n).gkeys = s.gkeys := rfl
@[simp] theorem State.lowerOut_gpoison (s : State) (c x n : Nat) : (s.lowerOut c x n).gpoison = s.gpoison := rfl
@[simp] theorem State.lowerOut_gbad (s : State) (c x n : Nat) : (s.lowerOut c x n).gbad = s.gbad := rfl
@[simp] theorem State.lowerOut_unchecked (s : State) (c x n : Nat) : (s.lowerOut c x n).unchecked = s.unchecked := rfl
@[simp] theorem State.lowerOut_keys (s : State) (c x n : Nat) : (s.lowerOut c x n).keys = s.keys := rfl
@[simp] theorem State.lowerOut_tlb (s : State) (c x n : Nat) : (s.lowerOut c x n).tlb = s.tlb := rfl
@[simp] theorem State.lowerOut_cupboards (s : State) (c x n : Nat) : (s.lowerOut c x n).cupboards = s.cupboards := rfl
@[simp] theorem State.lowerOut_fns (s : State) (c x n : Nat) : (s.lowerOut c x n).fns = s.fns := rfl
@[simp] theorem State.lowerOut_insts (s : State) (c x n : Nat) : (s.lowerOut c x n).insts = s.insts := rfl
@[simp] theorem State.lowerOut_parts (s : State) (c x n : Nat) : (s.lowerOut c x n).parts = s.parts := rfl
@[simp] theorem State.lowerOut_mgmt (s : State) (c x n : Nat) : (s.lowerOut c x n).mgmt = s.mgmt := rfl
@[simp] theorem State.lowerOut_saves (s : State) (c x n : Nat) : (s.lowerOut c x n).saves = s.saves := rfl
@[simp] theorem State.lowerOut_away (s : State) (c x n : Nat) : (s.lowerOut c x n).away = s.away := rfl
@[simp] theorem State.lowerOut_links (s : State) (c x n : Nat) : (s.lowerOut c x n).links = s.links := rfl
@[simp] theorem State.lowerOut_errRing (s : State) (c x n : Nat) : (s.lowerOut c x n).errRing = s.errRing := rfl
@[simp] theorem State.lowerOut_ckpt (s : State) (c x n : Nat) : (s.lowerOut c x n).ckpt = s.ckpt := rfl
@[simp] theorem State.lowerOut_sarSeq (s : State) (c x n : Nat) : (s.lowerOut c x n).sarSeq = s.sarSeq := rfl
@[simp] theorem State.lowerOut_pcie (s : State) (c x n : Nat) : (s.lowerOut c x n).pcie = s.pcie := rfl
@[simp] theorem State.lowerOut_septord (s : State) (c x n : Nat) : (s.lowerOut c x n).septord = s.septord := rfl
@[simp] theorem State.lowerOut_hostq (s : State) (c x n : Nat) : (s.lowerOut c x n).hostq = s.hostq := rfl
@[simp] theorem State.lowerOut_gated (s : State) (c x n : Nat) : (s.lowerOut c x n).gated = s.gated := rfl
@[simp] theorem State.lowerOut_untrained (s : State) (c x n : Nat) : (s.lowerOut c x n).untrained = s.untrained := rfl
@[simp] theorem State.lowerOut_seen (s : State) (c x n : Nat) : (s.lowerOut c x n).seen = s.seen := rfl
@[simp] theorem State.lowerOut_free (s : State) (c x n : Nat) : (s.lowerOut c x n).free = s.free := rfl

@[simp] theorem State.inject_agenda (s : State) (p : Packet) : (s.inject p).agenda = s.agenda := rfl
@[simp] theorem State.inject_cur (s : State) (p : Packet) : (s.inject p).cur = s.cur := rfl
@[simp] theorem State.inject_held (s : State) (p : Packet) : (s.inject p).held = s.held := rfl
@[simp] theorem State.inject_power (s : State) (p : Packet) : (s.inject p).power = s.power := rfl
@[simp] theorem State.inject_clock (s : State) (p : Packet) : (s.inject p).clock = s.clock := rfl
@[simp] theorem State.inject_cells (s : State) (p : Packet) : (s.inject p).cells = s.cells := rfl
@[simp] theorem State.inject_ops (s : State) (p : Packet) : (s.inject p).ops = s.ops := rfl
@[simp] theorem State.inject_serial (s : State) (p : Packet) : (s.inject p).serial = s.serial := rfl
@[simp] theorem State.inject_failedAcqs (s : State) (p : Packet) : (s.inject p).failedAcqs = s.failedAcqs := rfl
@[simp] theorem State.inject_hbm (s : State) (p : Packet) : (s.inject p).hbm = s.hbm := rfl
@[simp] theorem State.inject_leaving (s : State) (p : Packet) : (s.inject p).leaving = s.leaving := rfl
@[simp] theorem State.inject_mem (s : State) (p : Packet) : (s.inject p).mem = s.mem := rfl
@[simp] theorem State.inject_gkeys (s : State) (p : Packet) : (s.inject p).gkeys = s.gkeys := rfl
@[simp] theorem State.inject_gpoison (s : State) (p : Packet) : (s.inject p).gpoison = s.gpoison := rfl
@[simp] theorem State.inject_gbad (s : State) (p : Packet) : (s.inject p).gbad = s.gbad := rfl
@[simp] theorem State.inject_unchecked (s : State) (p : Packet) : (s.inject p).unchecked = s.unchecked := rfl
@[simp] theorem State.inject_keys (s : State) (p : Packet) : (s.inject p).keys = s.keys := rfl
@[simp] theorem State.inject_tlb (s : State) (p : Packet) : (s.inject p).tlb = s.tlb := rfl
@[simp] theorem State.inject_cupboards (s : State) (p : Packet) : (s.inject p).cupboards = s.cupboards := rfl
@[simp] theorem State.inject_fns (s : State) (p : Packet) : (s.inject p).fns = s.fns := rfl
@[simp] theorem State.inject_insts (s : State) (p : Packet) : (s.inject p).insts = s.insts := rfl
@[simp] theorem State.inject_parts (s : State) (p : Packet) : (s.inject p).parts = s.parts := rfl
@[simp] theorem State.inject_mgmt (s : State) (p : Packet) : (s.inject p).mgmt = s.mgmt := rfl
@[simp] theorem State.inject_saves (s : State) (p : Packet) : (s.inject p).saves = s.saves := rfl
@[simp] theorem State.inject_away (s : State) (p : Packet) : (s.inject p).away = s.away := rfl
@[simp] theorem State.inject_links (s : State) (p : Packet) : (s.inject p).links = s.links := rfl
@[simp] theorem State.inject_errRing (s : State) (p : Packet) : (s.inject p).errRing = s.errRing := rfl
@[simp] theorem State.inject_ckpt (s : State) (p : Packet) : (s.inject p).ckpt = s.ckpt := rfl
@[simp] theorem State.inject_sarSeq (s : State) (p : Packet) : (s.inject p).sarSeq = s.sarSeq := rfl
@[simp] theorem State.inject_pcie (s : State) (p : Packet) : (s.inject p).pcie = s.pcie := rfl
@[simp] theorem State.inject_septord (s : State) (p : Packet) : (s.inject p).septord = s.septord := rfl
@[simp] theorem State.inject_hostq (s : State) (p : Packet) : (s.inject p).hostq = s.hostq := rfl
@[simp] theorem State.inject_gated (s : State) (p : Packet) : (s.inject p).gated = s.gated := rfl
@[simp] theorem State.inject_untrained (s : State) (p : Packet) : (s.inject p).untrained = s.untrained := rfl
@[simp] theorem State.inject_seen (s : State) (p : Packet) : (s.inject p).seen = s.seen := rfl
@[simp] theorem State.inject_free (s : State) (p : Packet) : (s.inject p).free = s.free := rfl

@[simp] theorem State.modFn_agenda (s : State) (n : Nat) (f : Fn → Fn) : (s.modFn n f).agenda = s.agenda := rfl
@[simp] theorem State.modFn_cur (s : State) (n : Nat) (f : Fn → Fn) : (s.modFn n f).cur = s.cur := rfl
@[simp] theorem State.modFn_held (s : State) (n : Nat) (f : Fn → Fn) : (s.modFn n f).held = s.held := rfl
@[simp] theorem State.modFn_power (s : State) (n : Nat) (f : Fn → Fn) : (s.modFn n f).power = s.power := rfl
@[simp] theorem State.modFn_clock (s : State) (n : Nat) (f : Fn → Fn) : (s.modFn n f).clock = s.clock := rfl
@[simp] theorem State.modFn_cells (s : State) (n : Nat) (f : Fn → Fn) : (s.modFn n f).cells = s.cells := rfl
@[simp] theorem State.modFn_net (s : State) (n : Nat) (f : Fn → Fn) : (s.modFn n f).net = s.net := rfl
@[simp] theorem State.modFn_ops (s : State) (n : Nat) (f : Fn → Fn) : (s.modFn n f).ops = s.ops := rfl
@[simp] theorem State.modFn_serial (s : State) (n : Nat) (f : Fn → Fn) : (s.modFn n f).serial = s.serial := rfl
@[simp] theorem State.modFn_failedAcqs (s : State) (n : Nat) (f : Fn → Fn) : (s.modFn n f).failedAcqs = s.failedAcqs := rfl
@[simp] theorem State.modFn_hbm (s : State) (n : Nat) (f : Fn → Fn) : (s.modFn n f).hbm = s.hbm := rfl
@[simp] theorem State.modFn_leaving (s : State) (n : Nat) (f : Fn → Fn) : (s.modFn n f).leaving = s.leaving := rfl
@[simp] theorem State.modFn_mem (s : State) (n : Nat) (f : Fn → Fn) : (s.modFn n f).mem = s.mem := rfl
@[simp] theorem State.modFn_gkeys (s : State) (n : Nat) (f : Fn → Fn) : (s.modFn n f).gkeys = s.gkeys := rfl
@[simp] theorem State.modFn_gpoison (s : State) (n : Nat) (f : Fn → Fn) : (s.modFn n f).gpoison = s.gpoison := rfl
@[simp] theorem State.modFn_gbad (s : State) (n : Nat) (f : Fn → Fn) : (s.modFn n f).gbad = s.gbad := rfl
@[simp] theorem State.modFn_unchecked (s : State) (n : Nat) (f : Fn → Fn) : (s.modFn n f).unchecked = s.unchecked := rfl
@[simp] theorem State.modFn_keys (s : State) (n : Nat) (f : Fn → Fn) : (s.modFn n f).keys = s.keys := rfl
@[simp] theorem State.modFn_tlb (s : State) (n : Nat) (f : Fn → Fn) : (s.modFn n f).tlb = s.tlb := rfl
@[simp] theorem State.modFn_cupboards (s : State) (n : Nat) (f : Fn → Fn) : (s.modFn n f).cupboards = s.cupboards := rfl
@[simp] theorem State.modFn_insts (s : State) (n : Nat) (f : Fn → Fn) : (s.modFn n f).insts = s.insts := rfl
@[simp] theorem State.modFn_parts (s : State) (n : Nat) (f : Fn → Fn) : (s.modFn n f).parts = s.parts := rfl
@[simp] theorem State.modFn_mgmt (s : State) (n : Nat) (f : Fn → Fn) : (s.modFn n f).mgmt = s.mgmt := rfl
@[simp] theorem State.modFn_saves (s : State) (n : Nat) (f : Fn → Fn) : (s.modFn n f).saves = s.saves := rfl
@[simp] theorem State.modFn_away (s : State) (n : Nat) (f : Fn → Fn) : (s.modFn n f).away = s.away := rfl
@[simp] theorem State.modFn_links (s : State) (n : Nat) (f : Fn → Fn) : (s.modFn n f).links = s.links := rfl
@[simp] theorem State.modFn_errRing (s : State) (n : Nat) (f : Fn → Fn) : (s.modFn n f).errRing = s.errRing := rfl
@[simp] theorem State.modFn_ckpt (s : State) (n : Nat) (f : Fn → Fn) : (s.modFn n f).ckpt = s.ckpt := rfl
@[simp] theorem State.modFn_sarSeq (s : State) (n : Nat) (f : Fn → Fn) : (s.modFn n f).sarSeq = s.sarSeq := rfl
@[simp] theorem State.modFn_pcie (s : State) (n : Nat) (f : Fn → Fn) : (s.modFn n f).pcie = s.pcie := rfl
@[simp] theorem State.modFn_septord (s : State) (n : Nat) (f : Fn → Fn) : (s.modFn n f).septord = s.septord := rfl
@[simp] theorem State.modFn_hostq (s : State) (n : Nat) (f : Fn → Fn) : (s.modFn n f).hostq = s.hostq := rfl
@[simp] theorem State.modFn_gated (s : State) (n : Nat) (f : Fn → Fn) : (s.modFn n f).gated = s.gated := rfl
@[simp] theorem State.modFn_untrained (s : State) (n : Nat) (f : Fn → Fn) : (s.modFn n f).untrained = s.untrained := rfl
@[simp] theorem State.modFn_seen (s : State) (n : Nat) (f : Fn → Fn) : (s.modFn n f).seen = s.seen := rfl
@[simp] theorem State.modFn_free (s : State) (n : Nat) (f : Fn → Fn) : (s.modFn n f).free = s.free := rfl

@[simp] theorem State.modQ_agenda (s : State) (n q : Nat) (f : Queue → Queue) : (s.modQ n q f).agenda = s.agenda := rfl
@[simp] theorem State.modQ_cur (s : State) (n q : Nat) (f : Queue → Queue) : (s.modQ n q f).cur = s.cur := rfl
@[simp] theorem State.modQ_held (s : State) (n q : Nat) (f : Queue → Queue) : (s.modQ n q f).held = s.held := rfl
@[simp] theorem State.modQ_power (s : State) (n q : Nat) (f : Queue → Queue) : (s.modQ n q f).power = s.power := rfl
@[simp] theorem State.modQ_clock (s : State) (n q : Nat) (f : Queue → Queue) : (s.modQ n q f).clock = s.clock := rfl
@[simp] theorem State.modQ_cells (s : State) (n q : Nat) (f : Queue → Queue) : (s.modQ n q f).cells = s.cells := rfl
@[simp] theorem State.modQ_net (s : State) (n q : Nat) (f : Queue → Queue) : (s.modQ n q f).net = s.net := rfl
@[simp] theorem State.modQ_ops (s : State) (n q : Nat) (f : Queue → Queue) : (s.modQ n q f).ops = s.ops := rfl
@[simp] theorem State.modQ_serial (s : State) (n q : Nat) (f : Queue → Queue) : (s.modQ n q f).serial = s.serial := rfl
@[simp] theorem State.modQ_failedAcqs (s : State) (n q : Nat) (f : Queue → Queue) : (s.modQ n q f).failedAcqs = s.failedAcqs := rfl
@[simp] theorem State.modQ_hbm (s : State) (n q : Nat) (f : Queue → Queue) : (s.modQ n q f).hbm = s.hbm := rfl
@[simp] theorem State.modQ_leaving (s : State) (n q : Nat) (f : Queue → Queue) : (s.modQ n q f).leaving = s.leaving := rfl
@[simp] theorem State.modQ_mem (s : State) (n q : Nat) (f : Queue → Queue) : (s.modQ n q f).mem = s.mem := rfl
@[simp] theorem State.modQ_gkeys (s : State) (n q : Nat) (f : Queue → Queue) : (s.modQ n q f).gkeys = s.gkeys := rfl
@[simp] theorem State.modQ_gpoison (s : State) (n q : Nat) (f : Queue → Queue) : (s.modQ n q f).gpoison = s.gpoison := rfl
@[simp] theorem State.modQ_gbad (s : State) (n q : Nat) (f : Queue → Queue) : (s.modQ n q f).gbad = s.gbad := rfl
@[simp] theorem State.modQ_unchecked (s : State) (n q : Nat) (f : Queue → Queue) : (s.modQ n q f).unchecked = s.unchecked := rfl
@[simp] theorem State.modQ_keys (s : State) (n q : Nat) (f : Queue → Queue) : (s.modQ n q f).keys = s.keys := rfl
@[simp] theorem State.modQ_tlb (s : State) (n q : Nat) (f : Queue → Queue) : (s.modQ n q f).tlb = s.tlb := rfl
@[simp] theorem State.modQ_cupboards (s : State) (n q : Nat) (f : Queue → Queue) : (s.modQ n q f).cupboards = s.cupboards := rfl
@[simp] theorem State.modQ_insts (s : State) (n q : Nat) (f : Queue → Queue) : (s.modQ n q f).insts = s.insts := rfl
@[simp] theorem State.modQ_parts (s : State) (n q : Nat) (f : Queue → Queue) : (s.modQ n q f).parts = s.parts := rfl
@[simp] theorem State.modQ_mgmt (s : State) (n q : Nat) (f : Queue → Queue) : (s.modQ n q f).mgmt = s.mgmt := rfl
@[simp] theorem State.modQ_saves (s : State) (n q : Nat) (f : Queue → Queue) : (s.modQ n q f).saves = s.saves := rfl
@[simp] theorem State.modQ_away (s : State) (n q : Nat) (f : Queue → Queue) : (s.modQ n q f).away = s.away := rfl
@[simp] theorem State.modQ_links (s : State) (n q : Nat) (f : Queue → Queue) : (s.modQ n q f).links = s.links := rfl
@[simp] theorem State.modQ_errRing (s : State) (n q : Nat) (f : Queue → Queue) : (s.modQ n q f).errRing = s.errRing := rfl
@[simp] theorem State.modQ_ckpt (s : State) (n q : Nat) (f : Queue → Queue) : (s.modQ n q f).ckpt = s.ckpt := rfl
@[simp] theorem State.modQ_sarSeq (s : State) (n q : Nat) (f : Queue → Queue) : (s.modQ n q f).sarSeq = s.sarSeq := rfl
@[simp] theorem State.modQ_pcie (s : State) (n q : Nat) (f : Queue → Queue) : (s.modQ n q f).pcie = s.pcie := rfl
@[simp] theorem State.modQ_septord (s : State) (n q : Nat) (f : Queue → Queue) : (s.modQ n q f).septord = s.septord := rfl
@[simp] theorem State.modQ_hostq (s : State) (n q : Nat) (f : Queue → Queue) : (s.modQ n q f).hostq = s.hostq := rfl
@[simp] theorem State.modQ_gated (s : State) (n q : Nat) (f : Queue → Queue) : (s.modQ n q f).gated = s.gated := rfl
@[simp] theorem State.modQ_untrained (s : State) (n q : Nat) (f : Queue → Queue) : (s.modQ n q f).untrained = s.untrained := rfl
@[simp] theorem State.modQ_seen (s : State) (n q : Nat) (f : Queue → Queue) : (s.modQ n q f).seen = s.seen := rfl
@[simp] theorem State.modQ_free (s : State) (n q : Nat) (f : Queue → Queue) : (s.modQ n q f).free = s.free := rfl

@[simp] theorem State.modInst_agenda (s : State) (n id : Nat) (f : Inst → Inst) : (s.modInst n id f).agenda = s.agenda := rfl
@[simp] theorem State.modInst_cur (s : State) (n id : Nat) (f : Inst → Inst) : (s.modInst n id f).cur = s.cur := rfl
@[simp] theorem State.modInst_held (s : State) (n id : Nat) (f : Inst → Inst) : (s.modInst n id f).held = s.held := rfl
@[simp] theorem State.modInst_power (s : State) (n id : Nat) (f : Inst → Inst) : (s.modInst n id f).power = s.power := rfl
@[simp] theorem State.modInst_clock (s : State) (n id : Nat) (f : Inst → Inst) : (s.modInst n id f).clock = s.clock := rfl
@[simp] theorem State.modInst_cells (s : State) (n id : Nat) (f : Inst → Inst) : (s.modInst n id f).cells = s.cells := rfl
@[simp] theorem State.modInst_net (s : State) (n id : Nat) (f : Inst → Inst) : (s.modInst n id f).net = s.net := rfl
@[simp] theorem State.modInst_ops (s : State) (n id : Nat) (f : Inst → Inst) : (s.modInst n id f).ops = s.ops := rfl
@[simp] theorem State.modInst_serial (s : State) (n id : Nat) (f : Inst → Inst) : (s.modInst n id f).serial = s.serial := rfl
@[simp] theorem State.modInst_failedAcqs (s : State) (n id : Nat) (f : Inst → Inst) : (s.modInst n id f).failedAcqs = s.failedAcqs := rfl
@[simp] theorem State.modInst_hbm (s : State) (n id : Nat) (f : Inst → Inst) : (s.modInst n id f).hbm = s.hbm := rfl
@[simp] theorem State.modInst_leaving (s : State) (n id : Nat) (f : Inst → Inst) : (s.modInst n id f).leaving = s.leaving := rfl
@[simp] theorem State.modInst_mem (s : State) (n id : Nat) (f : Inst → Inst) : (s.modInst n id f).mem = s.mem := rfl
@[simp] theorem State.modInst_gkeys (s : State) (n id : Nat) (f : Inst → Inst) : (s.modInst n id f).gkeys = s.gkeys := rfl
@[simp] theorem State.modInst_gpoison (s : State) (n id : Nat) (f : Inst → Inst) : (s.modInst n id f).gpoison = s.gpoison := rfl
@[simp] theorem State.modInst_gbad (s : State) (n id : Nat) (f : Inst → Inst) : (s.modInst n id f).gbad = s.gbad := rfl
@[simp] theorem State.modInst_unchecked (s : State) (n id : Nat) (f : Inst → Inst) : (s.modInst n id f).unchecked = s.unchecked := rfl
@[simp] theorem State.modInst_keys (s : State) (n id : Nat) (f : Inst → Inst) : (s.modInst n id f).keys = s.keys := rfl
@[simp] theorem State.modInst_tlb (s : State) (n id : Nat) (f : Inst → Inst) : (s.modInst n id f).tlb = s.tlb := rfl
@[simp] theorem State.modInst_cupboards (s : State) (n id : Nat) (f : Inst → Inst) : (s.modInst n id f).cupboards = s.cupboards := rfl
@[simp] theorem State.modInst_fns (s : State) (n id : Nat) (f : Inst → Inst) : (s.modInst n id f).fns = s.fns := rfl
@[simp] theorem State.modInst_parts (s : State) (n id : Nat) (f : Inst → Inst) : (s.modInst n id f).parts = s.parts := rfl
@[simp] theorem State.modInst_mgmt (s : State) (n id : Nat) (f : Inst → Inst) : (s.modInst n id f).mgmt = s.mgmt := rfl
@[simp] theorem State.modInst_saves (s : State) (n id : Nat) (f : Inst → Inst) : (s.modInst n id f).saves = s.saves := rfl
@[simp] theorem State.modInst_away (s : State) (n id : Nat) (f : Inst → Inst) : (s.modInst n id f).away = s.away := rfl
@[simp] theorem State.modInst_links (s : State) (n id : Nat) (f : Inst → Inst) : (s.modInst n id f).links = s.links := rfl
@[simp] theorem State.modInst_errRing (s : State) (n id : Nat) (f : Inst → Inst) : (s.modInst n id f).errRing = s.errRing := rfl
@[simp] theorem State.modInst_ckpt (s : State) (n id : Nat) (f : Inst → Inst) : (s.modInst n id f).ckpt = s.ckpt := rfl
@[simp] theorem State.modInst_sarSeq (s : State) (n id : Nat) (f : Inst → Inst) : (s.modInst n id f).sarSeq = s.sarSeq := rfl
@[simp] theorem State.modInst_pcie (s : State) (n id : Nat) (f : Inst → Inst) : (s.modInst n id f).pcie = s.pcie := rfl
@[simp] theorem State.modInst_septord (s : State) (n id : Nat) (f : Inst → Inst) : (s.modInst n id f).septord = s.septord := rfl
@[simp] theorem State.modInst_hostq (s : State) (n id : Nat) (f : Inst → Inst) : (s.modInst n id f).hostq = s.hostq := rfl
@[simp] theorem State.modInst_gated (s : State) (n id : Nat) (f : Inst → Inst) : (s.modInst n id f).gated = s.gated := rfl
@[simp] theorem State.modInst_untrained (s : State) (n id : Nat) (f : Inst → Inst) : (s.modInst n id f).untrained = s.untrained := rfl
@[simp] theorem State.modInst_seen (s : State) (n id : Nat) (f : Inst → Inst) : (s.modInst n id f).seen = s.seen := rfl
@[simp] theorem State.modInst_free (s : State) (n id : Nat) (f : Inst → Inst) : (s.modInst n id f).free = s.free := rfl

@[simp] theorem State.wrBytes_agenda (s : State) (a : Nat) (bs : List Byte) : (s.wrBytes a bs).agenda = s.agenda := rfl
@[simp] theorem State.wrBytes_cur (s : State) (a : Nat) (bs : List Byte) : (s.wrBytes a bs).cur = s.cur := rfl
@[simp] theorem State.wrBytes_held (s : State) (a : Nat) (bs : List Byte) : (s.wrBytes a bs).held = s.held := rfl
@[simp] theorem State.wrBytes_power (s : State) (a : Nat) (bs : List Byte) : (s.wrBytes a bs).power = s.power := rfl
@[simp] theorem State.wrBytes_clock (s : State) (a : Nat) (bs : List Byte) : (s.wrBytes a bs).clock = s.clock := rfl
@[simp] theorem State.wrBytes_cells (s : State) (a : Nat) (bs : List Byte) : (s.wrBytes a bs).cells = s.cells := rfl
@[simp] theorem State.wrBytes_net (s : State) (a : Nat) (bs : List Byte) : (s.wrBytes a bs).net = s.net := rfl
@[simp] theorem State.wrBytes_ops (s : State) (a : Nat) (bs : List Byte) : (s.wrBytes a bs).ops = s.ops := rfl
@[simp] theorem State.wrBytes_serial (s : State) (a : Nat) (bs : List Byte) : (s.wrBytes a bs).serial = s.serial := rfl
@[simp] theorem State.wrBytes_failedAcqs (s : State) (a : Nat) (bs : List Byte) : (s.wrBytes a bs).failedAcqs = s.failedAcqs := rfl
@[simp] theorem State.wrBytes_hbm (s : State) (a : Nat) (bs : List Byte) : (s.wrBytes a bs).hbm = s.hbm := rfl
@[simp] theorem State.wrBytes_leaving (s : State) (a : Nat) (bs : List Byte) : (s.wrBytes a bs).leaving = s.leaving := rfl
@[simp] theorem State.wrBytes_gkeys (s : State) (a : Nat) (bs : List Byte) : (s.wrBytes a bs).gkeys = s.gkeys := rfl
@[simp] theorem State.wrBytes_gpoison (s : State) (a : Nat) (bs : List Byte) : (s.wrBytes a bs).gpoison = s.gpoison := rfl
@[simp] theorem State.wrBytes_gbad (s : State) (a : Nat) (bs : List Byte) : (s.wrBytes a bs).gbad = s.gbad := rfl
@[simp] theorem State.wrBytes_unchecked (s : State) (a : Nat) (bs : List Byte) : (s.wrBytes a bs).unchecked = s.unchecked := rfl
@[simp] theorem State.wrBytes_keys (s : State) (a : Nat) (bs : List Byte) : (s.wrBytes a bs).keys = s.keys := rfl
@[simp] theorem State.wrBytes_tlb (s : State) (a : Nat) (bs : List Byte) : (s.wrBytes a bs).tlb = s.tlb := rfl
@[simp] theorem State.wrBytes_cupboards (s : State) (a : Nat) (bs : List Byte) : (s.wrBytes a bs).cupboards = s.cupboards := rfl
@[simp] theorem State.wrBytes_fns (s : State) (a : Nat) (bs : List Byte) : (s.wrBytes a bs).fns = s.fns := rfl
@[simp] theorem State.wrBytes_insts (s : State) (a : Nat) (bs : List Byte) : (s.wrBytes a bs).insts = s.insts := rfl
@[simp] theorem State.wrBytes_parts (s : State) (a : Nat) (bs : List Byte) : (s.wrBytes a bs).parts = s.parts := rfl
@[simp] theorem State.wrBytes_mgmt (s : State) (a : Nat) (bs : List Byte) : (s.wrBytes a bs).mgmt = s.mgmt := rfl
@[simp] theorem State.wrBytes_saves (s : State) (a : Nat) (bs : List Byte) : (s.wrBytes a bs).saves = s.saves := rfl
@[simp] theorem State.wrBytes_away (s : State) (a : Nat) (bs : List Byte) : (s.wrBytes a bs).away = s.away := rfl
@[simp] theorem State.wrBytes_links (s : State) (a : Nat) (bs : List Byte) : (s.wrBytes a bs).links = s.links := rfl
@[simp] theorem State.wrBytes_errRing (s : State) (a : Nat) (bs : List Byte) : (s.wrBytes a bs).errRing = s.errRing := rfl
@[simp] theorem State.wrBytes_ckpt (s : State) (a : Nat) (bs : List Byte) : (s.wrBytes a bs).ckpt = s.ckpt := rfl
@[simp] theorem State.wrBytes_sarSeq (s : State) (a : Nat) (bs : List Byte) : (s.wrBytes a bs).sarSeq = s.sarSeq := rfl
@[simp] theorem State.wrBytes_pcie (s : State) (a : Nat) (bs : List Byte) : (s.wrBytes a bs).pcie = s.pcie := rfl
@[simp] theorem State.wrBytes_septord (s : State) (a : Nat) (bs : List Byte) : (s.wrBytes a bs).septord = s.septord := rfl
@[simp] theorem State.wrBytes_hostq (s : State) (a : Nat) (bs : List Byte) : (s.wrBytes a bs).hostq = s.hostq := rfl
@[simp] theorem State.wrBytes_gated (s : State) (a : Nat) (bs : List Byte) : (s.wrBytes a bs).gated = s.gated := rfl
@[simp] theorem State.wrBytes_untrained (s : State) (a : Nat) (bs : List Byte) : (s.wrBytes a bs).untrained = s.untrained := rfl
@[simp] theorem State.wrBytes_seen (s : State) (a : Nat) (bs : List Byte) : (s.wrBytes a bs).seen = s.seen := rfl
@[simp] theorem State.wrBytes_free (s : State) (a : Nat) (bs : List Byte) : (s.wrBytes a bs).free = s.free := rfl

/-! ## Cells, contexts, the lane -/

@[simp] theorem State.cell_modCell (s : State) (c : Nat) (f : Cell → Cell) : (s.modCell c f).cell c = f (s.cell c) := by
  simp [State.modCell, State.cell]

@[simp] theorem State.cell_modCell_other (s : State) (c d : Nat) (f : Cell → Cell) (h : d ≠ c) : (s.modCell c f).cell d = s.cell d := by
  simp [State.modCell, State.cell, h]

@[simp] theorem Cell.cx_modCx (c : Cell) (x : Nat) (f : Ctx → Ctx) : (c.modCx x f).cx x = f (c.cx x) := by
  simp [Cell.modCx, Cell.cx]

@[simp] theorem Cell.cx_modCx_other (c : Cell) (x y : Nat) (f : Ctx → Ctx) (h : y ≠ x) : (c.modCx x f).cx y = c.cx y := by
  simp [Cell.modCx, Cell.cx, h]

@[simp] theorem State.cx_modCx (s : State) (c x : Nat) (f : Ctx → Ctx) : (s.modCx c x f).cx c x = f (s.cx c x) := by
  simp [State.modCx, State.cx]

@[simp] theorem State.cx_modCx_other (s : State) (c d x y : Nat) (f : Ctx → Ctx) (h : ¬(d = c ∧ y = x)) :
    (s.modCx c x f).cx d y = s.cx d y := by
  by_cases hd : d = c
  · subst hd; have : y ≠ x := fun e => h ⟨rfl, e⟩
    simp [State.modCx, State.cx, this]
  · simp [State.modCx, State.cx, hd]

@[simp] theorem State.lane_modLane (s : State) (f : Lane → Lane) : (s.modLane f).lane = f s.lane := by
  simp [State.modLane, State.lane, State.modCell, State.cell]

@[simp] theorem State.cx_modLane (s : State) (f : Lane → Lane) (c x : Nat) : (s.modLane f).cx c x = s.cx c x := by
  by_cases hc : c = s.cur
  · subst hc; simp [State.modLane, State.cx, Cell.cx]
  · simp [State.modLane, State.cx, hc]

@[simp] theorem State.lane_modCx (s : State) (c x : Nat) (f : Ctx → Ctx) : (s.modCx c x f).lane = s.lane := by
  by_cases hc : s.cur = c
  · subst hc; simp [State.modCx, State.lane, Cell.modCx, State.modCell, State.cell]
  · simp [State.modCx, State.lane, State.modCell, State.cell, hc]

/-! ## Registers (R156) -/

@[simp] theorem Regs.get_zero (r : Regs) : r.get 0#4 = 0 := rfl

@[simp] theorem Regs.set_zero (r : Regs) (v : Word) : r.set 0#4 v = r := rfl

@[simp] theorem Regs.pred_zero (r : Regs) : r.pred 0#3 = true := rfl

@[simp] theorem Regs.setPred_zero (r : Regs) (v : Bool) : r.setPred 0#3 v = r := rfl

theorem Regs.get_eq (r : Regs) (n : BitVec 4) (h : n ≠ 0#4) : r.get n = r.x[n.toNat] := if_neg h

theorem Regs.set_eq (r : Regs) (n : BitVec 4) (v : Word) (h : n ≠ 0#4) : r.set n v = { r with x := r.x.set n.toNat v } := if_neg h

theorem Regs.pred_eq (r : Regs) (n : BitVec 3) (h : n ≠ 0#3) : r.pred n = r.p[n.toNat] := if_neg h

theorem Regs.setPred_eq (r : Regs) (n : BitVec 3) (v : Bool) (h : n ≠ 0#3) : r.setPred n v = { r with p := r.p.set n.toNat v } :=
  if_neg h

@[simp] theorem Regs.get_set (r : Regs) (n : BitVec 4) (v : Word) (h : n ≠ 0#4) : (r.set n v).get n = v := by
  rw [Regs.get_eq _ _ h, Regs.set_eq _ _ _ h]; exact Vector.getElem_set_self _

@[simp] theorem Regs.get_set_other (r : Regs) (n m : BitVec 4) (v : Word) (h : m ≠ n) : (r.set n v).get m = r.get m := by
  have hv : n.toNat ≠ m.toNat := fun e => h (BitVec.eq_of_toNat_eq e.symm)
  by_cases hm : m = 0
  · rw [hm]; rfl
  by_cases hn : n = 0
  · rw [hn]; rfl
  rw [Regs.get_eq _ _ hm, Regs.get_eq _ _ hm, Regs.set_eq _ _ _ hn]
  exact Vector.getElem_set_ne n.isLt m.isLt hv

@[simp] theorem Regs.pred_setPred (r : Regs) (n : BitVec 3) (v : Bool) (h : n ≠ 0#3) : (r.setPred n v).pred n = v := by
  rw [Regs.pred_eq _ _ h, Regs.setPred_eq _ _ _ h]; exact Vector.getElem_set_self _

@[simp] theorem Regs.pred_setPred_other (r : Regs) (n m : BitVec 3) (v : Bool) (h : m ≠ n) : (r.setPred n v).pred m = r.pred m := by
  have hv : n.toNat ≠ m.toNat := fun e => h (BitVec.eq_of_toNat_eq e.symm)
  by_cases hm : m = 0
  · rw [hm]; rfl
  by_cases hn : n = 0
  · rw [hn]; rfl
  rw [Regs.pred_eq _ _ hm, Regs.pred_eq _ _ hm, Regs.setPred_eq _ _ _ hn]
  exact Vector.getElem_set_ne n.isLt m.isLt hv

@[simp] theorem Regs.get_setPred (r : Regs) (n : BitVec 3) (m : BitVec 4) (v : Bool) : (r.setPred n v).get m = r.get m := by
  unfold Regs.setPred; split <;> rfl

@[simp] theorem Regs.pred_set (r : Regs) (n : BitVec 4) (m : BitVec 3) (v : Word) : (r.set n v).pred m = r.pred m := by
  unfold Regs.set; split <;> rfl

theorem State.setX_eq (s : State) (n : BitVec 4) (v : Word) : s.setX n v = s.modLane fun l => { l with regs := l.regs.set n v } := rfl

theorem State.setP_eq (s : State) (n : BitVec 3) (v : Bool) : s.setP n v = s.modLane fun l => { l with regs := l.regs.setPred n v } := rfl

@[simp] theorem State.x_setX (s : State) (n : BitVec 4) (v : Word) (h : n ≠ 0#4) : (s.setX n v).x n = v := by
  simp [State.x, State.setX_eq, h]

@[simp] theorem State.x_setX_other (s : State) (n m : BitVec 4) (v : Word) (h : m ≠ n) : (s.setX n v).x m = s.x m := by
  simp [State.x, State.setX_eq, h]

@[simp] theorem State.pr_setX (s : State) (n : BitVec 4) (m : BitVec 3) (v : Word) : (s.setX n v).pr m = s.pr m := by
  simp [State.pr, State.setX_eq]

@[simp] theorem State.x_setP (s : State) (n : BitVec 3) (m : BitVec 4) (v : Bool) : (s.setP n v).x m = s.x m := by
  simp [State.x, State.setP_eq]

@[simp] theorem State.pr_setP (s : State) (n : BitVec 3) (v : Bool) (h : n ≠ 0#3) : (s.setP n v).pr n = v := by
  simp [State.pr, State.setP_eq, h]

@[simp] theorem State.pr_setP_other (s : State) (n m : BitVec 3) (v : Bool) (h : m ≠ n) : (s.setP n v).pr m = s.pr m := by
  simp [State.pr, State.setP_eq, h]

@[simp] theorem State.fir_setX (s : State) (n : BitVec 4) (v : Word) : (s.setX n v).fir = s.fir := by
  simp [State.fir, State.setX_eq]

@[simp] theorem State.fir_setP (s : State) (n : BitVec 3) (v : Bool) : (s.setP n v).fir = s.fir := by
  simp [State.fir, State.setP_eq]

@[simp] theorem State.cx_setX (s : State) (n : BitVec 4) (v : Word) (c x : Nat) : (s.setX n v).cx c x = s.cx c x := by
  simp [State.setX_eq]

@[simp] theorem State.cx_setP (s : State) (n : BitVec 3) (v : Bool) (c x : Nat) : (s.setP n v).cx c x = s.cx c x := by
  simp [State.setP_eq]

/-- Flags touch nothing of the lane. -/
@[simp] theorem State.lane_flag (s : State) (fl : BitVec 7) : (s.flag fl).lane = s.lane := by
  unfold State.flag State.orFlags; split <;> simp

@[simp] theorem State.cur_flag (s : State) (fl : BitVec 7) : (s.flag fl).cur = s.cur := by
  unfold State.flag State.orFlags; split <;> simp

@[simp] theorem State.flag_zero (s : State) : s.flag 0 = s := by simp [State.flag, State.orFlags]

@[simp] theorem State.x_flag (s : State) (fl : BitVec 7) (n : BitVec 4) : (s.flag fl).x n = s.x n := by simp [State.x]

@[simp] theorem State.fir_flag (s : State) (fl : BitVec 7) : (s.flag fl).fir = s.fir := by simp [State.fir]

/-! ## Instances, functions, queues -/

@[simp] theorem State.fn_modFn (s : State) (n : Nat) (f : Fn → Fn) : (s.modFn n f).fn n = f (s.fn n) := by
  simp [State.modFn, State.fn]

@[simp] theorem State.fn_modFn_other (s : State) (n m : Nat) (f : Fn → Fn) (h : m ≠ n) : (s.modFn n f).fn m = s.fn m := by
  simp [State.modFn, State.fn, h]

@[simp] theorem State.queue_modQ (s : State) (n q : Nat) (f : Queue → Queue) : (s.modQ n q f).queue n q = f (s.queue n q) := by
  simp [State.modQ, State.queue]

end Sys2Proof.Machine
end

