-- ==== Sys2Proof/Laws/Lane.lean ====
section
/-! SUPPORT. What the shared operations of the lane do, said once: the guard, the advance to the next word, a
result written to a register or predicate. -/

namespace Sys2Proof.Machine

/-- The guard of a format A word is the rule's (R138). -/
theorem guard_eq_holds (s : State) (g : BitVec 4) : s.guard g = Ref.holds s g := by
  have h : g.extractLsb' 0 3 = g.setWidth 3 := by apply BitVec.eq_of_getLsbD_eq; intro i hi; simp [hi]
  simp [State.guard, Ref.holds, h]

/-- The next word, or the end of the firing where no frame waits for it. -/
theorem step1_eq (u : State) (h : u.plain) : u.step1 = u.modLane fun _ => u.laneAfter u.lane.regs := by
  unfold State.step1 State.goto
  by_cases ha : u.fir.hdr + u.fhdr.length < u.fir.ia + 1
  · have hl : u.atLast = true := by simp [State.atLast, ha]
    have hf := h hl
    simp only [State.fhdr] at ha
    simp only [ha, if_true, State.endFiring, hf, List.foldl_nil, State.laneAfter, hl]
  · have hl : u.atLast = false := by simp [State.atLast]; omega
    simp only [State.fhdr] at ha
    simp only [ha, if_false, State.laneAfter, hl, Bool.false_eq_true]
    rfl

/-- Cells changed twice at one place hold the second change of the first. -/
theorem modCell_cells (s : State) (c : Nat) (f : Cell → Cell) : { s.modCell c f with cells := s.cells } = s := rfl

/-- Flags ORed leave all but the control registers of their context (R133). -/
theorem flag_spec (s : State) (fl : BitVec 7) :
    OnlyCell s (s.flag fl) ∧ { (s.flag fl).cell s.cur with ctxs := (s.cell s.cur).ctxs } = s.cell s.cur ∧
      (s.flag fl).cx s.cur s.fir.ctx = { s.fcx with ctl := { s.fcx.ctl with flags := s.fcx.ctl.flags ||| fl } } ∧
      ∀ x, x ≠ s.fir.ctx → (s.flag fl).cx s.cur x = s.cx s.cur x := by
  unfold State.flag State.orFlags
  split
  · next h => subst h; exact ⟨⟨rfl, fun _ _ => rfl⟩, rfl, by simp [State.fcx], fun _ _ => rfl⟩
  · refine ⟨⟨rfl, fun c hc => ?_⟩, ?_, ?_, fun x hx => ?_⟩
    · simp [State.modCx, hc]
    · simp [State.modCx, Cell.modCx]
    · simp [State.fcx]
    · simp [hx]

/-- A result of a lane instruction: registers changed by `f`, flags ORed, the lane gone on. -/
theorem regsOnly_step (s : State) (fl : BitVec 7) (f : Regs → Regs) (hp : s.plain) :
    RegsOnly s (f s.lane.regs) fl (((s.flag fl).modLane fun l => { l with regs := f l.regs }).step1) := by
  obtain ⟨hc, h1, h2, h3⟩ := flag_spec s fl
  generalize hu : s.flag fl = u at hc h1 h2 h3
  have hlane : u.lane = s.lane := by rw [← hu]; simp
  have hcur : u.cur = s.cur := by rw [← hu]; simp
  have hfir : u.fir = s.fir := by simp [State.fir, hlane]
  have himg : u.fcx.image = s.fcx.image := by
    have := congrArg Ctx.image h2; simpa [State.fcx, hcur, hfir] using this
  let v := u.modLane fun l => { l with regs := f l.regs }
  have vlane : v.lane = { s.lane with regs := f s.lane.regs } := by simp [v, hlane]
  have vfir : v.fir = s.fir := by simp [State.fir, vlane]
  have vimg : v.fcx.image = s.fcx.image := by
    have : v.fcx = u.fcx := by simp [v, State.fcx, State.fir]
    rw [this, himg]
  have vlast : v.atLast = s.atLast := by simp [State.atLast, State.fhdr, vfir, vimg]
  have vplain : v.plain := fun h => by rw [vlane]; exact hp (vlast ▸ h)
  have vafter : v.laneAfter v.lane.regs = s.laneAfter (f s.lane.regs) := by
    simp [State.laneAfter, vlast, vlane, vfir]
  have hstep := step1_eq v vplain
  rw [vafter] at hstep
  have vcur : v.cur = s.cur := by simp [v, hcur]
  have hcell : ∀ c, v.step1.cell c = if c = s.cur then { u.cell s.cur with lane := s.laneAfter (f s.lane.regs) } else s.cell c := by
    intro c
    rw [hstep]
    by_cases h : c = s.cur
    · subst h; simp [State.modLane, v, hcur]
    · rw [if_neg h]; simp [State.modLane, v, hcur, h, hc.others c h]
  have hrest : { v.step1 with cells := s.cells } = s := by rw [hstep]; exact hc.rest
  show RegsOnly s (f s.lane.regs) fl v.step1
  refine ⟨⟨hrest, fun c h => by simp [hcell, h]⟩, ?_, ?_, fun x hx => ?_⟩
  · rw [hcell]; simp only [if_true]
    have := congrArg (fun d : Cell => { d with lane := s.laneAfter (f s.lane.regs) }) h1
    simpa using this
  · simp only [State.cx, hcell, if_true]; exact h2
  · simp only [State.cx, hcell, if_true]; exact h3 x hx

/-- A register result (R156, R157). -/
theorem regsOnly_write (s : State) (d : BitVec 4) (v : Word) (fl : BitVec 7) (hp : s.plain) :
    RegsOnly s (s.lane.regs.set d v) fl (s.write d v fl) := regsOnly_step s fl (·.set d v) hp

/-- A predicate result (R156, R157). -/
theorem regsOnly_writeP (s : State) (d : BitVec 3) (v : Bool) (fl : BitVec 7) (hp : s.plain) :
    RegsOnly s (s.lane.regs.setPred d v) fl (s.writeP d v fl) := regsOnly_step s fl (·.setPred d v) hp

/-- The lane only goes on. -/
theorem regsOnly_step1 (s : State) (hp : s.plain) : RegsOnly s s.lane.regs 0 s.step1 := by
  have h := step1_eq s hp
  refine ⟨⟨by rw [h]; rfl, fun c hc => by rw [h]; simp [State.modLane, hc]⟩, ?_, ?_, fun x hx => ?_⟩
  · rw [h]; simp [State.modLane]
  · rw [h]; simp [State.fcx]
  · rw [h]; simp

/-- A guarded operation whose guard holds. -/
theorem guarded_on (s : State) (g : BitVec 4) (f : State → State) (h : Ref.holds s g = true) : s.guarded g f = f s := by
  simp [State.guarded, guard_eq_holds, h]

/-- A guarded operation whose guard does not hold (R138). -/
theorem guarded_off (s : State) (g : BitVec 4) (f : State → State) (h : Ref.holds s g = false) : s.guarded g f = s.step1 := by
  simp [State.guarded, guard_eq_holds, h]

end Sys2Proof.Machine
end

