-- ==== Sys2Proof/Laws/Ops.lean ====
section
/-! SUPPORT. What the shared operations do, said once for each: flags and counters, sending, operations that leave,
slots written by the machine, packets taken off the network, the free of a frame. -/

namespace Sys2Proof.Machine

/-- A part of the state that no turn of a fold changes is as before. -/
theorem foldl_keeps {α β γ : Type} (π : β → γ) (f : β → α → β) (h : ∀ b a, π (f b a) = π b) (l : List α) (b : β) :
    π (l.foldl f b) = π b := by
  induction l generalizing b with
  | nil => rfl
  | cons a l ih => rw [List.foldl_cons, ih, h]

/-- Cells read the same in states with the same cells. -/
theorem State.cell_congr {s t : State} (h : s.cells = t.cells) (c : Nat) : s.cell c = t.cell c := by unfold State.cell; rw [h]

/-- Contexts read the same in states with the same cells. -/
theorem State.cx_congr {s t : State} (h : s.cells = t.cells) (c x : Nat) : s.cx c x = t.cx c x := by
  unfold State.cx; rw [State.cell_congr h]

/-- A cell whose contexts changed keeps its other parts; here its slots. -/
@[simp] theorem Cell.modCx_slots (c : Cell) (x : Nat) (f : Ctx → Ctx) : (c.modCx x f).slots = c.slots := rfl
@[simp] theorem Cell.modCx_lane (c : Cell) (x : Nat) (f : Ctx → Ctx) : (c.modCx x f).lane = c.lane := rfl
@[simp] theorem Cell.modCx_ready (c : Cell) (x : Nat) (f : Ctx → Ctx) : (c.modCx x f).ready = c.ready := rfl
@[simp] theorem Cell.modCx_recs (c : Cell) (x : Nat) (f : Ctx → Ctx) : (c.modCx x f).recs = c.recs := rfl
@[simp] theorem Cell.modCx_heap (c : Cell) (x : Nat) (f : Ctx → Ctx) : (c.modCx x f).heap = c.heap := rfl
@[simp] theorem Cell.modCx_ports (c : Cell) (x : Nat) (f : Ctx → Ctx) : (c.modCx x f).ports = c.ports := rfl
@[simp] theorem Cell.modCx_matrix (c : Cell) (x : Nat) (f : Ctx → Ctx) : (c.modCx x f).matrix = c.matrix := rfl
@[simp] theorem Cell.modCx_reducer (c : Cell) (x : Nat) (f : Ctx → Ctx) : (c.modCx x f).reducer = c.reducer := rfl
@[simp] theorem Cell.modCx_vec (c : Cell) (x : Nat) (f : Ctx → Ctx) : (c.modCx x f).vec = c.vec := rfl
@[simp] theorem Cell.modCx_barriers (c : Cell) (x : Nat) (f : Ctx → Ctx) : (c.modCx x f).barriers = c.barriers := rfl
@[simp] theorem Cell.modCx_wakes (c : Cell) (x : Nat) (f : Ctx → Ctx) : (c.modCx x f).wakes = c.wakes := rfl
@[simp] theorem Cell.modCx_perf (c : Cell) (x : Nat) (f : Ctx → Ctx) : (c.modCx x f).perf = c.perf := rfl

/-! ## Flags and counters (R57, R133) -/

@[simp] theorem State.cell_lowerOut (s : State) (c x n : Nat) :
    (s.lowerOut c x n).cell c = (s.cell c).modCx x fun k => { k with outstanding := k.outstanding - n } := by
  simp [State.lowerOut, State.modCx]

@[simp] theorem State.cx_lowerOut (s : State) (c x n : Nat) :
    (s.lowerOut c x n).cx c x = { s.cx c x with outstanding := (s.cx c x).outstanding - n } := by simp [State.lowerOut]

@[simp] theorem State.cell_raiseOut (s : State) (c x n : Nat) :
    (s.raiseOut c x n).cell c = (s.cell c).modCx x fun k => { k with outstanding := k.outstanding + n } := by
  simp [State.raiseOut, State.modCx]

@[simp] theorem State.cx_raiseOut (s : State) (c x n : Nat) :
    (s.raiseOut c x n).cx c x = { s.cx c x with outstanding := (s.cx c x).outstanding + n } := by simp [State.raiseOut]

/-- ORing flags changes the flags of that context and nothing else. -/
theorem State.orFlags_spec (s : State) (c x : Nat) (fl : BitVec 7) :
    { s.orFlags c x fl with cells := s.cells } = s ∧ { (s.orFlags c x fl).cell c with ctxs := (s.cell c).ctxs } = s.cell c ∧
    (∀ d, d ≠ c → (s.orFlags c x fl).cell d = s.cell d) ∧
    (s.orFlags c x fl).cx c x = { s.cx c x with ctl := { (s.cx c x).ctl with flags := (s.cx c x).ctl.flags ||| fl } } ∧
    (∀ y, y ≠ x → (s.orFlags c x fl).cx c y = s.cx c y) := by
  unfold State.orFlags
  split
  · rename_i h; subst h; simp
  · refine ⟨rfl, by simp [State.modCx]; rfl, fun d hd => by simp [State.modCx, hd], by simp, fun y hy => by simp [hy]⟩

/-! ## Sending (R22, R57, R305) -/

/-- A control token to another vcell, or to the return continuation: the context's counter rises and one packet
stands at the end of the network. -/
theorem State.sendAs_spec (s : State) (c : Nat) (t : Token) (a : Option Nat) :
    ∃ p : Packet, s.sendAs c t a = (s.raiseOut c (ctxOf t.cont) 1).inject p ∧ p.src = c ∧ p.ctx = ctxOf t.cont ∧ p.also = a ∧
      (isReturn t.cont = true → p.vn = 4 ∧ p.dst = Config.frontEnd ∧ p.body = .ret t) ∧
      (isReturn t.cont = false → p.vn = 0 ∧ p.body = .token t ∧ p.dst = (s.cx c (ctxOf t.cont)).place.getD (vcellOf t.cont) 0) := by
  unfold State.sendAs
  split
  · rename_i h; exact ⟨_, rfl, rfl, rfl, rfl, fun _ => ⟨rfl, rfl, rfl⟩, fun g => by simp [h] at g⟩
  · rename_i h; exact ⟨_, rfl, rfl, rfl, rfl, fun g => by simp [h] at g, fun _ => ⟨rfl, rfl, by simp⟩⟩

/-- A packet that is sent stands at the end of the network, in its sender's class and not yet on a path; one within a cell is there. -/
@[simp] theorem State.inject_net (s : State) (p : Packet) :
    (s.inject p).net = s.net ++ [{ p with
    committed := p.committed || p.src == p.dst
    born := s.ac (onMesh p.src)
    part := s.partNo (if isAttached p.src then p.dst else p.src)
    flits := Nat.max p.flits p.body.flits
    hops := if onMesh p.src = onMesh p.dst && !isAttached p.src && !isAttached p.dst then some [] else none }] := rfl

/-! ## Operations that leave (R91, R326) -/

@[simp] theorem State.returnShadows_cells (s : State) (o : MemOp) : (s.returnShadows o).cells = s.cells := by
  unfold State.returnShadows; apply foldl_keeps State.cells; intros; rfl
@[simp] theorem State.returnShadows_ops (s : State) (o : MemOp) : (s.returnShadows o).ops = s.ops := by
  unfold State.returnShadows; apply foldl_keeps State.ops; intros; rfl
@[simp] theorem State.returnShadows_net (s : State) (o : MemOp) : (s.returnShadows o).net = s.net := by
  unfold State.returnShadows; apply foldl_keeps State.net; intros; rfl
@[simp] theorem State.returnShadows_hbm (s : State) (o : MemOp) : (s.returnShadows o).hbm = s.hbm := by
  unfold State.returnShadows; apply foldl_keeps State.hbm; intros; rfl
@[simp] theorem State.returnShadows_insts (s : State) (o : MemOp) : (s.returnShadows o).insts = s.insts := by
  unfold State.returnShadows; apply foldl_keeps State.insts; intros; rfl
@[simp] theorem State.returnShadows_clock (s : State) (o : MemOp) : (s.returnShadows o).clock = s.clock := by
  unfold State.returnShadows; apply foldl_keeps State.clock; intros; rfl

/-- An operation that holds no unnamed shadow page gives none back. -/
theorem State.returnShadows_none (s : State) (o : MemOp) (h : ∀ p ∈ o.pieces, ∀ g, p.xl = .shadow g → p.done = true) :
    s.returnShadows o = s := by
  unfold State.returnShadows
  dsimp only
  rw [show List.filterMap _ o.pieces = [] from List.filterMap_eq_nil_iff.mpr (fun p hp => by cases hx : p.xl <;> simp_all)]
  rfl

@[simp] theorem State.dropOps_ops (s : State) (p : MemOp → Bool) : (s.dropOps p).ops = s.ops.filter fun o => !p o :=
  foldl_keeps State.ops _ State.returnShadows_ops _ _
@[simp] theorem State.dropOps_cells (s : State) (p : MemOp → Bool) : (s.dropOps p).cells = s.cells :=
  foldl_keeps State.cells _ State.returnShadows_cells _ _
@[simp] theorem State.dropOps_net (s : State) (p : MemOp → Bool) : (s.dropOps p).net = s.net :=
  foldl_keeps State.net _ State.returnShadows_net _ _
@[simp] theorem State.dropOps_hbm (s : State) (p : MemOp → Bool) : (s.dropOps p).hbm = s.hbm :=
  foldl_keeps State.hbm _ State.returnShadows_hbm _ _
@[simp] theorem State.dropOps_insts (s : State) (p : MemOp → Bool) : (s.dropOps p).insts = s.insts :=
  foldl_keeps State.insts _ State.returnShadows_insts _ _
@[simp] theorem State.dropOps_clock (s : State) (p : MemOp → Bool) : (s.dropOps p).clock = s.clock :=
  foldl_keeps State.clock _ State.returnShadows_clock _ _
@[simp] theorem State.cell_dropOps (s : State) (p : MemOp → Bool) (c : Nat) : (s.dropOps p).cell c = s.cell c :=
  State.cell_congr (State.dropOps_cells s p) c
@[simp] theorem State.cx_dropOps (s : State) (p : MemOp → Bool) (c x : Nat) : (s.dropOps p).cx c x = s.cx c x :=
  State.cx_congr (State.dropOps_cells s p) c x

/-! ## Slots (R39, R40) -/

/-- A slot on which nothing waits is written. -/
theorem State.writeSlot_plain (s : State) (c k : Nat) (v : Word) (h : isDeferred (s.slot c k) = false) :
    s.writeSlot c k v = s.setSlot c k (some (.full v)) := by
  unfold State.writeSlot
  split
  · rename_i q; rw [q] at h; cases h
  · rfl

/-- A slot written while a firing waits on it: the value stands in the slot and in the firing's record, and the firing
is ready at the tail of its class. -/
theorem State.writeSlot_deferred (s : State) (c k : Nat) (v : Word) (a b p g key : Nat) (q : SuspRec)
    (h : s.slot c k = some (.deferred a b p g)) (hq : (s.cell c).waiter k = some (key, q)) :
    s.writeSlot c k v = ((s.setSlot c k (some (.full v))).modCell c fun d =>
      { d with recs := d.recs.put key { q with value := some v } }).pushReady c p (.resumed key) := by
  have : ((s.setSlot c k (some (.full v))).cell c).waiter k = some (key, q) := by
    rw [← hq]; unfold State.setSlot; rw [State.cell_modCell]; rfl
  unfold State.writeSlot
  rw [h]; simp only [this]

/-- The machine's write to a slot of a live frame (R39). -/
theorem State.writeFrameSlot_live (s : State) (w : Issuer) (k : Nat) (v : Word) (f : Frame)
    (h : (s.cx w.cell w.ctx).frames.get? w.base = some f) (hk : k < w.base + clsSlots f.cls) :
    s.writeFrameSlot w k v = (s.writeSlot w.cell k v).touch w.cell k := by
  unfold State.writeFrameSlot; rw [h]; exact if_neg (by omega)

/-- The machine's write to a slot of a frame that is freed (R34, R190). -/
theorem State.writeFrameSlot_freed (s : State) (w : Issuer) (k : Nat) (v : Word)
    (h : (s.cx w.cell w.ctx).frames.get? w.base = none) : s.writeFrameSlot w k v = s.opFault w .frameFree 0 0 := by
  unfold State.writeFrameSlot; rw [h]

/-! ## Packets (R26, R57) -/

/-- Taking a packet off the network and accepting it changes the network and counters of contexts only. -/
theorem State.accepted_spec (s : State) (p : Packet) :
    { s.accepted p with cells := s.cells } = s ∧
    (∀ c, { (s.accepted p).cell c with ctxs := (s.cell c).ctxs } = s.cell c) ∧
    (∀ c x, { (s.accepted p).cx c x with outstanding := (s.cx c x).outstanding } = s.cx c x) := by
  have low : ∀ (u : State) (c x n : Nat), { u.lowerOut c x n with cells := u.cells } = u ∧
      (∀ d, { (u.lowerOut c x n).cell d with ctxs := (u.cell d).ctxs } = u.cell d) ∧
      (∀ d y, { (u.lowerOut c x n).cx d y with outstanding := (u.cx d y).outstanding } = u.cx d y) := by
    intro u c x n
    refine ⟨rfl, fun d => ?_, fun d y => ?_⟩
    · by_cases hd : d = c
      · subst hd; simp; rfl
      · simp [State.lowerOut, State.modCx, hd]
    · by_cases h : d = c ∧ y = x
      · obtain ⟨rfl, rfl⟩ := h; simp
      · simp [State.lowerOut, h]
  have two : ∀ (u : State), ({ u with cells := s.cells } = s ∧ (∀ d, { u.cell d with ctxs := (s.cell d).ctxs } = s.cell d) ∧
      (∀ d y, { u.cx d y with outstanding := (s.cx d y).outstanding } = s.cx d y)) → ∀ c x n,
      { u.lowerOut c x n with cells := s.cells } = s ∧ (∀ d, { (u.lowerOut c x n).cell d with ctxs := (s.cell d).ctxs } = s.cell d) ∧
      (∀ d y, { (u.lowerOut c x n).cx d y with outstanding := (s.cx d y).outstanding } = s.cx d y) := by
    intro u hu c x n
    obtain ⟨h1, h2, h3⟩ := low u c x n
    refine ⟨?_, fun d => ?_, fun d y => ?_⟩
    · exact Eq.trans (congrArg (fun q : State => { q with cells := s.cells }) h1) hu.1
    · exact Eq.trans (congrArg (fun q : Cell => { q with ctxs := (s.cell d).ctxs }) (h2 d)) (hu.2.1 d)
    · exact Eq.trans (congrArg (fun q : Ctx => { q with outstanding := (s.cx d y).outstanding }) (h3 d y)) (hu.2.2 d y)
  have one : ∀ b : Bool, { (if b then s.lowerOut p.src p.ctx 1 else s) with cells := s.cells } = s ∧
      (∀ d, { (if b then s.lowerOut p.src p.ctx 1 else s).cell d with ctxs := (s.cell d).ctxs } = s.cell d) ∧
      (∀ d y, { (if b then s.lowerOut p.src p.ctx 1 else s).cx d y with outstanding := (s.cx d y).outstanding } = s.cx d y) := by
    intro b
    cases b
    · exact ⟨rfl, fun _ => rfl, fun _ _ => rfl⟩
    · exact low s p.src p.ctx 1
  unfold State.accepted
  cases p.also with
  | none => exact one _
  | some c => exact two _ (one _) c p.ctx 1

/-! ## Frames (R35, R59) -/

/-- A level with no waiting request is served nothing. -/
theorem State.serveLevel_empty (s : State) (c x level n : Nat) (h : ((s.cx c x).pools.getD level {}).queue = []) :
    s.serveLevel c x level n = s := by
  cases n with
  | zero => rfl
  | succ n => unfold State.serveLevel; simp only [h]

/-- Without waiting requests a free serves no level. -/
theorem State.serveLevels_empty (s : State) (c x : Nat) (h : ∀ l, ((s.cx c x).pools.getD l {}).queue = []) :
    s.serveLevels c x = s := by
  simp [State.serveLevels, State.serveLevel_empty, h]

/-- The end of a firing for which no free waits empties its lane and nothing else. -/
theorem State.endFiring_plain (s : State) (h : s.lane.frees = []) : s.endFiring = s.modLane fun _ => {} := by
  simp [State.endFiring, h]

/-! ## Faults (R323, R325) -/

/-- A fault of a region that has failed is discarded. -/
theorem State.take_failed (s : State) (r : Raise) (h0 : regionOf r.tag ≠ 0)
    (h : (s.cx r.cell r.ctx).regions.get? (regionOf r.tag) = some .failed) : s.take r = s := by
  simp [State.take, h0, h]

/-- A fault outside a region is delivered to the cell's CTL_FAULTC for the context. -/
theorem State.take_outside (s : State) (r : Raise) (h0 : regionOf r.tag = 0) :
    s.take r = s.deliverTo r (s.cx r.cell r.ctx).ctl.faultc [] := by
  simp [State.take, h0]

/-! ## Operations counted as cancelled (R326) -/

/-- Counting an operation changes nothing but instances. -/
theorem State.countLost_insts (s : State) (c x : Nat) (tag : Word) (n : Nat) :
    s.countLost c x tag n = { s with insts := (s.countLost c x tag n).insts } := by
  unfold State.countLost
  dsimp only
  split
  · split <;> rfl
  · rfl

@[simp] theorem State.countLost_cells (s : State) (c x : Nat) (tag : Word) (n : Nat) : (s.countLost c x tag n).cells = s.cells := by
  rw [State.countLost_insts]
@[simp] theorem State.countLost_net (s : State) (c x : Nat) (tag : Word) (n : Nat) : (s.countLost c x tag n).net = s.net := by
  rw [State.countLost_insts]
@[simp] theorem State.countLost_ops (s : State) (c x : Nat) (tag : Word) (n : Nat) : (s.countLost c x tag n).ops = s.ops := by
  rw [State.countLost_insts]
@[simp] theorem State.countLost_hbm (s : State) (c x : Nat) (tag : Word) (n : Nat) : (s.countLost c x tag n).hbm = s.hbm := by
  rw [State.countLost_insts]

/-- Outside every region nothing is counted. -/
theorem State.countLost_none (s : State) (c x : Nat) (tag : Word) (n : Nat) (h : regionOf tag = 0) : s.countLost c x tag n = s := by
  simp [State.countLost, h]

/-- An instance changed by a map that keeps its function and id is found changed. -/
theorem State.modInst_inst? (s : State) (f id : Nat) (g : Inst → Inst) (i : Inst) (h : s.inst? f id = some i)
    (keep : ∀ j, (g j).fn = j.fn ∧ (g j).id = j.id) : (s.modInst f id g).inst? f id = some (g i) := by
  unfold State.inst? State.modInst at *
  dsimp only
  generalize s.insts = l at h ⊢
  induction l with
  | nil => simp at h
  | cons a l ih =>
    rw [List.map_cons, List.find?_cons]
    rw [List.find?_cons] at h
    by_cases k : (a.fn == f && a.id == id) = true
    · simp only [k] at h
      obtain rfl := Option.some.inj h
      simp only [k, if_true]
      rw [(keep a).1, (keep a).2, k]
    · simp only [k] at h
      rw [if_neg k]
      simp only [k]
      exact ih h

/-- An operation of an open region that a cell counts stands in the region's count. -/
theorem State.countLost_counts (s : State) (c x : Nat) (tag : Word) (n : Nat) (i : Inst) (q : Region) (hr : regionOf tag ≠ 0)
    (ho : (s.cx c x).regions.get? (regionOf tag) = some .opened) (hi : s.instAt c x = some i) (hf : s.inst? i.fn i.id = some i)
    (hq : i.regions.get? (regionOf tag) = some q) :
    ∃ j, (s.countLost c x tag n).inst? i.fn i.id = some j ∧
      j.regions.get? (regionOf tag) = some { q with cancelled := q.cancelled + n } := by
  unfold State.countLost
  have hb : (regionOf tag != 0 && (s.cx c x).regions.get? (regionOf tag) == some .opened) = true := by simp [hr, ho]
  simp only [hb, if_true, hi]
  refine ⟨_, s.modInst_inst? i.fn i.id _ i hf (fun j => ?_), ?_⟩
  · split <;> exact ⟨rfl, rfl⟩
  · simp [hq]

end Sys2Proof.Machine
end

