-- ==== Sys2Proof/Laws/Net.lean ====
section
/-! SUPPORT. What a change of one operation, a packet that a memory port sends, and a packet that an agent takes in leave (R13, R79, R343),
said once for each. -/

namespace Sys2Proof.Machine

/-! ## One operation changed -/

@[simp] theorem State.modOp_cells (s : State) (id : Nat) (f : MemOp → MemOp) : (s.modOp id f).cells = s.cells := rfl
@[simp] theorem State.modOp_net (s : State) (id : Nat) (f : MemOp → MemOp) : (s.modOp id f).net = s.net := rfl
@[simp] theorem State.modOp_hbm (s : State) (id : Nat) (f : MemOp → MemOp) : (s.modOp id f).hbm = s.hbm := rfl
@[simp] theorem State.modOp_mem (s : State) (id : Nat) (f : MemOp → MemOp) : (s.modOp id f).mem = s.mem := rfl
@[simp] theorem State.modOp_gkeys (s : State) (id : Nat) (f : MemOp → MemOp) : (s.modOp id f).gkeys = s.gkeys := rfl
@[simp] theorem State.modOp_keys (s : State) (id : Nat) (f : MemOp → MemOp) : (s.modOp id f).keys = s.keys := rfl
@[simp] theorem State.modOp_fns (s : State) (id : Nat) (f : MemOp → MemOp) : (s.modOp id f).fns = s.fns := rfl
@[simp] theorem State.modOp_insts (s : State) (id : Nat) (f : MemOp → MemOp) : (s.modOp id f).insts = s.insts := rfl
@[simp] theorem State.modOp_parts (s : State) (id : Nat) (f : MemOp → MemOp) : (s.modOp id f).parts = s.parts := rfl
@[simp] theorem State.modOp_clock (s : State) (id : Nat) (f : MemOp → MemOp) : (s.modOp id f).clock = s.clock := rfl
@[simp] theorem State.modOp_links (s : State) (id : Nat) (f : MemOp → MemOp) : (s.modOp id f).links = s.links := rfl
@[simp] theorem State.modOp_agenda (s : State) (id : Nat) (f : MemOp → MemOp) : (s.modOp id f).agenda = s.agenda := rfl
@[simp] theorem State.modOp_serial (s : State) (id : Nat) (f : MemOp → MemOp) : (s.modOp id f).serial = s.serial := rfl
@[simp] theorem State.modOp_free (s : State) (id : Nat) (f : MemOp → MemOp) : (s.modOp id f).free = s.free := rfl

@[simp] theorem State.modOp_ops (s : State) (id : Nat) (f : MemOp → MemOp) :
    (s.modOp id f).ops = s.ops.map fun o => if o.id = id then f o else o := rfl

/-- The operation changed is found changed, where the change keeps its name. -/
theorem State.modOp_op? (s : State) (id : Nat) (f : MemOp → MemOp) (h : ∀ o, (f o).id = o.id) : (s.modOp id f).op? id = (s.op? id).map f := by
  unfold State.op?
  rw [State.modOp_ops]
  induction s.ops with
  | nil => rfl
  | cons o os ih => by_cases e : o.id = id <;> simp [e, h, ih]

/-- Every other operation is found as it was. -/
theorem State.modOp_other (s : State) (id k : Nat) (f : MemOp → MemOp) (h : ∀ o, (f o).id = o.id) (hk : k ≠ id) :
    (s.modOp id f).op? k = s.op? k := by
  unfold State.op?
  rw [State.modOp_ops]
  induction s.ops with
  | nil => rfl
  | cons o os ih =>
    by_cases e : o.id = id
    · simp [e, h, ih, Ne.symm hk]
    · simp [e, ih, List.find?_cons]

/-- One piece of an operation changed. -/
theorem State.modPiece_op? (s : State) (id k : Nat) (f : Piece → Piece) :
    (s.modPiece id k f).op? id = (s.op? id).map fun o => { o with pieces := listMod o.pieces k f } :=
  s.modOp_op? id _ fun _ => rfl

@[simp] theorem State.modPiece_cells (s : State) (id k : Nat) (f : Piece → Piece) : (s.modPiece id k f).cells = s.cells := rfl
@[simp] theorem State.modPiece_net (s : State) (id k : Nat) (f : Piece → Piece) : (s.modPiece id k f).net = s.net := rfl
@[simp] theorem State.modPiece_hbm (s : State) (id k : Nat) (f : Piece → Piece) : (s.modPiece id k f).hbm = s.hbm := rfl
@[simp] theorem State.modPiece_mem (s : State) (id k : Nat) (f : Piece → Piece) : (s.modPiece id k f).mem = s.mem := rfl
@[simp] theorem State.modPiece_gkeys (s : State) (id k : Nat) (f : Piece → Piece) : (s.modPiece id k f).gkeys = s.gkeys := rfl
@[simp] theorem State.modPiece_keys (s : State) (id k : Nat) (f : Piece → Piece) : (s.modPiece id k f).keys = s.keys := rfl
@[simp] theorem State.modPiece_fns (s : State) (id k : Nat) (f : Piece → Piece) : (s.modPiece id k f).fns = s.fns := rfl
@[simp] theorem State.modPiece_insts (s : State) (id k : Nat) (f : Piece → Piece) : (s.modPiece id k f).insts = s.insts := rfl
@[simp] theorem State.modPiece_parts (s : State) (id k : Nat) (f : Piece → Piece) : (s.modPiece id k f).parts = s.parts := rfl
@[simp] theorem State.modPiece_clock (s : State) (id k : Nat) (f : Piece → Piece) : (s.modPiece id k f).clock = s.clock := rfl
@[simp] theorem State.modPiece_links (s : State) (id k : Nat) (f : Piece → Piece) : (s.modPiece id k f).links = s.links := rfl
@[simp] theorem State.modPiece_agenda (s : State) (id k : Nat) (f : Piece → Piece) : (s.modPiece id k f).agenda = s.agenda := rfl
@[simp] theorem State.modPiece_serial (s : State) (id k : Nat) (f : Piece → Piece) : (s.modPiece id k f).serial = s.serial := rfl
@[simp] theorem State.modPiece_free (s : State) (id k : Nat) (f : Piece → Piece) : (s.modPiece id k f).free = s.free := rfl

/-! ## What is sent and taken in -/

/-- The request of a piece leaves: its operation has it on its way, and the network one packet more (R79). -/
theorem State.sendRequest_spec (s : State) (o : MemOp) (k : Nat) (p : Piece) (a b : Nat) :
    (s.sendRequest o k p a b).op? o.id = ((s.op? o.id).map fun q => { q with pieces := listMod q.pieces k fun _ => { p with asked := .sent } }) ∧
      (∃ q, (s.sendRequest o k p a b).net = s.net ++ [q] ∧ q.body = .request o.id k o.who ∧ q.src = a ∧ q.dst = b ∧ q.vn = 2) ∧
      (s.sendRequest o k p a b).cells = s.cells ∧ (s.sendRequest o k p a b).hbm = s.hbm ∧ (s.sendRequest o k p a b).mem = s.mem :=
  ⟨s.modPiece_op? o.id k _, ⟨_, rfl, rfl, rfl, rfl, rfl⟩, rfl, rfl, rfl⟩

/-- An answer leaves on virtual network 3 for the cell of its operation (R343). -/
theorem State.sendAnswer_spec (s : State) (a : Nat) (o : MemOp) (k n : Nat) (b : Bool) (cs : List (Option (BitVec 16))) :
    (∃ q, (s.sendAnswer a o k n b cs).net = s.net ++ [q] ∧ q.body = .answer o.id k o.who ∧ q.src = a ∧ q.dst = o.who.cell ∧ q.vn = 3) ∧
      (s.sendAnswer a o k n b cs).ops = s.ops ∧ (s.sendAnswer a o k n b cs).cells = s.cells :=
  ⟨⟨_, rfl, rfl, rfl, rfl, rfl⟩, rfl, rfl⟩

/-- A message leaves for a stack whose die is not cut off (R79, R82, R87, R88). -/
theorem State.sendMessage_spec (s : State) (o : MemOp) (st : Nat) (b : Payload) (h : s.unreached o st = none) :
    (∃ q, (s.sendMessage o st b).net = s.net ++ [q] ∧ q.body = b ∧ q.src = o.who.cell ∧ q.dst = stackPort o.who.cell st ∧ q.vn = 2) ∧
      (s.sendMessage o st b).ops = s.ops ∧ (s.sendMessage o st b).cells = s.cells := by
  unfold State.sendMessage; rw [h]; exact ⟨⟨_, rfl, rfl, rfl, rfl, rfl⟩, rfl, rfl⟩

/-- A request that has come to where it is performed stands there. -/
theorem State.requestHere_op? (s : State) (id k : Nat) :
    (s.requestHere id k).op? id = (s.op? id).map fun o => { o with pieces := listMod o.pieces k fun p => { p with asked := .there } } :=
  s.modPiece_op? id k _

/-- An acknowledgement that has come back is counted for its stack. -/
theorem State.acknowledged_op? (s : State) (id st : Nat) :
    (s.acknowledged id st).op? id = (s.op? id).map fun o => { o with acked := o.acked ||| one16 st } :=
  s.modOp_op? id _ fun _ => rfl

/-- What has not come to its agent, or stands behind another packet of its pair, is not taken in (R26). -/
theorem State.takeIn_waits (s : State) (n : Nat) (p : Packet) (h : p.arrived = false ∨ s.oldest n p = false) : s.takeIn n p = s := by
  unfold State.takeIn; rcases h with h | h <;> simp [h]

/-- Anything but an answer waits while answers stand at its agent (R343). -/
theorem State.takeIn_drains (s : State) (n : Nat) (p : Packet) (h : p.vn ≠ 3) (hd : s.drains p.dst = true) : s.takeIn n p = s := by
  unfold State.takeIn; simp [h, hd]

/-- A packet of whose flits one came in wrong crosses nothing until that is asked for again (R341). -/
theorem State.cross_hurt (s : State) (n : Nat) (p : Packet) (h : Hop) (rest : List Hop) (hp : p.hurt.isSome = true) : s.cross n p h rest = s := by
  unfold State.cross; simp [hp]

/-- Nothing crosses a ring link while it trains again (R348). -/
theorem State.cross_retraining (s : State) (n : Nat) (p : Packet) (d : Nat) (cw : Bool) (rest : List Hop)
    (h : s.links.ringAt (ringLink d cw) = .retraining) : s.cross n p (.ring d cw) rest = s := by
  unfold State.cross; simp [h]

end Sys2Proof.Machine
end

