-- ==== Sys2Proof/Tests/Slice0.lean ====
section
/-! SUPPORT. Tests of the model, each about one step on a small state, with results worked out by hand from the
rules; and, for the statements of Obligations.lean, states and operands that meet their hypotheses. -/

namespace Sys2Proof.Tests

set_option maxRecDepth 20000
set_option Elab.async false

open Sys2Proof Sys2Proof.Machine

/-! ## A small module -/

/-- The registers with some values. -/
def regs (l : List (BitVec 4 × Word)) : Regs := l.foldl (fun r e => r.set e.1 e.2) {}

/-- A codelet at 1 of 8 words and 4 destinations (20 port 1; the same with fsel; 20 port 0; 21), a dyadic codelet with
match slot 5 at 20, a monadic one at 23, and a dyadic one whose match slot lies outside a frame of 64 at 26. -/
def image : List IWord := [0, 8 * 2 ^ 10 + 4 * 2 ^ 4] ++ List.replicate 8 0 ++ [41 + 0x8029 * 2 ^ 16, 40 + 42 * 2 ^ 16] ++
  List.replicate 8 0 ++ [2 ^ 30 + 5 * 2 ^ 18 + 2 ^ 10, 0, 0, 2 ^ 10, 0, 0, 2 ^ 30 + 64 * 2 ^ 18 + 2 ^ 10, 0, 0]

/-- Context 1 of vcell 0: a frame of 64 slots at 64, a reserved one at 192. -/
def ctx1 : Ctx := {
  inst := some (3, 7)
  part := 2
  tenant := 9
  place := [4, 5]
  image := image
  areaSize := 256
  frames := [(64, { cls := 2 })]
  pools := [(0, { cls := 2, max := 4, places := [192], live := 1 })]
  log := 0x20000 }

/-- Instance 7 of function 3. -/
def inst7 : Inst := { fn := 3, id := 7, part := 2, ctx := 1, place := [4, 5], phase := .running, started := true }

/-- A firing at the first word of the codelet at 1. -/
def fir1 : Firing := { ctx := 1, tag := 0x500000000, base := 64, hdr := 1, ia := 2, prio := 1, serial := 8 }

/-- Cells 4 and 5 run vcells 0 and 1 of the instance; the lane of cell 4 holds the firing. -/
def demo (l : List (BitVec 4 × Word)) : State := {
  cells := [(4, { lane := { busy := true, fir := fir1, regs := regs l }, ctxs := [(1, ctx1)] }),
            (5, { ctxs := [(1, { ctx1 with vcell := 1 })] })]
  cur := 4
  insts := [inst7]
  serial := 9 }

/-- An instruction answers a next state with a property. -/
def leaves (i : Instr) (s : State) (p : State → Bool) : Bool :=
  match exec i s with
  | .next t => p t
  | .fault _ => false
  | .refused _ => false

/-- An instruction leaves the registers at `r`, ORs flags, lets the lane go on and changes nothing else. -/
def gives (i : Instr) (s : State) (r : Regs) (fl : BitVec 7) : Bool :=
  leaves i s fun t => t == s.modCell s.cur fun c => { c with
    lane := s.laneAfter r
    ctxs := c.ctxs.put s.fir.ctx { s.fcx with ctl := { s.fcx.ctl with flags := s.fcx.ctl.flags ||| fl } } }

/-- A continuation of vcell `v`, frame 64, codelet 20, of class 2. -/
def contTo (v port : Nat) : Word := mkCont v 1 64 20 port 2

/-- An instruction takes its exception, with one detail word. -/
def faults (i : Instr) (s : State) (c : FaultCode) (d : Word) : Bool := leaves i s fun t => t == s.raise c d 0

/-! ## Words and decode checks -/

/-- Words written out field by field from R136, R141, R142 and the entries' modifier bits. -/
theorem test_decode_lane : ([
    (0x15123506, .sel 1 2 3 5 6), (0x1C1200FF, .shfi 1 2 3 63), (0x29120385, .fcvt 1 2 3 8 5), (0x3A12ABC5, .join 1 2 0xABC 5),
    (0x37123479, .swch 1 2 0x34 true 3 9), (0x381020D3, .falloc 1 2 true 5 3), (0x44120301, .tinfo 1 2 3 1),
    (0x46123314, .hst 1 2 3 true 8 true 4), (0x51123004, .stg 1 2 3 4), (0x53123456, .amo 1 2 0x345 6), (0x54003012, .rel 3 true 2),
    (0x55102003, .acq 1 2 3), (0x60123014, .bars 1 2 3 true 4), (0x62102003, .watch 1 2 3), (0x64500600, .time 5 6),
    (0x70120300, .cropen 1 2 3), (0x73100217, .mfc 1 2 0x17), (0x7510020F, .scrubrd 1 2 15), (0x7710021B, .perf 1 2 0x1B),
    (0x81102013, .tstore 1 2 true 3), (0x88102023, .mwld 1 2 true false 3), (0x91102013, .rfeed 1 2 true 3),
    (0x98123004, .vrun 1 2 3 4)] : List (IWord × Instr)).all (fun e => decode e.1 == some e.2 && encode e.2 == some e.1) = true := by
  decide +kernel

theorem test_decode_vector : ([
    (0xC0923456, .vloop 2 0x1234 0x56), (0xC2188000, .vld 3 2), (0xC3094180, .vst true 5 6), (0xC808871C, .vadd 1 2 3 4 1 true true),
    (0xD408872B, .vcmp 1 2 3 4 2 11), (0xD808871C, .vfma 1 2 3 4 1 12), (0xE5088718, .vcvt 1 2 3 4 true 8), (0xE6088013, .vpack 1 2 1 3),
    (0xEA089910, .vred 1 2 3 4 1 0), (0xEF508719, .vbfly 5 2 3 4 1 9), (0xF0088118, .vtwid 1 2 4 24), (0xF2088020, .vmset 1 2 2),
    (0xF3088606, .vmlog 1 2 3 6), (0xF4000000, .vend)] : List (IWord × Instr)).all
    (fun e => decode e.1 == some e.2 && encode e.2 == some e.1) = true := by decide +kernel

/-- A term that each decode check refuses. -/
theorem test_ill_formed : ([.add 1 2 3 0 false true false, .sub 1 2 3 0 false true false, .mul 1 2 3 0 false true false, .cmp 1 2 3 0 12,
    .cmpi 1 2 15 0, .fadd 1 2 3 0 1 true, .fsqrt 1 2 0 12 true, .fcvt 1 2 0 7 0, .fcmp 1 2 3 0 8 true, .send 1 2 3 false 1 0,
    .sendd 1 2 3 false 1 0, .swch 1 2 3 false 1 0, .mkc 1 2 0 true 0, .mkc 1 0 2 true 0, .brf 0 0, .tnew 1 2 0 15, .tinfo 1 2 0 2,
    .hst 1 2 3 true 0 false 0, .hst 1 2 3 false 5 true 0, .bars 1 2 0 false 0, .watch 1 0 0, .mfc 1 0 5, .mtc 1 0 13, .qpost 1 0 0, .perf 1 0 5,
    .vloop 3 1 1, .vloop 0 1 0, .vloop 0 0x2008 1, .vmovs 1 2 3 3, .vadd 1 2 3 0 3 false false, .vadd 1 2 3 0 0 false true,
    .vand 1 2 3 0 3, .vcmp 1 2 3 0 0 12, .vfadd 1 2 3 0 3 0, .vfadd 1 2 3 0 0 13, .vfcmp 1 2 3 0 0 8, .vcvt 1 2 20 0 false 0,
    .vcvt 1 2 5 0 true 0, .vpack 1 2 3 0, .vunpk 1 2 0 2, .vbscl 1 2 3 0 3, .vqnt 1 2 3 0 0 1, .vred 1 2 1 0 0 8, .vscan 1 2 0 0 3 0,
    .vbfly 1 2 3 0 2 0, .vtwid 1 2 0 25, .vcmul 1 2 3 0 2 0] : List Instr).all (fun i => !i.wf) = true := by decide +kernel

/-- Words that R140 or R143 refuses, and the opcode table's numbering. -/
theorem test_refused_words : [0x01123002, 0x2B000000, 0xC1000000, 0x73100005, 0xF4000001].map (fun w => decode w) = List.replicate 5 none ∧
    laneInstr 0xF4000000 = .illegalOp 0xF4000000 ∧ decodeTableWord 32 0x01123500 = some (.add 1 2 3 5 false false false) := by decide +kernel

/-! ## Integer and float instructions -/

/-- x1 = -1, x2 = 2, x3 = 2^31, x4 = the smallest integer, x5 = 0x1234, x8 = EXTR's descriptor of 8 bits from 4, signed. -/
def ints : State := demo [(1, -1), (2, 2), (3, 0x80000000), (4, 0x8000000000000000), (5, 0x1234), (6, 7), (8, 0x8804)]

theorem test_arith_all : ([
    (.add 9 1 2 0 false false false, 1), (.add 9 3 3 0 false false true, 0), (.sub 9 2 1 0 false false false, 3),
    (.mul 9 1 2 0 false false false, -2), (.mul 9 3 2 0 false false true, 0), (.and 9 1 5 0 false, 0x1234), (.or 9 3 2 0 true, 0xFFFFFFFF80000002),
    (.xor 9 1 2 0 false, 0xFFFFFFFFFFFFFFFD), (.andn 9 1 5 0 false, 0xFFFFFFFFFFFFEDCB), (.shl 9 2 1 0 false, 0),
    (.shl 9 2 1 0 true, 0), (.shr 9 1 2 0 true, 0x3FFFFFFF), (.sra 9 4 2 0 false, 0xE000000000000000), (.rol 9 4 2 0 false, 2),
    (.add 0 1 2 0 false false false, 1)] : List (Instr × Word)).all (fun e => match Ref.arith ints e.1 with
      | some (g, d, v) => v == e.2 && Ref.holds ints g && gives e.1 ints (ints.lane.regs.set d e.2) 0
      | none => false) = true ∧ ints.atLast = false := by decide +kernel

theorem test_saturate : ([
    (.add 9 4 1 0 true false false, 0x8000000000000000, 32), (.add 9 1 2 0 true true false, 0xFFFFFFFFFFFFFFFF, 32),
    (.sub 9 4 2 0 true false false, 0x8000000000000000, 32), (.sub 9 5 2 0 true false false, 0x1232, 0),
    (.mul 9 3 3 0 true false true, 0x7FFFFFFF, 32), (.sub 9 2 5 0 true true true, 0, 32)] : List (Instr × Word × BitVec 7)).all
    (fun e => match Ref.satArith ints e.1 with
      | some (g, d, v, fl) => v == e.2.1 && fl == e.2.2 && Ref.holds ints g && gives e.1 ints (ints.lane.regs.set d v) fl
      | none => false) = true := by decide +kernel

theorem test_divide : ([
    (.div 9 4 1 0 false false, 0x8000000000000000, 0), (.div 9 6 0 0 false false, -1, 2), (.rem 9 6 0 0 false false, 7, 2),
    (.div 9 1 6 0 false false, 0, 0), (.rem 9 1 6 0 false false, -1, 0), (.rem 9 1 6 0 true false, 1, 0),
    (.rem 9 4 1 0 false false, 0, 0)] : List (Instr × Word × BitVec 7)).all
    (fun e => match Ref.divide ints e.1 with
      | some (g, d, v, fl) => v == e.2.1 && fl == e.2.2 && Ref.holds ints g && gives e.1 ints (ints.lane.regs.set d v) fl
      | none => false) = true := by decide +kernel

theorem test_bitfield : ([
    (.mulh 9 1 1 0 false, 0), (.mulh 9 1 1 0 true, 0xFFFFFFFFFFFFFFFE), (.min 9 1 2 0 false false, -1), (.min 9 1 2 0 true false, 2),
    (.max 9 1 2 0 false false, 2), (.clz 9 0 0, 64), (.clz 9 3 0, 32), (.popc 9 5 0, 5), (.extr 9 5 8 0, 0x23),
    (.ins 5 1 8 0, 0x1FF4), (.sel 9 1 2 0 1, 2), (.sel 9 1 2 0 0, -1)] : List (Instr × Word)).all (fun e => match Ref.bitwise ints e.1 with
      | some (g, d, v) => v == e.2 && Ref.holds ints g && gives e.1 ints (ints.lane.regs.set d e.2) 0
      | none => false) = true := by decide +kernel

/-- The whole register file after a predicate write. -/
def predSet (s : State) (d : BitVec 3) (v : Bool) : Regs := s.lane.regs.setPred d v

theorem test_compare : ([
    (.cmp 1 1 2 0 2, true), (.cmp 2 1 2 0 4, false), (.cmpi 3 1 0 0xFFF, true), (.cmpi 0 1 1 0, true), (.plog 4 0 5 0 4, true),
    (.plog 4 0 5 0 8, false), (.cmp 5 2 6 0 10, true), (.cmp 6 4 1 8 8, true)] : List (Instr × Bool)).all
    (fun e => match Ref.compare ints e.1 with
      | some (g, d, v) => v == e.2 && (Ref.holds ints g && gives e.1 ints (predSet ints d v) 0 || g == 8 && Ref.off ints e.1)
      | none => false) = true := by decide +kernel

theorem test_immediate : ([
    (.addi 9 6 0xFFFF, 6), (.andi 9 1 0x8001, 0x8001), (.ori 9 4 0xFFFF, 0x800000000000FFFF), (.xori 9 6 7, 0), (.shfi 9 4 2 63, -1),
    (.shfi 9 4 3 1, 1), (.shfi 9 2 0 63, 0), (.movi 9 0xFFFF, 0xFFFF), (.movk 1 3 0, 0x0000FFFFFFFFFFFF)] : List (Instr × Word)).all
    (fun e => match Ref.immediate ints e.1 with
      | some (d, v) => v == e.2 && gives e.1 ints (ints.lane.regs.set d v) 0
      | none => false) = true ∧ gives (.nop 8) ints ints.lane.regs 0 = true := by decide +kernel

/-- A guard of p0 negated never holds: an instruction of each guarded kind is off. -/
theorem test_guarded_off : ([.add 9 1 2 8 false false false, .cmp 1 1 2 8 0, .fadd 9 1 2 8 0 true, .fld 9 0 3 false 1, .send 1 0 0 false 0 8,
    .tnew 9 1 8 12, .rel 0 false 8, .bars 1 2 3 false 8, .mtc 1 8 8, .tload 1 2 8, .vrun 1 2 3 8, .qpost 1 2 8] : List Instr).all
    (fun i => i.wf && Ref.off ints i && gives i ints ints.lane.regs 0) = true ∧ ints.lane.resume = none := by decide +kernel

/-- A firing at the last word of its body: the lane is free after it (R43). -/
def atEnd : State := ints.modLane fun l => { l with fir := { l.fir with ia := 9 } }

theorem test_last_word_ends : atEnd.atLast = true ∧ atEnd.lane.frees = [] ∧ leaves (.movi 9 1) atEnd (fun t => t.lane == {}) = true := by
  decide +kernel

/-- FP64: x1 = 1.0, x2 = 3.0, x3 = -0, x4 = infinity, x5 = a signalling NaN, x6 = 0.1; FP32 in x7 = 1.5, x8 = 2^-149. -/
def floats : State := demo [(1, 0x3FF0000000000000), (2, 0x4008000000000000), (3, 0x8000000000000000), (4, 0x7FF0000000000000),
  (5, 0x7FF0000000000001), (6, 0x3FB999999999999A), (7, 0x3FC00000), (8, 1)]

theorem test_float : ([
    (.fadd 9 1 2 0 0 true, 0x4010000000000000, 0), (.fsub 9 1 2 0 0 true, 0xC000000000000000, 0), (.fmul 9 2 2 0 0 true, 0x4022000000000000, 0),
    (.fdiv 9 1 2 0 0 true, 0x3FD5555555555555, 16), (.fdiv 9 1 2 0 10 true, 0x3FD5555555555556, 16), (.fdiv 9 1 3 0 0 true, 0xFFF0000000000000, 2),
    (.fma 1 1 2 0 0 true, 0x4010000000000000, 0), (.fsqrt 9 2 0 0 true, 0x3FFBB67AE8584CAA, 16), (.fmin 9 1 2 0 0 true, 0x3FF0000000000000, 0),
    (.fmax 9 1 2 0 0 true, 0x4008000000000000, 0), (.fclass 9 3 0 true, 8, 0), (.fcvt 9 1 0 0 1, 0x3F800000, 0)] : List (Instr × Word × BitVec 7)).map
    (fun e => leaves e.1 floats fun t => t.x (match e.1 with | .fma d _ _ _ _ _ => d | _ => 9) == e.2.1 && t.fcx.ctl.flags == e.2.2) =
    List.replicate 12 true := by decide +kernel

theorem test_float_compare : gives (.fcmp 1 1 2 0 2 true) floats (predSet floats 1 true) 0 = true ∧
    gives (.fcmp 1 5 2 0 2 true) floats (predSet floats 1 false) 1 = true ∧ gives (.fcmp 1 7 8 0 4 false) floats (predSet floats 1 true) 0 = true ∧
    gives (.fadd 9 5 1 0 0 true) floats (floats.lane.regs.set 9 0x7FF8000000000000) 1 = true ∧ floats.fcx.ctl.rmode = 0 := by decide +kernel

/-- Bits that meet the cases of special operands and of the order: NaN, infinities, zeros, finite numbers. -/
theorem test_float_special_operands : Ref.isNan fp64 0x7FF0000000000001 = true ∧ Ref.isInf fp64 0xFFF0000000000000 = true ∧
    Ref.neg fp64 0xFFF0000000000000 = true ∧ Ref.isInf fp64 0x7FF0000000000000 = true ∧ Ref.isZero fp64 (2 ^ 63) = true ∧
    Ref.isZero fp32 0 = true ∧ Ref.isNan fp32 0x3F800000 = false ∧ Ref.isInf fp32 0x3F800000 = false ∧ Ref.neg fp32 0xBF800000 = true ∧
    Ref.key fp32 0xBF800000 < Ref.key fp32 0x3F800000 ∧ fp32.sqrt 0 0 0xBF800000 = (fp32.nanBits, 1) ∧
    fp32.div 0 0 0x3F800000 (2 ^ 31) = (0xFF800000, 2) ∧ fp32.minMax false 0 (2 ^ 31) = (2 ^ 31, 0) := by decide +kernel

/-! ## Slots, tokens, frames and tiles -/

theorem inFrame_of (s : State) (rel : Nat) (h : rel < s.frameSize s.cur s.fir.ctx s.fir.base) : s.inFrame rel := by
  unfold State.frameSize at h
  split at h
  · exact ⟨_, ‹_›, h⟩
  · omega

theorem plain_of (s : State) (h : s.atLast = false) : s.plain := by simp [State.plain, h]

/-- Record words stand in FULL slots. -/
theorem recordIs_of (s : State) (first : Nat) (w : List Word) (h : first + 7 < s.frameSize s.cur s.fir.ctx s.fir.base)
    (hw : ∀ j, j < w.length → s.slot s.cur (s.fir.base + first + j) = some (.full (w.getD j 0))) : s.recordIs first w := by
  refine ⟨inFrame_of s _ h, fun j v hv => ?_⟩
  have hj : j < w.length := by
    rcases Nat.lt_or_ge j w.length with h | h
    · exact h
    · simp [List.getElem?_eq_none h] at hv
  rw [hw j hj]
  simp [List.getD, hv]

/-- The demo state with slots of cell 4. -/
def withSlots (l : List (BitVec 4 × Word)) (k : Tbl Slot) : State := (demo l).modCell 4 fun c => { c with slots := k }

/-- Relative slots 3 FULL, 5 DEFERRED by record 0, 62 and 63 FULL; x1 = 60, x2 = 0x77. -/
def slots : State := withSlots [(1, 60), (2, 0x77)] [(67, .full 5), (69, .deferred 0 7 2 0), (126, .full 1), (127, .full 9)]

theorem test_slots : slots.pr 1 = false ∧ slots.pr 0 = true ∧ slots.lane.resume = none ∧ slots.plain ∧ slots.inFrame 63 ∧
    gives (.fld 9 0 3 false 0) slots (slots.lane.regs.set 9 5) 0 = true ∧ gives (.fld 9 1 3 true 0) slots (slots.lane.regs.set 9 9) 0 = true ∧
    gives (.ftst 9 0 5 0) slots (slots.lane.regs.set 9 2) 0 = true ∧ gives (.ftst 9 0 4 0) slots (slots.lane.regs.set 9 0) 0 = true ∧
    leaves (.fst 2 1 3 0) slots (fun t => t.slot 4 127 == some (.full 0x77) && t.slot 4 126 == some (.full 1) && t.fir.ia == 3) = true ∧
    leaves (.fclr 0 3 0) slots (fun t => t.slot 4 67 == none && t.slot 4 127 == some (.full 9)) = true ∧
    leaves (.join 9 0 3 0) slots (fun t => t.slot 4 67 == some (.full 4) && t.x 9 == 4) = true ∧
    leaves (.join 9 0 62 0) slots (fun t => t.slot 4 126 == none && t.x 9 == 0) = true :=
  ⟨by decide +kernel, by decide +kernel, by decide +kernel, plain_of _ (by decide +kernel), inFrame_of _ _ (by decide +kernel),
   by decide +kernel, by decide +kernel, by decide +kernel, by decide +kernel, by decide +kernel, by decide +kernel, by decide +kernel,
   by decide +kernel⟩

/-- A block FLD of an EMPTY slot suspends; the write of the slot makes the record ready (R37 to R40). -/
theorem test_suspend : slots.fir.dead = false ∧ slots.slot 4 66 = none ∧ (slots.cell 4).recs.get? ((slots.cell 4).recKey 66) = none ∧
    leaves (.fld 9 0 2 false 0) slots (fun t => t.lane == {} && t.slot 4 66 == some (.deferred 0 2 1 0) &&
      ((t.cell 4).recs.get? 0).isSome && leaves (.fst 2 0 2 0) { t with cells := t.cells.put 4 { t.cell 4 with lane := slots.lane } } fun u =>
        u.slot 4 66 == some (.full 0x77) && (u.cell 4).ready == [{ cls := 1, since := 0, body := .resumed 0 }]) = true ∧
    leaves (.fld 9 0 2 false 0) (slots.modLane fun l => { l with resume := some 0x55 }) (fun t =>
      t.x 9 == 0x55 && t.slot 4 66 == none && t.lane.resume == none) = true := by decide +kernel

/-- The faults of slot instructions: no frame, outside the frame, EMPTY, a counter of 0, DEFERRED. -/
theorem test_slot_faults : (slots.modCx 4 1 fun k => { k with frames := [] }).frame? 4 1 64 = none ∧
    slots.frame? 4 1 64 = some { cls := 2 } ∧ clsSlots 2 = 64 ∧ faults (.fld 9 1 4 false 0) slots .frameBound 64 = true ∧
    faults (.join 9 0 2 0) slots .slotTrap 2 = true ∧ isDeferred (slots.slot 4 69) = true ∧
    faults (.fld 9 0 5 false 0) slots .slotConflict 5 = true ∧ faults (.fclr 0 5 0) slots .slotConflict 5 = true ∧
    (slots.raise .slotTrap 2 0).lane = {} := by decide +kernel

/-- x1 = a continuation of vcell 1, x2 = 0x77, x3 = the frame reference of frame 128, x4 = 2, x5 = a tag, x6 = class 0 of
vcell 2, which does not exist. -/
def sends : State := demo [(1, contTo 1 1), (2, 0x77), (3, mkCont 0 1 128 0 0 0), (4, 2), (5, 0x900000000), (6, mkCont 2 1 64 20 1 0)]

/-- The last packet is a token with this content to a cell. -/
def sent (t : State) (dst : Nat) (cont val tag : Word) : Bool :=
  t.net == [{ vn := 0, src := 4, dst := dst, ctx := 1, hops := if dst = 4 then some [] else none, committed := dst == 4, body := .token { cont := cont, val := val, tag := tag } }] &&
    t.fcx.outstanding == 1 && t.fir.ia == 3

theorem test_tokens : sends.held = false ∧ sends.fir.dead = false ∧ sends.plain ∧ sends.destOk 0 0 = true ∧ isFrameRef (sends.x 3) = true ∧
    sends.destOk 1 3 = true ∧ replyOk 2 1 (sends.x 1) = true ∧ tagOk sends.fir.tag = true ∧ sends.fhdr.ndest = 4 ∧ tagOk (sends.x 5) = true ∧
    regionOf (sends.x 5) = 0 ∧
    leaves (.send 2 0 0 false 0 0) sends (fun t => sent t 4 (mkCont 0 1 64 20 1 1) 0x77 0x500000000) = true ∧
    leaves (.send 2 3 1 true 3 0) sends (fun t => sent t 4 (mkCont 0 1 128 20 1 3) 0x77 0x500000000) = true ∧
    leaves (.swch 2 4 0 false 0 0) sends (fun t => sent t 4 (mkCont 0 1 64 20 0 1) 0x77 0x500000000) = true ∧
    leaves (.sendd 1 2 0 false 0 0) sends (fun t => sent t 5 (contTo 1 1) 0x77 0x500000000) = true ∧
    leaves (.sendd 1 2 5 true 0 0) sends (fun t => sent t 5 (mkCont 1 1 64 20 1 0) 0x77 0x900000000) = true ∧
    gives (.mkc 9 3 1 false 0) sends (sends.lane.regs.set 9 (mkCont 0 1 128 20 1 1)) 0 = true ∧
    gives (.mkc 9 0 0 true 0) sends (sends.lane.regs.set 9 (mkCont 0 1 64 0 0 0)) 0 = true :=
  ⟨by decide +kernel, by decide +kernel, plain_of _ (by decide +kernel), by decide +kernel⟩

theorem test_bad_continuations : sends.fcx.place.length ≤ vcellOf (sends.x 6) ∧ sends.fcx.vcell < sends.fcx.place.length ∧
    faults (.sendd 6 2 0 false 0 0) sends .badCont (sends.x 6) = true ∧
    faults (.falloc 0 6 false 0 0) sends .badCont 0 = true ∧ faults (.rel 6 false 0) sends .badCont 0 = true ∧
    faults (.acqa 3 false 0) sends .badCont 0 = true := by decide +kernel

/-- x1 = the frame of the firing, x2 = frame 128, live too, x3 = frame 0 of vcell 1, x4 = frame 0, which is not live,
x5 = a reply continuation, x6 = vcell 1. -/
def frames : State := (demo [(1, mkCont 0 1 64 0 0 0), (2, mkCont 0 1 128 0 0 0), (3, mkCont 1 1 0 0 0 0), (4, mkCont 0 1 0 0 0 0),
  (5, contTo 0 1), (6, 1)]).modCell 4 fun c => { c.modCx 1 fun k => { k with
    frames := [(64, { cls := 2 }), (128, { cls := 2 })]
    pools := [(0, { cls := 2, max := 4, places := [192], live := 2 })] } with slots := [(70, .full 1), (130, .full 2)] }

theorem test_frames : frames.fcx.vcell < 2 ∧ frames.held = false ∧ replyOk 2 1 (frames.x 5) = true ∧
    contOk 2 1 (frames.x 1) = true ∧ isFrameRef (frames.x 1) = true ∧ baseOf (frames.x 1) = 64 ∧ frames.atLast = false ∧
    (frames.cell 4).deferredIn 128 64 = [] ∧ frames.frame? 4 1 128 = some { cls := 2 } ∧ frames.frame? 4 1 0 = none ∧
    leaves (.falloc 6 5 true 2 0) frames (fun t =>
      let r : FrameReq := { src := 4, base := 64, reply := contTo 0 1, tag := 0x500000000, region := 0, ia := 2 }
      t.net == [{ vn := 0, src := 4, dst := 5, ctx := 1, hops := none, counts := false, body := .falloc 2 r }] && t.fcx.outstanding == 1) = true ∧
    leaves (.ffree 1 0) frames (fun t => t.lane.frees.map (·.1) == [64] && (t.frame? 4 1 64).isSome) = true ∧
    leaves (.ffree 2 0) frames (fun t => (t.frame? 4 1 128).isNone && t.slot 4 130 == none && t.slot 4 70 == some (.full 1) &&
      (t.fcx.pools.getD 0 {}).live == 1) = true ∧
    faults (.ffree 4 0) frames .frameFree 0 = true ∧
    leaves (.ffree 3 0) frames (fun t => t.net.map (fun p => (p.vn, p.dst)) == [(0, 5)]) = true := by decide +kernel

/-- Every pool's queue is empty. -/
theorem frames_pools (n : Nat) : (frames.fcx.pools.getD n {}).queue = [] := by
  have h : frames.fcx.pools = [(0, { cls := 2, max := 4, places := [192], live := 2 })] := by decide +kernel
  rw [h]
  by_cases hn : n = 0 <;> simp [Tbl.getD, Tbl.get?, hn]

/-- BRF to the last word, past it, and beyond; END with a free that waited (R189, R191, R192). -/
theorem test_branch : frames.fir.ia + 7 ≤ frames.fir.hdr + frames.fhdr.length ∧ leaves (.brf 0 7) frames (fun t => t.fir.ia == 9) = true ∧
    leaves (.brf 0 8) frames (fun t => t.lane == {}) = true ∧ faults (.brf 0 9) frames .illegalOp 0 = true ∧
    leaves (.fend 0) frames (fun t => t == frames.modLane fun _ => {}) = true ∧
    leaves (.fend 0) (frames.modLane fun l => { l with frees := [(64, frames.issuer)] }) (fun t => t.lane == {} && (t.frame? 4 1 64).isNone) = true := by
  decide +kernel

/-- A tile 0 OPEN of 2 rows of 3 FP32 elements, a SEALED tile 1 with two references, a SEALED tile 2 with one, in INT16; x1 to x3 name
them, x4 a tile of vcell 1, x5 a stale one, x6 = 2, x7 = 1 row of 256 columns. -/
def tiles : State := (demo [(1, mkHandle 0 1 0 1), (2, mkHandle 0 1 1 1), (3, mkHandle 0 1 2 3), (4, mkHandle 1 1 9 1), (5, mkHandle 0 1 2 1), (6, 2),
    (7, 0xFF00), (8, 0x3FF0000000000000), (9, 0x12345), (10, 5)]).modCell 4 fun c => { c with heap := { free := 2044, tiles := [
      (0, { live := true, ctx := 1, rows := 2, cols := 3, count := 1, blocks := 1 }),
      (1, { live := true, sealed := true, ctx := 1, rows := 2, cols := 3, count := 2, blocks := 1, els := [(5, 0x40000000)] }),
      (2, { live := true, sealed := true, gen := 3, ctx := 1, fmt := 11, count := 1, blocks := 1 }),
      (3, { live := true, ctx := 1, fmt := 11, cols := 4, count := 1, blocks := 1 })] } }

theorem test_tiles : tiles.resolve 4 1 (tiles.x 1) = .here 0 ∧ tiles.resolve 4 1 (tiles.x 4) = .there 5 ∧ tiles.resolve 4 1 (tiles.x 5) = .stale ∧
    bits (tiles.x 7) 16 48 = 0 ∧ (∀ j, j < 4 → ((tiles.cell 4).tile j).live = true) ∧ ((tiles.cell 4).tile 4).live = false ∧
    blocksOf 0 1 256 = 2 ∧ (tiles.cell 4).written 0 = false ∧
    leaves (.tnew 11 7 0 0) tiles (fun t => t.x 11 == mkHandle 0 1 4 1 && (t.cell 4).heap.free == 2042 && ((t.cell 4).tile 4).cols == 256) = true ∧
    leaves (.tseal 1 0) tiles (fun t => ((t.cell 4).tile 0).sealed) = true ∧ faults (.tseal 2 0) tiles .tileState (tiles.x 2) = true ∧
    leaves (.tdup 2 6 0) tiles (fun t => ((t.cell 4).tile 1).count == 4) = true ∧
    leaves (.tdrop 2 0) tiles (fun t => ((t.cell 4).tile 1).count == 1) = true ∧
    leaves (.tdrop 3 0) tiles (fun t => (t.cell 4).tile 2 == { gen := 4 } && (t.cell 4).heap.zeroing == 1) = true ∧
    leaves (.tdup 4 6 0) tiles (fun t => t.net.map (fun p => (p.dst, p.body)) == [(5, .count (tiles.x 4) 2 true tiles.issuer)]) = true ∧
    leaves (.tdrop 4 0) tiles (fun t => t.net.map (fun p => (p.dst, p.body)) == [(5, .count (tiles.x 4) 1 false tiles.issuer)]) = true := by
  decide +kernel

theorem test_handles : gives (.tchk 11 5 0) tiles (tiles.lane.regs.set 11 3) 0 = true ∧ gives (.tchk 11 1 0) tiles (tiles.lane.regs.set 11 1) 0 = true ∧
    gives (.tchk 11 2 0) tiles (tiles.lane.regs.set 11 0) 0 = true ∧ gives (.tchk 11 4 0) tiles (tiles.lane.regs.set 11 2) 0 = true ∧
    ((tiles.cell 4).tile 2).gen.toNat ≠ bits (tiles.x 5) 30 8 ∧ bits (tiles.x 5) 0 30 = 0 ∧ bits (tiles.x 5) 50 3 = 1 ∧
    faults (.tdrop 5 0) tiles .handleStale (tiles.x 5) = true := by decide +kernel

theorem test_tile_elements : tiles.inFrame 63 ∧ isDeferred (tiles.slot 4 127) = false ∧ 5 < ((tiles.cell 4).tile 1).rows * ((tiles.cell 4).tile 1).cols ∧
    5 ∉ ((tiles.cell 4).tile 1).bad ∧ leaves (.hld 2 10 63 0) tiles (fun t => t.slot 4 127 == some (.full 0x40000000)) = true ∧
    leaves (.hst 1 6 9 false 0 false 0) tiles (fun t => ((t.cell 4).tile 0).el 2 == 0x12345) = true ∧
    leaves (.hst 1 6 8 false 0 true 0) tiles (fun t => ((t.cell 4).tile 0).el 2 == 0x3F800000 && t.fcx.ctl.flags == 0) = true ∧
    leaves (.hst 12 6 9 false 0 true 0) (tiles.setX 12 (mkHandle 0 1 3 1)) (fun t => ((t.cell 4).tile 3).el 2 == 0x7FFF && t.fcx.ctl.flags == 32) = true ∧
    gives (.tinfo 11 2 0 0) tiles (tiles.lane.regs.set 11 (0x10 + 2 * 2 ^ 12 + 2 * 2 ^ 20 + 2 ^ 22)) 0 = true ∧
    gives (.tinfo 11 3 0 1) tiles (tiles.lane.regs.set 11 (1 + 3 * 2 ^ 16)) 0 = true ∧
    leaves (.hld 4 10 63 0) tiles (fun t => t.ops.map (fun o => (o.id, o.kind, o.slot)) == [(9, .hld, some 127)] && t.fcx.outstanding == 1 &&
      t.net == [{ vn := 2, src := 4, dst := 5, ctx := 1, hops := none, counts := false, body := .hld (tiles.x 4) 5 9 tiles.issuer }]) = true :=
  ⟨inFrame_of _ _ (by decide +kernel), by decide +kernel⟩

/-! ## Instructions that issue operations, barriers, control registers, regions and commands -/

/-- Records of values at relative slots 8 (4 words), 16 (5 words of an AMO), 24 (6 words of an AMO.CAS) and 32 (6 words);
x1 to x4 hold where they begin; x5 = a reply continuation of vcell 0, x6 = one of vcell 1, x7 = 0x77. -/
def records : State := withSlots [(1, 8), (2, 16), (3, 24), (4, 32), (5, contTo 0 1), (6, contTo 1 0), (7, 0x77)] ((List.range 29).map fun i =>
  (72 + i, .full (if i = 19 then 0x19 else if i = 11 then 0x10 else word (256 + i))))

/-- The words of the record at a relative slot. -/
def recAt (first n : Nat) : List Word := (List.range n).map fun i =>
  let j := first + i - 8
  if j = 19 then 0x19 else if j = 11 then 0x10 else word (256 + j)

theorem test_records : records.recordIs 8 (recAt 8 4) ∧ records.recordIs 16 (recAt 16 5) ∧ records.recordIs 24 (recAt 24 6) ∧
    records.recordIs 32 (recAt 32 4) :=
  ⟨recordIs_of _ _ _ (by decide +kernel) (by decide +kernel), recordIs_of _ _ _ (by decide +kernel) (by decide +kernel),
   recordIs_of _ _ _ (by decide +kernel) (by decide +kernel), recordIs_of _ _ _ (by decide +kernel) (by decide +kernel)⟩

/-- The one operation that stands in the module. -/
def issued (t : State) (o : MemOp) : Bool :=
  t.ops == [{ o with id := 9, who := records.issuer, inst := (3, 7) }] && t.serial == 10 && t.fcx.outstanding == 1 && t.fir.ia == 3

theorem test_memory_issue : records.acqFailed = false ∧ records.held = false ∧ records.pendingAcqs 8 = [] ∧ records.inFrame 63 ∧
    isDeferred (records.slot 4 127) = false ∧ replyOk 2 1 (records.x 6) = true ∧
    leaves (.ldg 1 0 63 0) records (fun t => issued t { kind := .ldg, slot := some 127, recw := recAt 8 4 }) = true ∧
    leaves (.ldch 1 0 63 0) records (fun t => issued t { kind := .ldch, slot := some 127, recw := recAt 8 4 }) = true ∧
    leaves (.amo 2 0 63 0) records (fun t => issued t { kind := .amo, slot := some 127, recw := recAt 16 5 ++ [0] }) = true ∧
    leaves (.amo 3 0 63 0) records (fun t => issued t { kind := .amo, slot := some 127, recw := recAt 24 6 }) = true ∧
    leaves (.stg 4 7 6 0) records (fun t => issued t { kind := .stg, recw := recAt 32 4, val := 0x77, cont := some (contTo 1 0) }) = true :=
  ⟨by decide +kernel, by decide +kernel, by decide +kernel, inFrame_of _ _ (by decide +kernel), by decide +kernel⟩

theorem test_log_issue : ctxOf (records.x 6) = 1 ∧ vcellOf (records.x 6) < 2 ∧ bits (records.x 6) 32 2 < 2 ∧ records.replyIs 5 (some (contTo 0 1)) ∧
    records.replyIs 0 none ∧ (∀ q, q ∈ records.ops → q.who.serial = records.fir.serial → q.pendingStore false = false) ∧
    leaves (.acq 6 0 0) records (fun t => t.ops.map (fun o => (o.kind, o.val, o.cont)) == [(.acq, contTo 1 0, none)]) = true ∧
    leaves (.acqa 5 true 0) records (fun t => t.ops.map (fun o => (o.kind, o.sys, o.mask, o.cont)) == [(.acqa, true, 0xFFFF, some (contTo 0 1))]) = true ∧
    leaves (.rel 5 false 0) records (fun t => t.ops.map (fun o => (o.kind, o.opened, o.rseq, o.mask)) == [(.rel, true, 1, 0)] &&
      t.fcx.rseq == 1) = true :=
  ⟨by decide +kernel, by decide +kernel, by decide +kernel, .inr ⟨by decide, by decide +kernel⟩, .inl ⟨rfl, rfl⟩,
   (by intro q hq; have h : records.ops = [] := rfl; rw [h] at hq; cases hq), by decide +kernel⟩

/-- FCLR of a DEFERRED and of a FULL slot, FTST of an EMPTY one. -/
theorem test_clear_and_test : isDeferred (slots.slot 4 69) = true ∧ isDeferred (slots.slot 4 67) = false ∧ slots.slot 4 68 = none ∧
    slots.frameSize 4 1 64 = 64 := by decide +kernel

/-- Barrier 3 of the cell idle, barrier 4 armed for 10 with 7 arrived, barrier 5 armed, repeating; wake port 2 with a value; x1 to x3 name
barriers 3 to 5, x4 barrier 9 of vcell 1, x5 = 3, x6 = a reply continuation, x7 and x8 wake ports 1 and 2. -/
def sync : State := (demo [(1, 3), (2, 4), (3, 5), (4, 2 ^ 53 + 9), (5, 3), (6, contTo 0 1), (7, 1), (8, 2)]).modCell 4 fun c => { c with
  barriers := [(4, { arrivals := 7, target := 10, armed := true, cont := contTo 1 0, tag := 0x600000000, phase := 1, owner := 1 }),
               (5, { arrivals := 7, target := 10, armed := true, rep := true, cont := contTo 1 0, owner := 1 })]
  wakes := [(2, { latch := some 0x55, owner := 1 })] }

theorem test_barriers : vcellOf (sync.x 1) = 0 ∧ bits (sync.x 1) 7 46 = 0 ∧ ((sync.cell 4).barrier 3).idle = true ∧ replyOk 2 1 (sync.x 6) = true ∧
    ((sync.cell 4).barrier 4).owner = 1 ∧ (7 : Nat) + 3 < 2 * 10 ∧ ctxOf ((sync.cell 4).barrier 4).cont = 1 ∧ vcellOf (sync.x 4) = 1 ∧
    leaves (.bars 1 5 6 true 0) sync (fun t => (t.cell 4).barrier 3 == { target := 3, rep := true, cont := contTo 0 1, tag := 0x500000000, armed := true, owner := 1 }) = true ∧
    leaves (.bara 1 5 0 0) sync (fun t => (t.cell 4).barrier 3 == { arrivals := 3, owner := 1 } && t.net == []) = true ∧
    leaves (.bara 2 5 6 0) sync (fun t => !((t.cell 4).barrier 4).armed && ((t.cell 4).barrier 4).phase == 2 && ((t.cell 4).barrier 4).arrivals == 0 &&
      t.net.map (fun p => p.body) == [.token { cont := contTo 1 0, val := 2, tag := 0x600000000 }, .token { cont := contTo 0 1, val := 2, tag := 0x500000000 }]) = true ∧
    leaves (.bara 3 5 0 0) sync (fun t => ((t.cell 4).barrier 5).armed && ((t.cell 4).barrier 5).phase == 1) = true ∧
    leaves (.bara 4 5 0 0) sync (fun t => t.net.map (fun p => (p.dst, p.body)) == [(5, .bara 9 3 none sync.issuer)]) = true := by decide +kernel

theorem test_wakes : bits (sync.x 7) 4 60 = 0 ∧ ((sync.cell 4).wake 1).idle = true ∧ ((sync.cell 4).wake 1).latch = none ∧
    ((sync.cell 4).wake 2).owner = 1 ∧ ((sync.cell 4).wake 2).latch = some 0x55 ∧
    leaves (.watch 7 6 0) sync (fun t => (t.cell 4).wake 1 == { armed := true, cont := contTo 0 1, tag := 0x500000000, owner := 1 }) = true ∧
    leaves (.watch 8 6 0) sync (fun t => (t.cell 4).wake 2 == {} && t.net.map (fun p => p.body) == [.token { cont := contTo 0 1, val := 0x55, tag := 0x500000000 }]) = true ∧
    leaves (.wdrop 8 0) sync (fun t => (t.cell 4).wake 2 == {} && t.net == []) = true := by decide +kernel

/-- Global time 0x123456 on die 0, 1000 ac. -/
def timed : State := { demo [(1, contTo 1 1), (2, 4), (3, 0x7F), (4, 5), (5, 0x80)] with clock := { gt := Vector.replicate 8 0x123456, ac16 := Vector.replicate 8 16000 } }

theorem test_system_reads : gives (.mfc 9 0 0) timed (timed.lane.regs.set 9 4) 0 = true ∧ gives (.mfc 9 0 3) timed (timed.lane.regs.set 9 9) 0 = true ∧
    gives (.mfc 9 0 0x0C) timed (timed.lane.regs.set 9 1) 0 = true ∧ gives (.mfc 9 0 0x10) timed (timed.lane.regs.set 9 (1 + 2 * 2 ^ 24 + 2 ^ 27)) 0 = true ∧
    gives (.perf 9 0 0) timed (timed.lane.regs.set 9 1000) 0 = true ∧ gives (.perf 9 0 0x1B) timed (timed.lane.regs.set 9 0) 0 = true ∧
    gives (.scrubrd 9 0 5) timed (timed.lane.regs.set 9 0) 0 = true ∧ (timed.fn 3).recEn = false ∧ (timed.fn 3).recReplay = false ∧
    leaves (.time 9 0) timed (fun t => t.x 9 == 0x123456 && t.fcx.times == 1) = true := by decide +kernel

theorem test_control_writes : replyOk 2 1 (timed.x 1) = true ∧ leaves (.mtc 1 0 8) timed (fun t => t.fcx.ctl.faultc == contTo 1 1) = true ∧
    leaves (.mtc 2 0 9) timed (fun t => t.fcx.ctl.rmode == 4) = true ∧ faults (.mtc 4 0 9) timed .illegalOp 0 = true ∧
    leaves (.mtc 1 0 10) timed (fun t => t.fcx.ctl.seed == contTo 1 1) = true ∧ leaves (.mtc 3 0 11) timed (fun t => t.fcx.ctl.flags == 0x7F) = true ∧
    faults (.mtc 5 0 11) timed .illegalOp 0 = true ∧ leaves (.mtc 0 0 12) timed (fun t => t.fcx.ctl.prio == 0) = true ∧
    faults (.mtc 2 0 12) timed .illegalOp 0 = true ∧ faults (.mtc 2 0 8) timed .badCont 0 = true ∧ faults (.mtc 2 0 3) timed .privilege 0 = true := by
  decide +kernel

/-- Regions 1 and 2 of the instance are allocated. -/
def regional : State := { demo [(1, contTo 0 1), (2, 2), (3, contTo 1 1)] with insts := [{ inst7 with regions := [(1, {}), (2, {})] }] }

/-- Every region id is allocated. -/
def crowded : State := { regional with insts := [{ inst7 with regions := (List.range 255).map fun i => (i + 1, {}) }] }

/-- The firing runs on vcell 1. -/
def inner : State := regional.modCx 4 1 fun k => { k with vcell := 1 }

theorem test_regions : regional.instAt 4 1 = some { inst7 with regions := [(1, {}), (2, {})] } ∧ regional.fcx.vcell = 0 ∧
    replyOk 2 1 (regional.x 1) = true ∧ (∀ j, j < 256 → 0 < j → (crowded.instAt 4 1).map (fun i => (i.regions.get? j).isSome) = some true) ∧
    leaves (.cropen 9 1 0) regional (fun t => t.lane.stall == some (.cropen 9 3) && t.net.map (fun p => (p.dst, p.body)) == [(4, .regionId 3), (5, .regionId 3)] &&
      (t.insts.map fun i => i.regions.get? 3) == [some { handler := contTo 0 1 }]) = true ∧
    gives (.cropen 9 1 0) crowded (crowded.lane.regs.set 9 0) 0 = true ∧
    leaves (.crclose 2 3 0) regional (fun t => (t.insts.map fun i => (i.regions.getD 2 {}).closing.map (·.1)) == [[contTo 1 1]] && t.fcx.outstanding == 1) = true ∧
    inner.fcx.vcell = 1 ∧ faults (.cropen 9 1 0) inner .privilege 0 = true ∧ leaves (.crclose 2 3 0) inner (fun t => t == (inner.opLost inner.issuer .privilege 0 0).step1 && t.insts == []) = true := by decide +kernel

theorem test_qpost : (records.x 5) ≠ 0 ∧ records.recordIs 32 (recAt 32 4) ∧ recAt 24 6 = (recAt 24 6).take 6 ∧
    leaves (.qpost 3 5 0) records (fun t => t.ops.map (fun o => (o.kind, o.cont)) == [(.qpost, some (contTo 0 1))] &&
      t.net.map (fun p => (p.vn, p.dst, p.body)) == [(4, 2048, .qpost (recAt 24 6) (contTo 0 1) 1 9 records.issuer)]) = true :=
  ⟨by decide +kernel, recordIs_of _ _ _ (by decide +kernel) (by decide +kernel), by decide +kernel⟩

/-- Tile 1 of the cell is SEALED; records for commands at relative slots 8 and 16 that name it; x1, x2 where they begin. -/
def commandSlots : Tbl Slot := ((List.range 7).map fun i => (72 + i, .full (mkHandle 0 1 1 1))) ++
  (List.range 7).map fun i => (80 + i, .full (if i = 6 then 24 else 0))

/-- The cell with them. -/
def commands : State := (tiles.modCell 4 fun c => { c with slots := commandSlots }).modLane fun l =>
  { l with regs := regs [(1, 8), (2, 16), (3, contTo 0 1), (4, 100)] }

theorem test_engine_issue : Ref.engine (.tcopy 1 3 true 0) = some (.tcopy, 1, 3, 0, false, true, 3, [(0, .source)]) ∧
    commands.recordIs 8 [mkHandle 0 1 1 1, mkHandle 0 1 1 1, mkHandle 0 1 1 1] ∧ commands.replyIs 3 (some (contTo 0 1)) ∧
    isDeferred (commands.slot 4 79) = false ∧ ((commands.cell 4).queueOf .tcopy false).1.length < ((commands.cell 4).queueOf .tcopy false).2 ∧
    (match commands.checkHandles [mkHandle 0 1 1 1, 0, 0] true [(0, .source)] with | .ok ns => ns == [(1, 1, false)] | .error _ => false) = true ∧
    leaves (.tcopy 1 3 true 0) commands (fun t => (t.cell 4).copyq.map (fun m => (m.op, m.uid, m.cont, m.named, m.statusSlot)) ==
      [(.tcopy, 9, some (contTo 0 1), [(1, 1, false)], 79)] && ((t.cell 4).tile 1).inflight == 1 && t.fcx.outstanding == 1) = true ∧
    ([.tload 1 3 0, .tstore 1 3 false 0, .tgath 1 3 false 0, .tscat 1 3 false 0, .tfill 1 3 0, .mwld 1 3 true false 0, .macc 1 3 false true 0,
      .mrun 1 3 false false 0, .mdrain 1 3 true 0, .rset 1 3 0, .rfeed 1 3 false 0] : List Instr).map
      (fun i => leaves i commands fun t => t.serial == 10) = [true, true, false, true, true, true, true, true, true, true, true] :=
  ⟨rfl, recordIs_of _ _ _ (by decide +kernel) (by decide +kernel), .inr ⟨by decide, by decide +kernel⟩, by decide +kernel⟩

theorem test_vrun_issue : (commands.x 4).toNat < 2 ^ 14 ∧ commands.recordIs 16 [0, 0, 0, 0, 0, 0, 24] ∧
    (match commands.shapeRecords [0, 0, 0, 0, 0, 0] with | .ok l => l == List.replicate 6 none | .error _ => false) = true ∧
    (match commands.slotGroup 24 8 with | .ok _ => false | .error _ => true) = true ∧ (commands.cell 4).vec.queue.length < 8 ∧
    (match commands.bindHandles 0 (List.replicate 6 none) with | .ok ns => ns == [] | .error _ => false) = true :=
  ⟨by decide +kernel, recordIs_of _ _ _ (by decide +kernel) (by decide +kernel), by decide +kernel⟩

/-- The same with FULL parameter slots at 24. -/
def kernels : State := commands.modCell 4 fun c => { c with slots := c.slots ++ (List.range 8).map fun i => (88 + i, .full (word i)) }

theorem test_vrun : (match kernels.slotGroup 24 8 with | .ok l => l == [0, 1, 2, 3, 4, 5, 6, 7] | .error _ => false) = true ∧
    leaves (.vrun 4 2 3 0) kernels (fun t => (t.cell 4).vec.queue.map (fun m => (m.kernel, m.params, m.cont)) ==
      [(100, [0, 1, 2, 3, 4, 5, 6, 7], some (contTo 0 1))] && t.fcx.outstanding == 1) = true := by decide +kernel

/-- A fault goes to CTL_FAULTC, or fails its open region, or kills the instance (R323 to R325). -/
def guardedFaults : State := (timed.modCx 4 1 fun k => { k with ctl := { k.ctl with faultc := contTo 0 1 }, regions := [(2, .opened), (3, .failed)] })

/-- The firing's tag has a region. -/
def inRegion (r : Nat) : State := guardedFaults.modLane fun l => { l with fir := { l.fir with tag := word (r * 2 ^ 24) } }

theorem test_faults : guardedFaults.fir.dead = false ∧ guardedFaults.lane.frees = [] ∧ guardedFaults.instAt 4 1 = some inst7 ∧
    regionOf guardedFaults.fir.tag = 0 ∧ guardedFaults.fcx.ctl.faultc ≠ 0 ∧ replyOk 2 1 guardedFaults.fcx.ctl.faultc = true ∧
    timed.fcx.ctl.faultc = 0 ∧ regionOf (inRegion 2).fir.tag = 2 ∧ (inRegion 2).fcx.regions.get? 2 = some .opened ∧
    (inRegion 3).fcx.regions.get? 3 = some .failed ∧
    leaves (.trap 0x1234) guardedFaults (fun t => t.lane == {} && ((t.cell 4).tile 0).els ==
      [(0, 1 + 0x1D * 2 ^ 8 + 2 ^ 27 + 2 * 2 ^ 30 + 64 * 2 ^ 44), (1, 0x1234), (2, contTo 1 1), (3, 0x123456)] &&
      t.net.map (fun p => p.body) == [.token { cont := contTo 0 1, val := mkHandle 0 1 0 1, tag := 0x500000000, faulty := true }]) = true ∧
    leaves (.trap 1) (inRegion 2) (fun t => t.net.map (fun p => (p.vn, p.dst)) == [(4, 4)] && t.insts == [inst7]) = true ∧
    leaves (.trap 1) (inRegion 3) (fun t => t == (inRegion 3).modLane fun _ => {}) = true ∧
    leaves (.trap 1) timed (fun t => t.insts == [] && (t.cx 4 1).inst == none && (t.cx 4 1).released) = true ∧
    faults (.illegalOp 0x2B000000) timed .illegalOp 0 = true ∧ faults (.illegalOp 0xF4000000) timed .illegalContext 0 = true := by decide +kernel

/-! ## Steps -/

/-- The lane of cell 4 moves next, at MOVI x9, 1. -/
def stepping : State := { (demo []).modCx 4 1 fun k => { k with image := k.image.set 2 0x1E900001 } with agenda := [{ who := .lane 4 false }] }

/-- The state in which a step's mover moves. -/
def moving (s : State) : State := (({ s with agenda := s.agenda.tail }).tick 0).settleFlrs.settleMgmt

theorem test_step_lane : stepping.power = true ∧ ((moving stepping).cell 4).lane.busy = true ∧ ((moving stepping).cell 4).lane.stall = none ∧
    (moving stepping).runs 4 = true ∧ decode (((moving stepping).cx 4 1).image.getD 2 0) = some (.movi 9 1) ∧
    (match step stepping with | .next t => t.x 9 == 1 && t.fir.ia == 3 && t.agenda == [] | _ => false) = true ∧
    (match step { stepping with agenda := [{ who := .lane 5 false }] } with | .next t => t == moving stepping | _ => false) = true := by
  decide +kernel

/-- A kernel of VEND runs on cell 4. -/
def kernelRuns : State := { (demo []).modCell 4 fun c => { c with vec := { run := some {}, buf := [0xF4000000] } } with agenda := [{ who := .vector 4 }] }

theorem test_step_vector : ((moving kernelRuns).cell 4).vec.run ≠ none ∧ ((moving kernelRuns).cell 4).vec.buf[0]? = some 0xF4000000 ∧
    decode 0xF4000000 = some .vend ∧ (match step kernelRuns with | .next t => (t.cell 4).vec.ended && t.agenda == [] | _ => false) = true ∧
    (match step { kernelRuns with agenda := [{ who := .vector 5 }] } with | .next t => t == moving kernelRuns | _ => false) = true := by decide +kernel

theorem test_step_events : (match step { demo [] with agenda := [{ who := .event (.throttle 1 3) }] } with | .next t => t.clock.throttle.toList.getD 1 0 == 3 | _ => false) = true ∧
    (match step { demo [] with agenda := [{ who := .event .vend }] } with | .next t => t == moving { demo [] with agenda := [{ who := .event .vend }] } | _ => false) = true ∧
    (match step { demo [] with agenda := [{ who := .outside (.badGranule 5 0) }] } with | .next t => t.gpoison == [5] | _ => false) = true ∧
    (match step (demo []) with | .next t => t.clock.nc == 2 | _ => false) = true ∧
    (match step { State.reset with power := false, agenda := [{ who := .event .vend }] } with | .fault f => f == .noPower | _ => false) = true ∧
    (match step (State.reset.withFetchWord 32 0x1E900001) with | .next t => (t.cell 0).lane == {} | _ => false) = true := by decide +kernel

theorem test_reset_memory : State.reset.Inv ∧ (demo []).Inv := ⟨rfl, rfl⟩

/-! ## Vector kernels -/

/-- A vector register from its first elements of a width. -/
def lanes (w : Nat) (l : List Nat) : BitVec 2048 := BitVec.ofNat 2048 (l.foldr (fun x a => x + 2 ^ w * a) 0)

/-- v1 and v2 integers, v4 and v5 FP32 numbers, v6 indexes; m1 = elements 0 and 2; parameter 3 = 0x1122334455667788. -/
def vecs : State := (demo []).modCell 4 fun c => { c with vec := {
  run := some { cmd := { params := [0, 1, 2, 0x1122334455667788] } }
  v := (((((Vector.replicate 32 0).set 1 (lanes 32 [5, 0xFFFFFFFF, 0x7FFFFFFF])).set 2 (lanes 32 [3, 2, 1])).set 4
    (lanes 32 [0x3F800000, 0x40000000, 0xBF800000])).set 5 (lanes 32 [0x40000000, 0x40000000, 0x3F800000])).set 7 (lanes 8 [127, 127])
  m := (Vector.replicate 8 0).set 1 5
  buf := [0, 0, 0, 0] } }

/-- A vector word leaves these first elements in a register, the flags and the next word. -/
def lanesAre (i : Instr) (d : BitVec 5) (w : Nat) (l : List Nat) (fl : BitVec 7) : Bool :=
  i.wf && leaves i vecs fun t => (List.range l.length).map (t.el d w) == l && (t.vec.run.map (·.flags)) == some fl && t.vec.pc == 1

theorem test_vector_integer : ([
    (.vadd 3 1 2 0 0 false false, [8, 1, 0x80000000], 0), (.vadd 3 1 2 0 0 true false, [8, 1, 0x7FFFFFFF], 32),
    (.vsub 3 2 1 1 0 true true, [0, 0, 0, 0], 32), (.vmul 3 1 2 0 0 false false, [15, 0xFFFFFFFE, 0x7FFFFFFF], 0),
    (.vmad 2 1 1 1 0 false false, [28, 2, 2], 0), (.vmin 3 1 2 0 0 false, [3, 0xFFFFFFFF, 1], 0), (.vmin 3 1 2 0 0 true, [3, 2, 1], 0),
    (.vmax 3 1 2 0 0 false, [5, 2, 0x7FFFFFFF], 0), (.vabs 3 1 0 0 false, [5, 1, 0x7FFFFFFF], 0)] : List (Instr × List Nat × BitVec 7)).all
    (fun e => lanesAre e.1 (match e.1 with | .vmad _ _ _ _ _ _ _ => 2 | _ => 3) 32 e.2.1 e.2.2) = true := by decide +kernel

/-- The instructions meet the hypothesis on their exact values. -/
theorem test_vector_integer_forms : (∀ x y z, ∃ v, Ref.vexact (.vadd 3 1 2 0 0 true false) 32 x y z = some (3, 1, 2, 0, 0, true, false, v)) ∧
    (∀ x y z, ∃ v, Ref.vexact (.vabs 3 1 1 2 false) 8 x y z = some (3, 1, 1, 1, 2, false, false, v)) :=
  ⟨fun _ _ _ => ⟨_, rfl⟩, fun _ _ _ => ⟨_, rfl⟩⟩

theorem test_vector_bits : ([
    (.vand 3 1 2 0 0, [1, 2, 1]), (.vor 3 1 2 0 0, [7, 0xFFFFFFFF, 0x7FFFFFFF]), (.vxor 3 1 2 0 0, [6, 0xFFFFFFFD, 0x7FFFFFFE]),
    (.vshl 3 1 2 0 0, [40, 0xFFFFFFFC, 0xFFFFFFFE]), (.vshr 3 1 2 0 0 true, [0, 0x3FFFFFFF, 0x3FFFFFFF]),
    (.vshr 3 1 2 0 0 false, [0, 0xFFFFFFFF, 0x3FFFFFFF]), (.vmov 3 1 1 0, [5, 0, 0x7FFFFFFF]), (.vmovs 3 3 0 0, [0x55667788, 0x55667788]),
    (.vmovs 3 3 0 1, [0x11223344, 0x11223344]), (.viota 3 0 0, [0, 1, 2, 3]), (.vsel 3 1 2 1 0, [5, 2, 0x7FFFFFFF]),
    (.vperm 3 1 2 0 0, [0, 0x7FFFFFFF, 0xFFFFFFFF]), (.vbcst 3 1 0 0, [5, 5, 5]), (.vsld 3 1 2 0 1, [0xFFFFFFFF, 0x7FFFFFFF, 0]),
    (.vsld 3 1 2 0 63, [0, 3, 2, 1])] : List (Instr × List Nat)).all (fun e => lanesAre e.1 3 32 e.2 0) = true ∧
    (∀ j, ∃ v, Ref.vbits vecs j (.vsld 3 1 2 0 63) = some (3, 0, 32, v)) := ⟨by decide +kernel, fun _ => ⟨_, rfl⟩⟩

theorem test_vector_float : ([
    (.vfadd 3 4 5 0 0 0, [0x40400000, 0x40800000, 0], 0), (.vfsub 3 4 5 0 0 0, [0xBF800000, 0, 0xC0000000], 0),
    (.vfmul 3 4 5 1 0 0, [0x40000000, 0, 0xBF800000], 0), (.vfma 3 4 5 0 0 0, [0x40000000, 0x40800000, 0xBF800000], 0),
    (.vfmin 3 4 5 0 0, [0x3F800000, 0x40000000, 0xBF800000], 0), (.vfmax 3 4 5 0 0, [0x40000000, 0x40000000, 0x3F800000], 0),
    (.vfabs 3 4 0 0, [0x3F800000, 0x40000000, 0x3F800000], 0), (.vcvt 3 1 13 0 false 0, [0x40A00000, 0xBF800000, 0x4F000000], 16),
    (.vcvt 3 1 16 0 false 0, [0xFFFF0005, 0x7FFF], 32)] : List (Instr × List Nat × BitVec 7)).map
    (fun e => lanesAre e.1 3 32 e.2.1 e.2.2) = List.replicate 9 true ∧
    (∀ j, ∃ f, Ref.vdraws vecs j (.vfma 3 4 5 0 0 12) = some (3, 0, 4, 32, 64, false, f)) := ⟨by decide +kernel, fun _ => ⟨_, rfl⟩⟩

/-- The special functions at arguments with exact results, and the twiddle of index 0. -/
theorem test_vector_special : ([.vrcp 3 5 1, .vrsq 3 4 1, .vexp2 3 0 0, .vlog2 3 4 1, .vsin 3 0 0, .vcos 3 0 0, .vtanh 3 0 0, .vtwid 3 0 0 4] : List Instr).map
    (fun i => leaves i vecs fun t => [t.el 3 32 0] == (match i with
      | .vrcp _ _ _ => [0x3F000000] | .vlog2 _ _ _ => [0] | .vsin _ _ _ => [0] | .vtanh _ _ _ => [0] | _ => [0x3F800000])) = List.replicate 8 true := by
  decide +kernel

/-- The bits of a mask register. -/
def maskIs (i : Instr) (d : BitVec 3) (n : Nat) (v : BitVec 256) : Bool :=
  i.wf && leaves i vecs fun t => (t.vec.m.get d.toFin).toNat % 2 ^ n == v.toNat && t.vec.v == vecs.vec.v

theorem test_vector_masks : ([(.vcmp 2 1 2 0 0 2, 3, 2), (.vcmp 2 1 2 1 0 4, 3, 0), (.vcmp 2 1 2 0 0 10, 3, 7), (.vfcmp 2 4 5 0 0 2, 3, 5),
    (.vmset 2 1 0, 8, 7), (.vmsetZero 2, 256, 0), (.vmsetOnes 2, 256, -1), (.vmlog 2 1 0 4, 3, 0), (.vmlog 2 1 0 8, 256, 5), (.vmlog 0 1 0 8, 256, 0)] :
    List (Instr × Nat × BitVec 256)).all (fun e => maskIs e.1 (match e.1 with | .vmlog 0 _ _ _ => 0 | _ => 2) e.2.1 e.2.2) = true := by decide +kernel

theorem test_vector_pack : lanesAre (.vpack 2 1 0 1) 2 32 [3, 2, 1] 0 = true ∧
    leaves (.vpack 2 1 0 1) vecs (fun t => t.el 2 32 32 == 5 && t.el 2 32 33 == 0xFFFFFFFF) = true ∧ lanesAre (.vunpk 3 1 0 0) 3 32 [5, 0xFFFFFFFF, 0x7FFFFFFF] 0 = true ∧
    lanesAre (.vbscl 3 4 5 0 0) 3 8 [120, 0, 120, 0, 0] 0 = true ∧ (3 : BitVec 3).toNat < 2 ^ ((1 : BitVec 2).toNat + 1) := by decide +kernel

theorem test_quantise : lanesAre (.vqnt 3 4 7 0 0 0) 3 8 [0x38, 0x40, 0xB8, 0] 0 = true := by decide +kernel

theorem test_vector_reduce : lanesAre (.vred 3 1 3 0 0 0) 3 32 [0x80000003, 0] 0 = true ∧ lanesAre (.vred 3 4 0 1 0 0) 3 32 [0, 0] 0 = true ∧
    lanesAre (.vred 3 1 6 0 0 0) 3 32 [0xFFFFFFFF, 0] 0 = true ∧ lanesAre (.vscan 3 1 3 0 0 0) 3 32 [5, 4, 0x80000003] 0 = true ∧
    lanesAre (.vcmul 3 4 5 0 0 0) 3 32 [0xC0000000, 0x40C00000] 0 = true ∧ Ref.vmode vecs 0 = 0 := by decide +kernel

/-- w = (2, 2) in v2, b = (1, 2), a = (1, 2): t = w · b = (-2, 6). -/
theorem test_butterfly : leaves (.vbfly 1 4 4 0 0 0) (vecs.modCell 4 fun c => { c with vec := { c.vec with v := c.vec.v.set 2 (lanes 32 [0x40000000, 0x40000000]) } })
    (fun t => [t.el 2 32 0, t.el 2 32 1, t.el 3 32 0, t.el 3 32 1] == [0xBF800000, 0x41000000, 0x40400000, 0xC0800000]) = true := by decide +kernel

/-- Loop 2 ends at the word at 0 and has two passes left; input 0 is tile 1 in runs of 3, input 1 port 2, output 0 tile 0. -/
def streams : State := (tiles.modCell 4 fun c => { c with vec := { vecs.vec with
  loops := (Vector.replicate 3 {}).set 2 { lc := 2, top := 0, last := 2, active := true }
  ins := [some { tile := 1, gen := 1, dims := [3, 2], strides := [1, 3] }, some { port := some 2, dims := [3, 2], strides := [1, 3] }]
  outs := [some { tile := 0, gen := 1, dims := [3, 2], strides := [1, 3] }] } })

/-- The last pass of loop 2. -/
def lastPass : Vector Loop 3 := (Vector.replicate 3 {}).set 2 { lc := 1, top := 0, last := 2, active := true }

theorem test_vector_control : leaves (.vloop 0 3 2) streams (fun t => t.vec.loops.get 0 == { lc := 3, top := 1, last := 2, active := true } && t.vec.pc == 1) = true ∧
    leaves (.vloop 0 0 2) streams (fun t => t.vec.loops == streams.vec.loops && t.vec.pc == 3) = true ∧
    leaves (.vloop 1 (2 ^ 13 + 1) 1) streams (fun t => (t.vec.loops.get 1).lc == 1) = true ∧
    (({ streams.vec with pc := 2 } : Vec).advance 3).pc = 0 ∧ (({ streams.vec with pc := 2, loops := lastPass } : Vec).advance 3).pc = 3 ∧
    leaves .vend streams (fun t => t.vec.ended) = true ∧
    (streams.vec.ins.getD 0 none).map (fun q => q.chunk) = some 6 ∧ ((streams.cell 4).named 1 1).poison = false ∧
    leaves (.vld 3 0) streams (fun t => (t.vec.ins.getD 0 none).map (fun q => q.pos) == some 6 && t.el 3 32 5 == 0x40000000 && t.vec.pc == 1) = true ∧
    leaves (.vld 3 0) (streams.modCell 4 fun c => { c with vec := { c.vec with ins := c.vec.ins.map fun q => q.map fun q => { q with pos := 3 } } })
      (fun t => [t.el 3 32 0, t.el 3 32 1, t.el 3 32 2, t.el 3 32 3] == [0, 0, 0x40000000, 0]) = true ∧
    leaves (.vld 3 1) streams (fun t => t.vec.waiting && t.vec.pc == 0) = true ∧ ((streams.cell 4).ports.getD 2 {}).rows = [] ∧
    ((streams.cell 4).tile 0).live = true ∧
    leaves (.vst false 1 1) streams (fun t => ((t.cell 4).tile 0).els == [(0, 5), (2, 0x7FFFFFFF)] && (t.vec.outs.getD 0 none).map (fun q => q.pos) == some 6) = true := by
  decide +kernel

/-! ## Tokens, stalls and messages -/

/-- A packet from cell 5 to cell 4, for context 1. -/
def pkt (vn : Nat) (b : Payload) : Packet := { vn := vn, src := 5, dst := 4, ctx := 1, committed := true, body := b }

/-- A state with one packet in the network. -/
def hears (s : State) (vn : Nat) (b : Payload) : State := { s with net := [pkt vn b] }

/-- A token with value 9 for a codelet of frame 64, of class 2. -/
def tok (base ia port : Nat) : Token := { cont := mkCont 0 1 base ia port 2, val := 9, tag := 0x700000000, src := 5 }

/-- A token stands at the head of its path; the context has spilled others, up to a capacity. -/
def arriving (spill : List Token) (cap : Nat) : State :=
  (hears (demo []) 0 (.token (tok 64 23 0))).modCx 4 1 fun k => { k with spill := spill, spillCap := cap }

theorem test_arrival : (arriving [] 2).packet? 0 5 4 1 = some (pkt 0 (.token (tok 64 23 0))) ∧ ((arriving [] 2).cx 4 1).inst ≠ none ∧
    ((arriving [] 2).cx 4 1).voids (tok 64 23 0) = false ∧
    leaves (.tokenArrival 5 4 1) (arriving [] 2) (fun t => t.net == [] && (t.cell 4).inq == [tok 64 23 0] && (t.cx 4 1).spill == []) = true ∧
    leaves (.tokenArrival 5 4 1) (arriving [tok 64 20 0] 2) (fun t => (t.cell 4).inq == [] && (t.cx 4 1).spill == [tok 64 20 0, tok 64 23 0] &&
      (t.cx 4 1).perf == [(3, 1)]) = true ∧
    leaves (.tokenArrival 5 4 1) (arriving [tok 64 20 0] 1) (fun t => t == arriving [tok 64 20 0] 1) = true ∧
    leaves (.spillReturn 4 1) (arriving [tok 64 20 0, tok 64 23 0] 2) (fun t => (t.cell 4).inq == [tok 64 20 0] && (t.cx 4 1).spill == [tok 64 23 0]) = true ∧
    leaves (.imageFetchDone 4 1) ((demo []).modCx 4 1 fun k => { k with resident := false, frames := [] }) (fun t => (t.cx 4 1).resident && (t.cx 4 1).image == image) = true ∧
    leaves (.imageFetchDone 4 1) ((demo []).modCx 4 1 fun k => { k with resident := false }) (fun t => (t.cx 4 1).resident) = false ∧
    leaves (.imageFetchDone 4 1) ((demo []).modCx 4 1 fun k => { k with ahead := some ([5], false) }) (fun t => (t.cx 4 1).ahead == some ([5], true)) = true := by decide +kernel

/-- A token stands in the input queue; slot 69, the match slot of the codelet at 20, holds this. -/
def queued (q : Token) (m : Option Slot) : State := ((demo []).modCell 4 fun c => { c with inq := [q] }).setSlot 4 69 m

/-- The matcher discards a token, which kills its context: no CTL_FAULTC. -/
def discards (s : State) (q : Token) (e : FaultCode) : Bool :=
  leaves (.matcherTake 4) s fun t => t == (s.dequeue 4 q).discardTok 4 q e && (t.cell 4).inq == [] && t.insts == []

/-- The matcher makes a firing with these operands and empties the match slot. -/
def fires (s : State) (x1 x2 : Word) (ia : Nat) : Bool :=
  leaves (.matcherTake 4) s fun t => (t.cell 4).inq == [] && t.slot 4 69 == none && (t.cell 4).ready ==
    [{ cls := 2, since := 0, body := .fresh { ctx := 1, base := 64, hdr := ia, x1 := x1, x2 := x2, tag := 0x700000000, prio := 2 } }]

theorem test_matcher : (queued (tok 64 23 0) none).delivers 4 = true ∧
    (queued (tok 64 23 0) none).open? 4 (tok 64 23 0) = true ∧ headerOk image 23 = true ∧ headerOk image 26 = true ∧ headerOk image 2 = false ∧
    ((queued (tok 64 23 0) none).cell 4).newReady < 256 ∧
    discards (queued (tok 64 2 0) none) (tok 64 2 0) .badHeader = true ∧ discards (queued (tok 0 23 0) none) (tok 0 23 0) .frameFree = true ∧
    discards (queued (tok 64 26 0) none) (tok 64 26 0) .frameBound = true ∧
    leaves (.matcherTake 4) (queued (tok 64 20 0) (some (.deferred 0 7 2 0))) (fun t => (t.cell 4).inq == [] && t.insts == [] && (t.cell 4).touched == (0, [69])) = true ∧
    fires (queued (tok 64 23 0) none) 9 0 23 = true ∧ fires (queued (tok 64 20 0) (some (.full 4))) 9 4 20 = true ∧
    fires (queued (tok 64 20 1) (some (.full 4))) 4 9 20 = true ∧
    leaves (.matcherTake 4) (queued (tok 64 20 1) none) (fun t => t.slot 4 69 == some (.full 9) && (t.cell 4).ready == [] && (t.cell 4).inq == []) = true := by
  decide +kernel

/-- A firing of class 1 and, behind it, the resumption of record 2 in class 2 wait for the lane, which is free; 2048 ac have passed. -/
def ready : State :=
  let f : Fire := { ctx := 1, base := 64, hdr := 20, x1 := 7, x2 := 8, tag := 0x700000000, prio := 1 }
  let q : SuspRec := { regs := regs [(5, 0x55)], fir := fir1, slot := 67, value := some 6 }
  ({ demo [] with clock := { ac16 := Vector.replicate 8 (2048 * 16) } }).modCell 4 fun c => { c with
    lane := {}
    recs := [(2, q)]
    ready := [{ cls := 1, since := 0, body := .fresh f }, { cls := 2, since := 1, body := .resumed 2 }] }

theorem test_lane_take : (ready.cell 4).lane.busy = false ∧ ready.delivers 4 = true ∧ (readyHead (ready.cell 4).ready).map (·.cls) = some 2 ∧
    leaves (.laneTake 4) ready (fun t => (t.cell 4).lane == { busy := true, fir := fir1, regs := regs [(5, 0x55)], resume := some 6 } &&
      (t.cell 4).recs == [] && ((t.cell 4).ready.map fun r => r.cls) == [1]) = true ∧
    leaves (.laneTake 4) (ready.modCell 4 fun c => { c with ready := c.ready.take 1 }) (fun t => (t.cell 4).ready == [] && t.serial == 10 && (t.cell 4).lane ==
      { busy := true, fir := { ctx := 1, tag := 0x700000000, base := 64, hdr := 20, ia := 21, prio := 1, serial := 9 }, regs := regs [(1, 7), (2, 8), (3, 0x700000000)] }) = true ∧
    leaves (.readyPromotion 4 1) ready (fun t => ((t.cell 4).ready.map fun r => (r.cls, r.since)) == [(2, 1), (2, 2048)]) = true ∧
    leaves (.readyPromotion 4 2) ready (fun t => t == ready) = true := by decide +kernel

/-- The lane of cell 4 is held. -/
def held (s : State) (r : Stall) : State := (s.modLane fun l => { l with stall := some r })

/-- Every cell of the placement has recorded region 3. -/
def recordedAll : State := (regional.modCx 4 1 fun k => { k with regions := [(3, .opened)] }).modCx 5 1 fun k => { k with regions := [(3, .opened)] }

/-- What a queued command looks like here. -/
def command : Cmd := { uid := 3, op := .tcopy, who := (demo []).issuer, writes := [0] }

theorem test_stall_ends : Ref.sending (.send 2 0 0 false 0 0) = true ∧ ((held tiles (.seal 0)).unstall 4).atLast = false ∧
    leaves (.laneStallEnd 4) (held { sends with held := true } (.net (.send 2 0 0 false 0 0))) (fun t => sent t 4 (mkCont 0 1 64 20 1 1) 0x77 0x500000000) = true ∧
    leaves (.laneStallEnd 4) (held tiles (.blocks 9 0x123 1)) (fun t => t == held tiles (.blocks 9 0x123 1)) = true ∧
    leaves (.laneStallEnd 4) (held tiles (.blocks 9 0x123 0)) (fun t => t.x 9 == 0x123 && t.lane.stall == none && t.fir.ia == 3) = true ∧
    leaves (.laneStallEnd 4) (held tiles (.seal 0)) (fun t => ((t.cell 4).tile 0).sealed && t.fir.ia == 3) = true ∧
    leaves (.laneStallEnd 4) (held (tiles.modCell 4 fun c => { c with copyq := [command] }) (.seal 0)) (fun t => !((t.cell 4).tile 0).sealed && t.fir.ia == 2) = true ∧
    leaves (.laneStallEnd 4) (held recordedAll (.cropen 9 3)) (fun t => t.x 9 == 3 && t.fir.ia == 3) = true ∧
    leaves (.laneStallEnd 4) (held regional (.cropen 9 3)) (fun t => t == held regional (.cropen 9 3)) = true ∧
    leaves (.engineQueueRoom 4) (held (demo []) (.queue command)) (fun t => (t.cell 4).copyq == [command] && t.fir.ia == 3) = true ∧
    leaves (.engineQueueRoom 4) (held ((demo []).modCell 4 fun c => { c with copyq := List.replicate 16 command }) (.queue command))
      (fun t => (t.cell 4).copyq.length == 16 && t.fir.ia == 2) = true := by decide +kernel

/-- A frame request of cell 5. -/
def request : FrameReq := { src := 5, base := 0, reply := mkCont 1 1 0 20 0 0, tag := 0x500000000 }

/-- The pool of level 0 has all its frames in use. -/
def poolFull : State := (demo []).modCx 4 1 fun k => { k with pools := [(0, { cls := 2, max := 1, places := [192], live := 1 })] }

theorem test_frame_messages : (hears (demo []) 0 (.falloc 0 request)).message? 5 4 1 = some (pkt 0 (.falloc 0 request)) ∧
    ((demo []).cx 4 1).grantable 0 = some (0, false) ∧ (poolFull.cx 4 1).grantable 0 = none ∧ (demo []).late 4 1 request.tag = false ∧
    leaves (.fallocRequest 5 4 1) (hears (demo []) 0 (.falloc 0 request)) (fun t => t.frame? 4 1 0 == some { cls := 2 } && ((t.cx 4 1).pools.getD 0 {}).live == 2 &&
      t.net.map (fun p => (p.dst, p.also, p.body)) == [(5, some 5, .token { cont := mkCont 1 1 0 20 0 0, val := mkCont 0 1 0 0 0 0, tag := 0x500000000 })]) = true ∧
    leaves (.fallocRequest 5 4 1) (hears poolFull 0 (.falloc 0 request)) (fun t => ((t.cx 4 1).pools.getD 0 {}).queue == [request] && t.net == []) = true ∧
    leaves (.ffreeMessage 5 4 1) (hears (demo []) 0 (.ffree 64 {})) (fun t => t.lane.frees == [(64, {})] && (t.frame? 4 1 64).isSome) = true ∧
    leaves (.ffreeMessage 5 4 1) (hears frames 0 (.ffree 128 {})) (fun t => (t.frame? 4 1 128).isNone && t.slot 4 130 == none && t.slot 4 70 == some (.full 1) &&
      ((t.cx 4 1).pools.getD 0 {}).live == 1) = true := by decide +kernel

theorem test_heap_messages : (tiles.cell 4).fits (tiles.x 2) = true ∧ (tiles.cell 4).fits (tiles.x 5) = false ∧
    leaves (.countMessage 5 4 1) (hears tiles 0 (.count (tiles.x 2) 3 true {})) (fun t => ((t.cell 4).tile 1).count == 5) = true ∧
    leaves (.countMessage 5 4 1) (hears tiles 0 (.count (tiles.x 2) 1 false {})) (fun t => ((t.cell 4).tile 1).count == 1) = true ∧
    leaves (.countMessage 5 4 1) (hears tiles 0 (.count (tiles.x 3) 1 false {})) (fun t => (t.cell 4).tile 2 == { gen := 4 }) = true ∧
    leaves (.countMessage 5 4 1) (hears tiles 0 (.count (tiles.x 5) 1 false { tiles.issuer with cell := 4 })) (fun t => t.insts == []) = true ∧
    leaves (.countMessage 5 4 1) (hears tiles 0 (.count (tiles.x 2) 0 true { tiles.issuer with cell := 4 })) (fun t => t.insts == []) = true ∧
    leaves (.heapBlockZero 4) (tiles.modCell 4 fun c => { c with heap := { c.heap with zeroing := 2 } }) (fun t => (t.cell 4).heap.free == 2045 && (t.cell 4).heap.zeroing == 1) = true ∧
    leaves (.heapBlockZero 4) (tiles.modCell 4 fun c => { c with heap := { c.heap with zeroing := 2, owed := 1 } }) (fun t => (t.cell 4).heap.free == 2044 && (t.cell 4).heap.owed == 0) = true ∧
    leaves (.remoteHeapRequest 5 4 1) { hears tiles 2 (.hld (tiles.x 2) 5 7 {}) with ops := [{ id := 7, kind := .hld }] } (fun t => t.ops.map (fun o => o.result) == [some 0x40000000] &&
      t.net.map (fun p => (p.vn, p.src)) == [(3, 4)]) = true ∧
    leaves (.remoteHeapRequest 5 4 1) (hears tiles 2 (.hst (tiles.x 2) 5 tiles.issuer)) (fun t => t.insts == []) = true := by decide +kernel

/-- Operations 7 and 8 of the context are performed and wait to reply to slots 68, EMPTY, and 69, on which record 0 waits. -/
def replies : State := { (slots.modCell 4 fun c => { c.modCx 1 (fun k => { k with outstanding := 2 }) with recs := [(0, { fir := fir1, slot := 69 })] }) with
  ops := [{ id := 7, who := slots.issuer, slot := some 68, reply := some 0x44, flags := 16 }, { id := 8, who := slots.issuer, slot := some 69, reply := some 0x45 }] }

theorem test_replies : ((replies.cell 4).waiter 69).map (·.1) = some 0 ∧
    leaves (.producerReply 7) replies (fun t => t.ops.map (fun o => o.id) == [8] && t.slot 4 68 == some (.full 0x44) && (t.cx 4 1).outstanding == 1 &&
      (t.cx 4 1).ctl.flags == 16 && (t.cell 4).ready == []) = true ∧
    leaves (.producerReply 8) replies (fun t => t.slot 4 69 == some (.full 0x45) && (t.cell 4).ready == [{ cls := 2, since := 0, body := .resumed 0 }] &&
      ((t.cell 4).recs.getD 0 {}).value == some 0x45) = true ∧
    leaves (.producerReply 7) (replies.modCx 4 1 fun k => { k with frames := [] }) (fun t => t.slot 4 68 == none && t.ops.length == 1) = true := by decide +kernel

theorem test_sync_messages : leaves (.barrierMessage 5 4 1) (hears sync 0 (.bara 3 2 none { ctx := 1 })) (fun t => (t.cell 4).barrier 3 == { arrivals := 2, owner := 1 }) = true ∧
    leaves (.barrierMessage 5 4 1) (hears sync 0 (.bara 4 2 none { ctx := 1 })) (fun t => ((t.cell 4).barrier 4).arrivals == 9 && ((t.cell 4).barrier 4).armed) = true ∧
    leaves (.barrierMessage 5 4 1) (hears sync 0 (.bara 3 0 none { cell := 4, ctx := 1 })) (fun t => (t.cell 4).barrier 3 == {} && t.insts == []) = true ∧
    leaves (.wakeValue 4 1) (hears sync 4 (.wake 1 1 0x66 (3, 0, 0))) (fun t => (t.cell 4).wake 1 == { latch := some 0x66, owner := 1 } && t.net == []) = true ∧
    leaves (.wakeValue 4 2) (hears sync 4 (.wake 2 3 0x66 (3, 0, 0))) (fun t => (t.cell 4).wake 2 == { latch := some 0x55, owner := 1 } && (t.cell 4).perf == [(0x19, 1)]) = true ∧
    leaves (.wakeValue 4 1) (hears (sync.modCell 4 fun c => { c with wakes := [(1, { armed := true, cont := contTo 0 1, tag := 0x600000000, owner := 1 })] }) 4 (.wake 1 1 0x66 (3, 0, 0)))
      (fun t => (t.cell 4).wakes == [] && t.net.map (fun p => p.body) == [.token { cont := contTo 0 1, val := 0x66, tag := 0x600000000 }]) = true ∧
    leaves (.regionIdRecord 4 1) (hears regional 4 (.regionId 2)) (fun t => (t.cx 4 1).regions == [(2, .opened)] && t.net == []) = true := by decide +kernel

/-! ## Engines -/

/-- A command of context 1 of cell 4, with its record; its status slot is 100. -/
def ecmd (uid : Nat) (op : EngOp) (w : List Word) : Cmd := {
  uid := uid
  op := op
  who := { cell := 4, ctx := 1, tag := 0x500000000, base := 64 }
  recw := w
  statusSlot := 100 }

/-- An INT8 tile of so many rows and columns. -/
def int8 (rows cols : Nat) (els : Tbl Word) : Tile := {
  live := true
  sealed := true
  ctx := 1
  fmt := 6
  rows := rows
  cols := cols
  count := 1
  blocks := 1
  els := els }

/-- Cell 4 with a tile 0 of weights (1 2; 3 4), a tile 1 of activations (5 6) and an INT32 tile 2 of row numbers 1, 0. -/
def engines (m : Matrix) : State := (demo []).modCell 4 fun c => { c with matrix := m, heap := { tiles :=
  [(0, int8 2 2 [(0, 1), (1, 2), (2, 3), (3, 4)]), (1, int8 1 2 [(0, 5), (1, 6)]), (2, { int8 1 2 [(0, 1)] with fmt := 10 })] } }

/-- Weights 2 by 2 to bank 0 and to bank 1; rows 3 and 4 zeroed in columns 0 and 1; one row added at row 3 from bank 0; rows 3 and 4
drained to INT32. -/
def mwld : Cmd := ecmd 20 .mwld [mkHandle 0 1 0 1, 0, 0, 0x101]
def mwld1 : Cmd := ecmd 21 .mwld [mkHandle 0 1 0 1, 0, 0, 0x10101]
def macc : Cmd := ecmd 22 .macc [0x10103, 0, 0]
def mrun : Cmd := ecmd 23 .mrun [mkHandle 0 1 1 1, 0x10300 + 6 * 2 ^ 44, 0, 0]
def mdrain : Cmd := ecmd 24 .mdrain [0x10103, 10 * 2 ^ 4, 0]

/-- The bank that the weight load latches. -/
def bank : Bank := { valid := true, fmt := 6, k := 2, n := 2, w := [(0, 1), (1, 2), (64, 3), (65, 4)] }

/-- Accumulator words of rows 3 and 4. -/
def words : Tbl (BitVec 48) := [(192, 100), (194, 7), (256, -3), (257, 2 ^ 40)]

/-- An MRUN into row 3 from bank 0 is in execution. -/
def running : Run := { cmd := mrun, ready := true, span := (3, 1), count := 1 }

/-- A command that the matrix engine has taken and not carried out. -/
def taken (m : Cmd) (x : Matrix) : State := engines { x with runs := [{ cmd := m }] }

/-- What carrying it out leaves. -/
def worked (m : Cmd) (x : Matrix) (p : State → Bool) : Bool := p ((taken m x).matrixWork 4)

theorem test_matrix_take : (engines {}).runs 4 = true ∧ (match mwldBank (((engines {}).cell 4).readBy 20) mwld.recw with | .ok b => b == bank | .error _ => false) = true ∧
    leaves (.matrixTake 4) (engines { mq0 := [mwld], mq1 := [macc] }) (fun t => (t.cell 4).matrix == { mq1 := [macc], streak := 1, runs := [{ cmd := mwld }] }) = true ∧
    leaves (.matrixTake 4) (engines { mq0 := [mwld], mq1 := [macc], streak := 15 }) (fun t => (t.cell 4).matrix == { mq0 := [mwld], runs := [{ cmd := macc }] }) = true ∧
    leaves (.matrixTake 4) (engines { mq0 := [mwld1], runs := [{ cmd := mwld }] }) (fun t => (t.cell 4).matrix.mq0 == [mwld1]) = true ∧
    leaves (.matrixTake 4) (engines { mq0 := [mwld], runs := [running] }) (fun t => (t.cell 4).matrix.heldLoad == some mwld) = true ∧
    leaves (.matrixTake 4) (engines { mq1 := [macc], runs := [running] }) (fun t => (t.cell 4).matrix.heldRows == some macc) = true := by decide +kernel

theorem test_matrix_work : ((taken mwld {}).cell 4).matrix.unworked = some { cmd := mwld } ∧
    worked mwld {} (fun t => (t.cell 4).matrix.wb0 == bank && !(t.cell 4).matrix.wb1.valid &&
      (t.cell 4).matrix.runs.map (fun r => (r.cmd.uid, r.count, r.ready, r.worked)) == [(20, 4, true, true)]) = true ∧
    worked mwld1 {} (fun t => (t.cell 4).matrix.wb1 == bank && !(t.cell 4).matrix.wb0.valid) = true ∧
    worked macc { acc := words } (fun t => (t.cell 4).matrix.acc == [(194, 7)]) = true ∧
    (match mrunChecks ((engines { wb0 := bank }).cell 4) 1 mrun.recw with | .ok q => q.first == 3 && q.m == 1 && q.bank.n == 2 | .error _ => false) = true ∧
    worked mrun { acc := words, wb0 := bank } (fun t => (t.cell 4).matrix.acc == [(192, 123), (193, 34), (194, 7), (256, -3), (257, 2 ^ 40)]) = true := by decide +kernel

theorem test_matrix_hazards : leaves (.mwldBankFree 4) (engines { heldLoad := some mwld, runs := [running] }) (fun t => (t.cell 4).matrix.heldLoad == some mwld) = true ∧
    leaves (.mwldBankFree 4) (engines { heldLoad := some mwld }) (fun t => (t.cell 4).matrix == { runs := [{ cmd := mwld }] }) = true ∧
    leaves (.accumulatorHazardEnd 4) (engines { heldRows := some macc, runs := [running] }) (fun t => (t.cell 4).matrix.heldRows == some macc) = true ∧
    leaves (.accumulatorHazardEnd 4) (engines { heldRows := some macc }) (fun t => (t.cell 4).matrix == { runs := [{ cmd := macc }] }) = true ∧
    (match drainSpan ((engines {}).cell 4) 1 mdrain.recw with | .ok p => p == (3, 2, none) | .error _ => false) = true ∧
    (match destChecks 2 (mdrain.recw.getD 1 0) (mdrain.recw.getD 2 0) none with | .ok f => f == false | .error _ => false) = true ∧
    worked mdrain { acc := words } (fun t => ((t.cell 4).tile 3).els == [(0, 100), (2, 0xFFFFFFFD), (3, 0x7FFFFFFF)] &&
      ((t.cell 4).tile 3).hidden && (t.cell 4).matrix.runs.map (fun r => (r.made, r.count, r.flags)) == [(some (4, 3, 1), 2, 32)]) = true := by decide +kernel

/-- A product of one element: 1.5 times the weight 2, which has no scale. -/
def oneProduct : Mrun := {
  m := 1
  k := 1
  float := true
  first := 0
  products := []
  bank := { fmt := 0, k := 1, n := 1, w := [(0, 0x40000000)], scaleFmt := 14 }
  fmt := 0
  el := fun _ _ => 0x3FC00000
  scale := fun _ _ => none
  poisoned := false
  bad := none }

/-- R114: 1.5 · 2 is 3; added to 2^255 twice over it leaves the largest value; R112: 3 · 100 - 2 · 50 from 2^47 - 100 saturates. -/
theorem test_products : fmtOf oneProduct.fmt = some fp32 ∧ (∀ k, oneProduct.el 0 k < 2 ^ fp32.width) ∧ (oneProduct.bank.w.getD 0 0).toNat < 2 ^ 32 ∧
    some (oneProduct.cell 0 0 0) = preload 0 0x40400000 ∧
    ({ oneProduct with float := false, k := 2, fmt := 6, el := fun _ k => if k = 0 then 3 else 0xFE, bank := { fmt := 6, w := [(0, 100), (64, 50)] } } : Mrun).cell
      (2 ^ 47 - 101) 0 0 = (2 ^ 47 - 101, 32) := ⟨rfl, fun _ => (by decide : (0x3FC00000 : Nat) < 2 ^ 32), by decide +kernel, by decide +kernel, by decide +kernel⟩

/-- A drain with one row left for port 2 of vcell 1. -/
def drain : Run := { cmd := ecmd 24 .mdrain [0x10103, 0xA1, 2 ^ 53 + 2 * 2 ^ 40], rows := [(10, false, 7, [1, 2])] }

/-- The row as it travels. -/
def row : Row := { ctx := 1, fmt := 10, tag := 7, els := [1, 2] }

/-- Port 2 of cell 4 with so many rows. -/
def port2 (n : Nat) : State := (hears (demo []) 1 (.stream 2 row 24)).modCell 4 fun c => { c with ports := [(2, { rows := List.replicate n row })] }

theorem test_stream_rows : (engines { runs := [drain] }).maySend drain = true ∧
    leaves (.drainRowAccepted 4) (engines { runs := [drain] }) (fun t => (t.cell 4).matrix.runs == [{ drain with rows := [] }] &&
      t.net.map (fun p => (p.vn, p.dst, p.body)) == [(1, 5, .stream 2 row 24)]) = true ∧
    (Cell.port {} 2).fits row = true ∧ ((port2 32).cell 4 |>.port 2).fits row = false ∧
    leaves (.streamTokenArrival 5 4 1) (port2 1) (fun t => (t.cell 4).ports == [(2, { rows := [row, row] })] && t.net == []) = true ∧
    leaves (.streamTokenArrival 5 4 1) (port2 32) (fun t => t == port2 32) = true := by decide +kernel

/-- A completed command with a reply. -/
def ended (c : Option Word) : Run := { cmd := { mrun with cont := c }, ready := true, count := 3, value := 0x77, flags := 16, poisoned := true }

theorem test_complete : (engines {}).draining (ended none) = false ∧ (engines {}).frame? 4 1 64 = some { cls := 2 } ∧
    leaves (.commandComplete 4 .matrix) (engines { runs := [ended none, running] }) (fun t => (t.cell 4).matrix.runs == [running] && t.net == [] &&
      t.slot 4 100 == some (.full (2 ^ 63 + 3)) && (t.cx 4 1).ctl.flags == 80) = true ∧
    leaves (.commandComplete 4 .matrix) (engines { runs := [ended (some (mkCont 0 1 0 Config.returnIA 0 3))] }) (fun t => t.net.map (fun p => (p.vn, p.dst, p.also, p.body)) ==
      [(4, 2048, some 4, .ret { cont := mkCont 0 1 0 Config.returnIA 0 3, val := 0x77, tag := 0x500000000 })] && (t.cx 4 1).outstanding == 1) = true := by decide +kernel

/-- RSET of 2 inputs, 2 rows and 2 columns at port 2 from tag 6, to a stream in INT32; RFEED of tile 1 from tag 6. -/
def rset : Cmd := ecmd 30 .rset [1 + 2 ^ 8 + 2 ^ 16 + 2 * 2 ^ 24, 0xA1, 0, 6]
def rfeed : Cmd := ecmd 31 .rfeed [mkHandle 0 1 1 1, 6]

/-- The reduction it starts. -/
def reduction : Reduction := { run := { cmd := rset }, n := 2, rows := 2, cols := 2, port := 2, start := 6, float := false }

/-- A reducer with a row at its port. -/
def reducer (x : Reducer) (l : List Row) : State := (engines {}).modCell 4 fun c => { c with reducer := x, ports := [(2, { rows := l, bound := .reducer })] }

theorem test_reducer : (match rsetStart 2 rset with | .ok k => k == reduction | .error _ => false) = true ∧
    leaves (.reducerTake 4) (reducer { queue := [rset, rfeed] } []) (fun t => (t.cell 4).reducer == { queue := [rfeed], cur := some reduction }) = true ∧
    leaves (.reducerTake 4) (reducer { queue := [rfeed], cur := some reduction } []) (fun t => (t.cell 4).reducer == { cur := some reduction, feed := some ({ cmd := rfeed }, 0) }) = true ∧
    reduction.fate { row with tag := 8 } = .hold 2 ∧ reduction.fate row = .add 0 1 ∧ reduction.fate { row with tag := 10 } = .fail ∧
    leaves (.reducerRow 4 true) (reducer { cur := some reduction } [{ row with tag := 8 }]) (fun t => (t.cell 4).reducer.cur ==
      some { reduction with lastPort := true, store := [(2, 10, false, [1, 2])] } && ((t.cell 4).port 2).rows == []) = true ∧
    leaves (.reducerRow 4 true) (reducer { cur := some reduction } [row]) (fun t => (t.cell 4).reducer.cur.map (fun k => (k.next, k.sum)) ==
      some ([(1, 1)], [(64, 1), (65, 2)])) = true ∧
    leaves (.reducerRow 4 true) (reducer { cur := some { reduction with next := [(1, 1)], sum := [(64, 2 ^ 47 - 1), (65, 2)] } } [{ row with tag := 9 }])
      (fun t => (t.cell 4).reducer.cur.map (fun k => (k.next, k.sum, k.run.flags)) == some ([(1, 2)], [(64, 2 ^ 47 - 1), (65, 4)], 32)) = true ∧
    leaves (.reducerRow 4 true) (reducer { cur := some reduction } [{ row with tag := 10 }]) (fun t => (t.cell 4).reducer.cur == none && t.insts == []) = true := by
  decide +kernel

/-- A kernel at 1 whose body is VLD and VEND; parameters in slots from 100; its first input is port 2, its first output a new tile of 1 row of
4 FP32 elements. -/
def kimage : List IWord := [0, 2 ^ 31 + 2 * 2 ^ 10] ++ (encode (.vld 3 0)).toList ++ (encode .vend).toList ++ [0]
def vrun : Cmd := { ecmd 40 .vrun (List.replicate 6 0 ++ [0, 0]) with
  kernel := 1
  shapes := [some [2 ^ 63 + 2 ^ 28 + 2 * 2 ^ 8, 0, 4 + 0x1000100010000, 1, 0], none, none, none, some [2 * 2 ^ 28 + 3 * 2 ^ 16, 0, 4 + 0x1000100010000, 1, 0], none]
  shapeSlots := [80, 80, 80, 80, 90, 80] }

/-- The vector unit of cell 4. -/
def vector (v : Vec) (l : List Row) : State := (engines {}).modCell 4 fun c =>
  { c.modCx 1 (fun k => { k with image := kimage }) with vec := v, ports := [(2, { rows := l, bound := if v.run.isSome then .kernel else .none })] }

/-- The kernel waiting at its VLD for a row of 4. -/
def waits : Vec := { run := some { cmd := vrun }, buf := kimage.drop 2 |>.take 2, ins := [some { port := some 2, dims := [4, 1, 1, 1], strides := [1, 0, 0, 0] }], waiting := true }

theorem test_vector_unit : (match kernelChecks ((vector {} []).cell 4) ((vector {} []).cx 4 1) vrun with | .ok n => portsOf n.ins == [2] && n.buf.length == 2 | .error _ => false) = true ∧
    leaves (.vrunTake 4) (vector { queue := [vrun] } []) (fun t => (t.cell 4).vec.run.isSome && (t.cell 4).vec.queue == [] && ((t.cell 4).port 2).bound == .kernel &&
      ((t.cell 4).tile 3).cols == 4 && ((t.cell 4).tile 3).hidden && (t.cell 4).vec.outs.map (fun q => q.map fun q => (q.tile, q.made)) == [some (3, true), none]) = true ∧
    leaves (.vldRowReady 4) (vector waits []) (fun t => t == vector waits []) = true ∧
    leaves (.vldRowReady 4) (vector waits [{ row with fmt := 0, els := [1, 2, 3, 4] }]) (fun t => !(t.cell 4).vec.waiting && ((t.cell 4).port 2).rows.length == 1) = true ∧
    leaves (.kernelEnd 4) (vector { waits with ended := true, waiting := false } []) (fun t => (t.cell 4).vec.run == none && ((t.cell 4).port 2).bound == .none &&
      t.slot 4 100 == some (.full 0)) = true := by decide +kernel

/-- A tensor of 64 by 64 INT8 elements at tensor pages from 0x40000, under key slot 1, kept by the layout unit of context 1. -/
def descWords : List Word := [2 ^ 63 + 2 ^ 61 + 6 * 2 ^ 57 + 2 ^ 32, 64 + 64 * 2 ^ 32, 1 + 2 ^ 32, 64, 0x40000, 0, 0, 0]
def tensors : State := { (engines {}).modCx 4 1 fun k => { k with descs := [(0, descWords)] } with
  fns := [(3, { ttcount := 1, ntroot := 0x10000 })]
  keys := [(1, { owner := 3, owned := true, key := 0x99 })] }

/-- The copy queue of cell 4. -/
def copies (s : State) (m : Cmd) : State := s.modCell 4 fun c => { c with copyq := [m] }

/-- TFILL of 1 row of 3 INT8 elements; TCOPY of tile 0 to vcell 1; TLOAD of 2 rows of 3; TSTORE of tile 0 at (1, 0); TGATH into tile 0 and
TSCAT from tile 0 of two rows of 2 elements. -/
def tfill : Cmd := ecmd 50 .tfill [6 + 2 * 2 ^ 16 + 2 * 2 ^ 28, 0x1FE]
def tcopy : Cmd := ecmd 51 .tcopy [mkHandle 0 1 0 1, 1, 0]
def tload : Cmd := ecmd 52 .tload [0, 0, 0, 0x60201, 0]
def tstore : Cmd := ecmd 53 .tstore [mkHandle 0 1 0 1, 2 ^ 32, 0, 0]
def tgath : Cmd := ecmd 54 .tgath [0, mkHandle 0 1 2 1, 2, mkHandle 0 1 0 1]
def tscat : Cmd := ecmd 55 .tscat [0, mkHandle 0 1 2 1, 2, mkHandle 0 1 0 1]

/-- The one operation of a copy command and the granules it touches. -/
def opens (m : Cmd) (k : OpKind) (l : List (Nat × Nat)) : Bool := leaves (.copyTake 4) (copies tensors m) fun t =>
  (t.cell 4).copies.map (fun r => (r.cmd.uid, r.op, r.opened)) == [(m.uid, some m.uid, true)] && t.ops.map (fun o => (o.id, o.kind, o.checked)) == [(m.uid, k, true)] &&
    t.ops.flatMap (fun o => o.pieces.map fun p => (p.pgo, p.mask)) == l

theorem test_copy_engine : copyRecord tfill = .ok () ∧ copyRecord tload = .ok () ∧ (tensors.cell 4).tileBusy tload = false ∧ tensors.acqBefore tload = false ∧
    tensors.descRead tload.who 3 0 = .ok descWords ∧ (match descCheck descWords with | .ok d => d.rank == 2 && d.pitch == 64 | .error _ => false) = true ∧
    leaves (.copyTake 4) (copies tensors tfill) (fun t => ((t.cell 4).tile 3).els == [(0, 0xFE), (1, 0xFE), (2, 0xFE)] && ((t.cell 4).tile 3).hidden &&
      (t.cell 4).copies.map (fun r => (r.made, r.count, r.ready)) == [(some (4, 3, 1), 3, true)]) = true ∧
    leaves (.copyTake 4) (copies tensors tcopy) (fun t => (t.cell 4).copies.map (fun r => (r.made, r.count, r.ready)) == [(none, 4, false)] &&
      t.net.map (fun p => (p.vn, p.dst, p.body)) == [(0, 5, .alloc 51 6 2 2 tcopy.who)]) = true ∧
    opens tload .cread [(0, 0), (64, 0)] = true ∧ opens tstore .cwrite [(64, 3), (128, 3)] = true ∧ opens tgath .cread [(64, 0), (0, 0)] = true ∧
    opens tscat .cwrite [(64, 3), (0, 3)] = true := by decide +kernel

/-- The TCOPY has its tile on cell 5, and has made and landed so many transfers. -/
def copying (passed landed : Nat) : Run := { cmd := tcopy, count := 4, made := some (5, 0, 1), passed := passed, landed := landed }

/-- A packet of a copy command has come to cell `dst`. -/
def comes (s : State) (vn src dst : Nat) (b : Payload) (p : State → Bool) : Bool :=
  let k := { pkt vn b with src := src, dst := dst, counts := false }
  p ({ s with net := [k] }.takeIn 0 k)

/-- Tile 0 of cell 5 is there for it. -/
def hollow (s : State) : State := s.modCell 5 fun c => { c with heap := { tiles := [(0, { int8 2 2 [] with hidden := true, gen := 1 })] } }

/-- The run of the copy engine of cell 4. -/
def run4 (s : State) (r : Run) : State := s.modCell 4 fun c => { c with copies := [r] }

theorem test_transfers : comes tensors 0 4 5 (.alloc 51 6 2 2 tcopy.who) (fun t => ((t.cell 5).tile 0).live && ((t.cell 5).tile 0).hidden && ((t.cell 5).tile 0).cols == 2 &&
      t.net.map (fun p => (p.vn, p.dst, p.body)) == [(3, 4, .allocated 51 (.ok (0, 1)) tcopy.who)]) = true ∧
    comes (run4 tensors { cmd := tcopy, count := 4 }) 3 5 4 (.allocated 51 (.ok (0, 1)) tcopy.who) (fun t => (t.cell 4).copies == [copying 0 0] && t.net == []) = true ∧
    (let t := (run4 tensors (copying 0 0)).xfer 4 (copying 0 0); (t.cell 4).copies == [copying 1 0] && (t.net.map fun p => (p.vn, p.dst, p.body)) ==
      [(2, 5, .tile 51 0 1 0 [1, 2] tcopy.who)]) = true ∧
    comes (hollow tensors) 2 4 5 (.tile 51 0 1 0 [1, 2, 3, 4] tcopy.who) (fun t => ((t.cell 5).tile 0).els == [(0, 1), (1, 2), (2, 3), (3, 4)] &&
      t.net.map (fun p => (p.vn, p.dst, p.body)) == [(3, 4, .tileAck 51 tcopy.who)]) = true ∧
    comes (run4 tensors (copying 2 0)) 3 5 4 (.tileAck 51 tcopy.who) (fun t => (t.cell 4).copies == [copying 2 1]) = true ∧
    comes (run4 tensors (copying 2 1)) 3 5 4 (.tileAck 51 tcopy.who) (fun t => (t.cell 4).copies == [{ copying 2 2 with ready := true }]) = true ∧
    comes (tensors.modCx 5 1 fun k => { k with regions := [(2, .failed)] }) 0 4 5 (.alloc 51 6 2 2 { tcopy.who with tag := 2 ^ 25 }) (fun t => t.net == [] &&
      ((t.cell 5).tile 0).live == false) = true := by decide +kernel

/-! ## Memory operations -/

/-- The translations that stand in the caches: tensor page 0 of the tensor at guest page 0x80000, at 0x30000. -/
def caches : List TlbEntry := [{ fn := 3, root := some (0x40000, 0), gpa := 0x80000, bytes := 0x10000 },
  { fn := 3, gpa := 0x80000, bytes := 0x10000, pa := 0x30000, r := true, w := true }]

/-- An operation of context 1 of cell 4 whose one piece is so many bytes at 0x30040. -/
def mop (k : OpKind) (p : Piece) : MemOp := { id := 7, kind := k, who := { cell := 4, ctx := 1, tag := 0x500000000 }, inst := (3, 7), checked := true, dw := descWords, root := 0x40000, key := 0x99, pieces := [p] }
def away (n : Nat) : Piece := { pgo := 64, len := n, nel := n, gpa := 0x80040, xl := .at 0x30040 }

/-- The piece has come to its stack. -/
def there (n : Nat) : Piece := { away n with asked := .there }

/-- A module with one operation; memory from 0x30040 holds the number `v`. -/
def memory (v : Nat) (o : MemOp) : State := { tensors with
  tlb := caches
  ops := [o]
  mem := Memory.writeBytes [] 0x30040 (leBytes v 8)
  clock := { ac16 := Vector.replicate 8 (2 ^ 20 * 16) } }

/-- Stack 0 with one sub-log and these segments. -/
def logged (s : State) (key : Nat) (l : SubLog) (g : List Segment) : State := s.modStack 0 fun _ => { subs := [(key, l)], segs := g }

/-- Two bytes written to the granule at 0x30040. -/
def two : Entry := { dataEntry 0xC01 (0xAA :: 0xBB :: List.replicate 62 0) 3 0 (some 0x99) 0x80040 with seq := 4 }

/-- The answer to piece 0 leaves stack 0. -/
def answers (t : State) : Bool := t.net.map (fun p => (p.vn, p.src, p.dst, p.body)) == [(3, stackPort 4 0, 4, .answer 7 0 (mop .ldg {}).who)]

/-- What a cell receives from stack 0, or the stack from the cell. -/
def fromStack (s : State) (b : Payload) (p : State → Bool) : Bool := comes s 3 (stackPort 4 0) 4 b p
def toStack (s : State) (b : Payload) (p : State → Bool) : Bool := comes s 2 4 (stackPort 4 0) b p

theorem test_walk : (memory 0 (mop .ldg { away 3 with xl := .todo, gpa := 0 })).xlate 4 3 0x40000 0 0x10000 64 false = .ok 0x30040 0x80040 0x10000 true ∧
    (memory 0 (mop .ldg { away 3 with xl := .todo, gpa := 0 })).pageTurn (mop .ldg (away 3)) 0 0 = true ∧
    leaves (.translationWalk 7 0) (memory 0 (mop .ldg { away 3 with xl := .todo, gpa := 0 })) (fun t => t.ops == [mop .ldg (away 3)]) = true := by decide +kernel

theorem test_load : (memory 0x030201 (mop .ldg (away 3))).mayGo (mop .ldg (away 3)) 0 (away 3) 0 = true ∧ stackOf 0x30040 = 0 ∧
    (let t := (memory 0 (mop .ldg (away 3))).ask 7 0; t.ops.map (fun o => o.pieces.map (·.asked)) == [[.sent]] &&
      t.net.map (fun p => (p.vn, p.src, p.dst, p.body)) == [(2, 4, stackPort 4 0, .request 7 0 (mop .ldg {}).who)]) = true ∧
    toStack (memory 0 (mop .ldg { away 3 with asked := .sent })) (.request 7 0 (mop .ldg {}).who) (fun t => t.ops == [mop .ldg (there 3)] && t.net == []) = true ∧
    (memory 0x030201 (mop .ldg (there 3))).scWait (mop .ldg (there 3)) 0 (granOf 0x30040) = false ∧ (tensors.cx 4 1).log = 0x20000 ∧
    leaves (.loadServe 7 0) (memory 0x030201 (mop .ldg (there 3))) (fun t => t.ops.map (fun o => (o.result, o.pieces.map (·.done))) == [(some 0x030201, [true])] &&
      answers t) = true ∧
    leaves (.loadServe 7 0) (logged (memory 0x030201 (mop .ldg (there 3))) 0x20000 { entries := [two] } []) (fun t => t.ops.map (fun o => o.result) == [some 0x03BBAA]) = true ∧
    leaves (.loadServe 7 0) ((memory 0x030201 (mop .ldg (there 3))).badGranule 0xC01 0) (fun t => t.ops.map (fun o => o.fault) == [some (.poison, 0, 0)] && answers t) = true ∧
    fromStack (memory 0 { mop .ldg { there 3 with done := true } with result := some 5 }) (.answer 7 0 (mop .ldg {}).who) (fun t =>
      t.ops.map (fun o => o.reply) == [some 5] && t.net == []) = true ∧
    fromStack (memory 0 { mop .ldg { there 3 with done := true } with fault := some (.poison, 0, 0) }) (.answer 7 0 (mop .ldg {}).who) (fun t =>
      t.ops == [] && t.insts == []) = true := by decide +kernel

/-- A chain load at its link word, with a limit of hops, `n` hops done. -/
def chain (h n : Nat) : MemOp := { mop .ldch (there 8) with recw := [0, 0, 0, word (h + 2 ^ 8)], hops := n, cur := 16 }

/-- What a hop leaves. -/
def hop (v : Nat) (o : MemOp) (p : MemOp → Bool) : Bool := leaves (.ldchHop 7) (memory v o) fun t => t.ops.map p == [true]

theorem test_chain : ((chain 1 0).desc.map fun d => d.dim 0) = some 64 ∧ hop 24 (chain 0 0) (fun o => o.result == some 16) = true ∧
    hop (2 ^ 64 - 1) (chain 5 2) (fun o => o.result == some (2 ^ 63 + 2 * 2 ^ 32 + 16)) = true ∧ hop 24 (chain 3 2) (fun o => o.result == some (3 * 2 ^ 32 + 24)) = true ∧
    hop 24 (chain 4 2) (fun o => o.result == none && o.hops == 3 && o.cur == 24 && o.there == 1 && o.pieces == [{ pgo := 32, len := 8 }]) = true ∧
    leaves (.ldchHop 7) (memory 49 (chain 4 2)) (fun t => t.ops.map (fun o => o.fault) == [some (.shape, 49, 0)] && answers t) = true ∧
    leaves (.ldchHop 7) (memory 56 (chain 4 2)) (fun t => t.ops.map (fun o => o.fault) == [some (.shape, 56, 0)]) = true := by decide +kernel

/-- A store of two bytes. -/
def store (o : MemOp) : MemOp := { o with kind := .stg, cont := some (contTo 1 0), pieces := [{ there 64 with nel := 0, mask := 3, data := two.bytes }] }

/-- The token of a memory operation that has ended. -/
def told (t : State) (v : Word) : Bool := t.ops == [] && t.net.map (fun p => (p.dst, p.body)) == [(5, .token { cont := contTo 1 0, val := v, tag := 0x500000000 })]

/-- A ring with room for one entry, which it holds, and a store that has waited on it since ac 0. -/
def fullRing (o : MemOp) : State := logged (memory 0 o) 0x20000 { size := 128, entries := [two], tail := 5 } []
def waited : MemOp := { store (mop .stg {}) with pieces := [{ there 64 with nel := 0, mask := 3, data := two.bytes, wait := some 0 }] }

/-- The store stands in the log. -/
def stored : MemOp := { store (mop .stg {}) with pieces := [{ there 64 with nel := 0, mask := 3, data := two.bytes, done := true }] }

theorem test_store : (memory 0 (store (mop .stg {}))).runs 4 = true ∧ ({ size := 128 } : SubLog).aligned ∧
    leaves (.logEntryAppend 7 0) (logged (memory 0 (store (mop .stg {}))) 0x20000 { tail := 4 } []) (fun t => t.ops == [stored] && answers t && (t.sub 0 0x20000).tail == 5 &&
      (t.sub 0 0x20000).entries == [{ two with stamp := 9 }]) = true ∧
    fromStack (memory 0 stored) (.answer 7 0 stored.who) (fun t => told t 0) = true ∧
    leaves (.logEntryAppend 7 0) (fullRing (store (mop .stg {}))) (fun t => t.ops.map (fun o => o.pieces.map (·.wait)) == [[some (2 ^ 20)]] && (t.sub 0 0x20000).entries == [two]) = true ∧
    leaves (.storeRingSpace 7) (memory 0 waited) (fun t => t.ops.map (fun o => o.pieces.map (·.wait)) == [[none]]) = true ∧
    leaves (.storeRingSpace 7) (fullRing waited) (fun t => t == fullRing waited) = true ∧
    leaves (.logFull 7) (fullRing waited) (fun t => t.insts == []) = true ∧
    leaves (.logFull 7) { fullRing waited with clock := { ac16 := Vector.replicate 8 ((2 ^ 20 - 1) * 16) } } (fun t => t.insts == [inst7]) = true ∧
    leaves (.scStoreApply 7) (memory 0 { stored with opened := true }) (fun t => t.ops == [{ stored with opened := true }] && answers t) = true ∧
    leaves (.peerAck 7) (memory 0 { store (mop .stg {}) with peer := some 8, pieces := [{ there 64 with mask := 3, via := some 0 }] }) (fun t =>
      t.net.map (fun p => (p.src, p.dst, p.body)) == [(septordAt 4 0, 4, .answer 7 0 stored.who)] && (t.cx 4 1).peersOut == [8]) = true ∧
    inStacks (0xC01 * 64) 64 = true ∧
    leaves (.peerStoreArrival (8, 1) 0xC01 3 5) (memory 0 (mop .ldg {})) (fun t => (t.sub 0 (inboundKey 8 1)).entries.map (fun e => (e.gran, e.mask, e.data, e.published)) == [(0xC01, 3, 5, false)] &&
      (t.sub 0 (inboundKey 8 1)).src == 0xFC00 && (t.sub 0 (inboundKey 8 1)).smod == 8) = true :=
  ⟨by decide +kernel, (by intro b h; cases h), by decide +kernel⟩

/-- A release of the context, and one that has begun with stack 0 in its mask. -/
def release : MemOp := { mop .rel {} with pieces := [], cont := some (contTo 1 0), dw := [] }
def begun (a : BitVec 16) : MemOp := { release with opened := true, mask := 1, rseq := 6, acked := a }

/-- The publish acknowledgement leaves stack 0. -/
def acks (t : State) : Bool := t.net.map (fun p => (p.vn, p.src, p.dst, p.body)) == [(3, stackPort 4 0, 4, .ack 7 0 release.who)]

theorem test_release : leaves (.publishMessage 7 0) (logged (memory 0 release) 0x20000 { entries := [two] } []) (fun t => (t.cx 4 1).rseq == 1 &&
      t.ops == [{ release with opened := true, mask := 1, rseq := 1, sent := 9 }]) = true ∧
    (memory 0 (begun 0)).mayPublish (begun 0) 0 = true ∧ (begun 0).toPublish 0 = true ∧
    (let t := (memory 0 (begun 0)).ask 7 0; t.ops == [{ begun 0 with told := 1 }] && t.net.map (fun p => (p.vn, p.dst, p.body)) == [(2, stackPort 4 0, .publish 7 0 release.who)]) = true ∧
    toStack (memory 0 { begun 0 with told := 1 }) (.publish 7 0 release.who) (fun t => t.ops == [{ begun 0 with told := 1, there := 1 }]) = true ∧
    leaves (.publishMessage 7 0) (logged (memory 0 { begun 0 with told := 1, there := 1 }) 0x20000 { entries := [two] } []) (fun t => t.ops == [{ begun 0 with told := 1, there := 1, pub := 1 }] && acks t &&
      (t.sub 0 0x20000).entries == [{ two with published := true }] && (t.stack 0).segs == [{ key := 0x20000, count := 1, first := 4, rseq := 6, kind := .release, ia := 0, tag := 0x500000000 }]) = true ∧
    fromStack (memory 0 (begun 0)) (.ack 7 0 release.who) (fun t => t.ops == [begun 1]) = true ∧
    (begun 1).accepted = true ∧ leaves (.releaseAccepted 7) (memory 0 (begun 1)) (fun t => told t (2 ^ 50 + 2 ^ 34 + 6)) = true := by decide +kernel

/-- A release that waits while a store of its context stands before a full ring. -/
def stalled : State := let s := fullRing { waited with id := 6 }
  { s with ops := s.ops ++ [release] }

theorem test_interim : stalled.mayInterim release 0 = true ∧
    (let t := stalled.ask 7 0; t.ops == [{ waited with id := 6 }, { release with interim := 1 }] && t.net.map (fun p => (p.vn, p.dst, p.body)) ==
      [(2, stackPort 4 0, .interim 7 0 release.who)]) = true ∧
    leaves (.publishMessage 7 0) (fullRing { release with interim := 1, there := 1 }) (fun t => t.ops == [release] && t.net == [] &&
      (t.sub 0 0x20000).entries == [{ two with published := true }] && (t.stack 0).segs.map (fun g => (g.kind, g.count)) == [(.interim, 1)]) = true := by decide +kernel

/-- A published segment of one entry, of a context's log and of a function's. -/
def published (key : Nat) (e : Entry) : State := logged (memory 0x030201 (mop .ldg {})) key { entries := [{ e with published := true }], tail := 5 }
  [{ key := key, count := 1, first := 4, rseq := 6, kind := .release, ia := 0 }]

theorem test_replay : Segment.sound { key := 0x20000, count := 1, first := 4, rseq := 6 } [{ two with published := true }] = true ∧
    leaves (.segmentReplay 0) (published 0x20000 two) (fun t => t.rdBytes 0x30040 3 == [0xAA, 0xBB, 3] && (t.stack 0).segs == [] && (t.stack 0).doneSegs == 1 &&
      (t.sub 0 0x20000).applied == 6 && (t.sub 0 0x20000).entries == []) = true ∧
    leaves (.segmentReplay 0) (published 3 { two with bad := true }) (fun t => t.rdBytes 0x30040 3 == [1, 2, 3] && (t.sub 0 3).failedFrom == some 6 && (t.stack 0).segs == []) = true := by
  decide +kernel

/-- A REMAP of the page at 0x30000 to 0x50000 stands in the sub-log of stack 1, its commit still to come. -/
def remapDue : Entry := { kind := .remap, gran := 0xC00, data := 0x50000 * 2 ^ 64, stamp := 5, published := true }

/-- R94: an entry of the same log after the REMAP goes to the new page, one before it and one of another log to the old page. -/
theorem test_landing : let s := (published 0x20000 two).modSub 1 0x20000 fun _ => { entries := [remapDue] }
    remapDue.page = 0x50000 ∧ s.remapsDue 0x20000 = [remapDue] ∧ { two with stamp := 6 }.landing [] [remapDue] 0x20000 = 0x1401 ∧
    { two with stamp := 4 }.landing [] [remapDue] 0x20000 = 0xC01 ∧
    { two with stamp := 6 }.landing [{ page := 0x30000, next := 0x50000, log := 0x20000, stamp := 5 }] [] 0x20000 = 0x1401 ∧
    { two with stamp := 6 }.landing [{ page := 0x30000, next := 0x50000, log := 0x20000, stamp := 5 }] [] 3 = 0xC01 ∧
    superseded [remapDue] { two with stamp := 4 } = true ∧ superseded [remapDue] { two with stamp := 6 } = false := by decide +kernel

/-- An old page of 64 KiB at 0x30000 is on its way back. -/
def leavingPage (w : List Nat) : State := { memory 0x030201 (mop .ldg {}) with leaving := [{ fn := 3, page := 0x30000, waits := w, next := 0x50000 }] }

theorem test_page_return : leaves (.shadowPageReturn 0x30000) (leavingPage [7]) (fun t => t == leavingPage [7]) = true ∧
    leaves (.shadowPageReturn 0x30000) (leavingPage [5]) (fun t => t.mem == [] && t.leaving == [] && (t.fn 3).shadow == [(0, 0x30000)]) = true := by decide +kernel

/-- An AMO.ADD of 0x10 to 32 bits. -/
def amo (b : Bool) : MemOp := { mop .amo (there 4) with recw := [0, 0, 0, 0x10 * 2 ^ 32, 0, 0], opened := b }

theorem test_atomic : leaves (.amoPerform 7) (memory 0xFFFFFFF5 (amo false)) (fun t => t.ops == [amo true] && (t.stack 0).segs.map (fun g => (g.kind, g.op)) == [(.amo, 7)]) = true ∧
    leaves (.amoPerform 7) (memory 0x3FFFFFFF5 (amo true)) (fun t => t.rdBytes 0x30040 8 == [5, 0, 0, 0, 3, 0, 0, 0] &&
      t.ops.map (fun o => (o.result, o.flags, o.opened)) == [(some 0xFFFFFFF5, 0, true)] && answers t) = true := by decide +kernel

/-- An acquire of release 6 of vcell 0's log at stack 0, and of all of memory. -/
def acquire : MemOp := { release with kind := .acq, val := 2 ^ 50 + 2 ^ 34 + 6, mask := 1 }
def acquireAll (a : BitVec 16) : MemOp := { release with kind := .acqa, acked := a }

theorem test_acquire : (memory 0 acquire).tokenLog acquire = 0x20000 ∧
    leaves (.acqComplete 7) (logged (memory 0 { acquire with there := 1 }) 0x20000 { applied := 6 } []) (fun t => t.ops == [{ acquire with there := 1, pub := 1 }] && acks t) = true ∧
    leaves (.acqComplete 7) (logged (memory 0 { acquire with there := 1 }) 0x20000 { applied := 5 } []) (fun t => t.ops == [{ acquire with there := 1 }] && t.net == []) = true ∧
    leaves (.acqComplete 7) (memory 0 { acquire with acked := 1 }) (fun t => told t (2 ^ 50 + 2 ^ 34 + 6) && (t.cx 4 1).descs == []) = true ∧
    leaves (.acqComplete 7) (logged (memory 0 { acquire with there := 1 }) 0x20000 { applied := 6, failedFrom := some 4 } []) (fun t =>
      t.ops == [{ acquire with there := 1, pub := 1, failed := some (0, 4) }] && acks t) = true ∧
    leaves (.acqComplete 7) (memory 0 { acquire with acked := 1, failed := some (0, 4) }) (fun t => t.ops == [] && t.insts == []) = true ∧
    toStack (published 0x20000 two |> fun s => { s with ops := [acquireAll 0xFFFE] }) (.publish 7 0 release.who) (fun t => t.ops == [{ acquireAll 0xFFFE with there := 1, marks := [(0, 1)] }]) = true ∧
    leaves (.acqaMarker 7 0) (published 0x20000 two |> fun s => { s with ops := [{ acquireAll 0xFFFE with there := 1, marks := [(0, 1)] }] }) (fun t => t.net == []) = true ∧
    leaves (.acqaMarker 7 0) (memory 0 { acquireAll 0xFFFE with there := 1, marks := [(0, 0)] }) (fun t => t.ops.map (·.pub) == [1] && acks t) = true ∧
    leaves (.acqaMarker 7 0) (memory 0 (acquireAll 0xFFFF)) (fun t => told t 0 && (t.cx 4 1).descs == []) = true := by decide +kernel

/-- A TLOAD of two rows of three elements: the first piece has been answered, the second has been served. -/
def loading (asked : Bool) : State :=
  let o : MemOp := { mop .cread {} with
    id := 52
    who := tload.who
    rows := [[0, 0], [0, 1]]
    pieces := [{ there 3 with pgo := 0, done := true, back := true, data := [1, 2, 3] }, { there 3 with elem := 1, done := true, data := [4, 5, 6] }] }
  run4 (memory 0 o) { cmd := tload, op := some 52, opened := true, asked := asked }

theorem test_tload : ((loading true).op? 52).bind (loading true).copyRun = some { cmd := tload, op := some 52, opened := true, asked := true } ∧
    fromStack (loading true) (.answer 52 1 tload.who) (fun t => t.ops == [] && t.net == [] &&
      (t.cell 4).copies.map (fun r => (r.ready, r.op, r.out)) == [(false, none, some [1, 2, 3, 4, 5, 6])]) = true ∧
    fromStack (loading true) (.answer 52 0 tload.who) (fun t => t.ops.length == 1) = true := by decide +kernel
/-! ## Host registers, windows and queues -/

/-- An image of one load of one vcell: a pool of one frame of 16 slots, no entries, a code word; its CRC stands in word 3. -/
def imageBody : List Word := [0x4D594231, 1 + 2 ^ 8, 136, 0, 48, 12 * 2 ^ 8 + 12 * 2 ^ 16, 1, 1 + 2 ^ 8 + 2 ^ 20, 0, 0, 0, 0, 0, 0, 0, 0, 0]
def imageWords : List Word := imageBody.set 3 (word (imageCrc imageBody).toNat)

/-- Function 3 with two queues, partition 2 of bay 1, image 0 at guest page 0x81000; guest page 0x80000 of 64 KiB lies at 0x30000, where 0x30040 holds 5. -/
def host (k : Queue) : State := { demo [] with
  fns := [(3, { qcount := 2, parts := 4, itbase := 0x80800, itcount := 1, queues := [(0, k)] })]
  parts := [(2, { bays := 2, st := .granted, tenant := 9, vf := 3 })]
  tlb := caches
  mem := Memory.writeBytes (Memory.writeBytes (Memory.writeBytes [] 0x30040 [5]) 0x30800 (leBytes 0x81001 8)) 0x31000 (wordBytes imageWords) }

/-- A queue at a packet that has been fetched. -/
def packetAt (w : List Word) : Queue := { base := 0x82000, en := true, st := .active, notify := w.length, fetched := w.zipIdx.map fun e => (0, e.2, e.1) }
def pkt' (w : List Word) : State := host (packetAt w)

/-- The header of a packet. -/
def phead (op len arg : Nat) : Word := word (op * 2 ^ 56 + len * 2 ^ 44 + arg)

/-- A register write. -/
def writes (f off : Nat) (v : BitVec 64) (p : State → Bool) : Bool := leaves (.registerWrite f off v) (host {}) p

theorem test_registers : writes 3 0x08 0x12345 (fun t => (t.fn 3).ttbase == 0x12340) = true ∧ writes 3 0x10 0x7FFFFF (fun t => (t.fn 3).ttcount == 0x1FFFFF) = true ∧
    writes 3 0x18 0x12345 (fun t => (t.fn 3).itbase == 0x12340) = true ∧ writes 3 0x20 7 (fun t => (t.fn 3).itcount == 7) = true ∧
    writes 3 0x38 0x1000005 (fun t => (t.fn 3).postq == 5 && (t.fn 3).posten) = true ∧ writes 3 0x40 (2 ^ 32 + 9) (fun t => (t.fn 3).wdog == 9) = true ∧
    writes 3 0x28 9 (fun t => t == host {}) = true ∧ writes 0 0x20808 9 (fun t => t.mgmt.arg0 == 9) = true ∧ writes 0 0x20418 0x12345678 (fun t => (t.fn 3).ntroot == 0x12345000) = true ∧
    writes 0 0x100020 (-2) (fun t => t.ckpt.ctl == 0x00FFFFFFFFFF0000) = true ∧
    writes 0 0x20090 (2 ^ 32 * 7 + 5) (fun t => (t.parts.getD 2 {}).whbm == 7 && (t.parts.getD 2 {}).wring == 1 && (t.parts.getD 2 {}).tenant == 9) = true ∧
    writes 0 0x20050 (2 ^ 16 * 4 + 5) (fun t => (t.parts.getD 1 {}).tenant == 5 && (t.parts.getD 1 {}).vf == 4) = true ∧
    leaves (.ringRestart 3 0x48 0x123459) (host {}) (fun t => (t.fn 3).fring == { base := 0x123000, lsize := 9 } && (t.fn 3).faultId == 0) = true ∧
    leaves (.ringRestart 3 0x58 0x123452) (host {}) (fun t => (t.fn 3).diag == { base := 0x123000, lsize := 2 }) = true ∧
    leaves (.ringRestart 3 0x60 0x123012) (host {}) (fun t => (t.fn 3).recEn && !(t.fn 3).recReplay && (t.fn 3).recr.base == 0x123000) = true ∧
    leaves (.ringRestart 0 0x100018 0x123001) (host {}) (fun t => t.errRing == { base := 0x123000, lsize := 1 }) = true := by decide +kernel

/-- A queue that holds a launch. -/
def live : Queue := { en := true, st := .active, live := [4], head := 2, notify := 2 }

theorem test_queue_registers : writes 3 0x200000 0x82345 (fun t => (t.queue 3 0).base == 0x82000) = true ∧ writes 3 0x200008 16 (fun t => (t.queue 3 0).size == 16) = true ∧
    writes 3 0x200008 11 (fun t => (t.queue 3 0).size == 12) = true ∧ leaves (.ringRestart 3 0x200030 0x9002) (host {}) (fun t => (t.queue 3 0).cring == { base := 0x9000, lsize := 2 }) = true ∧
    leaves (.ringRestart 3 0x2000B8 0x9002) (host {}) (fun t => (t.queue 3 1).ering == { base := 0x9000, lsize := 2 }) = true ∧
    leaves (.registerWrite 3 0x200000 0x82345) (host live) (fun t => (t.queue 3 0) == live) = true ∧ leaves (.ringRestart 3 0x200030 0x9002) (host live) (fun t => t == host live) = true ∧
    leaves (.qNotify 3 0 5) (logged (host live) 3 { entries := [two] } []) (fun t => (t.queue 3 0).notify == 5 && (t.queue 3 0).st == .active && (t.sub 0 3).entries == [{ two with published := true }]) = true ∧
    leaves (.qNotify 3 0 512) (host live) (fun t => (t.queue 3 0).st == .error && (t.queue 3 0).code == 9 && (t.queue 3 0).notify == 512) = true ∧
    leaves (.qEnable 3 0 9) (host { notify := 7 }) (fun t => t.queue 3 0 == { notify := 7, en := true, prio := 2, st := .active, head := 7 }) = true ∧
    leaves (.qDisable 3 0 4) (host live) (fun t => t.queue 3 0 == { live with en := false, prio := 1, stopping := true }) = true ∧
    leaves (.qDisable 3 0 4) (host { live with live := [] }) (fun t => (t.queue 3 0).st == .disabled) = true ∧
    leaves (.qDisable 3 0 4) (host { st := .error }) (fun t => (t.queue 3 0).st == .error && !(t.queue 3 0).en) = true ∧
    leaves (.qReset 3 0 2) (host { live with notify := 9 }) (fun t => (t.queue 3 0).st == .disabled && (t.queue 3 0).head == 9 && (t.queue 3 0).live == [4]) = true ∧
    leaves (.qReset 3 0 3) (host live) (fun t => (t.queue 3 0).st == .active && (t.queue 3 0).en) = true := by decide +kernel

/-- A queue with one word to fetch at guest 0x80040. -/
def fetching : Queue := { base := 0x80000, en := true, st := .active, head := 8, notify := 9 }

theorem test_windows : fetching.nextFetch = some 0 ∧ fetching.addrOf (fetching.offAt 0) = 0x80040 ∧ (host {}).nested Config.frontEnd 3 0x80040 = .ok 0x30040 0x80000 0x30000 0x10000 true true ∧
    (host {}).gpaOf 3 0x100 true = .error .translation ∧
    leaves (.queueFetch 3 0) (host fetching) (fun t => (t.queue 3 0).fetched == [(0, 8, 5)]) = true ∧
    leaves (.hostWindowWrite 3 0x80042 [0xAA, 0xBB]) (host {}) (fun t => (t.sub 0 3).entries.map (fun e => (e.gran, e.mask, e.bytes.take 4)) == [(0xC01, 12, [0, 0, 0xAA, 0xBB])] &&
      t.rdBytes 0x30042 2 == [0, 0] && t.rdBytes (hostRange 3) 4 == [0, 0, 0xAA, 0xBB]) = true ∧
    leaves (.hostWindowWrite 3 0x100 [1]) (host {}) (fun t => t.pcie == [.aer 3 0x100]) = true ∧
    leaves (.hostWindowRead 3 0x80040 2) (logged (host {}) 3 { entries := [{ two with mask := 2 }] } []) (fun t => t.pcie == [.read 3 0x80040 (some [5, 0xBB]) false]) = true := by decide +kernel

/-- A load whose page is parked under id 2 of the ring of function 3. -/
def parked : State := { memory 0 (mop .ldg { there 3 with xl := .parked 3 2 }) with fns := [(3, { faults := [(0x100, 2), (0x108, 3)] })] }

theorem test_page_faults : parked.parkedQueues 3 2 = [] ∧ (mop .ldg { there 3 with xl := .parked 3 2 }).parkedAt 3 2 = true ∧
    leaves (.faultResume 3 2) parked (fun t => (t.fn 3).faults == [(0x108, 3)] && t.ops.map (fun o => o.pieces.map (·.xl)) == [[.todo]]) = true ∧
    leaves (.faultAbort 3 (2 ^ 32 + 2)) parked (fun t => (t.fn 3).faults == [(0x108, 3)] && t.ops == [] && t.insts == []) = true := by decide +kernel

/-- A queue's packet has been processed, `n` words long. -/
def done (t : State) (n : Nat) : Bool := (t.queue 3 0).pkts == 1 && (t.queue 3 0).num == 1 && (t.queue 3 0).head == n && (t.queue 3 0).wait == .none

/-- The state in which the queue's turn has been counted (R310). -/
def turned (s : State) : State := (s.turn 3 0).getD s

theorem at_packet (s : State) (w : List Word) (h0 : (s.queue 3 0).begun = false) (ht : s.turn 3 0 = some (turned s)) (h1 : s.hasQ 3 0 = true) (h2 : (s.queue 3 0).skip = none) (h3 : (s.queue 3 0).parse = .pkt w)
    (h4 : (s.queue 3 0).wait = .none) (h5 : s.earlierDone 3 0 = true) : AtPacket s 3 0 w (turned s) :=
  ⟨.inr ⟨h0, ht⟩, h1, h2, h3, by simp [h4], by simp [h4], fun _ => .inr h5⟩

theorem test_at_packet : AtPacket (pkt' [phead 10 1 0]) 3 0 [phead 10 1 0] (turned (pkt' [phead 10 1 0])) ∧
    AtPacket (pkt' [phead 7 3 0, 0x80040, 6]) 3 0 [phead 7 3 0, 0x80040, 6] (turned (pkt' [phead 7 3 0, 0x80040, 6])) :=
  ⟨at_packet _ _ (by decide +kernel) (by decide +kernel) (by decide +kernel) (by decide +kernel) (by decide +kernel) (by decide +kernel) (by decide +kernel),
   at_packet _ _ (by decide +kernel) (by decide +kernel) (by decide +kernel) (by decide +kernel) (by decide +kernel) (by decide +kernel) (by decide +kernel)⟩

/-- Earlier packets of the queue are not complete. -/
def waiting (w : List Word) : State := host { packetAt w with pending := [{ launch := some 4 }] }

theorem test_packets : ((packetAt [phead 10 1 0]).advance 1).overrun = false ∧ leaves (.nopp 3 0) (pkt' [phead 10 1 0]) (fun t => done t 1) = true ∧
    leaves (.drain 3 0) (pkt' [phead 12 1 0]) (fun t => done t 1) = true ∧
    leaves (.drain 3 0) (waiting [phead 12 1 0]) (fun t => (t.queue 3 0).wait == .bar && (t.queue 3 0).pkts == 0) = true ∧
    leaves (.nopp 3 0) (waiting [phead 10 1 (2 ^ 40)]) (fun t => (t.queue 3 0).wait == .bar) = true ∧
    leaves (.barWaitEnd 3 0) (host { packetAt [] with wait := .bar }) (fun t => (t.queue 3 0).wait == .none && (t.queue 3 0).cleared) = true ∧
    leaves (.barWaitEnd 3 0) (host { packetAt [] with wait := .bar, pending := [{ launch := some 4 }] }) (fun t => (t.queue 3 0).wait == .bar) = true ∧
    leaves (.ibcall 3 0) (pkt' [phead 2 3 0, 0x80100, 4]) (fun t => (t.queue 3 0).ibs == [{ addr := 0x80100, len := 4 }] && (t.queue 3 0).head == 3) = true ∧
    leaves (.loopP 3 0) (pkt' [phead 4 1 (2 + 3 * 2 ^ 8)]) (fun t => done t 1 && (t.queue 3 0).loop == some (0, 2, 3, 1, 0)) = true ∧
    leaves (.ffence 3 0) (host { packetAt [phead 5 1 0, 9] with notify := 2 }) (fun t => done t 1 && (t.queue 3 0).fetched == []) = true ∧
    leaves (.predP 3 0) (pkt' [phead 3 3 2, 0x80040, 5]) (fun t => done t 3 && (t.queue 3 0).skip == none) = true ∧
    leaves (.predP 3 0) (pkt' [phead 3 3 2, 0x80040, 6]) (fun t => done t 3 && (t.queue 3 0).skip == some (0, 2)) = true ∧
    leaves (.predP 3 0) (host { packetAt [phead 6 2 9, 9] with skip := some (0, 2) }) (fun t => (t.queue 3 0).skip == some (0, 1) && (t.queue 3 0).head == 2 && (t.queue 3 0).pkts == 0) = true ∧
    leaves (.signal 3 0) (pkt' [phead 7 3 (2 ^ 41 + 6), 0x80040, 0x1122]) (fun t => done t 3 && t.rdBytes 0x30040 3 == [0x22, 0x11, 0] && t.pcie == [.msix 3 6]) = true ∧
    leaves (.timestamp 3 0) { pkt' [phead 9 2 0, 0x80040] with clock := { gt := Vector.replicate 8 0x3344 } } (fun t => done t 2 && t.rdBytes 0x30040 3 == [0x44, 0x33, 0]) = true := by
  decide +kernel

/-- An IBCALL at the second level of indirect buffers. -/
def nestedTwice : Queue := { packetAt [] with ibs := [{ addr := 0x80000, len := 3 }, { addr := 0x80100, len := 9, pos := 3 }], fetched := [(2, 0, phead 2 3 0), (2, 1, 0x80000), (2, 2, 4)] }

theorem test_waits_and_errors : leaves (.ibcall 3 0) (host nestedTwice) (fun t => (t.queue 3 0).st == .error && (t.queue 3 0).code == 3) = true ∧
    leaves (.waitv 3 0) (pkt' [phead 8 4 0, 0x80040, 5, 0xFF]) (fun t => done t 4) = true ∧
    leaves (.waitv 3 0) (pkt' [phead 8 4 0, 0x80040, 4, 0xFF]) (fun t => (t.queue 3 0).wait == .waitv 0) = true ∧
    leaves (.waitvPoll 3 0) { host { packetAt [phead 8 4 0, 0x80040, 5, 0xFF] with wait := .waitv 1 } with clock := { nc := 1025 } } (fun t => done t 4) = true ∧
    leaves (.waitvPoll 3 0) { host { packetAt [phead 8 4 0, 0x80040, 5, 0xFF] with wait := .waitv 1 } with clock := { nc := 1024 } } (fun t => (t.queue 3 0).wait == .waitv 1) = true ∧
    leaves (.hcopy 3 0) (pkt' [phead 11 4 0, 0x80040, 0x80080, 64]) (fun t => done t 4 && (t.sub 0 3).entries.map (fun e => (e.gran, e.mask, e.data, e.published)) ==
      [(0xC02, -1, 5, true)] && t.rdBytes 0x30080 2 == [0, 0]) = true := by decide +kernel

/-- Instance 7 with its image. -/
def imaged (w : List Word) : State := { pkt' w with insts := [{ inst7 with words := imageWords }] }

theorem test_wake_and_launch : (parseImage imageWords).map (fun m => (m.vcount, m.segs.length)) = some (1, 1) ∧
    (host {}).usableCells { bays := 2 } = [4, 5, 6, 7, 20, 21, 22, 23, 36, 37, 38, 39, 52, 53, 54, 55] ∧ (host {}).unread 3 0x81000 3 = none ∧
    leaves (.wake 3 0) (imaged [phead 6 3 0, 7 + 2 * 2 ^ 43, 0x77]) (fun t => done t 3 && t.net.map (fun p => (p.dst, p.committed, p.body)) == [(4, true, .wake 2 1 0x77 (3, 0, 0))]) = true ∧
    leaves (.launch 3 0) (pkt' [phead 1 4 (2 + 2 ^ 8 + 2 ^ 16 + 2 ^ 42), 0, 0, 0x55]) (fun t => done t 4 && t.insts.map (fun i => (i.id, i.part, i.prio, i.args, i.retc, i.words == imageWords)) ==
      [(7, 2, 0, [], false, false), (0, 2, 1, [0x55], true, true)] && (t.parts.getD 2 {}).queue == [(3, 0)] && (t.fn 3).launchCount == 1 && (t.queue 3 0).live == [0] &&
      (t.queue 3 0).pending == [{ num := 0, launch := some 0 }]) = true := by decide +kernel

/-! ## Instances and regions -/

/-- The same image in two loads. -/
def twoLoads : List Word :=
  let w := imageBody.set 1 (1 + 2 * 2 ^ 8)
  w.set 3 (word (imageCrc w).toNat)

/-- A graph instance 7 of one vcell, on cell 4 as context 1, whose lane is free; a ring pool of 4 MiB. -/
def graph (w : List Word) (g : Inst → Inst) : State := { host {} with
  cells := [(4, { ctxs := [(1, { ctx1 with place := [4] })] })]
  insts := [g { inst7 with place := [4], words := w, q := 0 }]
  fns := [(3, { qcount := 2, parts := 4, pool := [(0x1000000, 0x400000)], queues := [(0, { live := [4, 7] })] })]
  parts := [(2, { bays := 2, st := .granted, tenant := 9, vf := 3, queue := [(3, 7)] })] }

/-- Partition 2. -/
def part2 (t : State) : Part := t.parts.getD 2 {}

/-- The same with the instance alone. -/
def graph1 (g : Inst → Inst) : State := graph imageWords g

theorem test_placement : let i : Inst := { inst7 with place := [4], words := imageWords, phase := .waiting }
    ((graph1 fun _ => i).placeInst i).isSome = true ∧
    leaves (.launchPlacement 2) (graph1 fun _ => i) (fun t => (t.parts.getD 2 {}).queue == [] && t.insts.map (fun j => (j.phase, j.ctx, j.place, j.load)) == [(.placed, 0, [4], 0)] &&
      (t.cx 4 0).inst == some (3, 7) && (t.cx 4 0).tenant == 9 && (t.cx 4 0).resident && (t.cx 4 0).image.length == 1 && (t.cx 4 0).ahead == none && (t.cx 4 0).areaSize == 4096 && (t.cx 4 1).areaSize == 256) = true ∧
    leaves (.launchPlacement 2) { graph1 fun _ => i with fns := [] } (fun t => (t.parts.getD 2 {}).queue == [(3, 7)]) = true ∧
    leaves (.launchPlacement 2) (graph1 fun _ => { i with scrub := true }) (fun t => (t.parts.getD 2 {}).st == .scrubbing && (t.parts.getD 2 {}).scrub == some (.launch 3 7)) = true := by
  decide +kernel

theorem test_start : leaves (.instanceStart 3 7) (graph1 fun i => { i with phase := .placed, started := false, acq := [(0, 0)] }) (fun t => t.insts.map (fun j => (j.phase, j.started)) == [(.running, true)]) = true ∧
    leaves (.instanceStart 3 7) (graph1 fun i => { i with phase := .placed, started := false, acq := [(0, 1)] }) (fun t => t.insts.map (fun j => j.phase) == [.placed]) = true := by decide +kernel

/-- The same with weights in bank 0 of cell 4 and a packet of cell 5 on its way there. -/
def loaded : State := { (graph1 id).modCell 4 fun c => { c with matrix := { wb0 := bank, acc := words } } with
  net := [{ pkt 0 (.token (tok 64 23 0)) with hops := some [.mesh 5 3] }] }

theorem test_segment_move : (loaded.cell 4).engineFree 1 = true ∧ (loaded.cell 6).takes ((loaded.cell 4).only [1]) 1 9 = true ∧ (loaded.cell 6).cleared.blank = true ∧
    leaves (.segmentMove 3 7 0 6) loaded (fun t => t.insts.map (fun j => j.place) == [[6]] && t.cx 4 1 == {} && (t.cx 6 1).frames == ctx1.frames && (t.cx 6 1).inst == some (3, 7) &&
      (t.cell 6).matrix.wb0 == bank && (t.cell 6).matrix.acc == words && t.net.map (fun p => (p.src, p.dst, p.hops)) == [(5, 6, none)]) = true := by
  decide +kernel

/-- Two loads: the first is idle. -/
def loads (b : Bool) : State := graph twoLoads fun i => { i with leaving := b }

theorem test_loads : (parseImage twoLoads).map (fun m => m.nload) = some 2 ∧ (loads true).loadIdle { inst7 with place := [4] } = true ∧
    leaves (.loadAdvance 3 7) (loads false) (fun t => t.insts.map (fun j => (j.leaving, j.load)) == [(true, 0)] && (t.cx 4 1).frames == [] &&
      t.ops.map (fun o => (o.kind, o.sys, o.who.cell)) == [(.closing, true, 4)]) = true ∧
    leaves (.loadAdvance 3 7) (loads true) (fun t => t.insts.map (fun j => (j.leaving, j.load, j.place, j.ctx)) == [(false, 1, [4], 1)]) = true ∧
    leaves (.loadAdvance 3 7) { loads true with ops := [{ kind := .closing, inst := (3, 7) }] } (fun t => t.insts.map (fun j => j.load) == [0]) = true := by decide +kernel

/-- R54, R306: a segment that no Cupboard holds is taken from memory, here from the image at guest page 0x81000; one that it holds is not. -/
theorem test_cupboard : let s : State := { host {} with fns := [(3, {})] }
    let i : Inst := { inst7 with words := imageWords, imageAt := 0x81000 }
    (((parseImage imageWords).map (·.segs)).getD []).map (fun g => s.cupImage 0 9 0 g == none && (s.segNow i { g with code := [5] }).code == g.code && (s.fetchSeg i 9 0 g).2 == g.code &&
      ((s.fetchSeg i 9 0 g).1.cupImage 0 9 0 g).map (·.code) == some g.code &&
      ((s.stockCup 0 9 0 { g with code := [7] }).fetchSeg i 9 0 g).2 == [7]) = [true] := by decide +kernel

/-- An entry that could not be formed is formed before its load goes on (R307). -/
theorem test_late_entry : leaves (.loadAdvance 3 7) (graph twoLoads fun i => { i with unformed := [0] }) (fun t => t.insts.map (fun j => (j.unformed, j.load, j.leaving)) == [([], 0, false)]) = true := by
  decide +kernel

/-- A packet of context 1 from cell 4. -/
def from4 (s : State) (dst vn : Nat) (b : Payload) : State := { s with net := [{ vn := vn, src := 4, dst := dst, ctx := 1, committed := true, body := b }] }

/-- An instance with its return value. -/
def returned (ph : InstPhase) : State := graph1 fun i => { i with ret := some 5, phase := ph }

theorem test_completion : leaves (.returnToken 4 1) (from4 (graph1 id) 2048 4 (.ret { val := 9 })) (fun t => t.insts.map (fun j => j.ret) == [some 9] && t.net == []) = true ∧
    leaves (.returnToken 4 1) (from4 (returned .running) 2048 4 (.ret { val := 9 })) (fun t => t.insts.map (fun j => j.ret) == [some 5]) = true ∧
    (returned .running).canEnd { inst7 with place := [4], words := imageWords, ret := some 5 } = true ∧
    leaves (.endOfGraphRelease 3 7) (returned .running) (fun t => t.insts.map (fun j => j.phase) == [.releasing] && t.ops.map (fun o => (o.kind, o.sys)) == [(.closing, true)]) = true ∧
    leaves (.instanceComplete 3 7) (returned .releasing) (fun t => t.insts == [] && (t.cx 4 1).inst == none && (t.cx 4 1).released && (t.queue 3 0).live == [4]) = true ∧
    leaves (.instanceComplete 3 7) { returned .releasing with ops := [{ kind := .closing, inst := (3, 7) }] } (fun t => t.insts.length == 1) = true := by decide +kernel

/-- A posted launch asked for, of a function with so many posted launches waiting. -/
def posting (en : Bool) (l : List Posted) : State := { from4 (graph1 id) 2048 4 (.qpost [5, 0, 1, 2, 3, 4] (mkCont 0 1 64 20 0 0) 2 8 { cell := 4, ctx := 1, tag := 0x600000000 }) with
  ops := [{ id := 8, kind := .qpost }]
  fns := [(3, { posten := en, postq := 3, devq := l, launchCount := 12, wdog := 6 })] }

/-- The reply of a QPOST. -/
def replied (t : State) (v : Word) : Bool := t.ops == [] && t.net.map (fun p => (p.src, p.dst, p.also, p.body)) ==
  [(2048, 4, some 4, .token { cont := mkCont 0 1 64 20 0 0, val := v, tag := 0x600000000 })]

theorem test_bad_post : leaves (.qpostRequest 4 1) { posting true [] with net := [{ vn := 4, src := 4, dst := 2048, ctx := 1, committed := true, body := .qpost [5, 2 ^ 11] (contTo 0 0) 2 8 { cell := 4, ctx := 1 } }] }
    (fun t => t.ops == [] && t.insts == [] && (t.fn 3).devq == []) = true := by decide +kernel

theorem test_posts : leaves (.qpostRequest 4 1) (posting false []) (fun t => replied t (2 ^ 63 + 1) && (t.fn 3).devq == []) = true ∧
    leaves (.qpostRequest 4 1) (posting true (List.replicate 64 {})) (fun t => replied t (2 ^ 63 + 2) && (t.fn 3).launchCount == 12) = true ∧
    leaves (.qpostRequest 4 1) (posting true []) (fun t => replied t 12 && (t.fn 3).launchCount == 13 && (t.fn 3).postedLive == [12] &&
      (t.fn 3).devq == [{ id := 12, parent := 7, image := 5, vcountM1 := 0, part := 2, prio := 2, budget := 6, args := [1, 2, 3, 4] }]) = true := by decide +kernel

theorem test_hangs : leaves (.watchdogExpiry 3 7) (graph1 fun i => { i with budget := 1, expired := true }) (fun t => (part2 t).hung == [(3, 7, .watchdog)] && (part2 t).freezing == some 0) = true ∧
    leaves (.watchdogExpiry 3 7) (graph1 fun i => { i with budget := 1, wdog := 65536, fired := true }) (fun t => (part2 t).hung == []) = true ∧
    (graph1 id).tickInst 2 { inst7 with place := [4], budget := 1, wdog := 65533, fired := true } = { inst7 with place := [4], budget := 1, wdog := 65535, fired := true } ∧
    (graph1 id).tickInst 2 { inst7 with place := [4], budget := 1, wdog := 65534, fired := true } = { inst7 with place := [4], budget := 1, wdog := 65536, fired := true, expired := true } ∧
    (returned .releasing).tickInst 2 { inst7 with place := [4], words := imageWords, ret := some 5, phase := .releasing, budget := 1, wdog := 65534, fired := true } =
      { inst7 with place := [4], words := imageWords, ret := some 5, phase := .releasing, budget := 1, wdog := 65536, fired := true } ∧
    leaves (.instanceComplete 3 7) (graph1 fun i => { i with ret := some 5, phase := .releasing, expired := true }) (fun t => t.insts.length == 1) = true ∧
    leaves (.deadlockDetect 3 7) { graph1 id with clock := { ac16 := Vector.replicate 8 (2 ^ 24 * 16) } } (fun t => (part2 t).hung == [(3, 7, .hang)] && (part2 t).freezing == some (2 ^ 24)) = true ∧
    leaves (.deadlockDetect 3 7) { graph1 fun i => { i with lastAct := 1 } with clock := { ac16 := Vector.replicate 8 (2 ^ 24 * 16) } } (fun t => (part2 t).hung == []) = true ∧
    ((graph1 id).modPart 2 fun p => { p with hung := [(3, 7, .hang)] }).hangs { inst7 with place := [4] } = true := by decide +kernel

/-- Region 1 of the instance; frame 128, a token and a suspended firing are of it. -/
def region (g : Region) : State := (graph1 fun i => { i with regions := [(1, g)] }).modCell 4 fun c => { c.modCx 1 (fun k => { k with
    frames := k.frames.put 128 { cls := 2, region := 1 }
    regions := [(1, .opened)] }) with
  inq := [{ tok 64 20 0 with tag := 2 ^ 24 }, tok 64 20 0]
  recs := [(2, { fir := { ctx := 1, tag := 2 ^ 24 }, slot := 70 })] }

/-- A region whose handler is a continuation of vcell 0. -/
def guarded : Region := { handler := mkCont 0 1 64 20 0 0, closing := [(mkCont 0 1 64 20 1 0, { cell := 4, ctx := 1, ia := 6 })] }
def broken : Region := { guarded with mark := .failed, first := [1, 2, 3, 4] }

theorem test_region_failure : leaves (.regionFailureReport 4 1) (from4 (region guarded) 4 4 (.regionFail 1 [1, 2, 3, 4] (2 ^ 24) false)) (fun t =>
      t.insts.map (fun j => j.regions) == [[(1, { broken with tag := 2 ^ 24, todo := [4] })]] && t.net.map (fun p => (p.dst, p.body)) == [(4, .regionApply 1)]) = true ∧
    leaves (.regionFailureReport 4 1) (from4 (region broken) 4 4 (.regionFail 1 [1] (2 ^ 24) false)) (fun t => t == region broken) = true ∧
    leaves (.regionFailureApply 4 1) (from4 (region { broken with todo := [4] }) 4 4 (.regionApply 1)) (fun t => t.insts.map (fun j => j.regions) == [[(1, broken)]] &&
      (t.cx 4 1).regions == [(1, .failed)] && (t.cx 4 1).frames == ctx1.frames && (t.cell 4).inq == [tok 64 20 0] && (t.cell 4).recs == []) = true ∧
    leaves (.regionFailedDelivery 3 7 1) (region broken) (fun t => t.insts.map (fun j => j.regions) == [[(1, { broken with delivered := true })]] &&
      t.net.map (fun p => (p.dst, match p.body with | .token k => k.faulty | _ => false)) == [(4, true)] && ((t.cell 4).tile 0).el 6 == 3) = true ∧
    leaves (.regionFailedDelivery 3 7 1) { region broken with ops := [{ inst := (3, 7), who := { tag := 2 ^ 24 } }] } (fun t => t.insts.map (fun j => j.regions) == [[(1, broken)]]) = true := by
  decide +kernel

/-- A load of region 1 that cell 4 issued. -/
def lostOp : MemOp := { inst := (3, 7), who := { cell := 4, ctx := 1, tag := 2 ^ 24 } }

/-- Region 1 open with a count change, a BARA's reply and an ordinary token of it on their way from cell 4. -/
def onTheWay : State :=
  let s := region guarded
  { s with net := [{ src := 4, dst := 4, ctx := 1, body := .count 0 1 true { cell := 4, ctx := 1, tag := 2 ^ 24 } },
    { src := 4, dst := 4, ctx := 1, reply := some 4, body := .token { cont := 0, val := 0, tag := 2 ^ 24 } },
    { src := 4, dst := 4, ctx := 1, body := .token { cont := 0, val := 0, tag := 2 ^ 24 } }] }

/-- An operation that faults before its cell's step counts as cancelled (R326; spec/22 counts the failing TLOAD). -/
theorem test_cancelled : ((region guarded).instAt 4 1).map (·.regions) = some [(1, guarded)] ∧
    ((region guarded).cx 4 1).regions.get? 1 = some .opened ∧
    ((region guarded).failOp lostOp 2 .translation 0 0).insts.map (fun j => j.regions) = [[(1, { guarded with cancelled := 1 })]] ∧
    (onTheWay.net.filter fun p => p.cancels 4 1 1).length = 2 := by decide +kernel

/-- The CRCLOSE is answered and the region gone. -/
def closed (t : State) (v : Word) : Bool := t.insts.map (fun j => j.regions) == [[]] && (t.cx 4 1).regions == [] && t.net.map (fun p => p.body) == [.token { cont := mkCont 0 1 64 20 1 0, val := v }]

theorem test_region_close : leaves (.regionCloseProceed 3 7 1) (region { broken with delivered := true }) (fun t => closed t 0) = true ∧
    leaves (.regionCloseProceed 3 7 1) (region broken) (fun t => t == region broken) = true ∧
    leaves (.regionCloseProceed 3 7 1) (region { guarded with released := true, token := 0x77 }) (fun t => closed t 0x77) = true ∧
    leaves (.regionCloseProceed 3 7 1) (region guarded) (fun t => t == region guarded) = true ∧
    leaves (.regionCloseProceed 3 7 1) (graph1 fun i => { i with regions := [(1, guarded)] }) (fun t => t.ops.map (fun o => (o.kind, o.sys, o.val, o.who.ia)) == [(.closing, false, 1, 6)] &&
      t.insts.map (fun j => j.regions) == [[(1, { guarded with released := true })]]) = true := by decide +kernel

/-! ## Management commands -/

/-- The arguments of a command. -/
def asked (a0 a1 a2 a3 : Word) (s : State) : State := { s with mgmt := { arg0 := a0, arg1 := a1, arg2 := a2, arg3 := a3 } }

/-- The command of tag 0x55 has completed with a code and a result. -/
def coded (t : State) (c : BitVec 8) (r : BitVec 32) : Bool := !t.mgmt.busy && t.mgmt.tag == 0x55 && t.mgmt.code == c && t.mgmt.result == r

/-- The graph of one vcell in a partition changed. -/
def granted (g : Part → Part) : State := (graph1 id).modPart 2 fun p => g { p with queue := [] }

theorem test_commands_turned_away : leaves (.grant 0x5501) { granted id with mgmt := { busy := true } } (fun t => t == { granted id with mgmt := { busy := true, clash := true } }) = true ∧
    leaves (.dirty 0x1550A) (asked 3 0 0 0 (granted id)) (fun t => coded t 1 0) = true ∧ leaves (.freeze 0x5503) (asked 8 0 0 0 (granted id)) (fun t => coded t 1 0) = true ∧
    leaves (.dirty 0x550A) (asked 0 0 0 0 (granted id)) (fun t => coded t 1 0) = true ∧ leaves (.ringpool 0x5510) (asked 32 0 0 0 (granted id)) (fun t => coded t 1 0) = true ∧
    leaves (.mgmtBadCommand 0x5511) (granted id) (fun t => coded t 1 0) = true ∧ leaves (.mgmtBadCommand 0x5500) (granted id) (fun t => coded t 1 0) = true := by decide +kernel

theorem test_grant : leaves (.grant 0x5501) (asked 2 9 3 0 (granted id)) (fun t => coded t 2 0) = true ∧
    leaves (.grant 0x5501) (asked 1 9 4 0 ((granted id).modPart 1 fun p => { p with bays := 2 })) (fun t => coded t 3 0) = true ∧
    leaves (.grant 0x5501) (asked 1 0x10000 3 0 (granted id)) (fun t => coded t 1 0) = true ∧ leaves (.grant 0x5501) (asked 1 9 32 0 (granted id)) (fun t => coded t 1 0) = true ∧
    leaves (.save 0x5505) (asked 2 0xBFFFFFFFF8 16 0 (granted fun p => { p with st := .frozen })) (fun t => coded t 1 0) = true ∧
    leaves (.keyload 0x5507) (asked 5 2 0xC000000000 0 (granted id)) (fun t => coded t 1 0) = true ∧
    leaves (.grant 0x5501) (asked 1 6 4 0 ((granted id).modPart 1 fun p => { p with bays := 4 })) (fun t => t.mgmt.waits == some (1, 1) && t.mgmt.busy && (t.fn 4).parts == 2 &&
      t.parts.getD 1 {} == { bays := 4, tenant := 6, vf := 4, st := .scrubbing, scrub := some .grant }) = true := by decide +kernel

theorem test_freeze_and_thaw : leaves (.freeze 0x5503) (asked 2 0 0 0 (granted id)) (fun t => (part2 t).freezing == some 0 && !(part2 t).halted && t.mgmt.waits == some (3, 2)) = true ∧
    leaves (.freeze 0x5503) (asked 1 0 0 0 (granted id)) (fun t => coded t 2 0) = true ∧
    leaves (.halt 0x550D) (asked 2 0 0 0 (granted id)) (fun t => (part2 t).freezing == some 0 && (part2 t).halted && t.mgmt.waits == some (13, 2)) = true ∧
    leaves (.thaw 0x5504) (asked 2 0 0 0 (granted id)) (fun t => coded t 2 0) = true ∧
    leaves (.thaw 0x5504) { asked 2 0 0 0 (granted fun p => { p with st := .frozen, halted := true }) with clock := { ac16 := Vector.replicate 8 160 } } (fun t => coded t 0 0 &&
      (part2 t).st == .granted && !(part2 t).halted && t.insts.map (fun i => i.lastAct) == [0]) = true := by decide +kernel

theorem test_freeze_ends : (granted id).settled 2 (part2 (granted id)) = true ∧
    leaves (.freezeComplete 2) (granted fun p => { p with freezing := some 0 }) (fun t => (part2 t).st == .granted && (part2 t).freezing == none && t.insts.length == 1) = true ∧
    leaves (.freezeComplete 2) (granted fun p => { p with freezing := some 0, hung := [(3, 7, .hang)] }) (fun t => (part2 t).st == .granted && (part2 t).hung == [] && t.insts == [] && (t.cx 4 1).inst == none) = true ∧
    leaves (.freezeComplete 2) { granted fun p => { p with freezing := some 0 } with mgmt := { busy := true, tag := 0x55, waits := some (2, 2), given := [2, 1, 0x40000, 0] } } (fun t => coded t 3 0 && (part2 t).st == .granted) = true ∧
    leaves (.freezeComplete 2) { granted fun p => { p with freezing := some 0 } with mgmt := { busy := true, tag := 0x55, waits := some (3, 2) } } (fun t => coded t 0 0 && (part2 t).st == .frozen) = true ∧
    leaves (.freezeComplete 2) { granted fun p => { p with freezing := some 0 } with mgmt := { busy := true, tag := 0x55, waits := some (13, 2), clash := true } } (fun t => coded t 2 0) = true ∧
    leaves (.freezeComplete 2) ((host {}).modPart 2 fun p => { p with freezing := some 0 }) (fun t => (part2 t).st == .granted) = true ∧
    leaves (.freezeTimeout 2) ((host {}).modPart 2 fun p => { p with freezing := some 0 }) (fun t => t.insts.length == 1) = true ∧
    leaves (.freezeTimeout 2) { (host {}).modPart 2 fun p => { p with freezing := some 0 } with clock := { ac16 := Vector.replicate 8 (2 ^ 24) } } (fun t => t.insts.length == 1 &&
      (part2 t).hung == [(3, 7, .hang)] && (part2 t).freezing == some 0) = true ∧
    leaves (.freezeTimeout 2) { (host {}).modPart 2 fun p => { p with freezing := some 0 } with insts := [], clock := { ac16 := Vector.replicate 8 (2 ^ 24) } } (fun t => (t.cell 4).lane.busy && (part2 t).hung == []) = true ∧
    leaves (.freezeComplete 2) { (host {}).modPart 2 fun p => { p with freezing := some 0, hung := [(3, 7, .hang)] } with clock := { ac16 := Vector.replicate 8 (2 ^ 24) } } (fun t =>
      (part2 t).st == .granted && t.insts == [] && (t.cell 4).lane.busy && (t.cell 4).lane.fir.dead) = true := by decide +kernel

/-- A section is of 2 to the 20 words at most. -/
theorem section_length (image n : Nat) (e : Nat × Nat × Nat) : (sectionWords image n e).length ≤ 2 ^ 20 := by
  have h : Config.saveLength image n % 2 ^ 20 < 2 ^ 20 := Nat.mod_lt _ (by decide)
  simp only [sectionWords, List.length_cons, List.length_map, List.length_range]
  omega

theorem flatten_length (m : Nat) : ∀ l : List (List Word), (∀ w, w ∈ l → w.length ≤ m) → l.flatten.length ≤ l.length * m
  | [], _ => by simp
  | w :: l, h => by
    have h1 := h w (by simp)
    have h2 := flatten_length m l fun w hw => h w (by simp [hw])
    simp only [List.flatten_cons, List.length_append, List.length_cons, Nat.add_mul]
    omega

/-- An image is of 4 words at least, and of few enough that an argument can name their bytes. -/
theorem test_save_size (s : State) (n : Nat) : 0 < 8 * (s.saveWords n).length ∧
    (s.saveWords n).length ≤ 4 + (sectionsOf [] (s.instsOf n)).length * 2 ^ 20 ∧ (sectionsOf [] ((granted id).instsOf 2)).length = 12 := by
  refine ⟨?_, ?_, by decide +kernel⟩
  · simp only [State.saveWords, List.length_append, List.length_cons]
    omega
  · have h := flatten_length (2 ^ 20) ((sectionsOf [] (s.instsOf n)).zipIdx.map fun e => sectionWords s.saves.length e.2 e.1) (by
      intro w hw
      obtain ⟨e, _, rfl⟩ := List.mem_map.mp hw
      exact section_length _ _ _)
    simp only [List.length_map, List.length_zipIdx] at h
    simp only [State.saveWords, List.length_append, List.length_cons, List.length_nil]
    omega

theorem test_takeback : leaves (.takeback 0x5502) (asked 2 2 0 0 (granted id)) (fun t => coded t 1 0) = true ∧ leaves (.takeback 0x5502) (asked 1 0 0 0 (granted id)) (fun t => coded t 2 0) = true ∧
    leaves (.takeback 0x5502) (asked 2 1 0 0 (granted id)) (fun t => (part2 t).freezing == some 0 && t.mgmt.waits == some (2, 2)) = true ∧
    leaves (.takeback 0x5502) (asked 2 0 0 0 (granted id)) (fun t => t.mgmt.waits == some (2, 2) && t.insts == [] && (part2 t).st == .scrubbing) = true ∧
    leaves (.takeback 0x5502) (asked 2 0 0 0 (granted fun p => { p with st := .frozen, queue := [(3, 5)] })) (fun t => t.mgmt.waits == some (2, 2) && t.insts == [] && t.saves.length == 0 &&
      (part2 t).st == .scrubbing && (part2 t).scrub == some (.takeback false) && (part2 t).queue == []) = true ∧
    leaves (.save 0x5505) (asked 2 0 0 0 (granted id)) (fun t => coded t 2 0) = true ∧ (part2 (asked 2 1 0 0 (granted fun p => { p with st := .frozen }))).st = .frozen := by decide +kernel

/-- An image of no section, of so many instances of tenant `n`, each on a cell of its own; the partition holds nothing. -/
def headWords (n : Word) : List Word := [0x153564731, 32 * 2 ^ 32, n, 0]
def savedWords (n : Word) : List Word := (headWords n).set 3 (word (imageCrc (headWords n)).toNat)
def imageOf (l : List Inst) : SaveImage := { addr := 0x30040, words := savedWords 9, tenant := 9, insts := l, cells := [(4, { ctxs := [(1, { ctx1 with place := [4] })] })] }
def restoring (n : Word) (m : SaveImage) : State := asked 2 0x30040 0 0 { host {} with
  cells := []
  insts := []
  saves := [m]
  mem := Memory.writeBytes [] 0x30040 (wordBytes (savedWords n)) }
def kept : SaveImage := imageOf [{ inst7 with place := [4] }]

theorem test_restore : leaves (.restore 0x5506) (asked 2 0x30040 0 0 (granted id)) (fun t => coded t 2 0) = true ∧
    leaves (.restore 0x5506) (restoring 8 kept) (fun t => coded t 2 0) = true ∧ (restoring 9 kept).imageAt 0x30040 = some (savedWords 9) ∧
    ({ restoring 9 kept with mem := Memory.writeBytes [] 0x30040 (wordBytes (headWords 9)) }).imageAt 0x30040 = none ∧
    (restoring 9 kept).savedAs (savedWords 9) = kept ∧
    leaves (.restore 0x5506) (restoring 9 kept) (fun t => coded t 0 0 && (part2 t).st == .frozen && t.insts.map (fun i => (i.fn, i.id, i.place)) == [(3, 7, [4])] && (t.cx 4 1).frames == ctx1.frames) = true ∧
    leaves (.restore 0x5506) (restoring 9 (imageOf (List.replicate 17 { inst7 with place := [4] }))) (fun t => coded t 3 0 && (part2 t).st == .granted) = true := by decide +kernel

/-- Key slot 4 is function 3's. -/
def keyed : State := { granted id with keys := [(4, { owner := 3, owned := true })] }

theorem test_keys : leaves (.keyload 0x5507) (asked 1024 3 0 0 keyed) (fun t => coded t 1 0) = true ∧ leaves (.keyload 0x5507) (asked 0 3 0 0 keyed) (fun t => coded t 1 0) = true ∧
    leaves (.keyload 0x5507) (asked 4 2 0 0 keyed) (fun t => coded t 2 0) = true ∧
    leaves (.keyload 0x5507) (asked 4 3 0x30040 0 keyed) (fun t => coded t 0 0 && t.keys == [(4, { owner := 3, owned := true, key := 5 })]) = true ∧
    leaves (.keyload 0x5507) (asked 5 2 0x30040 0 keyed) (fun t => coded t 0 0 && t.keys.length == 2) = true ∧
    leaves (.keyload 0x5507) (asked 4 3 0x30040 0 { keyed with ops := [mop .ldg { there 3 with xl := .at 0x30040 }], keys := [(4, { owner := 3, owned := true, key := 0x99 })] })
      (fun t => t.mgmt.busy && t.mgmt.waits == some (7, 4) && t.settleMgmt == t && coded { t with ops := [] }.settleMgmt 0 0) = true ∧
    leaves (.keyclear 0x5508) (asked 4 0 0 0 keyed) (fun t => coded t 0 0 && t.keys == []) = true ∧ leaves (.keyclear 0x5508) (asked 1024 0 0 0 keyed) (fun t => coded t 1 0) = true := by
  decide +kernel

theorem test_translations : leaves (.invalidate 0x5509) (asked 3 1 1 0 (granted id)) (fun t => coded t 1 0) = true ∧
    leaves (.invalidate 0x5509) (asked 3 0x80000 1 0 (granted id)) (fun t => t.mgmt.busy && t.mgmt.waits == some (9, 3) && t.mgmt.marks == [] && t.tlb == caches && coded t.settleMgmt 0 0 &&
      t.settleMgmt.tlb.all (fun e => e.fn != 3 || e.gpa + e.bytes ≤ 0x80000 || 0x81000 ≤ e.gpa) && t.settleMgmt.tlb.length < caches.length) = true ∧
    leaves (.invalidate 0x5509) (asked 3 0x80000 1 0 (logged (granted id) 0 { entries := [two] } [])) (fun t => t.mgmt.marks == [(0, 1)] && t.settleMgmt == t) = true ∧
    leaves (.invalidate 0x5509) (asked 3 0x80000 1 0 { granted id with ops := [mop .ldg { there 3 with xl := .at 0x30040 }] }) (fun t =>
      t.settleMgmt.mgmt.busy && t.settleMgmt.mgmt.removed && t.settleMgmt.mgmt.ops == [7]) = true ∧
    leaves (.dirty 0x550A) (asked 3 0x40000 49 0 (granted id)) (fun t => coded t 1 0) = true ∧
    leaves (.dirty 0x550A) (asked 3 0x40000 48 0 (granted id)) (fun t => t.mgmt.busy && t.mgmt.waits == some (10, 3) && coded t.settleMgmt 0 0 &&
      (t.settleMgmt.fn 3).dirtySize == 2 ^ 48) = true := by decide +kernel

/-- A layout of no queues and one device-queue launch at 0x40000, for a function whose queues are not enabled. -/
def layout : List Word := [0x151455831, 2 ^ 13, 12 + 7 * 2 ^ 32, 5, 2, 1, 2, 3, 4, 0, 0, 6, 0, 0, 13]
def importing (w : List Word) (en : Bool) : State := asked 3 0x40000 0 0 { granted id with
  fns := [(3, { qcount := 2, queues := [(0, { en := en })] })]
  mem := Memory.writeBytes [] 0x40000 (wordBytes w) }

theorem test_queue_layouts : leaves (.exportq 0x550B) (asked 3 0x40000 0 0 (granted id)) (fun t => coded t 2 0) = true ∧
    leaves (.exportq 0x550B) (asked 3 0x40000 0 0 (granted fun p => { p with st := .frozen })) (fun t => coded t 0 0 && t.rdWord 0x40000 == 0x151455831 && t.rdWord 0x40008 == 2) = true ∧
    ((granted id).exportWords 3).length = 7 + 64 * 2 ∧
    leaves (.importq 0x550C) (importing layout true) (fun t => coded t 2 0) = true ∧ leaves (.importq 0x550C) (importing [] false) (fun t => coded t 1 0) = true ∧
    leaves (.importq 0x550C) (importing [0x151455831, 3] false) (fun t => coded t 3 0) = true ∧
    leaves (.importq 0x550C) (importing layout false) (fun t => coded t 0 0 && (t.fn 3).devq == [{ id := 12, parent := 7, image := 5, vcountM1 := 0, part := 2, budget := 0, args := [1, 2, 3, 4] }] &&
      (t.fn 3).wdog == 6 && (t.fn 3).launchCount == 13) = true := by decide +kernel

/-- Function 3 has two shadow pages and a ring pool of 4 MiB. -/
def pooled : State := { granted id with fns := [(3, { shadow := [(0, 0x50000), (1, 0x200000)], pool := [(0x1000000, 0x400000)], poolAll := [(0x1000000, 0x400000)] })] }

theorem test_pools : leaves (.shadowadd 0x550E) (asked 3 3 0 0 pooled) (fun t => coded t 1 0) = true ∧ leaves (.shadowadd 0x550E) (asked 3 0 0x30040 1 pooled) (fun t => coded t 1 0) = true ∧
    leaves (.shadowadd 0x550E) (asked 3 0 0x30048 2 pooled) (fun t => coded t 1 0) = true ∧
    leaves (.shadowadd 0x550E) (asked 3 0 0x30048 1 pooled) (fun t => coded t 0 0 && (t.fn 3).shadow == [(0, 0x50000), (1, 0x200000), (0, 0)] && t.rd 7 == 0) = true ∧
    leaves (.shadowtake 0x550F) (asked 3 3 0 0 pooled) (fun t => coded t 1 0) = true ∧
    leaves (.shadowtake 0x550F) (asked 3 0 0x40000 5 pooled) (fun t => coded t 0 1 && (t.fn 3).shadow == [(1, 0x200000)] && t.rdWord 0x40000 == 0x50000) = true ∧
    leaves (.ringpool 0x5510) (asked 3 1 0x1000 0 pooled) (fun t => coded t 1 0) = true ∧
    leaves (.ringpool 0x5510) (asked 3 0x2000000 0x1000 0 pooled) (fun t => coded t 0 0 && (t.fn 3).poolAll == [(0x1000000, 0x400000), (0x2000000, 0x1000)]) = true ∧
    leaves (.ringpool 0x5510) (asked 3 0 0 0 pooled) (fun t => coded t 0 0x400 && (t.fn 3).poolAll == []) = true := by decide +kernel

/-- A scrub of partition 2 under way, for which GRANT or TAKEBACK waits. -/
def scrubbing (w : ScrubWhy) : State := { granted fun p => { p with st := .scrubbing, scrub := some w } with
  tlb := caches
  mgmt := { busy := true, tag := 0x55 } }

/-- What a scrub leaves in every case. -/
def clean (t : State) : Bool := t.sarSeq == 1 && t.cell 4 == {} && t.tlb.all (fun e => e.fn != 3) && (part2 t).scrub == none &&
  (match (part2 t).sar with | some r => !r.signed && r.words.length == 16 && r.words.getD 5 0 == 1 && r.words.getD 8 0 == 0x7FFFF | none => false)

theorem test_scrub : leaves (.scrubDone 2) (scrubbing .grant) (fun t => clean t && coded t 0 0 && (part2 t).st == .granted) = true ∧
    leaves (.scrubDone 2) (scrubbing (.takeback false)) (fun t => clean t && coded t 0 0 && (part2 t).st == .free && (part2 t).tenant == 0xFFFF) = true ∧
    leaves (.scrubDone 2) (scrubbing .flr) (fun t => clean t && (part2 t).st == .free && (part2 t).tenant == 0xFFFF) = true ∧
    leaves (.scrubDone 2) (scrubbing (.launch 3 7)) (fun t => clean t && (part2 t).st == .granted && t.insts.map (fun i => i.scrubbed) == [true]) = true ∧
    (scrubbing .grant).departing (part2 (scrubbing .grant)) = false ∧
    leaves (.scrubDone 2) (logged (scrubbing .grant) 0x20000 { owner := some (4, 1), inst := (3, 9) } [{ key := 0x20000, count := 0, first := 0, rseq := 1, kind := .release, ia := 0 }])
      (fun t => (part2 t).scrub == some .grant) = true ∧
    leaves (.sarSign 2) (granted fun p => { p with sar := some {} }) (fun t => (part2 t).sar == some { signed := true }) = true := by decide +kernel

/-- Function 3 with a key, a sub-log and a page that leaves. -/
def resetting : State := { logged keyed 3 { fn := 3, entries := [two] } [] with tlb := caches }

theorem test_flr : leaves (.flr 3) resetting (fun t => t.insts == [] && t.tlb.all (fun e => e.fn != 3) && t.keys == [] && (t.stack 0).subs.all (fun e => e.2.fn != 3) && (t.fn 3).queues == [] &&
    (t.fn 3).parts == 4 && (t.fn 3).resetting && (part2 t).st == .scrubbing && (part2 t).scrub == some .flr) = true ∧
    resetting.fns.all (fun e => !e.2.flrWaits && !e.2.queues.any fun q => q.2.going) = true ∧
    leaves (.flr 3) (resetting.modQ 3 0 fun _ => { st := .active, notify := 1 }) (fun t => (t.fn 3).resetting && (t.fn 3).flrWaits && t.insts.length == 1) = true ∧
    leaves (.flr 3) (resetting.modFn 3 fun k => { k with resetting := true }) (fun t => t.insts.length == 1) = true := by decide +kernel

/-! ## Power, links and time -/

/-- Bad entries of a kind at a place. -/
def badAt (t : State) (kind loc dir lane : Nat) : Bool := t.links.bad.any fun e => e.kind == kind && e.loc == loc && e.dir == dir && e.lane == lane

/-- The module with ring links in a state. -/
def rings (l : List (Nat × RingLink)) : State := l.foldl (fun s e => s.setRing e.1 e.2) (host {})

theorem test_power : leaves .powerLoss (rings [(1, .lost)]) (fun t => !t.power && t.insts == [] && t.mem == [] && t.ringAt 1 == .full) = true ∧
    leaves .thermalCutoff { host {} with sarSeq := 5, links := { bad := [{ kind := 4, loc := 256 }] } } (fun t => !t.power && t.sarSeq == 5 && t.links.bad.length == 1) = true ∧
    leaves .powerUp { host {} with power := false, links := { bad := [{ kind := 4, loc := 256 }] } } (fun t => t.power && t.insts == [] && t.ringAt 1 == .lost && t.ringAt 0 == .full) = true ∧
    leaves .powerUp { host {} with power := false, untrained := [4, 6] } (fun t => t.power && t.links.cut == [4, 6] && t.links.listed 7 1024 && t.links.hosts == (true, false) && t.untrained == []) = true ∧
    leaves .powerUp { host {} with power := false } (fun t => t.power && t.links == {}) = true ∧ leaves .powerUp (host {}) (fun t => t == host {}) = true ∧
    leaves (.throttle 3 7) (host {}) (fun t => t.clock.throttle.toList == [0, 0, 0, 7, 0, 0, 0, 0]) = true := by decide +kernel

/-- A packet of cell 4 for cell 5 of the instance on both, made at ac 0. -/
def flying (b : Bool) : State := { from4 (demo []) 5 0 (.token { cont := contTo 1 0, val := 7 }) with
  net := [{ vn := 0, src := 4, dst := 5, ctx := 1, committed := b, hops := some [.mesh 4 2], body := .token { cont := contTo 1 0, val := 7 } }]
  clock := { ac16 := Vector.replicate 8 (160 * 16) } }

/-- A packet whose first flit has come in wrong at its next hop, so many times before. -/
def tried (s : State) (n : Nat) : State := { s with net := s.net.map fun p => { p with hurt := some 0, tried := (0, n) } }

/-- A packet that stands at cell 4, of die 0, on its way to a cell of die 1 clockwise. -/
def around : State := { flying true with net := [{ vn := 0, src := 4, dst := 300, ctx := 1, committed := true, hops := some [.ring 0 true], body := .ret { cont := 0, val := 0, tag := 0 } }] }

theorem test_turn : leaves (.ringLinkLost 0) around (fun t => t.net.length == 1 && t.net.all fun p => (p.hops.getD []).all fun h => match h with
    | .ring d cw => !cw && t.ringAt (ringLink d cw) != .lost
    | _ => true) = true := by decide +kernel

theorem test_hops : leaves (.hopRetry 4 2) (flying true) (fun t => t == flying true) = true ∧
    leaves (.hopFailed 4 2) { flying false with net := [] } (fun t => badAt t 2 4 2 0 && t.free == 1) = true ∧
    isLink 4 2 = true ∧ isLink 255 2 = false ∧ leaves (.hopFailed 255 2) (flying false) (fun t => t == flying false) = true ∧
    leaves (.hopRetry 4 2) (tried (flying true) 1) (fun t => (t.cell 4).perf.getD 0x1B 0 == 1 && t.net.map (fun p => (p.hurt, p.tried)) == [(none, (0, 2))]) = true ∧
    leaves (.hopRetry 4 5) (tried around 2) (fun t => t.ringAt 0 == .lost && (t.cell 4).perf.getD 0x1B 0 == 0) = true ∧
    ((flying true).flitError 0 0 [1] 0).net.map (fun p => p.hurt) = [some 0] ∧ ((flying true).flitError 0 0 [3] 0).net.map (fun p => p.hurt) = [some 0] ∧
    ((flying true).flitError 0 0 [1, 0, 0, 0, 0, 0, 0, 0, 1] 0).net.map (fun p => p.hurt) = [none] ∧
    leaves (.hopFailed 5 4) { flying false with net := [] } (fun t => badAt t 1 5 4 0 && t.insts == []) = true := by decide +kernel

/-- The third attempt in a row that fails is the hop's failure (R341). -/
theorem test_last_attempt : exec (.hopRetry 4 2) (tried (flying true) 2) = exec (.hopFailed 4 2) (flying true) := rfl

theorem test_ring : leaves (.ringLinkLost 2) (rings [(1, .lost)]) (fun t => t.ringAt 2 == .lost && t.links.cut == [2] && badAt t 4 512 0 0 && badAt t 9 4 0 0) = true ∧
    leaves (.ringLinkLost 2) (rings [(3, .lost)]) (fun t => t.links.cut == [3]) = true ∧
    leaves (.ringRetrainDone 2) (rings [(2, .retraining)]) (fun t => t.ringAt 2 == .half) = true ∧ leaves (.ringRetrainDone 2) (rings []) (fun t => t == rings []) = true ∧
    leaves (.ringLaneLost 2 0 256) (rings []) (fun t => t.ringAt 2 == .retraining && t.links.lanes == [(2, [256])] && badAt t 3 512 0 16) = true ∧
    leaves (.ringLaneLost 2 1 5) (rings []) (fun t => t.ringAt 1 == .retraining) = true ∧
    leaves (.ringLaneLost 2 0 255) { rings [(2, .half)] with links := { lanes := [(2, [256])] } } (fun t => t.ringAt 2 == .lost) = true ∧
    leaves (.ringLaneLost 2 0 511) { rings [(2, .half)] with links := { lanes := [(2, [0])] } } (fun t => t.ringAt 2 == .lost) = true := by decide +kernel

theorem test_strike : zoneCells 0 2 = [4, 5, 20, 21] ∧
    leaves (.strikeRollback 0 2) (flying false) (fun t => t.net.map (fun p => p.born) == [160] && (t.cell 4).perf.getD 0x18 0 == 1 && (t.cell 21).perf.getD 0x18 0 == 1) = true ∧
    leaves (.strikeRollback 0 2) ((demo []).modCell 4 fun c => { c with lane := {}, retained := [{ ctx := 1, base := 64, bad := true }] }) (fun t => t.insts == [] && (t.cell 4).retained == []) = true ∧
    leaves (.resultCommit (onMesh (stackPort 4 0))) { flying false with net := (flying false).net.map fun p => { p with src := stackPort 4 0 } } (fun t => t.net.map (fun p => p.committed) == [true]) = true ∧
    leaves (.resultCommit 4) (flying false) (fun t => t.net.map (fun p => p.committed) == [true]) = true ∧
    leaves (.resultCommit 4) { flying false with clock := { ac16 := Vector.replicate 8 (159 * 16) } } (fun t => t.net.map (fun p => p.committed) == [false]) = true := by decide +kernel

/-- Port 3 has a packet without an acknowledgement for so many nc. -/
def windowed (n : Nat) : State := { (host {}).setLayer 3 { window := [{}] } with clock := { nc := n } }

theorem test_septord : leaves (.septordResend 3) (host {}) (fun t => t.links.resends == [(3, 1)]) = true ∧
    leaves (.septordPortLost 3) (windowed (2 ^ 16)) (fun t => t.portAt 3 == .lost && badAt t 6 3 0 0) = true ∧
    leaves (.septordPortLost 3) (windowed (2 ^ 16 - 1)) (fun t => t == windowed (2 ^ 16 - 1)) = true ∧ leaves (.septordPortLost 3) (host {}) (fun t => t == host {}) = true ∧
    leaves (.septordLaneLost 3 7) (host {}) (fun t => t.portAt 3 == .half && badAt t 5 3 0 7) = true ∧
    (windowed 0).layer 3 = { window := [{}] } ∧ leaves (.septordPortLost 3) (windowed (2 ^ 16)) (fun t => t.links.septord.toList.filter (· == .lost) == [.lost]) = true ∧
    leaves (.septordResend 3) ((host {}).setPort 3 .lost) (fun t => t == (host {}).setPort 3 .lost) = true := by decide +kernel

/-- What is not acknowledged is sent again (R350). -/
theorem test_resend : ∃ t, exec (.septordResend 3) (windowed 0) = .next t ∧ t.septord = [SepOut.packet 3 {}] := by
  have h : Config.septordFails (windowed 0).free % 1 = 0 := Nat.mod_one _
  refine ⟨_, rfl, ?_⟩
  show ([] : List SepOut) ++ (List.drop (Config.septordFails (windowed 0).free % 1) [({} : SepPacket)]).map (SepOut.packet 3) = _
  rw [h]
  rfl

/-- A module at a global time, the first lock made or not. -/
def atTime (b : Bool) : State := { host {} with clock := { gt := Vector.replicate 8 100, stepped := b } }

theorem test_time : leaves (.timeLock 90) (atTime true) (fun t => t.clock.gtst == .locked && t.clock.slew == -10 && t.clock.gtoff == -10 && t.now 0 == 100) = true ∧
    leaves (.timeLock 150) (atTime false) (fun t => t.clock.gtst == .locked && t.clock.stepped && t.now 7 == 150 && t.clock.slew == 0) = true ∧
    leaves (.timeLock 90) (atTime false) (fun t => t.clock.gtst == .locking && t.now 0 == 100) = true ∧
    ((atTime true).followLinked 130).clock.slew = 30 ∧ ((atTime false).followLinked 130).now 0 = 130 ∧ (atTime true).portAt 0 ≠ .lost ∧
    leaves .timeLockLost (atTime true) (fun t => t.clock.gtst == .holdover) = true ∧ leaves .timeLockLost (atTime false) (fun t => t.clock.gtst == .free) = true := by decide +kernel

/-- A checkpoint of the partitions of a mask through port 2, streaming. -/
def streaming : State := { host {} with ckpt := { ctl := 0x4000000040001, st := 1 } }

theorem test_checkpoint : leaves (.ckptStart 0xFF04000000040003) (logged (atTime false) 3 { applied := 6 } []) (fun t => t.ckpt == { ctl := 0x4000000040001, st := 1, cut := 100, rseqs := [(0, 3, 6)] }) = true ∧
    leaves (.ckptEnd true) { streaming with ckpt := { streaming.ckpt with rseqs := [(0, 3, 6)] } } (fun t => t.ckpt.st == 2 && t.ckpt.ctl == 0x4000000040000 && t.septord == [.cut 2 [(0, 3, 6)]]) = true ∧
    { streaming with ckpt := { streaming.ckpt with todo := [3] }, mem := [(0x2FFFF, 1), (0x30040, 2)] }.ckptPage.septord = [.page 2 3 [(0x30040, 2)]] ∧
    leaves (.ckptEnd false) streaming (fun t => t == streaming) = true ∧
    leaves (.ckptEnd true) { streaming with ckpt := { streaming.ckpt with todo := [3, 4] } } (fun t => t.ckpt.st == 1 && t.ckptPage.ckpt.todo == [4] && t.ckptPage.ckpt.pages == 1) = true ∧
    leaves (.ckptEnd true) (streaming.setPort 2 .lost) (fun t => t.ckpt.st == 3 && t.ckpt.ctl == 0x4000000040000) = true ∧
    leaves (.ckptEnd false) (streaming.setPort 2 .lost) (fun t => t.ckpt.st == 3) = true := by decide +kernel
/-! ## Clauses whose other outcome the tests above show -/

/-- A fetched image has no room beside the 64 KiB of context 2's (R54, log 93). -/
theorem test_image_store : leaves (.imageFetchDone 4 1)
    (((demo []).modCx 4 1 fun k => { k with resident := false, frames := [] }).modCx 4 2 fun k => { k with image := List.replicate 16384 0 })
    (fun t => (t.cx 4 1).resident && !(t.cx 4 2).resident) = true := by decide +kernel

/-- Record 0 waits on slot 2 of frame 128, and a request waits at the pool, of which two frames may be live; CTL_FAULTC names a codelet of vcell 1. -/
def suspended : State := (frames.modCell 4 fun c => { c with slots := [(130, .deferred 0 7 2 0)], recs := [(0, { fir := fir1, slot := 130 })] }).modCx 4 1 fun k => { k with
  ctl := { faultc := contTo 1 1 }
  pools := [(0, { cls := 2, max := 2, places := [192], live := 2, queue := [request] })] }

/-- R35, R59, R189: the frame goes, what is suspended in it is discarded, the request has the lowest shared block, and slot 2 is reported. -/
theorem test_free_frame : (suspended.cell 4).lowestDeferred 128 64 = some 2 ∧
    leaves (.ffreeMessage 5 4 1) (hears suspended 0 (.ffree 128 suspended.issuer)) (fun t => (t.frame? 4 1 128).isNone && t.slot 4 130 == none &&
      (t.cell 4).recs == [] && (t.frame? 4 1 0).isSome && ((t.cx 4 1).pools.getD 0 {}).queue == [] && ((t.cx 4 1).pools.getD 0 {}).live == 2 &&
      t.net.map (fun p => (p.dst, p.also)) == [(5, some 5), (5, none)] && ((t.cell 5).tile 0).els.any (fun e => e.2 == 2)) = true := by decide +kernel

/-- An operation without its reply, one to a frame that is freed, and one whose tile is not there (R190, R204). -/
theorem test_late_reply : leaves (.producerReply 7) { replies with ops := replies.ops.map fun o => { o with reply := none } }
      (fun t => t.ops.length == 2 && t.slot 4 68 == none) = true ∧
    leaves (.producerReply 7) (replies.modCx 4 1 fun k => { k with frames := [] }) (fun t => t.insts == [] && t.slot 4 68 == none) = true ∧
    leaves (.remoteHeapRequest 5 4 1) { hears tiles 2 (.hld (tiles.x 5) 5 7 tiles.issuer) with ops := [{ id := 7, kind := .hld, who := tiles.issuer }] }
      (fun t => t.ops.map (fun o => (o.result, o.fault.isSome)) == [(none, true)] && t.net.map (fun p => (p.vn, p.dst)) == [(3, 4)]) = true := by decide +kernel

/-- MACC of tile 0 into rows 3 and 4; RSET that fills a tile; a kernel whose image is not resident; TCOPY of a tile whose bytes are not those of
its check value (R247, R253, R261, R359). -/
theorem test_engine_forms : worked (ecmd 22 .macc [0x10103, 1, mkHandle 0 1 0 1]) { acc := words }
      (fun t => (t.cell 4).matrix.acc == [(192, 1), (193, 2), (194, 7), (256, 3), (257, 4)]) = true ∧
    leaves (.reducerTake 4) (reducer { queue := [{ rset with recw := [1 + 2 ^ 8 + 2 ^ 16 + 2 * 2 ^ 24, 0xA0, 0, 6] }] } [])
      (fun t => (t.cell 4).reducer.cur.map (fun k => k.run.made) == some (some (4, 3, 1)) && ((t.cell 4).tile 3).hidden && ((t.cell 4).tile 3).fmt == 10 &&
        ((t.cell 4).tile 3).rows == 2) = true ∧
    leaves (.vrunTake 4) ((vector { queue := [vrun] } []).modCx 4 1 fun k => { k with resident := false }) (fun t => (t.cell 4).vec.queue == [vrun]) = true ∧
    (let t := (run4 (tensors.modCell 4 fun c => c.modTile 0 fun t => { t with unchecked := [0] }) (copying 0 0)).xfer 4 (copying 0 0)
     (t.cell 4).copies.map (fun r => r.poisoned) == [true] && t.net.length == 1) = true := by decide +kernel

/-- A context's segment that fails is reported to it; one of a log that writes to a page still to be streamed waits for the page; a release behind a full ring
waits; a walk that waits at its walker (R86, R362, R90, R320). -/
theorem test_other_ends : leaves (.segmentReplay 0) ((published 0x20000 { two with bad := true }).modSub 0 0x20000 fun l => { l with owner := some (4, 1), inst := (3, 7) })
      (fun t => (t.sub 0 0x20000).failedFrom == some 6 && (t.stack 0).segs == [] && t.insts == []) = true ∧
    leaves (.segmentReplay 0) { published 0x20000 two with ckpt := { st := 1, ctl := 0x40000, todo := [3, 4] } } (fun t => t.ckpt.todo == [4] && (t.stack 0).segs.length == 1 &&
      t.rdBytes 0x30040 3 == [1, 2, 3] && t.septord.length == 1) = true ∧
    leaves (.publishMessage 9 0) ({ fullRing waited with ops := [waited, { release with id := 9 }] }) (fun t => t.ops.map (fun o => o.opened) == [false, false]) = true ∧
    leaves (.translationWalk 7 0) (memory 0 (mop .ldg { there 3 with xl := .stuck 3 0x100, gpa := 0 })) (fun t => t.ops == [mop .ldg (there 3)]) = true := by decide +kernel

/-- A write of the host that finds its sub-log full waits with those behind it; an interface that is down loses it; a function in FLR reads all ones. -/
def full : State := logged (host {}) 3 { size := 128, entries := [two] } []

theorem test_held_writes : leaves (.hostWindowWrite 3 0x80042 [0xAA]) full (fun t => t.hostq == [.hostWindowWrite 3 0x80042 [0xAA]] &&
      (t.sub 0 3).entries == [{ two with published := true }]) = true ∧
    full.hostIn (.hostWindowWrite 3 0x80042 [0xAA]) = none ∧
    ({ full with hostq := [.qNotify 3 0 1] }.hostIn (.hostWindowWrite 3 0x80042 [0xAA])).map (fun (t : State) => t.hostq.length) = some 2 ∧
    ({ full with links := { hosts := (false, true) } }.hostIn (.hostWindowWrite 3 0x80042 [0xAA])).map (fun (t : State) => t == { full with links := { hosts := (false, true) } }) = some true ∧
    leaves (.hostWindowRead 3 0x80040 2) ((host {}).modFn 3 fun k => { k with resetting := true }) (fun t => t.pcie == [.read 3 0x80040 (some [0xFF, 0xFF]) false]) = true ∧
    leaves (.hostWindowRead 3 0x80040 1) { host {} with unchecked := [0xC01] } (fun t => t.gpoison == [0xC01] && t.pcie == [.read 3 0x80040 (some [5]) true]) = true ∧
    leaves (.hcopy 3 0) (logged (pkt' [phead 11 4 0, 0x80040, 0x80080, 64]) 3 { size := 128, entries := [two] } [])
      (fun t => (t.queue 3 0).pkts == 0 && (t.queue 3 0).cleared && (t.sub 0 3).entries == [{ two with published := true }]) = true := by decide +kernel

/-- Two queues that stand at a packet, of which queue 0, of priority 0, has had its one turn (R310). -/
def rivals (n : Nat) : State := (host { packetAt [phead 10 1 0] with served := 1 }).modFn 3 fun k =>
  { k with queues := k.queues.put 1 { packetAt [phead 10 1 0] with prio := 1, served := n } }

theorem test_queue_turns : (rivals 1).turn 3 0 = none ∧ ((rivals 1).turn 3 1).isSome = true ∧
    leaves (.nopp 3 0) (rivals 1) (fun t => t == rivals 1) = true ∧
    leaves (.nopp 3 0) (rivals 2) (fun t => (t.queue 3 0).pkts == 1 && (t.queue 3 0).served == 1 && (t.queue 3 1).served == 0) = true ∧
    leaves (.qEnable 3 0 1) (host { notify := 7, loop := some (0, 1, 1, 0, 0), skip := some (0, 1), copied := 2 })
      (fun t => t.queue 3 0 == { notify := 7, en := true, st := .active, head := 7 }) = true ∧
    leaves (.queueFetch 3 0) (host { packetAt [phead 10 1 0] with base := 0, notify := 2 }) (fun t => (t.queue 3 0).st == .active && (t.queue 3 0).fetched.length == 1) = true ∧
    leaves (.queueFetch 3 0) (host { packetAt [] with base := 0, notify := 2 }) (fun t => (t.queue 3 0).st == .error) = true := by decide +kernel

end Sys2Proof.Tests
end

section
/-! PROOFS. Applied memory stays in its canonical form (O41, O42): one lemma for each operation of the model, in the model's order. An
operation is named with `_wf` where it answers a state, and with `_keeps` where it is the meaning of an instruction. -/

namespace Sys2Proof.Machine

/-! ## Applied memory through the shared operations -/

/-- An outcome is a next state, and one in which applied memory is in its canonical form if it was before. -/
def Keeps (s : State) (o : Host.Outcome State Fault Refusal) : Prop := ∃ t, o = .next t ∧ (Memory.wf s.mem → Memory.wf t.mem)

/-- The state that an operation answers, if it answers one, has applied memory in its canonical form. -/
def OptWf (o : Option State) : Prop := ∀ t, o = some t → Memory.wf t.mem

/-- The same of an operation that answers more than a state. -/
def OptPairWf {α : Type} (o : Option (State × α)) : Prop := ∀ p, o = some p → Memory.wf p.1.mem

/-- The same of an operation that a check may refuse. -/
def ChkWf {α : Type} (o : Chk (State × α)) : Prop := ∀ p, o = .ok p → Memory.wf p.1.mem

theorem Keeps.next {s t : State} (h : Memory.wf s.mem → Memory.wf t.mem) : Keeps s (.next t) := ⟨t, rfl, h⟩

theorem Keeps.of_wf {s t : State} {o : Host.Outcome State Fault Refusal} (h : Memory.wf s.mem → Memory.wf t.mem) (ho : Keeps t o) :
    Keeps s o := by
  obtain ⟨u, e, hu⟩ := ho
  exact ⟨u, e, fun hs => hu (h hs)⟩

theorem optWf_none : OptWf none := fun _ e => (Option.some_ne_none _ e.symm).elim

theorem optWf_some {t : State} (h : Memory.wf t.mem) : OptWf (some t) := fun _ e => Option.some.inj e ▸ h

theorem optPairWf_none {α : Type} : OptPairWf (none : Option (State × α)) := fun _ e => (Option.some_ne_none _ e.symm).elim

theorem optPairWf_some {α : Type} {p : State × α} (h : Memory.wf p.1.mem) : OptPairWf (some p) := fun _ e => Option.some.inj e ▸ h

theorem chkWf_error {α : Type} {e : FaultCode × Word} : ChkWf (.error e : Chk (State × α)) := fun _ e => by
  simp only [reduceCtorEq] at e

theorem chkWf_ok {α : Type} {p : State × α} (h : Memory.wf p.1.mem) : ChkWf (.ok p) := fun _ e => Except.ok.inj e ▸ h

theorem chkWf_bind {α β : Type} {o : Chk β} {f : β → Chk (State × α)} (h : ∀ b, o = .ok b → ChkWf (f b)) : ChkWf (o >>= f) := by
  cases o with
  | error e => exact chkWf_error
  | ok b => exact h b rfl

theorem chkWf_step {α β : Type} {o : Chk (State × β)} {f : State × β → Chk (State × α)} (ho : ChkWf o)
    (hf : ∀ p, Memory.wf p.1.mem → ChkWf (f p)) : ChkWf (o >>= f) := chkWf_bind fun p e => hf p (ho p e)

theorem ite_wf {c : Prop} [Decidable c] {s t : State} (hs : Memory.wf s.mem) (ht : Memory.wf t.mem) :
    Memory.wf (if c then s else t).mem := by
  split
  · exact hs
  · exact ht

theorem fst_wf {α : Type} {p : State × α} {t : State} {a : α} (h : Memory.wf p.1.mem) (e : p = (t, a)) : Memory.wf t.mem :=
  by rw [e] at h; exact h

theorem snd_wf {α : Type} {p : α × State} {t : State} {a : α} (h : Memory.wf p.2.mem) (e : p = (a, t)) : Memory.wf t.mem := by
  rw [e] at h; exact h

theorem optWf_findSome? {α : Type} {f : α → Option State} {l : List α} (hf : ∀ a, OptWf (f a)) : OptWf (l.findSome? f) := by
  intro t e
  obtain ⟨a, _, ha⟩ := List.exists_of_findSome?_eq_some e
  exact hf a t ha

theorem optWf_map {o : Option State} {f : State → State} (hf : ∀ t, Memory.wf t.mem → Memory.wf (f t).mem) (h : OptWf o) :
    OptWf (o.map f) := by
  cases o with
  | none => exact optWf_none
  | some t => exact optWf_some (hf t (h t rfl))

theorem getD_wf {o : Option State} {s : State} (ho : OptWf o) (h : Memory.wf s.mem) : Memory.wf (o.getD s).mem := by
  cases o with
  | none => exact h
  | some t => exact ho t rfl

theorem foldl_wf {α : Type} {f : State → α → State} {l : List α} {s : State}
    (hf : ∀ t a, Memory.wf t.mem → Memory.wf (f t a).mem) (h : Memory.wf s.mem) : Memory.wf (l.foldl f s).mem := by
  induction l generalizing s with
  | nil => exact h
  | cons a l ih => exact ih (hf s a h)

/-! ## Cells, contexts and tiles -/

theorem State.modCell_wf {s : State} {c : Nat} {f : Cell → Cell} (h : Memory.wf s.mem) : Memory.wf (s.modCell c f).mem := h

theorem State.modCx_wf {s : State} {c x : Nat} {f : Ctx → Ctx} (h : Memory.wf s.mem) : Memory.wf (s.modCx c x f).mem := h

theorem State.fresh_wf {s : State} (h : Memory.wf s.mem) : Memory.wf (s.fresh).2.mem := by
  unfold State.fresh
  exact h

theorem State.count_wf {s : State} {c x n : Nat} (h : Memory.wf s.mem) : Memory.wf (s.count c x n).mem := h

theorem State.countCell_wf {s : State} {c n : Nat} (h : Memory.wf s.mem) : Memory.wf (s.countCell c n).mem := h

theorem State.modLane_wf {s : State} {f : Lane → Lane} (h : Memory.wf s.mem) : Memory.wf (s.modLane f).mem := h

theorem State.setX_wf {s : State} {n : BitVec 4} {v : Word} (h : Memory.wf s.mem) : Memory.wf (s.setX n v).mem := h

theorem State.setP_wf {s : State} {n : BitVec 3} {v : Bool} (h : Memory.wf s.mem) : Memory.wf (s.setP n v).mem := h

theorem State.orFlags_wf {s : State} {c x : Nat} {fl : BitVec 7} (h : Memory.wf s.mem) : Memory.wf (s.orFlags c x fl).mem := by
  unfold State.orFlags
  split
  · exact h
  · exact State.modCx_wf h

theorem State.flag_wf {s : State} {fl : BitVec 7} (h : Memory.wf s.mem) : Memory.wf (s.flag fl).mem := by
  unfold State.flag
  exact State.orFlags_wf h

theorem State.modTile_wf {s : State} {c i : Nat} {f : Tile → Tile} (h : Memory.wf s.mem) : Memory.wf (s.modTile c i f).mem := h

theorem State.setSlot_wf {s : State} {c k : Nat} {v : Option Slot} (h : Memory.wf s.mem) : Memory.wf (s.setSlot c k v).mem := h

theorem State.pushReady_wf {s : State} {c cls : Nat} {b : ReadyBody} (h : Memory.wf s.mem) : Memory.wf (s.pushReady c cls b).mem := h

theorem State.writeSlot_wf {s : State} {c k : Nat} {v : Word} (h : Memory.wf s.mem) : Memory.wf (s.writeSlot c k v).mem := by
  unfold State.writeSlot
  split
  · extract_lets t
    have h1 : Memory.wf t.mem := State.setSlot_wf h
    split
    · exact h1
    · exact State.pushReady_wf (State.modCell_wf h1)
  · exact State.setSlot_wf h

theorem State.touch_wf {s : State} {c k : Nat} (h : Memory.wf s.mem) : Memory.wf (s.touch c k).mem := h

/-! ## Store logs -/

theorem State.modStack_wf {s : State} {i : Nat} {f : Stack → Stack} (h : Memory.wf s.mem) : Memory.wf (s.modStack i f).mem := by
  unfold State.modStack
  split <;> exact h

theorem State.modSub_wf {s : State} {i key : Nat} {f : SubLog → SubLog} (h : Memory.wf s.mem) : Memory.wf (s.modSub i key f).mem := by
  unfold State.modSub
  exact State.modStack_wf h

theorem State.ringWrite_wf {s : State} {i key : Nat} {e : Entry} (h : Memory.wf s.mem) : Memory.wf (s.ringWrite i key e).mem := by
  unfold State.ringWrite
  extract_lets
  split
  · exact h
  · exact State.wrGran_wf _ _ _ _ (State.wrGran_wf _ _ _ _ h)

theorem State.appendEntry_wf {s : State} {i key : Nat} {e : Entry} (h : Memory.wf s.mem) : Memory.wf (s.appendEntry i key e).mem := by
  unfold State.appendEntry
  split
  · rename_i t e1
    have h1 : Memory.wf t.mem := snd_wf (State.fresh_wf h) e1
    exact State.ringWrite_wf (State.modSub_wf h1)

theorem State.publish_wf {s : State} {i key : Nat} {kind : SegKind} {rseq : BitVec 32} {ia op : Nat} {tag : Word} {faulty : Bool}
    (h : Memory.wf s.mem) : Memory.wf (s.publish i key kind rseq ia op tag faulty).mem := by
  unfold State.publish
  exact State.modStack_wf h

theorem State.voidIn_wf {s : State} {i key : Nat} {p : Entry → Bool} (h : Memory.wf s.mem) : Memory.wf (s.voidIn i key p).mem := by
  unfold State.voidIn
  exact foldl_wf (fun _ _ h1 => State.ringWrite_wf h1) (State.modSub_wf h)

/-! ## Translation -/

theorem State.modFn_wf {s : State} {f : Nat} {g : Fn → Fn} (h : Memory.wf s.mem) : Memory.wf (s.modFn f g).mem := h

theorem State.keepTlb_wf {s : State} {a : Nat} {e : TlbEntry} (h : Memory.wf s.mem) : Memory.wf (s.keepTlb a e).mem := by
  unfold State.keepTlb
  extract_lets _ _ t
  have h1 : Memory.wf t.mem := ite_wf h h
  split
  · exact State.modCell_wf h1
  · exact h1

theorem State.keepNested_wf {s : State} {a f gpa : Nat} (h : Memory.wf s.mem) : Memory.wf (s.keepNested a f gpa).mem := by
  unfold State.keepNested
  split
  · exact h
  · split
    · exact State.keepTlb_wf h
    · exact h

theorem State.keepXlate_wf {s : State} {a f root tpn psize pgo : Nat} (h : Memory.wf s.mem) :
    Memory.wf (s.keepXlate a f root tpn psize pgo).mem := by
  unfold State.keepXlate
  split
  · exact h
  · exact State.keepTlb_wf (State.keepNested_wf (foldl_wf (fun _ _ h1 => State.keepNested_wf h1) h))

theorem State.dropXlate_wf {s : State} {f gpa n : Nat} (h : Memory.wf s.mem) : Memory.wf (s.dropXlate f gpa n).mem := h

theorem State.errRec_wf {s : State} {kind part cell ctx : Nat} {d1 d2 : Word} (h : Memory.wf s.mem) :
    Memory.wf (s.errRec kind part cell ctx d1 d2).mem := by
  unfold State.errRec
  extract_lets _ _ t
  have h1 : Memory.wf t.mem := State.wrBytes_wf _ _ _ h
  split
  · exact h
  · exact h1

theorem State.ringPut_wf {s : State} {f : Nat} {r : RecRing} {w : List Word} {t : Word} (h : Memory.wf s.mem) :
    Memory.wf (s.ringPut f r w t).1.mem := by
  unfold State.ringPut
  extract_lets
  split
  · exact State.wrBytes_wf _ _ _ h
  · exact State.errRec_wf h

theorem State.wrGuest_wf {s : State} {f gpa : Nat} {bs : List Byte} (h : Memory.wf s.mem) : OptWf (s.wrGuest f gpa bs) := by
  unfold State.wrGuest
  extract_lets
  split
  · exact optWf_none
  · exact optWf_some (foldl_wf (fun _ _ h1 => by
      split
      · exact State.wrBytes_wf _ _ _ h1
      · exact h1) h)

/-! ## The mesh and the bad-cell register -/

theorem State.addBad_wf {s : State} {kind loc dir lane : Nat} (h : Memory.wf s.mem) : Memory.wf (s.addBad kind loc dir lane).mem := by
  unfold State.addBad
  split <;> exact h

/-! ## The shared operations -/

theorem State.inject_wf {s : State} {p : Packet} (h : Memory.wf s.mem) : Memory.wf (s.inject p).mem := h

theorem State.raiseOut_wf {s : State} {c x n : Nat} (h : Memory.wf s.mem) : Memory.wf (s.raiseOut c x n).mem := h

theorem State.lowerOut_wf {s : State} {c x n : Nat} (h : Memory.wf s.mem) : Memory.wf (s.lowerOut c x n).mem := h

theorem State.sendAs_wf {s : State} {c : Nat} {t : Token} {also reply : Option Nat} (h : Memory.wf s.mem) :
    Memory.wf (s.sendAs c t also reply).mem := by
  unfold State.sendAs
  extract_lets _ t1
  have h1 : Memory.wf t1.mem := State.raiseOut_wf h
  split <;> exact State.inject_wf h1

theorem State.sendTok_wf {s : State} {c : Nat} {cont val tag : Word} (h : Memory.wf s.mem) : Memory.wf (s.sendTok c cont val tag).mem := by
  unfold State.sendTok
  exact State.sendAs_wf h

theorem State.sendReply_wf {s : State} {c : Nat} {w : Issuer} {cont val : Word} (h : Memory.wf s.mem) :
    Memory.wf (s.sendReply c w cont val).mem := by
  unfold State.sendReply
  exact State.sendAs_wf h

theorem State.modInst_wf {s : State} {f id : Nat} {g : Inst → Inst} (h : Memory.wf s.mem) : Memory.wf (s.modInst f id g).mem := h

theorem State.modQ_wf {s : State} {f q : Nat} {g : Queue → Queue} (h : Memory.wf s.mem) : Memory.wf (s.modQ f q g).mem := h

theorem State.putC_wf {s : State} {f q : Nat} {w : List Word} (h : Memory.wf s.mem) : Memory.wf (s.putC f q w).mem := by
  unfold State.putC
  split
  · rename_i t _ e
    have h1 : Memory.wf t.mem := fst_wf (State.ringPut_wf h) e
    exact State.modQ_wf h1

theorem State.putE_wf {s : State} {f q : Nat} {w : List Word} {t : Word} (h : Memory.wf s.mem) : Memory.wf (s.putE f q w t).mem := by
  unfold State.putE
  split
  · rename_i t1 _ e
    have h1 : Memory.wf t1.mem := fst_wf (State.ringPut_wf h) e
    exact State.modQ_wf h1

theorem State.complete_wf {s : State} {i : Inst} {st : EndStatus} (h : Memory.wf s.mem) : Memory.wf (s.complete i st).mem := by
  unfold State.complete
  extract_lets _ t t1
  have h1 : Memory.wf t.mem := State.putC_wf h
  have h2 : Memory.wf t1.mem := State.modFn_wf h1
  split
  · exact h2
  · exact State.modQ_wf h2

theorem State.returnShadows_wf {s : State} {o : MemOp} (h : Memory.wf s.mem) : Memory.wf (s.returnShadows o).mem := by
  unfold State.returnShadows
  exact foldl_wf (fun _ _ h1 => State.modFn_wf (State.zeroRange_wf _ _ _ h1)) h

theorem State.dropOps_wf {s : State} {p : MemOp → Bool} (h : Memory.wf s.mem) : Memory.wf (s.dropOps p).mem := by
  unfold State.dropOps
  exact foldl_wf (fun _ _ h1 => State.returnShadows_wf h1) h

theorem State.releaseInst_wf {s : State} {i : Inst} (h : Memory.wf s.mem) : Memory.wf (s.releaseInst i).mem := by
  unfold State.releaseInst
  exact State.modFn_wf (foldl_wf (fun _ _ h1 => State.zeroRange_wf _ _ _ h1) (foldl_wf (fun _ _ h1 => State.modCell_wf (foldl_wf
    (fun _ _ h2 => by
    extract_lets _ t
    have h3 : Memory.wf t.mem := foldl_wf (fun _ _ h3 => State.modFn_wf (State.zeroRange_wf _ _ _ h3)) h2
    split
    · exact h3
    · exact State.voidIn_wf h3) h1)) (State.dropOps_wf h)))

theorem State.endInst_wf {s : State} {i : Inst} {st : EndStatus} (h : Memory.wf s.mem) : Memory.wf (s.endInst i st).mem := by
  unfold State.endInst
  exact State.complete_wf (State.releaseInst_wf h)

theorem State.kill_wf {s : State} {i : Inst} {st : EndStatus} {recd : List Word} {t : Word} (h : Memory.wf s.mem) :
    Memory.wf (s.kill i st recd t).mem := by
  unfold State.kill
  exact State.endInst_wf (State.putE_wf h)

theorem State.deliverTo_wf {s : State} {r : Raise} {target : Word} {row1 : List Word} (h : Memory.wf s.mem) :
    Memory.wf (s.deliverTo r target row1).mem := by
  unfold State.deliverTo
  split
  · exact h
  · extract_lets
    split
    · exact State.kill_wf h
    · split
      · exact State.kill_wf h
      · exact State.sendAs_wf (State.modCell_wf h)

theorem State.take_wf {s : State} {r : Raise} (h : Memory.wf s.mem) : Memory.wf (s.take r).mem := by
  unfold State.take
  extract_lets
  split
  · exact State.inject_wf h
  · exact h
  · exact State.deliverTo_wf h

theorem State.opFault_wf {s : State} {w : Issuer} {code : FaultCode} {d1 d2 : Word} (h : Memory.wf s.mem) :
    Memory.wf (s.opFault w code d1 d2).mem := by
  unfold State.opFault
  exact State.take_wf h

theorem State.countLost_wf {s : State} {c x : Nat} {tag : Word} {n : Nat} (h : Memory.wf s.mem) :
    Memory.wf (s.countLost c x tag n).mem := by
  unfold State.countLost
  extract_lets
  split
  · split
    · exact h
    · exact State.modInst_wf h
  · exact h

theorem State.opLost_wf {s : State} {w : Issuer} {code : FaultCode} {d1 d2 : Word} (h : Memory.wf s.mem) :
    Memory.wf (s.opLost w code d1 d2).mem := by
  unfold State.opLost
  exact State.opFault_wf (State.countLost_wf h)

theorem State.linkLost_wf {s : State} {f id c : Nat} {tags : List Word} (h : Memory.wf s.mem) : Memory.wf (s.linkLost f id c tags).mem := by
  unfold State.linkLost
  split
  · exact h
  · extract_lets
    split
    · exact State.take_wf h
    · exact State.kill_wf h

theorem State.grantTo_wf {s : State} {c x level b : Nat} {reserved : Bool} {r : FrameReq} (h : Memory.wf s.mem) :
    Memory.wf (s.grantTo c x level b reserved r).mem := by
  unfold State.grantTo
  exact State.sendAs_wf (State.modCell_wf h)

theorem State.serveLevel_wf {s : State} {c x level n : Nat} (h : Memory.wf s.mem) : Memory.wf (s.serveLevel c x level n).mem := by
  induction n generalizing s with
  | zero => exact h
  | succ n ih =>
    unfold State.serveLevel
    dsimp only
    split
    · exact ih (State.grantTo_wf (State.modCx_wf h))
    · exact h

theorem State.serveLevels_wf {s : State} {c x : Nat} (h : Memory.wf s.mem) : Memory.wf (s.serveLevels c x).mem := by
  unfold State.serveLevels
  exact foldl_wf (fun _ _ h1 => State.serveLevel_wf h1) h

theorem State.freeFrame_wf {s : State} {c x b : Nat} (h : Memory.wf s.mem) : Memory.wf (s.freeFrame c x b).1.mem := by
  unfold State.freeFrame
  split
  · exact h
  · dsimp only
    exact State.serveLevels_wf (State.modCell_wf h)

theorem State.freeLater_wf {s : State} {c x b : Nat} {w : Issuer} (h : Memory.wf s.mem) : Memory.wf (s.freeLater c x b w).mem := by
  unfold State.freeLater
  split
  · rename_i t e
    have h1 : Memory.wf t.mem := fst_wf (State.freeFrame_wf h) e
    exact h1
  · rename_i t _ e
    have h1 : Memory.wf t.mem := fst_wf (State.freeFrame_wf h) e
    exact State.opFault_wf h1

theorem State.endFiring_wf {s : State} (h : Memory.wf s.mem) : Memory.wf (s.endFiring).mem := by
  unfold State.endFiring
  exact foldl_wf (fun _ _ h1 => State.freeLater_wf h1) (State.modLane_wf h)

theorem State.goto_wf {s : State} {ia : Nat} (h : Memory.wf s.mem) : Memory.wf (s.goto ia).mem := by
  unfold State.goto
  extract_lets
  split
  · exact State.endFiring_wf h
  · exact State.modLane_wf h

theorem State.step1_wf {s : State} (h : Memory.wf s.mem) : Memory.wf (s.step1).mem := by
  unfold State.step1
  exact State.goto_wf h

theorem State.raiseAs_wf {s : State} {cls : Nat} {code : FaultCode} {d1 d2 : Word} (h : Memory.wf s.mem) :
    Memory.wf (s.raiseAs cls code d1 d2).mem := by
  unfold State.raiseAs
  extract_lets _ _ t
  have h1 : Memory.wf t.mem := State.endFiring_wf h
  split
  · exact h1
  · exact State.take_wf h1

theorem State.raise_wf {s : State} {code : FaultCode} {d1 d2 : Word} (h : Memory.wf s.mem) : Memory.wf (s.raise code d1 d2).mem := by
  unfold State.raise
  exact State.raiseAs_wf h

theorem State.guarded_wf {s : State} {g : BitVec 4} {f : State → State} (hf : ∀ t, Memory.wf t.mem → Memory.wf (f t).mem)
    (h : Memory.wf s.mem) : Memory.wf (s.guarded g f).mem := by
  unfold State.guarded
  split
  · exact hf _ h
  · exact State.step1_wf h

theorem State.guardedP_wf {s : State} {p : BitVec 3} {f : State → State} (hf : ∀ t, Memory.wf t.mem → Memory.wf (f t).mem)
    (h : Memory.wf s.mem) : Memory.wf (s.guardedP p f).mem := by
  unfold State.guardedP
  split
  · exact hf _ h
  · exact State.step1_wf h

/-! ## Operands of the lane -/

theorem State.withOpd_wf {α : Type} {s : State} {o : Opd α} {f : α → State} (hf : ∀ v, Memory.wf (f v).mem)
    (h : Memory.wf s.mem) : Memory.wf (s.withOpd o f).mem := by
  unfold State.withOpd
  split
  · exact State.raise_wf h
  · exact hf _

theorem State.sendFrom_wf {s : State} {cont val tag : Word} (h : Memory.wf s.mem) : Memory.wf (s.sendFrom cont val tag).mem := by
  unfold State.sendFrom
  split
  · exact h
  · exact State.sendTok_wf h

/-! ## Integer instructions -/

theorem State.write_wf {s : State} {d : BitVec 4} {v : Word} {fl : Fl} (h : Memory.wf s.mem) : Memory.wf (s.write d v fl).mem := by
  unfold State.write
  exact State.step1_wf (State.setX_wf (State.flag_wf h))

theorem State.writeP_wf {s : State} {d : BitVec 3} {v : Bool} {fl : Fl} (h : Memory.wf s.mem) : Memory.wf (s.writeP d v fl).mem := by
  unfold State.writeP
  exact State.step1_wf (State.setP_wf (State.flag_wf h))

theorem State.int2_wf {s : State} {d a b g : BitVec 4} {w : Bool} {f : Nat → Nat → Nat → Int × Fl} (h : Memory.wf s.mem) :
    Memory.wf (s.int2 d a b g w f).mem := by
  unfold State.int2
  exact State.guarded_wf (fun _ h1 => by
    extract_lets
    split
    · exact State.write_wf h1) h

theorem execNop_keeps {_g : BitVec 4} {s : State} : Keeps s (execNop _g s) :=
  .next fun h => State.step1_wf h

theorem execAdd_keeps {d a b g : BitVec 4} {sat u w : Bool} {s : State} : Keeps s (execAdd d a b g sat u w s) :=
  .next fun h => State.int2_wf h

theorem execSub_keeps {d a b g : BitVec 4} {sat u w : Bool} {s : State} : Keeps s (execSub d a b g sat u w s) :=
  .next fun h => State.int2_wf h

theorem execMul_keeps {d a b g : BitVec 4} {sat u w : Bool} {s : State} : Keeps s (execMul d a b g sat u w s) :=
  .next fun h => State.int2_wf h

theorem execMulh_keeps {d a b g : BitVec 4} {u : Bool} {s : State} : Keeps s (execMulh d a b g u s) :=
  .next fun h => State.guarded_wf (fun _ h1 => State.write_wf h1) h

theorem execDiv_keeps {d a b g : BitVec 4} {u w : Bool} {s : State} : Keeps s (execDiv d a b g u w s) :=
  .next fun h => State.int2_wf h

theorem execRem_keeps {d a b g : BitVec 4} {u w : Bool} {s : State} : Keeps s (execRem d a b g u w s) :=
  .next fun h => State.int2_wf h

theorem execAnd_keeps {d a b g : BitVec 4} {w : Bool} {s : State} : Keeps s (execAnd d a b g w s) :=
  .next fun h => State.int2_wf h

theorem execOr_keeps {d a b g : BitVec 4} {w : Bool} {s : State} : Keeps s (execOr d a b g w s) :=
  .next fun h => State.int2_wf h

theorem execXor_keeps {d a b g : BitVec 4} {w : Bool} {s : State} : Keeps s (execXor d a b g w s) :=
  .next fun h => State.int2_wf h

theorem execAndn_keeps {d a b g : BitVec 4} {w : Bool} {s : State} : Keeps s (execAndn d a b g w s) :=
  .next fun h => State.int2_wf h

theorem execShl_keeps {d a b g : BitVec 4} {w : Bool} {s : State} : Keeps s (execShl d a b g w s) :=
  .next fun h => State.int2_wf h

theorem execShr_keeps {d a b g : BitVec 4} {w : Bool} {s : State} : Keeps s (execShr d a b g w s) :=
  .next fun h => State.int2_wf h

theorem execSra_keeps {d a b g : BitVec 4} {w : Bool} {s : State} : Keeps s (execSra d a b g w s) :=
  .next fun h => State.int2_wf h

theorem execRol_keeps {d a b g : BitVec 4} {w : Bool} {s : State} : Keeps s (execRol d a b g w s) :=
  .next fun h => State.int2_wf h

theorem execMin_keeps {d a b g : BitVec 4} {u w : Bool} {s : State} : Keeps s (execMin d a b g u w s) :=
  .next fun h => State.int2_wf h

theorem execMax_keeps {d a b g : BitVec 4} {u w : Bool} {s : State} : Keeps s (execMax d a b g u w s) :=
  .next fun h => State.int2_wf h

theorem execClz_keeps {d a g : BitVec 4} {s : State} : Keeps s (execClz d a g s) :=
  .next fun h => State.guarded_wf (fun _ h1 => State.write_wf h1) h

theorem execPopc_keeps {d a g : BitVec 4} {s : State} : Keeps s (execPopc d a g s) :=
  .next fun h => State.guarded_wf (fun _ h1 => State.write_wf h1) h

theorem execExtr_keeps {d a b g : BitVec 4} {s : State} : Keeps s (execExtr d a b g s) :=
  .next fun h => State.guarded_wf (fun _ h1 => State.write_wf h1) h

theorem execIns_keeps {d a b g : BitVec 4} {s : State} : Keeps s (execIns d a b g s) :=
  .next fun h => State.guarded_wf (fun _ h1 => State.write_wf h1) h

theorem execSel_keeps {d a b g : BitVec 4} {c : BitVec 3} {s : State} : Keeps s (execSel d a b g c s) :=
  .next fun h => State.guarded_wf (fun _ h1 => State.write_wf h1) h

theorem execCmp_keeps {d : BitVec 3} {a b g c : BitVec 4} {s : State} : Keeps s (execCmp d a b g c s) :=
  .next fun h => State.guarded_wf (fun _ h1 => State.writeP_wf h1) h

theorem execPlog_keeps {d a b : BitVec 3} {g l : BitVec 4} {s : State} : Keeps s (execPlog d a b g l s) :=
  .next fun h => State.guarded_wf (fun _ h1 => State.writeP_wf h1) h

theorem execAddi_keeps {d a : BitVec 4} {imm : BitVec 16} {s : State} : Keeps s (execAddi d a imm s) :=
  .next fun h => State.write_wf h

theorem execAndi_keeps {d a : BitVec 4} {imm : BitVec 16} {s : State} : Keeps s (execAndi d a imm s) :=
  .next fun h => State.write_wf h

theorem execOri_keeps {d a : BitVec 4} {imm : BitVec 16} {s : State} : Keeps s (execOri d a imm s) :=
  .next fun h => State.write_wf h

theorem execXori_keeps {d a : BitVec 4} {imm : BitVec 16} {s : State} : Keeps s (execXori d a imm s) :=
  .next fun h => State.write_wf h

theorem execShfi_keeps {d a : BitVec 4} {k : BitVec 2} {n : BitVec 6} {s : State} : Keeps s (execShfi d a k n s) :=
  .next fun h => State.write_wf h

theorem execCmpi_keeps {d : BitVec 3} {a c : BitVec 4} {imm : BitVec 12} {s : State} : Keeps s (execCmpi d a c imm s) :=
  .next fun h => State.writeP_wf h

theorem execMovi_keeps {d : BitVec 4} {imm : BitVec 16} {s : State} : Keeps s (execMovi d imm s) :=
  .next fun h => State.write_wf h

theorem execMovk_keeps {d : BitVec 4} {h : BitVec 2} {imm : BitVec 16} {s : State} : Keeps s (execMovk d h imm s) :=
  .next fun hs => State.write_wf hs

/-! ## Floating-point instructions -/

theorem State.writeF_wf {s : State} {d : BitVec 4} {r : Nat × Fl} (h : Memory.wf s.mem) : Memory.wf (s.writeF d r).mem := by
  unfold State.writeF
  exact State.write_wf h

theorem execFadd_keeps {d a b g r : BitVec 4} {sz : Bool} {s : State} : Keeps s (execFadd d a b g r sz s) :=
  .next fun h => State.guarded_wf (fun _ h1 => State.writeF_wf h1) h

theorem execFsub_keeps {d a b g r : BitVec 4} {sz : Bool} {s : State} : Keeps s (execFsub d a b g r sz s) :=
  .next fun h => State.guarded_wf (fun _ h1 => State.writeF_wf h1) h

theorem execFmul_keeps {d a b g r : BitVec 4} {sz : Bool} {s : State} : Keeps s (execFmul d a b g r sz s) :=
  .next fun h => State.guarded_wf (fun _ h1 => State.writeF_wf h1) h

theorem execFdiv_keeps {d a b g r : BitVec 4} {sz : Bool} {s : State} : Keeps s (execFdiv d a b g r sz s) :=
  .next fun h => State.guarded_wf (fun _ h1 => State.writeF_wf h1) h

theorem execFma_keeps {d a b g r : BitVec 4} {sz : Bool} {s : State} : Keeps s (execFma d a b g r sz s) :=
  .next fun h => State.guarded_wf (fun _ h1 => State.writeF_wf h1) h

theorem execFsqrt_keeps {d a g r : BitVec 4} {sz : Bool} {s : State} : Keeps s (execFsqrt d a g r sz s) :=
  .next fun h => State.guarded_wf (fun _ h1 => State.writeF_wf h1) h

theorem execFmin_keeps {d a b g _r : BitVec 4} {sz : Bool} {s : State} : Keeps s (execFmin d a b g _r sz s) :=
  .next fun h => State.guarded_wf (fun _ h1 => State.writeF_wf h1) h

theorem execFmax_keeps {d a b g _r : BitVec 4} {sz : Bool} {s : State} : Keeps s (execFmax d a b g _r sz s) :=
  .next fun h => State.guarded_wf (fun _ h1 => State.writeF_wf h1) h

theorem execFcmp_keeps {d : BitVec 3} {a b g c : BitVec 4} {sz : Bool} {s : State} : Keeps s (execFcmp d a b g c sz s) :=
  .next fun h => State.guarded_wf (fun _ h1 => State.writeP_wf h1) h

theorem execFcvt_keeps {d a g r v : BitVec 4} {s : State} : Keeps s (execFcvt d a g r v s) :=
  .next fun h => State.guarded_wf (fun _ h1 => State.write_wf h1) h

theorem execFclass_keeps {d a g : BitVec 4} {sz : Bool} {s : State} : Keeps s (execFclass d a g sz s) :=
  .next fun h => State.guarded_wf (fun _ h1 => State.write_wf h1) h

/-! ## Slots, tokens and frames -/

theorem State.netHold_wf {s : State} {i : Instr} {f : State → State} (hf : ∀ t, Memory.wf t.mem → Memory.wf (f t).mem)
    (h : Memory.wf s.mem) : Memory.wf (s.netHold i f).mem := by
  unfold State.netHold
  split
  · exact State.modLane_wf h
  · exact hf _ h

theorem State.suspend_wf {s : State} {k : Nat} (h : Memory.wf s.mem) : Memory.wf (s.suspend k).mem := by
  unfold State.suspend
  split
  · exact State.endFiring_wf h
  · exact State.count_wf (State.modCell_wf (State.setSlot_wf h))

theorem execFld_keeps {d i : BitVec 4} {slot : BitVec 12} {t : Bool} {p : BitVec 3} {s : State} : Keeps s (execFld d i slot t p s) :=
  .next fun h => by
    split
    · exact State.step1_wf (State.setX_wf (State.modLane_wf h))
    · exact State.guardedP_wf (fun _ h1 => State.withOpd_wf (fun _ => by
        extract_lets
        split
        · exact State.step1_wf (State.setX_wf h1)
        · split
          · exact State.raise_wf h1
          · exact State.suspend_wf h1
        · exact State.raise_wf h1) h1) h

theorem execFst_keeps {x i : BitVec 4} {slot : BitVec 12} {p : BitVec 3} {s : State} : Keeps s (execFst x i slot p s) :=
  .next fun h => State.guardedP_wf (fun _ h1 => State.withOpd_wf (fun _ => State.step1_wf (State.writeSlot_wf h1)) h1) h

theorem execFclr_keeps {i : BitVec 4} {slot : BitVec 12} {p : BitVec 3} {s : State} : Keeps s (execFclr i slot p s) :=
  .next fun h => State.guardedP_wf (fun _ h1 => State.withOpd_wf (fun _ => ite_wf (State.raise_wf h1) (State.step1_wf
    (State.setSlot_wf h1))) h1) h

theorem execFtst_keeps {d i : BitVec 4} {slot : BitVec 12} {p : BitVec 3} {s : State} : Keeps s (execFtst d i slot p s) :=
  .next fun h => State.guardedP_wf (fun _ h1 => State.withOpd_wf (fun _ => State.step1_wf (State.setX_wf h1)) h1) h

theorem execJoin_keeps {d i : BitVec 4} {slot : BitVec 12} {p : BitVec 3} {s : State} : Keeps s (execJoin d i slot p s) :=
  .next fun h => State.guardedP_wf (fun _ h1 => State.withOpd_wf (fun _ => by
    extract_lets
    split
    · exact State.raise_wf h1
    · exact State.raise_wf h1
    · split
      · exact State.raise_wf h1
      · exact State.step1_wf (State.setX_wf (State.setSlot_wf h1))) h1) h

theorem State.sendDest_wf {s : State} {j : Nat} {c : BitVec 4} {e : Bool} {l : BitVec 2} {v : Word} (h : Memory.wf s.mem) :
    Memory.wf (s.sendDest j c e l v).mem := by
  unfold State.sendDest
  exact State.withOpd_wf (fun _ => State.withOpd_wf (fun _ => State.step1_wf (State.sendFrom_wf h)) h) h

theorem execSend_keeps {v c : BitVec 4} {k : BitVec 8} {e : Bool} {l : BitVec 2} {g : BitVec 4} {s : State}
    : Keeps s (execSend v c k e l g s) :=
  .next fun h => ite_wf (State.raise_wf h) (State.guarded_wf (fun _ h1 => State.netHold_wf (fun _ h2 => State.sendDest_wf h2) h1) h)

theorem execSwch_keeps {v i : BitVec 4} {k : BitVec 8} {e : Bool} {l : BitVec 2} {g : BitVec 4} {s : State}
    : Keeps s (execSwch v i k e l g s) :=
  .next fun h => State.guarded_wf (fun _ h1 => State.netHold_wf (fun _ h2 => by
    extract_lets
    split
    · exact State.raise_wf h2
    · split
      · exact State.raise_wf h2
      · exact State.sendDest_wf h2) h1) h

theorem execSendd_keeps {a b c : BitVec 4} {e : Bool} {l : BitVec 2} {g : BitVec 4} {s : State} : Keeps s (execSendd a b c e l g s) :=
  .next fun h => State.guarded_wf (fun _ h1 => State.netHold_wf (fun _ h2 => State.withOpd_wf (fun _ => ite_wf (State.raise_wf h2)
    (State.step1_wf (State.sendFrom_wf h2))) h2) h1) h

theorem execMkc_keeps {d c : BitVec 4} {k : BitVec 8} {f : Bool} {g : BitVec 4} {s : State} : Keeps s (execMkc d c k f g s) :=
  .next fun h => ite_wf (State.raise_wf h) (State.guarded_wf (fun _ h1 => ite_wf (State.step1_wf (State.setX_wf h1)) (State.withOpd_wf
    (fun _ => State.withOpd_wf (fun _ => State.step1_wf (State.setX_wf h1)) h1) h1)) h)

theorem execFalloc_keeps {a c : BitVec 4} {r : Bool} {l : BitVec 3} {g : BitVec 4} {s : State} : Keeps s (execFalloc a c r l g s) :=
  .next fun h => State.guarded_wf (fun _ h1 => by
    extract_lets run
    have hrun : ∀ u, Memory.wf u.mem → Memory.wf (run u).mem := fun u h2 =>
      ite_wf (State.raise_wf h2) (State.withOpd_wf (fun _ => ite_wf (State.step1_wf h2) (State.step1_wf h2)) h2)
    exact ite_wf (hrun _ h1) (State.netHold_wf hrun h1)) h

theorem execFfree_keeps {a g : BitVec 4} {s : State} : Keeps s (execFfree a g s) :=
  .next fun h => State.guarded_wf (fun _ h1 => by
    extract_lets
    split
    · exact State.raise_wf h1
    · split
      · split
        · exact State.step1_wf (State.modLane_wf h1)
        · split
          · rename_i t e
            have h2 : Memory.wf t.mem := fst_wf (State.freeFrame_wf h1) e
            exact State.step1_wf h2
          · rename_i t _ e
            have h2 : Memory.wf t.mem := fst_wf (State.freeFrame_wf h1) e
            exact State.raise_wf h2
      · exact State.netHold_wf (fun _ h2 => ite_wf (State.step1_wf h2) (State.step1_wf (State.inject_wf (State.raiseOut_wf h2)))) h1) h

theorem execBrf_keeps {g : BitVec 4} {o : BitVec 8} {s : State} : Keeps s (execBrf g o s) :=
  .next fun h => ite_wf (State.raise_wf h) (State.guarded_wf (fun _ h1 => State.goto_wf h1) h)

theorem execFend_keeps {g : BitVec 4} {s : State} : Keeps s (execFend g s) :=
  .next fun h => State.guarded_wf (fun _ h1 => State.endFiring_wf h1) h

/-! ## Heap instructions -/

theorem execTnew_keeps {d a g f : BitVec 4} {s : State} : Keeps s (execTnew d a g f s) :=
  .next fun h => State.guarded_wf (fun _ h1 => by
    extract_lets
    split
    · exact State.raise_wf h1
    · split
      · exact State.step1_wf (State.setX_wf h1)
      · split
        · exact State.raise_wf h1
        · extract_lets t _
          have h2 : Memory.wf t.mem := State.modCell_wf h1
          split
          · exact State.modLane_wf h2
          · exact State.step1_wf (State.setX_wf h2)) h

theorem State.seal_wf {s : State} {i : Nat} (h : Memory.wf s.mem) : Memory.wf (s.seal i).mem := h

theorem execTseal_keeps {a g : BitVec 4} {s : State} : Keeps s (execTseal a g s) :=
  .next fun h => State.guarded_wf (fun _ h1 => State.withOpd_wf (fun _ => ite_wf (State.raise_wf h1) (ite_wf (State.modLane_wf h1)
    (State.step1_wf (State.seal_wf h1)))) h1) h

theorem State.sendCount_wf {s : State} {h : Word} {c n : Nat} {up : Bool} (hs : Memory.wf s.mem) :
    Memory.wf (s.sendCount h c n up).mem := by
  unfold State.sendCount
  split
  · exact hs
  · exact State.inject_wf (State.raiseOut_wf hs)

theorem execTdup_keeps {a b g : BitVec 4} {s : State} : Keeps s (execTdup a b g s) :=
  .next fun h => State.guarded_wf (fun _ h1 => by
    extract_lets
    split
    · exact State.raise_wf h1
    · split
      · exact State.raise_wf h1
      · split
        · exact State.raise_wf h1
        · split
          · exact State.raise_wf h1
          · exact State.step1_wf (State.modTile_wf h1)
    · exact State.netHold_wf (fun _ h2 => State.step1_wf (State.sendCount_wf h2)) h1) h

theorem execTdrop_keeps {a g : BitVec 4} {s : State} : Keeps s (execTdrop a g s) :=
  .next fun h => State.guarded_wf (fun _ h1 => by
    extract_lets
    split
    · exact State.raise_wf h1
    · split
      · exact State.step1_wf (State.modCell_wf h1)
      · exact State.raise_wf h1
    · exact State.netHold_wf (fun _ h2 => State.step1_wf (State.sendCount_wf h2)) h1) h

theorem execTinfo_keeps {d a g : BitVec 4} {sel : BitVec 2} {s : State} : Keeps s (execTinfo d a g sel s) :=
  .next fun h => State.guarded_wf (fun _ h1 => State.withOpd_wf (fun _ => State.step1_wf (State.setX_wf h1)) h1) h

theorem execTchk_keeps {d a g : BitVec 4} {s : State} : Keeps s (execTchk d a g s) :=
  .next fun h => State.guarded_wf (fun _ h1 => State.step1_wf (State.setX_wf h1)) h

theorem State.issue_wf {s : State} {o : MemOp} (h : Memory.wf s.mem) : Memory.wf (s.issue o).mem := h

theorem execHld_keeps {x i : BitVec 4} {slot : BitVec 12} {p : BitVec 3} {s : State} : Keeps s (execHld x i slot p s) :=
  .next fun h => State.guardedP_wf (fun _ h1 => by
    extract_lets
    split
    · exact State.raise_wf h1
    · exact State.withOpd_wf (fun _ => by
        extract_lets
        split
        · exact State.raise_wf h1
        · split
          · exact State.raise_wf h1
          · split
            · exact State.raiseAs_wf h1
            · exact State.step1_wf (State.writeSlot_wf h1)) h1
    · exact State.netHold_wf (fun _ h2 => State.withOpd_wf (fun _ => ite_wf (State.step1_wf h2) (State.step1_wf (State.inject_wf
      (State.issue_wf (State.setSlot_wf h2))))) h2) h1) h

theorem execHst_keeps {a b c : BitVec 4} {n : Bool} {r : BitVec 4} {v : Bool} {g : BitVec 4} {s : State}
    : Keeps s (execHst a b c n r v g s) :=
  .next fun h => State.guarded_wf (fun _ h1 => by
    extract_lets
    split
    · exact State.raise_wf h1
    · extract_lets
      split
      · exact State.raise_wf h1
      · split
        · exact State.raise_wf h1
        · exact State.withOpd_wf (fun _ => State.step1_wf (State.flag_wf (State.modTile_wf h1))) h1
    · exact State.netHold_wf (fun _ h2 => ite_wf (State.step1_wf h2) (State.step1_wf (State.inject_wf (State.raiseOut_wf h2)))) h1) h

/-! ## Global-memory instructions -/

theorem State.issueMem_wf {s : State} {o : MemOp} (h : Memory.wf s.mem) : Memory.wf (s.issueMem o).mem := by
  unfold State.issueMem
  split
  · exact h
  · split
    · exact State.countLost_wf h
    · exact State.issue_wf h

theorem State.issueLoad_wf {s : State} {kind : OpKind} {x i : BitVec 4} {slot : BitVec 12} {used : List Bool} (h : Memory.wf s.mem) :
    Memory.wf (s.issueLoad kind x i slot used).mem := by
  unfold State.issueLoad
  exact State.withOpd_wf (fun _ => State.withOpd_wf (fun _ => State.withOpd_wf (fun _ => ite_wf (State.step1_wf h) (State.step1_wf
    (State.issueMem_wf (State.setSlot_wf h)))) h) h) h

theorem execLdg_keeps {x i : BitVec 4} {slot : BitVec 12} {p : BitVec 3} {s : State} : Keeps s (execLdg x i slot p s) :=
  .next fun h => State.guardedP_wf (fun _ h1 => State.netHold_wf (fun _ h2 => State.issueLoad_wf h2) h1) h

theorem execLdch_keeps {x i : BitVec 4} {slot : BitVec 12} {p : BitVec 3} {s : State} : Keeps s (execLdch x i slot p s) :=
  .next fun h => State.guardedP_wf (fun _ h1 => State.netHold_wf (fun _ h2 => State.issueLoad_wf h2) h1) h

theorem execAmo_keeps {x i : BitVec 4} {slot : BitVec 12} {p : BitVec 3} {s : State} : Keeps s (execAmo x i slot p s) :=
  .next fun h => State.guardedP_wf (fun _ h1 => State.netHold_wf (fun _ h2 => State.issueLoad_wf h2) h1) h

theorem execStg_keeps {a b c g : BitVec 4} {s : State} : Keeps s (execStg a b c g s) :=
  .next fun h => ite_wf (State.raise_wf h) (State.guarded_wf (fun _ h1 => State.netHold_wf (fun _ h2 => State.withOpd_wf
    (fun _ => State.withOpd_wf (fun _ => State.step1_wf (State.issueMem_wf h2)) h2) h2) h1) h)

theorem State.modOp_wf {s : State} {id : Nat} {f : MemOp → MemOp} (h : Memory.wf s.mem) : Memory.wf (s.modOp id f).mem := h

theorem State.sendAnswer_wf {s : State} {a : Nat} {o : MemOp} {k flits : Nat} {poison : Bool} {chks : List (Option (BitVec 16))}
    (h : Memory.wf s.mem) : Memory.wf (s.sendAnswer a o k flits poison chks).mem := h

theorem State.openRel_wf {s : State} {o : MemOp} (h : Memory.wf s.mem) : Memory.wf (s.openRel o).mem := by
  unfold State.openRel
  split
  · exact h
  · extract_lets
    split
    · rename_i t e
      have h1 : Memory.wf t.mem := snd_wf (State.fresh_wf h) e
      exact State.modOp_wf (State.modCx_wf h1)

theorem execRel_keeps {c : BitVec 4} {sc : Bool} {g : BitVec 4} {s : State} : Keeps s (execRel c sc g s) :=
  .next fun h => State.guarded_wf (fun _ h1 => State.netHold_wf (fun _ h2 => State.withOpd_wf (fun _ => ite_wf (State.step1_wf h2)
    (State.step1_wf (by
    split
    · exact State.openRel_wf (State.issue_wf h2)
    · exact State.issue_wf h2))) h2) h1) h

theorem execAcq_keeps {a c g : BitVec 4} {s : State} : Keeps s (execAcq a c g s) :=
  .next fun h => State.guarded_wf (fun _ h1 => State.netHold_wf (fun _ h2 => State.withOpd_wf (fun _ => ite_wf (State.step1_wf h2) (ite_wf
    (State.step1_wf (State.opLost_wf h2)) (State.step1_wf (State.issue_wf h2)))) h2) h1) h

theorem execAcqa_keeps {c : BitVec 4} {sc : Bool} {g : BitVec 4} {s : State} : Keeps s (execAcqa c sc g s) :=
  .next fun h => State.guarded_wf (fun _ h1 => State.netHold_wf (fun _ h2 => State.withOpd_wf (fun _ => ite_wf (State.step1_wf h2)
    (State.step1_wf (State.issue_wf h2))) h2) h1) h

/-! ## Barriers, wake ports, regions, control registers -/

theorem State.runBarrier_wf {s : State} {c n : Nat} {b : Barrier} (h : Memory.wf s.mem) : Memory.wf (s.runBarrier c n b).1.mem := by
  unfold State.runBarrier
  dsimp only
  exact foldl_wf (fun _ _ h1 => State.sendTok_wf h1) (State.modCell_wf h)

theorem State.owned_wf {s : State} {w : Issuer} {idle : Bool} {owner : Nat} {f : State → State}
    (hf : ∀ t, Memory.wf t.mem → Memory.wf (f t).mem) (h : Memory.wf s.mem) : Memory.wf (s.owned w idle owner f).mem := by
  unfold State.owned
  split
  · exact State.opLost_wf h
  · exact hf _ h

theorem State.armBarrier_wf {s : State} {c n : Nat} {w : Issuer} {target : BitVec 32} {rep : Bool} {cont : Word} (h : Memory.wf s.mem) :
    Memory.wf (s.armBarrier c n w target rep cont).mem := by
  unfold State.armBarrier
  exact State.owned_wf (fun _ h1 => State.runBarrier_wf h1) h

theorem State.arrive_wf {s : State} {c n : Nat} {w : Issuer} {k : Nat} {cont : Option Word} (h : Memory.wf s.mem) :
    Memory.wf (s.arrive c n w k cont).mem := by
  unfold State.arrive
  extract_lets
  split
  · exact State.opLost_wf h
  · exact State.owned_wf (fun _ h1 => ite_wf (State.opLost_wf h1) (by
      split
      · rename_i t _ e
        have h2 : Memory.wf t.mem := fst_wf (State.runBarrier_wf h1) e
        split
        · exact h2
        · exact State.sendReply_wf h2)) h

theorem State.setBarrier_wf {s : State} {n : Nat × Nat} {v : Word} {rep : Bool} {cont : Word} (h : Memory.wf s.mem) :
    Memory.wf (s.setBarrier n v rep cont).mem := by
  unfold State.setBarrier
  split
  · exact State.opLost_wf h
  · exact State.armBarrier_wf h

theorem State.holdIf_wf {s : State} {sends : Bool} {i : Instr} {f : State → State} (hf : ∀ t, Memory.wf t.mem → Memory.wf (f t).mem)
    (h : Memory.wf s.mem) : Memory.wf (s.holdIf sends i f).mem := by
  unfold State.holdIf
  split
  · exact State.netHold_wf hf h
  · exact hf _ h

theorem execBars_keeps {a b c : BitVec 4} {r : Bool} {g : BitVec 4} {s : State} : Keeps s (execBars a b c r g s) :=
  .next fun h => ite_wf (State.raise_wf h) (State.guarded_wf (fun _ h1 => State.withOpd_wf (fun _ => State.withOpd_wf
    (fun _ => State.holdIf_wf (fun _ h2 => State.step1_wf (ite_wf h2 (State.setBarrier_wf h2))) h1) h1) h1) h)

theorem execBara_keeps {a b c g : BitVec 4} {s : State} : Keeps s (execBara a b c g s) :=
  .next fun h => State.guarded_wf (fun _ h1 => State.withOpd_wf (fun _ => State.withOpd_wf (fun _ => ite_wf (State.holdIf_wf
    (fun _ h2 => State.step1_wf (ite_wf h2 (State.arrive_wf h2))) h1) (State.netHold_wf (fun _ h2 => ite_wf (State.step1_wf h2)
    (State.step1_wf (State.inject_wf (State.raiseOut_wf h2)))) h1)) h1) h1) h

theorem State.setWake_wf {s : State} {c n : Nat} {p : WakePort} (h : Memory.wf s.mem) : Memory.wf (s.setWake c n p).mem := h

theorem State.atPort_wf {s : State} {a : Word} {f : Nat → WakePort → State → State}
    (hf : ∀ v w t, Memory.wf t.mem → Memory.wf (f v w t).mem) (h : Memory.wf s.mem) : Memory.wf (s.atPort a f).mem := by
  unfold State.atPort
  extract_lets
  split
  · exact h
  · split
    · exact State.opLost_wf h
    · exact State.owned_wf (fun _ h1 => hf _ _ _ h1) h

theorem execWatch_keeps {a c g : BitVec 4} {s : State} : Keeps s (execWatch a c g s) :=
  .next fun h => ite_wf (State.raise_wf h) (State.guarded_wf (fun _ h1 => State.withOpd_wf (fun _ => State.holdIf_wf
    (fun _ h2 => State.step1_wf (State.atPort_wf (fun _ _ _ h3 => by
    split
    · exact State.sendTok_wf (State.setWake_wf h3)
    · exact State.setWake_wf h3) h2)) h1) h1) h)

theorem execWdrop_keeps {a g : BitVec 4} {s : State} : Keeps s (execWdrop a g s) :=
  .next fun h => State.guarded_wf (fun _ h1 => State.step1_wf (State.atPort_wf (fun _ _ _ h2 => State.setWake_wf h2) h1)) h

theorem State.recordTo_wf {s : State} {f kind : Nat} {w : List Word} (h : Memory.wf s.mem) : Memory.wf (s.recordTo f kind w).mem := by
  unfold State.recordTo
  extract_lets _ t
  have h1 : Memory.wf t.mem := getD_wf (State.wrGuest_wf h) (State.errRec_wf h)
  split
  · exact h
  · split
    · exact State.modFn_wf h
    · exact State.modFn_wf h1

theorem execTime_keeps {d g : BitVec 4} {s : State} : Keeps s (execTime d g s) :=
  .next fun h => State.guarded_wf (fun _ h1 => by
    extract_lets _ _ _ t
    have h2 : Memory.wf t.mem := State.modCx_wf h1
    split
    · exact State.step1_wf (State.setX_wf (State.modFn_wf h2))
    · exact State.step1_wf (State.setX_wf (State.recordTo_wf h2))) h

theorem execCropen_keeps {d a g : BitVec 4} {s : State} : Keeps s (execCropen d a g s) :=
  .next fun h => State.guarded_wf (fun _ h1 => ite_wf (State.raise_wf h1) (State.withOpd_wf (fun _ => by
    split
    · exact State.step1_wf (State.setX_wf h1)
    · split
      · exact State.step1_wf (State.setX_wf h1)
      · exact State.modLane_wf (foldl_wf (fun _ _ h2 => State.inject_wf h2) (State.modInst_wf h1))) h1)) h

theorem State.closing_wf {s : State} {a : Word} {w : Option Word} (h : Memory.wf s.mem) : Memory.wf (s.closing a w).mem := by
  unfold State.closing
  split
  · exact State.opLost_wf h
  · split
    · split
      · exact State.opLost_wf h
      · exact State.modInst_wf (State.raiseOut_wf h)
    · exact State.opLost_wf h

theorem execCrclose_keeps {a c g : BitVec 4} {s : State} : Keeps s (execCrclose a c g s) :=
  .next fun h => State.guarded_wf (fun _ h1 => State.netHold_wf (fun _ h2 => State.withOpd_wf (fun _ => State.step1_wf (ite_wf h2
    (State.closing_wf h2))) h2) h1) h

theorem execIllegalOp_keeps {w : BitVec 32} {s : State} : Keeps s (execIllegalOp w s) :=
  .next fun h => ite_wf (State.raise_wf h) (State.raise_wf h)

theorem execTrap_keeps {i : BitVec 16} {s : State} : Keeps s (execTrap i s) :=
  .next fun h => State.raise_wf h

theorem execMfc_keeps {d g : BitVec 4} {n : BitVec 6} {s : State} : Keeps s (execMfc d g n s) :=
  .next fun h => by
    split
    · exact State.raise_wf h
    · exact State.guarded_wf (fun _ h1 => State.step1_wf (State.setX_wf h1)) h

theorem execMtc_keeps {a g : BitVec 4} {n : BitVec 6} {s : State} : Keeps s (execMtc a g n s) :=
  .next fun h => by
    split
    · exact State.raise_wf h
    · exact State.guarded_wf (fun _ h1 => by
        split
        · exact State.raise_wf h1
        · exact State.step1_wf (State.modCx_wf h1)) h

theorem execScrubrd_keeps {d g w : BitVec 4} {s : State} : Keeps s (execScrubrd d g w s) :=
  .next fun h => State.guarded_wf (fun _ h1 => State.step1_wf (State.setX_wf h1)) h

theorem State.sendQpost_wf {s : State} {o : MemOp} (h : Memory.wf s.mem) : Memory.wf (s.sendQpost o).mem := h

theorem execQpost_keeps {a c g : BitVec 4} {s : State} : Keeps s (execQpost a c g s) :=
  .next fun h => ite_wf (State.raise_wf h) (State.guarded_wf (fun _ h1 => State.netHold_wf (fun _ h2 => State.withOpd_wf
    (fun _ => State.withOpd_wf (fun _ => ite_wf (State.step1_wf (State.issueMem_wf h2)) (State.step1_wf (by
    split
    · split
      · exact State.sendQpost_wf (State.issueMem_wf h2)
      · exact State.issueMem_wf h2
    · exact State.issueMem_wf h2))) h2) h2) h1) h)

theorem execPerf_keeps {d g : BitVec 4} {n : BitVec 8} {s : State} : Keeps s (execPerf d g n s) :=
  .next fun h => by
    split
    · exact State.raise_wf h
    · exact State.guarded_wf (fun _ h1 => State.step1_wf (State.setX_wf h1)) h

/-! ## Engine commands issued -/

theorem State.place_wf {s : State} {m : Cmd} (h : Memory.wf s.mem) : Memory.wf (s.place m).mem := by
  unfold State.place
  extract_lets t
  have h1 : Memory.wf t.mem := State.setSlot_wf h
  split
  · exact State.step1_wf h1
  · split
    · exact State.step1_wf (State.countLost_wf (State.modCell_wf h1))
    · split
      · rename_i t1 e
        have h2 : Memory.wf t1.mem := snd_wf (State.fresh_wf h1) e
        extract_lets _ t2 _
        have h3 : Memory.wf t2.mem := State.raiseOut_wf (State.modCell_wf h2)
        split
        · exact State.modLane_wf h3
        · exact State.step1_wf (State.modCell_wf h3)

theorem State.issueCmd_wf {s : State} {op : EngOp} {a c : BitVec 4} {hi keep : Bool} {slots : Nat} {roles : List (Nat × Role)}
    (h : Memory.wf s.mem) : Memory.wf (s.issueCmd op a c hi keep slots roles).mem := by
  unfold State.issueCmd
  exact State.withOpd_wf (fun _ => State.withOpd_wf (fun _ => State.withOpd_wf (fun _ => State.withOpd_wf
    (fun _ => State.place_wf h) h) h) h) h

theorem State.engine_wf {s : State} {g : BitVec 4} {op : EngOp} {a c : BitVec 4} {hi keep : Bool} {slots : Nat} {roles : List (Nat × Role)}
    (h : Memory.wf s.mem) : Memory.wf (s.engine g op a c hi keep slots roles).mem := by
  unfold State.engine
  exact State.guarded_wf (fun _ h1 => State.issueCmd_wf h1) h

theorem execTload_keeps {a c g : BitVec 4} {s : State} : Keeps s (execTload a c g s) :=
  .next fun h => State.engine_wf h

theorem execTstore_keeps {a c : BitVec 4} {k : Bool} {g : BitVec 4} {s : State} : Keeps s (execTstore a c k g s) :=
  .next fun h => State.engine_wf h

theorem execTcopy_keeps {a c : BitVec 4} {k : Bool} {g : BitVec 4} {s : State} : Keeps s (execTcopy a c k g s) :=
  .next fun h => State.engine_wf h

theorem execTgath_keeps {a c : BitVec 4} {k : Bool} {g : BitVec 4} {s : State} : Keeps s (execTgath a c k g s) :=
  .next fun h => State.engine_wf h

theorem execTscat_keeps {a c : BitVec 4} {k : Bool} {g : BitVec 4} {s : State} : Keeps s (execTscat a c k g s) :=
  .next fun h => State.engine_wf h

theorem execTfill_keeps {a c g : BitVec 4} {s : State} : Keeps s (execTfill a c g s) :=
  .next fun h => State.engine_wf h

theorem execMwld_keeps {a c : BitVec 4} {h k : Bool} {g : BitVec 4} {s : State} : Keeps s (execMwld a c h k g s) :=
  .next fun hs => State.engine_wf hs

theorem execMacc_keeps {a c : BitVec 4} {h k : Bool} {g : BitVec 4} {s : State} : Keeps s (execMacc a c h k g s) :=
  .next fun hs => State.engine_wf hs

theorem execMrun_keeps {a c : BitVec 4} {h k : Bool} {g : BitVec 4} {s : State} : Keeps s (execMrun a c h k g s) :=
  .next fun hs => State.engine_wf hs

theorem execMdrain_keeps {a c : BitVec 4} {h : Bool} {g : BitVec 4} {s : State} : Keeps s (execMdrain a c h g s) :=
  .next fun hs => State.engine_wf hs

theorem execRset_keeps {a c g : BitVec 4} {s : State} : Keeps s (execRset a c g s) :=
  .next fun h => State.engine_wf h

theorem execRfeed_keeps {a c : BitVec 4} {k : Bool} {g : BitVec 4} {s : State} : Keeps s (execRfeed a c k g s) :=
  .next fun h => State.engine_wf h

theorem execVrun_keeps {a b c g : BitVec 4} {s : State} : Keeps s (execVrun a b c g s) :=
  .next fun h => State.guarded_wf (fun _ h1 => by
    extract_lets
    split
    · exact State.raise_wf h1
    · exact State.withOpd_wf (fun _ => State.withOpd_wf (fun _ => State.withOpd_wf (fun _ => State.withOpd_wf (fun _ => State.withOpd_wf
      (fun _ => State.withOpd_wf (fun _ => State.place_wf h1) h1) h1) h1) h1) h1) h1) h

/-! ## Engine commands ended -/

theorem State.dropMade_wf {s : State} {r : Run} (h : Memory.wf s.mem) : Memory.wf (s.dropMade r).mem := by
  unfold State.dropMade
  split
  · exact h
  · exact State.modCell_wf h

theorem State.showMade_wf {s : State} {r : Run} (h : Memory.wf s.mem) : Memory.wf (s.showMade r).mem := by
  unfold State.showMade
  split
  · exact h
  · exact State.modTile_wf h

theorem State.dropOpOf_wf {s : State} {r : Run} (h : Memory.wf s.mem) : Memory.wf (s.dropOpOf r).mem := by
  unfold State.dropOpOf
  split
  · exact h
  · exact State.dropOps_wf h

theorem State.letGo_wf {s : State} {m : Cmd} (h : Memory.wf s.mem) : Memory.wf (s.letGo m).mem := h

theorem State.endRun_wf {s : State} {r : Run} (h : Memory.wf s.mem) : Memory.wf (s.endRun r).mem := by
  unfold State.endRun
  exact State.lowerOut_wf (State.letGo_wf (State.dropMade_wf (State.dropOpOf_wf h)))

theorem State.writeFrameSlot_wf {s : State} {w : Issuer} {k : Nat} {v : Word} (h : Memory.wf s.mem) :
    Memory.wf (s.writeFrameSlot w k v).mem := by
  unfold State.writeFrameSlot
  split
  · exact State.opFault_wf h
  · split
    · exact State.opFault_wf h
    · exact State.touch_wf (State.writeSlot_wf h)

theorem State.completeRun_wf {s : State} {r : Run} (h : Memory.wf s.mem) : Memory.wf (s.completeRun r).mem := by
  unfold State.completeRun
  extract_lets _ _ t t1 t2 t3
  have h1 : Memory.wf t.mem := State.letGo_wf (State.dropOpOf_wf h)
  have h2 : Memory.wf t1.mem := ite_wf (State.dropMade_wf h1) (State.showMade_wf h1)
  have h3 : Memory.wf t2.mem := State.orFlags_wf h2
  have h4 : Memory.wf t3.mem := State.writeFrameSlot_wf h3
  split
  · exact State.lowerOut_wf h4
  · exact State.sendAs_wf h4

theorem State.failRun_wf {s : State} {r : Run} {code : FaultCode} {d1 d2 : Word} (h : Memory.wf s.mem) :
    Memory.wf (s.failRun r code d1 d2).1.mem := by
  unfold State.failRun
  extract_lets _ t
  have h1 : Memory.wf t.mem := State.opLost_wf (State.dropOpOf_wf h)
  split
  · exact h1
  · split
    · exact h1
    · exact State.endRun_wf h1

theorem State.poisonRec_wf {s : State} {r : Run} {d1 d2 : Word} (h : Memory.wf s.mem) : Memory.wf (s.poisonRec r d1 d2).1.mem := by
  unfold State.poisonRec
  split
  · exact h
  · exact State.errRec_wf h

theorem State.logBad_wf {s : State} {r : Run} {h : Option Word} (hs : Memory.wf s.mem) : Memory.wf (s.logBad r h).1.mem := by
  unfold State.logBad
  split
  · exact hs
  · exact State.poisonRec_wf hs

/-! ## What reaches a cell -/

theorem State.takePacket_wf {s : State} {vn src dst ctx : Nat} (h : Memory.wf s.mem) : Memory.wf (s.takePacket vn src dst ctx).mem := h

theorem State.accepted_wf {s : State} {p : Packet} (h : Memory.wf s.mem) : Memory.wf (s.accepted p).mem := by
  unfold State.accepted
  extract_lets t
  have h1 : Memory.wf t.mem := ite_wf (State.lowerOut_wf h) h
  split
  · exact h1
  · exact State.lowerOut_wf h1

theorem State.discardTok_wf {s : State} {c : Nat} {t : Token} {code : FaultCode} (h : Memory.wf s.mem) :
    Memory.wf (s.discardTok c t code).mem := by
  unfold State.discardTok
  exact State.take_wf h

theorem State.voidTok_wf {s : State} {c : Nat} {t : Token} (h : Memory.wf s.mem) : Memory.wf (s.voidTok c t).mem := by
  unfold State.voidTok
  split
  · exact State.discardTok_wf h
  · exact h

theorem execTokenArrival_keeps {src dst ctx : Nat} {s : State} : Keeps s (execTokenArrival src dst ctx s) :=
  .next fun h => by
    split
    · exact h
    · split
      · extract_lets _ t
        have h1 : Memory.wf t.mem := State.accepted_wf (State.takePacket_wf h)
        split
        · exact State.voidTok_wf (by
            split
            · exact State.countLost_wf h1
            · exact h1)
        · split
          · exact h
          · exact State.accepted_wf (State.modCell_wf (State.takePacket_wf h))
      · exact h

theorem execSpillReturn_keeps {cell ctx : Nat} {s : State} : Keeps s (execSpillReturn cell ctx s) :=
  .next fun h => by
    split
    · exact h
    · split
      · exact State.modCell_wf h
      · exact h

theorem State.dequeue_wf {s : State} {c : Nat} {t : Token} (h : Memory.wf s.mem) : Memory.wf (s.dequeue c t).mem := h

theorem execMatcherTake_keeps {cell : Nat} {s : State} : Keeps s (execMatcherTake cell s) :=
  .next fun h => by
    split
    · exact h
    · split
      · exact State.voidTok_wf (State.dequeue_wf h)
      · exact State.discardTok_wf (by
          split
          · exact State.touch_wf (State.dequeue_wf h)
          · exact State.dequeue_wf h)
      · extract_lets t
        have h1 : Memory.wf t.mem := State.touch_wf (State.setSlot_wf (State.dequeue_wf h))
        split
        · exact State.modCell_wf h1
        · exact h1
      · split
        · exact h
        · exact State.pushReady_wf (by
            split
            · exact State.touch_wf (State.setSlot_wf (State.dequeue_wf h))
            · exact State.dequeue_wf h)

theorem State.retain_wf {s : State} {c x : Nat} {tag : Word} {base : Nat} (h : Memory.wf s.mem) : Memory.wf (s.retain c x tag base).mem := h

theorem State.retainCmd_wf {s : State} {c : Nat} {m : Cmd} (h : Memory.wf s.mem) : Memory.wf (s.retainCmd c m).mem := h

theorem State.fired_wf {s : State} {c x : Nat} (h : Memory.wf s.mem) : Memory.wf (s.fired c x).mem := by
  unfold State.fired
  extract_lets t
  have h1 : Memory.wf t.mem := State.count_wf h
  split
  · exact State.modInst_wf h1
  · exact h1

theorem execLaneTake_keeps {cell : Nat} {s : State} : Keeps s (execLaneTake cell s) :=
  .next fun h => ite_wf h (by
    split
    · exact h
    · extract_lets t
      have h1 : Memory.wf t.mem := State.modCell_wf h
      split
      · split
        · rename_i t1 e
          have h2 : Memory.wf t1.mem := snd_wf (State.fresh_wf h1) e
          exact State.fired_wf (State.retain_wf (State.modCell_wf h2))
      · split
        · exact h1
        · exact State.fired_wf (State.retain_wf (State.modCell_wf h1)))

theorem execReadyPromotion_keeps {cell cls : Nat} {s : State} : Keeps s (execReadyPromotion cell cls s) :=
  .next fun h => by
    split
    · exact h
    · split
      · exact State.modCell_wf h
      · exact h

theorem State.rerun_keeps {s : State} {i : Instr} : Keeps s (s.rerun i) := by
  unfold State.rerun
  split
  · exact execSend_keeps
  · exact execSwch_keeps
  · exact execSendd_keeps
  · exact execFalloc_keeps
  · exact execFfree_keeps
  · exact execTdup_keeps
  · exact execTdrop_keeps
  · exact execHld_keeps
  · exact execHst_keeps
  · exact execBara_keeps
  · exact execBars_keeps
  · exact execLdg_keeps
  · exact execLdch_keeps
  · exact execAmo_keeps
  · exact execStg_keeps
  · exact execRel_keeps
  · exact execAcq_keeps
  · exact execAcqa_keeps
  · exact execCrclose_keeps
  · exact execQpost_keeps
  · exact execWatch_keeps
  · exact .next id

theorem State.unstall_wf {s : State} {cell : Nat} (h : Memory.wf s.mem) : Memory.wf (s.unstall cell).mem := h

theorem execLaneStallEnd_keeps {cell : Nat} {s : State} : Keeps s (execLaneStallEnd cell s) := by
  unfold execLaneStallEnd
  split
  · exact .of_wf State.unstall_wf State.rerun_keeps
  · exact .next fun h => State.step1_wf (State.setX_wf (State.unstall_wf h))
  · exact .next fun h => ite_wf h (State.step1_wf (ite_wf (State.seal_wf (State.unstall_wf h)) (State.unstall_wf h)))
  · exact .next fun h => ite_wf (State.step1_wf (State.setX_wf (State.unstall_wf h))) h
  · exact .next id

theorem execEngineQueueRoom_keeps {cell : Nat} {s : State} : Keeps s (execEngineQueueRoom cell s) :=
  .next fun h => by
    split
    · extract_lets
      split
      · exact h
      · exact State.step1_wf (State.modCell_wf (State.unstall_wf h))
    · exact h

theorem execFallocRequest_keeps {src dst ctx : Nat} {s : State} : Keeps s (execFallocRequest src dst ctx s) :=
  .next fun h => by
    split
    · exact h
    · split
      · extract_lets t
        have h1 : Memory.wf t.mem := State.accepted_wf (State.takePacket_wf h)
        split
        · exact State.countLost_wf (State.lowerOut_wf h1)
        · split
          · exact State.opLost_wf (State.lowerOut_wf h1)
          · exact State.serveLevel_wf (State.modCx_wf h1)
      · exact h

theorem execFfreeMessage_keeps {src dst ctx : Nat} {s : State} : Keeps s (execFfreeMessage src dst ctx s) :=
  .next fun h => by
    split
    · exact h
    · split
      · extract_lets t _
        have h1 : Memory.wf t.mem := State.accepted_wf (State.takePacket_wf h)
        split
        · exact State.modCell_wf h1
        · exact State.freeLater_wf h1
      · exact h

theorem execCountMessage_keeps {src dst ctx : Nat} {s : State} : Keeps s (execCountMessage src dst ctx s) :=
  .next fun h => by
    split
    · exact h
    · split
      · extract_lets t
        have h1 : Memory.wf t.mem := State.accepted_wf (State.takePacket_wf h)
        split
        · exact State.opLost_wf h1
        · exact State.modCell_wf h1
      · exact h

theorem execBarrierMessage_keeps {src dst ctx : Nat} {s : State} : Keeps s (execBarrierMessage src dst ctx s) :=
  .next fun h => by
    split
    · exact h
    · split
      · exact State.arrive_wf (State.accepted_wf (State.takePacket_wf h))
      · exact h

theorem execHeapBlockZero_keeps {cell : Nat} {s : State} : Keeps s (execHeapBlockZero cell s) :=
  .next fun h => ite_wf h (State.modCell_wf h)

theorem State.failOp_wf {s : State} {o : MemOp} {cls : Nat} {code : FaultCode} {d1 d2 : Word} (h : Memory.wf s.mem) :
    Memory.wf (s.failOp o cls code d1 d2).mem := by
  unfold State.failOp
  exact State.take_wf (State.countLost_wf (State.lowerOut_wf (State.dropOps_wf h)))

theorem execRemoteHeapRequest_keeps {src dst ctx : Nat} {s : State} : Keeps s (execRemoteHeapRequest src dst ctx s) :=
  .next fun h => by
    split
    · exact h
    · split
      · extract_lets t
        have h1 : Memory.wf t.mem := State.accepted_wf (State.takePacket_wf h)
        split
        · exact h1
        · split <;> exact State.sendAnswer_wf (State.modOp_wf h1)
      · extract_lets t
        have h1 : Memory.wf t.mem := State.accepted_wf (State.takePacket_wf h)
        split <;> exact State.opLost_wf h1
      · exact h

theorem execProducerReply_keeps {op : Nat} {s : State} : Keeps s (execProducerReply op s) :=
  .next fun h => by
    split
    · exact h
    · split
      · exact State.lowerOut_wf (State.writeFrameSlot_wf (State.dropOps_wf (State.orFlags_wf h)))
      · exact h

theorem execWakeValue_keeps {cell port : Nat} {s : State} : Keeps s (execWakeValue cell port s) :=
  .next fun h => by
    extract_lets
    split
    · exact h
    · split
      · extract_lets t t1 _ t2
        have h1 : Memory.wf t.mem := State.modQ_wf h
        have h2 : Memory.wf t1.mem := by
          unfold t1
          split
          · exact State.modInst_wf h1
          · exact h1
        have h3 : Memory.wf t2.mem := ite_wf (State.countCell_wf h2) h2
        split
        · exact State.countCell_wf h2
        · split
          · exact State.sendTok_wf (State.setWake_wf h2)
          · exact State.setWake_wf h3
      · exact h

theorem execRegionIdRecord_keeps {cell ctx : Nat} {s : State} : Keeps s (execRegionIdRecord cell ctx s) :=
  .next fun h => by
    extract_lets
    split
    · exact h
    · split
      · exact State.modCx_wf h
      · exact h

/-! ## Words of a vector kernel -/

theorem State.modVec_wf {s : State} {c : Nat} {f : Vec → Vec} (h : Memory.wf s.mem) : Memory.wf (s.modVec c f).mem := h

theorem State.setV_wf {s : State} {n : BitVec 5} {x : Nat} (h : Memory.wf s.mem) : Memory.wf (s.setV n x).mem := h

theorem State.setM_wf {s : State} {n : BitVec 3} {x : BitVec 256} (h : Memory.wf s.mem) : Memory.wf (s.setM n x).mem := by
  unfold State.setM
  split
  · exact h
  · exact State.modVec_wf h

theorem State.vflag_wf {s : State} {fl : Fl} (h : Memory.wf s.mem) : Memory.wf (s.vflag fl).mem := h

theorem State.vnext_wf {s : State} (h : Memory.wf s.mem) : Memory.wf (s.vnext).mem := h

theorem State.kernelFault_wf {s : State} {c : Nat} {code : FaultCode} {d1 d2 : Word} (h : Memory.wf s.mem) :
    Memory.wf (s.kernelFault c code d1 d2).mem := by
  unfold State.kernelFault
  split
  · exact h
  · extract_lets t
    have h1 : Memory.wf t.mem := State.modCell_wf h
    split
    · rename_i t1 _ e
      have h2 : Memory.wf t1.mem := fst_wf (State.failRun_wf h1) e
      exact State.modVec_wf h2
    · rename_i t1 e
      have h2 : Memory.wf t1.mem := fst_wf (State.failRun_wf h1) e
      exact State.modVec_wf h2

theorem State.vfault_wf {s : State} {code : FaultCode} {d1 : Word} (h : Memory.wf s.mem) : Memory.wf (s.vfault code d1).mem := by
  unfold State.vfault
  exact State.kernelFault_wf h

theorem execVloop_keeps {l : BitVec 2} {c : BitVec 14} {n : BitVec 8} {s : State} : Keeps s (execVloop l c n s) :=
  .next fun h => by
    extract_lets
    split <;> exact State.modVec_wf h

theorem execVend_keeps {s : State} : Keeps s (execVend s) :=
  .next fun h => State.modVec_wf h

theorem State.vpoison_wf {s : State} {p bad : Bool} {d1 : Word} (h : Memory.wf s.mem) : Memory.wf (s.vpoison p bad d1).mem := by
  unfold State.vpoison
  split
  · exact h
  · exact State.modCell_wf (State.modVec_wf (by
      split
      · exact State.modVec_wf (State.poisonRec_wf h)
      · exact h))

theorem execVld_keeps {d : BitVec 5} {n : BitVec 2} {s : State} : Keeps s (execVld d n s) :=
  .next fun h => by
    split
    · exact State.vfault_wf h
    · extract_lets
      split
      · exact State.vfault_wf h
      · split
        · exact State.vnext_wf (State.modVec_wf (State.setV_wf (State.vpoison_wf h)))
        · extract_lets
          split
          · exact State.vnext_wf (State.modVec_wf (State.setV_wf (State.vpoison_wf (State.modCell_wf h))))
          · exact State.modVec_wf h
          · exact State.vfault_wf (State.modCell_wf h)

theorem execVst_keeps {n : Bool} {a : BitVec 5} {k : BitVec 3} {s : State} : Keeps s (execVst n a k s) :=
  .next fun h => by
    split
    · exact State.vfault_wf h
    · extract_lets _ _ _ _ t
      have h1 : Memory.wf t.mem := State.modCell_wf h
      split
      · exact State.vfault_wf h
      · exact State.vnext_wf (State.modVec_wf h1)

theorem State.vmapN_wf {s : State} {d : BitVec 5} {w n : Nat} {k : BitVec 3} {st clear : Bool} {f : Nat → Nat → Nat × Fl}
    (h : Memory.wf s.mem) : Memory.wf (s.vmapN d w n k st clear f).mem := h

theorem State.vmap_wf {s : State} {d : BitVec 5} {w : Nat} {k : BitVec 3} {f : Nat → Nat} (h : Memory.wf s.mem) :
    Memory.wf (s.vmap d w k f).mem := h

theorem execVmov_keeps {d a : BitVec 5} {k : BitVec 3} {w : BitVec 2} {s : State} : Keeps s (execVmov d a k w s) :=
  .next fun h => State.vmap_wf h

theorem execVmovs_keeps {d : BitVec 5} {n k : BitVec 3} {p : BitVec 2} {s : State} : Keeps s (execVmovs d n k p s) :=
  .next fun h => by
    extract_lets
    split <;> exact State.vmap_wf h

theorem execViota_keeps {d : BitVec 5} {k : BitVec 3} {w : BitVec 2} {s : State} : Keeps s (execViota d k w s) :=
  .next fun h => State.vmap_wf h

theorem execVsel_keeps {d a b : BitVec 5} {k : BitVec 3} {w : BitVec 2} {s : State} : Keeps s (execVsel d a b k w s) :=
  .next fun h => State.vmap_wf h

theorem State.vint_wf {s : State} {d a b : BitVec 5} {k : BitVec 3} {t : BitVec 2} {sat u : Bool} {f : Int → Int → Int → Int}
    (h : Memory.wf s.mem) : Memory.wf (s.vint d a b k t sat u f).mem := h

theorem State.vbits_wf {s : State} {d a b : BitVec 5} {k : BitVec 3} {t : BitVec 2} {f : Nat → Nat → Nat → Nat} (h : Memory.wf s.mem) :
    Memory.wf (s.vbits d a b k t f).mem := h

theorem execVadd_keeps {d a b : BitVec 5} {k : BitVec 3} {t : BitVec 2} {sat u : Bool} {s : State} : Keeps s (execVadd d a b k t sat u s) :=
  .next fun h => State.vint_wf h

theorem execVsub_keeps {d a b : BitVec 5} {k : BitVec 3} {t : BitVec 2} {sat u : Bool} {s : State} : Keeps s (execVsub d a b k t sat u s) :=
  .next fun h => State.vint_wf h

theorem execVmul_keeps {d a b : BitVec 5} {k : BitVec 3} {t : BitVec 2} {sat u : Bool} {s : State} : Keeps s (execVmul d a b k t sat u s) :=
  .next fun h => State.vint_wf h

theorem execVmad_keeps {d a b : BitVec 5} {k : BitVec 3} {t : BitVec 2} {sat u : Bool} {s : State} : Keeps s (execVmad d a b k t sat u s) :=
  .next fun h => State.vint_wf h

theorem execVand_keeps {d a b : BitVec 5} {k : BitVec 3} {t : BitVec 2} {s : State} : Keeps s (execVand d a b k t s) :=
  .next fun h => State.vbits_wf h

theorem execVor_keeps {d a b : BitVec 5} {k : BitVec 3} {t : BitVec 2} {s : State} : Keeps s (execVor d a b k t s) :=
  .next fun h => State.vbits_wf h

theorem execVxor_keeps {d a b : BitVec 5} {k : BitVec 3} {t : BitVec 2} {s : State} : Keeps s (execVxor d a b k t s) :=
  .next fun h => State.vbits_wf h

theorem execVshl_keeps {d a b : BitVec 5} {k : BitVec 3} {t : BitVec 2} {s : State} : Keeps s (execVshl d a b k t s) :=
  .next fun h => State.vbits_wf h

theorem execVshr_keeps {d a b : BitVec 5} {k : BitVec 3} {t : BitVec 2} {u : Bool} {s : State} : Keeps s (execVshr d a b k t u s) :=
  .next fun h => State.vbits_wf h

theorem execVmin_keeps {d a b : BitVec 5} {k : BitVec 3} {t : BitVec 2} {u : Bool} {s : State} : Keeps s (execVmin d a b k t u s) :=
  .next fun h => State.vint_wf h

theorem execVmax_keeps {d a b : BitVec 5} {k : BitVec 3} {t : BitVec 2} {u : Bool} {s : State} : Keeps s (execVmax d a b k t u s) :=
  .next fun h => State.vint_wf h

theorem execVabs_keeps {d a : BitVec 5} {k : BitVec 3} {t : BitVec 2} {sat : Bool} {s : State} : Keeps s (execVabs d a k t sat s) :=
  .next fun h => State.vint_wf h

theorem execVcmp_keeps {d : BitVec 3} {a b : BitVec 5} {k : BitVec 3} {t : BitVec 2} {c : BitVec 4} {s : State}
    : Keeps s (execVcmp d a b k t c s) :=
  .next fun h => State.vnext_wf (State.setM_wf h)

theorem State.vfloat_wf {s : State} {d a b : BitVec 5} {k : BitVec 3} {t : BitVec 2} {mode : Nat}
    {f : Fmt → Nat → Nat → Nat → Nat → Nat → Nat × Fl} (h : Memory.wf s.mem) : Memory.wf (s.vfloat d a b k t mode f).mem := h

theorem execVfadd_keeps {d a b : BitVec 5} {k : BitVec 3} {t : BitVec 2} {r : BitVec 4} {s : State} : Keeps s (execVfadd d a b k t r s) :=
  .next fun h => State.vfloat_wf h

theorem execVfsub_keeps {d a b : BitVec 5} {k : BitVec 3} {t : BitVec 2} {r : BitVec 4} {s : State} : Keeps s (execVfsub d a b k t r s) :=
  .next fun h => State.vfloat_wf h

theorem execVfmul_keeps {d a b : BitVec 5} {k : BitVec 3} {t : BitVec 2} {r : BitVec 4} {s : State} : Keeps s (execVfmul d a b k t r s) :=
  .next fun h => State.vfloat_wf h

theorem execVfma_keeps {d a b : BitVec 5} {k : BitVec 3} {t : BitVec 2} {r : BitVec 4} {s : State} : Keeps s (execVfma d a b k t r s) :=
  .next fun h => State.vfloat_wf h

theorem execVfmin_keeps {d a b : BitVec 5} {k : BitVec 3} {t : BitVec 2} {s : State} : Keeps s (execVfmin d a b k t s) :=
  .next fun h => State.vfloat_wf h

theorem execVfmax_keeps {d a b : BitVec 5} {k : BitVec 3} {t : BitVec 2} {s : State} : Keeps s (execVfmax d a b k t s) :=
  .next fun h => State.vfloat_wf h

theorem execVfabs_keeps {d a : BitVec 5} {k : BitVec 3} {t : BitVec 2} {s : State} : Keeps s (execVfabs d a k t s) :=
  .next fun h => State.vfloat_wf h

theorem execVfcmp_keeps {d : BitVec 3} {a b : BitVec 5} {k : BitVec 3} {t : BitVec 2} {c : BitVec 4} {s : State}
    : Keeps s (execVfcmp d a b k t c s) :=
  .next fun h => State.vnext_wf (State.vflag_wf (State.setM_wf h))

theorem State.vspecial_wf {s : State} {d a : BitVec 5} {k : BitVec 3} {f : Nat → Nat × Fl} (h : Memory.wf s.mem) :
    Memory.wf (s.vspecial d a k f).mem := h

theorem execVrcp_keeps {d a : BitVec 5} {k : BitVec 3} {s : State} : Keeps s (execVrcp d a k s) :=
  .next fun h => State.vspecial_wf h

theorem execVrsq_keeps {d a : BitVec 5} {k : BitVec 3} {s : State} : Keeps s (execVrsq d a k s) :=
  .next fun h => State.vspecial_wf h

theorem execVexp2_keeps {d a : BitVec 5} {k : BitVec 3} {s : State} : Keeps s (execVexp2 d a k s) :=
  .next fun h => State.vspecial_wf h

theorem execVlog2_keeps {d a : BitVec 5} {k : BitVec 3} {s : State} : Keeps s (execVlog2 d a k s) :=
  .next fun h => State.vspecial_wf h

theorem execVsin_keeps {d a : BitVec 5} {k : BitVec 3} {s : State} : Keeps s (execVsin d a k s) :=
  .next fun h => State.vspecial_wf h

theorem execVcos_keeps {d a : BitVec 5} {k : BitVec 3} {s : State} : Keeps s (execVcos d a k s) :=
  .next fun h => State.vspecial_wf h

theorem execVtanh_keeps {d a : BitVec 5} {k : BitVec 3} {s : State} : Keeps s (execVtanh d a k s) :=
  .next fun h => State.vspecial_wf h

theorem execVcvt_keeps {d a c : BitVec 5} {k : BitVec 3} {n : Bool} {r : BitVec 4} {s : State} : Keeps s (execVcvt d a c k n r s) :=
  .next fun h => State.vmapN_wf h

theorem execVpack_keeps {d a : BitVec 5} {z : BitVec 2} {p : BitVec 3} {s : State} : Keeps s (execVpack d a z p s) :=
  .next fun h => State.vnext_wf (State.setV_wf h)

theorem execVunpk_keeps {d a : BitVec 5} {z : BitVec 2} {p : BitVec 3} {s : State} : Keeps s (execVunpk d a z p s) :=
  .next fun h => State.vnext_wf (State.setV_wf h)

theorem execVbscl_keeps {d a b : BitVec 5} {k : BitVec 3} {t : BitVec 2} {s : State} : Keeps s (execVbscl d a b k t s) :=
  .next fun h => State.vnext_wf (State.vflag_wf (State.setV_wf h))

theorem execVqnt_keeps {d a b : BitVec 5} {k : BitVec 3} {t : BitVec 2} {r : BitVec 4} {s : State} : Keeps s (execVqnt d a b k t r s) :=
  .next fun h => State.vmapN_wf h

theorem execVred_keeps {d a : BitVec 5} {o k : BitVec 3} {t : BitVec 2} {r : BitVec 4} {s : State} : Keeps s (execVred d a o k t r s) :=
  .next fun h => State.vnext_wf (State.vflag_wf (State.modVec_wf (State.setV_wf h)))

theorem execVscan_keeps {d a : BitVec 5} {o k : BitVec 3} {t : BitVec 2} {r : BitVec 4} {s : State} : Keeps s (execVscan d a o k t r s) :=
  .next fun h => State.vmap_wf (State.vflag_wf (State.modVec_wf h))

theorem execVperm_keeps {d a b : BitVec 5} {k : BitVec 3} {w : BitVec 2} {s : State} : Keeps s (execVperm d a b k w s) :=
  .next fun h => State.vmap_wf h

theorem execVbcst_keeps {d a : BitVec 5} {k : BitVec 3} {w : BitVec 2} {s : State} : Keeps s (execVbcst d a k w s) :=
  .next fun h => State.vmap_wf h

theorem execVsld_keeps {d a b : BitVec 5} {k : BitVec 3} {n : BitVec 6} {s : State} : Keeps s (execVsld d a b k n s) :=
  .next fun h => State.vmap_wf h

theorem execVtwid_keeps {d a : BitVec 5} {k : BitVec 3} {n : BitVec 5} {s : State} : Keeps s (execVtwid d a k n s) :=
  .next fun h => State.vmap_wf h

theorem execVcmul_keeps {d a b : BitVec 5} {k : BitVec 3} {t : BitVec 2} {r : BitVec 4} {s : State} : Keeps s (execVcmul d a b k t r s) :=
  .next fun h => State.vnext_wf (State.vflag_wf (State.modVec_wf (State.setV_wf h)))

theorem execVbfly_keeps {d : BitVec 4} {a b : BitVec 5} {k : BitVec 3} {t : BitVec 2} {r : BitVec 4} {s : State}
    : Keeps s (execVbfly d a b k t r s) :=
  .next fun h => State.vnext_wf (State.vflag_wf (State.modVec_wf (State.setV_wf (State.setV_wf h))))

theorem execVmset_keeps {d : BitVec 3} {a : BitVec 5} {w : BitVec 2} {s : State} : Keeps s (execVmset d a w s) :=
  .next fun h => State.vnext_wf (State.setM_wf h)

theorem execVmsetZero_keeps {d : BitVec 3} {s : State} : Keeps s (execVmsetZero d s) :=
  .next fun h => State.vnext_wf (State.setM_wf h)

theorem execVmsetOnes_keeps {d : BitVec 3} {s : State} : Keeps s (execVmsetOnes d s) :=
  .next fun h => State.vnext_wf (State.setM_wf h)

theorem execVmlog_keeps {d a b : BitVec 3} {l : BitVec 4} {s : State} : Keeps s (execVmlog d a b l s) :=
  .next fun h => State.vnext_wf (State.setM_wf h)

/-! ## The matrix engine -/

theorem State.makeTile_wf {s : State} {d : Nat} {r : Run} {fmt rows cols : Nat} (h : Memory.wf s.mem) :
    ChkWf (s.makeTile d r fmt rows cols) := by
  unfold State.makeTile
  extract_lets
  split
  · exact chkWf_error
  · dsimp only
    exact chkWf_ok (State.modCell_wf h)

theorem State.fillMade_wf {s : State} {r : Run} {els : List Word} (h : Memory.wf s.mem) : Memory.wf (s.fillMade r els).mem := by
  unfold State.fillMade
  split
  · exact h
  · exact State.modTile_wf h

theorem State.matrixDo_wf {s : State} {c : Nat} {m : Cmd} (h : Memory.wf s.mem) : ChkWf (s.matrixDo c m) := by
  unfold State.matrixDo
  extract_lets
  split
  · exact chkWf_bind fun _ _ => chkWf_ok (State.logBad_wf (State.modCell_wf h))
  · exact chkWf_bind fun _ _ => chkWf_ok (State.logBad_wf (State.modCell_wf h))
  · exact chkWf_bind fun _ _ => chkWf_ok (State.logBad_wf (State.modCell_wf h))
  · exact chkWf_bind fun _ _ => chkWf_bind fun _ _ => chkWf_bind fun _ _ => by
      extract_lets
      split
      · exact chkWf_ok (State.modCell_wf h)
      · exact chkWf_step (State.makeTile_wf h) fun _ h1 => chkWf_ok (State.modCell_wf (State.fillMade_wf h1))

theorem State.setRuns_wf {s : State} {c : Nat} {rs : List Run} (h : Memory.wf s.mem) : Memory.wf (s.setRuns c rs).mem := h

theorem State.matrixExec_wf {s : State} {c : Nat} {m : Cmd} (h : Memory.wf s.mem) : Memory.wf (s.matrixExec c m).mem := h

theorem State.matrixWork_wf {s : State} {c : Nat} (h : Memory.wf s.mem) : Memory.wf (s.matrixWork c).mem := by
  unfold State.matrixWork
  split
  · exact h
  · extract_lets
    split
    · rename_i t _ e
      have h1 : Memory.wf t.mem := State.matrixDo_wf h _ e
      exact State.setRuns_wf h1
    · exact State.setRuns_wf (State.failRun_wf h)

theorem execMatrixTake_keeps {cell : Nat} {s : State} : Keeps s (execMatrixTake cell s) :=
  .next fun h => by
    extract_lets
    split
    · exact h
    · split
      · exact h
      · extract_lets t
        have h1 : Memory.wf t.mem := State.retainCmd_wf (State.modCell_wf h)
        split
        · exact State.modCell_wf h1
        · split
          · exact State.modCell_wf h1
          · exact State.matrixExec_wf h1

theorem execMwldBankFree_keeps {cell : Nat} {s : State} : Keeps s (execMwldBankFree cell s) :=
  .next fun h => by
    split
    · split
      · exact State.matrixExec_wf (State.modCell_wf h)
      · exact h
    · exact h

theorem execAccumulatorHazardEnd_keeps {cell : Nat} {s : State} : Keeps s (execAccumulatorHazardEnd cell s) :=
  .next fun h => by
    split
    · split
      · exact State.matrixExec_wf (State.modCell_wf h)
      · exact h
    · exact h

theorem State.sendRow_wf {s : State} {c : Nat} {r : Run} {dest : Word} (h : Memory.wf s.mem) : Memory.wf (s.sendRow c r dest).1.mem := by
  unfold State.sendRow
  split
  · exact h
  · dsimp only
    exact State.inject_wf h

theorem execDrainRowAccepted_keeps {cell : Nat} {s : State} : Keeps s (execDrainRowAccepted cell s) :=
  .next fun h => ite_wf h (by
    split
    · exact State.modCell_wf (State.sendRow_wf h)
    · split
      · split
        · exact State.modCell_wf (State.sendRow_wf h)
        · exact h
      · exact h)

theorem execStreamTokenArrival_keeps {src dst ctx : Nat} {s : State} : Keeps s (execStreamTokenArrival src dst ctx s) :=
  .next fun h => by
    split
    · exact h
    · split
      · split
        · exact State.accepted_wf (State.takePacket_wf h)
        · split
          · exact State.modCell_wf (State.accepted_wf (State.takePacket_wf h))
          · exact h
      · exact h

/-! ## The reducer -/

theorem State.modRed_wf {s : State} {c : Nat} {f : Reducer → Reducer} (h : Memory.wf s.mem) : Memory.wf (s.modRed c f).mem := h

theorem State.bind_wf {s : State} {c n : Nat} {b : Binding} (h : Memory.wf s.mem) : Memory.wf (s.bind c n b).mem := h

theorem State.redFail_wf {s : State} {c : Nat} {r : Run} {e : FaultCode × Word} (h : Memory.wf s.mem) :
    Memory.wf (s.redFail c r e).mem := by
  unfold State.redFail
  split
  · rename_i t _ e1
    have h1 : Memory.wf t.mem := fst_wf (State.failRun_wf h) e1
    exact State.modRed_wf h1
  · rename_i t e1
    have h1 : Memory.wf t.mem := fst_wf (State.failRun_wf h) e1
    exact h1

theorem State.takeRset_wf {s : State} {c : Nat} {m : Cmd} (h : Memory.wf s.mem) : Memory.wf (s.takeRset c m).mem := by
  unfold State.takeRset
  split
  · exact State.redFail_wf h
  · extract_lets made
    have hmade : ChkWf made := by
      unfold made
      split
      · exact chkWf_ok h
      · exact State.makeTile_wf h
    clear_value made
    cases made with
    | error e => exact State.redFail_wf h
    | ok p => exact State.modRed_wf (State.bind_wf (hmade p rfl))

theorem State.takeRfeed_wf {s : State} {c : Nat} {m : Cmd} (h : Memory.wf s.mem) : Memory.wf (s.takeRfeed c m).mem := by
  unfold State.takeRfeed
  extract_lets
  split
  · split
    · exact State.redFail_wf h
    · exact State.modRed_wf h
  · exact State.redFail_wf h
  · exact State.redFail_wf h

theorem execReducerTake_keeps {cell : Nat} {s : State} : Keeps s (execReducerTake cell s) :=
  .next fun h => by
    extract_lets
    split
    · exact h
    · extract_lets t
      have h1 : Memory.wf t.mem := State.retainCmd_wf (State.modRed_wf h)
      split
      · exact h
      · split
        · split
          · exact h
          · exact State.takeRset_wf h1
        · split
          · exact h
          · exact State.takeRfeed_wf h1

theorem State.dropInput_wf {s : State} {c : Nat} {d : Reduction} {fromPort : Bool} (h : Memory.wf s.mem) :
    Memory.wf (s.dropInput c d fromPort).mem := by
  unfold State.dropInput
  split
  · exact State.modCell_wf h
  · split
    · exact h
    · exact State.modRed_wf (State.logBad_wf h)

theorem State.settleFeed_wf {s : State} {c : Nat} (h : Memory.wf s.mem) : Memory.wf (s.settleFeed c).mem := by
  unfold State.settleFeed
  split
  · exact h
  · extract_lets
    split
    · exact h
    · exact State.modRed_wf h

theorem State.failReduction_wf {s : State} {c : Nat} {d : Reduction} {tag : BitVec 32} (h : Memory.wf s.mem) :
    Memory.wf (s.failReduction c d tag).mem := by
  unfold State.failReduction
  exact State.redFail_wf (State.modCell_wf (State.modRed_wf (State.bind_wf h)))

theorem State.finishReduction_wf {s : State} {c : Nat} {d : Reduction} (h : Memory.wf s.mem) : Memory.wf (s.finishReduction c d).mem := by
  unfold State.finishReduction
  extract_lets
  split
  · exact State.modRed_wf h
  · exact State.modRed_wf (State.bind_wf (State.fillMade_wf h))

theorem execReducerRow_keeps {cell : Nat} {fromPort : Bool} {s : State} : Keeps s (execReducerRow cell fromPort s) :=
  .next fun h => by
    split
    · exact h
    · extract_lets
      split
      · exact h
      · split
        · exact h
        · split
          · exact h
          · exact State.failReduction_wf h
          · exact State.settleFeed_wf (State.modRed_wf (State.dropInput_wf h))
          · extract_lets _ t
            have h1 : Memory.wf t.mem := State.settleFeed_wf (State.modRed_wf (State.dropInput_wf h))
            split
            · exact State.finishReduction_wf h1
            · exact h1

theorem State.settleReduction_wf {s : State} {c : Nat} (h : Memory.wf s.mem) : Memory.wf (s.settleReduction c).mem := by
  unfold State.settleReduction
  split
  · exact h
  · split
    · exact State.modRed_wf (State.bind_wf h)
    · exact h

/-! ## Vector kernels -/

theorem chkWf_of_ok {α β : Type} {o : Chk (State × α)} {p : State × α} {b : β} (h : ChkWf o) (e : o = .ok p) : ChkWf (.ok (p.1, b)) := by
  have h1 : Memory.wf p.1.mem := h p e
  exact chkWf_ok h1

theorem State.makeOuts_wf {s : State} {c : Nat} {m : Cmd} {ws : List (Option (List Word))} {qs : List (Option Stream)}
    (h : Memory.wf s.mem) : ChkWf (s.makeOuts c m ws qs) := by
  induction ws generalizing s qs with
  | nil => exact chkWf_ok (p := (s, [])) h
  | cons w ws ih =>
    match qs with
    | [] => exact chkWf_ok (p := (s, [])) h
    | none :: qs =>
      change ChkWf (match s.makeOuts c m ws qs with | .error e => .error e | .ok r => .ok (r.1, none :: r.2))
      split
      · exact chkWf_error
      · rename_i e
        exact chkWf_of_ok (ih h) e
    | some q :: qs =>
      change ChkWf (ite (q.made = true) _ _)
      split
      · dsimp only
        split
        · exact chkWf_error
        · split
          · exact chkWf_error
          · rename_i e
            exact chkWf_of_ok (ih (State.modCell_wf h)) e
      · split
        · exact chkWf_error
        · rename_i e
          exact chkWf_of_ok (ih h) e

theorem State.kernelRefuse_wf {s : State} {c : Nat} {m : Cmd} {e : FaultCode × Word} (h : Memory.wf s.mem) :
    Memory.wf (s.kernelRefuse c m e).mem := by
  unfold State.kernelRefuse
  split
  · rename_i t _ e1
    have h1 : Memory.wf t.mem := fst_wf (State.failRun_wf h) e1
    exact State.modVec_wf h1
  · rename_i t e1
    have h1 : Memory.wf t.mem := fst_wf (State.failRun_wf h) e1
    exact h1

theorem execVrunTake_keeps {cell : Nat} {s : State} : Keeps s (execVrunTake cell s) :=
  .next fun h => by
    split
    · exact h
    · split
      · exact h
      · extract_lets t
        have h1 : Memory.wf t.mem := State.retainCmd_wf (State.modVec_wf h)
        split
        · exact State.kernelRefuse_wf h1
        · extract_lets
          split
          · exact h
          · split
            · exact State.kernelRefuse_wf h1
            · rename_i t1 _ e
              have h2 : Memory.wf t1.mem := State.makeOuts_wf h1 _ e
              exact State.modVec_wf (foldl_wf (fun _ _ h3 => State.bind_wf h3) h2)

theorem execVldRowReady_keeps {cell : Nat} {s : State} : Keeps s (execVldRowReady cell s) :=
  .next fun h => ite_wf (State.modVec_wf h) h

theorem State.showOuts_wf {s : State} {c : Nat} {r : Run} {ks : List Nat} {qs : List (Option Stream)} (h : Memory.wf s.mem) :
    Memory.wf (s.showOuts c r ks qs).mem := by
  induction ks generalizing s qs with
  | nil => exact h
  | cons k ks ih =>
    match qs with
    | [] => exact h
    | none :: qs => exact ih h
    | some q :: qs => exact ih (ite_wf (State.writeFrameSlot_wf (State.modTile_wf h)) h)

theorem State.endKernel_wf {s : State} {c : Nat} (h : Memory.wf s.mem) : Memory.wf (s.endKernel c).mem := by
  unfold State.endKernel
  extract_lets
  split
  · exact h
  · exact State.completeRun_wf (State.modVec_wf (State.modCell_wf (ite_wf h (State.showOuts_wf h))))

theorem execKernelEnd_keeps {cell : Nat} {s : State} : Keeps s (execKernelEnd cell s) :=
  .next fun h => State.endKernel_wf h

/-! ## Tensor accesses -/

theorem State.keepDesc_wf {s : State} {w : Issuer} {f tid : Nat} {ws : List Word} (h : Memory.wf s.mem) :
    Memory.wf (s.keepDesc w f tid ws).mem := by
  unfold State.keepDesc
  exact State.modCx_wf (State.keepNested_wf h)

theorem State.park_wf {s : State} {m : Miss} (h : Memory.wf s.mem) : OptPairWf (s.park m) := by
  unfold State.park
  split
  · exact optPairWf_none
  · split
    · exact optPairWf_some h
    · dsimp only
      exact optPairWf_some (State.modFn_wf (State.ringPut_wf h))

theorem State.setRun_wf {s : State} {c uid : Nat} {q : Option Run} (h : Memory.wf s.mem) : Memory.wf (s.setRun c uid q).mem := h

theorem State.failCopy_wf {s : State} {o : MemOp} {code : FaultCode} {d1 d2 : Word} (h : Memory.wf s.mem) :
    Memory.wf (s.failCopy o code d1 d2).mem := by
  unfold State.failCopy
  split
  · exact State.dropOps_wf h
  · exact State.setRun_wf (State.failRun_wf h)

theorem State.stackAnswer_wf {s : State} {st : Nat} {o : MemOp} {k : Nat} (h : Memory.wf s.mem) : Memory.wf (s.stackAnswer st o k).mem := h

theorem State.refuseAt_wf {s : State} {a : Nat} {o : MemOp} {k : Nat} {code : FaultCode} {d1 d2 : Word} (h : Memory.wf s.mem) :
    Memory.wf (s.refuseAt a o k code d1 d2).mem := h

theorem State.failAccess_wf {s : State} {o : MemOp} {code : FaultCode} {d1 d2 : Word} (h : Memory.wf s.mem) :
    Memory.wf (s.failAccess o code d1 d2).mem := by
  unfold State.failAccess
  split
  · exact State.failCopy_wf h
  · exact State.failOp_wf h

theorem State.modPiece_wf {s : State} {id k : Nat} {f : Piece → Piece} (h : Memory.wf s.mem) : Memory.wf (s.modPiece id k f).mem := h

theorem State.withDesc_wf {s : State} {o : MemOp} {tid : Nat} {f : State → Desc → List Word → State}
    (hf : ∀ t v w, Memory.wf t.mem → Memory.wf (f t v w).mem) (h : Memory.wf s.mem) : Memory.wf (s.withDesc o tid f).mem := by
  unfold State.withDesc
  split
  · exact State.failAccess_wf h
  · split
    · exact State.modOp_wf h
    · rename_i p e
      have h1 : Memory.wf p.1.mem := State.park_wf h _ e
      exact State.modOp_wf (State.countCell_wf h1)
  · split
    · exact State.failAccess_wf h
    · exact hf _ _ _ (State.keepDesc_wf h)

theorem State.openAccess_wf {s : State} {o : MemOp} (h : Memory.wf s.mem) : Memory.wf (s.openAccess o).mem := by
  unfold State.openAccess
  split
  · exact State.failAccess_wf h
  · exact State.withDesc_wf (fun _ _ _ h1 => by
      split
      · exact State.failAccess_wf h1
      · split
        · exact State.failAccess_wf h1
        · exact State.modOp_wf h1) h

theorem State.parkPiece_wf {s : State} {o : MemOp} {k ring entry : Nat} {what : Word} (h : Memory.wf s.mem) :
    Memory.wf (s.parkPiece o k ring entry what).mem := by
  unfold State.parkPiece
  split
  · exact State.failAccess_wf h
  · split
    · exact State.modPiece_wf h
    · rename_i p e
      have h1 : Memory.wf p.1.mem := State.park_wf h _ e
      exact State.modPiece_wf (State.countCell_wf h1)

theorem State.unreached_wf {s : State} {o : MemOp} {st : Nat} (h : Memory.wf s.mem) : OptWf (s.unreached o st) := by
  unfold State.unreached
  split
  · exact optWf_none
  · split
    · exact optWf_some (State.linkLost_wf h)
    · exact optWf_some (State.failAccess_wf h)

theorem State.walk_wf {s : State} {o : MemOp} {k : Nat} (h : Memory.wf s.mem) : Memory.wf (s.walk o k).mem := by
  unfold State.walk
  split
  · exact h
  · split
    · split
      · exact h
      · split
        · exact State.failAccess_wf h
        · extract_lets
          split
          · exact getD_wf (State.unreached_wf h) (State.modOp_wf (State.keepXlate_wf h))
          · exact State.failAccess_wf h
          · exact State.parkPiece_wf h
          · exact State.parkPiece_wf h
    · split
      · exact h
      · split
        · exact State.failAccess_wf h
        · extract_lets
          split
          · exact getD_wf (State.unreached_wf h) (State.modOp_wf (State.keepXlate_wf h))
          · exact State.failAccess_wf h
          · exact State.parkPiece_wf h
          · exact State.parkPiece_wf h
    · split
      · exact h
      · split
        · exact State.failAccess_wf h
        · extract_lets
          split
          · exact getD_wf (State.unreached_wf h) (State.modOp_wf (State.keepXlate_wf h))
          · exact State.failAccess_wf h
          · exact State.parkPiece_wf h
          · exact State.parkPiece_wf h

/-! ## The copy engine -/

theorem State.askTile_wf {s : State} {r : Run} {fmt rows cols : Nat} (h : Memory.wf s.mem) : ChkWf (s.askTile r fmt rows cols) := by
  unfold State.askTile
  extract_lets
  split
  · exact State.makeTile_wf h
  · exact chkWf_ok (State.inject_wf h)

theorem State.checkTile_wf {s : State} {m : Cmd} {h : Word} (hs : Memory.wf s.mem) : Memory.wf (s.checkTile m h).mem := by
  unfold State.checkTile
  extract_lets
  split
  · exact hs
  · exact State.errRec_wf (State.modCell_wf hs)

theorem State.copyPlan_wf {s : State} {r : Run} {o : MemOp} {d : Desc} {ws : List Word} (h : Memory.wf s.mem) :
    ChkWf (s.copyPlan r o d ws) := by
  unfold State.copyPlan
  extract_lets _ _ _ _ _ _ t _ _ _ _ _ t1 _ _
  have h1 : Memory.wf t.mem := ite_wf (State.checkTile_wf h) h
  have h2 : Memory.wf t1.mem := ite_wf (State.checkTile_wf h) h
  split
  · exact chkWf_bind fun _ _ => chkWf_bind fun _ _ => chkWf_step (State.askTile_wf h) fun _ h3 => chkWf_ok h3
  · exact chkWf_bind fun _ _ => chkWf_bind fun _ _ => chkWf_ok (State.logBad_wf h1)
  · exact chkWf_bind fun _ _ => chkWf_bind fun _ _ => chkWf_ok (State.logBad_wf h)
  · exact chkWf_bind fun _ _ => chkWf_bind fun _ _ => chkWf_bind fun _ _ => chkWf_bind fun _ _ => chkWf_ok (State.logBad_wf h2)

theorem State.openCopy_wf {s : State} {o : MemOp} (h : Memory.wf s.mem) : Memory.wf (s.openCopy o).mem := by
  unfold State.openCopy
  split
  · exact State.dropOps_wf h
  · exact State.withDesc_wf (fun _ _ _ h1 => by
      split
      · exact State.failCopy_wf h1
      · rename_i p e
        have h2 : Memory.wf p.1.mem := State.copyPlan_wf h1 _ e
        exact State.modOp_wf (State.setRun_wf h2)) h

theorem State.giveEls_wf {s : State} {r : Run} {els : List Word} (h : Memory.wf s.mem) : Memory.wf (s.giveEls r els).1.mem := by
  unfold State.giveEls
  split
  · exact h
  · exact State.fillMade_wf h

theorem State.copyNow_wf {s : State} {c : Nat} {m : Cmd} (h : Memory.wf s.mem) : ChkWf (s.copyNow c m) := by
  unfold State.copyNow
  extract_lets
  split
  · exact chkWf_bind fun _ _ => chkWf_bind fun _ _ => chkWf_step (State.askTile_wf h) fun _ h1 => chkWf_ok h1
  · exact chkWf_bind fun _ _ => chkWf_bind fun _ _ => chkWf_step (State.askTile_wf h) fun _ h1 => chkWf_ok (State.giveEls_wf h1)

theorem State.addCopy_wf {s : State} {c : Nat} {r : Run} (h : Memory.wf s.mem) : Memory.wf (s.addCopy c r).mem := h

theorem State.refuseCopy_wf {s : State} {c : Nat} {m : Cmd} {e : FaultCode × Word} (h : Memory.wf s.mem) :
    Memory.wf (s.refuseCopy c m e).mem := by
  unfold State.refuseCopy
  split
  · rename_i t _ e1
    have h1 : Memory.wf t.mem := fst_wf (State.failRun_wf h) e1
    exact State.addCopy_wf h1
  · rename_i t e1
    have h1 : Memory.wf t.mem := fst_wf (State.failRun_wf h) e1
    exact h1

theorem execCopyTake_keeps {cell : Nat} {s : State} : Keeps s (execCopyTake cell s) :=
  .next fun h => by
    extract_lets
    split
    · exact h
    · split
      · exact h
      · extract_lets t _ t1
        have h1 : Memory.wf t.mem := State.retainCmd_wf (State.modCell_wf h)
        have h2 : Memory.wf t1.mem := State.addCopy_wf h1
        split
        · exact State.refuseCopy_wf h1
        · split
          · split
            · exact State.refuseCopy_wf h1
            · rename_i p e
              have h3 : Memory.wf p.1.mem := State.copyNow_wf h1 _ e
              exact State.addCopy_wf h3
          · exact State.openCopy_wf h2

theorem State.finishLoad_wf {s : State} {o : MemOp} {r : Run} {d : Desc} (h : Memory.wf s.mem) : Memory.wf (s.finishLoad o r d).mem := by
  unfold State.finishLoad
  exact State.setRun_wf (State.giveEls_wf h)

theorem State.advanceRows_wf {s : State} {o : MemOp} {r : Run} {d : Desc} (h : Memory.wf s.mem) : Memory.wf (s.advanceRows o r d).mem := by
  unfold State.advanceRows
  exact State.setRun_wf (ite_wf h (State.modCell_wf h))

theorem State.copyRead_wf {s : State} {id : Nat} (h : Memory.wf s.mem) : Memory.wf (s.copyRead id).mem := by
  unfold State.copyRead
  split
  · exact h
  · split
    · extract_lets _ t
      have h1 : Memory.wf t.mem := ite_wf (State.advanceRows_wf h) (ite_wf (State.finishLoad_wf h) h)
      split
      · exact State.dropOps_wf h1
      · exact h1
    · exact h

theorem State.copyWrote_wf {s : State} {id n : Nat} (h : Memory.wf s.mem) : Memory.wf (s.copyWrote id n).mem := by
  unfold State.copyWrote
  split
  · exact h
  · split
    · exact h
    · extract_lets _ t
      have h1 : Memory.wf t.mem := State.setRun_wf h
      split
      · exact State.dropOps_wf h1
      · exact h1

theorem State.copyPoison_wf {s : State} {o : MemOp} {p : Piece} (h : Memory.wf s.mem) : Memory.wf (s.copyPoison o p).mem := by
  unfold State.copyPoison
  split
  · extract_lets
    split
    · exact h
    · exact State.setRun_wf (State.poisonRec_wf h)
  · exact h

theorem State.xferData_wf {s : State} {c : Nat} {r : Run} {first n : Nat} (h : Memory.wf s.mem) :
    Memory.wf (s.xferData c r first n).1.mem := by
  unfold State.xferData
  split
  · exact h
  · dsimp only
    exact State.logBad_wf (State.checkTile_wf h)

theorem State.xfer_wf {s : State} {c : Nat} {r : Run} (h : Memory.wf s.mem) : Memory.wf (s.xfer c r).mem := by
  unfold State.xfer
  split
  · exact h
  · extract_lets
    split
    · exact h
    · split
      · exact State.setRun_wf (State.modTile_wf (State.xferData_wf h))
      · exact State.setRun_wf (State.inject_wf (State.xferData_wf h))

theorem State.allocHere_wf {s : State} {p : Packet} {uid fmt rows cols : Nat} {w : Issuer} (h : Memory.wf s.mem) :
    Memory.wf (s.allocHere p uid fmt rows cols w).mem := by
  unfold State.allocHere
  extract_lets
  split
  · exact h
  · split
    · exact State.inject_wf h
    · exact State.inject_wf (State.modCell_wf h)

theorem State.allocated_wf {s : State} {p : Packet} {uid : Nat} {x : Except Nat (Nat × BitVec 8)} (h : Memory.wf s.mem) :
    Memory.wf (s.allocated p uid x).mem := by
  unfold State.allocated
  split
  · extract_lets
    split
    · exact State.dropMade_wf h
    · exact State.setRun_wf h
  · split
    · exact h
    · exact State.setRun_wf (State.failRun_wf (State.dropOps_wf h))
  · exact State.modCell_wf h
  · exact h

theorem State.tileHere_wf {s : State} {p : Packet} {uid i : Nat} {g : BitVec 8} {first : Nat} {els : List Word} {w : Issuer}
    (h : Memory.wf s.mem) : Memory.wf (s.tileHere p uid i g first els w).mem := h

theorem State.tileAcked_wf {s : State} {c uid : Nat} (h : Memory.wf s.mem) : Memory.wf (s.tileAcked c uid).mem := by
  unfold State.tileAcked
  split
  · exact h
  · exact State.setRun_wf h

theorem State.completeHead_wf {s : State} {runs : List Run} {rest : State → List Run → State}
    (hrest : ∀ t v, Memory.wf t.mem → Memory.wf (rest t v).mem) (h : Memory.wf s.mem) : Memory.wf (s.completeHead runs rest).mem := by
  unfold State.completeHead
  split
  · exact h
  · split
    · exact State.completeRun_wf (hrest _ _ h)
    · exact h

theorem execCommandComplete_keeps {cell : Nat} {engine : Engine} {s : State} : Keeps s (execCommandComplete cell engine s) :=
  .next fun h => ite_wf h (by
    split
    · exact State.completeHead_wf (fun _ _ h1 => State.modCell_wf h1) h
    · exact State.completeHead_wf (fun _ _ h1 => State.modCell_wf h1) h
    · exact State.completeHead_wf (fun _ _ h1 => State.modRed_wf h1) (State.settleReduction_wf h)
    · exact State.endKernel_wf h)

/-! ## Operations at the stacks -/

theorem execTranslationWalk_keeps {op chunk : Nat} {s : State} : Keeps s (execTranslationWalk op chunk s) :=
  .next fun h => by
    split
    · exact h
    · split
      · exact h
      · extract_lets t
        have h1 : Memory.wf t.mem := ite_wf h (ite_wf (State.openCopy_wf h) (State.openAccess_wf h))
        split
        · exact h1
        · split
          · exact State.walk_wf h1
          · exact h1

theorem State.mergeChecked_wf {s : State} {key : Option (BitVec 512)} {g : Nat} {bs : List Byte} {mask : Nat} (h : Memory.wf s.mem) :
    Memory.wf (s.mergeChecked key g bs mask).mem := by
  unfold State.mergeChecked
  exact State.mergeGran_wf _ _ _ _ _ (ite_wf (State.errRec_wf h) h)

theorem State.checkGran_wf {s : State} {g : Nat} (h : Memory.wf s.mem) : Memory.wf (s.checkGran g).mem := by
  unfold State.checkGran
  split
  · exact h
  · exact State.errRec_wf h

theorem State.served_wf {s : State} {a : Nat} {o : MemOp} {k : Nat} {p : Piece} {bs : List Byte} {bad : Nat} (h : Memory.wf s.mem) :
    Memory.wf (s.served a o k p bs bad).mem := by
  unfold State.served
  split
  · exact State.sendAnswer_wf (State.modPiece_wf h)
  · split
    · exact State.refuseAt_wf h
    · exact State.sendAnswer_wf (State.modOp_wf (State.modPiece_wf h))

theorem execLoadServe_keeps {op chunk : Nat} {s : State} : Keeps s (execLoadServe op chunk s) :=
  .next fun h => by
    split
    · exact h
    · split
      · exact h
      · split
        · extract_lets _ t
          have h1 : Memory.wf t.mem := ite_wf (State.checkGran_wf h) h
          split
          · exact h
          · exact State.served_wf h1
        · exact h

theorem execLdchHop_keeps {op : Nat} {s : State} : Keeps s (execLdchHop op s) :=
  .next fun h => by
    split
    · exact h
    · split
      · split
        · extract_lets
          split
          · exact h
          · split
            · exact State.sendAnswer_wf (State.modOp_wf (State.modPiece_wf h))
            · split
              · exact State.refuseAt_wf h
              · split
                · exact State.sendAnswer_wf (State.modOp_wf (State.modPiece_wf h))
                · split
                  · exact State.refuseAt_wf h
                  · split
                    · exact State.sendAnswer_wf (State.modOp_wf (State.modPiece_wf h))
                    · exact State.modOp_wf h
        · exact h
      · exact h

theorem State.finishStore_wf {s : State} {o : MemOp} (h : Memory.wf s.mem) : Memory.wf (s.finishStore o).mem := by
  unfold State.finishStore
  extract_lets t
  have h1 : Memory.wf t.mem := State.lowerOut_wf (State.dropOps_wf h)
  split
  · exact h1
  · exact State.sendReply_wf h1

theorem State.stored_wf {s : State} {id n : Nat} (h : Memory.wf s.mem) : Memory.wf (s.stored id n).mem := by
  unfold State.stored
  split
  · exact h
  · split
    · exact State.copyWrote_wf h
    · split
      · exact h
      · exact State.finishStore_wf h

theorem State.giveShadows_wf {s : State} {o : MemOp} {pages : List (Nat × Nat)} (h : Memory.wf s.mem) :
    Memory.wf (s.giveShadows o pages).mem := by
  unfold State.giveShadows
  exact State.modOp_wf (foldl_wf (fun _ _ h1 => by
    split
    · exact State.wrGran_wf _ _ _ _ h1
    · exact h1) h)

theorem State.choosePath_wf {s : State} {o : MemOp} (h : Memory.wf s.mem) : OptWf (s.choosePath o) := by
  unfold State.choosePath
  split
  · exact optWf_some h
  · split
    · exact optWf_none
    · extract_lets _ _ _ t
      have h1 : Memory.wf t.mem := State.modFn_wf h
      split
      · exact optWf_some (State.failAccess_wf h)
      · exact optWf_some (State.giveShadows_wf h1)

theorem State.appendPiece_wf {s : State} {o : MemOp} {k : Nat} {p : Piece} {st pa : Nat} (h : Memory.wf s.mem) :
    Memory.wf (s.appendPiece o k p st pa).mem := by
  unfold State.appendPiece
  extract_lets _ t t1
  have h1 : Memory.wf t.mem := State.appendEntry_wf h
  have h2 : Memory.wf t1.mem := State.modOp_wf (State.modPiece_wf h1)
  split
  · exact State.publish_wf h2
  · exact State.stackAnswer_wf h2

theorem State.choosePathOf_wf {s : State} {o : MemOp} (h : Memory.wf s.mem) : OptWf (s.choosePathOf o) := by
  unfold State.choosePathOf
  split
  · exact State.choosePath_wf h
  · exact optWf_some h

theorem execLogEntryAppend_keeps {op chunk : Nat} {s : State} : Keeps s (execLogEntryAppend op chunk s) :=
  .next fun h => by
    split
    · exact h
    · split
      · exact h
      · split
        · exact h
        · extract_lets
          split
          · exact h
          · split
            · exact State.modPiece_wf h
            · exact State.appendPiece_wf h

theorem execStoreRingSpace_keeps {op : Nat} {s : State} : Keeps s (execStoreRingSpace op s) :=
  .next fun h => by
    split
    · exact h
    · exact State.modOp_wf h

theorem execLogFull_keeps {op : Nat} {s : State} : Keeps s (execLogFull op s) :=
  .next fun h => by
    split
    · exact h
    · split
      · exact h
      · split
        · exact State.failAccess_wf h
        · exact h

theorem execScStoreApply_keeps {op : Nat} {s : State} : Keeps s (execScStoreApply op s) :=
  .next fun h => by
    split
    · exact h
    · split
      · exact h
      · split
        · exact State.stackAnswer_wf h
        · exact h

theorem State.ackTo_wf {s : State} {st : Nat} {o : MemOp} (h : Memory.wf s.mem) : Memory.wf (s.ackTo st o).mem := h

theorem execPublishMessage_keeps {op stack : Nat} {s : State} : Keeps s (execPublishMessage op stack s) :=
  .next fun h => by
    split
    · exact h
    · extract_lets
      split
      · exact h
      · split
        · exact State.modOp_wf (State.publish_wf h)
        · split
          · exact State.openRel_wf h
          · split
            · exact h
            · exact State.ackTo_wf (State.publish_wf h)

theorem State.keepToken_wf {s : State} {o : MemOp} (h : Memory.wf s.mem) : Memory.wf (s.keepToken o).mem := by
  unfold State.keepToken
  split
  · exact h
  · exact State.modInst_wf h

theorem execReleaseAccepted_keeps {op : Nat} {s : State} : Keeps s (execReleaseAccepted op s) :=
  .next fun h => by
    split
    · exact h
    · split
      · exact h
      · split
        · exact State.keepToken_wf (State.dropOps_wf h)
        · extract_lets t
          have h1 : Memory.wf t.mem := State.lowerOut_wf (State.dropOps_wf h)
          split
          · exact h1
          · exact State.sendReply_wf h1

theorem State.dirty_wf {s : State} {f gpa : Nat} (h : Memory.wf s.mem) : Memory.wf (s.dirty f gpa).mem := by
  unfold State.dirty
  extract_lets _ _ t
  have h1 : Memory.wf t.mem := getD_wf (State.wrGuest_wf h) (State.errRec_wf h)
  split
  · exact h
  · split
    · exact State.modFn_wf h
    · exact State.modFn_wf h1

theorem State.streamed_wf {s : State} {ps : List Nat} (h : Memory.wf s.mem) : Memory.wf (s.streamed ps).mem := by
  unfold State.streamed
  split
  · exact h
  · exact foldl_wf (fun _ _ h1 => State.checkGran_wf h1) h

theorem State.amoDo_wf {s : State} {o : MemOp} {pa gpa : Nat} (h : Memory.wf s.mem) : Memory.wf (s.amoDo o pa gpa).mem := by
  unfold State.amoDo
  exact State.stackAnswer_wf (State.modOp_wf (State.modPiece_wf (State.dirty_wf (State.mergeChecked_wf h))))

theorem execAmoPerform_keeps {op : Nat} {s : State} : Keeps s (execAmoPerform op s) :=
  .next fun h => by
    split
    · exact h
    · split
      · exact h
      · split
        · extract_lets
          split
          · exact h
          · split
            · exact State.modOp_wf (State.publish_wf h)
            · split
              · exact h
              · split
                · exact State.refuseAt_wf h
                · split
                  · exact State.streamed_wf h
                  · exact State.amoDo_wf h
        · exact h

/-! ## Replay and acquires -/

theorem State.reclaim_wf {s : State} {st : Nat} {q : Segment} (h : Memory.wf s.mem) : Memory.wf (s.reclaim st q).mem := by
  unfold State.reclaim
  exact State.modStack_wf h

theorem State.failWaiting_wf {s : State} {id : Nat} (h : Memory.wf s.mem) : Memory.wf (s.failWaiting id).mem := by
  unfold State.failWaiting
  split
  · exact h
  · split
    · split
      · exact State.countLost_wf (State.endRun_wf (State.setRun_wf h))
      · exact State.dropOps_wf h
    · exact State.countLost_wf (State.lowerOut_wf (State.dropOps_wf h))

theorem State.failAcqas_wf {s : State} {st : Nat} {l : SubLog} {rseq : BitVec 32} (h : Memory.wf s.mem) :
    Memory.wf (s.failAcqas st l rseq).mem := h

theorem State.reportSegment_wf {s : State} {st : Nat} {l : SubLog} {q : Segment} (h : Memory.wf s.mem) :
    Memory.wf (s.reportSegment st l q).mem := by
  unfold State.reportSegment
  split
  · exact h
  · split
    · exact h
    · exact State.deliverTo_wf h

theorem State.reservePage_wf {s : State} {f size page : Nat} (h : Memory.wf s.mem) : Memory.wf (s.reservePage f size page).mem := by
  unfold State.reservePage
  exact State.modFn_wf (State.zeroRange_wf _ _ _ h)

theorem State.skipSegment_wf {s : State} {st : Nat} {q : Segment} (h : Memory.wf s.mem) : Memory.wf (s.skipSegment st q).mem := by
  unfold State.skipSegment
  exact State.reportSegment_wf (ite_wf (State.failAcqas_wf (State.reclaim_wf (State.modSub_wf (foldl_wf
    (fun _ _ h1 => State.reservePage_wf h1) h)))) (State.failWaiting_wf (State.failAcqas_wf (State.reclaim_wf (State.modSub_wf (foldl_wf
    (fun _ _ h1 => State.reservePage_wf h1) h))))))

theorem State.applyData_wf {s : State} {log f : Nat} {es : List Entry} (h : Memory.wf s.mem) : Memory.wf (s.applyData log f es).mem := by
  unfold State.applyData
  exact foldl_wf (fun _ _ h1 => ite_wf h1 (by
    extract_lets t
    have h2 : Memory.wf t.mem := State.mergeChecked_wf h1
    split
    · exact foldl_wf (fun _ _ h3 => State.dirty_wf h3) h2
    · exact State.dirty_wf h2)) h

theorem State.swapLeaf_wf {s : State} {root gpa size page : Nat} (h : Memory.wf s.mem) : Memory.wf (s.swapLeaf root gpa size page).mem := by
  unfold State.swapLeaf
  exact foldl_wf (fun _ _ h1 => State.wrBytes_wf _ _ _ h1) h

theorem State.commitRemap_wf {s : State} {log : Nat} {e : Entry} (h : Memory.wf s.mem) : Memory.wf (s.commitRemap log e).mem := by
  unfold State.commitRemap
  extract_lets
  split
  · split
    · exact foldl_wf (fun _ _ h1 => State.dirty_wf h1) (State.swapLeaf_wf (State.dropXlate_wf h))
    · exact State.errRec_wf (State.reservePage_wf h)
  · exact State.errRec_wf (State.reservePage_wf h)

theorem State.applySegment_wf {s : State} {st : Nat} {q : Segment} {es : List Entry} (h : Memory.wf s.mem) :
    Memory.wf (s.applySegment st q es).mem := by
  unfold State.applySegment
  exact State.reclaim_wf (ite_wf (State.modSub_wf (State.applyData_wf (foldl_wf (fun _ _ h1 => State.commitRemap_wf h1) h)))
    (State.applyData_wf (foldl_wf (fun _ _ h1 => State.commitRemap_wf h1) h)))

theorem execSegmentReplay_keeps {stack : Nat} {s : State} : Keeps s (execSegmentReplay stack s) :=
  .next fun h => by
    split
    · exact h
    · extract_lets
      split
      · exact State.skipSegment_wf h
      · split
        · exact State.applySegment_wf h
        · exact State.streamed_wf h

theorem execShadowPageReturn_keeps {page : Nat} {s : State} : Keeps s (execShadowPageReturn page s) :=
  .next fun h => by
    split
    · exact h
    · extract_lets
      split
      · exact h
      · exact State.reservePage_wf h

theorem State.freeBehind_wf {s : State} {id : Nat} (h : Memory.wf s.mem) : Memory.wf (s.freeBehind id).mem := by
  unfold State.freeBehind
  exact foldl_wf (fun _ _ h1 => State.sendQpost_wf h1) h

theorem State.acquired_wf {s : State} {o : MemOp} {v : Word} (h : Memory.wf s.mem) : Memory.wf (s.acquired o v).mem := by
  unfold State.acquired
  extract_lets t t1
  have h1 : Memory.wf t.mem := State.modCx_wf (State.dropOps_wf h)
  have h2 : Memory.wf t1.mem := State.lowerOut_wf (State.freeBehind_wf h1)
  split
  · exact h2
  · exact State.sendReply_wf h2

theorem State.acqEnds_wf {s : State} {o : MemOp} {st : Nat} {rseq : BitVec 32} (h : Memory.wf s.mem) :
    Memory.wf (s.acqEnds o st rseq).mem := by
  unfold State.acqEnds
  exact State.failOp_wf (ite_wf (State.countLost_wf (State.lowerOut_wf (State.modCell_wf (State.dropOps_wf h)))) (State.step1_wf
    (State.unstall_wf (State.countLost_wf (State.lowerOut_wf (State.modCell_wf (State.dropOps_wf h)))))))

theorem State.acqAnswer_wf {s : State} {o : MemOp} {st : Nat} (h : Memory.wf s.mem) : Memory.wf (s.acqAnswer o st).mem := by
  unfold State.acqAnswer
  extract_lets
  split
  · exact h
  · split
    · exact State.ackTo_wf (State.modOp_wf h)
    · split
      · exact State.ackTo_wf h
      · exact h

theorem execAcqComplete_keeps {op : Nat} {s : State} : Keeps s (execAcqComplete op s) :=
  .next fun h => by
    split
    · exact h
    · split
      · exact h
      · split
        · exact State.acqEnds_wf h
        · split
          · exact State.acquired_wf h
          · exact foldl_wf (fun _ _ h1 => State.acqAnswer_wf h1) h

theorem execAcqaMarker_keeps {op stack : Nat} {s : State} : Keeps s (execAcqaMarker op stack s) :=
  .next fun h => by
    split
    · exact h
    · split
      · exact h
      · split
        · split
          · exact State.acqEnds_wf h
          · exact State.acquired_wf h
        · split
          · exact State.ackTo_wf h
          · exact h

theorem execPeerStoreArrival_keeps {src : BitVec 16 × Nat} {gran : Nat} {mask : BitVec 64} {data : BitVec 512} {s : State}
    : Keeps s (execPeerStoreArrival src gran mask data s) :=
  .next fun h => by
    extract_lets _ _ t
    have h1 : Memory.wf t.mem := State.modSub_wf h
    split
    · exact h
    · split
      · exact h1
      · exact State.appendEntry_wf h1

theorem State.peerPublish_wf {s : State} {smod : BitVec 16} {flow : Nat} (h : Memory.wf s.mem) :
    Memory.wf (s.peerPublish smod flow).mem := by
  unfold State.peerPublish
  exact foldl_wf (fun _ _ h1 => ite_wf h1 (State.publish_wf h1)) h

theorem State.peerLoad_wf {s : State} {smod : BitVec 16} {flow pa len : Nat} (h : Memory.wf s.mem) :
    Memory.wf (s.peerLoad smod flow pa len).mem := by
  unfold State.peerLoad
  split
  · exact h
  · exact foldl_wf (fun _ _ h1 => State.checkGran_wf h1) h

theorem State.setLayer_wf {s : State} {p : Nat} {l : SepLayer} (h : Memory.wf s.mem) : Memory.wf (s.setLayer p l).mem := h

theorem State.sendPeer_wf {s : State} {id k : Nat} (h : Memory.wf s.mem) : Memory.wf (s.sendPeer id k).mem := by
  unfold State.sendPeer
  split
  · exact h
  · split
    · split
      · exact h
      · extract_lets _ _ t
        have h1 : Memory.wf t.mem := State.setLayer_wf h
        split
        · exact h
        · exact State.modPiece_wf h1
    · exact h

theorem State.septordAck_wf {s : State} {port : Nat} {seq : BitVec 12} (h : Memory.wf s.mem) : Memory.wf (s.septordAck port seq).mem := by
  unfold State.septordAck
  extract_lets
  split
  · exact h
  · exact State.setLayer_wf h

theorem State.peerArrival_wf {s : State} {o : MemOp} (h : Memory.wf s.mem) : Memory.wf (s.peerArrival o).mem := h

theorem State.losePeers_wf {s : State} (h : Memory.wf s.mem) : Memory.wf (s.losePeers).mem := by
  unfold State.losePeers
  exact foldl_wf (fun _ _ h1 => ite_wf (State.failAccess_wf h1) h1) h

theorem execPeerAck_keeps {op : Nat} {s : State} : Keeps s (execPeerAck op s) :=
  .next fun h => by
    split
    · exact h
    · split
      · exact h
      · split
        · exact h
        · exact foldl_wf (fun _ _ h1 => State.sendAnswer_wf h1) (State.modOp_wf (State.modCx_wf (State.peerArrival_wf h)))

theorem State.peerData_wf {s : State} {op k : Nat} {bs : List Byte} (h : Memory.wf s.mem) : Memory.wf (s.peerData op k bs).mem := by
  unfold State.peerData
  split
  · exact h
  · split
    · exact h
    · split
      · exact h
      · split
        · exact h
        · exact State.served_wf (State.peerArrival_wf h)

theorem State.peerApplied_wf {s : State} {op : Nat} (h : Memory.wf s.mem) : Memory.wf (s.peerApplied op).mem := by
  unfold State.peerApplied
  split
  · exact State.modOp_wf (State.peerArrival_wf h)
  · exact h

theorem State.unpark_wf {s : State} {f id : Nat} (h : Memory.wf s.mem) : Memory.wf (s.unpark f id).mem := h

/-! ## Memory ports -/

theorem State.sendRequest_wf {s : State} {o : MemOp} {k : Nat} {p : Piece} {a b : Nat} (h : Memory.wf s.mem) :
    Memory.wf (s.sendRequest o k p a b).mem := h

theorem State.askStack_wf {s : State} {o : MemOp} {k : Nat} (h : Memory.wf s.mem) : Memory.wf (s.askStack o k).mem := by
  unfold State.askStack
  split
  · exact h
  · rename_i t q e
    obtain ⟨u, hu, hm⟩ := Option.bind_eq_some_iff.mp e
    obtain ⟨v, _, hv⟩ := Option.map_eq_some_iff.mp hm
    have h1 : Memory.wf t.mem := (Prod.mk.inj hv).1 ▸ State.choosePathOf_wf h u hu
    split
    · split
      · exact h1
      · exact getD_wf (State.unreached_wf h1) (ite_wf (State.modPiece_wf h1) (State.sendRequest_wf h1))
    · exact h1

theorem State.askPeer_wf {s : State} {o : MemOp} {m k : Nat} (h : Memory.wf s.mem) : Memory.wf (s.askPeer o m k).mem := by
  unfold State.askPeer
  split
  · split
    · split
      · exact h
      · exact State.sendRequest_wf h
    · exact h
    · exact State.sendPeer_wf h
  · exact h

theorem State.sendMessage_wf {s : State} {o : MemOp} {st : Nat} {b : Payload} (h : Memory.wf s.mem) :
    Memory.wf (s.sendMessage o st b).mem := by
  unfold State.sendMessage
  exact getD_wf (State.unreached_wf h) (State.inject_wf h)

theorem State.askMessage_wf {s : State} {o : MemOp} {st : Nat} (h : Memory.wf s.mem) : Memory.wf (s.askMessage o st).mem := by
  unfold State.askMessage
  split
  · exact h
  · split
    · exact State.sendMessage_wf (State.modOp_wf h)
    · split
      · exact State.sendMessage_wf (State.modOp_wf h)
      · exact h

theorem State.askTransfer_wf {s : State} {uid : Nat} (h : Memory.wf s.mem) : Memory.wf (s.askTransfer uid).mem := by
  unfold State.askTransfer
  split
  · split
    · exact State.xfer_wf h
    · exact h
  · exact h

theorem State.ask_wf {s : State} {id k : Nat} (h : Memory.wf s.mem) : Memory.wf (s.ask id k).mem := by
  unfold State.ask
  split
  · exact State.askTransfer_wf h
  · split
    · exact State.askMessage_wf h
    · split
      · exact State.askPeer_wf h
      · exact State.askStack_wf h

theorem State.requestHere_wf {s : State} {id k : Nat} (h : Memory.wf s.mem) : Memory.wf (s.requestHere id k).mem := h

theorem State.messageHere_wf {s : State} {id st : Nat} (h : Memory.wf s.mem) : Memory.wf (s.messageHere id st).mem := h

theorem State.readOn_wf {s : State} {o : MemOp} (h : Memory.wf s.mem) : Memory.wf (s.readOn o).mem := by
  unfold State.readOn
  split
  · exact h
  · exact State.copyRead_wf (foldl_wf (fun _ _ h1 => ite_wf h1 (State.copyPoison_wf h1)) h)

theorem State.answered_wf {s : State} {id k : Nat} (h : Memory.wf s.mem) : Memory.wf (s.answered id k).mem := by
  unfold State.answered
  split
  · exact h
  · split
    · exact State.failAccess_wf h
    · extract_lets _ t
      have h1 : Memory.wf t.mem := State.modOp_wf h
      split
      · exact State.readOn_wf h1
      · split
        · exact State.stored_wf h1
        · exact h1

theorem State.acknowledged_wf {s : State} {id st : Nat} (h : Memory.wf s.mem) : Memory.wf (s.acknowledged id st).mem := h

theorem State.takeIn_wf {s : State} {n : Nat} {p : Packet} (h : Memory.wf s.mem) : Memory.wf (s.takeIn n p).mem := by
  unfold State.takeIn
  split
  · exact h
  · extract_lets t
    have h1 : Memory.wf t.mem := h
    split
    · exact State.requestHere_wf h1
    · exact State.messageHere_wf h1
    · exact State.messageHere_wf h1
    · exact State.answered_wf h1
    · exact State.acknowledged_wf h1
    · split
      · exact h
      · exact State.allocHere_wf h1
    · exact State.allocated_wf h1
    · exact State.tileHere_wf h1
    · exact State.tileAcked_wf h1
    · exact h

/-! ## Registers and host windows -/

theorem State.pfWrite_wf {s : State} {off : Nat} {v : Word} (h : Memory.wf s.mem) : Memory.wf (s.pfWrite off v).mem := by
  unfold State.pfWrite
  split
  · exact h
  · split
    · exact State.modFn_wf h
    · split
      · split <;> exact h
      · split
        · exact State.losePeers_wf h
        · exact h

theorem execRegisterWrite_keeps {fn off : Nat} {val : BitVec 64} {s : State} : Keeps s (execRegisterWrite fn off val s) :=
  .next fun h => ite_wf h (by
    split
    · split
      · exact State.modQ_wf h
      · exact h
    · split
      · exact State.modFn_wf h
      · split
        · exact State.pfWrite_wf h
        · exact h)

theorem execRingRestart_keeps {fn off : Nat} {val : BitVec 64} {s : State} : Keeps s (execRingRestart fn off val s) :=
  .next fun h => ite_wf h (by
    split
    · split
      · exact h
      · split
        · exact State.modQ_wf h
        · split
          · exact State.modQ_wf h
          · exact h
    · split
      · exact State.modFn_wf h
      · split
        · exact State.modFn_wf h
        · split
          · exact State.modFn_wf h
          · split <;> exact h)

theorem State.refuseHost_wf {s : State} {f gpa : Nat} (h : Memory.wf s.mem) : Memory.wf (s.refuseHost f gpa).mem := by
  unfold State.refuseHost
  exact State.errRec_wf h

theorem State.hostLog_wf {s : State} {f st : Nat} (h : Memory.wf s.mem) : Memory.wf (s.hostLog f st).mem := by
  unfold State.hostLog
  exact State.modSub_wf h

theorem State.hostIn_wf {s : State} {i : Instr} (h : Memory.wf s.mem) : OptWf (s.hostIn i) := by
  unfold State.hostIn
  split
  · exact optWf_none
  · split
    · exact optWf_none
    · split
      · exact optWf_some h
      · split
        · exact optWf_some h
        · exact optWf_none

theorem State.hostOut_wf {s : State} {iface : Nat} (h : Memory.wf s.mem) : Memory.wf (s.hostOut iface).2.mem := by
  unfold State.hostOut
  split <;> exact h

theorem State.hostEntry_wf {s : State} {f pa gpa : Nat} {bs : List Byte} (h : Memory.wf s.mem) :
    Memory.wf (s.hostEntry f pa gpa bs).mem := by
  unfold State.hostEntry
  exact State.appendEntry_wf (State.hostLog_wf h)

theorem State.windowWrite_wf {s : State} {f : Nat} {es : List (Nat × Nat × List Byte)} (h : Memory.wf s.mem) :
    Memory.wf (s.windowWrite f es).mem := by
  induction es generalizing s with
  | nil => exact h
  | cons e es ih =>
    unfold State.windowWrite
    exact ite_wf (ite_wf h (State.publish_wf h)) (ih (State.hostEntry_wf h))

theorem execHostWindowWrite_keeps {fn gpa : Nat} {bytes : List (BitVec 8)} {s : State} : Keeps s (execHostWindowWrite fn gpa bytes s) :=
  .next fun h => by
    extract_lets
    split
    · exact h
    · split
      · exact State.refuseHost_wf h
      · exact State.windowWrite_wf h

theorem execHostWindowRead_keeps {fn gpa len : Nat} {s : State} : Keeps s (execHostWindowRead fn gpa len s) :=
  .next fun h => by
    extract_lets _ _ t _
    have h1 : Memory.wf t.mem := foldl_wf (fun _ _ h1 => State.checkGran_wf h1) h
    split
    · exact h
    · split
      · exact h
      · split
        · exact State.refuseHost_wf h
        · exact h1

theorem State.publishHost_wf {s : State} {f : Nat} (h : Memory.wf s.mem) : Memory.wf (s.publishHost f).mem := by
  unfold State.publishHost
  exact foldl_wf (fun _ _ h1 => ite_wf h1 (State.publish_wf h1)) h

/-! ## Command queues -/

theorem State.pktError_wf {s : State} {f q code id : Nat} (h : Memory.wf s.mem) : Memory.wf (s.pktError f q code id).mem := by
  unfold State.pktError
  exact State.modQ_wf (State.putE_wf h)

theorem State.processed_wf {s : State} {f q n : Nat} {p : List Pending} (h : Memory.wf s.mem) : Memory.wf (s.processed f q n p).mem := by
  unfold State.processed
  extract_lets t
  have h1 : Memory.wf t.mem := State.modQ_wf h
  split
  · exact State.pktError_wf h1
  · exact State.modQ_wf h1

theorem State.newRound_wf {s : State} (h : Memory.wf s.mem) : Memory.wf (s.newRound).mem := h

theorem State.countTurn_wf {s : State} {f q : Nat} (h : Memory.wf s.mem) : Memory.wf (s.countTurn f q).mem := by
  unfold State.countTurn
  split
  · exact State.modFn_wf h
  · exact State.modQ_wf h

theorem State.turn_wf {s : State} {f q : Nat} (h : Memory.wf s.mem) : OptWf (s.turn f q) := by
  unfold State.turn
  split
  · exact optWf_some (State.countTurn_wf h)
  · split
    · exact optWf_none
    · exact optWf_some (State.countTurn_wf (State.newRound_wf h))

theorem State.markBegun_wf {s : State} {f q : Nat} (h : Memory.wf s.mem) : Memory.wf (s.markBegun f q).mem := by
  unfold State.markBegun
  split
  · exact State.modQ_wf h
  · exact h

theorem State.process_wf {s : State} {f q : Nat} {w : List Word} {body : State → List Word → State}
    (hbody : ∀ t v, Memory.wf t.mem → Memory.wf (body t v).mem) (h : Memory.wf s.mem) : Memory.wf (s.process f q w body).mem := by
  unfold State.process
  split
  · exact State.modQ_wf h
  · exact State.markBegun_wf (hbody _ _ h)

theorem State.packet_wf {s : State} {f q op : Nat} {body : State → List Word → State}
    (hbody : ∀ t v, Memory.wf t.mem → Memory.wf (body t v).mem) (h : Memory.wf s.mem) : Memory.wf (s.packet f q op body).mem := by
  unfold State.packet
  extract_lets
  split
  · exact h
  · split
    · exact h
    · split
      · exact h
      · exact getD_wf (optWf_map (fun _ h1 => State.pktError_wf h1) (State.turn_wf h)) h
    · split
      · exact h
      · split
        · exact State.process_wf hbody h
        · exact getD_wf (optWf_map (fun _ h1 => State.process_wf hbody h1) (State.turn_wf h)) h

theorem execBarWaitEnd_keeps {fn q : Nat} {s : State} : Keeps s (execBarWaitEnd fn q s) :=
  .next fun h => by
    split
    · split
      · exact State.modQ_wf h
      · exact h
    · split
      · exact State.modQ_wf h
      · exact h
    · exact h

theorem State.acquired?_wf {s : State} {f q : Nat} {k : State → State} (hk : ∀ t, Memory.wf t.mem → Memory.wf (k t).mem)
    (h : Memory.wf s.mem) : Memory.wf (s.acquired? f q k).mem := by
  unfold State.acquired?
  split
  · split
    · exact hk _ h
    · exact h
  · split
    · exact hk _ h
    · exact State.modQ_wf h

theorem State.front_wf {s : State} {f q gpa : Nat} {write : Bool} {bad : State → State} {go : State → Nat → State}
    (hbad : ∀ t, Memory.wf t.mem → Memory.wf (bad t).mem) (hgo : ∀ t v, Memory.wf t.mem → Memory.wf (go t v).mem) (h : Memory.wf s.mem) :
    Memory.wf (s.front f q gpa write bad go).mem := by
  unfold State.front
  split
  · split
    · exact hbad _ h
    · exact hgo _ _ h
  · split
    · exact hbad _ h
    · split
      · exact h
      · rename_i p e
        have h1 : Memory.wf p.1.mem := State.park_wf h _ e
        exact State.modQ_wf h1
  · exact hbad _ h
  · exact hbad _ h

theorem badAddress_wf {f q : Nat} {s : State} (h : Memory.wf s.mem) : Memory.wf (badAddress f q s).mem := by
  unfold badAddress
  exact State.pktError_wf h

theorem State.frontRead_wf {s : State} {f q gpa : Nat} {go : State → Word → State} (hgo : ∀ t v, Memory.wf t.mem → Memory.wf (go t v).mem)
    (h : Memory.wf s.mem) : Memory.wf (s.frontRead f q gpa go).mem := by
  unfold State.frontRead
  exact State.front_wf (fun _ h1 => badAddress_wf h1) (fun _ _ h1 => hgo _ _ h1) h

theorem State.frontWrite_wf {s : State} {f gpa pa : Nat} {v : Word} (h : Memory.wf s.mem) : Memory.wf (s.frontWrite f gpa pa v).mem := by
  unfold State.frontWrite
  exact State.dirty_wf (State.mergeChecked_wf (State.streamed_wf h))

theorem execQNotify_keeps {fn q : Nat} {val : BitVec 64} {s : State} : Keeps s (execQNotify fn q val s) :=
  .next fun h => ite_wf h (by
    extract_lets _ t t1 t2
    have h1 : Memory.wf t.mem := State.publishHost_wf (State.recordTo_wf h)
    have h2 : Memory.wf t1.mem := State.modQ_wf h1
    have h3 : Memory.wf t2.mem := State.putE_wf h2
    split
    · exact State.modQ_wf h3
    · exact State.modQ_wf h2)

theorem execQEnable_keeps {fn q : Nat} {val : BitVec 64} {s : State} : Keeps s (execQEnable fn q val s) :=
  .next fun h => ite_wf h (State.modQ_wf h)

theorem execQDisable_keeps {fn q : Nat} {val : BitVec 64} {s : State} : Keeps s (execQDisable fn q val s) :=
  .next fun h => ite_wf h (State.modQ_wf h)

theorem execQReset_keeps {fn q : Nat} {val : BitVec 64} {s : State} : Keeps s (execQReset fn q val s) :=
  .next fun h => ite_wf h (State.modQ_wf h)

theorem execQueueFetch_keeps {fn q : Nat} {s : State} : Keeps s (execQueueFetch fn q s) :=
  .next fun h => by
    extract_lets
    split
    · exact h
    · split
      · exact h
      · split
        · exact h
        · extract_lets
          split
          · split
            · exact h
            · exact State.frontRead_wf (fun _ _ h1 => State.modQ_wf h1) h
          · split
            · exact h
            · exact State.frontRead_wf (fun _ _ h1 => State.modQ_wf h1) h

theorem execIbcall_keeps {fn q : Nat} {s : State} : Keeps s (execIbcall fn q s) :=
  .next fun h => State.packet_wf (fun _ _ h1 => ite_wf (State.pktError_wf h1) (State.modQ_wf h1)) h

theorem State.skipOne_wf {s : State} {f q d left : Nat} (h : Memory.wf s.mem) : Memory.wf (s.skipOne f q d left).mem := by
  unfold State.skipOne
  split
  · exact h
  · split
    · exact h
    · rename_i t e
      have h1 : Memory.wf t.mem := State.turn_wf h _ e
      split
      · exact State.pktError_wf h1
      · extract_lets t1
        have h2 : Memory.wf t1.mem := State.modQ_wf h1
        split
        · exact State.pktError_wf h2
        · exact State.modQ_wf h2

theorem execPredP_keeps {fn q : Nat} {s : State} : Keeps s (execPredP fn q s) :=
  .next fun h => by
    split
    · split
      · exact State.skipOne_wf h
      · exact h
    · exact State.packet_wf (fun _ _ h1 => State.acquired?_wf (fun _ h2 => State.frontRead_wf (fun _ _ h3 => State.processed_wf
      (State.modQ_wf h3)) h2) h1) h

theorem execLoopP_keeps {fn q : Nat} {s : State} : Keeps s (execLoopP fn q s) :=
  .next fun h => State.packet_wf (fun _ _ h1 => by
    extract_lets _ _ t _
    have h2 : Memory.wf t.mem := State.processed_wf h1
    split
    · exact State.pktError_wf h1
    · split
      · exact State.pktError_wf h1
      · exact State.modQ_wf h2) h

theorem execFfence_keeps {fn q : Nat} {s : State} : Keeps s (execFfence fn q s) :=
  .next fun h => State.packet_wf (fun _ _ h1 => State.acquired?_wf (fun _ h2 => State.processed_wf h2) (State.modQ_wf h1)) h

theorem State.sendWake_wf {s : State} {i : Inst} {q num vcell port : Nat} {v : Word} (h : Memory.wf s.mem) :
    Memory.wf (s.sendWake i q num vcell port v).mem := h

theorem State.keepWake_wf {s : State} {q f id vcell port : Nat} {v : Word} (h : Memory.wf s.mem) :
    Memory.wf (s.keepWake q f id vcell port v).mem := by
  unfold State.keepWake
  exact State.processed_wf h

theorem execWake_keeps {fn q : Nat} {s : State} : Keeps s (execWake fn q s) :=
  .next fun h => State.packet_wf (fun _ _ h1 => by
    extract_lets _ _ _ _ _ t
    have h2 : Memory.wf t.mem := State.processed_wf h1
    split
    · split
      · exact State.processed_wf (State.pktError_wf h1)
      · split
        · exact State.pktError_wf h1
        · exact State.keepWake_wf h1
    · split
      · exact h1
      · split
        · exact State.pktError_wf h1
        · split
          · exact State.keepWake_wf h1
          · exact State.sendWake_wf (State.recordTo_wf h2)) h

theorem execSignal_keeps {fn q : Nat} {s : State} : Keeps s (execSignal fn q s) :=
  .next fun h => State.packet_wf (fun _ _ h1 => State.front_wf (fun _ h2 => badAddress_wf h2) (fun _ _ h2 => by
    extract_lets t
    have h3 : Memory.wf t.mem := State.processed_wf (State.frontWrite_wf h2)
    split <;> exact h3) h1) h

theorem State.waitvRead_wf {s : State} {f q : Nat} {w : List Word} (h : Memory.wf s.mem) : Memory.wf (s.waitvRead f q w).mem := by
  unfold State.waitvRead
  exact State.frontRead_wf (fun _ _ h1 => ite_wf (State.processed_wf h1) (State.modQ_wf h1)) h

theorem execWaitv_keeps {fn q : Nat} {s : State} : Keeps s (execWaitv fn q s) :=
  .next fun h => State.packet_wf (fun _ _ h1 => by
    split
    · exact h1
    · exact State.waitvRead_wf h1) h

theorem execWaitvPoll_keeps {fn q : Nat} {s : State} : Keeps s (execWaitvPoll fn q s) :=
  .next fun h => State.packet_wf (fun _ _ h1 => by
    split
    · split
      · exact State.waitvRead_wf h1
      · exact h1
    · exact h1) h

theorem execTimestamp_keeps {fn q : Nat} {s : State} : Keeps s (execTimestamp fn q s) :=
  .next fun h => State.packet_wf (fun _ _ h1 => State.front_wf (fun _ h2 => badAddress_wf h2) (fun _ _ h2 => State.processed_wf
    (State.frontWrite_wf h2)) h1) h

theorem execNopp_keeps {fn q : Nat} {s : State} : Keeps s (execNopp fn q s) :=
  .next fun h => State.packet_wf (fun _ _ h1 => State.processed_wf h1) h

theorem State.hcopyFrom_wf {s : State} {f q src dst n : Nat} (h : Memory.wf s.mem) : Memory.wf (s.hcopyFrom f q src dst n).mem := by
  induction n generalizing s src dst with
  | zero =>
    unfold State.hcopyFrom
    exact State.processed_wf (State.publishHost_wf h)
  | succ n ih =>
    unfold State.hcopyFrom
    exact State.front_wf (fun _ h1 => badAddress_wf h1) (fun _ _ h1 =>
      State.front_wf (fun _ h2 => badAddress_wf h2) (fun _ _ h2 =>
        ite_wf (State.modQ_wf (ite_wf h2 (State.publish_wf h2))) (ih (State.modQ_wf (State.hostEntry_wf h2)))) h1) h

theorem execHcopy_keeps {fn q : Nat} {s : State} : Keeps s (execHcopy fn q s) :=
  .next fun h => State.packet_wf (fun _ _ h1 => State.hcopyFrom_wf h1) h

theorem execDrain_keeps {fn q : Nat} {s : State} : Keeps s (execDrain fn q s) :=
  .next fun h => State.packet_wf (fun _ _ h1 => State.processed_wf h1) h

/-! ## Launch and placement -/

theorem State.readImage_wf {s : State} {f q gpa : Nat} {bad : State → State} {go : State → List Word → State}
    (hbad : ∀ t, Memory.wf t.mem → Memory.wf (bad t).mem) (hgo : ∀ t v, Memory.wf t.mem → Memory.wf (go t v).mem) (h : Memory.wf s.mem) :
    Memory.wf (s.readImage f q gpa bad go).mem := by
  unfold State.readImage
  exact State.front_wf hbad (fun _ _ h1 => by
    extract_lets
    split
    · exact hgo _ _ h1
    · split
      · exact State.front_wf hbad (fun _ _ h2 => h2) h1
      · exact hgo _ _ h1) h

theorem State.dispatch_wf {s : State} {q : Nat} {i : Inst} {vc : Option Nat} {fail : State → Nat → State} {ok : State → Inst → State}
    (hfail : ∀ t v, Memory.wf t.mem → Memory.wf (fail t v).mem) (hok : ∀ t v, Memory.wf t.mem → Memory.wf (ok t v).mem)
    (h : Memory.wf s.mem) : Memory.wf (s.dispatch q i vc fail ok).mem := by
  unfold State.dispatch
  extract_lets
  split
  · exact hfail _ _ h
  · split
    · exact hfail _ _ h
    · exact State.front_wf (fun _ h1 => hfail _ _ h1) (fun _ _ h1 => by
        extract_lets
        split
        · exact hfail _ _ h1
        · exact State.readImage_wf (fun _ h2 => hfail _ _ h2) (fun _ _ h2 => by
            split
            · exact hfail _ _ h2
            · split
              · split
                · exact hfail _ _ h2
                · split
                  · exact hfail _ _ h2
                  · split
                    · exact hfail _ _ h2
                    · exact hok _ _ h2
              · split
                · exact hfail _ _ h2
                · split
                  · exact hfail _ _ h2
                  · split
                    · exact hfail _ _ h2
                    · exact hok _ _ h2) h1) h

theorem State.enrol_wf {s : State} {i : Inst} (h : Memory.wf s.mem) : Memory.wf (s.enrol i).mem := h

theorem State.refusePost_wf {s : State} {f : Nat} {p : Posted} {code : Nat} (h : Memory.wf s.mem) :
    Memory.wf (s.refusePost f p code).mem := by
  unfold State.refusePost
  exact State.modFn_wf (State.complete_wf (State.putE_wf h))

theorem State.dispatchPost_wf {s : State} {f : Nat} (h : Memory.wf s.mem) : Memory.wf (s.dispatchPost f).mem := by
  unfold State.dispatchPost
  split
  · exact h
  · split
    · exact h
    · split
      · exact h
      · rename_i t e
        have h1 : Memory.wf t.mem := State.turn_wf h _ e
        exact State.dispatch_wf (fun _ _ h2 => State.refusePost_wf h2) (fun _ _ h2 => State.modFn_wf (State.enrol_wf h2)) h1

theorem execLaunch_keeps {fn q : Nat} {s : State} : Keeps s (execLaunch fn q s) :=
  .next fun h => ite_wf (State.dispatchPost_wf h) (State.packet_wf (fun _ _ h1 => by
    extract_lets
    split
    · exact State.modQ_wf h1
    · exact State.dispatch_wf (fun _ _ h2 => State.pktError_wf h2) (fun _ _ h2 => State.processed_wf (State.modQ_wf (State.modFn_wf
      (State.enrol_wf (State.recordTo_wf h2))))) h1) h)

theorem State.stockCup_wf {s : State} {die : Nat} {tenant : BitVec 16} {image : Nat} {g : Seg} (h : Memory.wf s.mem) :
    Memory.wf (s.stockCup die tenant image g).mem := by
  unfold State.stockCup
  split <;> exact h

theorem State.fetchSeg_wf {s : State} {i : Inst} {tenant : BitVec 16} {die : Nat} {g : Seg} (h : Memory.wf s.mem) :
    Memory.wf (s.fetchSeg i tenant die g).1.mem := by
  unfold State.fetchSeg
  dsimp only
  exact State.stockCup_wf h

theorem State.preload_wf {s : State} {i : Inst} {m : Image} {load x : Nat} {place : List Nat} (h : Memory.wf s.mem) :
    Memory.wf (s.preload i m load x place).mem := by
  unfold State.preload
  exact foldl_wf (fun _ _ h1 => by
    split
    · exact State.modCx_wf (State.fetchSeg_wf h1)
    · exact h1) h

theorem execImageFetchDone_keeps {cell ctx : Nat} {s : State} : Keeps s (execImageFetchDone cell ctx s) :=
  .next fun h => by
    extract_lets
    split
    · split
      · split
        · exact State.modCell_wf h
        · exact h
      · exact h
    · split
      · exact h
      · split
        · exact State.serveLevels_wf (State.modCell_wf h)
        · exact h

theorem State.loadCtx_wf {s : State} {i : Inst} {p : Part} {x v c start : Nat} {place : List Nat} {seg : Option Seg}
    {ring : Option Nat} {ahead : Option (List IWord)} (h : Memory.wf s.mem) :
    Memory.wf (s.loadCtx i p x v c start place seg ring ahead).mem := by
  unfold State.loadCtx
  cases seg with
  | none => exact h
  | some g => exact foldl_wf (fun _ _ h1 => State.modSub_wf h1) (State.modCx_wf (State.modCell_wf (State.fetchSeg_wf h)))

theorem State.frontToken_wf {s : State} {c : Nat} {t : Token} {also : Option Nat} (h : Memory.wf s.mem) :
    Memory.wf (s.frontToken c t also).mem := h

theorem State.formEntry_wf {s : State} {i : Inst} {x : Nat} {place : List Nat} {e : ImgEntry} (h : Memory.wf s.mem) :
    OptWf (s.formEntry i x place e) := by
  unfold State.formEntry
  extract_lets
  split
  · exact optWf_none
  · exact optWf_some (State.frontToken_wf (foldl_wf (fun _ _ h1 => State.setSlot_wf h1) (State.modCell_wf h)))

theorem State.formEntries_wf {s : State} {i : Inst} {x : Nat} {place : List Nat} {es : List (ImgEntry × Nat)} (h : Memory.wf s.mem) :
    Memory.wf (s.formEntries i x place es).1.mem := by
  induction es generalizing s with
  | nil => exact h
  | cons e es ih =>
    unfold State.formEntries
    split
    · rename_i t e
      exact ih (State.formEntry_wf h t e)
    · exact ih h

theorem State.formDue_wf {s : State} {i : Inst} (h : Memory.wf s.mem) : Memory.wf (s.formDue i).mem := by
  unfold State.formDue
  split
  · exact h
  · split
    · exact h
    · exact State.modInst_wf (State.formEntries_wf h)

theorem State.enterLoad_wf {s : State} {i : Inst} {m : Image} {load x : Nat} {place starts : List Nat} {aheads : List (Option (List IWord))}
    (h : Memory.wf s.mem) : OptWf (s.enterLoad i m load x place starts aheads) := by
  unfold State.enterLoad
  extract_lets
  split
  · exact optWf_none
  · exact optWf_some (State.modInst_wf (State.formEntries_wf (State.preload_wf (foldl_wf (fun _ _ h1 => State.loadCtx_wf h1)
    (State.modFn_wf h)))))

theorem State.placeInst_wf {s : State} {i : Inst} (h : Memory.wf s.mem) : OptWf (s.placeInst i) := by
  unfold State.placeInst
  extract_lets
  split
  · exact optWf_none
  · split
    · exact optWf_none
    · split
      · exact optWf_none
      · rename_i t e
        have h1 : Memory.wf t.mem := State.enterLoad_wf h _ e
        exact optWf_some h1

theorem State.startScrub_wf {s : State} {p : Nat} {why : ScrubWhy} {out : BitVec 16} (h : Memory.wf s.mem) :
    Memory.wf (s.startScrub p why out).mem := h

theorem State.serveHead_wf {s : State} {part : Nat} {i : Inst} (h : Memory.wf s.mem) : OptWf (s.serveHead part i) := by
  unfold State.serveHead
  extract_lets
  split
  · split
    · exact optWf_none
    · exact optWf_some (State.startScrub_wf h)
  · exact State.placeInst_wf h

theorem execLaunchPlacement_keeps {part : Nat} {s : State} : Keeps s (execLaunchPlacement part s) :=
  .next fun h => ite_wf h (getD_wf (optWf_findSome? fun _ => State.serveHead_wf h) h)

theorem State.startWakes_wf {s : State} {i : Inst} (h : Memory.wf s.mem) : Memory.wf (s.startWakes i).mem := by
  unfold State.startWakes
  exact foldl_wf (fun _ _ h1 => foldl_wf (fun _ _ h2 => by
    split
    · split
      · exact State.sendWake_wf (State.modQ_wf (State.recordTo_wf h2))
      · exact h2
    · exact h2) h1) h

theorem execInstanceStart_keeps {fn id : Nat} {s : State} : Keeps s (execInstanceStart fn id s) :=
  .next fun h => by
    split
    · exact h
    · rename_i t i e
      obtain ⟨u, hu, hm⟩ := Option.bind_eq_some_iff.mp e
      obtain ⟨v, _, hv⟩ := Option.map_eq_some_iff.mp hm
      obtain ⟨j, _, hj⟩ := Option.map_eq_some_iff.mp hu
      have h1 : Memory.wf u.mem := hj ▸ ite_wf (State.formDue_wf h) h
      have h2 : Memory.wf t.mem := (Prod.mk.inj hv).1 ▸ h1
      exact ite_wf h2 (State.startWakes_wf (State.modInst_wf h2))

theorem State.closingRel_wf {s : State} {i : Inst} {c ia region : Nat} {sys : Bool} (h : Memory.wf s.mem) :
    Memory.wf (s.closingRel i c ia region sys).mem := by
  unfold State.closingRel
  split
  · exact h
  · split
    · rename_i t e
      have h1 : Memory.wf t.mem := snd_wf (State.fresh_wf h) e
      exact h1

theorem State.releaseAll_wf {s : State} {i : Inst} (h : Memory.wf s.mem) : Memory.wf (s.releaseAll i).mem := by
  unfold State.releaseAll
  exact foldl_wf (fun _ _ h1 => State.closingRel_wf h1) h

theorem State.freeFrames_wf {s : State} {i : Inst} (h : Memory.wf s.mem) : Memory.wf (s.freeFrames i).mem := by
  unfold State.freeFrames
  exact foldl_wf (fun _ _ h1 => State.modCell_wf h1) h

theorem State.nextLoad_wf {s : State} {i : Inst} {m : Image} (h : Memory.wf s.mem) : OptWf (s.nextLoad i m) := by
  unfold State.nextLoad
  extract_lets _ _ _ t t1 t2 _ _ _
  have h1 : Memory.wf t.mem := foldl_wf (fun _ _ h1 => State.zeroRange_wf _ _ _ h1) h
  have h2 : Memory.wf t1.mem := State.modFn_wf h1
  have h3 : Memory.wf t2.mem := foldl_wf (fun _ _ h3 => State.modCell_wf h3) h2
  split
  · exact State.enterLoad_wf (State.modInst_wf h3)
  · exact optWf_none

theorem execLoadAdvance_keeps {fn id : Nat} {s : State} : Keeps s (execLoadAdvance fn id s) :=
  .next fun h => by
    split
    · exact h
    · split
      · exact h
      · split
        · exact State.formDue_wf h
        · split
          · exact h
          · split
            · exact State.modInst_wf (State.releaseAll_wf (State.freeFrames_wf h))
            · split
              · exact getD_wf (State.nextLoad_wf h) h
              · exact h

theorem execReturnToken_keeps {src ctx : Nat} {s : State} : Keeps s (execReturnToken src ctx s) :=
  .next fun h => by
    split
    · exact h
    · split
      · extract_lets t
        have h1 : Memory.wf t.mem := State.accepted_wf (State.takePacket_wf h)
        split
        · exact h1
        · exact State.modInst_wf h1
      · exact h

theorem State.modPart_wf {s : State} {p : Nat} {f : Part → Part} (h : Memory.wf s.mem) : Memory.wf (s.modPart p f).mem := h

theorem execEndOfGraphRelease_keeps {fn id : Nat} {s : State} : Keeps s (execEndOfGraphRelease fn id s) :=
  .next fun h => by
    split
    · exact h
    · split
      · exact h
      · exact State.modInst_wf (State.releaseAll_wf h)

theorem execInstanceComplete_keeps {fn id : Nat} {s : State} : Keeps s (execInstanceComplete fn id s) :=
  .next fun h => by
    split
    · exact h
    · split
      · exact State.endInst_wf h
      · exact h

theorem State.postReply_wf {s : State} {w : Issuer} {cont v : Word} (h : Memory.wf s.mem) : Memory.wf (s.postReply w cont v).mem := by
  unfold State.postReply
  exact State.frontToken_wf (by
    split
    · exact State.modInst_wf h
    · exact h)

theorem State.post_wf {s : State} {i : Inst} {w : List Word} {prio : Nat} (h : Memory.wf s.mem) : Memory.wf (s.post i w prio).1.mem := by
  unfold State.post
  extract_lets
  split
  · exact h
  · split
    · exact h
    · exact State.modFn_wf h

theorem execQpostRequest_keeps {src ctx : Nat} {s : State} : Keeps s (execQpostRequest src ctx s) :=
  .next fun h => by
    split
    · exact h
    · split
      · extract_lets _ t
        have h1 : Memory.wf t.mem := State.dropOps_wf (State.takePacket_wf h)
        split
        · exact h1
        · split
          · split
            · exact State.opLost_wf (State.lowerOut_wf h1)
            · exact h1
          · extract_lets
            split
            · exact State.postReply_wf (State.post_wf h1)
            · exact State.post_wf h1
      · exact h

theorem State.stirParked_wf {s : State} {f id : Nat} (h : Memory.wf s.mem) : Memory.wf (s.stirParked f id).mem := by
  unfold State.stirParked
  exact foldl_wf (fun _ _ h1 => State.modInst_wf h1) h

theorem State.closeFault_wf {s : State} {f id : Nat} (h : Memory.wf s.mem) : Memory.wf (s.closeFault f id).mem := h

theorem execFaultResume_keeps {fn : Nat} {val : BitVec 64} {s : State} : Keeps s (execFaultResume fn val s) :=
  .next fun h => by
    extract_lets
    split
    · exact h
    · exact State.closeFault_wf (State.unpark_wf (State.stirParked_wf h))

theorem State.abortQueue_wf {s : State} {f q : Nat} (h : Memory.wf s.mem) : Memory.wf (s.abortQueue f q).mem := by
  unfold State.abortQueue
  split
  · split
    · exact State.refusePost_wf h
    · exact h
  · exact State.pktError_wf h

theorem execFaultAbort_keeps {fn : Nat} {val : BitVec 64} {s : State} : Keeps s (execFaultAbort fn val s) :=
  .next fun h => by
    extract_lets _ _ _ t t1
    have h1 : Memory.wf t.mem := State.closeFault_wf (State.stirParked_wf h)
    have h2 : Memory.wf t1.mem := foldl_wf (fun _ _ h2 => ite_wf (State.failAccess_wf h2) h2) h1
    split
    · exact h
    · exact foldl_wf (fun _ _ h3 => State.abortQueue_wf h3) h2

/-! ## Containment regions -/

theorem State.modRegion_wf {s : State} {i : Inst} {r : Nat} {f : Region → Region} (h : Memory.wf s.mem) :
    Memory.wf (s.modRegion i r f).mem := h

theorem execRegionFailureReport_keeps {src ctx : Nat} {s : State} : Keeps s (execRegionFailureReport src ctx s) :=
  .next fun h => by
    extract_lets _ t
    have h1 : Memory.wf t.mem := State.takePacket_wf h
    split
    · exact h
    · split
      · split
        · exact h1
        · split
          · exact h1
          · exact foldl_wf (fun _ _ h2 => State.inject_wf h2) (State.modRegion_wf h1)
      · exact h

theorem State.freeRegionFrames_wf {s : State} {c x r : Nat} (h : Memory.wf s.mem) : Memory.wf (s.freeRegionFrames c x r).mem := by
  unfold State.freeRegionFrames
  exact State.serveLevels_wf (State.modCell_wf h)

theorem State.dropAsking_wf {s : State} {c x r : Nat} (h : Memory.wf s.mem) : Memory.wf (s.dropAsking c x r).mem := by
  unfold State.dropAsking
  exact foldl_wf (fun _ _ h1 => State.countLost_wf (State.lowerOut_wf h1)) (State.modCx_wf h)

theorem State.dropClosing_wf {s : State} {i : Inst} {c r : Nat} (h : Memory.wf s.mem) : Memory.wf (s.dropClosing i c r).mem := h

theorem State.applyFailure_wf {s : State} {i : Inst} {c r : Nat} (h : Memory.wf s.mem) : Memory.wf (s.applyFailure i c r).1.mem := by
  unfold State.applyFailure
  dsimp only
  exact State.freeRegionFrames_wf (State.dropAsking_wf (State.lowerOut_wf (State.dropClosing_wf (State.dropOps_wf (State.modCell_wf
    (foldl_wf (fun _ _ h1 => State.dropMade_wf h1) h))))))

theorem execRegionFailureApply_keeps {cell ctx : Nat} {s : State} : Keeps s (execRegionFailureApply cell ctx s) :=
  .next fun h => by
    extract_lets _ t
    have h1 : Memory.wf t.mem := State.takePacket_wf h
    split
    · exact h
    · split
      · split
        · exact h
        · split
          · exact h1
          · exact foldl_wf (fun _ _ h2 => State.voidTok_wf h2) (State.modRegion_wf (State.applyFailure_wf h1))
      · exact h

theorem State.voidRegion_wf {s : State} {i : Inst} {r : Nat} (h : Memory.wf s.mem) : Memory.wf (s.voidRegion i r).mem := by
  unfold State.voidRegion
  exact foldl_wf (fun _ _ h1 => by
    extract_lets
    split
    · exact h1
    · exact foldl_wf (fun _ _ h2 => State.voidIn_wf (foldl_wf (fun _ _ h3 => State.reservePage_wf h3) h2)) h1) h

theorem execRegionFailedDelivery_keeps {fn id region : Nat} {s : State} : Keeps s (execRegionFailedDelivery fn id region s) :=
  .next fun h => by
    split
    · exact h
    · split
      · exact h
      · split
        · exact h
        · exact State.deliverTo_wf (State.modRegion_wf (State.voidRegion_wf h))

theorem State.closeRegion_wf {s : State} {i : Inst} {r ia : Nat} (h : Memory.wf s.mem) : Memory.wf (s.closeRegion i r ia).mem := by
  unfold State.closeRegion
  exact State.modRegion_wf (foldl_wf (fun _ _ h1 => ite_wf (State.closingRel_wf h1) h1) h)

theorem State.endRegion_wf {s : State} {i : Inst} {r : Nat} {q : Region} {v : Word} (h : Memory.wf s.mem) :
    Memory.wf (s.endRegion i r q v).mem := by
  unfold State.endRegion
  exact foldl_wf (fun _ _ h1 => State.sendAs_wf h1) (State.modInst_wf (foldl_wf (fun _ _ h1 => State.modCx_wf h1) h))

theorem execRegionCloseProceed_keeps {fn id region : Nat} {s : State} : Keeps s (execRegionCloseProceed fn id region s) :=
  .next fun h => by
    split
    · exact h
    · split
      · exact h
      · split
        · exact h
        · split
          · split
            · exact State.endRegion_wf h
            · exact h
          · split
            · exact h
            · split
              · split
                · exact State.closeRegion_wf h
                · exact h
              · split
                · exact State.endRegion_wf h
                · exact h

/-! ## Hops -/

theorem State.loseTraffic_wf {s : State} {ls : List ((Nat × Nat) × Nat × Word)} (h : Memory.wf s.mem) :
    Memory.wf (s.loseTraffic ls).mem := by
  unfold State.loseTraffic
  exact foldl_wf (fun _ _ h1 => State.linkLost_wf h1) h

theorem State.uncount_wf {s : State} {p : Packet} (h : Memory.wf s.mem) : Memory.wf (s.uncount p).mem := by
  unfold State.uncount
  extract_lets t t1
  have h1 : Memory.wf t.mem := State.accepted_wf h
  have h2 : Memory.wf t1.mem := by
    unfold t1
    split
    · exact State.lowerOut_wf h1
    · exact h1
  split
  · exact State.countLost_wf h2
  · exact h2

theorem State.takeLost_wf {s : State} {gone : List Packet} (h : Memory.wf s.mem) : Memory.wf (s.takeLost gone).mem := by
  unfold State.takeLost
  exact foldl_wf (fun _ _ h1 => State.uncount_wf h1) h

theorem State.losePackets_wf {s : State} {gone : List Packet} (h : Memory.wf s.mem) : Memory.wf (s.losePackets gone).mem := by
  unfold State.losePackets
  exact State.loseTraffic_wf (State.takeLost_wf h)

theorem State.crossed_wf {s : State} {n : Nat} {p : Packet} (h : Memory.wf s.mem) : Memory.wf (s.crossed n p).mem := h

theorem State.cross_wf {s : State} {n : Nat} {p : Packet} {h : Hop} {rest : List Hop} (hs : Memory.wf s.mem) :
    Memory.wf (s.cross n p h rest).mem := by
  unfold State.cross
  split
  · exact hs
  · split
    · split
      · exact hs
      · split
        · extract_lets t _
          have h : Memory.wf t.mem := hs
          split <;> exact State.crossed_wf h
        · exact hs
    · split
      · exact State.losePackets_wf hs
      · split
        · exact hs
        · exact State.crossed_wf hs

theorem State.arriveAt_wf {s : State} {n : Nat} {p : Packet} (h : Memory.wf s.mem) : Memory.wf (s.arriveAt n p).mem := by
  unfold State.arriveAt
  split
  · exact State.takeIn_wf h
  · split
    · exact h
    · exact State.takeIn_wf h

theorem State.hopMove_wf {s : State} {n : Nat} (h : Memory.wf s.mem) : Memory.wf (s.hopMove n).mem := by
  unfold State.hopMove
  split
  · exact h
  · split
    · exact h
    · split
      · exact State.arriveAt_wf h
      · split
        · exact h
        · exact State.cross_wf h
      · split
        · split
          · exact h
          · exact State.losePackets_wf h
        · exact h
        · split
          · exact h
          · exact State.cross_wf h

theorem State.flitError_wf {s : State} {n flit : Nat} {payload : List Byte} {side : Word} (h : Memory.wf s.mem) :
    Memory.wf (s.flitError n flit payload side).mem := by
  unfold State.flitError
  split
  · exact h
  · extract_lets
    split <;> exact h

theorem State.failHop_wf {s : State} {cell port : Nat} (h : Memory.wf s.mem) : Memory.wf (s.failHop cell port).mem := by
  unfold State.failHop
  extract_lets _ t t1 t2
  have h1 : Memory.wf t.mem := h
  have h2 : Memory.wf t1.mem := State.errRec_wf (State.addBad_wf h1)
  have h3 : Memory.wf t2.mem := State.losePackets_wf h2
  split
  · exact foldl_wf (fun _ _ h4 => State.linkLost_wf h4) h3
  · exact h3

theorem execHopFailed_keeps {cell port : Nat} {s : State} : Keeps s (execHopFailed cell port s) :=
  .next fun h => ite_wf (State.failHop_wf h) h

/-! ## Hang handling -/

theorem State.writeMap_wf {s : State} {i : Inst} (h : Memory.wf s.mem) : Memory.wf (s.writeMap i).1.mem := by
  unfold State.writeMap
  dsimp only
  split
  · exact h
  · dsimp only
    exact State.modFn_wf (getD_wf (State.wrGuest_wf h) (State.errRec_wf h))

theorem State.hang_wf {s : State} {i : Inst} {st : EndStatus} (h : Memory.wf s.mem) : Memory.wf (s.hang i st).mem := by
  unfold State.hang
  split
  · exact h
  · exact State.modPart_wf h

theorem State.writeMaps_wf {s : State} {es : List (Inst × EndStatus)} (h : Memory.wf s.mem) : Memory.wf (s.writeMaps es).1.mem := by
  induction es generalizing s with
  | nil => exact h
  | cons e es ih => exact ih (State.writeMap_wf h)

theorem State.killHung_wf {s : State} {i : Inst} {st : EndStatus} {off len : Nat} (h : Memory.wf s.mem) :
    Memory.wf (s.killHung i st off len).mem := by
  unfold State.killHung
  exact State.kill_wf h

theorem State.settleHung_wf {s : State} {n : Nat} (h : Memory.wf s.mem) : Memory.wf (s.settleHung n).mem := by
  unfold State.settleHung
  exact State.modPart_wf (foldl_wf (fun _ _ h1 => State.killHung_wf h1) (State.writeMaps_wf h))

theorem execWatchdogExpiry_keeps {fn id : Nat} {s : State} : Keeps s (execWatchdogExpiry fn id s) :=
  .next fun h => by
    split
    · exact h
    · split
      · exact State.hang_wf h
      · exact h

theorem execDeadlockDetect_keeps {fn id : Nat} {s : State} : Keeps s (execDeadlockDetect fn id s) :=
  .next fun h => by
    split
    · exact h
    · extract_lets
      split
      · exact State.hang_wf h
      · exact h

theorem execFreezeTimeout_keeps {part : Nat} {s : State} : Keeps s (execFreezeTimeout part s) :=
  .next fun h => by
    extract_lets
    split
    · exact h
    · split
      · exact h
      · exact foldl_wf (fun _ _ h1 => State.hang_wf h1) h

/-! ## Segments moved -/

theorem State.moveLogs_wf {s : State} {i : Inst} {f : Nat → Nat} (h : Memory.wf s.mem) : Memory.wf (s.moveLogs i f).mem := h

theorem State.redirect_wf {s : State} {i : Inst} {c d : Nat} (h : Memory.wf s.mem) : Memory.wf (s.redirect i c d).mem := h

theorem execSegmentMove_keeps {fn id vcell target : Nat} {s : State} : Keeps s (execSegmentMove fn id vcell target s) :=
  .next fun h => by
    split
    · exact h
    · extract_lets _ _ _ _ _ t t1
      have h1 : Memory.wf t.mem := State.modCell_wf (State.modCell_wf h)
      have h2 : Memory.wf t1.mem := foldl_wf (fun _ _ h2 => State.modCell_wf h2) h1
      split
      · exact h
      · exact State.modInst_wf (State.moveLogs_wf (State.redirect_wf h2))

/-! ## Management commands -/

theorem State.mgmtDone_wf {s : State} {code result : Nat} (h : Memory.wf s.mem) : Memory.wf (s.mgmtDone code result).mem := h

theorem State.command_wf {s : State} {n : Nat} {cmd : Word} {f : State → State} (hf : ∀ t, Memory.wf t.mem → Memory.wf (f t).mem)
    (h : Memory.wf s.mem) : Memory.wf (s.command n cmd f).mem := by
  unfold State.command
  split
  · exact h
  · split
    · exact h
    · extract_lets _ t
      have h1 : Memory.wf t.mem := h
      split
      · exact State.mgmtDone_wf h1
      · exact hf _ h1

theorem State.mgmtWait_wf {s : State} {n k : Nat} (h : Memory.wf s.mem) : Memory.wf (s.mgmtWait n k).mem := h

theorem State.onPart_wf {s : State} {f : Nat → Part → State} (hf : ∀ v w, Memory.wf (f v w).mem) (h : Memory.wf s.mem) :
    Memory.wf (s.onPart f).mem := by
  unfold State.onPart
  split
  · exact State.mgmtDone_wf h
  · exact hf _ _

theorem State.onVf_wf {s : State} {w : Word} {f : Nat → State} (hf : ∀ v, Memory.wf (f v).mem) (h : Memory.wf s.mem) :
    Memory.wf (s.onVf w f).mem := by
  unfold State.onVf
  split
  · exact State.mgmtDone_wf h
  · exact hf _

theorem execGrant_keeps {cmd : BitVec 64} {s : State} : Keeps s (execGrant cmd s) :=
  .next fun h => State.command_wf (fun _ h1 => State.onPart_wf (fun _ _ => ite_wf (State.mgmtDone_wf h1) (State.onVf_wf (fun _ => ite_wf
    (State.mgmtDone_wf h1) (ite_wf (State.mgmtDone_wf h1) (State.mgmtWait_wf (State.startScrub_wf (State.modFn_wf
    (State.modPart_wf h1)))))) h1)) h1) h

theorem State.beginFreeze_wf {s : State} {n : Nat} {halt : Bool} (h : Memory.wf s.mem) : Memory.wf (s.beginFreeze n halt).mem := h

theorem execFreeze_keeps {cmd : BitVec 64} {s : State} : Keeps s (execFreeze cmd s) :=
  .next fun h => State.command_wf (fun _ h1 => State.onPart_wf (fun _ _ => ite_wf (State.mgmtDone_wf h1) (State.mgmtWait_wf
    (State.beginFreeze_wf h1))) h1) h

theorem execHalt_keeps {cmd : BitVec 64} {s : State} : Keeps s (execHalt cmd s) :=
  .next fun h => State.command_wf (fun _ h1 => State.onPart_wf (fun _ _ => ite_wf (State.mgmtDone_wf h1) (State.mgmtWait_wf
    (State.beginFreeze_wf h1))) h1) h

theorem State.thaw_wf {s : State} {n : Nat} (h : Memory.wf s.mem) : Memory.wf (s.thaw n).mem := h

theorem execThaw_keeps {cmd : BitVec 64} {s : State} : Keeps s (execThaw cmd s) :=
  .next fun h => State.command_wf (fun _ h1 => State.onPart_wf (fun _ _ => ite_wf (State.mgmtDone_wf h1) (State.mgmtDone_wf
    (State.thaw_wf h1))) h1) h

theorem State.wrReserved_wf {s : State} {a : Nat} {bs : List Byte} (h : Memory.wf s.mem) : Memory.wf (s.wrReserved a bs).mem := by
  unfold State.wrReserved
  extract_lets t
  have h1 : Memory.wf t.mem := State.wrBytes_wf _ _ _ h
  split <;> exact h1

theorem State.writeSave_wf {s : State} {n addr size : Nat} (h : Memory.wf s.mem) : OptWf (s.writeSave n addr size) := by
  unfold State.writeSave
  extract_lets
  split
  · exact optWf_none
  · exact optWf_some (State.wrReserved_wf h)

theorem execSave_keeps {cmd : BitVec 64} {s : State} : Keeps s (execSave cmd s) :=
  .next fun h => State.command_wf (fun _ h1 => State.onPart_wf (fun _ _ => ite_wf (State.mgmtDone_wf h1) (ite_wf (State.mgmtDone_wf h1) (by
    split
    · exact State.mgmtDone_wf h1
    · rename_i t e
      have h2 : Memory.wf t.mem := State.writeSave_wf h1 _ e
      exact State.mgmtDone_wf h2))) h1) h

theorem State.leave_wf {s : State} {n : Nat} (h : Memory.wf s.mem) : Memory.wf (s.leave n).mem := h

theorem State.abortAll_wf {s : State} {n : Nat} (h : Memory.wf s.mem) : Memory.wf (s.abortAll n).mem := by
  unfold State.abortAll
  exact foldl_wf (fun _ _ h1 => State.endInst_wf h1) h

theorem State.takeback_wf {s : State} {n : Nat} (h : Memory.wf s.mem) : Memory.wf (s.takeback n).mem := by
  unfold State.takeback
  extract_lets
  split
  · exact State.mgmtWait_wf (State.modPart_wf (State.startScrub_wf (State.modPart_wf (State.abortAll_wf h))))
  · split
    · exact State.mgmtDone_wf h
    · rename_i t e
      have h1 : Memory.wf t.mem := State.writeSave_wf h _ e
      exact State.mgmtWait_wf (State.modPart_wf (State.startScrub_wf (State.modPart_wf (State.leave_wf h1))))

theorem execTakeback_keeps {cmd : BitVec 64} {s : State} : Keeps s (execTakeback cmd s) :=
  .next fun h => State.command_wf (fun _ h1 => State.onPart_wf (fun _ _ => ite_wf (State.mgmtDone_wf h1) (ite_wf (State.takeback_wf h1)
    (ite_wf (State.mgmtWait_wf (State.beginFreeze_wf h1)) (State.mgmtDone_wf h1)))) h1) h

theorem execFreezeComplete_keeps {part : Nat} {s : State} : Keeps s (execFreezeComplete part s) :=
  .next fun h => by
    extract_lets _ t t1
    have h1 : Memory.wf t.mem := State.settleHung_wf (State.modPart_wf h)
    have h2 : Memory.wf t1.mem := State.takeback_wf h1
    split
    · exact h
    · split
      · split
        · exact State.thaw_wf h1
        · split
          · split
            · exact h2
            · exact State.thaw_wf h2
          · split
            · exact State.mgmtDone_wf h1
            · exact State.thaw_wf h1
      · exact State.thaw_wf h1

theorem State.fillCell_wf {s : State} {n : Nat} {m : SaveImage} {is : List (Inst × List Nat)} {c : Nat} (h : Memory.wf s.mem) :
    Memory.wf (s.fillCell n m is c).mem := h

theorem State.enterSaved_wf {s : State} {n : Nat} {m : SaveImage} {i : Inst} {cs : List Nat} (h : Memory.wf s.mem) :
    Memory.wf (s.enterSaved n m i cs).mem := by
  unfold State.enterSaved
  extract_lets _ _ t _ t1
  have h1 : Memory.wf t.mem := State.moveLogs_wf h
  have h2 : Memory.wf t1.mem := h1
  split
  · exact State.modPart_wf h2
  · exact h2

theorem State.restoreAll_wf {s : State} {n : Nat} {m : SaveImage} (h : Memory.wf s.mem) : OptWf (s.restoreAll n m) := by
  unfold State.restoreAll
  intro t e
  obtain ⟨is, _, rfl⟩ := Option.map_eq_some_iff.mp e
  exact foldl_wf (fun _ _ h1 => State.enterSaved_wf h1) (foldl_wf (fun _ _ h1 => State.fillCell_wf h1) h)

theorem execRestore_keeps {cmd : BitVec 64} {s : State} : Keeps s (execRestore cmd s) :=
  .next fun h => State.command_wf (fun _ h1 => State.onPart_wf (fun _ _ => ite_wf (State.mgmtDone_wf h1) (ite_wf (State.mgmtDone_wf h1) (by
    split
    · exact State.mgmtDone_wf h1
    · extract_lets
      split
      · exact State.mgmtDone_wf h1
      · split
        · exact State.mgmtDone_wf h1
        · rename_i t e
          have h2 : Memory.wf t.mem := State.restoreAll_wf h1 _ e
          exact State.mgmtDone_wf (State.modPart_wf h2)))) h1) h

theorem State.setKey_wf {s : State} {slot vf addr : Nat} (h : Memory.wf s.mem) : Memory.wf (s.setKey slot vf addr).mem := h

theorem execKeyload_keeps {cmd : BitVec 64} {s : State} : Keeps s (execKeyload cmd s) :=
  .next fun h => State.command_wf (fun _ h1 => by
    extract_lets
    split
    · exact State.mgmtDone_wf h1
    · split
      · exact State.mgmtDone_wf h1
      · split
        · exact State.mgmtWait_wf h1
        · exact State.setKey_wf h1) h

theorem execKeyclear_keeps {cmd : BitVec 64} {s : State} : Keeps s (execKeyclear cmd s) := by
  unfold execKeyclear
  refine .next fun h => State.command_wf (fun t h1 => ?_) h
  dsimp only
  split
  · exact State.mgmtDone_wf h1
  · split
    · exact State.mgmtWait_wf h1
    · exact State.mgmtDone_wf h1

theorem execInvalidate_keeps {cmd : BitVec 64} {s : State} : Keeps s (execInvalidate cmd s) := by
  unfold execInvalidate
  refine .next fun h => State.command_wf (fun t h1 => State.onVf_wf (fun _ => ?_) h1) h
  split
  · exact State.mgmtDone_wf h1
  · refine State.mgmtWait_wf ?_
    dsimp only
    exact State.publishHost_wf h1

theorem State.settleInvalidate_wf {s : State} {vf : Nat} (h : Memory.wf s.mem) : Memory.wf (s.settleInvalidate vf).mem := by
  unfold State.settleInvalidate
  split
  · split
    · exact h
    · exact State.mgmtDone_wf h
  · split
    · extract_lets t _
      have h1 : Memory.wf t.mem := State.dropXlate_wf h
      split
      · exact State.mgmtDone_wf h1
      · exact h1
    · exact h

theorem execDirty_keeps {cmd : BitVec 64} {s : State} : Keeps s (execDirty cmd s) :=
  .next fun h => State.command_wf (fun _ h1 => State.onVf_wf (fun _ => ite_wf (State.mgmtDone_wf h1) (State.mgmtWait_wf h1)) h1) h

theorem State.closeRound_wf {s : State} {vf : Nat} (h : Memory.wf s.mem) : Memory.wf (s.closeRound vf).mem := h

theorem State.settleMgmt_wf {s : State} (h : Memory.wf s.mem) : Memory.wf (s.settleMgmt).mem := by
  unfold State.settleMgmt
  split
  · split
    · exact h
    · exact State.setKey_wf h
  · split
    · exact h
    · exact State.mgmtDone_wf h
  · exact State.settleInvalidate_wf h
  · split
    · exact h
    · exact State.closeRound_wf h
  · exact h

theorem execExportq_keeps {cmd : BitVec 64} {s : State} : Keeps s (execExportq cmd s) :=
  .next fun h => State.command_wf (fun _ h1 => State.onVf_wf (fun _ => ite_wf (State.mgmtDone_wf h1) (ite_wf (State.mgmtDone_wf h1)
    (State.mgmtDone_wf (State.wrBytes_wf _ _ _ h1)))) h1) h

theorem State.importq_wf {s : State} {vf a : Nat} (h : Memory.wf s.mem) : Memory.wf (s.importq vf a).mem := h

theorem execImportq_keeps {cmd : BitVec 64} {s : State} : Keeps s (execImportq cmd s) :=
  .next fun h => State.command_wf (fun _ h1 => State.onVf_wf (fun _ => by
    extract_lets
    split
    · exact State.mgmtDone_wf h1
    · split
      · exact State.mgmtDone_wf h1
      · split
        · exact State.mgmtDone_wf h1
        · split
          · exact State.mgmtDone_wf h1
          · exact State.mgmtDone_wf (State.importq_wf h1)) h1) h

theorem execShadowadd_keeps {cmd : BitVec 64} {s : State} : Keeps s (execShadowadd cmd s) :=
  .next fun h => State.command_wf (fun _ h1 => State.onVf_wf (fun _ => by
    extract_lets _ _ t
    have h2 : Memory.wf t.mem := foldl_wf (fun _ _ h2 => State.zeroRange_wf _ _ _ h2) h1
    split
    · exact State.mgmtDone_wf h1
    · split
      · exact State.mgmtDone_wf h1
      · exact State.mgmtDone_wf (State.modFn_wf h2)) h1) h

theorem execShadowtake_keeps {cmd : BitVec 64} {s : State} : Keeps s (execShadowtake cmd s) :=
  .next fun h => State.command_wf (fun _ h1 => State.onVf_wf (fun _ => by
    extract_lets _ _ t
    have h2 : Memory.wf t.mem := State.modFn_wf h1
    split
    · exact State.mgmtDone_wf h1
    · exact State.mgmtDone_wf (State.wrBytes_wf _ _ _ h2)) h1) h

theorem execRingpool_keeps {cmd : BitVec 64} {s : State} : Keeps s (execRingpool cmd s) :=
  .next fun h => State.command_wf (fun _ h1 => State.onVf_wf (fun _ => by
    extract_lets _ _ _ _ t
    have h2 : Memory.wf t.mem := State.modFn_wf h1
    split
    · exact State.mgmtDone_wf h2
    · split
      · exact State.mgmtDone_wf h1
      · exact State.mgmtDone_wf (State.modFn_wf h1)) h1) h

theorem execMgmtBadCommand_keeps {cmd : BitVec 64} {s : State} : Keeps s (execMgmtBadCommand cmd s) :=
  .next fun h => by
    extract_lets
    split
    · exact h
    · exact State.command_wf (fun _ h1 => State.mgmtDone_wf h1) h

theorem State.scrubbed_wf {s : State} {p : Part} {keys : Bool} (h : Memory.wf s.mem) : Memory.wf (s.scrubbed p keys).mem := h

theorem State.toFree_wf {s : State} {n : Nat} {p : Part} (h : Memory.wf s.mem) : Memory.wf (s.toFree n p).mem := h

theorem State.endFlr_wf {s : State} {f : Nat} (h : Memory.wf s.mem) : Memory.wf (s.endFlr f).mem := by
  unfold State.endFlr
  split
  · exact h
  · exact State.modFn_wf h

theorem execScrubDone_keeps {part : Nat} {s : State} : Keeps s (execScrubDone part s) :=
  .next fun h => by
    extract_lets
    split
    · exact h
    · split
      · exact h
      · extract_lets _ _ t t1 _ t2
        have h1 : Memory.wf t.mem := State.scrubbed_wf h
        have h2 : Memory.wf t1.mem := h1
        have h3 : Memory.wf t2.mem := State.modPart_wf h2
        split
        · exact State.mgmtDone_wf (State.modPart_wf h3)
        · exact State.mgmtDone_wf (State.toFree_wf h3)
        · exact State.endFlr_wf (State.toFree_wf h3)
        · exact State.modInst_wf (State.modPart_wf h3)

theorem execSarSign_keeps {part : Nat} {s : State} : Keeps s (execSarSign part s) :=
  .next fun h => by
    extract_lets
    split
    · exact h
    · exact State.modPart_wf h

theorem State.dropInsts_wf {s : State} {f : Nat} (h : Memory.wf s.mem) : Memory.wf (s.dropInsts f).mem := by
  unfold State.dropInsts
  exact foldl_wf (fun _ _ h1 => State.releaseInst_wf h1) h

theorem State.flrPart_wf {s : State} {n pages : Nat} (h : Memory.wf s.mem) : Memory.wf (s.flrPart n pages).mem := by
  unfold State.flrPart
  exact State.modPart_wf (State.startScrub_wf (State.modPart_wf (ite_wf (State.mgmtDone_wf h) h)))

theorem State.flrParts_wf {s : State} {ns : List Nat} {pages : Nat} (h : Memory.wf s.mem) : Memory.wf (s.flrParts ns pages).mem := by
  induction ns generalizing s pages with
  | nil => exact h
  | cons n ns ih => exact ih (State.flrPart_wf h)

theorem State.finishFlr_wf {s : State} {f : Nat} (h : Memory.wf s.mem) : Memory.wf (s.finishFlr f).mem := by
  unfold State.finishFlr
  extract_lets t t1 t2 t3 _ t4 t5 t6
  have h1 : Memory.wf t1.mem := by
    dsimp only [t1]
    exact State.dropInsts_wf h
  have h2 : Memory.wf t2.mem := foldl_wf (fun _ _ h1 => State.reservePage_wf h1) h1
  have h3 : Memory.wf t3.mem := h2
  have h4 : Memory.wf t4.mem := foldl_wf (fun _ _ h1 => State.zeroRange_wf _ _ _ h1) h3
  have h6 : Memory.wf t6.mem := by
    refine State.modFn_wf ?_
    dsimp only [t5]
    exact h4
  exact State.endFlr_wf (State.flrParts_wf h6)

theorem State.settleFlrs_wf {s : State} (h : Memory.wf s.mem) : Memory.wf (s.settleFlrs).mem := by
  unfold State.settleFlrs
  exact foldl_wf (fun _ _ h1 => State.finishFlr_wf h1) h

theorem execFlr_keeps {fn : Nat} {s : State} : Keeps s (execFlr fn s) :=
  .next fun h => ite_wf h (State.settleFlrs_wf (State.modFn_wf h))

/-! ## Power, links and time -/

theorem State.unpowered_wf {s : State} : Memory.wf s.unpowered.mem := rfl

theorem State.enterUntrained_wf {s : State} (h : Memory.wf s.mem) : Memory.wf (s.enterUntrained).mem := by
  unfold State.enterUntrained
  exact foldl_wf (fun _ _ h1 => ite_wf h1 (State.addBad_wf h1)) h

theorem execPowerUp_keeps {s : State} : Keeps s (execPowerUp s) :=
  .next fun h => ite_wf h (State.enterUntrained_wf State.unpowered_wf)

theorem execPowerLoss_keeps {s : State} : Keeps s (execPowerLoss s) :=
  .next fun _ => State.unpowered_wf

theorem execThermalCutoff_keeps {s : State} : Keeps s (execThermalCutoff s) :=
  .next fun _ => State.unpowered_wf

theorem execThrottle_keeps {die eighths : Nat} {s : State} : Keeps s (execThrottle die eighths s) :=
  .next fun h => by
    split <;> exact h

theorem State.setRing_wf {s : State} {l : Nat} {v : RingLink} (h : Memory.wf s.mem) : Memory.wf (s.setRing l v).mem := by
  unfold State.setRing
  split <;> exact h

theorem State.cutDie_wf {s : State} {die : Nat} (h : Memory.wf s.mem) : Memory.wf (s.cutDie die).mem := by
  unfold State.cutDie
  split
  · exact h
  · exact foldl_wf (fun _ _ h1 => State.linkLost_wf h1) (State.addBad_wf (State.addBad_wf (State.addBad_wf h)))

theorem State.loseRing_wf {s : State} {l : Nat} (h : Memory.wf s.mem) : Memory.wf (s.loseRing l).mem := by
  unfold State.loseRing
  split
  · exact h
  · dsimp only
    exact State.losePackets_wf (State.cutDie_wf (State.cutDie_wf (State.errRec_wf (State.addBad_wf (State.setRing_wf h)))))

theorem execRingLinkLost_keeps {die : Nat} {s : State} : Keeps s (execRingLinkLost die s) :=
  .next fun h => ite_wf (State.loseRing_wf h) h

theorem execRingLaneLost_keeps {die dir lane : Nat} {s : State} : Keeps s (execRingLaneLost die dir lane s) :=
  .next fun h => ite_wf h (by
    extract_lets _ _ _ t t1
    have h1 : Memory.wf t.mem := h
    have h2 : Memory.wf t1.mem := State.errRec_wf (State.addBad_wf h1)
    split
    · exact State.loseRing_wf h2
    · split
      · exact State.setRing_wf h2
      · exact h2)

theorem execRingRetrainDone_keeps {die : Nat} {s : State} : Keeps s (execRingRetrainDone die s) :=
  .next fun h => ite_wf (State.setRing_wf h) h

theorem State.exhaust_wf {s : State} {cell port : Nat} (h : Memory.wf s.mem) : Memory.wf (s.exhaust cell port).mem := by
  unfold State.exhaust
  split
  · exact State.loseRing_wf h
  · exact State.loseRing_wf h
  · split
    · exact State.failHop_wf h
    · exact h
  · split
    · exact State.failHop_wf h
    · exact h

theorem execHopRetry_keeps {cell port : Nat} {s : State} : Keeps s (execHopRetry cell port s) :=
  .next fun h => by
    extract_lets
    split
    · exact h
    · extract_lets
      split
      · exact h
      · split
        · exact State.countCell_wf h
        · exact State.exhaust_wf h

theorem State.setPort_wf {s : State} {p : Nat} {v : SeptordPort} (h : Memory.wf s.mem) : Memory.wf (s.setPort p v).mem := by
  unfold State.setPort
  split <;> exact h

theorem execSeptordResend_keeps {port : Nat} {s : State} : Keeps s (execSeptordResend port s) :=
  .next fun h => by
    extract_lets
    split <;> exact h

theorem execSeptordPortLost_keeps {port : Nat} {s : State} : Keeps s (execSeptordPortLost port s) :=
  .next fun h => ite_wf h (State.losePeers_wf (foldl_wf (fun _ _ h1 => State.sendPeer_wf h1) (foldl_wf
    (fun _ _ h1 => State.modPiece_wf h1) (State.errRec_wf (State.addBad_wf (State.setLayer_wf (State.setPort_wf h)))))))

theorem execSeptordLaneLost_keeps {port lane : Nat} {s : State} : Keeps s (execSeptordLaneLost port lane s) :=
  .next fun h => ite_wf h (State.errRec_wf (State.addBad_wf (State.setPort_wf h)))

theorem execResultCommit_keeps {cell : Nat} {s : State} : Keeps s (execResultCommit cell s) :=
  .next fun h => by
    extract_lets t
    have h1 : Memory.wf t.mem := h
    split
    · exact h1
    · exact State.modCell_wf h1

theorem State.poisonFiring_wf {s : State} {c x r base : Nat} (h : Memory.wf s.mem) : Memory.wf (s.poisonFiring c x r base).mem := by
  unfold State.poisonFiring
  split
  · exact h
  · extract_lets
    split
    · exact State.take_wf h
    · exact State.kill_wf h

theorem State.recompute_wf {s : State} {c : Nat} (h : Memory.wf s.mem) : Memory.wf (s.recompute c).mem := by
  unfold State.recompute
  exact foldl_wf (fun _ _ h1 => State.poisonFiring_wf h1) (ite_wf h (State.modCell_wf h))

theorem execStrikeRollback_keeps {die zone : Nat} {s : State} : Keeps s (execStrikeRollback die zone s) :=
  .next fun h => ite_wf h (foldl_wf (fun _ _ h1 => State.recompute_wf h1) (State.errRec_wf (foldl_wf
    (fun _ _ h1 => State.countCell_wf h1) h)))

theorem execTimeLock_keeps {ref : BitVec 64} {s : State} : Keeps s (execTimeLock ref s) :=
  .next fun h => by
    extract_lets
    split
    · exact h
    · split <;> exact h

theorem execTimeLockLost_keeps {s : State} : Keeps s (execTimeLockLost s) :=
  .next fun h => h

theorem State.followLinked_wf {s : State} {t : Word} (h : Memory.wf s.mem) : Memory.wf (s.followLinked t).mem := by
  unfold State.followLinked
  split
  · exact h
  · split
    · exact h
    · split <;> exact h

theorem execCkptStart_keeps {val : BitVec 64} {s : State} : Keeps s (execCkptStart val s) :=
  .next fun h => ite_wf h h

theorem State.ckptPage_wf {s : State} (h : Memory.wf s.mem) : Memory.wf (s.ckptPage).mem := by
  unfold State.ckptPage
  split
  · split
    · exact State.streamed_wf h
    · exact h
  · exact h

theorem execCkptEnd_keeps {ok : Bool} {s : State} : Keeps s (execCkptEnd ok s) :=
  .next fun h => ite_wf h (ite_wf (ite_wf h h) (ite_wf h h))

/-! ## Events from outside -/

theorem State.cellErr_wf {s : State} {kind c x : Nat} {a : Word} (h : Memory.wf s.mem) : Memory.wf (s.cellErr kind c x a).mem := by
  unfold State.cellErr
  exact State.errRec_wf h

theorem State.badSlot_wf {s : State} {c slot : Nat} (h : Memory.wf s.mem) : Memory.wf (s.badSlot c slot).mem := by
  unfold State.badSlot
  dsimp only
  split
  · exact h
  · exact State.poisonFiring_wf h

theorem State.badVec_wf {s : State} {c reg w : Nat} (h : Memory.wf s.mem) : Memory.wf (s.badVec c reg w).mem := by
  unfold State.badVec
  split
  · exact State.modCell_wf (State.modCell_wf h)
  · exact h

theorem State.badGranule_wf {s : State} {g mask : Nat} (h : Memory.wf s.mem) : Memory.wf (s.badGranule g mask).mem := h

theorem State.badWalk_wf {s : State} {die idx : Nat} (h : Memory.wf s.mem) : Memory.wf (s.badWalk die idx).mem := by
  unfold State.badWalk
  split <;> exact h

theorem State.corrected_wf {s : State} {c kind : Nat} {a : Word} (h : Memory.wf s.mem) : Memory.wf (s.corrected c kind a).mem := by
  unfold State.corrected
  extract_lets
  split
  · exact h
  · exact State.cellErr_wf h

theorem State.grantQueues_wf {s : State} {f n : Nat} (h : Memory.wf s.mem) : Memory.wf (s.grantQueues f n).mem := by
  unfold State.grantQueues
  extract_lets
  split
  · exact h
  · exact State.modFn_wf h

theorem State.bayFails_wf {s : State} {n b : Nat} (h : Memory.wf s.mem) : Memory.wf (s.bayFails n b).mem := by
  unfold State.bayFails
  extract_lets
  split
  · exact h
  · exact State.addBad_wf (State.modPart_wf h)

theorem State.outside_wf {s : State} {o : Outside} (h : Memory.wf s.mem) : Memory.wf (s.outside o).mem := by
  unfold State.outside
  split
  · exact State.errRec_wf (State.badGranule_wf h)
  · exact State.errRec_wf (State.modSub_wf h)
  · exact State.cellErr_wf (State.modTile_wf h)
  · exact State.badSlot_wf (State.cellErr_wf h)
  · exact State.cellErr_wf (State.modCell_wf h)
  · exact State.cellErr_wf (State.modCell_wf h)
  · exact State.badVec_wf (State.cellErr_wf h)
  · exact State.cellErr_wf (State.modCell_wf h)
  · exact State.cellErr_wf (State.modCell_wf h)
  · exact State.poisonFiring_wf (State.cellErr_wf h)
  · split
    · exact State.corrected_wf h
    · exact h
  · exact State.cellErr_wf (State.modCell_wf h)
  · exact State.errRec_wf (State.badWalk_wf h)
  · extract_lets t
    have h1 : Memory.wf t.mem := State.cellErr_wf h
    split
    · exact State.poisonFiring_wf h1
    · exact h1
  · exact State.cellErr_wf (State.modCell_wf h)
  · exact h
  · exact State.modTile_wf h
  · exact State.flitError_wf h
  · exact h
  · exact State.septordAck_wf h
  · exact h
  · exact State.ckptPage_wf h
  · exact State.followLinked_wf h
  · split
    · exact h
    · exact State.modFn_wf h
  · exact State.bayFails_wf h
  · exact State.grantQueues_wf h
  · split <;> exact h
  · exact State.peerPublish_wf h
  · exact State.peerLoad_wf h
  · exact State.peerData_wf h
  · exact State.peerApplied_wf h

/-! ## Time -/

theorem State.tick_wf {s : State} {n : Nat} (h : Memory.wf s.mem) : Memory.wf (s.tick n).mem := by
  unfold State.tick
  split <;> exact h

/-! ## Every step -/

theorem exec_keeps (i : Instr) (s : State) : Keeps s (exec i s) := by
  cases i with
  | nop g => exact execNop_keeps (_g := g)
  | add => exact execAdd_keeps
  | sub => exact execSub_keeps
  | mul => exact execMul_keeps
  | mulh => exact execMulh_keeps
  | div => exact execDiv_keeps
  | rem => exact execRem_keeps
  | and => exact execAnd_keeps
  | or => exact execOr_keeps
  | xor => exact execXor_keeps
  | andn => exact execAndn_keeps
  | shl => exact execShl_keeps
  | shr => exact execShr_keeps
  | sra => exact execSra_keeps
  | rol => exact execRol_keeps
  | min => exact execMin_keeps
  | max => exact execMax_keeps
  | clz => exact execClz_keeps
  | popc => exact execPopc_keeps
  | extr => exact execExtr_keeps
  | ins => exact execIns_keeps
  | sel => exact execSel_keeps
  | cmp => exact execCmp_keeps
  | plog => exact execPlog_keeps
  | addi => exact execAddi_keeps
  | andi => exact execAndi_keeps
  | ori => exact execOri_keeps
  | xori => exact execXori_keeps
  | shfi => exact execShfi_keeps
  | cmpi => exact execCmpi_keeps
  | movi => exact execMovi_keeps
  | movk => exact execMovk_keeps
  | fadd => exact execFadd_keeps
  | fsub => exact execFsub_keeps
  | fmul => exact execFmul_keeps
  | fma => exact execFma_keeps
  | fdiv => exact execFdiv_keeps
  | fsqrt => exact execFsqrt_keeps
  | fmin _ _ _ _ r => exact execFmin_keeps (_r := r)
  | fmax _ _ _ _ r => exact execFmax_keeps (_r := r)
  | fcmp => exact execFcmp_keeps
  | fcvt => exact execFcvt_keeps
  | fclass => exact execFclass_keeps
  | fld => exact execFld_keeps
  | fst => exact execFst_keeps
  | fclr => exact execFclr_keeps
  | ftst => exact execFtst_keeps
  | send => exact execSend_keeps
  | sendd => exact execSendd_keeps
  | mkc => exact execMkc_keeps
  | swch => exact execSwch_keeps
  | falloc => exact execFalloc_keeps
  | ffree => exact execFfree_keeps
  | join => exact execJoin_keeps
  | brf => exact execBrf_keeps
  | fend => exact execFend_keeps
  | tnew =>
    dsimp only [exec]
    exact execTnew_keeps
  | tseal => exact execTseal_keeps
  | tdup => exact execTdup_keeps
  | tdrop => exact execTdrop_keeps
  | tinfo => exact execTinfo_keeps
  | hld => exact execHld_keeps
  | hst => exact execHst_keeps
  | tchk => exact execTchk_keeps
  | ldg => exact execLdg_keeps
  | stg => exact execStg_keeps
  | ldch => exact execLdch_keeps
  | amo => exact execAmo_keeps
  | rel => exact execRel_keeps
  | acq => exact execAcq_keeps
  | acqa => exact execAcqa_keeps
  | bars => exact execBars_keeps
  | bara => exact execBara_keeps
  | watch => exact execWatch_keeps
  | wdrop => exact execWdrop_keeps
  | time => exact execTime_keeps
  | cropen => exact execCropen_keeps
  | crclose => exact execCrclose_keeps
  | trap => exact execTrap_keeps
  | mfc => exact execMfc_keeps
  | mtc => exact execMtc_keeps
  | scrubrd => exact execScrubrd_keeps
  | qpost => exact execQpost_keeps
  | perf => exact execPerf_keeps
  | tload => exact execTload_keeps
  | tstore => exact execTstore_keeps
  | tcopy => exact execTcopy_keeps
  | tgath => exact execTgath_keeps
  | tscat => exact execTscat_keeps
  | tfill => exact execTfill_keeps
  | mwld => exact execMwld_keeps
  | macc => exact execMacc_keeps
  | mrun => exact execMrun_keeps
  | mdrain => exact execMdrain_keeps
  | rset => exact execRset_keeps
  | rfeed => exact execRfeed_keeps
  | vrun => exact execVrun_keeps
  | vloop => exact execVloop_keeps
  | vld => exact execVld_keeps
  | vst => exact execVst_keeps
  | vmov => exact execVmov_keeps
  | vmovs => exact execVmovs_keeps
  | viota => exact execViota_keeps
  | vsel => exact execVsel_keeps
  | vadd => exact execVadd_keeps
  | vsub => exact execVsub_keeps
  | vmul => exact execVmul_keeps
  | vmad => exact execVmad_keeps
  | vand => exact execVand_keeps
  | vor => exact execVor_keeps
  | vxor => exact execVxor_keeps
  | vshl => exact execVshl_keeps
  | vshr => exact execVshr_keeps
  | vmin => exact execVmin_keeps
  | vmax => exact execVmax_keeps
  | vabs => exact execVabs_keeps
  | vcmp => exact execVcmp_keeps
  | vfadd => exact execVfadd_keeps
  | vfsub => exact execVfsub_keeps
  | vfmul => exact execVfmul_keeps
  | vfma => exact execVfma_keeps
  | vfmin => exact execVfmin_keeps
  | vfmax => exact execVfmax_keeps
  | vfabs => exact execVfabs_keeps
  | vfcmp => exact execVfcmp_keeps
  | vrcp => exact execVrcp_keeps
  | vrsq => exact execVrsq_keeps
  | vexp2 => exact execVexp2_keeps
  | vlog2 => exact execVlog2_keeps
  | vsin => exact execVsin_keeps
  | vcos => exact execVcos_keeps
  | vtanh => exact execVtanh_keeps
  | vcvt => exact execVcvt_keeps
  | vpack => exact execVpack_keeps
  | vunpk => exact execVunpk_keeps
  | vbscl => exact execVbscl_keeps
  | vqnt => exact execVqnt_keeps
  | vred => exact execVred_keeps
  | vscan => exact execVscan_keeps
  | vperm => exact execVperm_keeps
  | vbcst => exact execVbcst_keeps
  | vsld => exact execVsld_keeps
  | vbfly => exact execVbfly_keeps
  | vtwid => exact execVtwid_keeps
  | vcmul => exact execVcmul_keeps
  | vmset => exact execVmset_keeps
  | vmsetZero => exact execVmsetZero_keeps
  | vmsetOnes => exact execVmsetOnes_keeps
  | vmlog => exact execVmlog_keeps
  | vend => exact execVend_keeps
  | illegalOp => exact execIllegalOp_keeps
  | tokenArrival => exact execTokenArrival_keeps
  | spillReturn => exact execSpillReturn_keeps
  | matcherTake => exact execMatcherTake_keeps
  | imageFetchDone => exact execImageFetchDone_keeps
  | laneTake => exact execLaneTake_keeps
  | readyPromotion => exact execReadyPromotion_keeps
  | laneStallEnd => exact execLaneStallEnd_keeps
  | engineQueueRoom => exact execEngineQueueRoom_keeps
  | fallocRequest => exact execFallocRequest_keeps
  | ffreeMessage => exact execFfreeMessage_keeps
  | countMessage => exact execCountMessage_keeps
  | heapBlockZero => exact execHeapBlockZero_keeps
  | remoteHeapRequest => exact execRemoteHeapRequest_keeps
  | producerReply => exact execProducerReply_keeps
  | barrierMessage => exact execBarrierMessage_keeps
  | wakeValue => exact execWakeValue_keeps
  | regionIdRecord => exact execRegionIdRecord_keeps
  | copyTake => exact execCopyTake_keeps
  | matrixTake => exact execMatrixTake_keeps
  | mwldBankFree => exact execMwldBankFree_keeps
  | accumulatorHazardEnd => exact execAccumulatorHazardEnd_keeps
  | drainRowAccepted => exact execDrainRowAccepted_keeps
  | reducerTake => exact execReducerTake_keeps
  | reducerRow => exact execReducerRow_keeps
  | vrunTake => exact execVrunTake_keeps
  | streamTokenArrival => exact execStreamTokenArrival_keeps
  | vldRowReady => exact execVldRowReady_keeps
  | kernelEnd => exact execKernelEnd_keeps
  | commandComplete => exact execCommandComplete_keeps
  | logEntryAppend => exact execLogEntryAppend_keeps
  | storeRingSpace => exact execStoreRingSpace_keeps
  | logFull => exact execLogFull_keeps
  | publishMessage => exact execPublishMessage_keeps
  | segmentReplay => exact execSegmentReplay_keeps
  | shadowPageReturn => exact execShadowPageReturn_keeps
  | loadServe => exact execLoadServe_keeps
  | scStoreApply => exact execScStoreApply_keeps
  | amoPerform => exact execAmoPerform_keeps
  | ldchHop => exact execLdchHop_keeps
  | acqComplete => exact execAcqComplete_keeps
  | acqaMarker => exact execAcqaMarker_keeps
  | releaseAccepted => exact execReleaseAccepted_keeps
  | peerStoreArrival => exact execPeerStoreArrival_keeps
  | peerAck => exact execPeerAck_keeps
  | endOfGraphRelease => exact execEndOfGraphRelease_keeps
  | translationWalk => exact execTranslationWalk_keeps
  | hostWindowWrite => exact execHostWindowWrite_keeps
  | hostWindowRead => exact execHostWindowRead_keeps
  | qNotify => exact execQNotify_keeps
  | qEnable => exact execQEnable_keeps
  | qDisable => exact execQDisable_keeps
  | qReset => exact execQReset_keeps
  | ringRestart => exact execRingRestart_keeps
  | faultResume => exact execFaultResume_keeps
  | faultAbort => exact execFaultAbort_keeps
  | registerWrite => exact execRegisterWrite_keeps
  | queueFetch => exact execQueueFetch_keeps
  | launch => exact execLaunch_keeps
  | ibcall => exact execIbcall_keeps
  | predP => exact execPredP_keeps
  | loopP => exact execLoopP_keeps
  | ffence => exact execFfence_keeps
  | wake => exact execWake_keeps
  | signal => exact execSignal_keeps
  | waitv => exact execWaitv_keeps
  | waitvPoll => exact execWaitvPoll_keeps
  | timestamp => exact execTimestamp_keeps
  | nopp => exact execNopp_keeps
  | hcopy => exact execHcopy_keeps
  | drain => exact execDrain_keeps
  | barWaitEnd => exact execBarWaitEnd_keeps
  | launchPlacement => exact execLaunchPlacement_keeps
  | instanceStart => exact execInstanceStart_keeps
  | segmentMove => exact execSegmentMove_keeps
  | loadAdvance => exact execLoadAdvance_keeps
  | returnToken => exact execReturnToken_keeps
  | instanceComplete => exact execInstanceComplete_keeps
  | qpostRequest => exact execQpostRequest_keeps
  | grant => exact execGrant_keeps
  | takeback => exact execTakeback_keeps
  | freeze => exact execFreeze_keeps
  | freezeComplete => exact execFreezeComplete_keeps
  | freezeTimeout => exact execFreezeTimeout_keeps
  | thaw => exact execThaw_keeps
  | save => exact execSave_keeps
  | restore => exact execRestore_keeps
  | keyload => exact execKeyload_keeps
  | keyclear => exact execKeyclear_keeps
  | invalidate => exact execInvalidate_keeps
  | dirty => exact execDirty_keeps
  | exportq => exact execExportq_keeps
  | importq => exact execImportq_keeps
  | halt => exact execHalt_keeps
  | shadowadd => exact execShadowadd_keeps
  | shadowtake => exact execShadowtake_keeps
  | ringpool => exact execRingpool_keeps
  | mgmtBadCommand => exact execMgmtBadCommand_keeps
  | scrubDone => exact execScrubDone_keeps
  | sarSign => exact execSarSign_keeps
  | flr => exact execFlr_keeps
  | regionFailureReport => exact execRegionFailureReport_keeps
  | regionFailureApply => exact execRegionFailureApply_keeps
  | regionFailedDelivery => exact execRegionFailedDelivery_keeps
  | regionCloseProceed => exact execRegionCloseProceed_keeps
  | watchdogExpiry => exact execWatchdogExpiry_keeps
  | deadlockDetect => exact execDeadlockDetect_keeps
  | powerUp => exact execPowerUp_keeps
  | throttle => exact execThrottle_keeps
  | thermalCutoff => exact execThermalCutoff_keeps
  | hopRetry => exact execHopRetry_keeps
  | hopFailed => exact execHopFailed_keeps
  | ringLaneLost => exact execRingLaneLost_keeps
  | ringRetrainDone => exact execRingRetrainDone_keeps
  | ringLinkLost => exact execRingLinkLost_keeps
  | septordResend => exact execSeptordResend_keeps
  | septordPortLost => exact execSeptordPortLost_keeps
  | septordLaneLost => exact execSeptordLaneLost_keeps
  | resultCommit => exact execResultCommit_keeps
  | strikeRollback => exact execStrikeRollback_keeps
  | timeLock => exact execTimeLock_keeps
  | timeLockLost => exact execTimeLockLost_keeps
  | ckptStart => exact execCkptStart_keeps
  | ckptEnd => exact execCkptEnd_keeps
  | powerLoss => exact execPowerLoss_keeps

theorem State.advance_wf {s : State} {m : Move} (h : Memory.wf s.mem) : Memory.wf (s.advance m).mem :=
  State.settleMgmt_wf (State.settleFlrs_wf (State.tick_wf h))

theorem State.move_keeps (s : State) (who : Mover) : Keeps s (s.move who) := by
  unfold State.move
  split
  · split
    · rename_i c held _ i _
      exact .of_wf (t := { s with cur := c, held := held }) id (exec_keeps i _)
    · exact .next id
  · split
    · rename_i c _ i _
      exact .of_wf (t := { s with cur := c, held := false }) id (exec_keeps i _)
    · exact .next id
  · split
    · exact .next id
    · split
      · rename_i t e
        exact .next fun h => State.hostIn_wf h t e
      · exact exec_keeps _ s
  · exact .next State.hopMove_wf
  · split
    · rename_i i t e
      exact .of_wf (fun h => snd_wf (State.hostOut_wf h) e) (exec_keeps i t)
    · rename_i t e
      exact .next fun h => snd_wf (State.hostOut_wf h) e
  · exact .next State.ask_wf
  · exact .next State.matrixWork_wf
  · exact .next State.outside_wf

/-! ## The statements about memory -/

/-- Settles O41: every step is time passing and one move, and each keeps applied memory in its canonical form. -/
theorem memoryCanonicalKept : Obligations.MemoryCanonicalKept := by
  unfold Obligations.MemoryCanonicalKept
  intro s t h hstep
  unfold step at hstep
  split at hstep
  · cases hstep
    exact State.settleMgmt_wf (State.settleFlrs_wf (State.tick_wf h))
  · rename_i m _ _
    split at hstep
    · obtain ⟨u, hu, hwf⟩ := State.move_keeps (s.advance m) m.who
      rw [hu] at hstep
      cases hstep
      exact hwf (State.advance_wf h)
    · cases hstep

/-- Settles O42: memory is empty at reset, and every move of a powered module answers a next state. -/
theorem memoryCanonicalAtReset : Obligations.MemoryCanonicalAtReset := by
  unfold Obligations.MemoryCanonicalAtReset
  refine ⟨rfl, fun s hp => ?_⟩
  unfold step
  split
  · exact ⟨_, rfl⟩
  · rename_i m _ _
    obtain ⟨u, hu, _⟩ := State.move_keeps (s.advance m) m.who
    exact ⟨u, by simp only [hp, Bool.true_or, if_true, hu]⟩

/-- Settles O43: every table of the reset state is empty, so what it holds are the defaults. -/
theorem resetState : Obligations.ResetState := by
  unfold Obligations.ResetState
  refine ⟨fun _ => rfl, rfl, rfl, fun _ => ⟨rfl, rfl⟩, rfl, rfl, rfl, fun _ _ => rfl, rfl, rfl, rfl, rfl, rfl, rfl, rfl, rfl,
    fun _ => ⟨rfl, rfl, rfl⟩⟩

end Sys2Proof.Machine
end

section
/-! PROOFS. What the loss of traffic, of operations and of instances leaves alone (O60): the links, the clocks and the checkpoint, the
packets that are on their way, and the inputs that the cells of the other instances retain. One lemma `_quiet` for each operation, in the
model's order. -/

namespace Sys2Proof.Machine

/-! ## A quiet change of the state -/

/-- What a strike reads of a cell for a context: the retained inputs, the running firing and who has the context. -/
def Cell.core (k : Cell) (x : Nat) : List Retained × Bool × Nat × Option (Nat × Nat) :=
  (k.retained, k.lane.busy, k.lane.fir.base, (k.cx x).inst)

/-- The name of an `Inst`, and the context and cells that it has. -/
def Inst.seat (i : Inst) : Nat × Nat × Nat × List Nat := (i.fn, i.id, i.ctx, i.place)

/-- Whoever has a context of a cell is number `id` of the function `f`. -/
def SoleOwner (insts : List Inst) (c x f id : Nat) : Prop := ∀ j ∈ insts, c ∈ j.place → j.ctx = x → (j.fn, j.id) = (f, id)

/-- The parts of a state after a quiet change of the state `b`: links, clocks and checkpoint stand; packets on their way stand or go;
instances stand or go; and a context of a cell reads as it did, or its owner is gone, or it is one of the `E` that are left out. -/
structure QuietParts (E : Nat → Nat → Prop) (b : State) (links : Links) (free : Nat) (clock : Clock) (gated : Tbl Nat) (ckpt : Ckpt)
    (net : List Packet) (insts : List Inst) (cells : Tbl Cell) : Prop where
  links_eq : links = b.links
  free_eq : free = b.free
  clock_eq : clock = b.clock
  gated_eq : gated = b.gated
  ckpt_eq : ckpt = b.ckpt
  net_of : ∀ p ∈ net, p ∈ b.net ∨ p.hops = none ∨ p.hops = some []
  seat_of : ∀ j ∈ insts, ∃ i ∈ b.insts, j.seat = i.seat
  core_of : ∀ c x f id, SoleOwner b.insts c x f id →
    (∀ j ∈ insts, (j.fn, j.id) ≠ (f, id)) ∨ E c x ∨ (cells.getD c {}).core x = (b.cell c).core x

/-- The state `t` is `b` after a quiet change. -/
def Quiet (E : Nat → Nat → Prop) (b t : State) : Prop :=
  QuietParts E b t.links t.free t.clock t.gated t.ckpt t.net t.insts t.cells

theorem Quiet.refl {E : Nat → Nat → Prop} (b : State) : Quiet E b b :=
  ⟨rfl, rfl, rfl, rfl, rfl, fun _ h => .inl h, fun j h => ⟨j, h, rfl⟩, fun _ _ _ _ _ => .inr (.inr rfl)⟩

theorem Quiet.weaken {E E' : Nat → Nat → Prop} {b t : State} (h : Quiet E b t) (hE : ∀ c x, E c x → E' c x) : Quiet E' b t :=
  { h with core_of := fun c x f id ho => (h.core_of c x f id ho).imp_right (.imp_left (hE c x)) }

variable {E : Nat → Nat → Prop} {b : State}

theorem ite_quiet {c : Prop} [Decidable c] {s t : State} (hs : Quiet E b s) (ht : Quiet E b t) : Quiet E b (if c then s else t) := by
  split
  · exact hs
  · exact ht

theorem fst_quiet {α : Type} {p : State × α} {t : State} {a : α} (h : Quiet E b p.1) (e : p = (t, a)) : Quiet E b t := by
  rw [e] at h; exact h

theorem foldl_quiet {α : Type} {f : State → α → State} {l : List α} {s : State} (hf : ∀ t a, Quiet E b t → Quiet E b (f t a))
    (h : Quiet E b s) : Quiet E b (l.foldl f s) := by
  induction l generalizing s with
  | nil => exact h
  | cons a l ih => exact ih (hf s a h)

/-- Packets that go, or stand at their senders. -/
theorem Quiet.of_net {s : State} {net : List Packet} (h : Quiet E b s)
    (hn : ∀ p ∈ net, p ∈ s.net ∨ p.hops = none ∨ p.hops = some []) : Quiet E b { s with net := net } :=
  { h with net_of := fun p hp => (hn p hp).elim (h.net_of p) .inr }

/-- Instances that stand where they stood, changed otherwise. -/
theorem Quiet.of_insts {s : State} {insts : List Inst} (h : Quiet E b s) (hi : ∀ j ∈ insts, ∃ i ∈ s.insts, j.seat = i.seat) :
    Quiet E b { s with insts := insts } :=
  { h with
    seat_of := fun j hj => by
      obtain ⟨i, hi, e⟩ := hi j hj
      obtain ⟨k, hk, e'⟩ := h.seat_of i hi
      exact ⟨k, hk, e.trans e'⟩
    core_of := fun c x f id ho => (h.core_of c x f id ho).imp_left fun hn j hj => by
      obtain ⟨i, hi, e⟩ := hi j hj
      have := hn i hi
      simp only [Inst.seat, Prod.mk.injEq] at e this ⊢
      obtain ⟨e1, e2, _, _⟩ := e
      rwa [e1, e2] }

/-! ## What a cell keeps -/

/-- The parts of a cell that its tiles and queues do not touch. -/
def Cell.kept (k : Cell) : Tbl Ctx × Lane × List Retained := (k.ctxs, k.lane, k.retained)

theorem Cell.core_of_kept {k k' : Cell} (h : k'.kept = k.kept) (x : Nat) : k'.core x = k.core x := by
  simp only [Cell.kept, Prod.mk.injEq] at h
  obtain ⟨hc, hl, hr⟩ := h
  simp only [Cell.core, Cell.cx, hc, hl, hr]

theorem Cell.foldl_kept {α : Type} {f : Cell → α → Cell} (hf : ∀ c a, (f c a).kept = c.kept) (l : List α) (c : Cell) :
    (l.foldl f c).kept = c.kept := by
  induction l generalizing c with
  | nil => rfl
  | cons a l ih => exact (ih (f c a)).trans (hf c a)

theorem Cell.freeTile_kept (c : Cell) (i : Nat) : (c.freeTile i).kept = c.kept := by
  unfold Cell.freeTile
  extract_lets
  split <;> rfl

theorem Cell.dropRef_kept (c : Cell) (i : Nat) : (c.dropRef i).kept = c.kept := by
  unfold Cell.dropRef
  split
  · exact c.freeTile_kept i
  · rfl

theorem Cell.landTile_kept (c : Cell) (i : Nat) (g : BitVec 8) : (c.landTile i g).kept = c.kept := by
  unfold Cell.landTile
  split
  · rfl
  · split
    · rfl
    · split <;> rfl

theorem Cell.dropAll_kept (c : Cell) (l : List (Nat × BitVec 8 × Bool)) : (c.dropAll l).kept = c.kept :=
  Cell.foldl_kept (fun c n => by
    split
    · exact c.dropRef_kept n.1
    · rfl) l c

theorem Cell.landAll_kept (c : Cell) (l : List (Nat × BitVec 8 × Bool)) : (c.landAll l).kept = c.kept :=
  Cell.foldl_kept (f := fun (c : Cell) (n : Nat × BitVec 8) => c.landTile n.1 n.2) (fun c n => c.landTile_kept n.1 n.2) _ c

theorem cancelCmds_kept (c : Cell) (p : Cmd → Bool) : (cancelCmds c p false).kept = c.kept :=
  Cell.foldl_kept (f := fun (c : Cell) (x : Cmd) => c.landAll x.named) (fun c x => c.landAll_kept x.named) _ _

theorem Cell.modCx_core (c : Cell) (x y : Nat) (f : Ctx → Ctx) (h : x = y → (f (c.cx y)).inst = (c.cx y).inst) :
    (c.modCx x f).core y = c.core y := by
  by_cases e : x = y
  · subst e
    simp only [Cell.core, Cell.modCx, Cell.cx, Tbl.getD_put_same, Prod.mk.injEq, true_and]
    exact h rfl
  · simp [Cell.core, Cell.modCx, Cell.cx, Ne.symm e]

/-- The tiles of a context freed. -/
theorem Cell.freeTiles_kept (c : Cell) (x : Nat) :
    (c.heap.tiles.foldl (fun c e => if e.2.live && e.2.ctx == x then c.freeTile e.1 else c) c).kept = c.kept :=
  Cell.foldl_kept (fun c e => by
    split
    · exact c.freeTile_kept e.1
    · rfl) _ c

theorem Cell.releaseCtx_core (c : Cell) (x y : Nat) (h : x ≠ y) : (c.releaseCtx x).core y = c.core y := by
  unfold Cell.releaseCtx
  extract_lets k c1 c2 _ _ _ c3
  have h2 : c2.kept = c.kept := (c1.freeTiles_kept x).trans (cancelCmds_kept c _)
  have h3 : c3.core y = c2.core y := by
    unfold c3
    simp only [Cell.core, Cell.cx]
    split <;> rfl
  rw [Cell.modCx_core _ _ _ _ fun e => (h e).elim, h3, Cell.core_of_kept h2]

theorem Cell.releaseCtx_core_or {x c : Nat} {k : Cell} (h : E c x) (y : Nat) : E c y ∨ (k.releaseCtx x).core y = k.core y := by
  by_cases e : x = y
  · exact .inl (e ▸ h)
  · exact .inr (k.releaseCtx_core x y e)

/-! ## Instances -/

theorem State.mem_of_inst? {s : State} {f id : Nat} {i : Inst} (h : s.inst? f id = some i) : i ∈ s.insts := List.mem_of_find?_eq_some h

theorem State.mem_of_instAt {s : State} {c x : Nat} {i : Inst} (h : s.instAt c x = some i) : i ∈ s.insts := by
  unfold State.instAt at h
  split at h
  · exact State.mem_of_inst? h
  · exact (Option.some_ne_none _ h.symm).elim

/-- With its owner a context that was left out has gone. -/
theorem Quiet.of_gone {i : Inst} {s : State} (h : Quiet (fun c x => E c x ∨ c ∈ i.place ∧ x = i.ctx) b s)
    (hi : ∃ j ∈ b.insts, i.seat = j.seat) : Quiet E b { s with insts := s.insts.filter fun j => !(j.fn == i.fn && j.id == i.id) } :=
  { h with
    seat_of := fun j hj => h.seat_of j (List.mem_filter.mp hj).1
    core_of := fun c x f id ho => by
      rcases h.core_of c x f id ho with hn | (he | ⟨hc, hx⟩) | hk
      · exact .inl fun j hj => hn j (List.mem_filter.mp hj).1
      · exact .inr (.inl he)
      · obtain ⟨k, hk, e⟩ := hi
        simp only [Inst.seat, Prod.mk.injEq] at e
        obtain ⟨ef, ei, ex, ep⟩ := e
        have hf := ho k hk (ep ▸ hc) (ex ▸ hx.symm)
        refine .inl fun j hj e' => ?_
        have hj := (List.mem_filter.mp hj).2
        rw [Prod.mk.injEq] at hf e'
        simp [e'.1, e'.2, ← hf.1, ← hf.2, ef, ei] at hj
      · exact .inr (.inr hk) }

/-! ## The operations -/

theorem State.modFn_quiet {s : State} {f : Nat} {g : Fn → Fn} (h : Quiet E b s) : Quiet E b (s.modFn f g) := h

theorem State.zeroRange_quiet {s : State} {a n : Nat} (h : Quiet E b s) : Quiet E b (s.zeroRange a n) := h

theorem State.returnShadows_quiet {s : State} {o : MemOp} (h : Quiet E b s) : Quiet E b (s.returnShadows o) := by
  unfold State.returnShadows
  exact foldl_quiet (fun _ _ h1 => State.modFn_quiet (State.zeroRange_quiet h1)) h

theorem State.dropOps_quiet {s : State} {p : MemOp → Bool} (h : Quiet E b s) : Quiet E b (s.dropOps p) := by
  unfold State.dropOps
  exact foldl_quiet (fun _ _ h1 => State.returnShadows_quiet h1) h

theorem State.modStack_quiet {s : State} {i : Nat} {f : Stack → Stack} (h : Quiet E b s) : Quiet E b (s.modStack i f) := by
  unfold State.modStack
  split <;> exact h

theorem State.modSub_quiet {s : State} {i key : Nat} {f : SubLog → SubLog} (h : Quiet E b s) : Quiet E b (s.modSub i key f) := by
  unfold State.modSub
  exact State.modStack_quiet h

theorem State.wrGran_quiet {s : State} {key : Option (BitVec 512)} {g : Nat} {bs : List Byte} (h : Quiet E b s) :
    Quiet E b (s.wrGran key g bs) := h

theorem State.ringWrite_quiet {s : State} {i key : Nat} {e : Entry} (h : Quiet E b s) : Quiet E b (s.ringWrite i key e) := by
  unfold State.ringWrite
  extract_lets
  split
  · exact h
  · exact State.wrGran_quiet (State.wrGran_quiet h)

theorem State.voidIn_quiet {s : State} {i key : Nat} {p : Entry → Bool} (h : Quiet E b s) : Quiet E b (s.voidIn i key p) := by
  unfold State.voidIn
  exact foldl_quiet (fun _ _ h1 => State.ringWrite_quiet h1) (State.modSub_quiet h)

theorem State.modCell_quiet {s : State} {c : Nat} {f : Cell → Cell} (hf : ∀ x, E c x ∨ (f (s.cell c)).core x = (s.cell c).core x)
    (h : Quiet E b s) : Quiet E b (s.modCell c f) :=
  { h with
    core_of := fun d x g id ho => by
      unfold State.modCell
      dsimp only
      by_cases e : d = c
      · subst e
        rw [Tbl.getD_put_same]
        rcases hf x with hx | hx
        · exact .inr (.inl hx)
        · rw [hx]
          exact h.core_of d x g id ho
      · rw [Tbl.getD_put_other _ _ _ _ _ e]
        exact h.core_of d x g id ho }

/-- The logs that a release voids, as the model writes them in it. -/
theorem State.voidLogs_quiet {s : State} {log : Nat} {i : Inst} (h : Quiet E b s) : Quiet E b ((List.range 16).foldl (fun s k =>
      let rs := (s.sub k log).remaps fun _ => true
      let s := rs.foldl (fun s e =>
        let pg := leNat ((leBytes e.data.toNat 64).drop 8 |>.take 8)
        (s.zeroRange pg (pageBytes e.size)).modFn i.fn fun f => { f with shadow := f.shadow ++ [(e.size, pg)] }) s
      if log = 0 then s else s.voidIn k log fun _ => true) s) :=
  foldl_quiet (fun _ _ h1 => by
    extract_lets _ t
    have h2 : Quiet E b t := foldl_quiet (fun _ _ h3 => State.modFn_quiet (State.zeroRange_quiet h3)) h1
    exact ite_quiet h2 (State.voidIn_quiet h2)) h

theorem State.releaseInst_quiet {s : State} {i : Inst} (hE : ∀ c ∈ i.place, E c i.ctx) (h : Quiet E b s) : Quiet E b (s.releaseInst i) := by
  unfold State.releaseInst
  extract_lets t t1
  have ht : Quiet E b t := h.of_net fun p hp => .inl (List.mem_filter.mp hp).1
  have ht1 : Quiet E b t1 := State.dropOps_quiet ht
  exact State.modFn_quiet (foldl_quiet (fun _ _ h1 => State.zeroRange_quiet h1)
    (List.foldlRecOn _ _ ht1 fun _ hu c hc => State.modCell_quiet (Cell.releaseCtx_core_or (hE c hc))
      (State.voidLogs_quiet hu)))

theorem State.wrBytes_quiet {s : State} {a : Nat} {bs : List Byte} (h : Quiet E b s) : Quiet E b (s.wrBytes a bs) := h

theorem Quiet.of_errRing {s : State} {r : RecRing} (h : Quiet E b s) : Quiet E b { s with errRing := r } := { h with }

theorem State.errRec_quiet {s : State} {kind part cell ctx : Nat} {d1 d2 : Word} (h : Quiet E b s) :
    Quiet E b (s.errRec kind part cell ctx d1 d2) := by
  unfold State.errRec
  exact ite_quiet h (State.wrBytes_quiet h).of_errRing

theorem State.ringPut_quiet {s : State} {f : Nat} {r : RecRing} {w : List Word} {t : Word} (h : Quiet E b s) :
    Quiet E b (s.ringPut f r w t).1 := by
  unfold State.ringPut
  extract_lets
  split
  · exact State.wrBytes_quiet h
  · exact State.errRec_quiet h

theorem State.modQ_quiet {s : State} {f q : Nat} {g : Queue → Queue} (h : Quiet E b s) : Quiet E b (s.modQ f q g) := h

theorem State.putC_quiet {s : State} {f q : Nat} {w : List Word} (h : Quiet E b s) : Quiet E b (s.putC f q w) := by
  unfold State.putC
  split
  · rename_i t _ e
    have h1 : Quiet E b t := fst_quiet (State.ringPut_quiet h) e
    exact State.modQ_quiet h1

theorem State.complete_quiet {s : State} {i : Inst} {st : EndStatus} (h : Quiet E b s) : Quiet E b (s.complete i st) := by
  unfold State.complete
  extract_lets _ t t1
  have h1 : Quiet E b t := State.putC_quiet h
  have h2 : Quiet E b t1 := State.modFn_quiet h1
  split
  · exact h2
  · exact State.modQ_quiet h2

theorem State.endInst_quiet {s : State} {i : Inst} {st : EndStatus} (hi : ∃ j ∈ b.insts, i.seat = j.seat)
    (h : Quiet E b s) : Quiet E b (s.endInst i st) := by
  unfold State.endInst
  extract_lets t t1
  have ht : Quiet (fun c x => E c x ∨ c ∈ i.place ∧ x = i.ctx) b t :=
    State.releaseInst_quiet (fun c hc => .inr ⟨hc, rfl⟩) (h.weaken fun _ _ => .inl)
  exact State.complete_quiet (ht.of_gone hi)

theorem State.putE_quiet {s : State} {f q : Nat} {w : List Word} {t : Word} (h : Quiet E b s) : Quiet E b (s.putE f q w t) := by
  unfold State.putE
  split
  · rename_i t1 _ e
    have h1 : Quiet E b t1 := fst_quiet (State.ringPut_quiet h) e
    exact State.modQ_quiet h1

theorem State.modCx_quiet {s : State} {c x : Nat} {f : Ctx → Ctx} (hf : (f (s.cx c x)).inst = (s.cx c x).inst) (h : Quiet E b s) :
    Quiet E b (s.modCx c x f) :=
  State.modCell_quiet (fun _ => .inr (Cell.modCx_core _ _ _ _ fun e => e ▸ hf)) h

theorem State.lowerOut_quiet {s : State} {c x n : Nat} (h : Quiet E b s) : Quiet E b (s.lowerOut c x n) := State.modCx_quiet rfl h

theorem State.accepted_quiet {s : State} {p : Packet} (h : Quiet E b s) : Quiet E b (s.accepted p) := by
  unfold State.accepted
  extract_lets t
  have h1 : Quiet E b t := ite_quiet (State.lowerOut_quiet h) h
  split
  · exact h1
  · exact State.lowerOut_quiet h1

theorem State.inject_quiet {s : State} {p : Packet} (h : Quiet E b s) : Quiet E b (s.inject p) := by
  refine h.of_net fun q hq => ?_
  rw [List.mem_append, List.mem_singleton] at hq
  rcases hq with hq | rfl
  · exact .inl hq
  · right
    dsimp only
    split
    · exact .inr rfl
    · exact .inl rfl

theorem State.modInst_quiet {s : State} {f id : Nat} {g : Inst → Inst} (hg : ∀ i, (g i).seat = i.seat) (h : Quiet E b s) :
    Quiet E b (s.modInst f id g) :=
  h.of_insts fun j hj => by
    obtain ⟨i, hi, rfl⟩ := List.mem_map.mp hj
    refine ⟨i, hi, ?_⟩
    split
    · exact hg i
    · rfl

theorem State.countLost_quiet {s : State} {c x : Nat} {tag : Word} {n : Nat} (h : Quiet E b s) :
    Quiet E b (s.countLost c x tag n) := by
  unfold State.countLost
  extract_lets
  split
  · split
    · exact h
    · exact State.modInst_quiet (fun i => by split <;> rfl) h
  · exact h

theorem State.raiseOut_quiet {s : State} {c x n : Nat} (h : Quiet E b s) : Quiet E b (s.raiseOut c x n) := State.modCx_quiet rfl h

theorem State.sendAs_quiet {s : State} {c : Nat} {t : Token} {also reply : Option Nat} (h : Quiet E b s) :
    Quiet E b (s.sendAs c t also reply) := by
  unfold State.sendAs
  extract_lets _ t1
  have h1 : Quiet E b t1 := State.raiseOut_quiet h
  split <;> exact State.inject_quiet h1

theorem State.kill_quiet {s : State} {i : Inst} {st : EndStatus} {recd : List Word} {t : Word} (hi : ∃ j ∈ b.insts, i.seat = j.seat)
    (h : Quiet E b s) :
    Quiet E b (s.kill i st recd t) := by
  unfold State.kill
  exact State.endInst_quiet hi (State.putE_quiet h)

theorem State.deliverTo_quiet {s : State} {r : Raise} {target : Word} {row1 : List Word} (h : Quiet E b s) :
    Quiet E b (s.deliverTo r target row1) := by
  unfold State.deliverTo
  split
  · exact h
  · rename_i e
    have hi := h.seat_of _ (State.mem_of_instAt e)
    extract_lets
    split
    · exact State.kill_quiet hi h
    · split
      · exact State.kill_quiet hi h
      · exact State.sendAs_quiet (State.modCell_quiet (fun _ => .inr rfl) h)

theorem State.take_quiet {s : State} {r : Raise} (h : Quiet E b s) : Quiet E b (s.take r) := by
  unfold State.take
  extract_lets
  split
  · exact State.inject_quiet h
  · exact h
  · exact State.deliverTo_quiet h

theorem State.opFault_quiet {s : State} {w : Issuer} {code : FaultCode} {d1 d2 : Word} (h : Quiet E b s) :
    Quiet E b (s.opFault w code d1 d2) := by
  unfold State.opFault
  exact State.take_quiet h

theorem State.failOp_quiet {s : State} {o : MemOp} {cls : Nat} {code : FaultCode} {d1 d2 : Word} (h : Quiet E b s) :
    Quiet E b (s.failOp o cls code d1 d2) := by
  unfold State.failOp
  exact State.take_quiet (State.countLost_quiet (State.lowerOut_quiet (State.dropOps_quiet h)))

theorem State.setRun_quiet {s : State} {c uid : Nat} {q : Option Run} (h : Quiet E b s) : Quiet E b (s.setRun c uid q) :=
  State.modCell_quiet (fun _ => .inr rfl) h

theorem State.dropMade_quiet {s : State} {r : Run} (h : Quiet E b s) : Quiet E b (s.dropMade r) := by
  unfold State.dropMade
  split
  · exact h
  · refine State.modCell_quiet (fun x => .inr (Cell.core_of_kept ?_ x)) h
    split
    · exact Cell.freeTile_kept _ _
    · rfl

theorem State.opLost_quiet {s : State} {w : Issuer} {code : FaultCode} {d1 d2 : Word} (h : Quiet E b s) :
    Quiet E b (s.opLost w code d1 d2) := by
  unfold State.opLost
  exact State.opFault_quiet (State.countLost_quiet h)

theorem State.dropOpOf_quiet {s : State} {r : Run} (h : Quiet E b s) : Quiet E b (s.dropOpOf r) := by
  unfold State.dropOpOf
  split
  · exact h
  · exact State.dropOps_quiet h

theorem State.letGo_quiet {s : State} {m : Cmd} (h : Quiet E b s) : Quiet E b (s.letGo m) :=
  State.modCell_quiet (fun x => .inr (Cell.core_of_kept ((Cell.landAll_kept _ _).trans (Cell.dropAll_kept _ _)) x)) h

theorem State.endRun_quiet {s : State} {r : Run} (h : Quiet E b s) : Quiet E b (s.endRun r) := by
  unfold State.endRun
  exact State.lowerOut_quiet (State.letGo_quiet (State.dropMade_quiet (State.dropOpOf_quiet h)))

theorem State.failRun_quiet {s : State} {r : Run} {code : FaultCode} {d1 d2 : Word} (h : Quiet E b s) :
    Quiet E b (s.failRun r code d1 d2).1 := by
  unfold State.failRun
  extract_lets _ t
  have h1 : Quiet E b t := State.opLost_quiet (State.dropOpOf_quiet h)
  split
  · exact h1
  · split
    · exact h1
    · exact State.endRun_quiet h1

theorem State.failCopy_quiet {s : State} {o : MemOp} {code : FaultCode} {d1 d2 : Word} (h : Quiet E b s) :
    Quiet E b (s.failCopy o code d1 d2) := by
  unfold State.failCopy
  split
  · exact State.dropOps_quiet h
  · exact State.setRun_quiet (State.failRun_quiet h)

theorem State.failAccess_quiet {s : State} {o : MemOp} {code : FaultCode} {d1 d2 : Word} (h : Quiet E b s) :
    Quiet E b (s.failAccess o code d1 d2) := by
  unfold State.failAccess
  split
  · exact State.failCopy_quiet h
  · exact State.failOp_quiet h

theorem State.linkLost_quiet {s : State} {f id c : Nat} {tags : List Word} (h : Quiet E b s) : Quiet E b (s.linkLost f id c tags) := by
  unfold State.linkLost
  split
  · exact h
  · rename_i e
    extract_lets
    split
    · exact State.take_quiet h
    · exact State.kill_quiet (h.seat_of _ (State.mem_of_inst? e)) h

theorem State.poisonFiring_quiet {s : State} {c x r base : Nat} (h : Quiet E b s) : Quiet E b (s.poisonFiring c x r base) := by
  unfold State.poisonFiring
  split
  · exact h
  · rename_i e
    extract_lets
    split
    · exact State.take_quiet h
    · exact State.kill_quiet (h.seat_of _ (State.mem_of_instAt e)) h

theorem State.checkGran_quiet {s : State} {g : Nat} (h : Quiet E b s) : Quiet E b (s.checkGran g) := by
  unfold State.checkGran
  split
  · exact h
  · exact State.errRec_quiet h

theorem State.uncount_quiet {s : State} {p : Packet} (h : Quiet E b s) : Quiet E b (s.uncount p) := by
  unfold State.uncount
  extract_lets t t1
  have h1 : Quiet E b t := State.accepted_quiet h
  have h2 : Quiet E b t1 := by
    unfold t1
    split
    · exact State.lowerOut_quiet h1
    · exact h1
  split
  · exact State.countLost_quiet h2
  · exact h2

theorem State.loseTraffic_quiet {s : State} {ls : List ((Nat × Nat) × Nat × Word)} (h : Quiet E b s) :
    Quiet E b (s.loseTraffic ls) := by
  unfold State.loseTraffic
  exact foldl_quiet (fun _ _ h1 => State.linkLost_quiet h1) h

theorem State.losePeers_quiet {s : State} (h : Quiet E b s) : Quiet E b (s.losePeers) := by
  unfold State.losePeers
  exact foldl_quiet (fun _ _ h1 => ite_quiet (State.failAccess_quiet h1) h1) h

/-- The network when what is lost has been taken off and what is system traffic stands at its sender. -/
def State.tookLost (s : State) (gone : List Packet) : State :=
  { s with net := ((gone.filter fun p => !p.system).foldl List.erase s.net).map fun p => if p.system && gone.contains p then p.back else p }

theorem State.takeLost_quiet {s : State} {gone : List Packet} (h : Quiet E b (s.tookLost gone)) : Quiet E b (s.takeLost gone) :=
  foldl_quiet (fun _ _ h1 => State.uncount_quiet h1) h

theorem State.losePackets_quiet {s : State} {gone : List Packet} (h : Quiet E b (s.tookLost gone)) : Quiet E b (s.losePackets gone) :=
  State.loseTraffic_quiet (State.takeLost_quiet h)

end Sys2Proof.Machine
end

section
/-! PROOFS. Power, throttling and the bad-cell register (O60). -/

namespace Sys2Proof.Machine

/-! ## The bad-cell register -/

theorem State.addBad_full {s : State} {kind loc dir lane : Nat} (h : 256 ≤ s.links.bad.length) : s.addBad kind loc dir lane = s :=
  if_pos h

theorem State.addBad_room {s : State} {kind loc dir lane : Nat} (h : s.links.bad.length < 256) :
    ∃ e : BadEntry, s.addBad kind loc dir lane = { s with links := { s.links with bad := s.links.bad ++ [e] } } ∧
      e.kind = kind ∧ e.loc = loc ∧ e.dir = dir ∧ e.lane = lane :=
  ⟨_, if_neg (by omega), rfl, rfl, rfl, rfl⟩

theorem State.addBad_bad {s : State} {kind loc dir lane : Nat} (h : s.links.bad.length < 256) :
    ∃ e : BadEntry, (s.addBad kind loc dir lane).links.bad = s.links.bad ++ [e] ∧ e.kind = kind ∧ e.loc = loc ∧ e.dir = dir ∧ e.lane = lane := by
  obtain ⟨e, he, hk⟩ := State.addBad_room (s := s) (kind := kind) (loc := loc) (dir := dir) (lane := lane) h
  exact ⟨e, by rw [he], hk⟩

/-- An entry made changes nothing but the register. -/
theorem State.addBad_spec (s : State) (kind loc dir lane : Nat) :
    ∃ es, s.addBad kind loc dir lane = { s with links := { s.links with bad := s.links.bad ++ es } } ∧ es.length ≤ 1 := by
  by_cases h : 256 ≤ s.links.bad.length
  · exact ⟨[], by rw [State.addBad_full h, List.append_nil], Nat.zero_le 1⟩
  · obtain ⟨e, he, _⟩ := State.addBad_room (s := s) (kind := kind) (loc := loc) (dir := dir) (lane := lane) (Nat.lt_of_not_le h)
    exact ⟨[e], he, Nat.le_refl 1⟩

theorem State.mem_addBad {s : State} {kind loc dir lane : Nat} {e : BadEntry} (h : e ∈ s.links.bad) :
    e ∈ (s.addBad kind loc dir lane).links.bad := by
  obtain ⟨es, he, _⟩ := s.addBad_spec kind loc dir lane
  rw [he]
  exact List.mem_append_left es h

theorem Links.listed_iff {k : Links} {kind loc : Nat} : k.listed kind loc = true ↔ ∃ e ∈ k.bad, e.kind = kind ∧ e.loc = loc := by
  simp [Links.listed]

/-! ## Power -/

/-- The entries of a die that fails training, unless it has one. -/
def State.enterDie (s : State) (d : Nat) : State := if s.links.listed 7 (d * 256) then s else s.addBad 7 (d * 256) 0 0

theorem State.mem_enterDie {s : State} {d : Nat} {e : BadEntry} (h : e ∈ s.links.bad) : e ∈ (s.enterDie d).links.bad := by
  unfold State.enterDie
  split
  · exact h
  · exact State.mem_addBad h

theorem State.mem_enterDies {s : State} {ds : List Nat} {e : BadEntry} (h : e ∈ s.links.bad) :
    e ∈ (ds.foldl State.enterDie s).links.bad := by
  induction ds generalizing s with
  | nil => exact h
  | cons d ds ih => exact ih (State.mem_enterDie h)

theorem State.enterDie_length (s : State) (d : Nat) : (s.enterDie d).links.bad.length ≤ s.links.bad.length + 1 := by
  unfold State.enterDie
  split
  · exact Nat.le_succ _
  · obtain ⟨es, he, hl⟩ := s.addBad_spec 7 (d * 256) 0 0
    rw [he, List.length_append]
    exact Nat.add_le_add_left hl _

theorem State.enterDie_listed {s : State} {d : Nat} (h : s.links.bad.length < 256) :
    ∃ e ∈ (s.enterDie d).links.bad, e.kind = 7 ∧ e.loc = d * 256 := by
  unfold State.enterDie
  split
  · exact Links.listed_iff.mp ‹_›
  · obtain ⟨e, he, hk, hl, _⟩ := State.addBad_bad (kind := 7) (loc := d * 256) (dir := 0) (lane := 0) h
    exact ⟨e, by rw [he]; exact List.mem_append_right _ (List.mem_singleton.mpr rfl), hk, hl⟩

/-- While the register has room for all of them, every die that fails training gets its entry. -/
theorem State.enterDies_listed {s : State} {ds : List Nat} {d : Nat} (hd : d ∈ ds) (h : s.links.bad.length + ds.length ≤ 256) :
    ∃ e ∈ (ds.foldl State.enterDie s).links.bad, e.kind = 7 ∧ e.loc = d * 256 := by
  induction ds generalizing s with
  | nil => exact absurd hd List.not_mem_nil
  | cons a ds ih =>
    rw [List.length_cons] at h
    rcases List.mem_cons.mp hd with rfl | hd
    · obtain ⟨e, he, hk⟩ := State.enterDie_listed (s := s) (d := d) (by omega)
      exact ⟨e, State.mem_enterDies (s := s.enterDie d) he, hk⟩
    · exact ih hd (by have := s.enterDie_length a; omega)

theorem trainLinks_ring_lost {bad : List BadEntry} {gone : List Nat} {e : BadEntry} (he : e ∈ bad) (hk : e.kind = 4) :
    (trainLinks bad gone).ringAt (ringLinkOf (e.loc / 256) e.dir) = .lost := by
  have hl : ringLinkOf (e.loc / 256) e.dir < 8 := by unfold ringLinkOf; split <;> omega
  unfold Links.ringAt trainLinks
  rw [Nat.mod_eq_of_lt hl]
  simp [List.getD, hl]
  exact fun hn => absurd rfl (hn e he hk)

theorem trainLinks_cut {bad : List BadEntry} {gone : List Nat} {e : BadEntry} (he : e ∈ bad) (hk : e.kind = 7) :
    e.loc / 256 ∈ (trainLinks bad gone).cut :=
  List.mem_map.mpr ⟨e, List.mem_filter.mpr ⟨he, by simp [hk]⟩, rfl⟩

/-- The state that power-up makes of a module without supply. -/
def State.poweredUp (s : State) : State :=
  { s.unpowered.enterUntrained with
    power := true, links := trainLinks s.unpowered.enterUntrained.links.bad s.untrained, untrained := [] }

theorem execPowerUp_off {s : State} (h : s.power = false) : exec .powerUp s = .next s.poweredUp :=
  congrArg Host.Outcome.next (if_neg (by rw [h]; exact Bool.false_ne_true))

theorem execPowerUp_on {s : State} (h : s.power = true) : exec .powerUp s = .next s := congrArg Host.Outcome.next (if_pos h)

/-- What is dark: the module is as reset leaves it, but for what survives a loss of supply and the model's own fields. -/
def DarkOf (s t : State) (on : Bool) : Prop := t.power = on ∧ t.sarSeq = s.sarSeq ∧ t.links.bad = s.links.bad ∧
  { t with power := true, agenda := [], serial := State.reset.serial, free := 0, pcie := [], septord := [],
           sarSeq := 0, links := {}, untrained := [] } = State.reset

theorem State.unpowered_dark (s : State) : DarkOf s s.unpowered false := ⟨rfl, rfl, rfl, rfl⟩

theorem State.enterUntrained_nil {s : State} (h : s.untrained = []) : s.unpowered.enterUntrained = s.unpowered := by
  have e : s.unpowered.untrained = [] := h
  unfold State.enterUntrained
  rw [e, List.foldl_nil]

theorem State.poweredUp_dark {s : State} (h : s.untrained = []) : DarkOf s s.poweredUp true := by
  unfold State.poweredUp
  rw [State.enterUntrained_nil h]
  exact ⟨rfl, rfl, rfl, rfl⟩

theorem trainLinks_nil : trainLinks [] [] = {} := by decide

theorem State.poweredUp_links {s : State} (hb : s.links.bad = []) (h : s.untrained = []) : s.poweredUp.links = {} := by
  unfold State.poweredUp
  rw [State.enterUntrained_nil h, h]
  dsimp only [State.unpowered]
  rw [hb, trainLinks_nil]

theorem State.poweredUp_untrained {s : State} {d : Nat} (hd : d ∈ s.untrained) (h : s.links.bad.length + s.untrained.length ≤ 256) :
    s.poweredUp.links.listed 7 (d * 256) = true ∧ d * 256 / 256 ∈ s.poweredUp.links.cut := by
  obtain ⟨e, he, hk, hl⟩ := State.enterDies_listed (s := s.unpowered) hd h
  exact ⟨Links.listed_iff.mpr ⟨e, he, hk, hl⟩, hl ▸ trainLinks_cut he hk⟩

theorem State.poweredUp_lost {s : State} {e : BadEntry} (he : e ∈ s.links.bad) (hk : e.kind = 4) :
    s.poweredUp.ringAt (ringLinkOf (e.loc / 256) e.dir) = .lost :=
  trainLinks_ring_lost (State.mem_enterDies (s := s.unpowered) he) hk

/-- Power is lost and comes again (R19, R331, R353, R365). -/
theorem power_spec (s : State) :
    (∃ t, exec .powerLoss s = .next t ∧ DarkOf s t false ∧ t.untrained = s.untrained) ∧
    (∃ t, exec .thermalCutoff s = .next t ∧ DarkOf s t false) ∧
    (s.power = true → exec .powerUp s = .next s) ∧
    (s.power = false → ∃ t, exec .powerUp s = .next t ∧ (s.untrained = [] → DarkOf s t true) ∧ t.power = true ∧ t.untrained = [] ∧
      (s.links.bad = [] → s.untrained = [] → t.links = {}) ∧
      (∀ d, d ∈ s.untrained → s.links.bad.length + s.untrained.length ≤ 256 →
        t.links.listed 7 (d * 256) = true ∧ d * 256 / 256 ∈ t.links.cut) ∧
      t.links.hosts = (!s.untrained.contains 0, !s.untrained.contains 0 && !s.untrained.contains 4) ∧
      ∀ e, e ∈ s.links.bad → e.kind = 4 → t.ringAt (ringLinkOf (e.loc / 256) e.dir) = .lost) :=
  ⟨⟨s.unpowered, rfl, s.unpowered_dark, rfl⟩, ⟨s.unpowered, rfl, s.unpowered_dark⟩, execPowerUp_on, fun h =>
    ⟨s.poweredUp, execPowerUp_off h, State.poweredUp_dark, rfl, rfl, State.poweredUp_links, fun _ => State.poweredUp_untrained, rfl,
      fun _ => State.poweredUp_lost⟩⟩

/-! ## Throttling -/

theorem getD_vectorSet_same {α : Type} {n : Nat} (v : Vector α n) (i : Nat) (x d : α) (h : i < n) : (v.set i x h).toList.getD i d = x := by
  simp [List.getD, h]

theorem getD_vectorSet_other {α : Type} {n : Nat} (v : Vector α n) (i j : Nat) (x d : α) (h : i < n) (hj : j ≠ i) :
    (v.set i x h).toList.getD j d = v.toList.getD j d := by
  simp [List.getD, Vector.getElem?_set_ne h (Ne.symm hj)]

theorem throttle_spec {s : State} {die e : Nat} (hd : die < 8) (he : e < 8) :
    ∃ t, exec (.throttle die e) s = .next t ∧ t.clock.throttle.toList.getD die 0 = e ∧
      { t with clock := { t.clock with throttle := s.clock.throttle } } = s ∧
      ∀ d, d ≠ die → t.clock.throttle.toList.getD d 0 = s.clock.throttle.toList.getD d 0 :=
  ⟨{ s with clock := { s.clock with throttle := s.clock.throttle.set die e hd } }, congrArg Host.Outcome.next (dif_pos ⟨hd, he⟩),
    getD_vectorSet_same _ _ _ _ hd, rfl, fun _ h => getD_vectorSet_other _ _ _ _ _ hd h⟩

end Sys2Proof.Machine
end

section
/-! PROOFS. Hops that fail, ring links and the way packets take around the ring (O60). -/

namespace Sys2Proof.Machine

/-! ## A hop fails -/

theorem mem_of_mem_foldl_erase {α : Type} [BEq α] {l : List α} {m : List α} {a : α} (h : a ∈ l.foldl List.erase m) : a ∈ m := by
  induction l generalizing m with
  | nil => exact h
  | cons x l ih => exact List.mem_of_mem_erase (ih h)

theorem State.tookLost_net {s : State} {gone : List Packet} {p : Packet} (h : p ∈ (s.tookLost gone).net) :
    p ∈ s.net ∨ p.hops = none ∨ p.hops = some [] := by
  obtain ⟨q, hq, rfl⟩ := List.mem_map.mp h
  split
  · exact .inr (.inl rfl)
  · exact .inl (mem_of_mem_foldl_erase hq)

variable {E : Nat → Nat → Prop} {b : State}

theorem Quiet.of_lost {s : State} {gone : List Packet} (h : Quiet E b s) : Quiet E b (s.losePackets gone) :=
  State.losePackets_quiet (h.of_net fun _ hp => State.tookLost_net hp)

/-- A hop that fails is the next free value, and its entry. -/
theorem State.failHop_quiet {s : State} {cell port : Nat} :
    Quiet E (({ s with free := s.free + 1 } : State).addBad (if port = 4 then 1 else 2) cell port 0) (s.failHop cell port) := by
  unfold State.failHop
  have h : Quiet E (({ s with free := s.free + 1 } : State).addBad (if port = 4 then 1 else 2) cell port 0)
      (((({ s with free := s.free + 1 } : State).addBad (if port = 4 then 1 else 2) cell port 0).errRec 0x06 8 cell 0
        (word (cell + port * 2 ^ 11)) 0).losePackets
          ((((s.net.filter fun p => p.touching cell port).zipIdx).filter fun e => Config.hopHolds s.free e.2).map (·.1))) :=
    (State.errRec_quiet (Quiet.refl _)).of_lost
  exact ite_quiet (foldl_quiet (fun _ _ h1 => State.linkLost_quiet h1) h) h

theorem execHopFailed_fails {s : State} {c port : Nat} (hc : c < 2048) (h : port = 4 ∨ isLink c port = true) :
    exec (.hopFailed c port) s = .next (s.failHop c port) :=
  congrArg Host.Outcome.next (if_pos (by
    rcases h with h | h
    · simp [Config.cells, hc, h]
    · simp [Config.cells, hc, h]))

theorem execHopFailed_stands {s : State} {c port : Nat} (h4 : port ≠ 4) (h : isLink c port = false) :
    exec (.hopFailed c port) s = .next s :=
  congrArg Host.Outcome.next (if_neg (by simp [h4, h]))

theorem hopFailed_spec {s : State} {c port : Nat} (hc : c < 2048) (h : port = 4 ∨ isLink c port = true) :
    ∃ t, exec (.hopFailed c port) s = .next t ∧ t.free = s.free + 1 ∧ (s.links.bad.length < 256 → ∃ e, t.links.bad = s.links.bad ++ [e] ∧
      e.kind = (if port = 4 then 1 else 2) ∧ e.loc = c ∧ e.dir = port) := by
  have hq := State.failHop_quiet (E := fun _ _ => False) (s := s) (cell := c) (port := port)
  refine ⟨s.failHop c port, execHopFailed_fails hc h, ?_, fun hb => ?_⟩
  · obtain ⟨es, he, _⟩ := ({ s with free := s.free + 1 } : State).addBad_spec (if port = 4 then 1 else 2) c port 0
    rw [hq.free_eq, he]
  · obtain ⟨e, he, hk, hl, hd, _⟩ := State.addBad_bad (s := { s with free := s.free + 1 }) (kind := if port = 4 then 1 else 2) (loc := c)
      (dir := port) (lane := 0) hb
    exact ⟨e, by rw [hq.links_eq, he], hk, hl, hd⟩

/-! ## A ring link -/

theorem State.setRing_eq {s : State} {l : Nat} {v : RingLink} (h : l < 8) :
    s.setRing l v = { s with links := { s.links with ring := s.links.ring.set l v h } } := dif_pos h

theorem State.ringAt_mod (s : State) (n : Nat) : s.ringAt (n % 8) = s.ringAt n := by
  simp only [State.ringAt, Links.ringAt, Nat.mod_mod]

theorem State.ringAt_setRing {s : State} {l n : Nat} {v : RingLink} (h : l < 8) :
    (s.setRing l v).ringAt n = if n % 8 = l then v else s.ringAt n := by
  rw [State.setRing_eq h]
  simp only [State.ringAt, Links.ringAt]
  split
  · rename_i e
    rw [e]
    exact getD_vectorSet_same _ _ _ _ h
  · rename_i e
    exact getD_vectorSet_other _ _ _ _ _ h e

/-- The links grow: the ring and its lanes stand, and the bad-cell register and the list of dies that are cut off lose nothing. -/
structure Links.Grow (k k' : Links) : Prop where
  ring_eq : k'.ring = k.ring
  lanes_eq : k'.lanes = k.lanes
  bad_of : ∀ e ∈ k.bad, e ∈ k'.bad
  cut_of : ∀ d ∈ k.cut, d ∈ k'.cut

theorem Links.Grow.refl (k : Links) : k.Grow k := ⟨rfl, rfl, fun _ h => h, fun _ h => h⟩

theorem Links.Grow.trans {k k' k'' : Links} (h : k.Grow k') (h' : k'.Grow k'') : k.Grow k'' :=
  ⟨h'.ring_eq.trans h.ring_eq, h'.lanes_eq.trans h.lanes_eq, fun e he => h'.bad_of e (h.bad_of e he),
    fun d hd => h'.cut_of d (h.cut_of d hd)⟩

theorem Links.Grow.ringAt {s t : State} (h : s.links.Grow t.links) (n : Nat) : t.ringAt n = s.ringAt n := by
  simp only [State.ringAt, Links.ringAt, h.ring_eq]

theorem Links.Grow.of_eq {k k' : Links} (h : k' = k) : k.Grow k' := h ▸ Links.Grow.refl k

theorem State.addBad_grow (s : State) (kind loc dir lane : Nat) : s.links.Grow (s.addBad kind loc dir lane).links := by
  obtain ⟨es, he, _⟩ := s.addBad_spec kind loc dir lane
  rw [he]
  exact ⟨rfl, rfl, fun e h => List.mem_append_left es h, fun _ h => h⟩

theorem State.errRec_links (s : State) (kind part cell ctx : Nat) (d1 d2 : Word) : (s.errRec kind part cell ctx d1 d2).links = s.links :=
  (State.errRec_quiet (Quiet.refl (E := fun _ _ => False) s)).links_eq

/-- The entries of a die that is cut off, and of its stacks. -/
def State.addCut (s : State) (die : Nat) : State := ((s.addBad 7 (die * 256) 0 0).addBad 9 (2 * die) 0 0).addBad 9 (2 * die + 1) 0 0

theorem State.addCut_grow (s : State) (die : Nat) : s.links.Grow (s.addCut die).links :=
  ((State.addBad_grow _ _ _ _ _).trans (State.addBad_grow _ _ _ _ _)).trans (State.addBad_grow _ _ _ _ _)

/-- The state in which a die is entered as cut off, before its instances suffer. -/
def State.markCut (s : State) (die : Nat) : State :=
  ({ s with links := { s.links with cut := s.links.cut ++ [die] } } : State).addCut die

theorem State.markCut_grow (s : State) (die : Nat) : s.links.Grow (s.markCut die).links := by
  have h : s.links.Grow { s.links with cut := s.links.cut ++ [die] } :=
    ⟨rfl, rfl, fun _ h => h, fun _ h => List.mem_append_left _ h⟩
  exact h.trans (State.addCut_grow { s with links := { s.links with cut := s.links.cut ++ [die] } } die)

theorem State.mem_markCut (s : State) (die : Nat) : die ∈ (s.markCut die).links.cut := by
  have h : die ∈ s.links.cut ++ [die] := List.mem_append_right _ (List.mem_singleton.mpr rfl)
  exact (State.addCut_grow { s with links := { s.links with cut := s.links.cut ++ [die] } } die).cut_of die h

theorem State.cutDie_stands {s : State} {die : Nat}
    (h : s.links.cut.contains die || s.ringAt die != .lost || s.ringAt (die + 7) != .lost) : s.cutDie die = s := if_pos h

theorem State.cutDie_links {s : State} {die : Nat}
    (h : ¬(s.links.cut.contains die || s.ringAt die != .lost || s.ringAt (die + 7) != .lost) = true) :
    (s.cutDie die).links = (s.markCut die).links := by
  unfold State.cutDie
  rw [if_neg h]
  exact (foldl_quiet (fun _ _ h1 => State.linkLost_quiet h1) (Quiet.refl (E := fun _ _ => False) (s.markCut die))).links_eq

theorem State.cutDie_grow (s : State) (die : Nat) : s.links.Grow (s.cutDie die).links := by
  by_cases h : (s.links.cut.contains die || s.ringAt die != .lost || s.ringAt (die + 7) != .lost) = true
  · rw [State.cutDie_stands h]
    exact .refl _
  · rw [State.cutDie_links h]
    exact s.markCut_grow die

theorem State.mem_cutDie {s : State} {die : Nat} (h : s.ringAt die = .lost) (h7 : s.ringAt (die + 7) = .lost) :
    die ∈ (s.cutDie die).links.cut := by
  by_cases hc : s.links.cut.contains die = true
  · rw [State.cutDie_stands (by rw [hc]; rfl)]
    exact List.contains_iff_mem.mp hc
  · rw [State.cutDie_links (by simp [h, h7]; simpa using hc)]
    exact s.mem_markCut die

/-! ## Packets turn around -/

theorem Links.ringCost_some {k : Links} {d n c : Nat} (h : ringCost k d n = some c) {i : Nat} (hi : i < n) : k.ringAt (d + i) ≠ .lost := by
  induction n generalizing d c i with
  | zero => omega
  | succ n ih =>
    unfold ringCost at h
    split at h
    · rename_i ha hb
      cases i with
      | zero =>
        intro e
        rw [Nat.add_zero] at e
        rw [e] at ha
        simp [RingLink.cost] at ha
      | succ i =>
        have := ih hb (i := i) (by omega)
        rwa [Nat.add_assoc, Nat.add_comm 1 i] at this
    · exact absurd h (by simp)

theorem Links.ringAt_mod (k : Links) (n : Nat) : k.ringAt (n % 8) = k.ringAt n := by
  simp only [Links.ringAt, Nat.mod_mod]

theorem ringWay_cw {k : Links} {a c : Nat} (h : ringWay k (some true) a c = some true) :
    ∃ x, ringCost k a ((c + 8 - a % 8) % 8) = some x := by
  unfold ringWay at h
  dsimp only at h
  split at h
  · exact ⟨_, ‹_›⟩
  · exact ⟨_, ‹_›⟩
  · simp at h
  · simp at h

theorem ringWay_ccw {k : Links} {a c : Nat} (h : ringWay k (some false) a c = some false) :
    ∃ x, ringCost k c (8 - (c + 8 - a % 8) % 8) = some x := by
  unfold ringWay at h
  dsimp only at h
  split at h
  · exact ⟨_, ‹_›⟩
  · simp at h
  · exact ⟨_, ‹_›⟩
  · simp at h

/-- A way around the ring that is found crosses no lost link. -/
theorem ringHops_clear {k : Links} {a c : Nat} {cw : Bool} (h : ringWay k (some cw) a c = some cw) {d : Nat} {w : Bool}
    (hm : Hop.ring d w ∈ ringHops a c cw) : k.ringAt (ringLink d w) ≠ .lost := by
  cases cw with
  | true =>
    obtain ⟨x, hx⟩ := ringWay_cw h
    obtain ⟨i, hi, e⟩ := List.mem_map.mp hm
    obtain ⟨rfl, rfl⟩ := Hop.ring.inj e
    have := Links.ringCost_some hx (List.mem_range.mp hi)
    rwa [ringLink, if_pos rfl, Nat.mod_mod, Links.ringAt_mod]
  | false =>
    obtain ⟨x, hx⟩ := ringWay_ccw h
    obtain ⟨i, hi, e⟩ := List.mem_map.mp hm
    obtain ⟨rfl, rfl⟩ := Hop.ring.inj e
    have hi := List.mem_range.mp hi
    have := Links.ringCost_some hx (i := (a + 8 - c % 8) % 8 - 1 - i) (by omega)
    rw [ringLink, if_neg Bool.false_ne_true, Links.ringAt_mod, ← Links.ringAt_mod]
    rwa [← Links.ringAt_mod, show (c + ((a + 8 - c % 8) % 8 - 1 - i)) % 8 = ((a + 8 - i) % 8 + 7) % 8 by omega] at this

theorem ring_notMem_rowHops {die row c1 c2 d : Nat} {w : Bool} : Hop.ring d w ∉ rowHops die row c1 c2 := by
  unfold rowHops
  split <;> simp

theorem ring_notMem_colHops {die col r1 r2 d : Nat} {w : Bool} : Hop.ring d w ∉ colHops die col r1 r2 := by
  unfold colHops
  split <;> simp

theorem ring_notMem_legHops {yx : Bool} {a c d : Nat} {w : Bool} : Hop.ring d w ∉ legHops yx a c := by
  unfold legHops
  split <;> simp [ring_notMem_rowHops, ring_notMem_colHops]

/-- A hop on the mesh, or between it and an attachment. -/
def Hop.offRing : Hop → Bool
  | .ring _ _ => false
  | _ => true

theorem splitRing_eq (hs : List Hop) : splitRing hs = (hs.takeWhile Hop.offRing, hs.dropWhile Hop.offRing) := by
  rw [← List.span_eq_takeWhile_dropWhile]
  exact congrArg (List.span · hs) (funext fun h => by cases h <;> rfl)

theorem splitRing_append (hs : List Hop) : (splitRing hs).1 ++ (splitRing hs).2 = hs := by
  rw [splitRing_eq]
  exact List.takeWhile_append_dropWhile

theorem ring_notMem_splitRing {hs : List Hop} {d : Nat} {w : Bool} : Hop.ring d w ∉ (splitRing hs).1 := by
  rw [splitRing_eq]
  exact fun h => Bool.false_ne_true (List.mem_takeWhile_imp (p := Hop.offRing) h)

theorem splitRing_head {hs : List Hop} {x : Hop} {rest : List Hop} (h : (splitRing hs).2 = x :: rest) : ∃ d w, x = .ring d w := by
  rw [splitRing_eq] at h
  have hx := List.head?_dropWhile_not Hop.offRing hs
  rw [show hs.dropWhile Hop.offRing = x :: rest from h] at hx
  cases x with
  | ring d w => exact ⟨d, w, rfl⟩
  | mesh c p => exact absurd hx (by simp [Hop.offRing])
  | off c => exact absurd hx (by simp [Hop.offRing])
  | onto c => exact absurd hx (by simp [Hop.offRing])

/-- A packet that need not turn, or has turned, crosses no lost link. -/
theorem Links.turn_clear {k : Links} {p q : Packet} (h : k.turn p = some q) {hs : List Hop} (hq : q.hops = some hs) {d : Nat} {w : Bool}
    (hm : Hop.ring d w ∈ hs) : k.ringAt (ringLink d w) ≠ .lost := by
  unfold Links.turn at h
  split at h
  · rename_i e
    rw [← Option.some.inj h, e] at hq
    exact absurd hq (by simp)
  · rename_i hs' e
    split at h
    · rename_i ha
      rw [← Option.some.inj h, e, Option.some.injEq] at hq
      subst hq
      simp only [Bool.not_eq_true', List.any_eq_false] at ha
      simpa using ha _ hm
    · rename_i ha
      split at h
      · rename_i pre dd cw rest hsp
        dsimp only at h
        split at h
        · rename_i hw
          rw [← Option.some.inj h] at hq
          have hq := (Option.some.inj hq).symm
          rw [hq] at hm
          simp only [List.mem_append, List.mem_singleton, reduceCtorEq, or_false, ring_notMem_legHops] at hm
          rcases hm with hm | hm
          · have : pre = (splitRing hs').1 := by rw [hsp]
            exact absurd (this ▸ hm) ring_notMem_splitRing
          · exact ringHops_clear (by simpa using hw) hm
        · exact absurd h (by simp)
      · rename_i hn
        exfalso
        cases hr : (splitRing hs').2 with
        | nil =>
          have happ := splitRing_append hs'
          rw [hr, List.append_nil] at happ
          refine ha ?_
          simp only [Bool.not_eq_true', List.any_eq_false]
          intro x hx
          split
          · exact absurd (happ ▸ hx) ring_notMem_splitRing
          · simp
        | cons x rest =>
          obtain ⟨d', w', rfl⟩ := splitRing_head hr
          exact hn (splitRing hs').1 d' w' rest (by rw [← hr])

theorem Links.turn_none {k : Links} {p : Packet} (h : k.turn p = none) : p.hops ≠ none ∧ p.hops ≠ some [] := by
  unfold Links.turn at h
  constructor
  · intro e
    rw [e] at h
    simp at h
  · intro e
    rw [e] at h
    simp at h

/-- Whatever is erased as often as it stands in a list is in it no more. -/
theorem notMem_foldl_erase_filter {α : Type} [BEq α] [LawfulBEq α] {l : List α} {p : α → Bool} {a : α} (h : p a = true) :
    a ∉ (l.filter p).foldl List.erase l := by
  rw [← List.diff_eq_foldl, ← List.count_eq_zero]
  have := List.count_diff a l (l.filter p)
  rw [this, List.count_filter h, Nat.sub_self]

/-- Of packets that are taken off as lost, none is left that is on its way. -/
theorem State.tookLost_clear {s : State} {g : Packet → Bool} {p : Packet} (hp : p ∈ (s.tookLost (s.net.filter g)).net)
    (hn : p.hops ≠ none) : g p = false := by
  obtain ⟨q, hq, rfl⟩ := List.mem_map.mp hp
  split at hn
  · exact absurd rfl hn
  · rename_i hs
    rw [if_neg hs]
    have hm := mem_of_mem_foldl_erase hq
    by_contra hg
    have hg : g q = true := by simpa using hg
    have hc : (s.net.filter g).contains q = true := List.contains_iff_mem.mpr (List.mem_filter.mpr ⟨hm, hg⟩)
    rw [hc, Bool.and_true, Bool.not_eq_true] at hs
    rw [List.filter_filter] at hq
    exact notMem_foldl_erase_filter (p := fun a => !a.system && g a) (by simp [hs, hg]) hq

end Sys2Proof.Machine
end

section
/-! PROOFS. Ring links and lanes that are lost, links that retrain, and flits asked for again (O60). -/

namespace Sys2Proof.Machine

/-! ## A ring link is lost -/

/-- The state in which a ring link is entered as lost, before dies are cut off. -/
def State.markLost (s : State) (l : Nat) : State := ((s.setRing l .lost).addBad 4 (l * 256) 0 0).errRec 0x0A 8 0 0 (word l) 0

/-- The state in which the dies at the ends of a lost ring link have been cut off, where they are. -/
def State.cutEnds (s : State) (l : Nat) : State := ((s.markLost l).cutDie l).cutDie ((l + 1) % 8)

/-- The packets of a state that find no way around the ring. -/
def State.stranded (s : State) : List Packet := s.net.filter fun p => (s.links.turn p).isNone

/-- The packets of a state that have to turn around on the ring do. -/
def State.turnAll (s : State) : State := { s with net := s.net.map fun p => (s.links.turn p).getD p }

theorem State.turnAll_links (s : State) : s.turnAll.links = s.links := rfl

theorem State.turnAll_net (s : State) : s.turnAll.net = s.net.map fun p => (s.links.turn p).getD p := rfl

theorem State.loseRing_eq {s : State} {l : Nat} (h : s.ringAt l ≠ .lost) :
    s.loseRing l = ((s.cutEnds l).losePackets (s.cutEnds l).stranded).turnAll :=
  if_neg (by simpa using h)

theorem State.loseRing_lost {s : State} {l : Nat} (h : s.ringAt l = .lost) : s.loseRing l = s := if_pos (by simpa using h)

theorem State.losePackets_links (s : State) (gone : List Packet) : (s.losePackets gone).links = s.links :=
  ((Quiet.refl (E := fun _ _ => False) s).of_lost).links_eq

theorem State.loseRing_links {s : State} {l : Nat} (h : s.ringAt l ≠ .lost) : (s.loseRing l).links = (s.cutEnds l).links := by
  rw [State.loseRing_eq h, State.turnAll_links, State.losePackets_links]

theorem State.markLost_grow (s : State) (l : Nat) : (s.setRing l .lost).links.Grow (s.markLost l).links :=
  (State.addBad_grow _ _ _ _ _).trans (.of_eq (State.errRec_links _ _ _ _ _ _ _))

theorem State.cutEnds_grow (s : State) (l : Nat) : (s.markLost l).links.Grow (s.cutEnds l).links :=
  (State.cutDie_grow _ _).trans (State.cutDie_grow _ _)

theorem State.ringAt_markLost {s : State} {l n : Nat} (hl : l < 8) :
    (s.markLost l).ringAt n = if n % 8 = l then .lost else s.ringAt n := by
  rw [(s.markLost_grow l).ringAt, State.ringAt_setRing hl]

theorem State.loseRing_ringAt {s : State} {l : Nat} (hl : l < 8) : (s.loseRing l).ringAt l = .lost := by
  by_cases h : s.ringAt l = .lost
  · rw [State.loseRing_lost h, h]
  · rw [State.ringAt, State.loseRing_links h]
    exact ((s.cutEnds_grow l).ringAt l).trans (by rw [State.ringAt_markLost hl, if_pos (Nat.mod_eq_of_lt hl)])

/-- A ring link that is lost leaves the lanes of every link as they were, and takes no entry away. -/
theorem State.loseRing_keeps {s : State} {l : Nat} (hl : l < 8) :
    (s.loseRing l).links.lanes = s.links.lanes ∧ ∀ e ∈ s.links.bad, e ∈ (s.loseRing l).links.bad := by
  by_cases h : s.ringAt l = .lost
  · rw [State.loseRing_lost h]
    exact ⟨rfl, fun _ he => he⟩
  · rw [State.loseRing_links h]
    have hg := (s.markLost_grow l).trans (s.cutEnds_grow l)
    rw [State.setRing_eq hl] at hg
    exact ⟨hg.lanes_eq, hg.bad_of⟩

theorem State.markLost_lost {s : State} {l n : Nat} (hl : l < 8) (h : s.ringAt n = .lost) : (s.markLost l).ringAt n = .lost := by
  rw [State.ringAt_markLost hl]
  split
  · rfl
  · exact h

/-- The die before the link is cut off where its other link is lost. -/
theorem State.loseRing_cut {s : State} {l : Nat} (hl : l < 8) (h : s.ringAt l ≠ .lost) (h7 : s.ringAt (l + 7) = .lost) :
    l ∈ (s.loseRing l).links.cut := by
  rw [State.loseRing_links h]
  refine (State.cutDie_grow _ _).cut_of _ (State.mem_cutDie ?_ (State.markLost_lost hl h7))
  rw [State.ringAt_markLost hl, if_pos (Nat.mod_eq_of_lt hl)]

/-- The die after the link is cut off where its other link is lost. -/
theorem State.loseRing_cut_next {s : State} {l : Nat} (hl : l < 8) (h : s.ringAt l ≠ .lost) (h1 : s.ringAt (l + 1) = .lost) :
    (l + 1) % 8 ∈ (s.loseRing l).links.cut := by
  rw [State.loseRing_links h]
  refine State.mem_cutDie ?_ ?_ <;> rw [(State.cutDie_grow _ _).ringAt]
  · rw [State.ringAt_mod]
    exact State.markLost_lost hl h1
  · rw [State.ringAt_markLost hl, if_pos (by omega)]

/-- Once a ring link is lost, no packet is on its way over a lost one. -/
theorem State.loseRing_clear {s : State} {l : Nat} (h : s.ringAt l ≠ .lost) {q : Packet} (hq : q ∈ (s.loseRing l).net) {hs : List Hop}
    (he : q.hops = some hs) {d : Nat} {cw : Bool} (hm : Hop.ring d cw ∈ hs) : (s.loseRing l).ringAt (ringLink d cw) ≠ .lost := by
  rw [State.ringAt, State.loseRing_links h]
  rw [State.loseRing_eq h, State.turnAll_net, State.losePackets_links] at hq
  obtain ⟨p, hp, rfl⟩ := List.mem_map.mp hq
  cases ht : (s.cutEnds l).links.turn p with
  | some p' =>
    rw [ht, Option.getD_some] at he
    exact Links.turn_clear ht he hm
  | none =>
    obtain ⟨hn, hn'⟩ := Links.turn_none ht
    have hq := State.losePackets_quiet (gone := (s.cutEnds l).stranded)
      (Quiet.refl (E := fun _ _ => False) ((s.cutEnds l).tookLost (s.cutEnds l).stranded))
    have hmem := (hq.net_of p hp).resolve_right (by simp [hn, hn'])
    have := State.tookLost_clear hmem hn
    rw [ht] at this
    exact absurd this (by simp)

theorem ringLinkLost_spec {s : State} {die : Nat} (hd : die < 8) :
    ∃ t, exec (.ringLinkLost die) s = .next t ∧ t.ringAt die = .lost ∧
      (s.ringAt die ≠ .lost → s.ringAt (die + 7) = .lost → die ∈ t.links.cut) ∧
      (s.ringAt die ≠ .lost → s.ringAt (die + 1) = .lost → (die + 1) % 8 ∈ t.links.cut) ∧
      (s.ringAt die ≠ .lost → ∀ q, q ∈ t.net → ∀ hs, q.hops = some hs →
        ∀ d cw, Hop.ring d cw ∈ hs → t.ringAt (ringLink d cw) ≠ .lost) :=
  ⟨s.loseRing die, congrArg Host.Outcome.next (if_pos hd), State.loseRing_ringAt hd, State.loseRing_cut hd, State.loseRing_cut_next hd,
    fun h _ hq _ he _ _ hm => State.loseRing_clear h hq he hm⟩

/-! ## A ring link retrains -/

theorem ringRetrainDone_spec {s : State} {die : Nat} (hd : die < 8) :
    (s.ringAt die = .retraining → exec (.ringRetrainDone die) s = .next (s.setRing die .half) ∧ (s.setRing die .half).ringAt die = .half) ∧
    (s.ringAt die ≠ .retraining → exec (.ringRetrainDone die) s = .next s) := by
  refine ⟨fun h => ⟨congrArg Host.Outcome.next (if_pos (by simp [h, hd])), ?_⟩, fun h => congrArg Host.Outcome.next (if_neg (by simp [h]))⟩
  rw [State.ringAt_setRing hd, if_pos (Nat.mod_eq_of_lt hd)]

/-! ## A ring lane is lost -/

/-- A lost lane of a ring link, among those that the link has lost. -/
def State.putLane (s : State) (l lane : Nat) : State :=
  { s with links := { s.links with lanes := s.links.lanes.put l (lane :: s.links.lanes.getD l []) } }

/-- The state in which a lost lane of a ring link is entered. -/
def State.markLane (s : State) (die dir lane : Nat) : State :=
  ((s.putLane (ringLinkOf die dir) lane).addBad 3 (die * 256) dir (lane / 16)).errRec 0x09 8 0 0
    (word (ringLinkOf die dir + lane * 2 ^ 8)) 0

theorem execRingLaneLost_eq {s : State} {die dir lane : Nat} (hd : die < 8) (hdir : dir < 2) (hl : lane < 512) :
    exec (.ringLaneLost die dir lane) s = .next
      (let l := ringLinkOf die dir
       let gone := lane :: s.links.lanes.getD l []
       if (gone.any fun n => decide (n < 256)) && gone.any fun n => decide (256 ≤ n) then (s.markLane die dir lane).loseRing l
       else if (s.markLane die dir lane).ringAt l == .full then (s.markLane die dir lane).setRing l .retraining
       else s.markLane die dir lane) :=
  congrArg Host.Outcome.next (if_neg (by simp; omega))

theorem ringLinkOf_lt (die dir : Nat) : ringLinkOf die dir < 8 := by
  unfold ringLinkOf
  split <;> omega

theorem State.markLane_grow (s : State) (die dir lane : Nat) :
    (s.putLane (ringLinkOf die dir) lane).links.Grow (s.markLane die dir lane).links :=
  (State.addBad_grow _ _ _ _ _).trans (.of_eq (State.errRec_links _ _ _ _ _ _ _))

theorem State.markLane_bad {s : State} {die dir lane : Nat} (h : s.links.bad.length < 256) :
    ∃ e, e ∈ (s.markLane die dir lane).links.bad ∧ e.kind = 3 ∧ e.loc = die * 256 ∧ e.dir = dir ∧ e.lane = lane / 16 := by
  obtain ⟨e, he, hk⟩ := State.addBad_bad (s := s.putLane (ringLinkOf die dir) lane) (kind := 3) (loc := die * 256) (dir := dir)
    (lane := lane / 16) h
  refine ⟨e, ?_, hk⟩
  rw [State.markLane, State.errRec_links, he]
  exact List.mem_append_right _ (List.mem_singleton.mpr rfl)

theorem State.markLane_ringAt (s : State) (die dir lane n : Nat) : (s.markLane die dir lane).ringAt n = s.ringAt n :=
  (s.markLane_grow die dir lane).ringAt n

theorem State.markLane_lanes (s : State) (die dir lane : Nat) :
    (s.markLane die dir lane).links.lanes.getD (ringLinkOf die dir) [] = lane :: s.links.lanes.getD (ringLinkOf die dir) [] := by
  rw [(s.markLane_grow die dir lane).lanes_eq, State.putLane, Tbl.getD_put_same]

theorem ringLaneLost_spec {s : State} {die dir lane : Nat} (hd : die < 8) (hdir : dir < 2) (hlane : lane < 512) :
    let l := ringLinkOf die dir
    let old := s.links.lanes.getD l []
    ∃ t, exec (.ringLaneLost die dir lane) s = .next t ∧ t.links.lanes.getD l [] = lane :: old ∧
      (s.links.bad.length < 256 → ∃ e, e ∈ t.links.bad ∧ e.kind = 3 ∧ e.loc = die * 256 ∧ e.dir = dir ∧ e.lane = lane / 16) ∧
      (old = [] → s.ringAt l = .full → t.ringAt l = .retraining) ∧
      ((lane < 256 → ∃ m, m ∈ old ∧ 256 ≤ m) → (256 ≤ lane → ∃ m, m ∈ old ∧ m < 256) → t.ringAt l = .lost) := by
  intro l old
  have hl : l < 8 := ringLinkOf_lt die dir
  have hb := fun h => State.markLane_bad (s := s) (die := die) (dir := dir) (lane := lane) h
  have hlanes := s.markLane_lanes die dir lane
  refine ⟨_, execRingLaneLost_eq hd hdir hlane, ?_⟩
  dsimp only
  split
  case isTrue h =>
    obtain ⟨hk, hm⟩ := State.loseRing_keeps (s := s.markLane die dir lane) hl
    refine ⟨by rw [hk]; exact hlanes, fun h => ?_, fun ho => ?_, fun _ _ => State.loseRing_ringAt hl⟩
    · obtain ⟨e, he, h⟩ := hb h
      exact ⟨e, hm e he, h⟩
    · rw [show s.links.lanes.getD (ringLinkOf die dir) [] = [] from ho] at h
      simp at h
      omega
  case isFalse h =>
    have hno : ¬((lane < 256 → ∃ m, m ∈ old ∧ 256 ≤ m) ∧ (256 ≤ lane → ∃ m, m ∈ old ∧ m < 256)) := by
      rintro ⟨h1, h2⟩
      refine h ?_
      simp only [List.any_cons, Bool.and_eq_true, Bool.or_eq_true, decide_eq_true_eq, List.any_eq_true]
      rcases Nat.lt_or_ge lane 256 with hlt | hge
      · exact ⟨.inl hlt, .inr (h1 hlt)⟩
      · exact ⟨.inr (h2 hge), .inl hge⟩
    split
    · refine ⟨?_, fun h => ?_, fun _ _ => ?_, fun h1 h2 => absurd ⟨h1, h2⟩ hno⟩
      · rw [State.setRing_eq hl]
        exact hlanes
      · rw [State.setRing_eq hl]
        exact hb h
      · rw [State.ringAt_setRing hl, if_pos (Nat.mod_eq_of_lt hl)]
    · rename_i hf
      refine ⟨hlanes, hb, fun _ hfull => ?_, fun h1 h2 => absurd ⟨h1, h2⟩ hno⟩
      rw [State.markLane_ringAt] at hf
      exact absurd hfull (by simpa using hf)

/-! ## A flit is asked for again -/

theorem listMod_eq {α : Type} {l : List α} {n : Nat} {x : α} (h : l[n]? = some x) (f : α → α) :
    listMod l n f = l.take n ++ [f x] ++ l.drop (n + 1) := by
  induction l generalizing n with
  | nil => exact absurd h (by simp)
  | cons a l ih =>
    cases n with
    | zero =>
      rw [List.getElem?_cons_zero, Option.some.injEq] at h
      simp [listMod, h]
    | succ n =>
      rw [List.getElem?_cons_succ] at h
      simp [listMod, ih h]

/-- The first packet with a bad flit at the receiver of a hop, and where it stands. -/
def State.asking (s : State) (c port : Nat) : Option (Packet × Nat) :=
  s.net.zipIdx.find? fun e => e.1.hurt.isSome && (s.nextHop e.1).any fun h =>
    h.place == (if port = 5 ∨ port = 6 then c / 256 * 256 else c, port)

/-- The network in which that packet is asked for again, with a number of failed attempts. -/
def State.asked (s : State) (q : Packet) (n flit m : Nat) : List Packet :=
  s.net.take n ++ [{ q with hurt := none, tried := (flit, m) }] ++ s.net.drop (n + 1)

/-- The attempts on a flit that have failed in a row, with the present one. -/
def Packet.fails (q : Packet) (flit : Nat) : Nat := if q.tried.1 = flit then q.tried.2 + 1 else 1

theorem State.asking_at {s : State} {c port n : Nat} {q : Packet} (h : s.asking c port = some (q, n)) : s.net[n]? = some q := by
  have := List.mem_of_find?_eq_some h
  exact List.mem_zipIdx_iff_getElem?.mp this

theorem retryPlace_eq (c port : Nat) :
    (if (port = 5 || port = 6) = true then dieOf c * 256 else c, port) = (if port = 5 ∨ port = 6 then c / 256 * 256 else c, port) := by
  simp only [Bool.or_eq_true, decide_eq_true_eq]
  rfl

theorem execHopRetry_none {s : State} {c port : Nat} (h : s.asking c port = none) : exec (.hopRetry c port) s = .next s := by
  change execHopRetry c port s = _
  unfold execHopRetry
  extract_lets at'
  have e : at' = _ := retryPlace_eq c port
  rw [e]
  unfold State.asking at h
  rw [h]

theorem execHopRetry_some {s : State} {c port n flit : Nat} {q : Packet} (hc : c < 2048) (h : s.asking c port = some (q, n))
    (hf : q.hurt = some flit) : exec (.hopRetry c port) s = .next
      (if q.fails flit < 3 then ({ s with net := s.asked q n flit (q.fails flit) } : State).countCell c 0x1B
       else ({ s with net := s.asked q n flit 0 } : State).exhaust (if port = 5 ∨ port = 6 then c / 256 * 256 else c) port) := by
  change execHopRetry c port s = _
  unfold execHopRetry
  extract_lets at'
  have e : at' = _ := retryPlace_eq c port
  have hl := State.asking_at h
  unfold State.asking at h
  rw [e, h]
  dsimp only
  rw [hf, if_neg (by simpa [Config.cells] using hc)]
  simp only [listMod_eq hl]
  rfl

theorem State.exhaust_link {v : State} {c port : Nat} (hc : c < 2048) (hp : port < 4) (hk : isLink c port = true) :
    .next (v.exhaust c port) = exec (.hopFailed c port) v := by
  rw [execHopFailed_fails hc (.inr hk)]
  unfold State.exhaust
  split
  · omega
  · omega
  · omega
  · exact congrArg Host.Outcome.next (if_pos hk)

theorem State.exhaust_attachment {v : State} {c q : Nat} (hc : c < 2048) (hq : attachPort c = some q) :
    .next (v.exhaust c 7) = exec (.hopFailed c q) v := by
  rw [execHopFailed_fails hc (.inr (by simp [isLink, hq]))]
  unfold State.exhaust
  rw [hq]
  rfl

theorem State.exhaust_cw {v : State} {c : Nat} (hc : c < 2048) :
    .next (v.exhaust (c / 256 * 256) 5) = exec (.ringLinkLost (c / 256)) v := by
  have e : ringLink (dieOf (c / 256 * 256)) true = c / 256 := by
    simp only [ringLink, dieOf, if_true]
    omega
  change _ = Host.Outcome.next (if c / 256 < 8 then v.loseRing (c / 256) else v)
  rw [if_pos (by omega)]
  exact congrArg (fun l => Host.Outcome.next (v.loseRing l)) e

theorem State.exhaust_ccw {v : State} {c : Nat} :
    .next (v.exhaust (c / 256 * 256) 6) = exec (.ringLinkLost ((c / 256 + 7) % 8)) v := by
  have e : ringLink (dieOf (c / 256 * 256)) false = (c / 256 + 7) % 8 := by
    simp only [ringLink, dieOf, Bool.false_eq_true, if_false]
    omega
  change _ = Host.Outcome.next (if (c / 256 + 7) % 8 < 8 then v.loseRing ((c / 256 + 7) % 8) else v)
  rw [if_pos (by omega)]
  exact congrArg (fun l => Host.Outcome.next (v.loseRing l)) e

/-- A flit that comes in wrong is asked for again, at the third failure in a row for the last time (R341). -/
theorem hopRetry_spec {s : State} {c port : Nat} (hc : c < 2048) :
    (s.asking c port = none → exec (.hopRetry c port) s = .next s) ∧
    ∀ q n flit, s.asking c port = some (q, n) → q.hurt = some flit →
      (q.fails flit < 3 → exec (.hopRetry c port) s = .next
        { (s.modCell c fun k => { k with perf := k.perf.put 0x1B (k.perf.getD 0x1B 0 + 1) }) with net := s.asked q n flit (q.fails flit) }) ∧
      (3 ≤ q.fails flit → let v := { s with net := s.asked q n flit 0 }
        (port < 4 → isLink c port = true → exec (.hopRetry c port) s = exec (.hopFailed c port) v) ∧
        (port = 5 → exec (.hopRetry c port) s = exec (.ringLinkLost (c / 256)) v) ∧
        (port = 6 → exec (.hopRetry c port) s = exec (.ringLinkLost ((c / 256 + 7) % 8)) v) ∧
        (port = 7 → ∀ q, attachPort c = some q → exec (.hopRetry c port) s = exec (.hopFailed c q) v)) := by
  refine ⟨execHopRetry_none, fun q n flit ha hf => ?_⟩
  rw [execHopRetry_some hc ha hf]
  refine ⟨fun hlt => by rw [if_pos hlt]; rfl, fun hge => ?_⟩
  rw [if_neg (Nat.not_lt.mpr hge)]
  refine ⟨fun hp hk => ?_, ?_, ?_, ?_⟩
  · rw [if_neg (by omega)]
    exact State.exhaust_link hc hp hk
  · rintro rfl
    exact State.exhaust_cw hc
  · rintro rfl
    exact State.exhaust_ccw
  · rintro rfl p hp
    exact State.exhaust_attachment hc hp

end Sys2Proof.Machine
end

section
/-! PROOFS. Strikes (O60): what has not been committed is made again, or the firing fails. -/

namespace Sys2Proof.Machine

/-! ## A strike -/

theorem State.wrBytes_then_errRing (s : State) (a : Nat) (bs : List Byte) (r : RecRing) :
    { s.wrBytes a bs with errRing := r } = { s with mem := Memory.writeBytes s.mem a bs, errRing := r } := rfl

/-- A record of an error writes memory and moves the error ring on, if there is one. -/
theorem State.errRec_spec (s : State) (kind part cell ctx : Nat) (d1 d2 : Word) :
    ∃ m r, s.errRec kind part cell ctx d1 d2 = { s with mem := m, errRing := r } ∧ (s.errRing.base = 0 → m = s.mem) := by
  unfold State.errRec
  dsimp only
  split
  · exact ⟨s.mem, s.errRing, rfl, fun _ => rfl⟩
  · rename_i h
    exact ⟨_, _, State.wrBytes_then_errRing _ _ _ _, fun h0 => absurd (by rw [h0]; rfl) h⟩

/-- A cell in which a strike has been counted. -/
def Cell.struck (k : Cell) : Cell := { k with perf := k.perf.put 0x18 (k.perf.getD 0x18 0 + 1) }

/-- The cells when a strike has been counted in each of a zone. -/
def struckCells (cs : List Nat) (cells : Tbl Cell) : Tbl Cell := cs.foldl (fun t c => t.put c (t.getD c {}).struck) cells

theorem State.countCells_eq (s : State) (cs : List Nat) :
    cs.foldl (fun s c => s.countCell c 0x18) s = { s with cells := struckCells cs s.cells } := by
  induction cs generalizing s with
  | nil => rfl
  | cons c cs ih =>
    rw [List.foldl_cons, ih]
    rfl

theorem struckCells_other {cs : List Nat} {cells : Tbl Cell} {c : Nat} (h : c ∉ cs) :
    (struckCells cs cells).getD c {} = cells.getD c {} := by
  induction cs generalizing cells with
  | nil => rfl
  | cons d cs ih =>
    rw [List.mem_cons, not_or] at h
    exact (ih h.2).trans (Tbl.getD_put_other _ _ _ _ _ h.1)

theorem struckCells_mem {cs : List Nat} {cells : Tbl Cell} {c : Nat} (hn : cs.Nodup) (h : c ∈ cs) :
    (struckCells cs cells).getD c {} = (cells.getD c {}).struck := by
  induction cs generalizing cells with
  | nil => exact absurd h List.not_mem_nil
  | cons d cs ih =>
    rw [List.nodup_cons] at hn
    rcases List.mem_cons.mp h with rfl | hm
    · exact (struckCells_other hn.1).trans (Tbl.getD_put_same _ _ _ _)
    · exact (ih hn.2 hm).trans (congrArg Cell.struck (Tbl.getD_put_other _ _ _ _ _ fun e => hn.1 (e ▸ hm)))

theorem zoneCells_nodup (die zone : Nat) : (zoneCells die zone).Nodup := by
  have h : zoneCells die zone = [cellAt die (zone / 8 * 2 + 0) (zone % 8 * 2 + 0), cellAt die (zone / 8 * 2 + 0) (zone % 8 * 2 + 1),
    cellAt die (zone / 8 * 2 + 1) (zone % 8 * 2 + 0), cellAt die (zone / 8 * 2 + 1) (zone % 8 * 2 + 1)] := rfl
  rw [h]
  simp [cellAt]
  omega

/-- What a zone has not committed is made again. -/
def State.remade (s : State) (cs : List Nat) (p : Packet) : Packet :=
  if p.src ≠ Config.frontEnd ∧ onMesh p.src ∈ cs ∧ p.committed = false then { p with born := s.ac (onMesh p.src) } else p

/-- The state when a strike has been counted in a zone and what it has not committed is made again. -/
def State.struck (s : State) (cs : List Nat) : State := { s with cells := struckCells cs s.cells, net := s.net.map (s.remade cs) }

theorem remade_iff (cs : List Nat) (p : Packet) :
    (p.madeAt.any cs.contains && !p.committed) = true ↔ p.src ≠ Config.frontEnd ∧ onMesh p.src ∈ cs ∧ p.committed = false := by
  unfold Packet.madeAt
  split
  · simp [*]
  · simp [*]

theorem execStrikeRollback_eq {s : State} {die zone : Nat} (hd : die < 8) (hz : zone < 64) :
    exec (.strikeRollback die zone) s = .next ((zoneCells die zone).foldl State.recompute
      ((s.struck (zoneCells die zone)).errRec 0x08 8 ((zoneCells die zone).headD 0) 0 (word zone) 0)) := by
  refine congrArg Host.Outcome.next ((if_neg (by simp; omega)).trans ?_)
  dsimp only
  rw [State.countCells_eq]
  simp only [remade_iff]
  rfl

theorem State.keepInputs_congr {s t : State} {c x : Nat} (hc : (t.cell c).core x = (s.cell c).core x) (hk : t.clock = s.clock)
    (hg : t.gated = s.gated) : t.keepInputs c = s.keepInputs c := by
  simp only [Cell.core, Prod.mk.injEq] at hc
  obtain ⟨hr, hb, hf, _⟩ := hc
  simp only [State.keepInputs, State.commits, State.ac, State.dieAc, hr, hb, hf, hk, hg]
  rfl

theorem State.struck_cell (s : State) {die zone c : Nat} (hc : c ∈ zoneCells die zone) :
    (s.struck (zoneCells die zone)).cell c = (s.cell c).struck := struckCells_mem (zoneCells_nodup die zone) hc

theorem State.struck_keepInputs (s : State) {die zone c : Nat} (hc : c ∈ zoneCells die zone) :
    (s.struck (zoneCells die zone)).keepInputs c = s.keepInputs c :=
  State.keepInputs_congr (x := 0) (by rw [s.struck_cell hc]; rfl) rfl rfl

theorem State.recompute_clean {s : State} {c : Nat} (h : ∀ r ∈ s.keepInputs c, r.bad = false) : s.recompute c = s := by
  have e : (s.keepInputs c).filter (·.bad) = [] := List.filter_eq_nil_iff.mpr fun r hr => by rw [h r hr]; exact Bool.false_ne_true
  unfold State.recompute
  rw [e]
  rfl

theorem foldl_id_of {α β : Type} {f : β → α → β} {l : List α} {s : β} (h : ∀ a ∈ l, f s a = s) : l.foldl f s = s := by
  induction l with
  | nil => rfl
  | cons a l ih =>
    rw [List.foldl_cons, h a List.mem_cons_self]
    exact ih fun x hx => h x (List.mem_cons_of_mem a hx)

/-- A strike on a zone whose retained inputs are all good changes no result: it is counted, and what has not been committed is made again. -/
theorem strikeRollback_clean {s : State} {die zone : Nat} (hd : die < 8) (hz : zone < 64)
    (h : ∀ c, c ∈ zoneCells die zone → ∀ r, r ∈ s.keepInputs c → r.bad = false) :
    ∃ t, exec (.strikeRollback die zone) s = .next t ∧ (s.errRing.base = 0 → t.mem = s.mem) ∧ t.insts = s.insts ∧ t.ops = s.ops ∧
      (t.net = s.net.map fun (p : Packet) => if p.src ≠ Config.frontEnd ∧ onMesh p.src ∈ zoneCells die zone ∧ p.committed = false then
        { p with born := s.ac (onMesh p.src) } else p) ∧
      ∀ c, c ∈ zoneCells die zone → t.cell c = { s.cell c with perf := (s.cell c).perf.put 0x18 ((s.cell c).perf.getD 0x18 0 + 1) } := by
  obtain ⟨m, r, he, hm⟩ := (s.struck (zoneCells die zone)).errRec_spec 0x08 8 ((zoneCells die zone).headD 0) 0 (word zone) 0
  have hf : (zoneCells die zone).foldl State.recompute { s.struck (zoneCells die zone) with mem := m, errRing := r } =
      { s.struck (zoneCells die zone) with mem := m, errRing := r } :=
    foldl_id_of fun c hc => State.recompute_clean fun q hq => h c hc q (s.struck_keepInputs hc ▸ hq)
  exact ⟨_, execStrikeRollback_eq hd hz, by rw [he, hf]; exact hm, by rw [he, hf]; rfl, by rw [he, hf]; rfl, by rw [he, hf]; rfl,
    fun c hc => by rw [he, hf]; exact s.struck_cell hc⟩

/-! ## A strike on inputs that cannot be corrected -/

variable {E : Nat → Nat → Prop} {b : State}

/-- Nothing of a name is left among the instances. -/
def State.Gone (s : State) (f id : Nat) : Prop := ∀ j ∈ s.insts, (j.fn, j.id) ≠ (f, id)

theorem Quiet.gone {s : State} {f id : Nat} (h : Quiet E b s) (hg : b.Gone f id) : s.Gone f id := fun j hj => by
  obtain ⟨i, hi, e⟩ := h.seat_of j hj
  simp only [Inst.seat, Prod.mk.injEq] at e
  obtain ⟨ef, ei, _⟩ := e
  rw [ef, ei]
  exact hg i hi

theorem State.Gone.inst? {s : State} {f id : Nat} (h : s.Gone f id) : s.inst? f id = none :=
  List.find?_eq_none.mpr fun j hj => by
    have := h j hj
    rw [Ne, Prod.mk.injEq] at this
    simpa using this

theorem State.gone_of_inst? {s : State} {f id : Nat} (h : s.inst? f id = none) : s.Gone f id := fun j hj e => by
  have := List.find?_eq_none.mp h j hj
  simp only [Prod.mk.injEq] at e
  simp [e] at this

theorem State.inst?_name {s : State} {f id : Nat} {i : Inst} (h : s.inst? f id = some i) : i.fn = f ∧ i.id = id := by
  simpa using List.find?_some h

theorem State.kill_gone (s : State) (i : Inst) (st : EndStatus) (recd : List Word) (t : Word) : (s.kill i st recd t).Gone i.fn i.id := by
  unfold State.kill State.endInst
  extract_lets u v w
  refine (State.complete_quiet (Quiet.refl (E := fun _ _ => False) w)).gone fun j hj e => ?_
  have := (List.mem_filter.mp hj).2
  simp only [Prod.mk.injEq] at e
  simp [e] at this

/-- A firing outside any region that cannot be recomputed takes its owner with it. -/
theorem State.poisonFiring_gone {s : State} {c x base f id : Nat} (h : (s.cx c x).inst = some (f, id)) :
    (s.poisonFiring c x 0 base).Gone f id := by
  have ha : s.instAt c x = s.inst? f id := by
    unfold State.instAt
    rw [h]
  cases hi : s.inst? f id with
  | none =>
    unfold State.poisonFiring
    rw [ha, hi]
    exact State.gone_of_inst? hi
  | some i =>
    unfold State.poisonFiring
    rw [ha, hi]
    obtain ⟨rfl, rfl⟩ := State.inst?_name hi
    exact State.kill_gone _ _ _ _ _

/-- The retained inputs of a cell without those that cannot be corrected. -/
def State.cleaned (s : State) (c : Nat) : State :=
  if ((s.keepInputs c).filter (·.bad)).isEmpty then s else s.modCell c fun d => { d with retained := d.retained.filter fun r => !r.bad }

theorem State.recompute_eq (s : State) (c : Nat) : s.recompute c =
    ((s.keepInputs c).filter (·.bad)).foldl (fun s r => s.poisonFiring c r.ctx r.region r.base) (s.cleaned c) := rfl

theorem State.cleaned_quiet {s : State} {c : Nat} (hE : ∀ x, E c x) (h : Quiet E b s) : Quiet E b (s.cleaned c) :=
  ite_quiet h (State.modCell_quiet (fun x => .inl (hE x)) h)

theorem State.recompute_quiet {s : State} {c : Nat} (hE : ∀ x, E c x) (h : Quiet E b s) : Quiet E b (s.recompute c) := by
  rw [State.recompute_eq]
  exact foldl_quiet (fun _ _ h1 => State.poisonFiring_quiet h1) (State.cleaned_quiet hE h)

theorem State.cleaned_inst (s : State) (c x : Nat) : ((s.cleaned c).cx c x).inst = (s.cx c x).inst := by
  unfold State.cleaned
  split
  · rfl
  · simp only [State.cx, State.cell, State.modCell, Tbl.getD_put_same]
    rfl

theorem State.cleaned_insts (s : State) (c : Nat) : (s.cleaned c).insts = s.insts := by
  unfold State.cleaned
  split <;> rfl

/-- The context of a cell belongs to its only owner until that goes. -/
theorem Quiet.inst_or_gone {s : State} {c x f id : Nat} (h : Quiet E b s) (hE : ¬E c x) (ho : SoleOwner b.insts c x f id) :
    s.Gone f id ∨ (s.cell c).core x = (b.cell c).core x :=
  (h.core_of c x f id ho).imp_right fun hk => hk.resolve_left hE

theorem SoleOwner.of_quiet {s : State} {c x f id : Nat} (h : Quiet E b s) (ho : SoleOwner b.insts c x f id) : SoleOwner s.insts c x f id :=
  fun j hj hc hx => by
    obtain ⟨i, hi, e⟩ := h.seat_of j hj
    simp only [Inst.seat, Prod.mk.injEq] at e
    obtain ⟨ef, ei, ex, ep⟩ := e
    rw [ef, ei]
    exact ho i hi (ep ▸ hc) (ex ▸ hx)

/-- A cell that recomputes from an input that cannot be corrected ends the owner of its firing. -/
theorem State.recompute_gone {s : State} {c f id : Nat} {r : Retained} (hr : r ∈ s.keepInputs c) (hb : r.bad = true) (h0 : r.region = 0)
    (hi : (s.cx c r.ctx).inst = some (f, id)) (ho : SoleOwner s.insts c r.ctx f id) : (s.recompute c).Gone f id := by
  rw [State.recompute_eq]
  obtain ⟨pre, post, e⟩ := List.append_of_mem (List.mem_filter.mpr ⟨hr, hb⟩)
  rw [e, List.foldl_append, List.foldl_cons, h0]
  refine (foldl_quiet (E := fun _ _ => False) (fun _ _ h1 => State.poisonFiring_quiet h1) (Quiet.refl _)).gone ?_
  have hq : Quiet (fun _ _ => False) (s.cleaned c) (pre.foldl (fun s r => s.poisonFiring c r.ctx r.region r.base) (s.cleaned c)) :=
    foldl_quiet (fun _ _ h1 => State.poisonFiring_quiet h1) (Quiet.refl _)
  rcases hq.inst_or_gone (fun h => h) (s.cleaned_insts c ▸ ho) with hg | hk
  · exact (State.poisonFiring_quiet (E := fun _ _ => False) (Quiet.refl _)).gone hg
  · refine State.poisonFiring_gone ?_
    have := (Prod.mk.inj (Prod.mk.inj (Prod.mk.inj hk).2).2).2
    exact this.trans ((s.cleaned_inst c r.ctx).trans hi)

theorem foldl_recompute_quiet {s : State} {cs : List Nat} (hE : ∀ c ∈ cs, ∀ x, E c x) (h : Quiet E b s) :
    Quiet E b (cs.foldl State.recompute s) :=
  List.foldlRecOn cs _ h fun _ ht c hc => State.recompute_quiet (hE c hc) ht

/-- The recomputation of a zone ends the owner of a firing that it finds an input of that cannot be corrected. -/
theorem foldl_recompute_gone {s : State} {cs : List Nat} {c f id : Nat} {r : Retained} (hc : c ∈ cs) (hr : r ∈ s.keepInputs c)
    (hb : r.bad = true) (h0 : r.region = 0) (hi : (s.cx c r.ctx).inst = some (f, id)) (ho : SoleOwner s.insts c r.ctx f id) :
    (cs.foldl State.recompute s).Gone f id := by
  obtain ⟨pre, post, rfl, hp⟩ := List.eq_append_cons_of_mem hc
  rw [List.foldl_append, List.foldl_cons]
  refine (foldl_recompute_quiet (E := fun _ _ => True) (fun _ _ _ => trivial) (Quiet.refl _)).gone ?_
  have hq : Quiet (fun d _ => d ≠ c) s (pre.foldl State.recompute s) :=
    foldl_recompute_quiet (fun d hd _ e => hp (e ▸ hd)) (Quiet.refl s)
  rcases hq.inst_or_gone (fun h => h rfl) ho with hg | hk
  · exact (State.recompute_quiet (E := fun _ _ => True) (fun _ => trivial) (Quiet.refl _)).gone hg
  · refine State.recompute_gone ?_ hb h0 ?_ (ho.of_quiet hq)
    · rwa [State.keepInputs_congr hk hq.clock_eq hq.gated_eq]
    · exact (Prod.mk.inj (Prod.mk.inj (Prod.mk.inj hk).2).2).2.trans hi

theorem State.instAt_inst {s : State} {c x : Nat} {i : Inst} (h : s.instAt c x = some i) : (s.cx c x).inst = some (i.fn, i.id) := by
  unfold State.instAt at h
  split at h
  · rename_i f id e
    obtain ⟨rfl, rfl⟩ := State.inst?_name h
    exact e
  · exact (Option.some_ne_none _ h.symm).elim

theorem strikeRollback_gone {s : State} {die zone c : Nat} {r : Retained} {i : Inst} (hd : die < 8) (hz : zone < 64)
    (hc : c ∈ zoneCells die zone) (hr : r ∈ s.keepInputs c) (hb : r.bad = true) (h0 : r.region = 0) (hi : s.instAt c r.ctx = some i)
    (ho : SoleOwner s.insts c r.ctx i.fn i.id) : ∃ t, exec (.strikeRollback die zone) s = .next t ∧ t.inst? i.fn i.id = none := by
  obtain ⟨m, q, he, _⟩ := (s.struck (zoneCells die zone)).errRec_spec 0x08 8 ((zoneCells die zone).headD 0) 0 (word zone) 0
  refine ⟨_, execStrikeRollback_eq hd hz, State.Gone.inst? ?_⟩
  rw [he]
  refine foldl_recompute_gone hc ?_ hb h0 ?_ ho
  · exact (s.struck_keepInputs hc).symm ▸ hr
  · have hk : ((s.struck (zoneCells die zone)).cx c r.ctx).inst = (s.cx c r.ctx).inst := by
      unfold State.cx
      rw [s.struck_cell hc]
      rfl
    exact hk.trans (State.instAt_inst hi)

end Sys2Proof.Machine
end

section
/-! PROOFS. Septord ports, committed results, global time and checkpoints (O60). -/

namespace Sys2Proof.Machine

/-! ## Septord ports -/

theorem State.setPort_eq {s : State} {p : Nat} {v : SeptordPort} (h : p < 16) :
    s.setPort p v = { s with links := { s.links with septord := s.links.septord.set p v h } } := dif_pos h

theorem State.portAt_setPort {s : State} {p : Nat} {v : SeptordPort} (h : p < 16) : (s.setPort p v).portAt p = v := by
  rw [State.setPort_eq h]
  exact getD_vectorSet_same _ _ _ _ h

theorem septordResend_lost {s : State} {port : Nat} (h : s.portAt port = .lost) : exec (.septordResend port) s = .next s :=
  congrArg Host.Outcome.next (if_neg (by simp [h]))

theorem septordResend_up {s : State} {port : Nat} (hp : port < 16) (h : s.portAt port ≠ .lost) :
    let w := (s.layer port).window
    ∃ n, (w ≠ [] → n < w.length) ∧ exec (.septordResend port) s = .next { s with
      links := { s.links with resends := s.links.resends.put port (s.links.resends.getD port 0 + 1) }
      septord := s.septord ++ (w.drop n).map (SepOut.packet port)
      free := s.free + 1 } := by
  intro w
  refine ⟨Config.septordFails s.free % Nat.max 1 w.length, fun hw => ?_, congrArg Host.Outcome.next (if_pos (by simp [h, hp]))⟩
  have hl : 1 ≤ w.length := List.length_pos_iff.mpr hw
  have hm : Nat.max 1 w.length = w.length := Nat.max_eq_right hl
  rw [hm]
  exact Nat.mod_lt _ hl

theorem septordPortLost_stands {s : State} {port : Nat} (h : (s.portAt port == .lost || !s.portDead port) = true) :
    exec (.septordPortLost port) s = .next s :=
  congrArg Host.Outcome.next (if_pos (by rw [Bool.or_assoc, h, Bool.or_true]))

theorem State.portDead_iff {s : State} {port : Nat} :
    s.portDead port = true ↔ (s.layer port).window ≠ [] ∧ (s.layer port).since + 2 ^ 16 ≤ s.clock.nc := by
  unfold State.portDead
  rw [Bool.and_eq_true, decide_eq_true_eq, Bool.not_eq_true', List.isEmpty_eq_false_iff, Config.septordLimit]

theorem septordPortLost_alive {s : State} {port : Nat} (h : (s.layer port).window = [] ∨ s.clock.nc < (s.layer port).since + 2 ^ 16) :
    exec (.septordPortLost port) s = .next s := by
  refine septordPortLost_stands ?_
  rw [Bool.or_eq_true, Bool.not_eq_true', Bool.eq_false_iff, Ne, State.portDead_iff]
  exact .inr fun ⟨hw, hn⟩ => h.elim hw (Nat.not_lt.mpr hn)

/-- The ports and the bad-cell register stand. -/
def SamePorts (s t : State) : Prop := t.links.septord = s.links.septord ∧ t.links.bad = s.links.bad

theorem SamePorts.trans {s t u : State} (h : SamePorts s t) (h' : SamePorts t u) : SamePorts s u :=
  ⟨h'.1.trans h.1, h'.2.trans h.2⟩

theorem SamePorts.of_links {s t : State} (h : t.links = s.links) : SamePorts s t := ⟨congrArg Links.septord h, congrArg Links.bad h⟩

theorem foldl_samePorts {α : Type} {f : State → α → State} (hf : ∀ s a, SamePorts s (f s a)) (l : List α) (s : State) :
    SamePorts s (l.foldl f s) := by
  induction l generalizing s with
  | nil => exact .of_links rfl
  | cons a l ih => exact (hf s a).trans (ih (f s a))

theorem State.sendPeer_samePorts (s : State) (id k : Nat) : SamePorts s (s.sendPeer id k) := by
  unfold State.sendPeer
  split
  · exact .of_links rfl
  · split
    · split
      · exact .of_links rfl
      · dsimp only
        split
        · exact .of_links rfl
        · exact ⟨rfl, rfl⟩
    · exact .of_links rfl

theorem State.losePeers_links (s : State) : s.losePeers.links = s.links :=
  (State.losePeers_quiet (Quiet.refl (E := fun _ _ => False) s)).links_eq

/-- The state in which a Septord port is entered as lost. -/
def State.markPort (s : State) (port : Nat) : State :=
  (((s.setPort port .lost).setLayer port {}).addBad 6 port 0 0).errRec 0x0A 8 0 0 (word port) 0

theorem septordPortLost_dead {s : State} {port : Nat} (hp : port < 16) (h : s.portAt port ≠ .lost) (hd : s.portDead port = true) :
    ∃ t, exec (.septordPortLost port) s = .next t ∧ SamePorts (s.markPort port) t := by
  refine ⟨_, congrArg Host.Outcome.next (if_neg (by simp [h, hd, hp])), ?_⟩
  exact ((foldl_samePorts (f := fun (s : State) (q : SepPacket) => s.modPiece q.op q.piece fun p => { p with via := none })
    (fun _ _ => .of_links rfl) _ _).trans (foldl_samePorts (fun s (q : SepPacket) => s.sendPeer_samePorts q.op q.piece) _ _)).trans
    (.of_links (State.losePeers_links _))

theorem State.markPort_links (s : State) (port : Nat) :
    (s.markPort port).links = (((s.setPort port .lost).setLayer port {}).addBad 6 port 0 0).links := State.errRec_links _ _ _ _ _ _ _

theorem State.markPort_portAt (s : State) {port : Nat} (hp : port < 16) : (s.markPort port).portAt port = .lost := by
  obtain ⟨es, he, _⟩ := ((s.setPort port .lost).setLayer port {}).addBad_spec 6 port 0 0
  rw [State.portAt, State.markPort_links, he]
  exact State.portAt_setPort hp

theorem State.markPort_bad (s : State) {port : Nat} (hp : port < 16) (h : s.links.bad.length < 256) :
    ∃ e, (s.markPort port).links.bad = s.links.bad ++ [e] ∧ e.kind = 6 ∧ e.loc = port := by
  have hb : ((s.setPort port .lost).setLayer port {}).links.bad = s.links.bad := by rw [State.setPort_eq hp]; rfl
  obtain ⟨e, he, hk, hl, _⟩ := State.addBad_bad (s := (s.setPort port .lost).setLayer port {}) (kind := 6) (loc := port) (dir := 0)
    (lane := 0) (by rwa [hb])
  exact ⟨e, by rw [State.markPort_links, he, hb], hk, hl⟩

theorem septordPortLost_spec {s : State} {port : Nat} (hp : port < 16) (h : s.portAt port ≠ .lost) (hw : (s.layer port).window ≠ [])
    (hn : (s.layer port).since + 2 ^ 16 ≤ s.clock.nc) : ∃ t, exec (.septordPortLost port) s = .next t ∧ t.portAt port = .lost ∧
      (s.links.bad.length < 256 → ∃ e, t.links.bad = s.links.bad ++ [e] ∧ e.kind = 6 ∧ e.loc = port) := by
  obtain ⟨t, ht, hs, hb⟩ := septordPortLost_dead hp h (State.portDead_iff.mpr ⟨hw, hn⟩)
  refine ⟨t, ht, ?_, fun hl => ?_⟩
  · rw [State.portAt, hs]
    exact s.markPort_portAt hp
  · rw [hb]
    exact s.markPort_bad hp hl

theorem septordLaneLost_spec {s : State} {port lane : Nat} (hp : port < 16) (h : s.portAt port ≠ .lost) (hl : lane < 8) :
    ∃ t, exec (.septordLaneLost port lane) s = .next t ∧ t.portAt port = .half ∧
      (s.links.bad.length < 256 → ∃ e, t.links.bad = s.links.bad ++ [e] ∧ e.kind = 5 ∧ e.loc = port ∧ e.lane = lane) := by
  refine ⟨_, congrArg Host.Outcome.next (if_neg (by simp [h]; omega)), ?_, fun hb => ?_⟩
  · obtain ⟨es, he, _⟩ := (s.setPort port .half).addBad_spec 5 port 0 lane
    rw [State.portAt, State.errRec_links, he]
    exact State.portAt_setPort hp
  · have hs : (s.setPort port .half).links.bad = s.links.bad := by rw [State.setPort_eq hp]
    obtain ⟨e, he, hk, hloc, _, hlane⟩ := State.addBad_bad (s := s.setPort port .half) (kind := 5) (loc := port) (dir := 0) (lane := lane)
      (by rwa [hs])
    exact ⟨e, by rw [State.errRec_links, he, hs], hk, hloc, hlane⟩

/-! ## Results commit -/

theorem commits_iff {s : State} {c : Nat} {p : Packet} : (decide (p.madeAt = some c) && s.commits c p.born) = true ↔
    p.src ≠ Config.frontEnd ∧ onMesh p.src = c ∧ p.born + 160 ≤ s.ac c := by
  unfold Packet.madeAt State.commits
  rw [Config.commitDelay]
  split
  · simp [*]
  · simp [*]

theorem resultCommit_spec (s : State) (c : Nat) : ∃ t, exec (.resultCommit c) s = .next t ∧
    (t.net = s.net.map fun (p : Packet) =>
      if p.src ≠ Config.frontEnd ∧ onMesh p.src = c ∧ p.born + 160 ≤ s.ac c then { p with committed := true } else p) ∧
    t.ops = s.ops ∧ t.mem = s.mem ∧ t.insts = s.insts ∧ ((s.cell c).retained = [] → t.cells = s.cells) := by
  refine ⟨_, rfl, ?_⟩
  simp only [commits_iff]
  split
  · exact ⟨rfl, rfl, rfl, rfl, fun _ => rfl⟩
  · rename_i h
    exact ⟨rfl, rfl, rfl, rfl, fun hn => absurd (List.isEmpty_iff.mpr hn) h⟩

/-! ## Global time -/

theorem linked_iff (s : State) : (List.range 16).any (fun p => s.portAt p != .lost) = true ↔ ∃ p, p < 16 ∧ s.portAt p ≠ .lost := by
  simp

theorem timeLock_spec (s : State) (ref : Word) :
    let off : Int := ref.toNat - (s.now 0).toNat
    let k := { s.clock with gtoff := BitVec.ofInt 32 off }
    (s.clock.stepped = true → exec (.timeLock ref) s = .next { s with clock := { k with gtst := .locked, slew := off } }) ∧
    (s.clock.stepped = false → s.now 0 < ref → exec (.timeLock ref) s = .next
      { s with clock := { k with gtst := .locked, stepped := true, slew := 0, gt := Vector.replicate 8 ref } }) ∧
    (s.clock.stepped = false → ref ≤ s.now 0 → exec (.timeLock ref) s = .next { s with clock := { k with gtst := .locking } }) :=
  ⟨fun h => congrArg Host.Outcome.next (if_pos h),
    fun h hl => congrArg Host.Outcome.next ((if_neg (by simp [h])).trans (if_pos hl)),
    fun h hl => congrArg Host.Outcome.next ((if_neg (by simp [h])).trans (if_neg (BitVec.not_lt.mpr hl)))⟩

theorem followLinked_spec (s : State) (ref : Word) :
    let off : Int := ref.toNat - (s.now 0).toNat
    (s.clock.gtst = .locked ∨ (∀ p, p < 16 → s.portAt p = .lost) → s.followLinked ref = s) ∧
    (s.clock.gtst ≠ .locked → (∃ p, p < 16 ∧ s.portAt p ≠ .lost) →
      (s.clock.stepped = true → s.followLinked ref = { s with clock := { s.clock with slew := off } }) ∧
      (s.clock.stepped = false → s.now 0 < ref → s.followLinked ref =
        { s with clock := { s.clock with stepped := true, slew := 0, gt := Vector.replicate 8 ref } })) := by
  intro off
  refine ⟨fun h => if_pos ?_, fun hg hp => ?_⟩
  · rcases h with h | h
    · simp [h]
    · rw [Bool.or_eq_true, Bool.not_eq_true', Bool.eq_false_iff, Ne, linked_iff]
      exact .inr fun ⟨p, hp, hn⟩ => hn (h p hp)
  · have hc : ¬(s.clock.gtst == .locked || !(List.range 16).any (fun p => s.portAt p != .lost)) = true := by
      rw [(linked_iff s).mpr hp]
      simpa using hg
    exact ⟨fun hs => (if_neg hc).trans (if_pos hs), fun hs hl => (if_neg hc).trans ((if_neg (by simp [hs])).trans (if_pos hl))⟩

/-! ## Checkpoints -/

theorem bit_eq_getLsbD (w : Word) (n : Nat) : bit w n = w.getLsbD n := by
  rw [bit, BitVec.getLsbD, Nat.testBit_eq_decide_div_mod_eq]

theorem State.mem_ckptPorts {s : State} {p : Nat} :
    p ∈ s.ckptPorts ↔ p < 16 ∧ s.ckpt.ctl.getLsbD (16 + p) = true ∧ s.portAt p ≠ .lost := by
  simp [State.ckptPorts, bit_eq_getLsbD]

theorem State.ckptUp_iff {s : State} : s.ckptUp = true ↔ ∃ p, p < 16 ∧ s.ckpt.ctl.getLsbD (16 + p) = true ∧ s.portAt p ≠ .lost := by
  simp only [← State.mem_ckptPorts, State.ckptUp, Bool.not_eq_true', List.isEmpty_eq_false_iff, Ne, List.eq_nil_iff_forall_not_mem, not_forall,
    not_not]

theorem State.ckptPort_mem {s : State} (h : s.ckptUp = true) (page : Nat) : s.ckptPort page ∈ s.ckptPorts := by
  have hl : 0 < s.ckptPorts.length := by
    rw [List.length_pos_iff]
    simpa [State.ckptUp] using h
  unfold State.ckptPort
  rw [List.getD_eq_getElem _ _ (Nat.mod_lt _ hl)]
  exact List.getElem_mem _

theorem ckptStart_spec {s : State} {v : Word} (hv : v.getLsbD 0 = true) (hs : s.ckpt.st ≠ 1) : exec (.ckptStart v) s = .next { s with ckpt :=
    { todo := s.ckptPages (bits v 48 8), ctl := v &&& 0x00FFFFFFFFFF0001, st := 1, pages := 0, cut := s.now 0, rseqs := s.cutRecord } } :=
  congrArg Host.Outcome.next (if_neg (by simpa [bit_eq_getLsbD, hv] using hs))

theorem ckptEnd_done {s : State} (h : s.ckpt.st = 1) (hu : s.ckptUp = true) (ht : s.ckpt.todo = []) : exec (.ckptEnd true) s = .next
    { s with
      ckpt := { s.ckpt with st := 2, ctl := s.ckpt.ctl &&& ~~~1 }
      septord := s.septord ++ [.cut (s.ckptPort 0) s.ckpt.rseqs] } :=
  congrArg Host.Outcome.next ((if_neg (by simp [h])).trans ((if_pos (by simp [hu])).trans (if_pos (by simp [ht]))))

theorem ckptEnd_waits {s : State} {ok : Bool} (h : s.ckpt.st = 1) (hu : s.ckptUp = true) (ho : ok = false ∨ s.ckpt.todo ≠ []) :
    exec (.ckptEnd ok) s = .next s := by
  refine congrArg Host.Outcome.next ((if_neg (by simp [h])).trans ?_)
  cases ok with
  | false => exact (if_neg (by simp)).trans (if_pos hu)
  | true =>
    have ht : ¬s.ckpt.todo.isEmpty = true := fun e => ho.elim (by simp) fun hn => hn (List.isEmpty_iff.mp e)
    exact (if_pos (by simp [hu])).trans (if_neg ht)

theorem ckptEnd_failed {s : State} {ok : Bool} (h : s.ckpt.st = 1) (hu : s.ckptUp = false) :
    exec (.ckptEnd ok) s = .next { s with ckpt := { s.ckpt with st := 3, todo := [], ctl := s.ckpt.ctl &&& ~~~1 } } :=
  congrArg Host.Outcome.next ((if_neg (by simp [h])).trans ((if_neg (by simp [hu])).trans (if_neg (by simp [hu]))))

/-- The granules of pages that are streamed, checked. -/
def State.checked (s : State) (ps : List Nat) : State := (s.unchecked.filter fun g => ps.contains (g / 1024)).foldl State.checkGran s

theorem State.checked_ckpt (s : State) (ps : List Nat) : (s.checked ps).ckpt = s.ckpt :=
  (foldl_quiet (fun _ _ h => State.checkGran_quiet h) (Quiet.refl (E := fun _ _ => False) s)).ckpt_eq

/-- A page streamed, in its place in the order. -/
theorem State.ckptPage_eq {s : State} {p : Nat} {ps : List Nat} (h : s.ckpt.todo = p :: ps) (hu : s.ckptUp = true) :
    let out := (p :: ps).filter [p].contains
    let t := s.checked out
    s.ckptPage = { t with
      ckpt := { t.ckpt with
        todo := t.ckpt.todo.filter fun p => !out.contains p
        pages := t.ckpt.pages + BitVec.ofNat 56 out.length }
      septord := t.septord ++ out.map fun p => SepOut.page (t.ckptPort p) p (t.mem.filter fun c => c.1 / 2 ^ 16 == p) } := by
  intro out t
  unfold State.ckptPage State.streamed
  rw [h]
  dsimp only
  rw [if_pos hu, if_neg (by simp [hu])]
  rfl

theorem filter_contains_singleton (p : Nat) (l : List Nat) : l.filter [p].contains = l.filter fun q => q == p :=
  List.filter_congr fun q _ => by simp [Bool.beq_eq_decide_eq]

theorem ckptPage_todo {s : State} {p : Nat} {ps : List Nat} (h : s.ckpt.todo = p :: ps) (hu : s.ckptUp = true) :
    p ∉ s.ckptPage.ckpt.todo := by
  rw [State.ckptPage_eq h hu]
  dsimp only
  rw [State.checked_ckpt, h]
  simp

theorem ckptPage_pages {s : State} {p : Nat} {ps : List Nat} (h : s.ckpt.todo = p :: ps) (hu : s.ckptUp = true) :
    s.ckptPage.ckpt.pages = s.ckpt.pages + BitVec.ofNat 56 ((p :: ps).filter fun q => q == p).length := by
  rw [State.ckptPage_eq h hu]
  dsimp only
  rw [State.checked_ckpt, filter_contains_singleton]

theorem ckptPage_septord {s : State} {p : Nat} {ps : List Nat} (h : s.ckpt.todo = p :: ps) (hu : s.ckptUp = true) (hp : p ∉ ps)
    (hg : ∀ g, g ∈ s.unchecked → g / 1024 ≠ p) : s.ckptPage.septord =
      s.septord ++ [.page (s.ckptPort p) p (s.mem.filter fun c => c.1 / 2 ^ 16 == p)] := by
  have ho : (p :: ps).filter [p].contains = [p] := by
    rw [filter_contains_singleton, List.filter_cons_of_pos (by simp), List.filter_eq_nil_iff.mpr]
    intro q hq e
    have e : q = p := by simpa using e
    exact hp (e ▸ hq)
  have hc : s.checked [p] = s := by
    have e : (s.unchecked.filter fun g => [p].contains (g / 1024)) = [] := List.filter_eq_nil_iff.mpr fun g hm => by simpa using hg g hm
    rw [State.checked, e]
    rfl
  rw [State.ckptPage_eq h hu, ho, hc]
  rfl

end Sys2Proof.Machine
end

section
/-! PROOFS. Power, links and time (O60). -/

namespace Sys2Proof.Machine

/-! ## The obligation -/

/-- Settles O60: each clause is the lemma above that carries the name of its instruction. -/
theorem powerLinksAndTime : Obligations.PowerLinksAndTime := by
  unfold Obligations.PowerLinksAndTime
  intro s
  obtain ⟨hloss, hcut, hon, hoff⟩ := power_spec s
  refine ⟨hloss, hcut, hon, hoff, fun _ _ => throttle_spec, fun _ _ hc _ => hopRetry_spec hc, fun _ _ _ => execHopFailed_stands,
    fun _ _ => hopFailed_spec, fun die hd => ?_, fun port hp => ?_, resultCommit_spec s, fun ref => ?_, fun _ => ckptStart_spec,
    fun ok hst => ?_⟩
  case refine_1 =>
    obtain ⟨hdone, hno⟩ := ringRetrainDone_spec (s := s) hd
    exact ⟨ringLinkLost_spec hd, hdone, hno, fun _ _ => ringLaneLost_spec hd, fun _ _ _ _ hz => strikeRollback_gone hd hz,
      fun _ => strikeRollback_clean hd⟩
  case refine_2 =>
    exact ⟨fun h => ⟨septordResend_lost h, septordPortLost_stands (by rw [h]; rfl)⟩, septordPortLost_alive, fun h =>
      ⟨septordResend_up hp h, septordPortLost_spec hp h, fun _ => septordLaneLost_spec hp h⟩⟩
  case refine_3 =>
    obtain ⟨hstep, hfirst, hlate⟩ := timeLock_spec s ref
    obtain ⟨hstands, hfollows⟩ := followLinked_spec s ref
    exact ⟨hstep, hfirst, hlate, hstands, hfollows, rfl⟩
  case refine_4 =>
    refine ⟨fun hu => ?_, fun hall => ckptEnd_failed hst ?_⟩
    · have hup := State.ckptUp_iff.mpr hu
      refine ⟨fun hok ht => ?_, ckptEnd_waits hst hup, fun p ps ht => ⟨ckptPage_todo ht hup, ckptPage_pages ht hup, fun hp hg => ?_⟩⟩
      · obtain ⟨hn, hctl, hport⟩ := State.mem_ckptPorts.mp (State.ckptPort_mem hup 0)
        exact ⟨_, hn, hctl, hport, hok ▸ ckptEnd_done hst hup ht⟩
      · obtain ⟨hn, hctl, hport⟩ := State.mem_ckptPorts.mp (State.ckptPort_mem hup p)
        exact ⟨_, hn, hctl, hport, ckptPage_septord ht hup hp hg⟩
    · rw [Bool.eq_false_iff, Ne, State.ckptUp_iff]
      exact fun ⟨p, hp, hctl, hport⟩ => hport (hall p hp hctl)

end Sys2Proof.Machine
end

section
/-! PROOFS. Changes of one cell made one change, and what the lane is after an instruction that goes on (R43, R157): the layer that the
statements about the lane's instructions share. -/

namespace Sys2Proof

/-- An entry entered twice holds the second value. -/
@[simp] theorem Tbl.put_put {α : Type} (t : Tbl α) (n : Nat) (v w : α) : (t.put n v).put n w = t.put n w := by
  induction t with
  | nil => simp [Tbl.put]
  | cons e t ih =>
    obtain ⟨k, u⟩ := e
    simp only [Tbl.put]
    split
    · simp [Tbl.put]
    · next h =>
      split
      · simp [Tbl.put]
      · next hk => simp [Tbl.put, h, hk, ih]

namespace Machine

/-! ## Changes of one cell -/

/-- Two changes of one cell are one. -/
theorem State.modCell_modCell (s : State) (c : Nat) (f g : Cell → Cell) :
    (s.modCell c f).modCell c g = s.modCell c fun k => g (f k) := by
  simp [State.modCell, State.cell]

/-- Two changes of one context are one. -/
theorem Cell.modCx_modCx (c : Cell) (x : Nat) (f g : Ctx → Ctx) : (c.modCx x f).modCx x g = c.modCx x fun k => g (f k) := by
  simp [Cell.modCx, Cell.cx]

/-- A change of a cell is told by what it makes of the cell as it stands. -/
theorem State.modCell_congr (s : State) (c : Nat) {f g : Cell → Cell} (h : f (s.cell c) = g (s.cell c)) :
    s.modCell c f = s.modCell c g := by
  simp [State.modCell, h]

theorem onlyAt_modCell (s : State) (c : Nat) (f : Cell → Cell) : OnlyAt s c (s.modCell c f) :=
  ⟨rfl, fun d h => s.cell_modCell_other c d f h⟩

theorem onlyCell_modCell (s : State) (f : Cell → Cell) : OnlyCell s (s.modCell s.cur f) :=
  ⟨rfl, fun d h => s.cell_modCell_other s.cur d f h⟩

@[simp] theorem State.lane_modCell (s : State) (f : Cell → Cell) : (s.modCell s.cur f).lane = (f (s.cell s.cur)).lane := by
  simp [State.lane]

/-- A context of a cell that was changed. -/
@[simp] theorem State.cx_modCell (s : State) (c x : Nat) (f : Cell → Cell) : (s.modCell c f).cx c x = (f (s.cell c)).cx x := by
  simp [State.cx]

@[simp] theorem State.cx_modCell_other (s : State) (c d x : Nat) (f : Cell → Cell) (h : d ≠ c) : (s.modCell c f).cx d x = s.cx d x := by
  simp [State.cx, h]

/-! ## The lane goes on -/

/-- The lane goes on after an operation that left it at its firing and its word. -/
theorem step1_of_fir {s u : State} (hcur : u.cur = s.cur) (hfir : u.fir = s.fir) (hfrees : u.lane.frees = s.lane.frees)
    (himg : u.fcx.image = s.fcx.image) (hp : s.plain) :
    u.step1 = u.modCell s.cur fun c => { c with
      lane := if s.atLast then {} else { u.lane with fir := { s.fir with ia := s.fir.ia + 1 } } } := by
  have hlast : u.atLast = s.atLast := by simp [State.atLast, State.fhdr, hfir, himg]
  rw [step1_eq u fun h => by rw [hfrees]; exact hp (hlast ▸ h), State.modLane, hcur, State.laneAfter, hlast, hfir]

/-- The same where it left the lane as it was but for the registers. -/
theorem step1_of_lane {s u : State} {r : Regs} (hcur : u.cur = s.cur) (hlane : u.lane = { s.lane with regs := r })
    (himg : u.fcx.image = s.fcx.image) (hp : s.plain) :
    u.step1 = u.modCell s.cur fun c => { c with lane := s.laneAfter r } := by
  rw [step1_of_fir hcur (by simp [State.fir, hlane]) (by rw [hlane]) himg hp, hlane]
  rfl

/-- A change of the lane is told by what it makes of the lane as it stands. -/
theorem State.modLane_congr (s : State) {f g : Lane → Lane} (h : f s.lane = g s.lane) : s.modLane f = s.modLane g :=
  State.modCell_congr s s.cur (congrArg (fun l => { s.cell s.cur with lane := l }) h)

/-- Two changes of the lane are one. -/
theorem State.modLane_modLane (s : State) (f g : Lane → Lane) : (s.modLane f).modLane g = s.modLane fun l => g (f l) :=
  State.modCell_modCell ..

/-- The lane goes on after a change of it that left the firing, and the frees that wait for its end. -/
theorem step1_modLane (s : State) (f : Lane → Lane) (hfir : (f s.lane).fir = s.fir) (hfrees : (f s.lane).frees = s.lane.frees)
    (hp : s.plain) :
    (s.modLane f).step1 = s.modLane fun l => if s.atLast then {} else { f l with fir := { s.fir with ia := s.fir.ia + 1 } } := by
  have hfir' : (s.modLane f).fir = s.fir := by rw [State.fir, State.lane_modLane, hfir]
  have hfcx : (s.modLane f).fcx = s.fcx := by rw [State.fcx, hfir', State.cx_modLane]; rfl
  rw [step1_of_fir (s := s) (u := s.modLane f) rfl hfir' (by rw [State.lane_modLane, hfrees]) (by rw [hfcx]) hp, State.lane_modLane]
  exact (State.modCell_modCell ..).trans (State.modCell_congr s s.cur rfl)

/-- A cell that was changed, in a state with such cells. -/
theorem State.cell_of_cells {s t : State} {c : Nat} {f : Cell → Cell} (h : t.cells = (s.modCell c f).cells) : t.cell c = f (s.cell c) :=
  (State.cell_congr h c).trans (s.cell_modCell c f)

theorem State.cell_of_cells_other {s t : State} {c d : Nat} {f : Cell → Cell} (h : t.cells = (s.modCell c f).cells) (hd : d ≠ c) :
    t.cell d = s.cell d :=
  (State.cell_congr h d).trans (s.cell_modCell_other c d f hd)

theorem State.cx_of_cells {s t : State} {c x : Nat} {f : Cell → Cell} (h : t.cells = (s.modCell c f).cells) :
    t.cx c x = (f (s.cell c)).cx x := congrArg (·.cx x) (State.cell_of_cells h)

/-- The lane goes on after an operation that left its cell changed by `f`, and the lane as it was but for the registers: what else the
operation changed stands. -/
theorem step1_of_cells {s u : State} (f : Cell → Cell) {r : Regs} (hcells : u.cells = (s.modCell s.cur f).cells) (hcur : u.cur = s.cur)
    (hlane : (f (s.cell s.cur)).lane = { s.lane with regs := r }) (himg : ((f (s.cell s.cur)).cx s.fir.ctx).image = s.fcx.image)
    (hp : s.plain) : { u.step1 with cells := u.cells } = u ∧
      u.step1.cells = (s.modCell s.cur fun c => { f c with lane := s.laneAfter r }).cells := by
  have hcell : u.cell s.cur = f (s.cell s.cur) := State.cell_of_cells hcells
  have hl : u.lane = { s.lane with regs := r } := by rw [State.lane, hcur, hcell, hlane]
  have hi : u.fcx.image = s.fcx.image := by
    have hfir : u.fir = s.fir := by rw [State.fir, hl]; rfl
    rw [State.fcx, hfir, State.cx, hcur, hcell, himg]
  rw [step1_of_lane hcur hl hi hp]
  refine ⟨rfl, ?_⟩
  rw [State.modCell, hcell, hcells]
  simp [State.modCell]

/-- The same where nothing else was changed. -/
theorem step1_modCell (s : State) (f : Cell → Cell) {r : Regs} (hlane : (f (s.cell s.cur)).lane = { s.lane with regs := r })
    (himg : ((f (s.cell s.cur)).cx s.fir.ctx).image = s.fcx.image) (hp : s.plain) :
    (s.modCell s.cur f).step1 = s.modCell s.cur fun c => { f c with lane := s.laneAfter r } := by
  obtain ⟨hrest, hcells⟩ := step1_of_cells (u := s.modCell s.cur f) f rfl rfl hlane himg hp
  have h : (s.modCell s.cur f).step1 = { (s.modCell s.cur f) with cells := (s.modCell s.cur f).step1.cells } := 
    congrArg (fun t : State => { t with cells := (s.modCell s.cur f).step1.cells }) hrest
  rw [h, hcells]; rfl

end Machine

end Sys2Proof
end

section
/-! PROOFS. Slot instructions (O13, O14, O15): on FULL, EMPTY and DEFERRED slots, the block form of FLD, and their faults. -/

namespace Sys2Proof.Machine

/-! ## Operands -/

/-- A predicated operation whose predicate holds. -/
theorem State.guardedP_on {s : State} {p : BitVec 3} (f : State → State) (h : s.pr p = true) : s.guardedP p f = f s := if_pos h

@[simp] theorem State.withOpd_ok {α : Type} (s : State) (a : α) (f : α → State) : s.withOpd (.ok a) f = f a := rfl

@[simp] theorem State.withOpd_error {α : Type} (s : State) (e : FaultCode × Word) (f : α → State) :
    s.withOpd (.error e) f = s.raise e.1 e.2 0 := rfl

/-- A relative slot inside the live frame is an absolute one (R33, R175). -/
theorem State.absSlot_of_inFrame {s : State} {rel : Nat} (h : s.inFrame rel) : s.absSlot rel = .ok (s.fir.base + rel) := by
  obtain ⟨f, hf, hlt⟩ := h
  unfold State.absSlot
  rw [hf]
  exact if_neg (by omega)

/-- Without a live frame no slot is named (R34). -/
theorem State.absSlot_of_noFrame {s : State} {rel : Nat} (h : s.frame? s.cur s.fir.ctx s.fir.base = none) :
    s.absSlot rel = .error (.frameFree, 0) := by
  unfold State.absSlot; rw [h]

/-- A slot beyond the frame (R33). -/
theorem State.absSlot_beyond {s : State} {rel : Nat} {f : Frame} (h : s.frame? s.cur s.fir.ctx s.fir.base = some f)
    (hle : clsSlots f.cls ≤ rel) : s.absSlot rel = .error (.frameBound, word rel) := by
  unfold State.absSlot; rw [h]; exact if_pos hle

/-- A DEFERRED slot holds a deferred-reader word (R37). -/
theorem isDeferred_iff {v : Option Slot} : isDeferred v = true ↔ ∃ n a b g, v = some (.deferred n a b g) := by
  rcases v with _ | (_ | _) <;> simp [isDeferred]

/-! ## The slot instructions on a slot that is named -/

section
variable {s : State} {x i : BitVec 4} {slot : BitVec 12} {p : BitVec 3} {k : Nat}

theorem execFld_full (t : Bool) {v : Word} (hp : s.pr p = true) (hr : s.lane.resume = none) (hk : s.fslot i slot = .ok k)
    (hv : s.slot s.cur k = some (.full v)) : exec (.fld x i slot t p) s = .next (s.setX x v).step1 := by
  change execFld x i slot t p s = _
  simp only [execFld, hr, State.guardedP_on _ hp, hk, State.withOpd_ok, hv]

theorem execFld_empty (t : Bool) (hp : s.pr p = true) (hr : s.lane.resume = none) (hk : s.fslot i slot = .ok k)
    (hv : s.slot s.cur k = none) :
    exec (.fld x i slot t p) s = .next (if t then s.raise .slotTrap (word (s.relSlot i slot)) 0 else s.suspend k) := by
  change execFld x i slot t p s = _
  simp only [execFld, hr, State.guardedP_on _ hp, hk, State.withOpd_ok, hv]

theorem execFld_deferred (t : Bool) (hp : s.pr p = true) (hr : s.lane.resume = none) (hk : s.fslot i slot = .ok k)
    (hv : isDeferred (s.slot s.cur k) = true) :
    exec (.fld x i slot t p) s = .next (s.raise (if t then .slotTrap else .slotConflict) (word (s.relSlot i slot)) 0) := by
  obtain ⟨n, a, b, g, hd⟩ := isDeferred_iff.mp hv
  change execFld x i slot t p s = _
  simp only [execFld, hr, State.guardedP_on _ hp, hk, State.withOpd_ok, hd]

theorem execFst_named (hp : s.pr p = true) (hk : s.fslot i slot = .ok k) :
    exec (.fst x i slot p) s = .next (s.writeSlot s.cur k (s.x x)).step1 := by
  change execFst x i slot p s = _
  simp only [execFst, State.guardedP_on _ hp, hk, State.withOpd_ok]

theorem execFclr_named (hp : s.pr p = true) (hk : s.fslot i slot = .ok k) :
    exec (.fclr i slot p) s = .next (if isDeferred (s.slot s.cur k) then s.raise .slotConflict (word (s.relSlot i slot)) 0
      else (s.setSlot s.cur k none).step1) := by
  change execFclr i slot p s = _
  simp only [execFclr, State.guardedP_on _ hp, hk, State.withOpd_ok]

theorem execFtst_named (hp : s.pr p = true) (hk : s.fslot i slot = .ok k) :
    exec (.ftst x i slot p) s = .next (s.setX x (presence (s.slot s.cur k))).step1 := by
  change execFtst x i slot p s = _
  simp only [execFtst, State.guardedP_on _ hp, hk, State.withOpd_ok]

theorem execJoin_empty (hp : s.pr p = true) (hk : s.fslot i slot = .ok k) (hv : s.slot s.cur k = none) :
    exec (.join x i slot p) s = .next (s.raise .slotTrap (word (s.relSlot i slot)) 0) := by
  change execJoin x i slot p s = _
  simp only [execJoin, State.guardedP_on _ hp, hk, State.withOpd_ok, hv]

theorem execJoin_deferred (hp : s.pr p = true) (hk : s.fslot i slot = .ok k) (hv : isDeferred (s.slot s.cur k) = true) :
    exec (.join x i slot p) s = .next (s.raise .slotConflict (word (s.relSlot i slot)) 0) := by
  obtain ⟨n, a, b, g, hd⟩ := isDeferred_iff.mp hv
  change execJoin x i slot p s = _
  simp only [execJoin, State.guardedP_on _ hp, hk, State.withOpd_ok, hd]

theorem execJoin_zero (hp : s.pr p = true) (hk : s.fslot i slot = .ok k) (hv : s.slot s.cur k = some (.full 0)) :
    exec (.join x i slot p) s = .next (s.raise .slotTrap (word (s.relSlot i slot)) 0) := by
  change execJoin x i slot p s = _
  simp only [execJoin, State.guardedP_on _ hp, hk, State.withOpd_ok, hv, if_true]

theorem execJoin_full {v : Word} (hp : s.pr p = true) (hk : s.fslot i slot = .ok k) (hv : s.slot s.cur k = some (.full v)) (h0 : v ≠ 0) :
    exec (.join x i slot p) s =
      .next ((s.setSlot s.cur k (if v - 1 = 0 then none else some (.full (v - 1)))).setX x (v - 1)).step1 := by
  change execJoin x i slot p s = _
  simp only [execJoin, State.guardedP_on _ hp, hk, State.withOpd_ok, hv, if_neg h0]

/-- Every slot instruction takes the fault of its operand (R33, R34, R175). -/
theorem slotInstr_faults {c : FaultCode} {v : Word} (t : Bool) (hp : s.pr p = true) (hr : s.lane.resume = none)
    (hk : s.fslot i slot = .error (c, v)) :
    exec (.fld x i slot t p) s = .next (s.raise c v 0) ∧ exec (.fst x i slot p) s = .next (s.raise c v 0) ∧
      exec (.fclr i slot p) s = .next (s.raise c v 0) ∧ exec (.ftst x i slot p) s = .next (s.raise c v 0) ∧
      exec (.join x i slot p) s = .next (s.raise c v 0) := by
  change execFld x i slot t p s = _ ∧ execFst x i slot p s = _ ∧ execFclr i slot p s = _ ∧ execFtst x i slot p s = _ ∧
    execJoin x i slot p s = _
  simp only [execFld, execFst, execFclr, execFtst, execJoin, hr, State.guardedP_on _ hp, hk, State.withOpd_error, and_self]

end

/-! ## What a slot instruction leaves -/

/-- A register written and the lane gone on. -/
theorem regsOnly_setX (s : State) (x : BitVec 4) (v : Word) (hp : s.plain) : RegsOnly s (s.lane.regs.set x v) 0 (s.setX x v).step1 := by
  have h := regsOnly_write s x v 0 hp
  rwa [State.write, State.flag_zero] at h

/-- A cell with a slot set. -/
def Cell.setSlot (c : Cell) (k : Nat) (v : Option Slot) : Cell :=
  { c with
    slots := match v with | none => c.slots.del k | some w => c.slots.put k w
    ftoks := c.ftoks.filter (· != k) }

theorem State.setSlot_eq (s : State) (c k : Nat) (v : Option Slot) : s.setSlot c k v = s.modCell c fun d => d.setSlot k v := by
  cases v <;> rfl

theorem Cell.setSlot_some (c : Cell) (k : Nat) (v : Slot) :
    c.setSlot k (some v) = { c with slots := c.slots.put k v, ftoks := c.ftoks.filter (· != k) } := rfl

/-- A slot of the present cell set and the lane gone on: nothing else differs. -/
theorem setSlot_step1 (s : State) (k : Nat) (v : Option Slot) (hp : s.plain) :
    (s.setSlot s.cur k v).step1 = s.modCell s.cur fun d => { d.setSlot k v with lane := s.laneAfter s.lane.regs } := by
  rw [State.setSlot_eq]; exact step1_modCell s _ rfl rfl hp

/-- The same with a register written. -/
theorem setSlot_setX_step1 (s : State) (k : Nat) (v : Option Slot) (x : BitVec 4) (w : Word) (hp : s.plain) :
    ((s.setSlot s.cur k v).setX x w).step1 = s.modCell s.cur fun d =>
      { d.setSlot k v with lane := s.laneAfter (s.lane.regs.set x w) } := by
  rw [State.setSlot_eq, State.setX, State.modLane, State.modCell_cur, State.modCell_modCell]
  exact step1_modCell s _ rfl rfl hp

/-! ## The statements -/

/-- Settles O13: each instruction on each presence state is one change of the present cell. -/
theorem slotInstructions : Obligations.SlotInstructions := by
  unfold Obligations.SlotInstructions
  intro s x i slot p hpr hp hres hin k c put
  have hk : s.fslot i slot = .ok k := State.absSlot_of_inFrame hin
  refine ⟨fun v tf hv => ⟨_, execFld_full tf hpr hres hk hv, regsOnly_setX s x v hp⟩, ⟨_, execFtst_named hpr hk, ?_⟩,
    fun hd => ⟨_, execFst_named hpr hk, ?_⟩, fun hd => ⟨_, execFclr_named hpr hk, ?_⟩,
    fun v hv hv0 => ⟨_, execJoin_full hpr hk hv hv0, ?_⟩⟩
  · have h := regsOnly_setX s x (presence (s.slot s.cur k)) hp
    unfold presence at h
    exact h
  · rw [State.writeSlot_plain s s.cur k (s.x x) hd, setSlot_step1 s k _ hp]
    exact ⟨onlyCell_modCell s _, State.cell_modCell ..⟩
  · rw [if_neg (by simp [hd]), setSlot_step1 s k _ hp]
    exact ⟨onlyCell_modCell s _, State.cell_modCell ..⟩
  · rw [setSlot_setX_step1 s k _ x (v - 1) hp]
    refine ⟨onlyCell_modCell s _, (State.cell_modCell ..).trans ?_⟩
    have hz : v - 1 = 0 ↔ v = 1 := by bv_omega
    by_cases h1 : v = 1
    · rw [if_pos h1, if_pos (hz.mpr h1)]; rfl
    · rw [if_neg h1, if_neg (mt hz.mp h1)]; rfl

/-- Settles O15: the operand's fault, or that of the presence state. -/
theorem slotFaults : Obligations.SlotFaults := by
  unfold Obligations.SlotFaults
  intro s x i slot p hpr hres rel k d all
  refine ⟨fun hf tf => slotInstr_faults tf hpr hres (State.absSlot_of_noFrame hf),
    fun f hf hle tf => slotInstr_faults tf hpr hres (State.absSlot_beyond hf hle), fun hin hs => ?_, fun hin hs => ?_, fun hin hs => ?_⟩
  all_goals have hk : s.fslot i slot = .ok k := State.absSlot_of_inFrame hin
  · exact ⟨execFld_empty true hpr hres hk hs, execJoin_empty hpr hk hs⟩
  · exact execJoin_zero hpr hk hs
  · exact ⟨execFld_deferred true hpr hres hk hs, execFld_deferred false hpr hres hk hs,
      (execFclr_named hpr hk).trans (by rw [if_pos hs]; rfl), execJoin_deferred hpr hk hs⟩

end Sys2Proof.Machine
end

section
/-! PROOFS. A block FLD of an EMPTY slot, the FST of its slot and the resumption (O14). -/

namespace Sys2Proof

variable {α : Type}

/-- The least free key from `lo` up is the first free one. -/
theorem Tbl.firstFree_eq_some {t : Tbl α} {lo n r : Nat} (hlo : lo ≤ r) (hr : r < lo + n) (hfree : t.get? r = none)
    (htaken : ∀ j, lo ≤ j → j < r → t.get? j ≠ none) : t.firstFree lo n = some r := by
  induction n generalizing lo with
  | zero => omega
  | succ n ih =>
    unfold Tbl.firstFree
    rcases Nat.eq_or_lt_of_le hlo with rfl | hlt
    · simp [hfree]
    · have h := htaken lo le_rfl hlt
      rw [if_neg (by simpa using h)]
      exact ih hlt (by omega) fun j hj => htaken j (by omega)

theorem Tbl.firstFree_eq_none {t : Tbl α} {lo n : Nat} (h : ∀ j, lo ≤ j → j < lo + n → t.get? j ≠ none) : t.firstFree lo n = none := by
  induction n generalizing lo with
  | zero => rfl
  | succ n ih =>
    have h0 := h lo le_rfl (by omega)
    unfold Tbl.firstFree
    rw [if_neg (by simpa using h0)]
    exact ih fun j hj hn => h j (by omega) (by omega)

theorem Tbl.le_of_firstFree {t : Tbl α} {lo n r : Nat} (h : t.firstFree lo n = some r) : lo ≤ r := by
  induction n generalizing lo with
  | zero => simp [Tbl.firstFree] at h
  | succ n ih =>
    unfold Tbl.firstFree at h
    split at h
    · simp only [Option.some.injEq] at h; omega
    · exact Nat.le_of_succ_le (ih h)

namespace Machine

/-! ## Suspension records (R38) -/

/-- The lowest free on-chip record is taken. -/
theorem Cell.recKey_chip {c : Cell} {k r : Nat} (hr : r < 64) (hfree : c.recs.get? r = none)
    (htaken : ∀ j, j < r → c.recs.get? j ≠ none) : c.recKey k = r := by
  have h : c.recs.firstFree 0 Config.chipRecords = some r :=
    Tbl.firstFree_eq_some (Nat.zero_le r) (by rw [Nat.zero_add]; exact hr) hfree fun j _ => htaken j
  simp only [Cell.recKey, h]

/-- Where all on-chip records are taken, the record is one of its slot's. -/
theorem Cell.recKey_off {c : Cell} {k : Nat} (htaken : ∀ j, j < 64 → c.recs.get? j ≠ none) : 64 ≤ c.recKey k := by
  have h : c.recs.firstFree 0 Config.chipRecords = none := Tbl.firstFree_eq_none fun j _ hj => htaken j (by rwa [Nat.zero_add] at hj)
  simp only [Cell.recKey, h]
  cases hq : c.recs.firstFree (Config.chipRecords + 1024 * k) 1024 with
  | none => exact Nat.le_add_right ..
  | some r => exact le_trans (Nat.le_add_right ..) (Tbl.le_of_firstFree hq)

/-- The number of the record that a deferred-reader word holds: an on-chip one's key, or 64 plus the slot's index in its area. -/
def recNumber (key off : Nat) : Nat := if key < 64 then key else 64 + off

/-- A firing suspended at an EMPTY slot: one change of its cell. -/
theorem State.suspend_eq (s : State) (k : Nat) (hd : s.fir.dead = false) :
    s.suspend k = s.modCell s.cur fun c => Cell.modCx { c.setSlot k (some (.deferred
        (recNumber ((s.cell s.cur).recKey k) (k - s.fcx.areaStart)) s.fir.ia s.fir.prio (regionOf s.fir.tag))) with
      recs := c.recs.put ((s.cell s.cur).recKey k) { regs := s.lane.regs, fir := s.fir, slot := k, frees := s.lane.frees }
      lane := {} } s.fir.ctx fun x => { x with perf := x.perf.put 0x04 (x.perf.getD 0x04 0 + 1) } := by
  unfold State.suspend
  rw [if_neg (by simp [hd])]
  simp only [State.count, State.modCx, State.setSlot_eq, State.modCell_cur, State.modCell_modCell]
  rfl

/-- Settles O14: a suspension is one change of the cell, a write to the slot wakes its record, and the resumed FLD writes its value. -/
theorem blockingLoadSuspendsAndResumes : Obligations.BlockingLoadSuspendsAndResumes := by
  unfold Obligations.BlockingLoadSuspendsAndResumes
  intro s x i slot p hpr hin k c free
  have hk : s.fslot i slot = .ok k := State.absSlot_of_inFrame hin
  refine ⟨fun num key hnum hres hdead hs => ?_, fun n a pr r key q hs hw hp => ?_, fun v tf hres hp => ?_⟩
  · have hkey : c.recKey k = key ∧ recNumber (c.recKey k) (k - s.fcx.areaStart) = num := by
      rcases hnum with ⟨⟨hlt, hfree⟩, hleast, rfl⟩ | ⟨hall, rfl, rfl⟩
      · have e := Cell.recKey_chip (k := k) hlt hfree fun j hj h => hleast j hj ⟨by omega, h⟩
        exact ⟨e, by rw [e]; exact if_pos hlt⟩
      · have h := Cell.recKey_off (c := c) (k := k) fun j hj h => hall j ⟨hj, h⟩
        exact ⟨rfl, if_neg (by omega)⟩
    obtain ⟨rfl, rfl⟩ := hkey
    refine ⟨_, execFld_empty false hpr hres hk hs, ?_⟩
    rw [if_neg (by decide), State.suspend_eq s k hdead]
    refine ⟨onlyCell_modCell s _, ?_⟩
    rw [State.cell_modCell]
    rfl
  · refine ⟨_, execFst_named hpr hk, ?_⟩
    rw [State.writeSlot_deferred s s.cur k _ n a pr r key q hs hw, State.setSlot_eq, State.pushReady]
    simp only [State.modCell_modCell]
    rw [step1_modCell s _ rfl rfl hp]
    refine ⟨onlyCell_modCell s _, ?_, ?_, ?_⟩
    · simp [State.slot, Cell.setSlot_some]
    · simp
    · rw [State.cell_modCell]; rfl
  · have hx : exec (.fld x i slot tf p) s = .next ((s.modLane fun l => { l with resume := none }).setX x v).step1 := by
      change execFld x i slot tf p s = _
      simp only [execFld, hres]
    refine ⟨_, hx, ?_⟩
    rw [State.setX, State.modLane_modLane, step1_modLane s _ rfl rfl hp]
    exact ⟨onlyCell_modCell s _, rfl, State.lane_modLane ..⟩

end Machine

end Sys2Proof
end

section
/-! PROOFS. The cell whose lane runs stays the present one through every operation that a free can lead to: faults, kills and grants. -/

namespace Sys2Proof.Machine

@[simp] theorem State.errRec_cur (s : State) (kind part cell ctx : Nat) (d1 d2 : Word) : (s.errRec kind part cell ctx d1 d2).cur = s.cur := by
  obtain ⟨m, r, h, _⟩ := State.errRec_spec s kind part cell ctx d1 d2
  rw [h]

@[simp] theorem State.ringPut_cur (s : State) (f : Nat) (r : RecRing) (w : List Word) (t : Word) : (s.ringPut f r w t).1.cur = s.cur := by
  unfold State.ringPut
  dsimp only
  split
  · rfl
  · exact State.errRec_cur ..

@[simp] theorem State.putE_cur (s : State) (f q : Nat) (w : List Word) (t : Word) : (s.putE f q w t).cur = s.cur := by
  simp [State.putE]

@[simp] theorem State.putC_cur (s : State) (f q : Nat) (w : List Word) : (s.putC f q w).cur = s.cur := by
  simp [State.putC]

@[simp] theorem State.complete_cur (s : State) (i : Inst) (st : EndStatus) : (s.complete i st).cur = s.cur := by
  unfold State.complete
  dsimp only
  split <;> simp

@[simp] theorem State.returnShadows_cur (s : State) (o : MemOp) : (s.returnShadows o).cur = s.cur := by
  unfold State.returnShadows; apply foldl_keeps State.cur; intros; rfl

@[simp] theorem State.dropOps_cur (s : State) (p : MemOp → Bool) : (s.dropOps p).cur = s.cur :=
  foldl_keeps State.cur _ State.returnShadows_cur _ _

theorem State.wrGran_cur (s : State) (k : Option (BitVec 512)) (g : Nat) (bs : List Byte) : (s.wrGran k g bs).cur = s.cur := rfl

@[simp] theorem State.ringWrite_cur (s : State) (i key : Nat) (e : Entry) : (s.ringWrite i key e).cur = s.cur := by
  unfold State.ringWrite
  extract_lets
  split
  · rfl
  · rw [State.wrGran_cur, State.wrGran_cur]

theorem State.modSub_cur (s : State) (i key : Nat) (f : SubLog → SubLog) : (s.modSub i key f).cur = s.cur := by
  unfold State.modSub State.modStack; split <;> rfl

@[simp] theorem State.voidIn_cur (s : State) (i key : Nat) (p : Entry → Bool) : (s.voidIn i key p).cur = s.cur :=
  (foldl_keeps State.cur (fun t e => t.ringWrite i key e) (fun _ _ => State.ringWrite_cur ..) _ _).trans (State.modSub_cur ..)

/-- What every turn of a fold leaves as the present cell is left by the fold. -/
theorem foldl_cur {α : Type} {f : State → α → State} {l : List α} {s : State} {n : Nat} (hf : ∀ t a, t.cur = n → (f t a).cur = n)
    (h : s.cur = n) : (l.foldl f s).cur = n := by
  induction l generalizing s with
  | nil => exact h
  | cons a l ih => exact ih (hf s a h)

@[simp] theorem State.releaseInst_cur (s : State) (i : Inst) : (s.releaseInst i).cur = s.cur := by
  unfold State.releaseInst
  extract_lets t t1
  have ht : t1.cur = s.cur := State.dropOps_cur ..
  rw [State.modFn_cur]
  refine foldl_cur (fun _ _ h => h) (foldl_cur (fun u c hu => ?_) ht)
  rw [State.modCell_cur]
  refine foldl_cur (fun v k hv => ?_) hu
  extract_lets rs w
  have hw : w.cur = s.cur := foldl_cur (fun _ _ h => h) hv
  split
  · exact hw
  · rw [State.voidIn_cur]; exact hw

@[simp] theorem State.endInst_cur (s : State) (i : Inst) (st : EndStatus) : (s.endInst i st).cur = s.cur := by
  simp [State.endInst]

@[simp] theorem State.kill_cur (s : State) (i : Inst) (st : EndStatus) (w : List Word) (t : Word) : (s.kill i st w t).cur = s.cur := by
  simp [State.kill]

@[simp] theorem State.sendAs_cur (s : State) (c : Nat) (t : Token) (a b : Option Nat) : (s.sendAs c t a b).cur = s.cur := by
  unfold State.sendAs
  dsimp only
  split <;> rfl

@[simp] theorem State.deliverTo_cur (s : State) (r : Raise) (t : Word) (w : List Word) : (s.deliverTo r t w).cur = s.cur := by
  unfold State.deliverTo
  split
  · rfl
  · dsimp only
    split
    · exact State.kill_cur ..
    · split
      · exact State.kill_cur ..
      · simp

@[simp] theorem State.take_cur (s : State) (r : Raise) : (s.take r).cur = s.cur := by
  unfold State.take
  dsimp only
  split
  · rfl
  · rfl
  · exact State.deliverTo_cur ..

@[simp] theorem State.opFault_cur (s : State) (w : Issuer) (c : FaultCode) (d1 d2 : Word) : (s.opFault w c d1 d2).cur = s.cur :=
  State.take_cur ..

@[simp] theorem State.serveLevel_cur (s : State) (c x l n : Nat) : (s.serveLevel c x l n).cur = s.cur := by
  induction n generalizing s with
  | zero => rfl
  | succ n ih =>
    unfold State.serveLevel
    dsimp only
    split
    · rw [ih]; simp [State.grantTo]
    · rfl

@[simp] theorem State.serveLevels_cur (s : State) (c x : Nat) : (s.serveLevels c x).cur = s.cur :=
  foldl_keeps State.cur _ (fun _ _ => State.serveLevel_cur ..) _ _

@[simp] theorem State.freeFrame_cur (s : State) (c x b : Nat) : (s.freeFrame c x b).1.cur = s.cur := by
  unfold State.freeFrame
  split
  · rfl
  · simp

@[simp] theorem State.freeLater_cur (s : State) (c x b : Nat) (w : Issuer) : (s.freeLater c x b w).cur = s.cur := by
  have h := State.freeFrame_cur s c x b
  unfold State.freeLater
  split
  · next e => rwa [e] at h
  · next e => rw [e] at h; rw [State.opFault_cur]; exact h

/-! ## The end of a firing (R192) -/


/-- A fold whose turns read the present cell, which none of them changes. -/
theorem foldl_cur_congr {α : Type} (f : State → Nat → α → State) (hf : ∀ t n a, (f t n a).cur = t.cur) (l : List α) (n : Nat) (u : State)
    (hu : u.cur = n) :
    l.foldl (fun t e => f t t.cur e) u = l.foldl (fun t e => f t n e) u := by
  induction l generalizing u with
  | nil => rfl
  | cons e l ih =>
    rw [List.foldl_cons, List.foldl_cons, hu]
    exact ih _ ((hf ..).trans hu)

/-- The end of a firing frees its lane, and applies the frees that waited, in order. -/
theorem State.endFiring_eq_freed (s : State) : s.endFiring = s.freed (s.modLane fun _ => {}) :=
  foldl_cur_congr (fun t n (e : Nat × Issuer) => t.freeLater n s.lane.fir.ctx e.1 e.2) (fun _ _ _ => State.freeLater_cur ..) _ _ _ rfl

end Sys2Proof.Machine
end

section
/-! PROOFS. Register-only instructions (O9), and the branch and the end of a firing (O19). -/

namespace Sys2Proof.Machine

/-! ## The lane with no free that waits -/

@[simp] theorem State.lane_bare (s : State) : s.bare.lane = { s.lane with frees := [] } := s.lane_modLane _

@[simp] theorem State.cur_bare (s : State) : s.bare.cur = s.cur := rfl

@[simp] theorem State.fir_bare (s : State) : s.bare.fir = s.fir := by simp [State.fir]

@[simp] theorem State.fcx_bare (s : State) : s.bare.fcx = s.fcx := by
  rw [State.fcx, State.fir_bare, State.bare, State.cx_modLane]; rfl

@[simp] theorem State.x_bare (s : State) (n : BitVec 4) : s.bare.x n = s.x n := by simp [State.x]

@[simp] theorem State.pr_bare (s : State) (n : BitVec 3) : s.bare.pr n = s.pr n := by simp [State.pr]

@[simp] theorem State.fx_bare (s : State) (f : Fmt) (n : BitVec 4) : s.bare.fx f n = s.fx f n := by simp [State.fx]

@[simp] theorem State.rm_bare (s : State) (r : BitVec 4) : s.bare.rm r = s.rm r := by simp [State.rm]

@[simp] theorem State.guard_bare (s : State) (g : BitVec 4) : s.bare.guard g = s.guard g := by simp [State.guard]

@[simp] theorem State.atLast_bare (s : State) : s.bare.atLast = s.atLast := by simp [State.atLast, State.fhdr]

/-! ## The result of a register-only instruction -/

/-- What a register-only instruction leaves: registers, flags, and the lane gone on (R133, R157). -/
def State.result (s : State) (r : Regs × Fl) : State := ((s.flag r.2).modLane fun l => { l with regs := r.1 }).step1

/-- An operation has one result, whether frees wait for the end of the firing or not. -/
def SameResult (s : State) (f : State → State) : Prop := ∃ r, f s = s.result r ∧ f s.bare = s.bare.result r

theorem State.write_eq_result (s : State) (d : BitVec 4) (v : Word) (fl : Fl) : s.write d v fl = s.result (s.lane.regs.set d v, fl) := by
  have h : (s.flag fl).setX d v = (s.flag fl).modLane fun l => { l with regs := s.lane.regs.set d v } :=
    State.modLane_congr _ (by rw [State.lane_flag])
  rw [State.write, h]; rfl

theorem State.writeP_eq_result (s : State) (d : BitVec 3) (v : Bool) (fl : Fl) : s.writeP d v fl = s.result (s.lane.regs.setPred d v, fl) := by
  have h : (s.flag fl).setP d v = (s.flag fl).modLane fun l => { l with regs := s.lane.regs.setPred d v } :=
    State.modLane_congr _ (by rw [State.lane_flag])
  rw [State.writeP, h]; rfl

/-- The lane goes on in the same way after a change of it that changes nothing. -/
theorem step1_modLane_self (s : State) (f : Lane → Lane) (h : f s.lane = s.lane) : (s.modLane f).step1 = s.step1 := by
  have hlane : (s.modLane f).lane = s.lane := by rw [State.lane_modLane, h]
  have hfir : (s.modLane f).fir = s.fir := by rw [State.fir, hlane]; rfl
  have hfcx : (s.modLane f).fcx = s.fcx := by rw [State.fcx, hfir, State.cx_modLane]; rfl
  have hcell : ∀ g : Lane → Lane, (s.modLane f).modLane g = s.modLane g := fun g =>
    (State.modLane_modLane ..).trans (State.modLane_congr s (congrArg g h))
  unfold State.step1 State.goto
  simp only [hfir, hfcx, hcell, State.endFiring_eq_freed, State.freed, hlane]
  rfl

theorem State.step1_eq_result (s : State) : s.step1 = s.result (s.lane.regs, 0) := by
  rw [State.result, State.flag_zero, step1_modLane_self s _ rfl]

theorem SameResult.step1 (s : State) : SameResult s State.step1 :=
  ⟨_, s.step1_eq_result, by rw [s.bare.step1_eq_result, State.lane_bare]⟩

theorem SameResult.write {s : State} {d : BitVec 4} {V : State → Word} {FL : State → Fl} (hV : V s.bare = V s) (hF : FL s.bare = FL s) :
    SameResult s fun t => t.write d (V t) (FL t) :=
  ⟨_, State.write_eq_result .., by simp only [State.write_eq_result, hV, hF, State.lane_bare]⟩

theorem SameResult.writeP {s : State} {d : BitVec 3} {V : State → Bool} {FL : State → Fl} (hV : V s.bare = V s) (hF : FL s.bare = FL s) :
    SameResult s fun t => t.writeP d (V t) (FL t) :=
  ⟨_, State.writeP_eq_result .., by simp only [State.writeP_eq_result, hV, hF, State.lane_bare]⟩

theorem SameResult.guarded {s : State} {g : BitVec 4} {f : State → State} (h : SameResult s f) : SameResult s fun t => t.guarded g f := by
  by_cases hg : s.guard g = true
  · obtain ⟨r, h1, h2⟩ := h
    exact ⟨r, (if_pos hg).trans h1, (if_pos (by rwa [State.guard_bare])).trans h2⟩
  · obtain ⟨r, h1, h2⟩ := SameResult.step1 s
    exact ⟨r, (if_neg hg).trans h1, (if_neg (by rwa [State.guard_bare])).trans h2⟩

theorem SameResult.int2 {s : State} {d a b g : BitVec 4} {w : Bool} {f : Nat → Nat → Nat → Int × Fl} :
    SameResult s fun t => t.int2 d a b g w f :=
  SameResult.guarded (f := fun t => t.write d (regOf (widthOf w) (f (widthOf w) (uOf (widthOf w) (t.x a)) (uOf (widthOf w) (t.x b))).1)
    (f (widthOf w) (uOf (widthOf w) (t.x a)) (uOf (widthOf w) (t.x b))).2) (.write (by simp) (by simp))

/-- Every register-only instruction has one result. -/
theorem registerOnly_sameResult (i : Instr) (s : State) (h : Ref.registerOnly i = true) :
    ∃ f : State → State, (∀ t, exec i t = .next (f t)) ∧ SameResult s f := by
  cases i with
  | nop => exact ⟨_, fun _ => rfl, .step1 s⟩
  | add => exact ⟨_, fun _ => rfl, .int2⟩
  | sub => exact ⟨_, fun _ => rfl, .int2⟩
  | mul => exact ⟨_, fun _ => rfl, .int2⟩
  | mulh => exact ⟨_, fun _ => rfl, .guarded (.write (by simp) rfl)⟩
  | div => exact ⟨_, fun _ => rfl, .int2⟩
  | rem => exact ⟨_, fun _ => rfl, .int2⟩
  | and => exact ⟨_, fun _ => rfl, .int2⟩
  | or => exact ⟨_, fun _ => rfl, .int2⟩
  | xor => exact ⟨_, fun _ => rfl, .int2⟩
  | andn => exact ⟨_, fun _ => rfl, .int2⟩
  | shl => exact ⟨_, fun _ => rfl, .int2⟩
  | shr => exact ⟨_, fun _ => rfl, .int2⟩
  | sra => exact ⟨_, fun _ => rfl, .int2⟩
  | rol => exact ⟨_, fun _ => rfl, .int2⟩
  | min => exact ⟨_, fun _ => rfl, .int2⟩
  | max => exact ⟨_, fun _ => rfl, .int2⟩
  | clz => exact ⟨_, fun _ => rfl, .guarded (.write (by simp) rfl)⟩
  | popc => exact ⟨_, fun _ => rfl, .guarded (.write (by simp) rfl)⟩
  | extr => exact ⟨_, fun _ => rfl, .guarded (.write (by simp) rfl)⟩
  | ins => exact ⟨_, fun _ => rfl, .guarded (.write (by simp) rfl)⟩
  | sel => exact ⟨_, fun _ => rfl, .guarded (.write (by simp) rfl)⟩
  | cmp => exact ⟨_, fun _ => rfl, .guarded (.writeP (by simp) rfl)⟩
  | plog => exact ⟨_, fun _ => rfl, .guarded (.writeP (by simp) rfl)⟩
  | addi => exact ⟨_, fun _ => rfl, .write (by simp) rfl⟩
  | andi => exact ⟨_, fun _ => rfl, .write (by simp) rfl⟩
  | ori => exact ⟨_, fun _ => rfl, .write (by simp) rfl⟩
  | xori => exact ⟨_, fun _ => rfl, .write (by simp) rfl⟩
  | shfi => exact ⟨_, fun _ => rfl, .write (by simp) rfl⟩
  | cmpi => exact ⟨_, fun _ => rfl, .writeP (by simp) rfl⟩
  | movi => exact ⟨_, fun _ => rfl, .write rfl rfl⟩
  | movk => exact ⟨_, fun _ => rfl, .write (by simp) rfl⟩
  | fadd => exact ⟨_, fun _ => rfl, .guarded (.write (by simp) (by simp))⟩
  | fsub => exact ⟨_, fun _ => rfl, .guarded (.write (by simp) (by simp))⟩
  | fmul => exact ⟨_, fun _ => rfl, .guarded (.write (by simp) (by simp))⟩
  | fma => exact ⟨_, fun _ => rfl, .guarded (.write (by simp) (by simp))⟩
  | fdiv => exact ⟨_, fun _ => rfl, .guarded (.write (by simp) (by simp))⟩
  | fsqrt => exact ⟨_, fun _ => rfl, .guarded (.write (by simp) (by simp))⟩
  | fmin => exact ⟨_, fun _ => rfl, .guarded (.write (by simp) (by simp))⟩
  | fmax => exact ⟨_, fun _ => rfl, .guarded (.write (by simp) (by simp))⟩
  | fcmp => exact ⟨_, fun _ => rfl, .guarded (.writeP (by simp) (by simp))⟩
  | fcvt => exact ⟨_, fun _ => rfl, .guarded (.write (by simp) (by simp))⟩
  | fclass => exact ⟨_, fun _ => rfl, .guarded (.write (by simp) rfl)⟩
  | _ => exact Bool.noConfusion h

/-! ## An instruction that is guarded off -/

theorem next_guarded_off {s : State} {g : BitVec 4} {f : State → State} (h : (!Ref.holds s g) = true) :
    (Host.Outcome.next (s.guarded g f) : Host.Outcome State Fault Refusal) = .next s.step1 := by
  rw [guarded_off s g f (by simpa using h)]

theorem next_guardedP_off {s : State} {p : BitVec 3} {f : State → State} (h : (!s.pr p) = true) :
    (Host.Outcome.next (s.guardedP p f) : Host.Outcome State Fault Refusal) = .next s.step1 := by
  rw [State.guardedP, if_neg (by simpa using h)]

/-- A check that passes before the guard. -/
theorem next_checked_off {s : State} {c : Prop} [Decidable c] {u : State} {g : BitVec 4} {f : State → State} (hc : ¬ c)
    (h : (!Ref.holds s g) = true) :
    (Host.Outcome.next (if c then u else s.guarded g f) : Host.Outcome State Fault Refusal) = .next s.step1 := by
  rw [if_neg hc]; exact next_guarded_off h

/-- Listed control registers can be read (R144). -/
theorem ctlRead_of_listed (s : State) (n : BitVec 6) (h : ctlListed n = true) : ∃ v, s.ctlRead n.toNat = some v := by
  simp only [ctlListed, Bool.or_eq_true, Bool.and_eq_true, decide_eq_true_eq] at h
  generalize n.toNat = k at h
  obtain (h | ⟨hlo, hhi⟩) | ⟨hlo, hhi⟩ := h
  all_goals interval_cases k <;> exact ⟨_, rfl⟩

/-- Listed counters can be read (R230). -/
theorem perfRead_of_listed (s : State) (n : BitVec 8) (h : perfListed n = true) : ∃ v, s.perfRead n.toNat = some v := by
  simp only [perfListed, Bool.or_eq_true, Bool.and_eq_true, decide_eq_true_eq] at h
  unfold State.perfRead
  by_cases h0 : n.toNat = 0
  · exact ⟨_, if_pos h0⟩
  by_cases h1 : (decide (1 ≤ n.toNat) && decide (n.toNat ≤ 4) || decide (8 ≤ n.toNat) && decide (n.toNat ≤ 0x11)) = true
  · exact ⟨_, (if_neg h0).trans (if_pos h1)⟩
  · simp only [Bool.or_eq_true, Bool.and_eq_true, decide_eq_true_eq] at h1
    exact ⟨_, (if_neg h0).trans ((if_neg (by simpa using h1)).trans (if_pos (by simp; omega)))⟩

/-- Whether an instruction is guarded off is told by its registers and its place in the codelet. -/
theorem Ref.off_bare (s : State) (i : Instr) : Ref.off s.bare i = Ref.off s i := by
  have hh : s.bare.fhdr = s.fhdr := by simp [State.fhdr]
  have hd : ∀ k c, s.bare.destOk k c = s.destOk k c := fun k c => by
    rw [State.destOk, hh, State.dest, State.fcx_bare, State.fir_bare]; rfl
  have hg : ∀ g, (!Ref.holds s.bare g) = !Ref.holds s g := fun g => by simp only [Ref.holds, State.pr_bare]
  have hp : ∀ p, (!s.bare.pr p) = !s.pr p := fun p => by rw [State.pr_bare]
  cases i with
  | add | sub | mul | mulh | div | rem | and | or | xor | andn | shl | shr | sra | rol | min | max | clz | popc | extr | ins | sel
  | cmp | plog | fadd | fsub | fmul | fma | fdiv | fsqrt | fmin | fmax | fcmp | fcvt | fclass | sendd | swch | falloc | ffree |
  fend | tnew | tseal | tdup | tdrop | tinfo | hst | tchk | rel | acq | acqa | bara | wdrop | time | cropen | crclose | scrubrd |
  tload | tstore | tcopy | tgath | tscat | tfill | mwld | macc | mrun | mdrain | rset | rfeed | vrun =>
    exact hg _
  | bars | watch | qpost | mfc | mtc | perf => exact hg _
  | fst | fclr | ftst | join | hld | ldg | ldch | amo | fld => exact hp _
  | send v c k e l g => exact congrArg₂ and (hd ..) (hg g)
  | mkc d c k f g => exact congrArg₂ and (congrArg (f || ·) (hd ..)) (hg g)
  | brf g o => exact congrArg₂ and (by rw [State.fir_bare, hh]) (hg g)
  | stg a b c g => exact congrArg₂ and rfl (hg g)
  | _ => rfl

/-- An instruction that is guarded off only lets the lane go on (R138, R140). -/
theorem exec_off (i : Instr) (s : State) (hwf : i.wf = true) (h : Ref.off s i = true) (hres : s.lane.resume = none) :
    exec i s = .next s.step1 := by
  cases i with
  | add | sub | mul | mulh | div | rem | and | or | xor | andn | shl | shr | sra | rol | min | max | clz | popc | extr | ins | sel
  | cmp | plog | fadd | fsub | fmul | fma | fdiv | fsqrt | fmin | fmax | fcmp | fcvt | fclass | sendd | swch | falloc | ffree |
  fend | tnew | tseal | tdup | tdrop | tinfo | hst | tchk | rel | acq | acqa | bara | wdrop | time | cropen | crclose | scrubrd |
  tload | tstore | tcopy | tgath | tscat | tfill | mwld | macc | mrun | mdrain | rset | rfeed | vrun =>
    exact next_guarded_off h
  | fst | fclr | ftst | join | hld | ldg | ldch | amo => exact next_guardedP_off h
  | fld x i slot t p =>
    change execFld x i slot t p s = _
    simp only [execFld, hres]
    exact next_guardedP_off h
  | send v c k e l g =>
    obtain ⟨hd, hg⟩ := Bool.and_eq_true_iff.mp h
    exact next_checked_off (by simp [hd]) hg
  | mkc d c k f g =>
    obtain ⟨hd, hg⟩ := Bool.and_eq_true_iff.mp h
    exact next_checked_off (by simpa [or_iff_not_imp_left] using hd) hg
  | brf g o =>
    obtain ⟨hd, hg⟩ := Bool.and_eq_true_iff.mp h
    exact next_checked_off (by simpa using hd) hg
  | stg a b c g =>
    obtain ⟨hc, hg⟩ := Bool.and_eq_true_iff.mp h
    exact next_checked_off (bne_iff_ne.mp hc) hg
  | bars | watch | qpost => exact next_checked_off (bne_iff_ne.mp hwf) h
  | mfc d g n =>
    obtain ⟨v, hv⟩ := ctlRead_of_listed s n hwf
    change execMfc d g n s = _
    simp only [execMfc, hv]
    exact next_guarded_off h
  | mtc a g n =>
    obtain ⟨v, hv⟩ := ctlRead_of_listed s n hwf
    change execMtc a g n s = _
    simp only [execMtc, hv]
    exact next_guarded_off h
  | perf d g n =>
    obtain ⟨v, hv⟩ := perfRead_of_listed s n hwf
    change execPerf d g n s = _
    simp only [execPerf, hv]
    exact next_guarded_off h
  | _ => exact Bool.noConfusion h

/-! ## The statements -/

/-- A register-only instruction changes registers and flags. -/
theorem registerOnly_regsOnly {i : Instr} {s t : State} (h : Ref.registerOnly i = true) (hp : s.plain) (e : exec i s = .next t) :
    ∃ r fl, RegsOnly s r fl t := by
  obtain ⟨f, hf, r, hr, -⟩ := registerOnly_sameResult i s h
  have ht : t = s.result r := by rw [hf, hr] at e; exact (Host.Outcome.next.inj e).symm
  exact ⟨r.1, r.2, ht ▸ regsOnly_step s r.2 (fun _ => r.1) hp⟩

/-- Settles O9: a change of registers and flags is none of the rest. -/
theorem registerFrame : Obligations.RegisterFrame := by
  unfold Obligations.RegisterFrame
  intro i s t hi hp e
  obtain ⟨r, fl, ⟨⟨hrest, hother⟩, hcell, hctx, hctxs⟩⟩ := registerOnly_regsOnly hi hp e
  have parts : ∀ {α : Type} (π : State → α), (∀ u : State, π { u with cells := s.cells } = π u) → π t = π s := fun π h =>
    (h t).symm.trans (congrArg π hrest)
  have cells : ∀ {α : Type} (π : Cell → α), (∀ (c : Cell) l k, π { c with lane := l, ctxs := k } = π c) → ∀ c, π (t.cell c) = π (s.cell c) := by
    intro α π h c
    by_cases hc : c = s.cur
    · subst hc
      exact ((h _ (t.cell s.cur).lane _).symm.trans (congrArg π hcell)).trans (h _ _ (s.cell s.cur).ctxs)
    · rw [hother c hc]
  have ctx : ∀ c x, x ≠ s.fir.ctx ∨ c ≠ s.cur → t.cx c x = s.cx c x := by
    intro c x h
    by_cases hc : c = s.cur
    · subst hc; exact hctxs x (h.resolve_right (· rfl))
    · exact congrArg (·.cx x) (hother c hc)
  refine ⟨fun a => ?_, fun c k => ?_, ?_, hother, ?_, ?_, ?_, ?_, ?_, ?_, ?_, fun c x => ?_, fun c x hx => ctx c x (.inl hx)⟩
  · exact congrArg (fun m => Memory.read m a) (parts State.mem fun _ => rfl)
  · exact congrArg (·.get? k) (cells Cell.slots (fun _ _ _ => rfl) c)
  · exact cells Cell.heap fun _ _ _ => rfl
  · exact congrArg (fun c : Cell => { c with lane := s.lane }) hcell
  · exact parts State.net fun _ => rfl
  · exact parts State.ops fun _ => rfl
  · exact parts State.insts fun _ => rfl
  · exact parts State.parts fun _ => rfl
  · exact parts State.hbm fun _ => rfl
  · exact parts State.clock fun _ => rfl
  · by_cases h : c = s.cur ∧ x = s.fir.ctx
    · obtain ⟨rfl, rfl⟩ := h
      rw [hctx]
      exact ⟨rfl, rfl, rfl, rfl⟩
    · rw [ctx c x (by tauto)]
      exact ⟨rfl, rfl, rfl, rfl⟩

/-- At the last word the firing ends. -/
theorem State.step1_atLast (s : State) (h : s.atLast = true) : s.step1 = s.freed (s.modLane fun _ => {}) :=
  (if_pos (of_decide_eq_true h)).trans s.endFiring_eq_freed

/-- The same after a result: its registers are discarded. -/
theorem State.result_atLast (s : State) (r : Regs × Fl) (h : s.atLast = true) : s.result r = s.freed ((s.flag r.2).modLane fun _ => {}) := by
  obtain ⟨-, -, hctx, -⟩ := flag_spec s r.2
  have himg : ((s.flag r.2).cx s.cur s.fir.ctx).image = s.fcx.image := by rw [hctx]
  have hlast : ((s.flag r.2).modLane fun l => { l with regs := r.1 }).atLast = true := by
    have hfir : ((s.flag r.2).modLane fun l => { l with regs := r.1 }).fir = s.fir := by simp [State.fir]
    rw [← h, State.atLast, State.fhdr, State.fcx, hfir, State.cx_modLane, State.modLane_cur, State.cur_flag, himg]; rfl
  rw [State.result, State.step1_atLast _ hlast, State.modLane_modLane]
  simp [State.freed, State.fir]

/-- Frees that wait are discarded with the lane, where they are not applied. -/
theorem State.flag_bare_free (s : State) (fl : Fl) : ((s.bare.flag fl).modLane fun _ => {}) = (s.flag fl).modLane fun _ => {} := by
  unfold State.flag State.orFlags
  split
  · exact State.modLane_modLane ..
  · rw [State.fir_bare]
    simp only [State.bare, State.modLane, State.modCx, State.modCell_cur, State.modCell_modCell]
    rfl

/-- Settles O19. -/
theorem branchAndEnd : Obligations.BranchAndEnd := by
  unfold Obligations.BranchAndEnd
  intro s g o
  have hend : Ref.holds s g = true → exec (.fend g) s = .next (s.freed (s.modLane fun _ => {})) := fun hg =>
    congrArg Host.Outcome.next ((guarded_on s g _ hg).trans s.endFiring_eq_freed)
  have hbrf : Ref.holds s g = true → ¬ s.fir.hdr + 1 + s.fhdr.length < s.fir.ia + o.toNat →
      exec (.brf g o) s = .next (s.goto (s.fir.ia + o.toNat)) := fun hg hle =>
    congrArg Host.Outcome.next ((if_neg hle).trans (guarded_on s g _ hg))
  have hfree : OnlyCell s (s.modLane fun _ => {}) ∧ (s.modLane fun _ => {}).cell s.cur = { s.cell s.cur with lane := {} } :=
    ⟨onlyCell_modCell s _, State.cell_modCell ..⟩
  refine ⟨fun hg hle => ⟨_, hbrf hg (by omega), ?_⟩, fun hg he => ?_, fun hlt => congrArg Host.Outcome.next (if_pos hlt), fun hg hf => ?_,
    fun b w hg hf => ?_, fun hg => ⟨_, hend hg, hfree⟩, fun i hlast hwf hres hi => ?_⟩
  · have h : s.goto (s.fir.ia + o.toNat) = s.modLane fun l => { l with fir := { l.fir with ia := s.fir.ia + o.toNat } } := if_neg (by unfold State.fhdr at hle; omega)
    rw [h]
    exact ⟨onlyCell_modCell s _, State.cell_modCell ..⟩
  · rw [hbrf hg (by omega)]
    have h : s.goto (s.fir.ia + o.toNat) = s.endFiring := if_pos (by unfold State.fhdr at he; omega)
    rw [h]
    exact congrArg Host.Outcome.next (guarded_on s 0 _ rfl).symm
  · exact ⟨_, hend hg, by simpa only [State.freed, hf, List.foldl_nil] using hfree⟩
  · exact ⟨_, _, hend hg, hfree.1, hfree.2, by simp only [State.freed, hf, List.foldl_cons, List.foldl_nil]⟩
  · rcases hi with hi | hi
    · obtain ⟨f, hf, r, h1, h2⟩ := registerOnly_sameResult i s hi
      have hb : s.bare.freed ((s.bare.flag r.2).modLane fun _ => {}) = (s.flag r.2).modLane fun _ => {} := by
        rw [State.flag_bare_free]; simp [State.freed]
      exact ⟨_, by rw [hf, h2, State.result_atLast _ _ (by simpa using hlast), hb], by rw [hf, h1, State.result_atLast _ _ hlast]⟩
    · have hb : Ref.off s.bare i = true := (Ref.off_bare s i).trans hi
      refine ⟨_, by rw [exec_off i s.bare hwf hb (by simpa using hres), State.step1_atLast _ (by simpa using hlast)], ?_⟩
      rw [exec_off i s hwf hi hres, State.step1_atLast _ hlast]
      simp [State.freed, State.bare, State.modLane_modLane]

end Sys2Proof.Machine
end

section
/-! PROOFS. Token instructions (O16) and the faults of continuations and tags (O17). -/

namespace Sys2Proof.Machine

/-! ## Sending -/

/-- One packet sent for the present firing, counted, and the lane gone on. -/
theorem sends_inject (s : State) (p : Packet) (hp : s.plain) :
    Sends s s.lane.regs p ((s.raiseOut s.cur s.fir.ctx 1).inject p).step1 := by
  obtain ⟨hrest, hcells⟩ := step1_of_cells (s := s) (u := (s.raiseOut s.cur s.fir.ctx 1).inject p)
    (fun c => c.modCx s.fir.ctx fun k => { k with outstanding := k.outstanding + 1 }) rfl rfl rfl (by simp [State.fcx, State.cx]) hp
  refine ⟨congrArg (fun u : State => { u with cells := s.cells, net := s.net }) hrest, congrArg State.net hrest,
    fun c => State.cell_of_cells_other hcells, ?_, ?_, fun x hx => ?_⟩
  · rw [State.cell_of_cells hcells]; rfl
  · rw [State.cx_of_cells hcells]; simp [Cell.modCx, Cell.cx, State.fcx, State.cx]
  · rw [State.cx_of_cells hcells]; simp [Cell.modCx, Cell.cx, State.cx, hx]

/-- A control token of the present firing's context is one packet. -/
theorem State.sendTok_eq (s : State) (cont val tag : Word) (h : ctxOf cont = s.fir.ctx) :
    s.sendTok s.cur cont val tag = (s.raiseOut s.cur s.fir.ctx 1).inject (s.tokenPacket cont val tag) := by
  unfold State.sendTok State.sendAs State.tokenPacket
  simp only [h, State.cx_raiseOut]
  split <;> rfl

theorem replyOk_iff {n x : Nat} {w : Word} :
    replyOk n x w = true ↔ bits w 0 18 = 0 ∧ vcellOf w < n ∧ ctxOf w = x ∧ ¬ (iaOf w = 0 ∧ portOf w = 0) := by
  simp only [replyOk, contOk, isFrameRef, Bool.and_eq_true, beq_iff_eq, decide_eq_true_eq, Bool.not_eq_true', ← Bool.not_eq_true, and_assoc]

/-- A checked token of the present firing is sent, and the lane goes on (R182). -/
theorem sends_sendFrom {s : State} {cont val tag : Word} (hp : s.plain) (hd : s.fir.dead = false)
    (hc : replyOk s.fcx.place.length s.fir.ctx cont = true) :
    Sends s s.lane.regs (s.tokenPacket cont val tag) (s.sendFrom cont val tag).step1 := by
  rw [State.sendFrom, if_neg (by simp [hd]), State.sendTok_eq s cont val tag (replyOk_iff.mp hc).2.2.1]
  exact sends_inject s _ hp

theorem State.checkTok_ok {s : State} {cont tag : Word} (hc : replyOk s.fcx.place.length s.fir.ctx cont = true) (ht : tagOk tag = true) :
    s.checkTok cont tag = .ok cont := if_pos (by rw [hc, ht]; rfl)

theorem State.netHold_open {s : State} (i : Instr) (f : State → State) (h : s.held = false) : s.netHold i f = f s :=
  if_neg (by simp [h])

/-! ## The continuation of a destination word (R135, R183) -/

/-- A continuation with the low 18 bits of a register in its own, which are zero. -/
theorem mkCont_add_low (v c b ia port prio : Nat) (r : Word) :
    word (mkCont v c b ia port prio + word (bits r 0 18)).toNat = mkCont v c b ia port prio ||| (r &&& 0x3FFFF) := by
  have hlow : word (bits r 0 18) = r &&& 0x3FFFF := by
    apply BitVec.eq_of_toNat_eq
    have h : r.toNat &&& 0x3FFFF = r.toNat % 2 ^ 18 := Nat.and_two_pow_sub_one_eq_mod r.toNat 18
    simp [word, bits, h]
    omega
  have hzero : ∀ i, i < 18 → (mkCont v c b ia port prio).getLsbD i = false := by
    intro i hi
    have h : v % 2 ^ 11 * 2 ^ 53 + c % 2 ^ 3 * 2 ^ 50 + b % 2 ^ 15 * 2 ^ 35 + ia % 2 ^ 14 * 2 ^ 21 + port % 2 * 2 ^ 20 + prio % 4 * 2 ^ 18 =
        2 ^ 18 * (v % 2 ^ 11 * 2 ^ 35 + c % 2 ^ 3 * 2 ^ 32 + b % 2 ^ 15 * 2 ^ 17 + ia % 2 ^ 14 * 2 ^ 3 + port % 2 * 2 ^ 2 + prio % 4) := by
      ring
    rw [mkCont, word, BitVec.getLsbD_ofNat, h, Nat.testBit_two_pow_mul]
    simp; omega
  rw [hlow, word, BitVec.ofNat_toNat, BitVec.setWidth_eq, BitVec.add_eq_or_of_and_eq_zero]
  apply BitVec.eq_of_getLsbD_eq
  intro i _
  have hmask : (0x3FFFF : Word).getLsbD i = (decide (i < 64) && decide (i < 18)) := by
    rw [show (0x3FFFF : Word) = BitVec.ofNat 64 (2 ^ 18 - 1) from rfl, BitVec.getLsbD_ofNat, Nat.testBit_two_pow_sub_one]
  rw [BitVec.getLsbD_and, BitVec.getLsbD_and, hmask]
  by_cases h : i < 18
  · simp [hzero i h]
  · simp [h]

/-- A destination word that names the firing's own frame. -/
theorem State.formCont_own {s : State} {j : Nat} (c : BitVec 4) (h : s.dest j / 2 ^ 15 % 2 ≠ 1) : s.formCont j c =
    .ok (mkCont s.fcx.vcell s.fir.ctx s.fir.base (s.dest j / 2 % 2 ^ 14) (s.dest j % 2) s.fcx.ctl.prio.toNat) := by
  unfold State.formCont
  exact if_neg (by rw [fselOf, decide_eq_false h]; decide)

/-- A destination word that names the frame of a register. -/
theorem State.formCont_reg {s : State} {j : Nat} {c : BitVec 4} (h : s.dest j / 2 ^ 15 % 2 = 1) (hr : isFrameRef (s.x c) = true) :
    s.formCont j c = .ok (mkCont (vcellOf (s.x c)) (ctxOf (s.x c)) (baseOf (s.x c)) (s.dest j / 2 % 2 ^ 14) (s.dest j % 2)
      s.fcx.ctl.prio.toNat ||| (s.x c &&& 0x3FFFF)) := by
  unfold State.formCont
  extract_lets d ia port prio r
  rw [if_pos (show fselOf d = true from decide_eq_true h), if_neg (by simp [r, hr]), mkCont_add_low]

/-- The continuation of a destination word (R135). -/
def State.destCont (s : State) (j : Nat) (r : Word) : Word :=
  if s.dest j / 2 ^ 15 % 2 = 1 then
    mkCont (vcellOf r) (ctxOf r) (baseOf r) (s.dest j / 2 % 2 ^ 14) (s.dest j % 2) s.fcx.ctl.prio.toNat ||| (r &&& 0x3FFFF)
  else mkCont s.fcx.vcell s.fir.ctx s.fir.base (s.dest j / 2 % 2 ^ 14) (s.dest j % 2) s.fcx.ctl.prio.toNat

/-- A destination word whose register is checked forms that continuation. -/
theorem State.formCont_ok {s : State} {j : Nat} {c : BitVec 4} (hr : s.dest j / 2 ^ 15 % 2 = 1 → isFrameRef (s.x c) = true) :
    s.formCont j c = .ok (s.destCont j (s.x c)) := by
  unfold State.destCont
  by_cases h : s.dest j / 2 ^ 15 % 2 = 1
  · rw [if_pos h, State.formCont_reg h (hr h)]
  · rw [if_neg h, State.formCont_own c h]

/-- Where the decode check passes, a register is named exactly by fsel (R135, R141). -/
theorem State.isFrameRef_of_destOk {s : State} {k : Nat} {c : BitVec 4} (hd : s.destOk k c = true)
    (hc : c = 0 ∨ isFrameRef (s.x c) = true) (h : s.dest k / 2 ^ 15 % 2 = 1) : isFrameRef (s.x c) = true := by
  refine hc.resolve_left fun h0 => ?_
  rw [State.destOk, fselOf, decide_eq_true h, h0] at hd
  simp at hd

/-! ## The statements -/

/-- A token formed from a destination word leaves. -/
theorem sends_sendDest {s : State} {j : Nat} {c : BitVec 4} {e : Bool} {l : BitVec 2} {v : Word} (hp : s.plain) (hd : s.fir.dead = false)
    (hr : s.dest j / 2 ^ 15 % 2 = 1 → isFrameRef (s.x c) = true)
    (hfit : replyOk s.fcx.place.length s.fir.ctx (clsCont e l (s.destCont j (s.x c))) = true) (ht : tagOk s.fir.tag = true) :
    Sends s s.lane.regs (s.tokenPacket (clsCont e l (s.destCont j (s.x c))) v s.fir.tag) (s.sendDest j c e l v) := by
  rw [State.sendDest, State.formCont_ok hr, State.withOpd_ok, State.checkTok_ok hfit ht, State.withOpd_ok]
  exact sends_sendFrom hp hd hfit

/-- Settles O16: each instruction's continuation is formed, passes its checks and is sent. -/
theorem tokenInstructions : Obligations.TokenInstructions := by
  unfold Obligations.TokenInstructions
  intro s v c k0 k e l g hg hp hheld hdead n word cls sends fits own
  refine ⟨fun hd hc hfit ht => ?_, fun j hj hlt hd hfit ht => ?_, fun hfit ht => ?_, fun h0 hfit ht hreg => ?_, fun hd hc hfit ht => ?_, ?_⟩
  · refine ⟨_, ?_, sends_sendDest hp hdead (State.isFrameRef_of_destOk hd hc) hfit ht⟩
    change execSend v c k e l g s = _
    simp only [execSend, hd, guarded_on s g _ hg, State.netHold_open _ _ hheld]
    rfl
  · subst hj
    have hr : s.dest (k.toNat + (s.x k0).toNat) / 2 ^ 15 % 2 ≠ 1 := by omega
    have hw : s.destCont (k.toNat + (s.x k0).toNat) (s.x 0) = word (k.toNat + (s.x k0).toNat) 0 := by
      simp only [State.destCont, word, if_neg hr]
    refine ⟨_, ?_, hw ▸ sends_sendDest hp hdead (fun h => absurd h hr) (hw ▸ hfit) ht⟩
    change execSwch v k0 k e l g s = _
    simp only [execSwch, guarded_on s g _ hg, State.netHold_open _ _ hheld]
    rw [if_neg (by omega), if_neg (by rw [fselOf, decide_eq_false hr]; decide)]
  · refine ⟨_, ?_, sends_sendFrom hp hdead hfit⟩
    change execSendd c v 0 e l g s = _
    simp only [execSendd, guarded_on s g _ hg, State.netHold_open _ _ hheld, if_true]
    rw [State.checkTok_ok (cont := clsCont e l (s.x c)) hfit ht, State.withOpd_ok, if_neg (by simp)]
    rfl
  · refine ⟨_, ?_, sends_sendFrom hp hdead hfit⟩
    have hr : s.tagRegionOk (s.x k0) = true := by
      unfold State.tagRegionOk
      rcases hreg with h | h | ⟨h1, h2⟩
      · simp [h]
      · by_cases ho : regionOf s.fir.tag = 0 <;> simp [h, ho]
      · simp [h1, Option.isSome_iff_ne_none, h2]
    change execSendd c v k0 e l g s = _
    simp only [execSendd, guarded_on s g _ hg, State.netHold_open _ _ hheld, if_neg h0]
    rw [State.checkTok_ok (cont := clsCont e l (s.x c)) hfit ht, State.withOpd_ok, if_neg (by simp [hr])]
    rfl
  · refine ⟨_, ?_, regsOnly_setX s v _ hp⟩
    change execMkc v c k false g s = _
    simp only [execMkc, hd, guarded_on s g _ hg]
    rw [State.formCont_ok (State.isFrameRef_of_destOk hd hc)]
    simp only [State.withOpd_ok]
    rw [State.checkTok_ok (cont := s.destCont k.toNat (s.x c)) hfit ht]
    rfl
  · exact ⟨_, congrArg Host.Outcome.next ((if_neg (by simp)).trans (guarded_on s g _ hg)), regsOnly_setX s v _ hp⟩

theorem replyOk_eq_false {n x : Nat} {w : Word} (h : bits w 0 18 ≠ 0 ∨ n ≤ vcellOf w ∨ ctxOf w ≠ x ∨ (iaOf w = 0 ∧ portOf w = 0)) :
    replyOk n x w = false := by
  rw [← Bool.not_eq_true, replyOk_iff]
  omega

/-- Settles O17: a continuation that fails its check stops each instruction before it does anything. -/
theorem badContinuationFaults : Obligations.BadContinuationFaults := by
  unfold Obligations.BadContinuationFaults
  intro s a b c e l g hg hheld w tag bad
  refine ⟨fun h => ?_, fun h => ?_⟩
  · have hchk : s.checkTok (clsCont e l (s.x a)) tag = .error (.badCont, w) := by
      refine if_neg ?_
      rcases h with h | h
      · have h0 : replyOk s.fcx.place.length s.fir.ctx (clsCont e l (s.x a)) = false := replyOk_eq_false h
        simp [h0]
      · simp [tagOk, h]
    change execSendd a b c e l g s = _
    simp only [execSendd, guarded_on s g _ hg, State.netHold_open _ _ hheld]
    rw [hchk]; rfl
  · have hbad : replyOk s.fcx.place.length s.fir.ctx (s.x c) = false := replyOk_eq_false h
    have hchk : s.checkCont (s.x c) 0 = .error (.badCont, 0) := if_neg (by simp [hbad])
    refine ⟨fun r lv hv => ?_, fun hc => ?_⟩
    · change execFalloc 0 c r lv g s = _
      simp only [execFalloc, guarded_on s g _ hg, hchk, if_true]
      rw [if_pos (by simp), if_neg (by omega)]
      rfl
    · have hr : s.reply c = .error (.badCont, 0) := by simp only [State.reply, if_neg hc, hchk]
      exact ⟨congrArg Host.Outcome.next ((guarded_on s g _ hg).trans ((State.netHold_open _ _ hheld).trans (by rw [hr]; rfl))),
        congrArg Host.Outcome.next ((guarded_on s g _ hg).trans ((State.netHold_open _ _ hheld).trans (by rw [hr]; rfl)))⟩

end Sys2Proof.Machine
end

section
/-! PROOFS. The allocator and a context that has been moved off (O18). -/

namespace Sys2Proof.Machine

/-! ## The allocator -/

/-- A context that is not resident is granted no frame, whatever its area holds. -/
theorem Ctx.grantable_of_not_resident {k : Ctx} (level : Nat) (hk : k.resident = false) : k.grantable level = none := by
  unfold Ctx.grantable
  split
  · rfl
  · simp [hk]

/-- A context with one 16-slot area and one pool of small frames, none live, that is not resident. -/
def movedOff : Ctx := { resident := false, areaSize := 16, pools := [(0, {})] }

/-- Refutes O18: the statement grants the lowest free aligned block of every context whose level has frames left, while the
allocator of a context that is not resident (`movedOff`, with the whole of its area free) grants nothing. -/
theorem not_frameInstructions : ¬ Obligations.FrameInstructions := by
  unfold Obligations.FrameInstructions
  rintro ⟨halloc, -⟩
  obtain ⟨-, hshared, -⟩ := halloc movedOff 0 {} rfl
  have hfree : movedOff.grantable 0 = some (0, false) := by
    refine hshared 0 (by decide) ⟨⟨0, by decide, rfl⟩, fun e he => absurd he (by simp [movedOff]), fun e q he hq => ?_⟩
      fun a _ => Nat.zero_le a
    obtain rfl : e = (0, {}) := by simpa [movedOff] using he
    exact absurd hq (by simp)
  rw [Ctx.grantable_of_not_resident 0 rfl] at hfree
  exact Option.some_ne_none _ hfree.symm

end Sys2Proof.Machine

end

section
/-! PROOFS. Handles and tiles (O20, O21): what a handle names, and TNEW, TSEAL, TDUP and TDROP on the tile table. -/

namespace Sys2Proof.Machine

/-! ## Handles -/

/-- A handle is fit for a live entry of its generation that is not hidden (R44). -/
theorem Cell.fits_iff {c : Cell} {h : Word} : c.fits h = true ↔ (c.tile (bits h 38 12)).live = true ∧
    (c.tile (bits h 38 12)).gen.toNat = bits h 30 8 ∧ (c.tile (bits h 38 12)).hidden = false := by
  have hlt : bits h 30 8 < 256 := Nat.mod_lt _ (by decide)
  simp [Cell.fits, genOf, indexOf, and_assoc, ← BitVec.toNat_inj, Nat.mod_eq_of_lt hlt]

/-- The fields of a handle that no context of the cell can name (R195). -/
def State.shut (s : State) (h : Word) : Prop :=
  bits h 0 30 ≠ 0 ∨ bits h 50 3 ≠ s.fir.ctx ∨ s.fcx.place.length ≤ bits h 53 11

theorem State.resolve_shut {s : State} {h : Word} (hs : s.shut h) : s.resolve s.cur s.fir.ctx h = .stale := by
  have h' : bits h 0 30 ≠ 0 ∨ ctxOf h ≠ s.fir.ctx ∨ (s.cx s.cur s.fir.ctx).place.length ≤ vcellOf h := hs
  exact if_pos (by simpa only [Bool.or_eq_true, decide_eq_true_eq, or_assoc] using h')

/-- A handle that is not shut is of this cell, and fits or is stale, or of another cell (R195). -/
theorem State.resolve_open {s : State} {h : Word} (hs : ¬ s.shut h) : s.resolve s.cur s.fir.ctx h =
    if bits h 53 11 = s.fcx.vcell then if (s.cell s.cur).fits h then .here (bits h 38 12) else .stale
    else .there (s.fcx.place.getD (bits h 53 11) 0) := by
  have h' : ¬ (bits h 0 30 ≠ 0 ∨ ctxOf h ≠ s.fir.ctx ∨ (s.cx s.cur s.fir.ctx).place.length ≤ vcellOf h) := hs
  exact if_neg (by simpa only [Bool.or_eq_true, decide_eq_true_eq, or_assoc] using h')

/-- What TCHK writes for each thing that a handle can name. -/
def State.chkCode (s : State) : HRef → Word
  | .stale => 3
  | .there _ => 2
  | .here i => if (s.tile i).sealed then 0 else if s.mayUse i then 1 else 3

theorem execTchk_eq {s : State} {d a g : BitVec 4} (hg : Ref.holds s g = true) :
    exec (.tchk d a g) s = .next (s.setX d (s.chkCode (s.resolve s.cur s.fir.ctx (s.x a)))).step1 := by
  refine congrArg Host.Outcome.next ((guarded_on s g _ hg).trans ?_)
  cases s.resolve s.cur s.fir.ctx (s.x a) <;> rfl

section
variable {s : State} {a b d g : BitVec 4} (hg : Ref.holds s g = true)

section
variable (hr : s.resolve s.cur s.fir.ctx (s.x a) = .stale)
include hg hr

theorem execTseal_stale : exec (.tseal a g) s = .next (s.raise .handleStale (s.x a) 0) := by
  change execTseal a g s = _
  simp only [execTseal, guarded_on s g _ hg, State.localTile, hr, State.withOpd_error]

theorem execTdup_stale : exec (.tdup a b g) s = .next (s.raise .handleStale (s.x a) 0) := by
  change execTdup a b g s = _
  simp only [execTdup, guarded_on s g _ hg, hr]

theorem execTdrop_stale : exec (.tdrop a g) s = .next (s.raise .handleStale (s.x a) 0) := by
  change execTdrop a g s = _
  simp only [execTdrop, guarded_on s g _ hg, hr]

theorem execTinfo_stale (sel : BitVec 2) : exec (.tinfo d a g sel) s = .next (s.raise .handleStale (s.x a) 0) := by
  change execTinfo d a g sel s = _
  simp only [execTinfo, guarded_on s g _ hg, State.localTile, hr, State.withOpd_error]

theorem execHst_stale (c : BitVec 4) (n : Bool) (r : BitVec 4) (v : Bool) :
    exec (.hst a b c n r v g) s = .next (s.raise .handleStale (s.x a) 0) := by
  change execHst a b c n r v g s = _
  simp only [execHst, guarded_on s g _ hg, hr]

omit hg in
theorem execHld_stale (slot : BitVec 12) {p : BitVec 3} (hp : s.pr p = true) :
    exec (.hld a b slot p) s = .next (s.raise .handleStale (s.x a) 0) := by
  change execHld a b slot p s = _
  simp only [execHld, State.guardedP_on _ hp, hr]

end

end

/-- Settles O21: the three things that a handle can name. -/
theorem handleResolution : Obligations.HandleResolution := by
  unfold Obligations.HandleResolution
  intro s d a b g slot sel hg hp h t shut here good chk
  have hchk : ∀ r, s.resolve s.cur s.fir.ctx h = r → chk (s.chkCode r) :=
    fun r hr => ⟨_, execTchk_eq hg, hr ▸ regsOnly_setX s d _ hp⟩
  have hfit : (s.cell s.cur).fits h = true ↔ good := Cell.fits_iff
  refine ⟨fun hcase => ?_, fun hhere hgood => ?_, fun hopen hv => ?_⟩
  · have hr : s.resolve s.cur s.fir.ctx h = .stale := by
      rcases hcase with hshut | ⟨⟨hopen, hv⟩, hbad⟩
      · exact State.resolve_shut hshut
      · rw [State.resolve_open hopen, if_pos hv, if_neg (mt hfit.mp hbad)]
    exact ⟨hr, hchk _ hr, execTseal_stale hg hr, execTdup_stale hg hr, execTdrop_stale hg hr, execTinfo_stale hg hr sel,
      fun p hpr => execHld_stale hr slot hpr, fun c n r v => execHst_stale hg hr c n r v⟩
  · have hr : s.resolve s.cur s.fir.ctx h = .here (bits h 38 12) := by
      rw [State.resolve_open hhere.1, if_pos hhere.2, if_pos (hfit.mpr hgood)]
    refine ⟨hr, ?_⟩
    have hcode : s.chkCode (.here (bits h 38 12)) = if t.sealed then 0 else if t.ctx = s.fir.ctx then 1 else 3 := by
      simp only [State.chkCode, State.mayUse, Bool.or_eq_true, beq_iff_eq]
      change (if t.sealed = true then (0 : Word) else if t.sealed = true ∨ t.ctx = s.fir.ctx then 1 else 3) = _
      by_cases hs : t.sealed = true <;> simp [hs]
    exact hcode ▸ hchk _ hr
  · have hr : s.resolve s.cur s.fir.ctx h = .there (s.fcx.place.getD (bits h 53 11) 0) := by
      rw [State.resolve_open hopen, if_neg hv]
    exact ⟨hr, hchk _ hr⟩

/-! ## The tile table -/

/-- The heap of the cell replaced and registers written, the lane gone on. -/
theorem heap_step1 (s : State) (p : Heap) (f : Lane → Regs) (hp : s.plain) :
    let u := ((s.modCell s.cur fun c => { c with heap := p }).modLane fun l => { l with regs := f l }).step1
    OnlyCell s u ∧ u.cell s.cur = { s.cell s.cur with lane := s.laneAfter (f s.lane), heap := p } := by
  intro u
  have hu : u = s.modCell s.cur fun c => { c with heap := p, lane := s.laneAfter (f s.lane) } := by
    have h := step1_modCell s (fun c => { c with heap := p, lane := { c.lane with regs := f c.lane } }) (r := f s.lane) rfl rfl hp
    exact (congrArg State.step1 (State.modCell_modCell ..)).trans h
  rw [hu]
  exact ⟨onlyCell_modCell s _, s.cell_modCell ..⟩

/-- The heap of the cell replaced, the lane gone on. -/
theorem heap_step1_regs (s : State) (p : Heap) (hp : s.plain) :
    let u := (s.modCell s.cur fun c => { c with heap := p }).step1
    OnlyCell s u ∧ u.cell s.cur = { s.cell s.cur with lane := s.laneAfter s.lane.regs, heap := p } := by
  intro u
  have hu : u = s.modCell s.cur fun c => { c with heap := p, lane := s.laneAfter s.lane.regs } :=
    step1_modCell s (fun c => { c with heap := p }) rfl rfl hp
  rw [hu]
  exact ⟨onlyCell_modCell s _, s.cell_modCell ..⟩

theorem Heap.entry_eq {h : Heap} {i : Nat} (hi : i < Config.tileEntries) (hbelow : ∀ j, j < i → (h.tiles.getD j {}).live = true)
    (hfree : (h.tiles.getD i {}).live = false) : h.entry = some i := by
  refine List.find?_range_eq_some.mpr ⟨?_, List.mem_range.mpr hi, fun j hj => ?_⟩
  · rw [hfree]; rfl
  · rw [hbelow j hj]; rfl

/-- An allocation that the zeroed blocks serve (R197). -/
theorem Heap.alloc_eq {h : Heap} {t : Tile} {i : Nat} (hi : h.entry = some i) (howed : h.owed = 0)
    (hroom : blocksOf t.fmt t.rows t.cols ≤ h.free) : h.alloc t = .ok (i, { h with
      free := h.free - blocksOf t.fmt t.rows t.cols
      tiles := h.tiles.put i { t with live := true, gen := (h.tiles.getD i {}).gen, blocks := blocksOf t.fmt t.rows t.cols } }) := by
  have havail : ¬ h.avail < blocksOf t.fmt t.rows t.cols := by rw [Heap.avail, howed]; omega
  have hnow : Nat.min h.free (blocksOf t.fmt t.rows t.cols) = blocksOf t.fmt t.rows t.cols := Nat.min_eq_right hroom
  unfold Heap.alloc
  rw [hi]
  simp only [if_neg havail, hnow, Nat.sub_self, Nat.add_zero]

theorem State.mayUse_iff {s : State} {i : Nat} : s.mayUse i = true ↔ (s.tile i).sealed = true ∨ (s.tile i).ctx = s.fir.ctx := by
  simp [State.mayUse]

/-- The tile that TNEW makes of a shape register (R198). -/
def State.newTile (s : State) (f : BitVec 4) (w : Word) : Tile :=
  { ctx := s.fir.ctx, fmt := f.toNat, rows := bits w 0 8 + 1, cols := bits w 8 8 + 1, count := 1, region := regionOf s.fir.tag }

section
variable {s : State} {a b d g : BitVec 4} {i : Nat} (hg : Ref.holds s g = true)
include hg

/-- TNEW where every block is zeroed. -/
theorem execTnew_zeroed {f : BitVec 4} {h : Heap} (hd : s.fir.dead = false) (h0 : bits (s.x a) 16 48 = 0)
    (hal : (s.cell s.cur).heap.alloc (s.newTile f (s.x a)) = .ok (i, h)) (howed : h.owed ≤ (s.cell s.cur).heap.owed) :
    exec (.tnew d a g f) s = .next ((s.modCell s.cur fun c => { c with heap := h }).setX d
      (mkHandle s.fcx.vcell s.fir.ctx i (h.tiles.getD i {}).gen)).step1 := by
  have hset : ∀ v, (s.modCell s.cur fun c => { c with heap := h }).tile v = h.tiles.getD v {} := fun v =>
    congrArg (fun c : Cell => c.tile v) (s.cell_modCell ..)
  have hfir : (s.modCell s.cur fun c => { c with heap := h }).fir = s.fir := congrArg Lane.fir (s.lane_modCell _)
  have hfcx : (s.modCell s.cur fun c => { c with heap := h }).fcx = s.fcx := by rw [State.fcx, hfir]; exact s.cx_modCell ..
  change execTnew d a g f s = _
  unfold State.newTile at hal
  simp only [execTnew, guarded_on s g _ hg, h0, hd, hal]
  rw [if_neg (by simp), if_neg (by simp), if_neg (by omega), hset, hfcx, hfir]

theorem execTseal_here (hr : s.resolve s.cur s.fir.ctx (s.x a) = .here i) : exec (.tseal a g) s = .next (
    if (s.tile i).sealed || !s.mayUse i then s.raise .tileState (s.x a) 0
    else if (s.cell s.cur).written i then s.modLane fun l => { l with stall := some (.seal i) }
    else (s.seal i).step1) := by
  change execTseal a g s = _
  simp only [execTseal, guarded_on s g _ hg, State.localTile, hr, State.withOpd_ok]

theorem execTdup_here (hr : s.resolve s.cur s.fir.ctx (s.x a) = .here i) : exec (.tdup a b g) s = .next (
    if (s.x b).toNat = 0 || 65535 < (s.x b).toNat then s.raise .shape (s.x b) 0
    else if !(s.tile i).sealed then s.raise .tileState 0 0
    else if 65535 < (s.tile i).count + (s.x b).toNat then s.raise .refcount 0 0
    else (s.modTile s.cur i fun t => { t with count := t.count + (s.x b).toNat }).step1) := by
  change execTdup a b g s = _
  simp only [execTdup, guarded_on s g _ hg, hr]

theorem execTdrop_here (hr : s.resolve s.cur s.fir.ctx (s.x a) = .here i) : exec (.tdrop a g) s = .next (
    if s.mayUse i then (s.modCell s.cur fun c => c.dropRef i).step1 else s.raise .tileState 0 0) := by
  change execTdrop a g s = _
  simp only [execTdrop, guarded_on s g _ hg, hr]

theorem execTdup_there {k : Nat} (hr : s.resolve s.cur s.fir.ctx (s.x a) = .there k) (hh : s.held = false) :
    exec (.tdup a b g) s = .next (s.sendCount (s.x a) k (s.x b).toNat true).step1 := by
  change execTdup a b g s = _
  simp only [execTdup, guarded_on s g _ hg, hr, State.netHold_open _ _ hh]

theorem execTdrop_there {k : Nat} (hr : s.resolve s.cur s.fir.ctx (s.x a) = .there k) (hh : s.held = false) :
    exec (.tdrop a g) s = .next (s.sendCount (s.x a) k 1 false).step1 := by
  change execTdrop a g s = _
  simp only [execTdrop, guarded_on s g _ hg, hr, State.netHold_open _ _ hh]

end

/-- A count message of the present firing leaves (R48). -/
theorem sends_sendCount {s : State} (h : Word) (k n : Nat) (up : Bool) (hp : s.plain) (hd : s.fir.dead = false) :
    Sends s s.lane.regs { vn := 0, src := s.cur, dst := k, ctx := s.fir.ctx, body := .count h n up s.issuer }
      (s.sendCount h k n up).step1 := by
  rw [State.sendCount, if_neg (by simp [hd])]
  exact sends_inject s _ hp

/-- One of several references given back (R47). -/
theorem Cell.dropRef_of_more {c : Cell} {i : Nat} (h : 1 < (c.tile i).count) :
    c.dropRef i = c.modTile i fun t => { t with count := t.count - 1 } := if_neg (by omega)

/-- The last reference given back, where no command names the tile (R46, R47). -/
theorem Cell.dropRef_of_last {c : Cell} {i : Nat} (h : (c.tile i).count = 1) (hl : (c.tile i).live = true)
    (hf : (c.tile i).inflight = 0) : c.dropRef i = { c with heap := { c.heap with
      zeroing := c.heap.zeroing + (c.tile i).blocks, tiles := c.heap.tiles.put i { gen := (c.tile i).gen + 1 } } } := by
  rw [Cell.dropRef, if_pos (by omega)]
  unfold Cell.freeTile
  rw [if_neg (by simp [hl]), if_pos hf]
  rfl

/-- Settles O20: each instruction replaces the heap of its cell, or sends a count message. -/
theorem tileInstructions : Obligations.TileInstructions := by
  unfold Obligations.TileInstructions
  intro s d a b g f hg hp hdead c h n heap
  have hheap : ∀ p, heap (s.modCell s.cur fun c => { c with heap := p }).step1 s.lane.regs p := fun p => heap_step1_regs s p hp
  have hmod : ∀ F : Cell → Cell, ∀ p, F c = { c with heap := p } → heap (s.modCell s.cur F).step1 s.lane.regs p := by
    intro F p hF
    rw [State.modCell_congr s s.cur (f := F) (g := fun c => { c with heap := p }) hF]
    exact hheap p
  refine ⟨?_, ?_, fun k hr hheld => ⟨?_, ?_⟩⟩
  · intro i h0 hi hbelow hfree howed rows cols hroom
    have hal := Heap.alloc_eq (t := s.newTile f h) (Heap.entry_eq (h := c.heap) hi hbelow hfree) howed hroom
    refine ⟨_, execTnew_zeroed hg hdead h0 hal (le_refl _), ?_⟩
    rw [Tbl.getD_put_same]
    exact heap_step1 s _ (fun l => l.regs.set d _) hp
  · intro i hr mine
    refine ⟨fun hs hm hw => ?_, fun hs => ?_, fun hm => ⟨?_, ?_⟩, fun hn => ?_, fun hn hs hc => ?_, fun hm hc => ?_,
      fun hm hc hl hf => ?_⟩
    · have hm' : s.mayUse i = true := State.mayUse_iff.mpr hm
      refine ⟨_, (execTseal_here hg hr).trans ?_, hmod (fun c => c.modTile i fun t => { t with sealed := true }) _ rfl⟩
      have hs' : (s.tile i).sealed = false := hs
      rw [if_neg (by simp [hm', hs']), if_neg (by rw [hw]; decide)]
      rfl
    · have hs' : (s.tile i).sealed = true := hs
      exact (execTseal_here hg hr).trans (by rw [if_pos (by simp [hs'])])
    · have hm' : s.mayUse i = false := Bool.eq_false_iff.mpr (mt State.mayUse_iff.mp hm)
      exact (execTseal_here hg hr).trans (by rw [if_pos (by simp [hm'])])
    · exact (execTdrop_here hg hr).trans (by rw [if_neg (mt State.mayUse_iff.mp hm)])
    · exact (execTdup_here hg hr).trans (by rw [if_pos (by simpa using hn)])
    · refine ⟨_, (execTdup_here hg hr).trans ?_, hmod (fun c => c.modTile i fun t => { t with count := t.count + n }) _ rfl⟩
      have hs' : (s.tile i).sealed = true := hs
      have hc' : (s.tile i).count + (s.x b).toNat ≤ 65535 := hc
      have hn' : 0 < (s.x b).toNat := hn
      rw [if_neg (by simp; omega), if_neg (by simp [hs']), if_neg (by omega)]
      rfl
    · refine ⟨_, (execTdrop_here hg hr).trans ?_, hmod (fun c => c.dropRef i) _ (Cell.dropRef_of_more hc)⟩
      rw [if_pos (State.mayUse_iff.mpr hm)]
    · refine ⟨_, (execTdrop_here hg hr).trans ?_, hmod (fun c => c.dropRef i) _ (Cell.dropRef_of_last hc hl hf)⟩
      rw [if_pos (State.mayUse_iff.mpr hm)]
  · exact ⟨_, execTdup_there hg hr hheld, sends_sendCount h k n true hp hdead⟩
  · exact ⟨_, execTdrop_there hg hr hheld, sends_sendCount h k 1 false hp hdead⟩

end Sys2Proof.Machine
end

section
/-! PROOFS. Records copied and split-phase operations issued (O23). -/

namespace Sys2Proof.Machine

/-! ## Records -/

/-- A FULL slot of the live frame, read as part of a record. -/
theorem State.recSlot_of_full {s : State} {rel : Nat} {v : Word} (h : s.inFrame rel)
    (hv : s.slot s.cur (s.fir.base + rel) = some (.full v)) : s.recSlot rel = .ok v := by
  unfold State.recSlot
  rw [State.absSlot_of_inFrame h]
  simp only [hv]

theorem State.inFrame_of_le {s : State} {m n : Nat} (h : s.inFrame n) (hle : m ≤ n) : s.inFrame m := by
  obtain ⟨f, hf, hlt⟩ := h
  exact ⟨f, hf, by omega⟩

/-- A slot of a record that is FULL. -/
theorem State.recSlot_of_recordIs {s : State} {first j : Nat} {w : List Word} {v : Word} (h : s.recordIs first w) (hj : j ≤ 7)
    (hv : w[j]? = some v) : s.recSlot (first + j) = .ok v :=
  State.recSlot_of_full (State.inFrame_of_le h.1 (by omega)) (by rw [← Nat.add_assoc]; exact h.2 j v hv)

/-- A slot that a command uses, copied before the others (R145). -/
theorem State.copySlots_cons_true {s : State} {base : Nat} {v : Word} {us : List Bool} {ws : List Word} (hv : s.recSlot base = .ok v)
    (hws : s.copySlots (base + 1) us = .ok ws) : s.copySlots base (true :: us) = .ok (v :: ws) := by
  unfold State.copySlots
  rw [if_pos rfl, hv]
  simp only [hws]

/-- Slots that are all used are copied in order (R145). -/
theorem State.copySlots_used {s : State} (w : List Word) (base : Nat) (h : ∀ j v, w[j]? = some v → s.recSlot (base + j) = .ok v) :
    s.copySlots base (List.replicate w.length true) = .ok w := by
  induction w generalizing base with
  | nil => rfl
  | cons v w ih =>
    refine State.copySlots_cons_true (h 0 v rfl) (ih (base + 1) fun j u hj => ?_)
    rw [Nat.add_assoc, Nat.add_comm 1]
    exact h (j + 1) u hj

/-- A last slot that is not used counts as zero (R145). -/
theorem State.copySlots_unused {s : State} (w : List Word) (base : Nat) (h : ∀ j v, w[j]? = some v → s.recSlot (base + j) = .ok v) :
    s.copySlots base (List.replicate w.length true ++ [false]) = .ok (w ++ [0]) := by
  induction w generalizing base with
  | nil => rfl
  | cons v w ih =>
    refine State.copySlots_cons_true (h 0 v rfl) (ih (base + 1) fun j u hj => ?_)
    rw [Nat.add_assoc, Nat.add_comm 1]
    exact h (j + 1) u hj

section
variable {s : State} {first : Word} {w : List Word} (h : s.recordIs first.toNat w)
include h

theorem State.record_eq (us : List Bool) : s.record first us = s.copySlots first.toNat us := by
  unfold State.record
  rw [State.absSlot_of_inFrame h.1]

theorem State.recSlot_of_record (hlen : w.length ≤ 8) (j : Nat) (v : Word) (hv : w[j]? = some v) :
    s.recSlot (first.toNat + j) = .ok v := by
  have hj : j < w.length := (List.getElem?_eq_some_iff.mp hv).1
  exact State.recSlot_of_recordIs h (by omega) hv

/-- A record whose slots are all used. -/
theorem State.record_used (hlen : w.length ≤ 8) : s.record first (List.replicate w.length true) = .ok w := by
  rw [State.record_eq h]
  exact State.copySlots_used w _ (State.recSlot_of_record h hlen)

end

/-! ## Operations issued -/

/-- The destination slot of an operation, where it has one, emptied (R39). -/
def State.emptied (s : State) : Option Nat → State
  | none => s
  | some k => s.setSlot s.cur k none

/-- The cell with that slot emptied. -/
def Cell.emptied (c : Cell) : Option Nat → Cell
  | none => c
  | some k => c.setSlot k none

/-- What an issue makes of the present cell: its slot emptied, one more operation outstanding. -/
theorem State.issue_cells (s : State) (k : Option Nat) (o : MemOp) : ((s.emptied k).issue o).cells =
    (s.modCell s.cur fun c => (c.emptied k).modCx s.fir.ctx fun x => { x with outstanding := x.outstanding + 1 }).cells := by
  cases k with
  | none => rfl
  | some k =>
    have hfir : (s.setSlot s.cur k none).fir = s.fir := congrArg Lane.fir (s.lane_modCell _)
    change ((s.setSlot s.cur k none).modCx s.cur (s.setSlot s.cur k none).fir.ctx _).cells = _
    rw [hfir, State.setSlot_eq]
    exact congrArg State.cells (s.modCell_modCell ..)

theorem State.emptied_fir (s : State) (k : Option Nat) : (s.emptied k).fir = s.fir := by
  cases k with
  | none => rfl
  | some k => exact congrArg Lane.fir (s.lane_modCell _)

theorem State.emptied_fcx (s : State) (k : Option Nat) : (s.emptied k).fcx = s.fcx := by
  cases k with
  | none => rfl
  | some k => rw [State.fcx, State.emptied_fir]; exact s.cx_modCell ..

theorem State.emptied_issuer (s : State) (k : Option Nat) : (s.emptied k).issuer = s.issuer := by
  have hcur : (s.emptied k).cur = s.cur := by cases k <;> rfl
  simp only [State.issuer, State.emptied_fir, State.emptied_fcx, hcur]

@[simp] theorem Cell.emptied_lane (c : Cell) (k : Option Nat) : (c.emptied k).lane = c.lane := by cases k <;> rfl
@[simp] theorem Cell.emptied_ctxs (c : Cell) (k : Option Nat) : (c.emptied k).ctxs = c.ctxs := by cases k <;> rfl
@[simp] theorem Cell.emptied_cx (c : Cell) (k : Option Nat) (x : Nat) : (c.emptied k).cx x = c.cx x := by cases k <;> rfl

/-- The operation that an issue appends. -/
theorem State.issue_ops (s : State) (o : MemOp) : (s.issue o).ops =
    s.ops ++ [{ o with id := s.serial, who := s.issuer, inst := s.fcx.inst.getD (0, 0) }] := by
  have hfir : (s.raiseOut s.cur s.fir.ctx 1).fir = s.fir := congrArg Lane.fir (s.lane_modCell _)
  have hfcx : (s.raiseOut s.cur s.fir.ctx 1).fcx = { s.fcx with outstanding := s.fcx.outstanding + 1 } := by
    rw [State.fcx, hfir]
    exact s.cx_modCx ..
  have hwho : (s.raiseOut s.cur s.fir.ctx 1).issuer = s.issuer := by
    simp only [State.issuer, hfir, hfcx, State.raiseOut_cur]
  change s.ops ++ [{ o with
    id := s.serial, who := (s.raiseOut s.cur s.fir.ctx 1).issuer, inst := (s.raiseOut s.cur s.fir.ctx 1).fcx.inst.getD (0, 0) }] = _
  rw [hwho, hfcx]

/-- A split-phase operation of the present firing issued, and the lane gone on (R57, R193). -/
theorem issues_issue (s : State) (k : Option Nat) (o : MemOp) (hp : s.plain) :
    Issues s k o ((s.emptied k).issue { o with slot := k }).step1 := by
  obtain ⟨hrest, hcells⟩ := step1_of_cells _ (s.issue_cells k { o with slot := k }) (by cases k <;> rfl)
    (show _ = { s.lane with regs := s.lane.regs } by simp [State.lane]) (by simp [State.fcx, State.cx]) hp
  have hops := (s.emptied k).issue_ops { o with slot := k }
  rw [State.emptied_issuer, State.emptied_fcx] at hops
  refine ⟨?_, ?_, (congrArg State.serial hrest).trans ?_, fun c => State.cell_of_cells_other hcells, ?_, ?_, ?_, fun x hx => ?_⟩
  · have h := congrArg (fun u : State => { u with cells := s.cells, ops := s.ops, serial := s.serial }) hrest
    exact h.trans (by cases k <;> rfl)
  · rw [show _ = _ from congrArg State.ops hrest]
    exact hops.trans (by cases k <;> rfl)
  · cases k <;> rfl
  · rw [State.cell_of_cells hcells]; cases k <;> rfl
  · rw [State.cell_of_cells hcells]; cases k <;> rfl
  · rw [State.cx_of_cells hcells]; simp [Cell.modCx, Cell.cx, State.fcx, State.cx]
  · rw [State.cx_of_cells hcells]; simp [Cell.modCx, Cell.cx, State.cx, hx]

/-- A memory operation of a firing whose acquires have not failed is issued behind those still pending (R215). -/
theorem issues_issueMem {s : State} (k : Option Nat) (o : MemOp) (hp : s.plain) (hd : s.fir.dead = false) (ha : s.acqFailed = false) :
    Issues s k { o with behind := s.pendingAcqs s.fir.serial } ((s.emptied k).issueMem { o with slot := k }).step1 := by
  have hf : (s.emptied k).acqFailed = false := by
    have h : (s.emptied k).failedAcqs = s.failedAcqs := by cases k <;> rfl
    rw [State.acqFailed, State.emptied_fir, h]
    exact ha
  have hq : (s.emptied k).pendingAcqs s.fir.serial = s.pendingAcqs s.fir.serial := by cases k <;> rfl
  rw [State.issueMem, State.emptied_fir, hd, hf, hq]
  exact issues_issue s k { o with behind := s.pendingAcqs s.fir.serial } hp

/-- A load-like operation whose record and destination slot pass their checks (R208). -/
theorem issueLoad_issues {s : State} {kind : OpKind} {x i : BitVec 4} {slot : BitVec 12} {used : List Bool} {w : List Word} {k : Nat}
    (hp : s.plain) (hd : s.fir.dead = false) (ha : s.acqFailed = false) (hw : s.record (s.x x) used = .ok w)
    (hk : s.fslot i slot = .ok k) (hv : isDeferred (s.slot s.cur k) = false) :
    Issues s (some k) { kind := kind, recw := w, behind := s.pendingAcqs s.fir.serial } (s.issueLoad kind x i slot used) := by
  have hprod : s.producerOk k = .ok k := if_neg (by simp [hv])
  unfold State.issueLoad
  rw [hw, State.withOpd_ok, hk, State.withOpd_ok, hprod, State.withOpd_ok, if_neg (by simp [hd])]
  exact issues_issueMem (some k) { kind := kind, recw := w } hp hd ha

/-- The slots that an AMO uses, by the fourth word of its record (R145). -/
theorem State.amoUsed_eq {s : State} {x : BitVec 4} {v : Word} (h : s.recSlot ((s.x x).toNat + 3) = .ok v) :
    s.amoUsed x = List.replicate 5 true ++ [bits v 0 4 == 9 && bits v 4 2 == 1] := by
  unfold State.amoUsed
  rw [h]
  rfl

/-- An AMO's record (R213): of five words, or of six for a 64-bit compare-and-swap. -/
theorem State.record_amo {s : State} {x : BitVec 4} {w : List Word} (h : s.recordIs (s.x x).toNat w)
    (hlen : w.length = if bits (w.getD 3 0) 0 4 = 9 ∧ bits (w.getD 3 0) 4 2 = 1 then 6 else 5) :
    s.record (s.x x) (s.amoUsed x) = .ok (if w.length = 6 then w else w ++ [0]) := by
  have hslots := State.recSlot_of_record h (by split at hlen <;> omega)
  have h3 : w[3]? = some (w.getD 3 0) := by
    rw [List.getD_eq_getElem?_getD, List.getElem?_eq_getElem (by split at hlen <;> omega)]
    rfl
  rw [State.amoUsed_eq (hslots 3 _ h3)]
  by_cases hcas : bits (w.getD 3 0) 0 4 = 9 ∧ bits (w.getD 3 0) 4 2 = 1
  · rw [if_pos hcas] at hlen
    have hrec := State.record_used h (by omega)
    rw [hlen] at hrec
    rw [if_pos hlen, beq_iff_eq.mpr hcas.1, beq_iff_eq.mpr hcas.2]
    exact hrec
  · rw [if_neg hcas] at hlen
    have hunused : (bits (w.getD 3 0) 0 4 == 9 && bits (w.getD 3 0) 4 2 == 1) = false := by
      simpa [← Bool.not_eq_true] using hcas
    have hrec := State.copySlots_unused w _ hslots
    rw [hlen] at hrec
    rw [hunused, if_neg (by omega), State.record_eq h]
    exact hrec

/-- Settles O23: each instruction copies its record and issues one operation with it. -/
theorem memoryInstructionsIssue : Obligations.MemoryInstructionsIssue := by
  unfold Obligations.MemoryInstructionsIssue
  intro s x i a b c g slot p w hp hheld hdead hacq rel k behind loads
  have hslot : s.inFrame rel → s.fslot i slot = .ok k := fun hin => State.absSlot_of_inFrame hin
  refine ⟨fun ⟨hpr, hin, hv⟩ hlen hrec => ?_, fun ⟨hpr, hin, hv⟩ hrec hlen => ?_, fun hg hc hok hlen hrec => ?_⟩
  · have hw : s.record (s.x x) [true, true, true, true] = .ok w := by
      have h := State.record_used hrec (by omega)
      rwa [hlen] at h
    have hload := fun kind => issueLoad_issues (kind := kind) hp hdead hacq hw (hslot hin) hv
    exact ⟨⟨_, congrArg Host.Outcome.next ((State.guardedP_on _ hpr).trans (State.netHold_open _ _ hheld)), hload .ldg⟩,
      ⟨_, congrArg Host.Outcome.next ((State.guardedP_on _ hpr).trans (State.netHold_open _ _ hheld)), hload .ldch⟩⟩
  · exact ⟨_, congrArg Host.Outcome.next ((State.guardedP_on _ hpr).trans (State.netHold_open _ _ hheld)),
      issueLoad_issues hp hdead hacq (State.record_amo hrec hlen) (hslot hin) hv⟩
  · have hw : s.record (s.x a) [true, true, true, true] = .ok w := by
      have h := State.record_used hrec (by omega)
      rwa [hlen] at h
    have hr : s.reply c = .ok (some (s.x c)) := by
      simp only [State.reply, if_neg hc, State.checkCont, if_pos hok]
    refine ⟨_, ?_, issues_issueMem none { kind := .stg, recw := w, val := s.x b, cont := some (s.x c) } hp hdead hacq⟩
    change execStg a b c g s = _
    simp only [execStg, if_neg hc, guarded_on s g _ hg, State.netHold_open _ _ hheld]
    rw [hw, State.withOpd_ok, hr, State.withOpd_ok]
    rfl

end Sys2Proof.Machine
end

section
/-! PROOFS. Barriers (O26): the loop of R220, and BARS and BARA at their barrier. -/

namespace Sys2Proof.Machine

/-! ## The loop -/

/-- A barrier that is not armed, or whose arrivals are below its target, fires nothing. -/
theorem Barrier.fire_quiet {b : Barrier} (n : Nat) (h : b.armed = false ∨ b.arrivals.toNat < b.target.toNat) : b.fire n = ([], b) := by
  cases n with
  | zero => rfl
  | succ n =>
    refine if_neg ?_
    rw [Bool.and_eq_true, decide_eq_true_eq]
    rintro ⟨harmed, hle⟩
    rcases h with h | h
    · rw [h] at harmed; exact Bool.noConfusion harmed
    · omega

/-- A barrier after one turn of the loop. -/
def Barrier.turned (b : Barrier) : Barrier := { b with arrivals := b.arrivals - b.target, phase := b.phase + 1, armed := b.rep }

/-- A barrier that reaches its target once fires once. -/
theorem Barrier.fire_once {b : Barrier} (harmed : b.armed = true) (hle : b.target.toNat ≤ b.arrivals.toNat)
    (hlt : b.arrivals.toNat < 2 * b.target.toNat) : b.fire b.turns = ([b.turned.value], b.turned) := by
  have h0 : b.target ≠ 0 := by
    intro h
    rw [h] at hle hlt
    simp at hlt
  have hturns : b.turns = 1 := by
    rw [Barrier.turns, if_neg h0]
    exact Nat.div_eq_of_lt_le (by omega) (by omega)
  rw [hturns]
  exact if_pos (by rw [harmed, decide_eq_true hle]; rfl)

/-- A barrier of the present cell set. -/
def State.setBar (s : State) (n : Nat) (b : Barrier) : State := s.modCell s.cur fun d => { d with barriers := d.barriers.set {} n b }

theorem State.runBarrier_quiet {s : State} {b : Barrier} (n : Nat) (h : b.armed = false ∨ b.arrivals.toNat < b.target.toNat) :
    s.runBarrier s.cur n b = (s.setBar n b, b) := by
  unfold State.runBarrier
  rw [Barrier.fire_quiet _ h]
  rfl

theorem State.runBarrier_once {s : State} {b : Barrier} (n : Nat) (harmed : b.armed = true) (hle : b.target.toNat ≤ b.arrivals.toNat)
    (hlt : b.arrivals.toNat < 2 * b.target.toNat) :
    s.runBarrier s.cur n b = ((s.setBar n b.turned).sendTok s.cur b.cont b.turned.value b.tag, b.turned) := by
  unfold State.runBarrier
  rw [Barrier.fire_once harmed hle hlt]
  rfl

/-- A barrier of the firing's context, or one that is idle, lets an operation through (R219). -/
theorem State.owned_mine {s : State} {w : Issuer} {idle : Bool} {owner : Nat} (f : State → State) (h : idle = true ∨ owner = w.ctx) :
    s.owned w idle owner f = f s := by
  refine if_neg ?_
  rcases h with h | h <;> simp [h]

theorem State.owned_other {s : State} {w : Issuer} {idle : Bool} {owner : Nat} (f : State → State) (h : ¬ (idle = true ∨ owner = w.ctx)) :
    s.owned w idle owner f = s.opLost w .privilege 0 0 := by
  refine if_pos ?_
  simpa [not_or] using h

/-! ## At the barrier -/

theorem State.barName_ok {s : State} {a : Word} (h0 : bits a 7 46 = 0) (hv : vcellOf a < s.fcx.place.length) :
    s.barName a = .ok (bits a 0 7, vcellOf a) := by
  rw [State.barName, if_neg (by simp [h0]), if_neg (by omega)]

theorem State.reply_of_replyIs {s : State} {c : BitVec 4} {r : Option Word} (h : s.replyIs c r) : s.reply c = .ok r := by
  rcases h with ⟨hc, hr⟩ | ⟨hc, hr, hok⟩
  · rw [State.reply, if_pos hc, hr]
  · simp only [State.reply, if_neg hc, State.checkCont, if_pos hok, hr]

theorem State.holdIf_open {s : State} (b : Bool) (i : Instr) (f : State → State) (h : b = false ∨ s.held = false) :
    s.holdIf b i f = f s := by
  rcases h with h | h
  · exact if_neg (by simp [h])
  · unfold State.holdIf
    rw [State.netHold_open _ _ h, ite_self]

theorem State.holdIf_held {s : State} {b : Bool} (i : Instr) (f : State → State) (hb : b = true) (h : s.held = true) :
    s.holdIf b i f = s.modLane fun l => { l with stall := some (.net i) } :=
  (if_pos hb).trans (if_pos h)

section
variable {s : State} {a b c g : BitVec 4} (hg : Ref.holds s g = true) (h0 : bits (s.x a) 7 46 = 0)
  (hv : vcellOf (s.x a) < s.fcx.place.length)
include hg h0 hv

/-- BARS that the network does not hold back is applied. -/
theorem execBars_open {rep : Bool} (hd : s.fir.dead = false) (hc : c ≠ 0) (hok : replyOk s.fcx.place.length s.fir.ctx (s.x c) = true)
    (h : ((s.cell s.cur).barrier (bits (s.x a) 0 7)).arrivals.toNat < (s.x b).toNat ∨ s.held = false) :
    exec (.bars a b c rep g) s = .next (s.setBarrier (bits (s.x a) 0 7, vcellOf (s.x a)) (s.x b) rep (s.x c)).step1 := by
  change execBars a b c rep g s = _
  simp only [execBars, if_neg hc, guarded_on s g _ hg, State.barName_ok h0 hv, State.withOpd_ok, State.checkCont, if_pos hok]
  rw [State.holdIf_open _ _ _ (h.imp_left fun h => decide_eq_false (by omega)), if_neg (by simp [hd])]

theorem execBars_held {rep : Bool} (hc : c ≠ 0) (hok : replyOk s.fcx.place.length s.fir.ctx (s.x c) = true) (hh : s.held = true)
    (h : (s.x b).toNat ≤ ((s.cell s.cur).barrier (bits (s.x a) 0 7)).arrivals.toNat) :
    exec (.bars a b c rep g) s = .next (s.modLane fun l => { l with stall := some (.net (.bars a b c rep g)) }) := by
  change execBars a b c rep g s = _
  simp only [execBars, if_neg hc, guarded_on s g _ hg, State.barName_ok h0 hv, State.withOpd_ok, State.checkCont, if_pos hok]
  rw [State.holdIf_held _ _ (decide_eq_true h) hh]

section
variable {r : Option Word} (hr : s.replyIs c r)
include hr

/-- BARA at a barrier of this vcell that the network does not hold back is applied. -/
theorem execBara_here (hd : s.fir.dead = false) (hhere : vcellOf (s.x a) = s.fcx.vcell)
    (h : (r = none ∧ (((s.cell s.cur).barrier (bits (s.x a) 0 7)).armed = false ∨
      ((s.cell s.cur).barrier (bits (s.x a) 0 7)).arrivals.toNat + (s.x b).toNat <
        ((s.cell s.cur).barrier (bits (s.x a) 0 7)).target.toNat)) ∨ s.held = false) :
    exec (.bara a b c g) s = .next (s.arrive s.cur (bits (s.x a) 0 7) s.issuer (s.x b).toNat r).step1 := by
  change execBara a b c g s = _
  simp only [execBara, guarded_on s g _ hg, State.barName_ok h0 hv, State.withOpd_ok, State.reply_of_replyIs hr, if_pos hhere]
  rw [State.holdIf_open _ _ _ ?_, if_neg (by simp [hd])]
  refine h.imp_left fun ⟨hnone, hq⟩ => ?_
  rcases hq with hq | hq <;> simp [hnone, hq]

theorem execBara_there (hd : s.fir.dead = false) (hthere : vcellOf (s.x a) ≠ s.fcx.vcell) (hh : s.held = false) :
    exec (.bara a b c g) s = .next ((s.raiseOut s.cur s.fir.ctx 1).inject
      { vn := 0, src := s.cur, dst := s.fcx.place.getD (vcellOf (s.x a)) 0, ctx := s.fir.ctx,
        body := .bara (bits (s.x a) 0 7) (s.x b).toNat r s.issuer }).step1 := by
  change execBara a b c g s = _
  simp only [execBara, guarded_on s g _ hg, State.barName_ok h0 hv, State.withOpd_ok, State.reply_of_replyIs hr, if_neg hthere,
    State.netHold_open _ _ hh]
  rw [if_neg (by simp [hd])]

theorem execBara_held (hh : s.held = true) (h : vcellOf (s.x a) ≠ s.fcx.vcell ∨ r ≠ none ∨
      (((s.cell s.cur).barrier (bits (s.x a) 0 7)).armed = true ∧ ((s.cell s.cur).barrier (bits (s.x a) 0 7)).target.toNat ≤
        ((s.cell s.cur).barrier (bits (s.x a) 0 7)).arrivals.toNat + (s.x b).toNat)) :
    exec (.bara a b c g) s = .next (s.modLane fun l => { l with stall := some (.net (.bara a b c g)) }) := by
  change execBara a b c g s = _
  simp only [execBara, guarded_on s g _ hg, State.barName_ok h0 hv, State.withOpd_ok, State.reply_of_replyIs hr]
  by_cases hhere : vcellOf (s.x a) = s.fcx.vcell
  · rw [if_pos hhere, State.holdIf_held _ _ ?_ hh]
    rcases h.resolve_left (not_not_intro hhere) with h | ⟨h1, h2⟩
    · simp [Option.isSome_iff_ne_none.mpr h]
    · simp [h1, h2]
  · rw [if_neg hhere]
    exact congrArg Host.Outcome.next (if_pos hh)

end

end

/-! ## What an arrival and an arming leave -/

/-- BARS refused for its target or its name (R220). -/
theorem State.setBarrier_shape {s : State} {n m : Nat} {v : Word} (rep : Bool) (w : Word)
    (h : m ≠ s.fcx.vcell ∨ v.toNat = 0 ∨ 2 ^ 32 ≤ v.toNat) : s.setBarrier (n, m) v rep w = s.opLost s.issuer .shape 0 0 := by
  refine if_pos ?_
  have hz : v = 0 ↔ v.toNat = 0 := by rw [← BitVec.toNat_inj]; rfl
  simp only [Bool.or_eq_true, decide_eq_true_eq, hz]
  tauto

theorem State.setBarrier_named {s : State} {n m : Nat} {v : Word} (rep : Bool) (w : Word) (hm : m = s.fcx.vcell) (h1 : 0 < v.toNat)
    (h2 : v.toNat < 2 ^ 32) : s.setBarrier (n, m) v rep w = s.armBarrier s.cur n s.issuer (v.setWidth 32) rep w := by
  refine if_neg ?_
  have hz : v = 0 ↔ v.toNat = 0 := by rw [← BitVec.toNat_inj]; rfl
  simp only [Bool.or_eq_true, decide_eq_true_eq, hz]
  omega

/-- BARA refused for its number of arrivals (R220). -/
theorem State.arrive_shape {s : State} {c n k : Nat} {w : Issuer} (r : Option Word) (h : k = 0 ∨ 65536 ≤ k) :
    s.arrive c n w k r = s.opLost w .shape 0 0 := if_pos (by simpa using h)

/-- Arrivals in range at a barrier that another context owns. -/
theorem State.arrive_other {s : State} {c n k : Nat} {w : Issuer} (r : Option Word) (h1 : 0 < k) (h2 : k < 65536)
    (hm : ¬ (((s.cell c).barrier n).idle = true ∨ ((s.cell c).barrier n).owner = w.ctx)) :
    s.arrive c n w k r = s.opLost w .privilege 0 0 := by
  unfold State.arrive
  rw [if_neg (by simp; omega)]
  exact State.owned_other _ hm

/-- The barrier after arrivals have been added. -/
def Barrier.added (q : Barrier) (k owner : Nat) : Barrier := { q with arrivals := q.arrivals + BitVec.ofNat 32 k, owner := owner }

/-- The acknowledgement of an arrival, where one is asked for (R220). -/
def State.ackArrival (s : State) (c : Nat) (w : Issuer) (b : Barrier) : Option Word → State
  | none => s
  | some r => s.sendReply c w r b.value

/-- Arrivals in range at a barrier of the context, which runs its loop; then the acknowledgement. -/
theorem State.arrive_mine {s : State} {n k : Nat} {w : Issuer} (r : Option Word) (h1 : 0 < k) (h2 : k < 65536)
    (hm : ((s.cell s.cur).barrier n).idle = true ∨ ((s.cell s.cur).barrier n).owner = w.ctx)
    (hsum : ((s.cell s.cur).barrier n).arrivals.toNat + k < 2 ^ 32) {u : State} {b : Barrier}
    (hrun : s.runBarrier s.cur n (((s.cell s.cur).barrier n).added k w.ctx) = (u, b)) :
    s.arrive s.cur n w k r = u.ackArrival s.cur w b r := by
  unfold State.arrive
  rw [if_neg (by simp; omega)]
  refine (State.owned_mine _ hm).trans ((if_neg (by omega)).trans ?_)
  unfold Barrier.added at hrun
  rw [hrun]
  cases r <;> rfl

/-- A barrier of the present cell has been set and packets sent for the firing; nothing else but its context's count differs. -/
structure BarSent (s : State) (n : Nat) (b : Barrier) (ps : List Packet) (u : State) : Prop where
  rest : { u with cells := s.cells, net := s.net } = s
  net : u.net = s.net ++ ps
  others : ∀ c, c ≠ s.cur → u.cell c = s.cell c
  cell : { u.cell s.cur with ctxs := (s.cell s.cur).ctxs } = { s.cell s.cur with barriers := (s.cell s.cur).barriers.set {} n b }
  ctx : ∃ m, u.cx s.cur s.fir.ctx = { s.fcx with outstanding := m }

theorem barSent_setBar (s : State) (n : Nat) (b : Barrier) : BarSent s n b [] (s.setBar n b) where
  rest := rfl
  net := (List.append_nil _).symm
  others _ h := s.cell_modCell_other _ _ _ h
  cell := congrArg (fun d : Cell => { d with ctxs := (s.cell s.cur).ctxs }) (s.cell_modCell ..)
  ctx := ⟨_, s.cx_modCell ..⟩

section
variable {s u : State} {n : Nat} {b : Barrier} {ps : List Packet} (h : BarSent s n b ps u)
include h

theorem BarSent.cur : u.cur = s.cur := (congrArg State.cur h.rest :)

theorem BarSent.lane : u.lane = s.lane := by
  rw [State.lane, h.cur]
  exact (congrArg Cell.lane h.cell :)

theorem BarSent.fir : u.fir = s.fir := congrArg Lane.fir h.lane

/-- A control token of the firing's context sent after it. -/
theorem BarSent.sendAs {cont : Word} (val tag : Word) (reply : Option Nat) (hc : ctxOf cont = s.fir.ctx) :
    BarSent s n b (ps ++ [s.sent { s.tokenPacket cont val tag with reply := reply }])
      (u.sendAs s.cur { cont := cont, val := val, tag := tag } none reply) := by
  obtain ⟨m, hm⟩ := h.ctx
  have hsent : ∀ p, u.sent p = s.sent p := fun p => (congrArg (fun t : State => t.sent p) h.rest :)
  have hplace : (u.cx s.cur s.fir.ctx).place = s.fcx.place := (congrArg Ctx.place hm :)
  have hsend : u.sendAs s.cur { cont := cont, val := val, tag := tag } none reply =
      (u.raiseOut s.cur s.fir.ctx 1).inject { s.tokenPacket cont val tag with reply := reply } := by
    have hout : ((u.raiseOut s.cur s.fir.ctx 1).cx s.cur s.fir.ctx).place = s.fcx.place := by rw [State.cx_raiseOut]; exact hplace
    unfold State.sendAs State.tokenPacket
    simp only [hc, hout]
    split <;> rfl
  have hcells : ((u.raiseOut s.cur s.fir.ctx 1).inject { s.tokenPacket cont val tag with reply := reply }).cells =
      (u.modCell s.cur fun c => c.modCx s.fir.ctx fun k => { k with outstanding := k.outstanding + 1 }).cells := rfl
  rw [hsend]
  refine ⟨h.rest, ?_, fun c hne => ?_, ?_, m + 1, ?_⟩
  · have hnet : ((u.raiseOut s.cur s.fir.ctx 1).inject { s.tokenPacket cont val tag with reply := reply }).net =
        u.net ++ [u.sent { s.tokenPacket cont val tag with reply := reply }] := rfl
    rw [hnet, hsent, h.net, List.append_assoc]
  · exact (State.cell_of_cells_other hcells hne).trans (h.others c hne)
  · rw [State.cell_of_cells hcells]
    exact h.cell
  · exact (State.cx_raiseOut ..).trans (by rw [hm])

/-- The lane goes on after it. -/
theorem BarSent.step1 (hp : s.plain) : u.step1.net = s.net ++ ps ∧
    (u.step1.cell s.cur).barriers = (s.cell s.cur).barriers.set {} n b ∧ u.step1.lane = s.laneAfter s.lane.regs ∧
      u.step1.mem = s.mem ∧ ∀ m, m ≠ s.cur → u.step1.cell m = s.cell m := by
  obtain ⟨k, hk⟩ := h.ctx
  have hfcx : u.fcx = { s.fcx with outstanding := k } := by rw [State.fcx, h.fir, h.cur, hk]
  rw [step1_of_lane (r := s.lane.regs) h.cur h.lane (by rw [hfcx]) hp]
  refine ⟨h.net, ?_, ?_, (congrArg State.mem h.rest :), fun c hne => ?_⟩
  · rw [State.cell_modCell]
    exact (congrArg Cell.barriers h.cell :)
  · rw [State.lane, State.modCell_cur, h.cur, State.cell_modCell]
  · rw [State.cell_modCell_other _ _ _ _ hne, h.others c hne]

end

/-- The acknowledgement's packet, where one is asked for. -/
def State.ackPackets (s : State) (b : Barrier) : Option Word → List Packet
  | none => []
  | some x => [s.sent { s.tokenPacket x b.value s.fir.tag with reply := some s.cur }]

/-- The acknowledgement sent. -/
theorem BarSent.ack {s u : State} {n : Nat} {b : Barrier} {ps : List Packet} (h : BarSent s n b ps u) {c : BitVec 4} {r : Option Word}
    (hr : s.replyIs c r) : BarSent s n b (ps ++ s.ackPackets b r) (u.ackArrival s.cur s.issuer b r) := by
  rcases hr with ⟨-, rfl⟩ | ⟨-, rfl, hok⟩
  · rw [State.ackPackets, List.append_nil]
    exact h
  · exact h.sendAs _ _ _ (replyOk_iff.mp hok).2.2.1

/-- Arrivals added within 32 bits. -/
theorem Barrier.added_toNat {q : Barrier} {k : Nat} (owner : Nat) (h : q.arrivals.toNat + k < 2 ^ 32) :
    (q.added k owner).arrivals.toNat = q.arrivals.toNat + k := by
  have hk : k % 2 ^ 32 = k := Nat.mod_eq_of_lt (by omega)
  change (q.arrivals + BitVec.ofNat 32 k).toNat = _
  rw [BitVec.toNat_add, BitVec.toNat_ofNat, hk, Nat.mod_eq_of_lt h]

/-- Arrivals left after a turn. -/
theorem Barrier.added_turned_toNat {q : Barrier} {k : Nat} (owner : Nat) (h : q.arrivals.toNat + k < 2 ^ 32)
    (hle : q.target.toNat ≤ q.arrivals.toNat + k) :
    (q.added k owner).turned.arrivals.toNat = q.arrivals.toNat + k - q.target.toNat := by
  have hsum := Barrier.added_toNat owner h
  change ((q.added k owner).arrivals - q.target).toNat = _
  rw [BitVec.toNat_sub_of_le (BitVec.le_def.mpr (by omega)), hsum]

section
variable {s : State} {n k : Nat} {c : BitVec 4} {r : Option Word} (hr : s.replyIs c r) (h1 : 0 < k) (h2 : k < 65536)
  (hm : ((s.cell s.cur).barrier n).idle = true ∨ ((s.cell s.cur).barrier n).owner = s.fir.ctx)
  (hsum : ((s.cell s.cur).barrier n).arrivals.toNat + k < 2 ^ 32)
include hr h1 h2 hm hsum

/-- Arrivals that fire nothing: they are counted, and acknowledged. -/
theorem barSent_arrive_quiet (hq : ((s.cell s.cur).barrier n).armed = false ∨
      ((s.cell s.cur).barrier n).arrivals.toNat + k < ((s.cell s.cur).barrier n).target.toNat) :
    BarSent s n (((s.cell s.cur).barrier n).added k s.fir.ctx) (s.ackPackets (((s.cell s.cur).barrier n).added k s.fir.ctx) r)
      (s.arrive s.cur n s.issuer k r) := by
  have hrun := State.runBarrier_quiet (s := s) (b := ((s.cell s.cur).barrier n).added k s.fir.ctx) n
    (hq.imp_right fun h => by rw [Barrier.added_toNat s.fir.ctx hsum]; exact h)
  rw [State.arrive_mine (w := s.issuer) r h1 h2 hm hsum hrun]
  exact (barSent_setBar s n _).ack hr

/-- Arrivals that reach the target once: the token, then the acknowledgement. -/
theorem barSent_arrive_once (harmed : ((s.cell s.cur).barrier n).armed = true)
    (hle : ((s.cell s.cur).barrier n).target.toNat ≤ ((s.cell s.cur).barrier n).arrivals.toNat + k)
    (hlt : ((s.cell s.cur).barrier n).arrivals.toNat + k < 2 * ((s.cell s.cur).barrier n).target.toNat)
    (hcont : ctxOf ((s.cell s.cur).barrier n).cont = s.fir.ctx) :
    BarSent s n (((s.cell s.cur).barrier n).added k s.fir.ctx).turned
      (s.sent (s.tokenPacket ((s.cell s.cur).barrier n).cont (((s.cell s.cur).barrier n).added k s.fir.ctx).turned.value
        ((s.cell s.cur).barrier n).tag) :: s.ackPackets (((s.cell s.cur).barrier n).added k s.fir.ctx).turned r)
      (s.arrive s.cur n s.issuer k r) := by
  have hadd := Barrier.added_toNat (q := (s.cell s.cur).barrier n) s.fir.ctx hsum
  have hrun := State.runBarrier_once (s := s) (b := ((s.cell s.cur).barrier n).added k s.fir.ctx) n harmed (by rw [hadd]; exact hle)
    (by rw [hadd]; exact hlt)
  have hnone : { s.tokenPacket ((s.cell s.cur).barrier n).cont (((s.cell s.cur).barrier n).added k s.fir.ctx).turned.value
      ((s.cell s.cur).barrier n).tag with reply := none } = s.tokenPacket ((s.cell s.cur).barrier n).cont
        (((s.cell s.cur).barrier n).added k s.fir.ctx).turned.value ((s.cell s.cur).barrier n).tag := by
    unfold State.tokenPacket
    split <;> rfl
  have h := (barSent_setBar s n (((s.cell s.cur).barrier n).added k s.fir.ctx).turned).sendAs (cont := ((s.cell s.cur).barrier n).cont)
    (((s.cell s.cur).barrier n).added k s.fir.ctx).turned.value ((s.cell s.cur).barrier n).tag none hcont
  rw [hnone] at h
  rw [State.arrive_mine (w := s.issuer) r h1 h2 hm hsum hrun]
  exact h.ack hr

end

/-- Settles O26: each form at its barrier, by the turns that the loop of R220 makes. -/
theorem barrierInstructions : Obligations.BarrierInstructions := by
  unfold Obligations.BarrierInstructions
  intro s a b c rep g r hg hp hdead h0 hv n k q mine sets ack
  have hend : ∀ {bar : Barrier} {ps : List Packet} {u : State}, BarSent s n bar ps u →
      u.step1.net = s.net ++ ps ∧ sets u.step1 bar := fun h => h.step1 hp
  refine ⟨fun hhere hm hc hk hk32 hlt hok => ?_, fun w hok hh hw hc => ?_, fun w hr hh hhere hw => ?_, fun hh hr => ⟨fun h => ?_, fun hc hle => ?_⟩,
    fun hhere hm hk hk16 hsum hopen hq hr => ?_, fun hhere hm hk hk16 hsum hh harmed hle hlt hcont hr => ?_, fun hthere hh hr => ?_⟩
  · have hset : s.setBarrier (n, vcellOf (s.x a)) (s.x b) rep (s.x c) = s.setBar n { q with
        target := BitVec.ofNat 32 k, rep := rep, cont := s.x c, tag := s.fir.tag, armed := true, owner := s.fir.ctx } := by
      rw [State.setBarrier_named rep _ hhere hk hk32, State.armBarrier, State.owned_mine _ hm, State.runBarrier_quiet]
      · rfl
      · right
        exact lt_of_lt_of_eq hlt (Nat.mod_eq_of_lt hk32).symm
    obtain ⟨hnet, hsets⟩ := hend (barSent_setBar s n _)
    exact ⟨_, (execBars_open hg h0 hv hdead hc hok (.inl hlt)).trans (by rw [hset]), hnet.trans (List.append_nil _), hsets⟩
  · rw [execBars_open hg h0 hv hdead hc (hok hc) (.inr hh)]
    rcases hw with ⟨rfl, hbad⟩ | ⟨rfl, hhere, hk, hk32, hm⟩
    · rw [State.setBarrier_shape rep _ hbad]
    · rw [State.setBarrier_named rep _ hhere hk hk32, State.armBarrier, State.owned_other _ hm]
  · rw [execBara_here hg h0 hv hr hdead hhere (.inr hh)]
    rcases hw with ⟨rfl, hbad⟩ | ⟨rfl, hk, hk16, hm⟩
    · rw [State.arrive_shape r hbad]
    · rw [State.arrive_other r hk hk16 hm]
  · exact execBara_held hg h0 hv hr hh h
  · rcases hr with ⟨hc0, -⟩ | ⟨-, -, hok⟩
    · exact absurd hc0 hc
    · exact execBars_held hg h0 hv hc hok hh hle
  · have hack : s.ackPackets (q.added k s.fir.ctx) r = ack (q.arrivals.toNat + k) q.phase := by
      cases r with
      | none => rfl
      | some x => rw [State.ackPackets, Barrier.value, Barrier.added_toNat _ hsum]; rfl
    have hrun := execBara_here hg h0 hv hr hdead hhere (hopen.imp_left fun h => ⟨h, hq⟩)
    obtain ⟨hnet, hsets⟩ := hend (barSent_arrive_quiet hr hk hk16 hm hsum hq)
    rw [hack] at hnet
    exact ⟨_, hrun, hnet, hsets⟩
  · have hleft := Barrier.added_turned_toNat s.fir.ctx hsum hle
    have hval : (q.added k s.fir.ctx).turned.arrivals = BitVec.ofNat 32 (q.arrivals.toNat + k - q.target.toNat) := by
      rw [← hleft, BitVec.ofNat_toNat, BitVec.setWidth_eq]
    have hbar : (q.added k s.fir.ctx).turned = { q with
        arrivals := BitVec.ofNat 32 (q.arrivals.toNat + k - q.target.toNat), phase := q.phase + 1, armed := q.rep, owner := s.fir.ctx } := by
      rw [← hval]
      rfl
    have hack : s.ackPackets (q.added k s.fir.ctx).turned r = ack (q.arrivals.toNat + k - q.target.toNat) (q.phase + 1) := by
      cases r with
      | none => rfl
      | some x => rw [State.ackPackets, Barrier.value, hleft]; rfl
    have htok : (q.added k s.fir.ctx).turned.value =
        BitVec.ofNat 64 ((q.arrivals.toNat + k - q.target.toNat) * 2 ^ 32 + (q.phase + 1).toNat) := by
      rw [Barrier.value, hleft]; rfl
    obtain ⟨hnet, hsets⟩ := hend (barSent_arrive_once hr hk hk16 hm hsum harmed hle hlt hcont)
    rw [htok, hack, List.append_cons] at hnet
    rw [hbar] at hsets
    exact ⟨_, execBara_here hg h0 hv hr hdead hhere (.inr hh), hnet, hsets⟩
  · exact ⟨_, execBara_there hg h0 hv hr hdead hthere hh, sends_inject s _ hp⟩

end Sys2Proof.Machine
end

section
/-! PROOFS. Engine commands issued (O32, O33): what a command leaves in its queue, its tiles and its status slot. -/

namespace Sys2Proof.Machine

/-! ## The cell that a command enters -/

/-- A tile named by one command more. -/
def Cell.fly (c : Cell) (i : Nat) : Cell := c.modTile i fun t => { t with inflight := t.inflight + 1 }

theorem Cell.tile_modTile (c : Cell) (i : Nat) (f : Tile → Tile) : (c.modTile i f).tile i = f (c.tile i) := Tbl.getD_put_same ..

theorem Cell.tile_modTile_other (c : Cell) {i j : Nat} (f : Tile → Tile) (h : j ≠ i) : (c.modTile i f).tile j = c.tile j :=
  Tbl.getD_put_other _ _ _ _ _ h

theorem Cell.foldl_fly_heap (l : List Nat) (c : Cell) : l.foldl Cell.fly c = { c with heap := (l.foldl Cell.fly c).heap } := by
  induction l generalizing c with
  | nil => rfl
  | cons i l ih => exact ih (c.fly i)

theorem Cell.foldl_fly_other (l : List Nat) (c : Cell) {j : Nat} (h : j ∉ l) : (l.foldl Cell.fly c).tile j = c.tile j := by
  induction l generalizing c with
  | nil => rfl
  | cons i l ih =>
    rw [List.mem_cons, not_or] at h
    exact (ih (c.fly i) h.2).trans (c.tile_modTile_other _ h.1)

theorem Cell.foldl_fly_mem (l : List Nat) (c : Cell) {j : Nat} (h : j ∈ l) (hn : l.Nodup) :
    (l.foldl Cell.fly c).tile j = { c.tile j with inflight := (c.tile j).inflight + 1 } := by
  induction l generalizing c with
  | nil => exact absurd h List.not_mem_nil
  | cons i l ih =>
    obtain ⟨hi, hl⟩ := List.nodup_cons.mp hn
    by_cases hj : j = i
    · subst hj
      exact (Cell.foldl_fly_other l _ hi).trans (c.tile_modTile j _)
    · refine (ih (c.fly i) ((List.mem_cons.mp h).resolve_left hj) hl).trans ?_
      rw [show (c.fly i).tile j = c.tile j from c.tile_modTile_other _ hj]

theorem nodup_eraseDups (l : List Nat) : l.eraseDups.Nodup := by
  induction h : l.length using Nat.strong_induction_on generalizing l with
  | _ n ih =>
    cases l with
    | nil => exact List.nodup_nil
    | cons a l =>
      have hlt : (l.filter fun b => !b == a).length < n := by
        rw [← h, List.length_cons]
        exact Nat.lt_succ_of_le (List.length_filter_le ..)
      rw [List.eraseDups_cons, List.nodup_cons]
      exact ⟨by simp [List.mem_eraseDups], ih _ hlt _ rfl⟩

/-- A command counts once at each tile that it names (R201). -/
theorem Cell.flyAll_tile (c : Cell) (named : List (Nat × BitVec 8 × Bool)) {j : Nat} (h : j ∈ named.map (·.1)) :
    ((c.flyAll named).tile j).inflight = (c.tile j).inflight + 1 :=
  congrArg Tile.inflight (Cell.foldl_fly_mem _ c (List.mem_eraseDups.mpr h) (nodup_eraseDups _) :)

theorem Cell.flyAll_tile_other (c : Cell) (named : List (Nat × BitVec 8 × Bool)) {j : Nat} (h : j ∉ named.map (·.1)) :
    (c.flyAll named).tile j = c.tile j := Cell.foldl_fly_other _ c (mt List.mem_eraseDups.mp h)

theorem Cell.flyAll_heap (c : Cell) (named : List (Nat × BitVec 8 × Bool)) : c.flyAll named = { c with heap := (c.flyAll named).heap } :=
  Cell.foldl_fly_heap _ c

theorem Cell.queueOf_enqueue (c : Cell) (m : Cmd) : ((c.enqueue m).queueOf m.op m.hi).1 = (c.queueOf m.op m.hi).1 ++ [m] := by
  unfold Cell.enqueue Cell.queueOf
  cases m.op <;> cases m.hi <;> rfl

section
variable (c : Cell) (m : Cmd)

@[simp] theorem Cell.enqueue_lane : (c.enqueue m).lane = c.lane := by unfold Cell.enqueue; cases m.op <;> cases m.hi <;> rfl
@[simp] theorem Cell.enqueue_slots : (c.enqueue m).slots = c.slots := by unfold Cell.enqueue; cases m.op <;> cases m.hi <;> rfl
@[simp] theorem Cell.enqueue_heap : (c.enqueue m).heap = c.heap := by unfold Cell.enqueue; cases m.op <;> cases m.hi <;> rfl
@[simp] theorem Cell.enqueue_ctxs : (c.enqueue m).ctxs = c.ctxs := by unfold Cell.enqueue; cases m.op <;> cases m.hi <;> rfl
@[simp] theorem Cell.enqueue_cx (x : Nat) : (c.enqueue m).cx x = c.cx x := by rw [Cell.cx, Cell.enqueue_ctxs]; rfl

end

/-- A cell in which a command has been counted: its status slot emptied, its tiles' counts and its context's raised. -/
def Cell.counted (c : Cell) (x : Nat) (m : Cmd) : Cell :=
  ((c.setSlot m.statusSlot none).flyAll m.named).modCx x fun k => { k with outstanding := k.outstanding + 1 }

/-- Such a cell differs in its slots, tiles and contexts. -/
theorem Cell.counted_eq (c : Cell) (x : Nat) (m : Cmd) : c.counted x m = { c with
    slots := c.slots.del m.statusSlot
    ftoks := c.ftoks.filter (· != m.statusSlot)
    heap := ((c.setSlot m.statusSlot none).flyAll m.named).heap
    ctxs := c.ctxs.put x { c.cx x with outstanding := (c.cx x).outstanding + 1 } } := by
  unfold Cell.counted
  rw [Cell.flyAll_heap]
  rfl

theorem Cell.counted_cx (c : Cell) (x : Nat) (m : Cmd) :
    (c.counted x m).cx x = { c.cx x with outstanding := (c.cx x).outstanding + 1 } := by
  rw [Cell.counted, Cell.cx_modCx, Cell.flyAll_heap]
  rfl

/-- A command as it stands in its queue. -/
def State.queued (s : State) (m : Cmd) : Cmd :=
  { m with uid := s.serial, who := s.issuer, rmode := s.fcx.ctl.rmode, seed := s.fcx.ctl.seed, prio := s.fcx.ctl.prio }

/-- The state in which a command has been counted and numbered. -/
def State.counted (s : State) (m : Cmd) : State :=
  { s.modCell s.cur fun c => c.counted s.fir.ctx m with serial := s.serial + 1 }

/-- A command placed where its queue has room enters it (R231, R232). -/
theorem State.place_eq_enqueue {s : State} {m : Cmd} (hd : s.fir.dead = false) (ha : s.acqFailed = false)
    (hroom : ((s.cell s.cur).queueOf m.op m.hi).1.length < ((s.cell s.cur).queueOf m.op m.hi).2) :
    s.place m = ((s.counted m).modCell s.cur fun c => c.enqueue (s.queued m)).step1 := by
  have hfir : (s.setSlot s.cur m.statusSlot none).fir = s.fir := s.emptied_fir (some m.statusSlot)
  have hacq : (s.setSlot s.cur m.statusSlot none).acqFailed = false := by rw [State.acqFailed, hfir]; exact ha
  have hq : s.queued m = { m with
      uid := s.serial, who := (s.setSlot s.cur m.statusSlot none).issuer, rmode := (s.setSlot s.cur m.statusSlot none).fcx.ctl.rmode
      seed := (s.setSlot s.cur m.statusSlot none).fcx.ctl.seed, prio := (s.setSlot s.cur m.statusSlot none).fcx.ctl.prio } := by
    have h1 := s.emptied_issuer (some m.statusSlot)
    have h2 := s.emptied_fcx (some m.statusSlot)
    simp only [State.emptied] at h1 h2
    rw [h1, h2]
    rfl
  have hcount : (({ s.setSlot s.cur m.statusSlot none with serial := s.serial + 1 } : State).modCell s.cur fun c =>
      c.flyAll m.named).raiseOut s.cur (s.setSlot s.cur m.statusSlot none).fir.ctx 1 = s.counted m := by
    rw [hfir, State.raiseOut, State.modCx, State.modCell_modCell, State.setSlot_eq]
    exact congrArg (fun u : State => { u with serial := s.serial + 1 }) 
      (s.modCell_modCell s.cur (fun c => c.setSlot m.statusSlot none) fun c =>
        (c.flyAll m.named).modCx s.fir.ctx fun k => { k with outstanding := k.outstanding + 1 })
  have hroom' : ¬ (((s.counted m).cell s.cur).queueOf m.op m.hi).2 ≤ (((s.counted m).cell s.cur).queueOf m.op m.hi).1.length := by
    have h : (s.counted m).cell s.cur = (s.cell s.cur).counted s.fir.ctx m :=
      s.cell_modCell s.cur fun c => c.counted s.fir.ctx m
    rw [h, Cell.counted_eq]
    exact Nat.not_le_of_lt hroom
  rw [State.place, if_neg (by simp [hfir, hd]), hacq, Bool.false_and, if_neg (by simp)]
  rw [hq, ← hcount]
  rw [← hcount] at hroom'
  exact if_neg hroom'

theorem State.place_eq {s : State} {m : Cmd} (hp : s.plain) (hd : s.fir.dead = false) (ha : s.acqFailed = false)
    (hroom : ((s.cell s.cur).queueOf m.op m.hi).1.length < ((s.cell s.cur).queueOf m.op m.hi).2) :
    { s.place m with cells := s.cells, serial := s.serial } = s ∧ (s.place m).serial = s.serial + 1 ∧
      (s.place m).cells = (s.modCell s.cur fun c =>
        { (c.counted s.fir.ctx m).enqueue (s.queued m) with lane := s.laneAfter s.lane.regs }).cells := by
  have hcells : ((s.counted m).modCell s.cur fun c => c.enqueue (s.queued m)).cells =
      (s.modCell s.cur fun c => (c.counted s.fir.ctx m).enqueue (s.queued m)).cells := 
    (congrArg State.cells (s.modCell_modCell s.cur (fun c => c.counted s.fir.ctx m) fun c => c.enqueue (s.queued m)) :)
  obtain ⟨hrest, hcells'⟩ := step1_of_cells _ hcells rfl (r := s.lane.regs)
    (by rw [Cell.enqueue_lane, Cell.counted_eq]; rfl) (by rw [Cell.enqueue_cx, Cell.counted_cx]; rfl) hp
  rw [State.place_eq_enqueue hd ha hroom]
  exact ⟨(congrArg (fun u : State => { u with cells := s.cells, serial := s.serial }) hrest :), (congrArg State.serial hrest :), hcells'⟩

/-- What a command placed leaves (R39, R57, R201, R231). -/
structure Placed (s : State) (m : Cmd) (t : State) : Prop where
  lane : t.lane = s.laneAfter s.lane.regs
  serial : t.serial = s.serial + 1
  queue : ((t.cell s.cur).queueOf m.op m.hi).1 = ((s.cell s.cur).queueOf m.op m.hi).1 ++ [s.queued m]
  vec : m.op = .vrun → (t.cell s.cur).vec = { (s.cell s.cur).vec with queue := (s.cell s.cur).vec.queue ++ [s.queued m] }
  slots : (t.cell s.cur).slots = (s.cell s.cur).slots.del m.statusSlot
  named : ∀ j, j ∈ m.named.map (·.1) → ((t.cell s.cur).tile j).inflight = ((s.cell s.cur).tile j).inflight + 1
  unnamed : ∀ j, j ∉ m.named.map (·.1) → (t.cell s.cur).tile j = (s.cell s.cur).tile j
  outstanding : (t.cx s.cur s.fir.ctx).outstanding = s.fcx.outstanding + 1
  mem : t.mem = s.mem
  net : t.net = s.net
  ops : t.ops = s.ops
  others : ∀ d, d ≠ s.cur → t.cell d = s.cell d

theorem placed_place {s : State} {m : Cmd} (hp : s.plain) (hd : s.fir.dead = false) (ha : s.acqFailed = false)
    (hroom : ((s.cell s.cur).queueOf m.op m.hi).1.length < ((s.cell s.cur).queueOf m.op m.hi).2) : Placed s m (s.place m) := by
  obtain ⟨hrest, hserial, hcells⟩ := State.place_eq hp hd ha hroom
  have hcur : (s.place m).cur = s.cur := (congrArg State.cur hrest :)
  have htile : ∀ j, ((s.place m).cell s.cur).tile j = (((s.cell s.cur).setSlot m.statusSlot none).flyAll m.named).tile j := fun j => by
    rw [State.cell_of_cells hcells]
    exact congrArg (fun h : Heap => h.tiles.getD j {}) ((Cell.enqueue_heap _ _).trans (by rw [Cell.counted_eq]))
  have hqueue : ((s.cell s.cur).counted s.fir.ctx m).queueOf m.op m.hi = (s.cell s.cur).queueOf m.op m.hi := by
    rw [Cell.counted_eq]; rfl
  refine ⟨?_, hserial, ?_, fun hv => ?_, ?_, fun j hj => ?_, fun j hj => ?_, ?_, (congrArg State.mem hrest :), (congrArg State.net hrest :),
    (congrArg State.ops hrest :), fun d => State.cell_of_cells_other hcells⟩
  · rw [State.lane, hcur, State.cell_of_cells hcells]
  · rw [State.cell_of_cells hcells, ← hqueue]
    exact Cell.queueOf_enqueue _ (s.queued m)
  · rw [State.cell_of_cells hcells]
    have hop : (s.queued m).op = .vrun := hv
    unfold Cell.enqueue
    rw [hop, Cell.counted_eq]
  · rw [State.cell_of_cells hcells]
    exact (Cell.enqueue_slots _ _).trans (by rw [Cell.counted_eq])
  · rw [htile]; exact Cell.flyAll_tile _ _ hj
  · rw [htile]; exact Cell.flyAll_tile_other _ _ hj
  · rw [State.cx_of_cells hcells]
    exact congrArg Ctx.outstanding ((Cell.enqueue_cx _ _ _).trans (Cell.counted_cx ..))

/-! ## The statements -/

/-- Every engine command runs by the terms of its row. -/
theorem exec_engine {s : State} {i : Instr} {op : EngOp} {a c g : BitVec 4} {hi keep : Bool} {n : Nat} {roles : List (Nat × Role)}
    (h : Ref.engine i = some (op, a, c, g, hi, keep, n, roles)) : exec i s = .next (s.engine g op a c hi keep n roles) := by
  cases i with
  | tload | tstore | tcopy | tgath | tscat | tfill | mwld | macc | mrun | mdrain | rset | rfeed =>
    simp only [Ref.engine, Option.some.injEq, Prod.mk.injEq] at h
    obtain ⟨rfl, rfl, rfl, rfl, rfl, rfl, rfl, rfl⟩ := h
    rfl
  | _ => exact absurd h (by simp [Ref.engine])

theorem State.destSlot_of_inFrame {s : State} {rel : Nat} (h : s.inFrame rel) (hv : isDeferred (s.slot s.cur (s.fir.base + rel)) = false) :
    s.destSlot rel = .ok (s.fir.base + rel) := by
  unfold State.destSlot
  rw [State.absSlot_of_inFrame h]
  exact if_neg (by simp [hv])

theorem engine_slots_le {i : Instr} {op : EngOp} {a c g : BitVec 4} {hi keep : Bool} {n : Nat} {roles : List (Nat × Role)}
    (h : Ref.engine i = some (op, a, c, g, hi, keep, n, roles)) : n ≤ 5 := by
  cases i with
  | tload | tstore | tcopy | tgath | tscat | tfill | mwld | macc | mrun | mdrain | rset | rfeed =>
    simp only [Ref.engine, Option.some.injEq, Prod.mk.injEq] at h
    omega
  | _ => exact absurd h (by simp [Ref.engine])

/-- The command of an engine instruction (R232). -/
def engineCmd (op : EngOp) (hi keep : Bool) (roles : List (Nat × Role)) (w : List Word) (r : Option Word) (k : Nat)
    (ns : List (Nat × BitVec 8 × Bool)) : Cmd :=
  { op := op, keep := keep, hi := hi, recw := w, statusSlot := k, cont := r, named := ns
    writes := (roles.zip (roles.map fun q => w.getD q.1 0)).filterMap fun e =>
      if e.1.2 = .dest && e.2 ≠ 0 then some (indexOf e.2) else none }

/-- Settles O32: each command passes its checks and is placed. -/
theorem engineCommandsIssue : Obligations.EngineCommandsIssue := by
  unfold Obligations.EngineCommandsIssue
  intro s i op a c g hi keep n roles w r ns heng hg hp hdead hacq hlen hrec hr k cell hv hns hroom
  have hw : s.record (s.x a) (List.replicate n true) = .ok w := hlen ▸ State.record_used hrec (by have := engine_slots_le heng; omega)
  have hst : s.destSlot ((s.x a).toNat + 7) = .ok k := State.destSlot_of_inFrame hrec.1 hv
  have hexec : exec i s = .next (s.place (engineCmd op hi keep roles w r k ns)) := by
    rw [exec_engine heng, State.engine, guarded_on s g _ hg, State.issueCmd, hw, State.withOpd_ok, State.reply_of_replyIs hr,
      State.withOpd_ok, hst, State.withOpd_ok, hns, State.withOpd_ok, engineCmd]
  have h := placed_place (s := s) (m := engineCmd op hi keep roles w r k ns) hp hdead hacq hroom
  exact ⟨_, _, hexec, h.lane, h.serial, h.queue, rfl, rfl, rfl, rfl, rfl, rfl, rfl, rfl, rfl, rfl, rfl, rfl, h.slots, h.named, h.unnamed,
    h.outstanding, h.mem, h.net, h.ops, h.others⟩

/-- The command of a VRUN (R259, R260). -/
def State.launch (s : State) (a : BitVec 4) (w params : List Word) (shapes : List (Option (List Word))) (r : Option Word) (k : Nat)
    (ns : List (Nat × BitVec 8 × Bool)) : Cmd :=
  { op := .vrun, recw := w, statusSlot := k, cont := r, named := ns, writes := outTiles shapes, kernel := (s.x a).toNat, shapes := shapes
    params := params, shapeSlots := (w.take 6).map fun b => s.fir.base + bits b 0 12 }

/-- Settles O33: the kernel's header, record, shapes and parameters pass their checks and the command is placed. -/
theorem kernelLaunchIssues : Obligations.KernelLaunchIssues := by
  unfold Obligations.KernelLaunchIssues
  intro s a b c g w params shapes r ns hg hp hdead hacq ha hlen hrec hr hshapes hparams k cell hv hns hroom
  have hw : s.record (s.x b) (List.replicate 7 true) = .ok w := hlen ▸ State.record_used hrec (by omega)
  have hst : s.destSlot ((s.x b).toNat + 7) = .ok k := State.destSlot_of_inFrame hrec.1 hv
  have h := placed_place (s := s) (m := s.launch a w params shapes r k ns) hp hdead hacq hroom
  have hexec : exec (.vrun a b c g) s = .next (s.place (s.launch a w params shapes r k ns)) := by
    change execVrun a b c g s = _
    simp only [execVrun, guarded_on s g _ hg]
    rw [if_neg (by omega), hw, State.withOpd_ok, hshapes, State.withOpd_ok, hparams, State.withOpd_ok, State.reply_of_replyIs hr,
      State.withOpd_ok, hst, State.withOpd_ok, hns, State.withOpd_ok]
    rfl
  exact ⟨_, _, hexec, h.lane, h.vec rfl, rfl, rfl, rfl, rfl, rfl, rfl, rfl, rfl, rfl, rfl, rfl, rfl, rfl, h.slots, h.outstanding, h.mem,
    h.net, h.others⟩

end Sys2Proof.Machine
end

section
/-! PROOFS. A step makes the move of its mover (O40). -/

namespace Sys2Proof.Machine

/-- What a word of the lane runs as, by its opcode and its decoding (R140). -/
theorem laneInstr_eq (w : IWord) :
    laneInstr w = if w.toNat / 2 ^ 24 < 0xC0 then (decode w).getD (.illegalOp w) else .illegalOp w := by
  unfold laneInstr
  by_cases h : 0xC0 ≤ w.toNat / 2 ^ 24
  · rw [if_pos h, if_neg (by omega)]
  · rw [if_neg h, if_pos (by omega)]
    cases decode w <;> rfl

theorem laneInstr_of_decode {w : IWord} {i : Instr} (h : w.toNat / 2 ^ 24 < 0xC0) (hd : decode w = some i) : laneInstr w = i := by
  rw [laneInstr_eq, if_pos h, hd]; rfl

theorem laneInstr_of_none {w : IWord} (h : 0xC0 ≤ w.toNat / 2 ^ 24 ∨ decode w = none) : laneInstr w = .illegalOp w := by
  rw [laneInstr_eq]
  rcases h with h | h
  · rw [if_neg (by omega)]
  · rw [h]; exact ite_self _

/-- With power the head of the agenda moves in the state in which time has passed. -/
theorem step_cons {s : State} {m : Move} {rest : List Move} (hpow : s.power = true) (h : s.agenda = m :: rest) :
    step s = ((({ s with agenda := rest }).tick m.dt).settleFlrs.settleMgmt).move m.who := by
  unfold step
  rw [h]
  change (if s.power || m.who == .event .powerUp then (s.advance m).move m.who else .fault .noPower) = _
  rw [if_pos (by simp [hpow]), State.advance, h]
  rfl

theorem step_nil {s : State} (h : s.agenda = []) : step s = .next (s.tick 2).settleFlrs.settleMgmt := by
  unfold step
  rw [h]

/-- The word at which the lane of a cell stands. -/
def State.laneWord (u : State) (c : Nat) : IWord := (u.cx c (u.cell c).lane.fir.ctx).image.getD (u.cell c).lane.fir.ia 0

theorem State.laneNext_runs {u : State} {c : Nat} (hb : (u.cell c).lane.busy = true) (hs : (u.cell c).lane.stall = none)
    (hr : u.runs c = true) (hl : ¬ u.behind c (laneInstr (u.laneWord c)) = true) : u.laneNext c = some (laneInstr (u.laneWord c)) :=
  if_pos (by
    change ((u.cell c).lane.busy && (u.cell c).lane.stall.isNone && u.runs c && !u.behind c (laneInstr (u.laneWord c))) = true
    simp [hb, hs, hr, Bool.eq_false_iff.mpr hl])

theorem State.laneNext_rests {u : State} {c : Nat} (h : (u.cell c).lane.busy = false ∨ (u.cell c).lane.stall ≠ none ∨
    u.runs c = false ∨ u.behind c (laneInstr (u.laneWord c)) = true) : u.laneNext c = none :=
  if_neg (by
    change ¬ ((u.cell c).lane.busy && (u.cell c).lane.stall.isNone && u.runs c && !u.behind c (laneInstr (u.laneWord c))) = true
    rcases h with h | h | h | h
    · simp [h]
    · simp [h]
    · simp [h]
    · simp [h])

theorem State.vecNext_runs {u : State} {c : Nat} {w : IWord} (hr : (u.cell c).vec.run ≠ none) (hw : (u.cell c).vec.waiting = false)
    (he : (u.cell c).vec.ended = false) (hc : u.runs c = true) (hb : (u.cell c).vec.buf[(u.cell c).vec.pc]? = some w)
    (hop : 0xC0 ≤ w.toNat / 2 ^ 24) : u.vecNext c = decode w := by
  unfold State.vecNext
  rw [if_pos (by simp [Option.isSome_iff_ne_none.mpr hr, hw, he, hc]), hb]
  exact if_pos hop

theorem State.vecNext_rests {u : State} {c : Nat} (h : (u.cell c).vec.run = none ∨ (u.cell c).vec.waiting = true ∨
    (u.cell c).vec.ended = true ∨ u.runs c = false ∨ (u.cell c).vec.buf[(u.cell c).vec.pc]? = none) : u.vecNext c = none := by
  unfold State.vecNext
  rcases h with h | h | h | h | h
  · rw [if_neg (by simp [h])]
  · rw [if_neg (by simp [h])]
  · rw [if_neg (by simp [h])]
  · rw [if_neg (by simp [h])]
  · dsimp only
    rw [h]; exact ite_self _

section
variable {u : State} {c : Nat}

theorem State.move_lane_runs {i : Instr} (held : Bool) (h : u.laneNext c = some i) :
    u.move (.lane c held) = exec i { u with cur := c, held := held } := by
  simp only [State.move, h]

theorem State.move_lane_rests (held : Bool) (h : u.laneNext c = none) : u.move (.lane c held) = .next u := by
  simp only [State.move, h]

theorem State.move_vector_runs {i : Instr} (h : u.vecNext c = some i) :
    u.move (.vector c) = exec i { u with cur := c, held := false } := by
  simp only [State.move, h]

theorem State.move_vector_rests (h : u.vecNext c = none) : u.move (.vector c) = .next u := by
  simp only [State.move, h]

theorem State.move_word {i : Instr} (h : i.isWord = true) : u.move (.event i) = .next u := if_pos h

theorem State.move_event {i : Instr} (h : i.isWord = false) (hn : u.hostIn i = none) : u.move (.event i) = exec i u := by
  simp only [State.move, h, hn]
  exact if_neg (by decide)

theorem State.move_hostIn {i : Instr} {t : State} (h : i.isWord = false) (hn : u.hostIn i = some t) : u.move (.event i) = .next t := by
  simp only [State.move, h, hn]
  exact if_neg (by decide)

theorem State.move_retry_none {k : Nat} {t : State} (h : u.hostOut k = (none, t)) : u.move (.outside (.hostRetry k)) = .next t := by
  simp only [State.move, h]

theorem State.move_retry_some {k : Nat} {i : Instr} {t : State} (h : u.hostOut k = (some i, t)) :
    u.move (.outside (.hostRetry k)) = exec i t := by
  simp only [State.move, h]

theorem State.move_outside {o : Outside} (h : ∀ k, o ≠ .hostRetry k) : u.move (.outside o) = .next (u.outside o) := by
  cases o with
  | hostRetry k => exact absurd rfl (h k)
  | _ => rfl

end

/-- Settles O40: the move of each mover, once time has passed. -/
theorem stepRunsDecodedInstruction : Obligations.StepRunsDecodedInstruction := by
  unfold Obligations.StepRunsDecodedInstruction
  intro s m rest hpow u
  refine ⟨fun hag => ?_, step_nil⟩
  have hstep : ∀ who, m.who = who → step s = u.move who := fun who h => h ▸ step_cons hpow hag
  refine ⟨?_, ?_, fun i hm => ⟨fun hw => ?_, fun hw => ⟨fun hn => ?_, fun t hn => ?_⟩⟩, fun n hm => hstep _ hm, fun k hm => ⟨?_, ?_⟩,
    fun op k hm => hstep _ hm, fun c hm => hstep _ hm, fun o ho hm => (hstep _ hm).trans (State.move_outside ho)⟩
  · intro c h hm l w late
    have hlate : late ↔ u.behind c (laneInstr w) = true := by rw [laneInstr_eq]
    refine ⟨fun hb hs hr hl => ?_, fun hrest => ?_⟩
    · have hrun := (hstep _ hm).trans (State.move_lane_runs h (State.laneNext_runs hb hs hr (mt hlate.mpr hl)))
      exact ⟨fun i hop hd => hrun.trans (by rw [State.laneWord, laneInstr_of_decode hop hd]),
        fun hbad => hrun.trans (by rw [State.laneWord, laneInstr_of_none hbad])⟩
    · rw [hlate] at hrest
      exact (hstep _ hm).trans (State.move_lane_rests h (State.laneNext_rests hrest))
  · intro c hm v
    exact ⟨fun w i hr hw he hc hb hop hd =>
      (hstep _ hm).trans (State.move_vector_runs ((State.vecNext_runs hr hw he hc hb hop).trans hd)),
      fun hrest => (hstep _ hm).trans (State.move_vector_rests (State.vecNext_rests hrest))⟩
  · exact (hstep _ hm).trans (State.move_word hw)
  · exact (hstep _ hm).trans (State.move_event hw hn)
  · exact (hstep _ hm).trans (State.move_hostIn hw hn)
  · intro t ht
    exact (hstep _ hm).trans (State.move_retry_none ht)
  · intro i t ht
    exact (hstep _ hm).trans (State.move_retry_some ht)

end Sys2Proof.Machine
end

section
/-! PROOFS. Tokens arrive and spill, the matcher takes them, images come into the codelet store, and firings start, resume and rise a
class (R24 to R54): the statement O51. -/

namespace Sys2Proof.Machine

/-! ## Tokens arrive and spill (R26 to R28) -/

section
variable {s : State} {src c x : Nat} {p : Packet} {tk : Token} (hp : s.packet? 0 src c x = some p) (hb : p.body = .token tk)
  (hi : (s.cx c x).inst ≠ none) (hv : (s.cx c x).voids tk = false)

include hp hb hi hv

theorem execTokenArrival_accepts {e : Cell} (h : (s.cell c).accept x { tk with src := src } = some e) :
    exec (.tokenArrival src c x) s = .next (((s.takePacket 0 src c x).modCell c fun _ => e).accepted p) := by
  have hi' : (s.cx c x).inst.isNone = false := Option.isNone_eq_false_iff.mpr (Option.isSome_iff_ne_none.mpr hi)
  change execTokenArrival src c x s = _
  simp only [execTokenArrival, hp, hb, hi', hv, h, Bool.or_self, Bool.false_eq_true, if_false]

theorem execTokenArrival_waits (h : (s.cell c).accept x { tk with src := src } = none) :
    exec (.tokenArrival src c x) s = .next s := by
  have hi' : (s.cx c x).inst.isNone = false := Option.isNone_eq_false_iff.mpr (Option.isSome_iff_ne_none.mpr hi)
  change execTokenArrival src c x s = _
  simp only [execTokenArrival, hp, hb, hi', hv, h, Bool.or_self, Bool.false_eq_true, if_false]

end

/-- The input queue is full, or earlier tokens of the context are spilled (R27). -/
def Cell.crowded (d : Cell) (x : Nat) : Prop := 512 ≤ d.inq.length ∨ (d.cx x).spill ≠ []

theorem Cell.accept_queue {d : Cell} {x : Nat} (t : Token) (h : ¬ d.crowded x) : d.accept x t = some { d with inq := d.inq ++ [t] } := by
  simp only [Cell.crowded, not_or, not_le, not_not] at h
  simp [Cell.accept, Config.inputQueue, h.1, h.2]

theorem Cell.roomless_of_crowded {d : Cell} {x : Nat} (h : d.crowded x) :
    (decide (d.inq.length < Config.inputQueue) && (d.cx x).spill.isEmpty) = false := by
  rcases h with h | h
  · simp [Config.inputQueue, Nat.not_lt.mpr h]
  · simp [h]

theorem Cell.accept_spill {d : Cell} {x : Nat} (t : Token) (h : d.crowded x) (hroom : (d.cx x).spill.length < (d.cx x).spillCap) :
    d.accept x t = some (d.modCx x fun k => { k with spill := k.spill ++ [t], perf := k.perf.put 3 (k.perf.getD 3 0 + 1) }) := by
  simp only [Cell.accept, Cell.roomless_of_crowded h, Bool.false_eq_true, if_false, hroom, if_true]

theorem Cell.accept_none {d : Cell} {x : Nat} (t : Token) (h : d.crowded x) (hfull : (d.cx x).spillCap ≤ (d.cx x).spill.length) :
    d.accept x t = none := by
  simp only [Cell.accept, Cell.roomless_of_crowded h, Bool.false_eq_true, if_false, Nat.not_lt.mpr hfull]

/-- A spilled token returns to the input queue once there is room (R27). -/
theorem execSpillReturn_room {s : State} {c x : Nat} {tk : Token} {rest : List Token} (hs : (s.cx c x).spill = tk :: rest)
    (hroom : (s.cell c).inq.length < 512) :
    exec (.spillReturn c x) s =
      .next (s.modCell c fun d => { d.modCx x fun k => { k with spill := rest } with inq := d.inq ++ [tk] }) := by
  change execSpillReturn c x s = _
  simp only [execSpillReturn, hs, Config.inputQueue, hroom, if_true]

/-! ## The codelet store (R11, R29, R54) -/

/-- A cell after room was made in its codelet store for an image of context `x`: images of other contexts without a live frame have left it,
but not that of the firing on the lane (log 93). -/
structure Evicted (d : Cell) (x : Nat) (e : Cell) : Prop where
  rest : { e with ctxs := d.ctxs } = d
  same : e.cx x = d.cx x
  others : ∀ y, y ≠ x → e.cx y = d.cx y ∨
    (e.cx y = { d.cx y with resident := false } ∧ (d.cx y).frames.isEmpty = true ∧ ¬ (d.lane.busy = true ∧ d.lane.fir.ctx = y))

theorem Evicted.refl (d : Cell) (x : Nat) : Evicted d x d := ⟨rfl, rfl, fun _ _ => .inl rfl⟩

/-- One image leaves, and then others do. -/
theorem Evicted.of_modCx {d e : Cell} {x y : Nat} (hy : y ≠ x) (hf : (d.cx y).frames.isEmpty = true)
    (hl : ¬ (d.lane.busy = true ∧ d.lane.fir.ctx = y)) (h : Evicted (d.modCx y fun k => { k with resident := false }) x e) : Evicted d x e where
  rest := congrArg (fun b : Cell => { b with ctxs := d.ctxs }) h.rest
  same := h.same.trans (Cell.cx_modCx_other d y x _ (Ne.symm hy))
  others z hz := by
    have ho := h.others z hz
    by_cases hzy : z = y
    · subst hzy
      rw [Cell.cx_modCx] at ho
      exact .inr ⟨ho.elim id And.left, hf, hl⟩
    · rwa [Cell.cx_modCx_other d y z _ hzy] at ho

theorem Cell.evict_room {d : Cell} {x n : Nat} (ys : List Nat) (h : 4 * (d.storeWords x + n) ≤ 65536) : d.evict x n ys = some d := by
  cases ys <;> exact if_pos h

theorem Cell.evicted_of_evict {x n : Nat} {e : Cell} (ys : List Nat) :
    ∀ {d : Cell}, d.evict x n ys = some e → Evicted d x e := by
  induction ys with
  | nil =>
    intro d h
    rw [Cell.evict, Option.ite_none_right_eq_some] at h
    exact Option.some.inj h.2 ▸ Evicted.refl d x
  | cons y ys ih =>
    intro d h
    rw [Cell.evict] at h
    split at h
    · exact Option.some.inj h ▸ Evicted.refl d x
    · split at h
      · exact ih h
      · next hn =>
        simp only [Bool.or_eq_true, not_or, decide_eq_true_eq, Bool.not_eq_true', Bool.and_eq_true, beq_iff_eq,
          Bool.not_eq_false] at hn
        exact Evicted.of_modCx hn.1.1.1 hn.1.2 hn.2 (ih h)

section
variable {s : State} {c x : Nat}

theorem execImageFetchDone_frames (hr : (s.cx c x).resident = false) (hf : (s.cx c x).frames.isEmpty = false) :
    exec (.imageFetchDone c x) s = .next s := by
  change execImageFetchDone c x s = _
  simp only [execImageFetchDone, hr, hf, Bool.not_false, Bool.false_eq_true, if_false, if_true]

theorem execImageFetchDone_room {e : Cell} (hr : (s.cx c x).resident = false) (hf : (s.cx c x).frames.isEmpty = true)
    (he : (s.cell c).evict x (s.fetched c x).length (List.range 8) = some e) :
    exec (.imageFetchDone c x) s =
      .next ((s.modCell c fun _ => e.modCx x fun k => { k with resident := true, image := s.fetched c x }).serveLevels c x) := by
  change execImageFetchDone c x s = _
  simp only [execImageFetchDone, hr, hf, he, Bool.not_true, Bool.false_eq_true, if_false]

theorem execImageFetchDone_full (hr : (s.cx c x).resident = false) (hf : (s.cx c x).frames.isEmpty = true)
    (he : (s.cell c).evict x (s.fetched c x).length (List.range 8) = none) : exec (.imageFetchDone c x) s = .next s := by
  change execImageFetchDone c x s = _
  simp only [execImageFetchDone, hr, hf, he, Bool.not_true, Bool.false_eq_true, if_false]

theorem execImageFetchDone_ahead {e : Cell} {code : List IWord} (hr : (s.cx c x).resident = true)
    (ha : (s.cx c x).ahead = some (code, false))
    (he : (s.cell c).evict x ((s.cx c x).image.length + code.length) (List.range 8) = some e) :
    exec (.imageFetchDone c x) s = .next (s.modCell c fun _ => e.modCx x fun k => { k with ahead := some (code, true) }) := by
  change execImageFetchDone c x s = _
  simp only [execImageFetchDone, hr, ha, he, if_true]

end

/-! ## The matcher (R24, R33, R39, R41) -/

/-- What the matcher makes of a token that it takes. -/
def State.matched (s : State) (c : Nat) (t : Token) : Match → State
  | .drop => (s.dequeue c t).voidTok c t
  | .bad e none => (s.dequeue c t).discardTok c t e
  | .bad e (some k) => ((s.dequeue c t).touch c k).discardTok c t e
  | .park k =>
    let u := ((s.dequeue c t).setSlot c k (some (.full t.val))).touch c k
    if t.faulty then u.modCell c fun d => { d with ftoks := d.ftoks ++ [k] } else u
  | .fire f none => if 256 ≤ (s.cell c).newReady then s else (s.dequeue c t).pushReady c f.prio (.fresh f)
  | .fire f (some k) =>
    if 256 ≤ (s.cell c).newReady then s
    else (((s.dequeue c t).setSlot c k none).touch c k).pushReady c f.prio (.fresh f)

theorem execMatcherTake_of {s : State} {c : Nat} {tk : Token} (hd : s.delivers c = true)
    (hf : (s.cell c).inq.find? (s.open? c) = some tk) : exec (.matcherTake c) s = .next (s.matched c tk (s.matchTok c tk)) := by
  change execMatcherTake c s = _
  simp only [execMatcherTake, hd, hf, if_true]
  refine congrArg Host.Outcome.next ?_
  rcases s.matchTok c tk with _ | ⟨e, _ | k⟩ | k | ⟨f, _ | k⟩ <;> rfl

section
variable {s : State} {c : Nat} {tk : Token} (hv : (s.cx c (ctxOf tk.cont)).voids tk = false)

include hv

theorem State.matchTok_badHeader (hh : headerOk (s.cx c (ctxOf tk.cont)).image (iaOf tk.cont) = false) :
    s.matchTok c tk = .bad .badHeader none := by
  simp only [State.matchTok, hv, hh, Bool.false_eq_true, if_false, Bool.not_false, if_true]

variable (hh : headerOk (s.cx c (ctxOf tk.cont)).image (iaOf tk.cont) = true)

include hh

theorem State.matchTok_frameFree (hf : (s.cx c (ctxOf tk.cont)).frames.get? (baseOf tk.cont) = none) :
    s.matchTok c tk = .bad .frameFree none := by
  simp only [State.matchTok, hv, hh, hf, Bool.false_eq_true, if_false, Bool.not_true]

variable {fr : Frame} (hf : (s.cx c (ctxOf tk.cont)).frames.get? (baseOf tk.cont) = some fr)

include hf

/-- A monadic codelet fires at once. -/
theorem State.matchTok_monadic (hk : (headerOf (imageWord (s.cx c (ctxOf tk.cont)).image (iaOf tk.cont))).kind = 0) :
    s.matchTok c tk = .fire { ctx := ctxOf tk.cont, base := baseOf tk.cont, hdr := iaOf tk.cont, tag := tk.tag, prio := prioOf tk.cont,
                              faulty := tk.faulty, x1 := tk.val } none := by
  simp only [State.matchTok, hv, hh, hf, hk, Bool.false_eq_true, if_false, Bool.not_true, if_true]

variable (hk : (headerOf (imageWord (s.cx c (ctxOf tk.cont)).image (iaOf tk.cont))).kind = 1)

include hk

theorem State.matchTok_frameBound (hb : clsSlots fr.cls ≤ (headerOf (imageWord (s.cx c (ctxOf tk.cont)).image (iaOf tk.cont))).slot) :
    s.matchTok c tk = .bad .frameBound none := by
  simp only [State.matchTok, hv, hh, hf, hk, hb, Bool.false_eq_true, if_false, Bool.not_true, if_true, one_ne_zero]

variable (hb : (headerOf (imageWord (s.cx c (ctxOf tk.cont)).image (iaOf tk.cont))).slot < clsSlots fr.cls) {k : Nat}
  (hslot : k = baseOf tk.cont + (headerOf (imageWord (s.cx c (ctxOf tk.cont)).image (iaOf tk.cont))).slot)

include hb hslot

theorem State.matchTok_empty (he : (s.cell c).slots.get? k = none) : s.matchTok c tk = .park k := by
  have he' : s.slot c k = none := he
  simp only [State.matchTok, hv, hh, hf, hk, ← hslot, he', Nat.not_le.mpr hb, Bool.false_eq_true, if_false, Bool.not_true, one_ne_zero]

theorem State.matchTok_deferred {r ia p g : Nat} (he : (s.cell c).slots.get? k = some (.deferred r ia p g)) :
    s.matchTok c tk = .bad .slotConflict (some k) := by
  have he' : s.slot c k = some (.deferred r ia p g) := he
  simp only [State.matchTok, hv, hh, hf, hk, ← hslot, he', Nat.not_le.mpr hb, Bool.false_eq_true, if_false, Bool.not_true, one_ne_zero]

/-- A dyadic codelet fires with the value that was parked, in port order. -/
theorem State.matchTok_full {v : Word} (he : (s.cell c).slots.get? k = some (.full v)) :
    s.matchTok c tk = .fire
      (let g : Fire := { ctx := ctxOf tk.cont, base := baseOf tk.cont, hdr := iaOf tk.cont, tag := tk.tag, prio := prioOf tk.cont,
                         faulty := tk.faulty || (s.cell c).ftoks.contains k }
       if portOf tk.cont = 0 then { g with x1 := tk.val, x2 := v } else { g with x1 := v, x2 := tk.val }) (some k) := by
  have he' : s.slot c k = some (.full v) := he
  simp only [State.matchTok, hv, hh, hf, hk, ← hslot, he', Nat.not_le.mpr hb, Bool.false_eq_true, if_false, Bool.not_true, one_ne_zero]
  split <;> rfl

end

/-! ## Firings start, resume and rise a class (R40, R42, R53) -/

theorem fireRegs_get (f : Fire) (n : BitVec 4) :
    (fireRegs f).get n = if n = 1 then f.x1 else if n = 2 then f.x2 else if n = 3 then f.tag else 0 := by
  have h0 : ∀ n, ({} : Regs).get n = 0 := by decide
  unfold fireRegs
  by_cases h3 : n = 3
  · subst h3; exact Regs.get_set _ _ _ (by decide)
  rw [Regs.get_set_other _ _ _ _ h3, if_neg h3]
  by_cases h2 : n = 2
  · subst h2; exact Regs.get_set _ _ _ (by decide)
  rw [Regs.get_set_other _ _ _ _ h2, if_neg h2]
  by_cases h1 : n = 1
  · subst h1; exact Regs.get_set _ _ _ (by decide)
  rw [Regs.get_set_other _ _ _ _ h1, if_neg h1, h0]

theorem fireRegs_pred (f : Fire) (n : BitVec 3) : (fireRegs f).pred n = decide (n = 0) := by
  have h0 : ∀ n, ({} : Regs).pred n = decide (n = 0) := by decide
  rw [fireRegs, Regs.pred_set, Regs.pred_set, Regs.pred_set, h0]

/-- A firing counted and retained: the lane, the ready queue and the records of its cell stand. -/
theorem State.fired_cells (s : State) (c x : Nat) : (s.fired c x).cells = (s.count c x 1).cells := by
  rw [State.fired]
  cases (s.count c x 1).instAt c x <;> rfl

theorem State.fired_serial (s : State) (c x : Nat) : (s.fired c x).serial = s.serial := by
  rw [State.fired]
  cases (s.count c x 1).instAt c x <;> rfl

/-- What `retain` and `fired` do to the cell of a firing: a record for a rollback and a counter. -/
theorem State.cell_started (s : State) (c x : Nat) (tag : Word) (base : Nat) :
    let d := ((s.retain c x tag base).fired c x).cell c
    d.lane = (s.cell c).lane ∧ d.ready = (s.cell c).ready ∧ d.recs = (s.cell c).recs := by
  rw [State.cell_congr (State.fired_cells _ c x), State.count, State.modCx, State.cell_modCell, State.retain, State.cell_modCell]
  exact ⟨rfl, rfl, rfl⟩

section
variable {s : State} {c : Nat} {r : Ready} (hb : (s.cell c).lane.busy = false) (hd : s.delivers c = true)
  (hr : readyHead (s.cell c).firable = some r)

include hb hd hr

theorem execLaneTake_fresh {f : Fire} (hf : r.body = .fresh f) :
    exec (.laneTake c) s = .next
      ((({ (s.modCell c fun d => { d with ready := d.ready.erase r }) with serial := s.serial + 1 }.modCell c fun d => { d with
          lane := { busy := true
                    fir := { ctx := f.ctx, tag := f.tag, base := f.base, hdr := f.hdr, ia := f.hdr + 1, prio := f.prio, faulty := f.faulty,
                             serial := s.serial }
                    regs := fireRegs f } }).retain c f.ctx f.tag f.base).fired c f.ctx) := by
  change execLaneTake c s = _
  simp only [execLaneTake, hb, hd, hr, hf, Bool.not_true, Bool.or_self, Bool.false_eq_true, if_false]
  rfl

theorem execLaneTake_resumed {key : Nat} {q : SuspRec} (hq : r.body = .resumed key) (hrec : (s.cell c).recs.get? key = some q) :
    exec (.laneTake c) s = .next
      ((((s.modCell c fun d => { d with ready := d.ready.erase r }).modCell c fun d => { d with
          recs := d.recs.del key
          lane := { busy := true, fir := q.fir, regs := q.regs, resume := q.value, frees := q.frees } }).retain
        c q.fir.ctx q.fir.tag q.fir.base).fired c q.fir.ctx) := by
  have hrec' : ((s.modCell c fun d => { d with ready := d.ready.erase r }).cell c).recs.get? key = some q := by
    rw [State.cell_modCell]; exact hrec
  change execLaneTake c s = _
  simp only [execLaneTake, hb, hd, hr, hq, hrec', Bool.not_true, Bool.or_self, Bool.false_eq_true, if_false]

end

theorem execReadyPromotion_due {s : State} {c cls : Nat} {r : Ready} (hc : cls < 3)
    (hf : (s.cell c).ready.find? (fun r => r.cls == cls) = some r) (ht : r.since + 2048 ≤ s.ac c) :
    exec (.readyPromotion c cls) s = .next (s.modCell c fun d => { d with
      ready := d.ready.erase r ++ [{ r with cls := cls + 1, since := s.ac c }] }) := by
  change execReadyPromotion c cls s = _
  simp only [execReadyPromotion, hf, hc, Config.promoteAc, ht, decide_true, Bool.and_self, if_true]

/-! ## The statement -/

/-- Settles O51: each event by the equation of its case. -/
theorem tokensArriveMatchAndFire : Obligations.TokensArriveMatchAndFire := by
  unfold Obligations.TokensArriveMatchAndFire
  intro s src c x d k
  refine ⟨?_, ?_, ?_, ?_, ?_, ?_, ?_, ?_⟩
  · intro p tk hp hb hi hv u crowded
    refine ⟨fun hc => ?_, fun hc hr => ?_, fun hc hf => execTokenArrival_waits hp hb hi hv (Cell.accept_none _ hc hf)⟩
    · rw [execTokenArrival_accepts hp hb hi hv (Cell.accept_queue _ hc)]
      exact congrArg (fun v : State => Host.Outcome.next (v.accepted p)) (State.modCell_congr u c rfl)
    · rw [execTokenArrival_accepts hp hb hi hv (Cell.accept_spill _ hc hr)]
      exact congrArg (fun v : State => Host.Outcome.next (v.accepted p)) (State.modCell_congr u c rfl)
  · intro tk rest hs hroom
    refine ⟨_, execSpillReturn_room hs hroom, onlyAt_modCell .., ?_, ?_, ?_⟩
    · rw [State.cell_modCell]
    · rw [State.cx_modCell]; exact Cell.cx_modCx d x fun k => { k with spill := rest }
    · rw [State.cell_modCell]; rfl
  · intro hr hf code
    refine ⟨fun hroom => ?_, fun t ht => ?_⟩
    · rw [execImageFetchDone_room hr hf (Cell.evict_room _ hroom)]
      exact congrArg (fun v : State => Host.Outcome.next (v.serveLevels c x)) (State.modCell_congr s c rfl)
    · cases he : d.evict x code.length (List.range 8) with
      | none => 
        rw [execImageFetchDone_full hr hf he] at ht
        exact .inl (Host.Outcome.next.inj ht).symm
      | some e =>
        rw [execImageFetchDone_room hr hf he] at ht
        have hev := Cell.evicted_of_evict _ he
        refine .inr ⟨_, (Host.Outcome.next.inj ht).symm, ?_, hev.rest, fun y hy => ?_⟩
        · rw [Cell.cx_modCx, hev.same]; rfl
        · rw [Cell.cx_modCx_other _ _ _ _ hy]
          exact hev.others y hy
  · exact execImageFetchDone_frames
  · intro hr code ha hroom
    rw [execImageFetchDone_ahead hr ha (Cell.evict_room _ (by rwa [← Nat.add_assoc]))]
    exact congrArg Host.Outcome.next (State.modCell_congr s c rfl)
  · intro tk hd hf y b h slot f g bad hv
    have htake := execMatcherTake_of hd hf
    have hbad : ∀ {e : FaultCode}, s.matchTok c tk = .bad e none → bad e := fun hm => by rw [hm] at htake; exact htake
    refine ⟨fun hh => hbad (State.matchTok_badHeader hv hh), fun hh hfr => hbad (State.matchTok_frameFree hv hh hfr),
      fun hh fr hfr => ⟨fun hk hroom => ?_, fun hk hb => hbad (State.matchTok_frameBound hv hh hfr hk hb), fun hk hb => ⟨?_, ?_, ?_⟩⟩⟩
    · rw [htake, State.matchTok_monadic hv hh hfr hk]
      exact congrArg Host.Outcome.next (if_neg (Nat.not_le.mpr hroom))
    · intro hs hclean
      rw [htake, State.matchTok_empty hv hh hfr hk hb rfl hs, State.matched]
      simp only [hclean, Bool.false_eq_true, if_false]
      rfl
    · intro r ia p g hs
      rw [htake, State.matchTok_deferred hv hh hfr hk hb rfl hs]
      rfl
    · intro v hs hroom
      rw [htake, State.matchTok_full hv hh hfr hk hb rfl hs]
      refine congrArg Host.Outcome.next ((if_neg (Nat.not_le.mpr hroom)).trans ?_)
      split <;> rfl
  · intro r hb hd hr
    refine ⟨fun f hf => ⟨_, execLaneTake_fresh hb hd hr hf, ?_⟩, fun key q hq hrec => ⟨_, execLaneTake_resumed hb hd hr hq hrec, ?_⟩⟩
    · rw [State.fired_serial]
      obtain ⟨hl, hready, -⟩ := State.cell_started ({ (s.modCell c fun d => { d with ready := d.ready.erase r }) with
        serial := s.serial + 1 }.modCell c fun d => { d with
          lane := { busy := true
                    fir := { ctx := f.ctx, tag := f.tag, base := f.base, hdr := f.hdr, ia := f.hdr + 1, prio := f.prio, faulty := f.faulty,
                             serial := s.serial }
                    regs := fireRegs f } }) c f.ctx f.tag f.base
      rw [hl, hready, State.cell_modCell]
      refine ⟨?_, rfl, rfl, rfl, rfl, rfl, rfl, fireRegs_get f, fireRegs_pred f⟩
      exact congrArg Cell.ready (s.cell_modCell c fun d => { d with ready := d.ready.erase r })
    · obtain ⟨hl, hready, hrecs⟩ := State.cell_started ((s.modCell c fun d => { d with ready := d.ready.erase r }).modCell c fun d =>
        { d with recs := d.recs.del key, lane := { busy := true, fir := q.fir, regs := q.regs, resume := q.value, frees := q.frees } })
        c q.fir.ctx q.fir.tag q.fir.base
      rw [hl, hready, hrecs, State.cell_modCell, State.cell_modCell]
      exact ⟨rfl, rfl, rfl⟩
  · intro r cls hc hf ht
    refine ⟨_, execReadyPromotion_due hc hf ht, onlyAt_modCell .., ?_, ?_⟩
    · rw [State.cell_modCell]
    · rw [State.cell_modCell]

end Sys2Proof.Machine
end

section
/-! PROOFS. The ends of a lane's stalls (R50, R157). -/

namespace Sys2Proof.Machine

/-- An instruction that sends, run when back-pressure ends (R157). -/
theorem State.rerun_sending (s : State) {i : Instr} (h : Ref.sending i = true) : s.rerun i = exec i s := by
  unfold Ref.sending at h
  split at h
  case h_22 => exact absurd h Bool.false_ne_true
  all_goals rfl

@[simp] theorem State.cur_unstall (s : State) (c : Nat) : (s.unstall c).cur = c := rfl

theorem State.cell_unstall (s : State) (c : Nat) :
    (s.unstall c).cell c = { s.cell c with lane := { (s.cell c).lane with stall := none } } :=
  s.cell_modCell c fun d => { d with lane := { d.lane with stall := none } }

theorem State.cell_unstall_other (s : State) {c d : Nat} (h : d ≠ c) : (s.unstall c).cell d = s.cell d :=
  s.cell_modCell_other c d (fun d => { d with lane := { d.lane with stall := none } }) h

/-- Every cell of a placement has recorded a region id (R224). -/
theorem State.recorded_iff {s : State} {place : List Nat} {x id : Nat} :
    s.recorded place x id = true ↔ ∀ m, m ∈ place → (s.cx m x).regions.get? id ≠ none := by
  simp only [State.recorded, List.all_eq_true, Option.isSome_iff_ne_none]

section
variable {s : State} {c : Nat}

theorem execLaneStallEnd_net {i : Instr} (h : (s.cell c).lane.stall = some (.net i)) (hi : Ref.sending i = true) :
    exec (.laneStallEnd c) s = exec i (s.unstall c) := by
  change execLaneStallEnd c s = _
  rw [← State.rerun_sending _ hi]
  simp only [execLaneStallEnd, h]

theorem execLaneStallEnd_blocks {r : BitVec 4} {v : Word} {n : Nat} (h : (s.cell c).lane.stall = some (.blocks r v n)) (hn : 0 < n) :
    exec (.laneStallEnd c) s = .next s := by
  obtain ⟨n, rfl⟩ := Nat.exists_eq_succ_of_ne_zero (Nat.ne_of_gt hn)
  change execLaneStallEnd c s = _
  simp only [execLaneStallEnd, h]

theorem execLaneStallEnd_zeroed {r : BitVec 4} {v : Word} (h : (s.cell c).lane.stall = some (.blocks r v 0)) :
    exec (.laneStallEnd c) s = .next ((s.unstall c).setX r v).step1 := by
  change execLaneStallEnd c s = _
  simp only [execLaneStallEnd, h]

theorem execLaneStallEnd_written {i : Nat} (h : (s.cell c).lane.stall = some (.seal i)) (hw : (s.cell c).written i = true) :
    exec (.laneStallEnd c) s = .next s := by
  change execLaneStallEnd c s = _
  simp only [execLaneStallEnd, h, hw, if_true]

theorem execLaneStallEnd_seals {i : Nat} (h : (s.cell c).lane.stall = some (.seal i)) (hw : (s.cell c).written i = false)
    (hl : ((s.cell c).tile i).live = true) :
    exec (.laneStallEnd c) s = .next ((s.unstall c).modTile c i fun e => { e with sealed := true }).step1 := by
  have hl' : ((s.unstall c).tile i).live = true := by rw [State.tile, State.cur_unstall, State.cell_unstall]; exact hl
  change execLaneStallEnd c s = _
  simp only [execLaneStallEnd, h, hw, hl', Bool.false_eq_true, if_false, if_true]
  rfl

theorem execLaneStallEnd_unrecorded {r : BitVec 4} {id : Nat} (h : (s.cell c).lane.stall = some (.cropen r id))
    (hr : s.recorded (s.cx c (s.cell c).lane.fir.ctx).place (s.cell c).lane.fir.ctx id = false) :
    exec (.laneStallEnd c) s = .next s := by
  change execLaneStallEnd c s = _
  simp only [execLaneStallEnd, h, hr, Bool.false_eq_true, if_false]

theorem execLaneStallEnd_opens {r : BitVec 4} {id : Nat} (h : (s.cell c).lane.stall = some (.cropen r id))
    (hr : s.recorded (s.cx c (s.cell c).lane.fir.ctx).place (s.cell c).lane.fir.ctx id = true) :
    exec (.laneStallEnd c) s = .next ((s.unstall c).setX r (word id)).step1 := by
  change execLaneStallEnd c s = _
  simp only [execLaneStallEnd, h, hr, if_true]

theorem execEngineQueueRoom_full {m : Cmd} (h : (s.cell c).lane.stall = some (.queue m))
    (hf : ((s.cell c).queueOf m.op m.hi).2 ≤ ((s.cell c).queueOf m.op m.hi).1.length) : exec (.engineQueueRoom c) s = .next s := by
  change execEngineQueueRoom c s = _
  simp only [execEngineQueueRoom, h, hf, if_true]

theorem execEngineQueueRoom_room {m : Cmd} (h : (s.cell c).lane.stall = some (.queue m))
    (hf : ((s.cell c).queueOf m.op m.hi).1.length < ((s.cell c).queueOf m.op m.hi).2) :
    exec (.engineQueueRoom c) s = .next ((s.unstall c).modCell c fun d => d.enqueue m).step1 := by
  change execEngineQueueRoom c s = _
  simp only [execEngineQueueRoom, h, Nat.not_le.mpr hf, if_false]

end

/-- A tile that becomes SEALED leaves the lane where it is. -/
theorem State.plain_modTile {s : State} (i : Nat) (f : Tile → Tile) (hp : s.plain) : (s.modTile s.cur i f).plain := by
  have hlane : (s.modTile s.cur i f).lane = s.lane := by rw [State.modTile, State.lane_modCell]; rfl
  have hfcx : (s.modTile s.cur i f).fcx = s.fcx := by
    rw [State.fcx, State.fir, hlane, State.modTile, State.modCell_cur, State.cx_modCell]; rfl
  have hlast : (s.modTile s.cur i f).atLast = s.atLast := by rw [State.atLast, State.fhdr, hfcx, State.fir, hlane]; rfl
  intro h
  rw [hlane]
  exact hp (hlast ▸ h)

theorem regsOnly_modTile {s : State} (i : Nat) (f : Tile → Tile) (hp : s.plain) :
    RegsOnly (s.modTile s.cur i f) s.lane.regs 0 (s.modTile s.cur i f).step1 := by
  have hlane : (s.modTile s.cur i f).lane = s.lane := by rw [State.modTile, State.lane_modCell]; rfl
  have h := regsOnly_step1 _ (State.plain_modTile i f hp)
  rwa [hlane] at h

/-- A queue keeps its capacity. -/
theorem Cell.queueOf_enqueue_room (c : Cell) (m : Cmd) : (c.enqueue m).queueOf m.op m.hi = ((c.queueOf m.op m.hi).1 ++ [m], (c.queueOf m.op m.hi).2) := by
  refine Prod.ext (Cell.queueOf_enqueue c m) ?_
  cases hop : m.op <;> rfl

/-- The command that was held enters its queue and the lane goes on. -/
theorem enqueue_step1 {s : State} (c : Nat) (m : Cmd) (hp : (s.unstall c).plain) :
    let u := s.unstall c
    let t := (u.modCell c fun d => d.enqueue m).step1
    OnlyAt s c { t with cur := s.cur, held := s.held } ∧
      (t.cell c).queueOf m.op m.hi = (((s.cell c).queueOf m.op m.hi).1 ++ [m], ((s.cell c).queueOf m.op m.hi).2) ∧
      (t.cell c).lane = u.laneAfter u.lane.regs ∧ (t.cell c).slots = (s.cell c).slots := by
  intro u t
  have ht : t = u.modCell c fun d => { d.enqueue m with lane := u.laneAfter u.lane.regs } :=
    step1_modCell u (fun d => d.enqueue m) (r := u.lane.regs) (Cell.enqueue_lane ..) (by rw [Cell.enqueue_cx]; rfl) hp
  have hcell : t.cell c = { (u.cell c).enqueue m with lane := u.laneAfter u.lane.regs } := by rw [ht]; exact u.cell_modCell c _
  rw [hcell]
  refine ⟨⟨by rw [ht]; rfl, fun d hd => ?_⟩, ?_, rfl, ?_⟩
  · have hother : t.cell d = u.cell d := by rw [ht]; exact u.cell_modCell_other c d _ hd
    exact hother.trans (s.cell_unstall_other hd)
  · refine (Cell.queueOf_enqueue_room (u.cell c) m).trans ?_
    rw [State.cell_unstall]; rfl
  · refine (Cell.enqueue_slots ..).trans ?_
    rw [State.cell_unstall]

end Sys2Proof.Machine
end

section
/-! PROOFS. Frames granted and freed by message (R35, R58, R59, R188, R189). -/

namespace Sys2Proof

/-- The entry that a key reads stands in the table. -/
theorem Tbl.mem_of_get? {α : Type} {t : Tbl α} {n : Nat} {v : α} (h : t.get? n = some v) : (n, v) ∈ t := by
  induction t with
  | nil => cases h
  | cons e t ih =>
    obtain ⟨k, u⟩ := e
    rw [Tbl.get?] at h
    split at h
    · next hk => cases h; exact hk ▸ List.mem_cons_self ..
    · exact List.mem_cons_of_mem _ (ih h)

/-- An entry changed in nothing that a test looks at leaves the test's answer as it is. -/
theorem Tbl.any_put {α : Type} {t : Tbl α} {n : Nat} {v w : α} (f : Nat × α → Bool) (h : t.get? n = some w) (hf : f (n, v) = f (n, w)) :
    (t.put n v).any f = t.any f := by
  induction t with
  | nil => cases h
  | cons e t ih =>
    obtain ⟨k, u⟩ := e
    have hmem := Tbl.mem_of_get? h
    rw [Tbl.get?] at h
    rw [Tbl.put]
    split
    · have habs : f (n, v) = true → List.any ((k, u) :: t) f = true := fun hv => List.any_eq_true.mpr ⟨_, hmem, hf ▸ hv⟩
      rw [List.any_cons]
      cases hv : f (n, v) with
      | false => exact Bool.false_or _
      | true => exact (habs hv).symm
    · split
      · next hk =>
        rw [if_pos hk] at h
        rw [List.any_cons, List.any_cons, hf, ← hk, Option.some.inj h]
      · next hk =>
        rw [if_neg hk] at h
        rw [List.any_cons, List.any_cons, ih h]

/-- An entry put back as it was reads as before. -/
theorem Tbl.get?_filter {α : Type} (t : Tbl α) (n : Nat) (p : Nat → Bool) :
    Tbl.get? (t.filter fun e => p e.1) n = if p n then t.get? n else none := by
  induction t with
  | nil => simp
  | cons e t ih =>
    obtain ⟨k, u⟩ := e
    by_cases hk : n = k
    · subst hk
      cases hp : p n with
      | true => simp [hp, Tbl.get?]
      | false => simp only [hp, Bool.false_eq_true, if_false] at ih ⊢; simpa [hp] using ih
    · cases hp : p k <;> simp [hp, Tbl.get?, hk, ih]

namespace Machine

/-! ## A packet taken in -/

/-- A state after a packet has been taken in: the network and outstanding counts differ, nothing else. -/
structure Got (s g : State) : Prop where
  rest : { g with cells := s.cells, net := s.net } = s
  cell : ∀ c, { g.cell c with ctxs := (s.cell c).ctxs } = s.cell c
  cx : ∀ c x, { g.cx c x with outstanding := (s.cx c x).outstanding } = s.cx c x

theorem got_accepted (s : State) (vn src c x : Nat) (p : Packet) : Got s ((s.takePacket vn src c x).accepted p) := by
  obtain ⟨hrest, hcell, hcx⟩ := State.accepted_spec (s.takePacket vn src c x) p
  exact ⟨congrArg (fun u : State => { u with net := s.net }) hrest, hcell, hcx⟩

section
variable {s g : State} (h : Got s g)
include h

theorem Got.frames (c x : Nat) : (g.cx c x).frames = (s.cx c x).frames := (congrArg Ctx.frames (h.cx c x) :)
theorem Got.pools (c x : Nat) : (g.cx c x).pools = (s.cx c x).pools := (congrArg Ctx.pools (h.cx c x) :)
theorem Got.regions (c x : Nat) : (g.cx c x).regions = (s.cx c x).regions := (congrArg Ctx.regions (h.cx c x) :)
theorem Got.place (c x : Nat) : (g.cx c x).place = (s.cx c x).place := (congrArg Ctx.place (h.cx c x) :)
theorem Got.vcell (c x : Nat) : (g.cx c x).vcell = (s.cx c x).vcell := (congrArg Ctx.vcell (h.cx c x) :)
theorem Got.lane (c : Nat) : (g.cell c).lane = (s.cell c).lane := (congrArg Cell.lane (h.cell c) :)
theorem Got.slots (c : Nat) : (g.cell c).slots = (s.cell c).slots := (congrArg Cell.slots (h.cell c) :)
theorem Got.heap (c : Nat) : (g.cell c).heap = (s.cell c).heap := (congrArg Cell.heap (h.cell c) :)
theorem Got.barriers (c : Nat) : (g.cell c).barriers = (s.cell c).barriers := (congrArg Cell.barriers (h.cell c) :)
theorem Got.clock : g.clock = s.clock := (congrArg State.clock h.rest :)
theorem Got.gated : g.gated = s.gated := (congrArg State.gated h.rest :)
theorem Got.parts : g.parts = s.parts := (congrArg State.parts h.rest :)
theorem Got.mem : g.mem = s.mem := (congrArg State.mem h.rest :)
theorem Got.ops : g.ops = s.ops := (congrArg State.ops h.rest :)

theorem Got.tile (c i : Nat) : (g.cell c).tile i = (s.cell c).tile i := by unfold Cell.tile; rw [h.heap]

theorem Got.fits (c : Nat) (w : Word) : (g.cell c).fits w = (s.cell c).fits w := by unfold Cell.fits; rw [h.tile]

theorem Got.late (c x : Nat) (tag : Word) : g.late c x tag = s.late c x tag := by unfold State.late; rw [h.regions]

theorem Got.grantable (c x level : Nat) : (g.cx c x).grantable level = (s.cx c x).grantable level := by
  rw [← h.cx c x]; rfl

end

/-- A packet is sent alike in states of one time and one set of partitions. -/
theorem State.sent_congr {s t : State} (hc : t.clock = s.clock) (hg : t.gated = s.gated) (hp : t.parts = s.parts) (p : Packet) :
    t.sent p = s.sent p := by
  unfold State.sent State.ac State.dieAc State.partNo
  rw [hc, hg, hp]

theorem Got.sent {s g : State} (h : Got s g) (p : Packet) : g.sent p = s.sent p := State.sent_congr h.clock h.gated h.parts p

/-! ## Granting (R59, R188) -/

/-- What a queue holds has no part in which frame is granted. -/
theorem Ctx.grantable_queue {k : Ctx} {level : Nat} {q : Pool} (h : k.pools.get? level = some q) (w : List FrameReq) :
    ({ k with pools := k.pools.put level { q with queue := w } } : Ctx).grantable level = k.grantable level := by
  have hany : ∀ b m, ((k.pools.put level { q with queue := w }).any fun e => e.2.places.any fun p => overlap b m p (clsSlots e.2.cls)) =
      k.pools.any fun e => e.2.places.any fun p => overlap b m p (clsSlots e.2.cls) := fun b m => Tbl.any_put _ h rfl
  simp only [Ctx.grantable, Tbl.get?_put_same, h, hany]

theorem State.serveLevel_ungrantable {s : State} {c x level : Nat} (n : Nat) (h : (s.cx c x).grantable level = none) :
    s.serveLevel c x level n = s := by
  cases n with
  | zero => rfl
  | succ n =>
    rw [State.serveLevel]
    simp only [h]
    cases ((s.cx c x).pools.getD level {}).queue <;> rfl

theorem State.serveLevel_grants {s : State} {c x level b : Nat} {res : Bool} {r : FrameReq} {rest : List FrameReq} (n : Nat)
    (hq : ((s.cx c x).pools.getD level {}).queue = r :: rest) (hg : (s.cx c x).grantable level = some (b, res)) :
    s.serveLevel c x level (n + 1) = ((s.modCx c x fun k =>
      { k with pools := k.pools.put level { (s.cx c x).pools.getD level {} with queue := rest } }).grantTo c x level b res r).serveLevel
        c x level n := by
  rw [State.serveLevel]
  simp only [hq, hg]

/-- A token sent raises one outstanding count and changes nothing else of the cells. -/
theorem State.sendAs_cells (s : State) (c : Nat) (t : Token) (a b : Option Nat) :
    (s.sendAs c t a b).cells = (s.raiseOut c (ctxOf t.cont) 1).cells := by
  unfold State.sendAs
  split <;> rfl

theorem State.cx_raiseOut_eq (s : State) (c x n d y : Nat) : ∃ m, (s.raiseOut c x n).cx d y = { s.cx d y with outstanding := m } := by
  by_cases h : d = c ∧ y = x
  · obtain ⟨rfl, rfl⟩ := h
    exact ⟨_, State.cx_raiseOut ..⟩
  · exact ⟨(s.cx d y).outstanding, State.cx_modCx_other _ _ _ _ _ _ h⟩

theorem State.cx_sendAs_eq (s : State) (c : Nat) (t : Token) (a b : Option Nat) (d y : Nat) :
    ∃ m, (s.sendAs c t a b).cx d y = { s.cx d y with outstanding := m } := by
  rw [State.cx_congr (State.sendAs_cells s c t a b)]
  exact State.cx_raiseOut_eq ..

theorem State.pools_sendAs (s : State) (c : Nat) (t : Token) (a b : Option Nat) (d y : Nat) :
    ((s.sendAs c t a b).cx d y).pools = (s.cx d y).pools := by
  obtain ⟨m, hm⟩ := State.cx_sendAs_eq s c t a b d y
  exact (congrArg Ctx.pools hm :)

theorem State.cell_sendAs_eq (s : State) (c : Nat) (t : Token) (a b : Option Nat) (d : Nat) :
    { (s.sendAs c t a b).cell d with ctxs := (s.cell d).ctxs } = s.cell d := by
  rw [State.cell_congr (State.sendAs_cells s c t a b)]
  by_cases h : d = c
  · subst h; rw [State.cell_raiseOut]; rfl
  · rw [State.raiseOut, State.modCx, State.cell_modCell_other _ _ _ _ h]

/-- A cell after a grant, by its context. -/
theorem Cell.cx_grant (d : Cell) (x level b region : Nat) (res : Bool) : (d.grant x level b region res).cx x = { d.cx x with
    frames := (d.cx x).frames.put b { cls := ((d.cx x).pools.getD level {}).cls, level := level, region := region, reserved := res }
    lost := (d.cx x).lost.filter fun e => !overlap b (clsSlots ((d.cx x).pools.getD level {}).cls) e.1 1
    pools := (d.cx x).pools.put level
      { (d.cx x).pools.getD level {} with live := ((d.cx x).pools.getD level {}).live + 1 } } := by
  simp [Cell.grant, Cell.modCx, Cell.cx]

/-- A grant leaves the queues as they are. -/
theorem State.grantTo_queue (s : State) (c x level b : Nat) (res : Bool) (r : FrameReq) :
    (((s.grantTo c x level b res r).cx c x).pools.getD level {}).queue = ((s.cx c x).pools.getD level {}).queue := by
  unfold State.grantTo
  dsimp only
  rw [State.pools_sendAs, State.cx_modCell, Cell.cx_grant]
  simp [State.cx]

/-- Serving a level to the length of its queue serves it by the rule. -/
theorem granted_serveLevel {c x l : Nat} {ls : List Nat} {t : State} (n : Nat) :
    ∀ s : State, ((s.cx c x).pools.getD l {}).queue.length ≤ n → Granted c x ls (s.serveLevel c x l n) t → Granted c x (l :: ls) s t := by
  have hrests : ∀ s : State, ((s.cx c x).pools.getD l {}).queue = [] → ∀ n, Granted c x ls (s.serveLevel c x l n) t →
      Granted c x (l :: ls) s t := by
    intro s hq n h
    rw [State.serveLevel_empty s c x l n hq] at h
    refine .next l ls s t (fun p hp => .inl ?_) h
    simpa [Tbl.getD, hp] using hq
  induction n with
  | zero => exact fun s hn => hrests s (List.length_eq_zero_iff.mp (Nat.le_zero.mp hn)) 0
  | succ n ih =>
    intro s hn h
    cases hq : ((s.cx c x).pools.getD l {}).queue with
    | nil => exact hrests s hq _ h
    | cons r rest =>
      cases hg : (s.cx c x).grantable l with
      | none =>
        rw [State.serveLevel_ungrantable _ hg] at h
        exact .next l ls s t (fun _ _ => .inr hg) h
      | some e =>
        obtain ⟨b, res⟩ := e
        rw [State.serveLevel_grants n hq hg] at h
        cases hp : (s.cx c x).pools.get? l with
        | none => simp [Tbl.getD, hp] at hq
        | some p =>
          have hgetD : (s.cx c x).pools.getD l {} = p := by simp [Tbl.getD, hp]
          rw [hgetD] at hq h hn
          refine .grant l ls s t p r rest b res hp hq hg (ih _ ?_ h)
          rw [State.grantTo_queue, State.cx_modCx]
          rw [hq, List.length_cons] at hn
          simp only [Tbl.getD_put_same]
          omega

theorem granted_serveLevels (s : State) (c x : Nat) : Granted c x [7, 6, 5, 4, 3, 2, 1, 0] s (s.serveLevels c x) := by
  have h : ∀ (ls : List Nat) (s : State),
      Granted c x ls s (ls.foldl (fun s l => s.serveLevel c x l ((s.cx c x).pools.getD l {}).queue.length) s) := by
    intro ls
    induction ls with
    | nil => exact .done
    | cons l ls ih => exact fun s => granted_serveLevel _ s (Nat.le_refl _) (ih _)
  exact h _ s

/-! ## Freeing (R35, R189) -/

theorem Cell.lowestDeferred_eq (d : Cell) (b n : Nat) : (d.deferredIn b n).head? = d.lowestDeferred b n := List.head?_filter ..

/-- A frame taken away leaves what R35 says. -/
theorem frameGone_dropFrame (s : State) (c x b : Nat) (f : Frame) : FrameGone s c x b f (s.modCell c fun d => d.dropFrame x b f) where
  only := onlyAt_modCell ..
  cell := by
    rw [State.cell_modCell]
    have hrecs : ((s.cell c).recs.filter fun e => !(e.2.value.isNone && decide (b ≤ e.2.slot) &&
        ((s.cell c).deferredIn b (clsSlots f.cls)).contains (e.2.slot - b))) =
        (s.cell c).recs.filter fun e => !(e.2.value.isNone && decide (b ≤ e.2.slot) && decide (e.2.slot < b + clsSlots f.cls) &&
          isDeferred (s.slot c e.2.slot)) := by
      refine List.filter_congr fun e _ => congrArg Bool.not ?_
      by_cases hb : b ≤ e.2.slot
      · have hslot : b + (e.2.slot - b) = e.2.slot := by omega
        have hlt : decide (e.2.slot - b < clsSlots f.cls) = decide (e.2.slot < b + clsSlots f.cls) := decide_eq_decide.mpr (by omega)
        have hin : ((s.cell c).deferredIn b (clsSlots f.cls)).contains (e.2.slot - b) =
            (decide (e.2.slot < b + clsSlots f.cls) && isDeferred (s.slot c e.2.slot)) := by
          rw [Bool.eq_iff_iff, List.contains_iff_mem, Cell.deferredIn, List.mem_filter, List.mem_range, hslot, Bool.and_eq_true,
            decide_eq_true_eq]
          exact and_congr_left' (decide_eq_decide.mp hlt)
        rw [hin, Bool.and_assoc _ (decide (e.2.slot < b + clsSlots f.cls))]
      · simp [hb]
    exact congrArg (fun r => { s.cell c with
      recs := r
      slots := (s.cell c).slots.filter fun e => decide (e.1 < b) || decide (b + clsSlots f.cls ≤ e.1)
      ftoks := (s.cell c).ftoks.filter fun k => decide (k < b) || decide (b + clsSlots f.cls ≤ k) }) hrecs
  ctx := by
    rw [State.cx_modCell]
    refine (Cell.cx_modCx _ x _).trans ?_
    rcases hp : ((s.cell c).ctxs.getD x {}).pools.get? f.level with _ | p <;> simp only [State.cx, Cell.cx, hp]
  ctxs y hy := by
    rw [State.cx_modCell]
    exact Cell.cx_modCx_other _ x y _ hy

section
variable {s : State} {c x b : Nat} {w : Issuer} {f : Frame} (h : (s.cx c x).frames.get? b = some f)
include h

/-- A frame on which no firing waits is freed. -/
theorem State.freeLater_quiet (hd : (s.cell c).lowestDeferred b (clsSlots f.cls) = none) :
    s.freeLater c x b w = (s.modCell c fun d => d.dropFrame x b f).serveLevels c x := by
  have hf : s.frame? c x b = some f := h
  simp only [State.freeLater, State.freeFrame, hf, Cell.lowestDeferred_eq, hd, Option.map_none]

/-- A frame on which firings wait is freed, and FRAME_FREE names the lowest slot. -/
theorem State.freeLater_deferred {j : Nat} (hd : (s.cell c).lowestDeferred b (clsSlots f.cls) = some j) :
    s.freeLater c x b w = ((s.modCell c fun d => d.dropFrame x b f).serveLevels c x).opFault w .frameFree (BitVec.ofNat 64 j) 0 := by
  have hf : s.frame? c x b = some f := h
  simp only [State.freeLater, State.freeFrame, hf, Cell.lowestDeferred_eq, hd, Option.map_some]
  rfl

end

theorem State.freeLater_gone {s : State} {c x b : Nat} {w : Issuer} (h : (s.cx c x).frames.get? b = none) :
    s.freeLater c x b w = s.opFault w .frameFree 0 0 := by
  have hf : s.frame? c x b = none := h
  simp only [State.freeLater, State.freeFrame, hf]

end Machine

end Sys2Proof
end

section
/-! PROOFS. Messages at their cell: frame requests, frees, counts, heap requests, replies, arrivals, wake values and region ids
(R34, R35, R48, R59, R188, R189, R194, R197, R204, R219 to R221, R224): the statement O52. -/

namespace Sys2Proof.Machine

/-! ## Frame requests and frees -/

section
variable {s : State} {src c x : Nat} {p : Packet} (hm : s.message? src c x = some p)
include hm

section
variable {level : Nat} {r : FrameReq} {q : Pool} (hb : p.body = .falloc level r) (hl : s.late c x r.tag = false)
  (hp : (s.cx c x).pools.get? level = some q)
include hb hl hp

theorem execFallocRequest_served : exec (.fallocRequest src c x) s = .next
    ((((s.takePacket 0 src c x).accepted p).modCx c x fun k =>
      { k with pools := k.pools.put level { q with queue := q.queue ++ [r] } }).serveLevel c x level (q.queue.length + 1)) := by
  have hg := got_accepted s 0 src c x p
  change execFallocRequest src c x s = _
  simp only [execFallocRequest, hm, hb, hg.late, hl, hg.pools, hp, Bool.false_eq_true, if_false]

/-- A request whose level has no frame to give stays in the queue. -/
theorem execFallocRequest_queued (hn : (s.cx c x).grantable level = none) : exec (.fallocRequest src c x) s = .next
    (((s.takePacket 0 src c x).accepted p).modCx c x fun k =>
      { k with pools := k.pools.put level { q with queue := q.queue ++ [r] } }) := by
  have hg := got_accepted s 0 src c x p
  rw [execFallocRequest_served hm hb hl hp, State.serveLevel_ungrantable]
  rw [State.cx_modCx, Ctx.grantable_queue (by rw [hg.pools, hp]), hg.grantable, hn]

/-- A request at an empty queue whose level has a frame to give gets it. -/
theorem execFallocRequest_granted {b : Nat} {res : Bool} (hs : (s.cx c x).grantable level = some (b, res)) (hq : q.queue = []) :
    exec (.fallocRequest src c x) s = .next
      ((((s.takePacket 0 src c x).accepted p).modCx c x fun k => { k with pools := k.pools.put level q }).grantTo c x level b res r) := by
  have hg := got_accepted s 0 src c x p
  rw [execFallocRequest_served hm hb hl hp, hq, List.nil_append]
  generalize (s.takePacket 0 src c x).accepted p = g at hg
  have hgrant : ((g.modCx c x fun k => { k with pools := k.pools.put level { q with queue := [r] } }).cx c x).grantable level =
      some (b, res) := by
    rw [State.cx_modCx, Ctx.grantable_queue (by rw [hg.pools, hp]), hg.grantable, hs]
  rw [List.length_nil, State.serveLevel_grants (r := r) (rest := []) 0 (by rw [State.cx_modCx]; simp) hgrant]
  refine congrArg (fun u : State => Host.Outcome.next (u.grantTo c x level b res r)) ?_
  refine (State.modCell_modCell ..).trans (State.modCell_congr g c ?_)
  rw [Cell.modCx_modCx, State.cx_modCx]
  simp only [Tbl.getD_put_same, Tbl.put_put]
  rw [show ({ q with queue := [] } : Pool) = q by rw [← hq]]

end

section
variable {b : Nat} {w : Issuer} (hb : p.body = .ffree b w)
include hb

theorem execFfreeMessage_mine (hl : (s.cell c).lane.busy = true ∧ (s.cell c).lane.fir.ctx = x ∧ (s.cell c).lane.fir.base = b) :
    exec (.ffreeMessage src c x) s = .next (((s.takePacket 0 src c x).accepted p).modCell c fun e =>
      { e with lane := { e.lane with frees := e.lane.frees ++ [(b, w)] } }) := by
  obtain ⟨h1, h2, h3⟩ := hl
  change execFfreeMessage src c x s = _
  simp only [execFfreeMessage, hm, hb, (got_accepted s 0 src c x p).lane, h1, h2, h3, beq_self_eq_true, Bool.and_self, if_true]

theorem execFfreeMessage_frees (hl : ¬ ((s.cell c).lane.busy = true ∧ (s.cell c).lane.fir.ctx = x ∧ (s.cell c).lane.fir.base = b)) :
    exec (.ffreeMessage src c x) s = .next (((s.takePacket 0 src c x).accepted p).freeLater c x b w) := by
  have hl' : ((s.cell c).lane.busy && (s.cell c).lane.fir.ctx == x && (s.cell c).lane.fir.base == b) = false := by
    rw [← Bool.not_eq_true]
    simpa [and_assoc] using hl
  change execFfreeMessage src c x s = _
  simp only [execFfreeMessage, hm, hb, (got_accepted s 0 src c x p).lane, hl', Bool.false_eq_true, if_false]

end

/-! ## Counts and arrivals -/

section
variable {h : Word} {n : Nat} {up : Bool} {w : Issuer} (hb : p.body = .count h n up w)
include hb

theorem execCountMessage_error {e : FaultCode × Word}
    (he : (((s.takePacket 0 src c x).accepted p).cell c).applyCount h n up = .error e) :
    exec (.countMessage src c x) s = .next (((s.takePacket 0 src c x).accepted p).opLost w e.1 e.2 0) := by
  change execCountMessage src c x s = _
  simp only [execCountMessage, hm, hb, he]

theorem execCountMessage_ok {d : Cell} (he : (((s.takePacket 0 src c x).accepted p).cell c).applyCount h n up = .ok d) :
    exec (.countMessage src c x) s = .next (((s.takePacket 0 src c x).accepted p).modCell c fun _ => d) := by
  change execCountMessage src c x s = _
  simp only [execCountMessage, hm, hb, he]

end

theorem execBarrierMessage_arrives {i n : Nat} {r : Option Word} {w : Issuer} (hb : p.body = .bara i n r w) :
    exec (.barrierMessage src c x) s = .next (((s.takePacket 0 src c x).accepted p).arrive c i w n r) := by
  change execBarrierMessage src c x s = _
  simp only [execBarrierMessage, hm, hb]

end

section
variable {d : Cell} {h : Word} {n : Nat} {up : Bool}

theorem Cell.applyCount_excess (he : up = true ∧ (n = 0 ∨ 65535 < n)) : d.applyCount h n up = .error (.shape, BitVec.ofNat 64 n) :=
  if_pos (by simpa using he)

variable (he : ¬ (up = true ∧ (n = 0 ∨ 65535 < n)))
include he

theorem Cell.applyCount_stale (hf : d.fits h = false) : d.applyCount h n up = .error (.handleStale, h) :=
  (if_neg (by simpa using he)).trans (if_pos (by rw [hf]; rfl))

variable (hf : d.fits h = true) (hs : (d.tile (indexOf h)).sealed = true)
include hf hs

theorem Cell.applyCount_up (hu : up = true) (hc : (d.tile (indexOf h)).count + n ≤ 65535) :
    d.applyCount h n up = .ok (d.modTile (indexOf h) fun t => { t with count := t.count + n }) :=
  (if_neg (by simpa using he)).trans ((if_neg (by simp [hf])).trans ((if_neg (by simp [hs])).trans ((if_neg (by simp [hu])).trans
    (if_neg (Nat.not_lt.mpr hc)))))

theorem Cell.applyCount_down (hu : up = false) : d.applyCount h n up = .ok (d.dropRef (indexOf h)) :=
  (if_neg (by simpa using he)).trans ((if_neg (by simp [hf])).trans ((if_neg (by simp [hs])).trans (if_pos (by simp [hu]))))

end

theorem Cell.tile_freeTile {d : Cell} {i : Nat} (hl : (d.tile i).live = true) : (d.freeTile i).tile i = { gen := (d.tile i).gen + 1 } := by
  rw [Cell.freeTile, if_neg (by simp [hl])]
  exact Tbl.getD_put_same ..

theorem Cell.tile_freeTile_other {d : Cell} {i j : Nat} (h : j ≠ i) : (d.freeTile i).tile j = d.tile j := by
  unfold Cell.freeTile
  dsimp only
  split
  · rfl
  · refine (Tbl.getD_put_other _ _ _ _ _ h).trans ?_
    split <;> rfl

theorem Cell.live_of_fits {d : Cell} {h : Word} (hf : d.fits h = true) : (d.tile (indexOf h)).live = true := by
  simp only [Cell.fits, Bool.and_eq_true] at hf
  exact hf.1.1

theorem State.place_raiseOut (s : State) (c x n d y : Nat) : ((s.raiseOut c x n).cx d y).place = (s.cx d y).place := by
  obtain ⟨m, hm⟩ := State.cx_raiseOut_eq s c x n d y
  exact (congrArg Ctx.place hm :)

/-- A token to another vcell stands at the end of the network. -/
theorem State.net_sendAs_token (s : State) (c : Nat) (t : Token) (a : Option Nat) (hr : isReturn t.cont = false) :
    (s.sendAs c t a).net = s.net ++ [s.sent {
      vn := 0
      src := c
      dst := (s.cx c (ctxOf t.cont)).place.getD (vcellOf t.cont) 0
      ctx := ctxOf t.cont
      also := a
      body := .token t }] := by
  rw [State.sendAs, hr, ← State.place_raiseOut s c (ctxOf t.cont) 1]
  rfl

theorem State.slots_grantTo (s : State) (c x level b : Nat) (res : Bool) (r : FrameReq) :
    ((s.grantTo c x level b res r).cell c).slots = dropSlots (s.cell c).slots b (clsSlots ((s.cx c x).pools.getD level {}).cls) := by
  have h := State.cell_sendAs_eq (s.modCell c fun d => d.grant x level b r.region res) c
    ⟨r.reply, mkCont ((s.modCell c fun d => d.grant x level b r.region res).cx c x).vcell x b 0 0 0, r.tag, false, 0⟩ (some r.src) none c
  refine (congrArg Cell.slots h :).trans ?_
  rw [State.cell_modCell]
  rfl

/-- What a grant's answer leaves: the frame, its EMPTY slots, its level's count and the token. -/
theorem granted_leaves {s : State} {c x level b : Nat} {res : Bool} {r : FrameReq} {q : Pool}
    (hq : (s.cx c x).pools.get? level = some q) (hx : ctxOf r.reply = x) (hr : isReturn r.reply = false) :
    let t := s.grantTo c x level b res r
    t.frame? c x b = some { cls := q.cls, level := level, region := r.region, reserved := res } ∧
      (∀ j, j < clsSlots q.cls → t.slot c (b + j) = none) ∧ (∀ j, j < b ∨ b + clsSlots q.cls ≤ j → t.slot c j = s.slot c j) ∧
      (t.cx c x).pools.get? level = some { q with live := q.live + 1 } ∧ t.mem = s.mem ∧
      t.net = s.net ++ [s.sent {
        vn := 0
        src := c
        dst := (s.cx c x).place.getD (vcellOf r.reply) 0
        ctx := x
        also := some r.src
        body := .token { cont := r.reply, val := mkCont (s.cx c x).vcell x b 0 0 0, tag := r.tag } }] := by
  intro t
  have hgetD : (s.cx c x).pools.getD level {} = q := by simp [Tbl.getD, hq]
  have hslots : ∀ j, t.slot c j = if (decide (j < b) || decide (b + clsSlots q.cls ≤ j)) = true then s.slot c j else none := fun j => by
    have h := State.slots_grantTo s c x level b res r
    rw [hgetD] at h
    rw [State.slot, h]
    exact Tbl.get?_filter _ j fun j => decide (j < b) || decide (b + clsSlots q.cls ≤ j)
  have hgrant : ((s.modCell c fun d => d.grant x level b r.region res).cx c x) = ((s.cell c).grant x level b r.region res).cx x :=
    State.cx_modCell ..
  have hcx := Cell.cx_grant (s.cell c) x level b r.region res
  have hgetD' : ((s.cell c).cx x).pools.getD level {} = q := hgetD
  rw [hgetD'] at hcx
  have hvcell : ((s.modCell c fun d => d.grant x level b r.region res).cx c x).vcell = (s.cx c x).vcell := by rw [hgrant, hcx]; rfl
  have ht : t = (s.modCell c fun d => d.grant x level b r.region res).sendAs c
      ⟨r.reply, mkCont (s.cx c x).vcell x b 0 0 0, r.tag, false, 0⟩ (some r.src) := by rw [← hvcell]; rfl
  obtain ⟨m, hm⟩ := State.cx_sendAs_eq (s.modCell c fun d => d.grant x level b r.region res) c
    ⟨r.reply, mkCont (s.cx c x).vcell x b 0 0 0, r.tag, false, 0⟩ (some r.src) none c x
  rw [← ht, hgrant, hcx] at hm
  refine ⟨?_, fun j hj => ?_, fun j hj => ?_, ?_, ?_, ?_⟩
  · rw [State.frame?, hm]
    exact Tbl.get?_put_same ..
  · rw [hslots, if_neg (by simp; omega)]
  · rw [hslots, if_pos (by simp; omega)]
  · rw [hm]
    exact Tbl.get?_put_same ..
  · rw [ht, State.sendAs]
    split <;> rfl
  · rw [ht, State.net_sendAs_token _ _ _ _ hr, State.sent_congr (s := s) rfl rfl rfl]
    simp only [hx, hgrant, hcx]
    rfl

/-! ## Heap requests (R204, R205) -/

section
variable {s : State} {src c x : Nat} {p : Packet} (hp : s.packet? 2 src c x = some p)
include hp

section
variable {h off : Word} {id : Nat} {w : Issuer} {o : MemOp} (hb : p.body = .hld h off id w) (ho : s.op? id = some o)
include hb ho

theorem execRemoteHeapRequest_element {v : Word}
    (hv : (((s.takePacket 2 src c x).accepted p).cell c).serveHld h off = .ok v) : exec (.remoteHeapRequest src c x) s =
      .next ((((s.takePacket 2 src c x).accepted p).modOp id fun o => { o with result := some v }).sendAnswer c o 0) := by
  have ho' : ((s.takePacket 2 src c x).accepted p).op? id = some o := by rw [State.op?, (got_accepted s 2 src c x p).ops]; exact ho
  change execRemoteHeapRequest src c x s = _
  simp only [execRemoteHeapRequest, hp, hb, ho', hv]

theorem execRemoteHeapRequest_fault {e : FaultCode × Word}
    (he : (((s.takePacket 2 src c x).accepted p).cell c).serveHld h off = .error e) : exec (.remoteHeapRequest src c x) s =
      .next ((((s.takePacket 2 src c x).accepted p).modOp id fun o => { o with fault := some (e.1, e.2, 0) }).sendAnswer c o 0) := by
  have ho' : ((s.takePacket 2 src c x).accepted p).op? id = some o := by rw [State.op?, (got_accepted s 2 src c x p).ops]; exact ho
  change execRemoteHeapRequest src c x s = _
  simp only [execRemoteHeapRequest, hp, hb, ho', he]

end

theorem execRemoteHeapRequest_hst {h off : Word} {w : Issuer} (hb : p.body = .hst h off w) (hf : (s.cell c).fits h = true) :
    exec (.remoteHeapRequest src c x) s = .next (((s.takePacket 2 src c x).accepted p).opLost w .tileState 0 0) := by
  change execRemoteHeapRequest src c x s = _
  simp only [execRemoteHeapRequest, hp, hb, (got_accepted s 2 src c x p).fits, hf, if_true]

end

theorem Cell.serveHld_ok {d : Cell} {h off : Word} (hf : d.fits h = true) (hs : (d.tile (indexOf h)).sealed = true)
    (ho : off.toNat < (d.tile (indexOf h)).rows * (d.tile (indexOf h)).cols) (hb : off.toNat ∉ (d.tile (indexOf h)).bad) :
    d.serveHld h off = .ok ((d.tile (indexOf h)).els.getD off.toNat 0) := by
  have hb' : (d.tile (indexOf h)).bad.contains off.toNat = false := by
    rw [← Bool.not_eq_true, List.contains_iff_mem]; exact hb
  simp only [Cell.serveHld, hf, hs, hb', Nat.not_le.mpr ho, Bool.not_true, Bool.false_eq_true, if_false]
  rfl

theorem Cell.serveHld_stale {d : Cell} {h : Word} (off : Word) (hf : d.fits h = false) : d.serveHld h off = .error (.handleStale, h) := by
  simp only [Cell.serveHld, hf, Bool.not_false, if_true]

/-- An answer leaves its agent after a change of its operation. -/
theorem sendAnswer_modOp {s g : State} (h : Got s g) {id : Nat} {o : MemOp} (ho : s.op? id = some o) (f : MemOp → MemOp) (c : Nat) :
    let t := (g.modOp id f).sendAnswer c o 0
    { t with net := g.net } = g.modOp id f ∧ t.net = g.net ++
      [s.sent { vn := 3, src := c, dst := o.who.cell, ctx := o.who.ctx, counts := false, body := .answer id 0 o.who }] := by
  have hid : o.id = id := by simpa using List.find?_some ho
  refine ⟨rfl, ?_⟩
  rw [← h.sent, ← hid]
  rfl

/-! ## Replies (R39, R194) -/

theorem State.writeSlot_spec (s : State) (c k : Nat) (v : Word) :
    (s.writeSlot c k v).ops = s.ops ∧ ((s.writeSlot c k v).cell c).ctxs = (s.cell c).ctxs ∧
      ((s.writeSlot c k v).cell c).slots = (s.cell c).slots.put k (.full v) := by
  have hset : ((s.setSlot c k (some (.full v))).cell c).ctxs = (s.cell c).ctxs ∧
      ((s.setSlot c k (some (.full v))).cell c).slots = (s.cell c).slots.put k (.full v) := by
    rw [State.setSlot, State.cell_modCell]; exact ⟨rfl, rfl⟩
  unfold State.writeSlot
  split
  · dsimp only
    split
    · exact ⟨rfl, hset⟩
    · refine ⟨rfl, ?_⟩
      rw [State.pushReady, State.cell_modCell, State.cell_modCell]
      exact hset
  · exact ⟨rfl, hset⟩

section
variable {s : State} {id n : Nat} {o : MemOp} {v : Word} (ho : s.op? id = some o) (hr : o.reply = some v) (hs : o.slot = some n)
include ho hr hs

theorem execProducerReply_eq : exec (.producerReply id) s = .next
    ((((s.orFlags o.who.cell o.who.ctx o.flags).dropOps fun q => q.id == id).writeFrameSlot o.who n v).lowerOut o.who.cell o.who.ctx 1) := by
  change execProducerReply id s = _
  simp only [execProducerReply, ho, hr, hs]

end

/-! ## Wake values and region ids (R221, R224) -/

/-- A packet that has brought a wake value for a port. -/
def wakeFor (c n : Nat) (p : Packet) : Bool := p.dst == c && (p.arrived && match p.body with | .wake m _ _ _ => m == n | _ => false)

/-- A wake value at its port. -/
def State.wakeTo (s : State) (c n x : Nat) (v : Word) : State :=
  if !((s.cell c).wake n).idle && ((s.cell c).wake n).owner != x then s.countCell c 0x19
  else if ((s.cell c).wake n).armed then (s.setWake c n {}).sendTok c ((s.cell c).wake n).cont v ((s.cell c).wake n).tag
  else (if ((s.cell c).wake n).latch.isSome then s.countCell c 0x19 else s).setWake c n { latch := some v, owner := x }

/-- The `Inst` at a context slot is stirred: its last activity is now (R334). -/
def State.stirred (s : State) (c x : Nat) : State :=
  match s.instAt c x with
  | some i => s.modInst i.fn i.id fun i => { i with lastAct := s.ac (i.place.headD 0) }
  | none => s

/-- A wake value taken off the network: its queue's packet is no longer pending, and its `Inst` is stirred. -/
def State.wakeTaken (s : State) (c n x : Nat) (a : Nat × Nat × Nat) : State :=
  ({ s with net := s.net.eraseP (wakeFor c n) }.modQ a.1 a.2.1 fun k =>
    { k with pending := k.pending.filter fun p => p.num != a.2.2 }).stirred c x

theorem State.stirred_spec (s : State) (c x : Nat) : { s.stirred c x with insts := s.insts } = s := by
  unfold State.stirred
  cases s.instAt c x <;> rfl

/-- What taking a wake value off leaves as it was. -/
theorem State.wakeTaken_spec (s : State) (c n x : Nat) (a : Nat × Nat × Nat) :
    { s.wakeTaken c n x a with insts := s.insts, fns := s.fns } = { s with net := s.net.eraseP (wakeFor c n) } := by
  unfold State.wakeTaken
  exact congrArg (fun u : State => { u with fns := s.fns }) (State.stirred_spec _ c x)

theorem execWakeValue_eq {s : State} {c n y : Nat} {p : Packet} {v : Word} {a : Nat × Nat × Nat} (hf : s.net.find? (wakeFor c n) = some p)
    (hb : p.body = .wake n y v a) : exec (.wakeValue c n) s = .next ((s.wakeTaken c n y a).wakeTo c n y v) := by
  change execWakeValue c n s = _
  unfold execWakeValue
  dsimp only
  split
  · next h => exact absurd (h.symm.trans hf) (Option.some_ne_none p).symm
  · next q h =>
    obtain rfl : q = p := Option.some.inj (h.symm.trans hf)
    rw [hb]
    rfl

/-- A packet that has brought a region id to a context. -/
def regionIdFor (c x : Nat) (p : Packet) : Bool :=
  p.vn == 4 && p.dst == c && p.ctx == x && p.arrived && (match p.body with | .regionId _ => true | _ => false)

theorem execRegionIdRecord_eq {s : State} {c x id : Nat} {p : Packet} (hf : s.net.find? (regionIdFor c x) = some p)
    (hb : p.body = .regionId id) (hn : (s.cx c x).regions.get? id = none) : exec (.regionIdRecord c x) s = .next
      ({ s with net := s.net.eraseP (regionIdFor c x) }.modCx c x fun k => { k with regions := k.regions.put id .opened }) := by
  change execRegionIdRecord c x s = _
  unfold execRegionIdRecord
  dsimp only
  split
  · next h => exact absurd (h.symm.trans hf) (Option.some_ne_none p).symm
  · next q h =>
    obtain rfl : q = p := Option.some.inj (h.symm.trans hf)
    rw [hb]
    refine congrArg Host.Outcome.next (State.modCell_congr _ c ?_)
    have hn' : ((s.cell c).cx x).regions.get? id = none := hn
    change (s.cell c).modCx x _ = (s.cell c).modCx x _
    simp only [Cell.modCx, hn', Option.isSome_none, Bool.false_eq_true, if_false]

/-- A packet taken off leaves the network one shorter. -/
theorem length_eraseP_of_find? {α : Type} {l : List α} {f : α → Bool} {a : α} (h : l.find? f = some a) :
    (l.eraseP f).length + 1 = l.length := by
  have hmem := List.mem_of_find?_eq_some h
  rw [List.length_eraseP_of_mem hmem (List.find?_some h)]
  have := List.length_pos_of_mem hmem
  omega

/-- A wake value at a port that is not armed is latched, or is discarded at a port of another context; the cell keeps its lane. -/
theorem State.wakeTo_unarmed {s : State} {c n x : Nat} (v : Word) (ha : ((s.cell c).wake n).armed = false) :
    ∃ f : Cell → Cell, s.wakeTo c n x v = s.modCell c f ∧ (f (s.cell c)).lane = (s.cell c).lane ∧
      ((((s.cell c).wake n).idle = true ∨ ((s.cell c).wake n).owner = x) →
        (f (s.cell c)).wakes = (s.cell c).wakes.set {} n { latch := some v, owner := x }) ∧
      (((s.cell c).wake n).idle = false → ((s.cell c).wake n).owner ≠ x → (f (s.cell c)).wakes = (s.cell c).wakes ∧
        (f (s.cell c)).perf.getD 0x19 0 = (s.cell c).perf.getD 0x19 0 + 1) := by
  unfold State.wakeTo
  rw [ha]
  by_cases hother : ((s.cell c).wake n).idle = false ∧ ((s.cell c).wake n).owner ≠ x
  · rw [if_pos (by simpa using hother)]
    refine ⟨_, rfl, rfl, fun h => ?_, fun _ _ => ⟨rfl, Tbl.getD_put_same ..⟩⟩
    rcases h with h | h
    · exact absurd hother.1 (by simp [h])
    · exact absurd h hother.2
  · rw [if_neg (by simpa using hother), if_neg Bool.false_ne_true]
    split
    · exact ⟨_, State.modCell_modCell .., rfl, fun _ => rfl, fun h1 h2 => absurd ⟨h1, h2⟩ hother⟩
    · exact ⟨_, rfl, rfl, fun _ => rfl, fun h1 h2 => absurd ⟨h1, h2⟩ hother⟩

/-- A wake value at an armed port of its context disarms it and goes to its continuation. -/
theorem State.wakeTo_armed {s : State} {c n x : Nat} (v : Word) (ha : ((s.cell c).wake n).armed = true)
    (ho : ((s.cell c).wake n).owner = x) :
    s.wakeTo c n x v = (s.modCell c fun d => { d with wakes := d.wakes.del n }).sendTok c ((s.cell c).wake n).cont v
      ((s.cell c).wake n).tag := by
  unfold State.wakeTo
  rw [if_neg (by simp [ho]), if_pos ha]
  rfl

/-- A token of no operation's stands at the end of the network, on its way to its vcell or to the front end. -/
theorem State.net_sendTok (s : State) (c : Nat) (cont val tag : Word) :
    (s.sendTok c cont val tag).net = s.net ++ [s.sent {
      vn := if isReturn cont then 4 else 0
      src := c
      ctx := ctxOf cont
      dst := if isReturn cont then Config.frontEnd else (s.cx c (ctxOf cont)).place.getD (vcellOf cont) 0
      body := if isReturn cont then .ret { cont := cont, val := val, tag := tag } else .token { cont := cont, val := val, tag := tag } }] := by
  rw [State.sendTok, State.sendAs, ← State.place_raiseOut s c (ctxOf cont) 1]
  cases isReturn cont <;> rfl

end Sys2Proof.Machine
end

section
/-! PROOFS. The statement O52. -/

namespace Sys2Proof.Machine

/-- A reply's slot written and touched: the operation's end leaves the operations, the counters and the slots so. -/
theorem replied_leaves {s : State} {c x id n : Nat} {v : Word} (fl : BitVec 7) :
    let u := (s.orFlags c x fl).dropOps fun q => q.id == id
    let t := ((u.writeSlot c n v).touch c n).lowerOut c x 1
    t.ops = s.ops.filter (fun q => q.id != id) ∧ (t.cx c x).outstanding = (s.cx c x).outstanding - 1 ∧
      (t.cx c x).ctl.flags = (s.cx c x).ctl.flags ||| fl ∧ (t.cell c).slots = (s.cell c).slots.put n (.full v) := by
  intro u t
  obtain ⟨hrest, hcell, -, hcx, -⟩ := State.orFlags_spec s c x fl
  obtain ⟨hops, hctxs, hslots⟩ := State.writeSlot_spec u c n v
  have hu : u.cell c = (s.orFlags c x fl).cell c := State.cell_dropOps ..
  have htcx : t.cx c x = { (s.orFlags c x fl).cx c x with outstanding := ((s.orFlags c x fl).cx c x).outstanding - 1 } := by
    have h : ((u.writeSlot c n v).touch c n).cx c x = (s.orFlags c x fl).cx c x := by
      rw [State.touch, State.cx_modCell]
      refine (congrArg (fun l : Tbl Ctx => l.getD x {}) hctxs).trans ?_
      rw [hu]; rfl
    rw [State.cx_lowerOut, h]
  refine ⟨?_, ?_, ?_, ?_⟩
  · refine hops.trans ((State.dropOps_ops ..).trans ?_)
    rw [(congrArg State.ops hrest :)]
    rfl
  · rw [htcx, hcx]
  · rw [htcx, hcx]
  · have h : (t.cell c).slots = ((u.writeSlot c n v).cell c).slots := by
      rw [State.cell_lowerOut, State.touch, State.cell_modCell]; rfl
    rw [h, hslots, hu]
    exact (congrArg (fun d : Cell => d.slots.put n (.full v)) hcell :)

@[simp] theorem State.returnShadows_gated (s : State) (o : MemOp) : (s.returnShadows o).gated = s.gated := by
  unfold State.returnShadows; apply foldl_keeps State.gated; intros; rfl

@[simp] theorem State.dropOps_gated (s : State) (p : MemOp → Bool) : (s.dropOps p).gated = s.gated :=
  foldl_keeps State.gated _ State.returnShadows_gated _ _

theorem State.ac_congr {s t : State} (hc : t.clock = s.clock) (hg : t.gated = s.gated) (c : Nat) : t.ac c = s.ac c := by
  unfold State.ac State.dieAc; rw [hc, hg]

/-- What a reply to a slot leaves of the records and of the ready queue. -/
theorem replied_wakes {s : State} {c x id n : Nat} {v : Word} (fl : BitVec 7) :
    let u := (s.orFlags c x fl).dropOps fun q => q.id == id
    let t := ((u.writeSlot c n v).touch c n).lowerOut c x 1
    (isDeferred (s.slot c n) = false → (t.cell c).ready = (s.cell c).ready) ∧
      (∀ r ia pr g key q, s.slot c n = some (.deferred r ia pr g) → (s.cell c).waiter n = some (key, q) →
        (t.cell c).recs = (s.cell c).recs.put key { q with value := some v } ∧
        (t.cell c).ready = (s.cell c).ready ++ [{ cls := pr, since := s.ac c, body := .resumed key }]) := by
  intro u t
  obtain ⟨hrest, hcell, -, -, -⟩ := State.orFlags_spec s c x fl
  have hu : u.cell c = (s.orFlags c x fl).cell c := State.cell_dropOps ..
  have hslot : u.slot c n = s.slot c n := by
    rw [State.slot, hu]; exact (congrArg (fun d : Cell => d.slots.get? n) hcell :)
  have hwaiter : (u.cell c).waiter n = (s.cell c).waiter n := by rw [hu]; exact (congrArg (fun d : Cell => d.waiter n) hcell :)
  have hready : (u.cell c).ready = (s.cell c).ready := by rw [hu]; exact (congrArg Cell.ready hcell :)
  have hrecs : (u.cell c).recs = (s.cell c).recs := by rw [hu]; exact (congrArg Cell.recs hcell :)
  have hac : u.ac c = s.ac c :=
    (State.ac_congr (State.dropOps_clock ..) (State.dropOps_gated ..) c).trans
      (State.ac_congr (congrArg State.clock hrest :) (congrArg State.gated hrest :) c)
  have ht : (t.cell c).ready = ((u.writeSlot c n v).cell c).ready ∧ (t.cell c).recs = ((u.writeSlot c n v).cell c).recs := by
    rw [State.cell_lowerOut, State.touch, State.cell_modCell]; exact ⟨rfl, rfl⟩
  rw [ht.1, ht.2]
  refine ⟨fun h => ?_, fun r ia pr g key q h hw => ?_⟩
  · rw [State.writeSlot_plain u c n v (by rw [hslot]; exact h), State.setSlot, State.cell_modCell]
    exact hready
  · rw [State.writeSlot_deferred u c n v r ia pr g key q (hslot.trans h) (hwaiter.trans hw), State.pushReady, State.cell_modCell,
      State.cell_modCell, State.setSlot, State.cell_modCell]
    refine ⟨congrArg (fun l : Tbl SuspRec => l.put key { q with value := some v }) hrecs, ?_⟩
    change (u.cell c).ready ++ [{ cls := pr, since := u.ac c, body := .resumed key }] = _
    rw [hready, hac]

/-- Arrivals in range, at a barrier that is the context's own or idle and that they do not fire. -/
theorem State.arrive_quiet {s : State} {c n k : Nat} {w : Issuer} (h1 : 0 < k) (h2 : k < 65536)
    (hm : ((s.cell c).barrier n).idle = true ∨ ((s.cell c).barrier n).owner = w.ctx)
    (hsum : ((s.cell c).barrier n).arrivals.toNat + k < 2 ^ 32)
    (hq : ((s.cell c).barrier n).armed = false ∨ ((s.cell c).barrier n).arrivals.toNat + k < ((s.cell c).barrier n).target.toNat) :
    s.arrive c n w k none = s.modCell c fun d => { d with barriers := d.barriers.set {} n (((s.cell c).barrier n).added k w.ctx) } := by
  have hfire : ∀ m, (((s.cell c).barrier n).added k w.ctx).fire m = ([], ((s.cell c).barrier n).added k w.ctx) := fun m =>
    Barrier.fire_quiet m (hq.imp_right fun h => by rw [Barrier.added_toNat w.ctx hsum]; exact h)
  unfold State.arrive
  rw [if_neg (by simp; omega)]
  refine (State.owned_mine _ hm).trans ((if_neg (by omega)).trans ?_)
  unfold Barrier.added at hfire ⊢
  unfold State.runBarrier
  rw [hfire]
  rfl

/-- Settles O52: each event by the equation of its case, a packet taken in changing only the network and counters. -/
theorem stallsEndAndMessagesArrive : Obligations.StallsEndAndMessagesArrive := by
  unfold Obligations.StallsEndAndMessagesArrive
  intro s c src x d u k got answered
  have hgot : ∀ vn p, Got s (got vn p) := fun vn p => got_accepted s vn src c x p
  refine ⟨fun i h hi => execLaneStallEnd_net h hi, ?_, ?_, ?_, ?_, ?_, ?_, ?_, ?_, ?_, ?_, ?_, ?_, ?_, ?_, ?_, ?_⟩
  · intro r h n hs hp
    refine ⟨execLaneStallEnd_blocks hs, ?_⟩
    rintro rfl
    exact ⟨_, execLaneStallEnd_zeroed hs, regsOnly_setX u r h hp⟩
  · intro i hs hp
    exact ⟨execLaneStallEnd_written hs, fun hw hl => ⟨_, execLaneStallEnd_seals hs hw hl, regsOnly_modTile (s := u) i _ hp⟩⟩
  · intro r id hs hp all
    refine ⟨fun h => execLaneStallEnd_unrecorded hs ?_, fun h => ⟨_, execLaneStallEnd_opens hs (State.recorded_iff.mpr h), regsOnly_setX u r _ hp⟩⟩
    rw [← Bool.not_eq_true, State.recorded_iff]
    exact h
  · intro m hs hp q
    exact ⟨execEngineQueueRoom_full hs, fun h => ⟨_, execEngineQueueRoom_room hs h, enqueue_step1 c m hp⟩⟩
  · intro p level r q hm hb hl hp
    refine ⟨execFallocRequest_queued hm hb hl hp, fun b res hs hq hx hr => ⟨_, execFallocRequest_granted hm hb hl hp hs hq, ?_⟩⟩
    have hg := hgot 0 p
    generalize hmd : ((got 0 p).modCx c x fun k => { k with pools := k.pools.put level q }) = m
    have hslot : ∀ j, m.slot c j = s.slot c j := fun j => by
      rw [← hmd, State.slot, State.modCx, State.cell_modCell, Cell.modCx_slots, hg.slots]; rfl
    have hcx : m.cx c x = { (got 0 p).cx c x with pools := ((got 0 p).cx c x).pools.put level q } := hmd ▸ State.cx_modCx ..
    have hnet : m.net = (got 0 p).net := hmd ▸ rfl
    have hmem : m.mem = s.mem := hmd ▸ hg.mem
    have hsent : ∀ w, m.sent w = s.sent w := fun w => hmd ▸ State.sent_congr hg.clock hg.gated hg.parts w
    obtain ⟨h1, h2, h3, h4, h5, h6⟩ := granted_leaves (b := b) (res := res) (s := m) (r := r)
      (by rw [hcx]; exact Tbl.get?_put_same ..) hx hr
    refine ⟨h1, h2, fun j hj => (h3 j hj).trans (hslot j), h4, h5.trans hmem, h6.trans ?_⟩
    rw [hnet, hsent, hcx]
    simp only [hg.place, hg.vcell]
    rfl
  · intro p b w hm hb mine
    have hg := hgot 0 p
    refine ⟨execFfreeMessage_mine hm hb, fun f hl hf => ?_, fun hl hf => ?_⟩
    · refine ⟨_, _, frameGone_dropFrame (got 0 p) c x b f, granted_serveLevels _ c x, ?_⟩
      have hf' : ((got 0 p).cx c x).frames.get? b = some f := by rw [hg.frames]; exact hf
      have hd : ((got 0 p).cell c).lowestDeferred b (clsSlots f.cls) = d.lowestDeferred b (clsSlots f.cls) := by
        unfold Cell.lowestDeferred; rw [hg.slots]
      have hex := execFfreeMessage_frees hm hb hl
      cases hlow : d.lowestDeferred b (clsSlots f.cls) with
      | none => exact hex.trans (congrArg Host.Outcome.next (State.freeLater_quiet hf' (hd.trans hlow)))
      | some j => exact hex.trans (congrArg Host.Outcome.next (State.freeLater_deferred hf' (hd.trans hlow)))
    · rw [execFfreeMessage_frees hm hb hl, State.freeLater_gone (by rw [hg.frames]; exact hf)]
  · intro p h n up w hm hb e excess
    have hg := hgot 0 p
    have htile : ((got 0 p).cell c).tile (indexOf h) = e := hg.tile c (indexOf h)
    refine ⟨fun he => execCountMessage_error (e := (.shape, BitVec.ofNat 64 n)) hm hb (Cell.applyCount_excess he),
      fun he hf => execCountMessage_error (e := (.handleStale, h)) hm hb (Cell.applyCount_stale he ((hg.fits c h).trans hf)), fun he hf hs => ?_⟩
    have hf' := (hg.fits c h).trans hf
    have hs' : (((got 0 p).cell c).tile (indexOf h)).sealed = true := htile.symm ▸ hs
    have hgoes : ∀ (b : Cell) (f : Tile), ((got 0 p).cell c).applyCount h n up = .ok b → b.tile (indexOf h) = f →
        (∀ j, j ≠ indexOf h → b.tile j = ((got 0 p).cell c).tile j) →
        ∃ t, exec (.countMessage src c x) s = .next t ∧ OnlyAt (got 0 p) c t ∧ (t.cell c).tile (indexOf h) = f ∧
          ∀ j, j ≠ indexOf h → (t.cell c).tile j = d.tile j := fun b f hok htf hother => by
      refine ⟨_, execCountMessage_ok hm hb hok, onlyAt_modCell .., ?_, fun j hj => ?_⟩
      · rw [State.cell_modCell]; exact htf
      · rw [State.cell_modCell]; exact (hother j hj).trans (hg.tile c j)
    refine ⟨fun hu hc => ?_, fun hu hc => ?_, fun hu hc => ?_⟩
    · refine hgoes _ _ (Cell.applyCount_up he hf' hs' hu (by rw [htile]; exact hc)) ?_ fun j hj => Cell.tile_modTile_other _ _ hj
      rw [Cell.tile_modTile, htile]
    · refine hgoes _ _ (Cell.applyCount_down he hf' hs' hu) ?_ fun j hj => ?_
      · rw [Cell.dropRef_of_more (by rw [htile]; exact hc), Cell.tile_modTile, htile]
      · rw [Cell.dropRef_of_more (by rw [htile]; exact hc), Cell.tile_modTile_other _ _ hj]
    · have hlast : ((got 0 p).cell c).dropRef (indexOf h) = ((got 0 p).cell c).freeTile (indexOf h) := if_pos (by rw [htile]; exact hc)
      refine hgoes _ _ (Cell.applyCount_down he hf' hs' hu) ?_ fun j hj => ?_
      · rw [hlast, Cell.tile_freeTile (Cell.live_of_fits hf'), htile]
      · rw [hlast, Cell.tile_freeTile_other hj]
  · intro hz
    have h : exec (.heapBlockZero c) s = _ := congrArg Host.Outcome.next (if_neg (Nat.ne_of_gt hz))
    refine ⟨_, h, onlyAt_modCell .., ?_, ?_, fun ho => ?_, fun ho => ?_⟩
    all_goals rw [State.cell_modCell]
    · exact ⟨if_pos ho, congrArg (· - 1) ho⟩
    · exact ⟨if_neg (Nat.ne_of_gt ho), rfl⟩
  · intro p h off id w o hp hb ho hf hs hoff hbad
    have hg := hgot 2 p
    refine ⟨_, execRemoteHeapRequest_element hp hb ho (Cell.serveHld_ok ((hg.fits c h).trans hf) ?_ ?_ ?_), ?_⟩
    · rw [hg.tile]; exact hs
    · rw [hg.tile]; exact hoff
    · rw [hg.tile]; exact hbad
    · rw [hg.tile]
      exact sendAnswer_modOp hg ho _ c
  · intro p h off id w o hp hb ho hf
    have hg := hgot 2 p
    exact ⟨_, execRemoteHeapRequest_fault hp hb ho (Cell.serveHld_stale off ((hg.fits c h).trans hf)), sendAnswer_modOp hg ho _ c⟩
  · exact fun p h off w hp hb hf => execRemoteHeapRequest_hst hp hb hf
  · rintro id o v n f ho hr hs rfl rfl hfr hn
    have hfr' : (((s.orFlags o.who.cell o.who.ctx o.flags).dropOps fun q => q.id == id).cx o.who.cell o.who.ctx).frames.get? o.who.base =
        some f := by
      rw [State.cx_dropOps, (State.orFlags_spec s o.who.cell o.who.ctx o.flags).2.2.2.1]; exact hfr
    refine ⟨_, execProducerReply_eq ho hr hs, ?_⟩
    rw [State.writeFrameSlot_live _ _ _ _ f hfr' hn]
    obtain ⟨h1, h2, h3, h4⟩ := replied_leaves (s := s) (c := o.who.cell) (x := o.who.ctx) (id := id) (n := n) (v := v) o.flags
    exact ⟨h1, h2, h3, h4, replied_wakes o.flags⟩
  · rintro id o v n ho hr hs rfl rfl hfr
    rw [execProducerReply_eq ho hr hs, State.writeFrameSlot_freed]
    rw [State.cx_dropOps, (State.orFlags_spec s o.who.cell o.who.ctx o.flags).2.2.2.1]
    exact hfr
  · intro p i n r w hm hb q
    have hg := hgot 0 p
    have hbar : ((got 0 p).cell c).barrier i = q := congrArg (fun t : Tbl Barrier => t.getD i {}) (hg.barriers c)
    refine ⟨fun hn => ?_, fun h1 h2 ho hsum hq hr => ?_⟩
    · rw [execBarrierMessage_arrives hm hb, State.arrive_shape r hn]
    · rw [execBarrierMessage_arrives hm hb, hr, State.arrive_quiet h1 h2 (by rw [hbar]; exact ho) (by rw [hbar]; exact hsum)
        (by rw [hbar]; exact hq), hbar]
      rfl
  · intro n p y v a hf hb q seen
    have hf' : s.net.find? (wakeFor c n) = some p := hf
    have hspec := State.wakeTaken_spec s c n y a
    have hcells : (s.wakeTaken c n y a).cells = s.cells := (congrArg State.cells hspec :)
    have hcell : ∀ m, (s.wakeTaken c n y a).cell m = s.cell m := State.cell_congr hcells
    have hnet : (s.wakeTaken c n y a).net = s.net.eraseP (wakeFor c n) := (congrArg State.net hspec :)
    have hwake : ((s.wakeTaken c n y a).cell c).wake n = q := congrArg (fun e : Cell => e.wake n) (hcell c)
    refine ⟨fun ha => ?_, fun ha ho => ?_⟩
    · obtain ⟨g, hto, hl, hmine, hother⟩ := State.wakeTo_unarmed (s := s.wakeTaken c n y a) (c := c) (n := n) (x := y) v (by rw [hwake]; exact ha)
      rw [hwake] at hmine hother
      rw [hcell] at hl hmine hother
      refine ⟨_, execWakeValue_eq hf' hb, ?_⟩
      rw [hto]
      refine ⟨?_, (congrArg State.mem hspec :), fun m hm => ?_, ?_, ?_, ?_⟩
      · exact (congrArg (fun l : List Packet => l.length + 1) hnet).trans (length_eraseP_of_find? hf')
      · rw [State.cell_modCell_other _ _ _ _ hm, hcell]
      · rw [State.cell_modCell, hcell]; exact hl
      · rw [State.cell_modCell, hcell]; exact hmine
      · rw [State.cell_modCell, hcell]; exact hother
    · refine ⟨_, execWakeValue_eq hf' hb, ?_⟩
      rw [State.wakeTo_armed v (by rw [hwake]; exact ha) (by rw [hwake]; exact ho), hwake]
      generalize hmd : ((s.wakeTaken c n y a).modCell c fun d => { d with wakes := d.wakes.del n }) = m
      have hplace : ∀ z, (m.cx c z).place = (s.cx c z).place := fun z => by
        rw [← hmd, State.cx_modCell, hcell]; rfl
      have hsent : ∀ w, m.sent w = s.sent w := fun w =>
        hmd ▸ State.sent_congr (congrArg State.clock hspec :) (congrArg State.gated hspec :) (congrArg State.parts hspec :) w
      refine ⟨?_, m.net, ?_⟩
      · refine (congrArg Cell.wakes (State.cell_sendAs_eq m c { cont := q.cont, val := v, tag := q.tag } none none c) :).trans ?_
        rw [← hmd, State.cell_modCell, hcell]
      · rw [State.net_sendTok, hsent, hplace]
  · intro p id hf hb hn
    have hf' : s.net.find? (regionIdFor c x) = some p := hf
    refine ⟨_, execRegionIdRecord_eq hf' hb hn, State.cx_modCx .., length_eraseP_of_find? hf', fun m hm => ?_⟩
    exact State.cell_modCell_other _ _ _ _ hm

end Sys2Proof.Machine
end

section
/-! PROOFS. Loads entered on cells (R54, R56, R306, R307): cells of a placement are picked once each, and what each context holds after. -/

namespace Sys2Proof.Machine

/-! ## The cells of a partition -/

theorem bayOf_cellAt {die row col : Nat} (hr : row < 16) (hc : col < 16) : bayOf (cellAt die row col) = die * 16 + row / 4 * 4 + col / 4 := by
  unfold bayOf cellAt
  have hdie : (die * 256 + row * 16 + col) / 256 = die := by omega
  have hrow : (die * 256 + row * 16 + col) / 16 % 16 = row := by omega
  have hcol : (die * 256 + row * 16 + col) % 16 = col := by omega
  rw [hdie, hrow, hcol]

theorem bayOf_of_mem {b c : Nat} (h : c ∈ bayCells b) : bayOf c = b := by
  simp only [bayCells, List.mem_map, List.mem_range] at h
  obtain ⟨i, hi, rfl⟩ := h
  rw [bayOf_cellAt (by omega) (by omega)]
  omega

theorem nodup_bayCells (b : Nat) : (bayCells b).Nodup := by
  refine List.Nodup.map_on (fun i hi j hj h => ?_) List.nodup_range
  simp only [List.mem_range, cellAt] at hi hj h
  omega

/-- A placement may use each cell of a partition once. -/
theorem State.nodup_usableCells (s : State) (p : Part) : (s.usableCells p).Nodup := by
  refine List.Nodup.filter _ (List.nodup_flatMap.mpr ⟨fun b _ => nodup_bayCells b, ?_⟩)
  refine List.Pairwise.imp (fun {a b} (hab : a ≠ b) => ?_) (List.Nodup.filter _ List.nodup_range)
  intro c hc hc'
  exact hab ((bayOf_of_mem hc).symm.trans (bayOf_of_mem hc'))

/-- The cells that a placement picks: some of those offered, in order, each with its context slot free. -/
theorem State.pick_spec {s : State} {tenant : BitVec 16} {x : Nat} : ∀ {cs : List Nat} {gs : List (Option Seg)} {r : List (Nat × Nat)},
    s.pick tenant x cs gs = some r →
      (r.map (·.1)).Sublist cs ∧ r.length = gs.length ∧ ∀ c, c ∈ r.map (·.1) → (s.cx c x).open? tenant = true := by
  intro cs
  induction cs with
  | nil =>
    intro gs r h
    cases gs with
    | nil => cases h; exact ⟨List.Sublist.refl _, rfl, fun c hc => absurd hc List.not_mem_nil⟩
    | cons g gs => cases h
  | cons c cs ih =>
    intro gs r h
    cases gs with
    | nil => cases h; exact ⟨List.nil_sublist _, rfl, fun c hc => absurd hc List.not_mem_nil⟩
    | cons g gs =>
      rw [State.pick] at h
      split at h
      · obtain ⟨h1, h2, h3⟩ := ih h
        exact ⟨h1.cons c, h2, h3⟩
      · next a ha =>
        split at h
        · next r' hr' =>
          cases h
          obtain ⟨h1, h2, h3⟩ := ih hr'
          refine ⟨h1.cons_cons c, congrArg (· + 1) h2, fun d hd => ?_⟩
          rcases List.mem_cons.mp hd with rfl | hd
          · by_contra hopen
            rw [if_neg hopen] at ha
            cases ha
          · exact h3 d hd
        · cases h

theorem Ctx.open?_iff {k : Ctx} {tenant : BitVec 16} :
    k.open? tenant = true ↔ k.inst = none ∧ (k.released = true → k.tenant = tenant) := by
  rw [Ctx.open?, Bool.and_eq_true, Option.isNone_iff_eq_none, Bool.or_eq_true, Bool.not_eq_true', beq_iff_eq]
  cases k.released <;> simp

/-! ## Steps that each change one cell -/

section
variable {α : Type} {f : State → α → State} {key : α → Nat} (hother : ∀ s e d, d ≠ key e → (f s e).cell d = s.cell d)
include hother

theorem foldl_cell_other {c : Nat} (l : List α) (s : State) (h : c ∉ l.map key) : (l.foldl f s).cell c = s.cell c := by
  induction l generalizing s with
  | nil => rfl
  | cons e l ih =>
    rw [List.map_cons, List.mem_cons, not_or] at h
    rw [List.foldl_cons, ih _ h.2, hother s e c h.1]

/-- A cell that one step of several changes is as that step leaves it. -/
theorem foldl_cell_at (l : List α) (s : State) (hnd : (l.map key).Nodup) {e : α} (he : e ∈ l) :
    ∃ u : State, u.cell (key e) = s.cell (key e) ∧ (l.foldl f s).cell (key e) = (f u e).cell (key e) := by
  induction l generalizing s with
  | nil => cases he
  | cons a l ih =>
    rw [List.map_cons, List.nodup_cons] at hnd
    rcases List.mem_cons.mp he with rfl | he
    · exact ⟨s, rfl, foldl_cell_other hother l (f s e) hnd.1⟩
    · have hne : key e ≠ key a := fun h => hnd.1 (h ▸ List.mem_map_of_mem he)
      obtain ⟨u, hu, hf⟩ := ih (f s a) hnd.2 he
      exact ⟨u, hu.trans (hother s a _ hne), hf⟩

/-- What each of several steps makes true of its cell holds of every cell that one of them has changed. -/
theorem foldl_cell_all (P : Nat → Cell → Prop) (l : List α) (hP : ∀ s e, e ∈ l → P (key e) ((f s e).cell (key e))) (s : State) {c : Nat}
    (hc : c ∈ l.map key) : P c ((l.foldl f s).cell c) := by
  induction l generalizing s with
  | nil => cases hc
  | cons a l ih =>
    have hP' : ∀ s e, e ∈ l → P (key e) ((f s e).cell (key e)) := fun s e he => hP s e (List.mem_cons_of_mem _ he)
    by_cases hin : c ∈ l.map key
    · exact ih hP' (f s a) hin
    · obtain rfl : c = key a := (List.mem_cons.mp hc).resolve_right hin
      rw [List.foldl_cons, foldl_cell_other hother l _ hin]
      exact hP s a (List.mem_cons_self ..)

end

/-! ## Cupboards (R15, R306) -/

theorem trimCup_sublist (n : Nat) (ms : List CupImage) : (trimCup n ms).Sublist ms := by
  induction ms with
  | nil => exact List.Sublist.refl _
  | cons m ms ih =>
    rw [trimCup]
    split
    · exact List.Sublist.refl _
    · exact ih.cons m

theorem State.stockCup_held {s : State} {die : Nat} {tenant : BitVec 16} {image : Nat} {g : Seg} {n : CupImage}
    (h : s.cupImage die tenant image g = some n) : s.stockCup die tenant image g = s := if_pos (by rw [h]; rfl)

/-- A segment's image that the Cupboard did not hold is there after it was stocked. -/
theorem State.cupImage_stockCup {s : State} {die : Nat} {tenant : BitVec 16} {image : Nat} {g : Seg}
    (h : s.cupImage die tenant image g = none) : (s.stockCup die tenant image g).cupImage die tenant image g =
      some { tenant := tenant, image := image, seg := g.id, code := g.code } := by
  rw [State.stockCup, if_neg (by simp [h])]
  unfold State.cupImage at h ⊢
  dsimp only
  rw [Tbl.getD_put_same, List.find?_append, List.find?_eq_none.mpr]
  · simp
  · exact fun m hm => List.find?_eq_none.mp h m ((trimCup_sublist _ _).subset hm)

theorem State.segNow_id (s : State) (i : Inst) (g : Seg) : (s.segNow i g).id = g.id := by
  unfold State.segNow
  dsimp only
  split
  · rfl
  · split
    · rfl
    · split <;> rfl

theorem State.cupImage_congr (s : State) (die : Nat) (tenant : BitVec 16) (image : Nat) {g h : Seg} (hid : g.id = h.id) :
    s.cupImage die tenant image g = s.cupImage die tenant image h := by unfold State.cupImage; rw [hid]

theorem State.fetchSeg_held {s : State} {i : Inst} {tenant : BitVec 16} {die : Nat} {g : Seg} {n : CupImage}
    (h : s.cupImage die tenant i.image g = some n) : s.fetchSeg i tenant die g = (s, n.code) := by
  have h' : s.cupImage die tenant i.image (s.segNow i g) = some n := (s.cupImage_congr _ _ _ (s.segNow_id i g)).trans h
  simp only [State.fetchSeg, State.stockCup_held h', State.cupCode, h, Option.map_some, Option.getD_some]

theorem State.fetchSeg_stocked {s : State} {i : Inst} {tenant : BitVec 16} {die : Nat} {g : Seg}
    (h : s.cupImage die tenant i.image g = none) : (s.fetchSeg i tenant die g).2 = (s.segNow i g).code ∧
      ∃ n, (s.fetchSeg i tenant die g).1.cupImage die tenant i.image g = some n ∧ n.code = (s.segNow i g).code := by
  have h' : s.cupImage die tenant i.image (s.segNow i g) = none := (s.cupImage_congr _ _ _ (s.segNow_id i g)).trans h
  have hst := (State.cupImage_congr _ _ _ _ (s.segNow_id i g)).symm.trans (State.cupImage_stockCup h')
  refine ⟨?_, _, hst, rfl⟩
  rw [State.fetchSeg, State.cupCode]
  dsimp only
  rw [hst]
  rfl

/-- A fetch of a segment changes Cupboards only. -/
theorem State.fetchSeg_rest (s : State) (i : Inst) (tenant : BitVec 16) (die : Nat) (g : Seg) :
    { (s.fetchSeg i tenant die g).1 with cupboards := s.cupboards } = s := by
  change { s.stockCup die tenant i.image (s.segNow i g) with cupboards := s.cupboards } = s
  unfold State.stockCup
  split <;> rfl

/-! ## Contexts loaded (R132, R306) -/

/-- A context as a load leaves it, but for the image that comes ahead. -/
structure Loaded (i : Inst) (p : Part) (x v : Nat) (place : List Nat) (seg : Option Seg) (d : Cell) (k : Ctx) : Prop where
  inst : k.inst = some (i.fn, i.id)
  part : k.part = i.part
  tenant : k.tenant = p.tenant
  vcell : k.vcell = v
  place : k.place = place
  ctl : k.ctl = { prio := BitVec.ofNat 2 i.prio }
  times : k.times = i.times.getD v 0
  seg : ∀ g, seg = some g → k.areaSize = g.area ∧ k.logSize = g.log ∧ k.spillCap = g.spill / 32 ∧
    (k.resident = true ↔ (d.evict x k.image.length (List.range 8)).isSome = true)

/-- A context of an `Inst` as a load begins it, before its segment (R132, R306). -/
def State.newCtx (s : State) (i : Inst) (p : Part) (v c : Nat) (place : List Nat) : Ctx where
  inst := some (i.fn, i.id)
  part := i.part
  tenant := p.tenant
  vcell := v
  place := place
  ctl := { prio := BitVec.ofNat 2 i.prio }
  loadedAt := s.ac c
  times := i.times.getD v 0

/-- A cell with a segment loaded into a context: other images leave where its codelets need room. -/
def Cell.loadSeg (d : Cell) (x : Nat) (k : Ctx) (g : Seg) (start log : Nat) (code : List IWord) : Cell :=
  ((d.evict x code.length (List.range 8)).getD d).modCx x fun _ => { k with
    image := code
    resident := (d.evict x code.length (List.range 8)).isSome
    areaStart := start
    areaSize := g.area
    pools := g.pools' start
    spillCap := g.spill / 32
    log := log
    logSize := g.log }

/-- The sub-logs of a context set on some stacks. -/
def State.setSubs (s : State) (sts : List Nat) (log : Nat) (f : SubLog → SubLog) : State := sts.foldl (fun s st => s.modSub st log f) s

theorem State.modSub_rest (s : State) (i key : Nat) (f : SubLog → SubLog) (h : Vector Stack 16) :
    { s.modSub i key f with hbm := h } = { s with hbm := h } := by
  unfold State.modSub State.modStack
  split <;> rfl

theorem State.setSubs_rest (s : State) (sts : List Nat) (log : Nat) (f : SubLog → SubLog) : { s.setSubs sts log f with hbm := s.hbm } = s :=
  foldl_keeps (fun u : State => { u with hbm := s.hbm }) (fun (s : State) st => s.modSub st log f)
    (fun _ _ => State.modSub_rest ..) sts s

theorem State.setSubs_cells (s : State) (sts : List Nat) (log : Nat) (f : SubLog → SubLog) : (s.setSubs sts log f).cells = s.cells :=
  (congrArg State.cells (s.setSubs_rest sts log f) :)

section
variable (s : State) (i : Inst) (p : Part) (x v c start : Nat) (place : List Nat) (seg : Option Seg) (ring : Option Nat)
  (ahead : Option (List IWord))

/-- A segment is loaded from a state in which its codelets are in the Cupboard and a serial number has been used. -/
theorem State.loadCtx_seg (g : Seg) : ∃ (u : State) (code : List IWord) (sts : List Nat) (log : Nat) (f : SubLog → SubLog),
    { u with cupboards := s.cupboards, serial := s.serial } = s ∧
      s.loadCtx i p x v c start place (some g) ring ahead =
        (u.modCell c fun d => d.loadSeg x (u.newCtx i p v c place) g start log code).setSubs sts log f := by
  refine ⟨(s.fetchSeg i p.tenant (dieOf c) g).1.fresh.2, ahead.getD (s.fetchSeg i p.tenant (dieOf c) g).2,
    List.range 16, 0x20000 + (s.fetchSeg i p.tenant (dieOf c) g).1.serial,
    fun l => { l with size := g.log, base := ring, fn := i.fn, src := BitVec.ofNat 16 (v * 8 + x), owner := some (c, x), inst := (i.fn, i.id) },
    (congrArg (fun u : State => { u with serial := s.serial }) (s.fetchSeg_rest i p.tenant (dieOf c) g) :), ?_⟩
  refine congrArg (fun w : State => w.setSubs (List.range 16) (0x20000 + (s.fetchSeg i p.tenant (dieOf c) g).1.serial) _)
    ((State.modCell_modCell ..).trans (State.modCell_congr _ c rfl))

/-- Loading a context changes its cell, Cupboards, serial numbers and sub-logs. -/
theorem State.loadCtx_rest : { s.loadCtx i p x v c start place seg ring ahead with
    cells := s.cells
    cupboards := s.cupboards
    serial := s.serial
    hbm := s.hbm } = s := by
  cases seg with
  | none => rfl
  | some g =>
    obtain ⟨u, code, sts, log, f, hu, h⟩ := s.loadCtx_seg i p x v c start place ring ahead g
    rw [h]
    have h1 := congrArg (fun w : State => { w with cells := s.cells, cupboards := s.cupboards, serial := s.serial, hbm := s.hbm })
      (State.setSubs_rest (u.modCell c fun d => d.loadSeg x (u.newCtx i p v c place) g start log code) sts log f)
    exact h1.trans (congrArg (fun w : State => { w with cells := s.cells, hbm := s.hbm }) hu)

theorem State.loadCtx_cell_other {d : Nat} (h : d ≠ c) : (s.loadCtx i p x v c start place seg ring ahead).cell d = s.cell d := by
  cases seg with
  | none => exact State.cell_modCell_other _ _ _ _ h
  | some g =>
    obtain ⟨u, code, sts, log, f, hu, hl⟩ := s.loadCtx_seg i p x v c start place ring ahead g
    rw [hl, State.cell_congr (State.setSubs_cells _ sts log f), State.cell_modCell_other _ _ _ _ h]
    exact State.cell_congr (congrArg State.cells hu :) d

theorem State.loadCtx_loaded : Loaded i p x v place seg (s.cell c) ((s.loadCtx i p x v c start place seg ring ahead).cx c x) ∧
    ((s.loadCtx i p x v c start place seg ring ahead).cx c x).ahead = none := by
  cases seg with
  | none =>
    have h : (s.loadCtx i p x v c start place none ring ahead).cx c x = s.fresh.2.newCtx i p v c place := State.cx_modCx _ c x _
    rw [h]
    exact ⟨⟨rfl, rfl, rfl, rfl, rfl, rfl, rfl, fun g hg => nomatch hg⟩, rfl⟩
  | some g =>
    obtain ⟨u, code, sts, log, f, hu, hl⟩ := s.loadCtx_seg i p x v c start place ring ahead g
    have hcell : u.cell c = s.cell c := State.cell_congr (congrArg State.cells hu :) c
    rw [hl, State.cx_congr (State.setSubs_cells _ sts log f), State.cx_modCell, hcell, Cell.loadSeg, Cell.cx_modCx]
    refine ⟨⟨rfl, rfl, rfl, rfl, rfl, rfl, rfl, fun g' hg => ?_⟩, rfl⟩
    cases hg
    exact ⟨rfl, rfl, rfl, Iff.rfl⟩

end

end Sys2Proof.Machine
end

section
/-! PROOFS. A load entered on its cells, and a launch placed (R306, R307). -/

namespace Sys2Proof.Machine

/-! ## Images that come ahead (R56, R307) -/

/-- What the start of a load does ahead on one of its cells. -/
def State.preloadAt (s : State) (i : Inst) (m : Image) (load x : Nat) (e : Nat × Nat) : State :=
  match m.seg load e.2, m.seg (load + 1) e.2 with
  | none, some g =>
    let r := s.fetchSeg i (s.parts.getD i.part {}).tenant (dieOf e.1) g
    r.1.modCx e.1 x fun k => { k with ahead := some (r.2, false) }
  | _, _ => s

theorem State.preload_eq (s : State) (i : Inst) (m : Image) (load x : Nat) (place : List Nat) :
    s.preload i m load x place = place.zipIdx.foldl (fun s e => s.preloadAt i m load x e) s := rfl

section
variable (s : State) (i : Inst) (m : Image) (load x : Nat) (e : Nat × Nat)

theorem State.preloadAt_used (h : m.seg load e.2 ≠ none) : s.preloadAt i m load x e = s := by
  obtain ⟨g, hg⟩ := Option.ne_none_iff_exists'.mp h
  simp only [State.preloadAt, hg]

theorem State.preloadAt_last (h : m.seg (load + 1) e.2 = none) : s.preloadAt i m load x e = s := by
  unfold State.preloadAt
  rw [h]
  cases m.seg load e.2 <;> rfl

/-- The image of the next load goes ahead on a cell that this one does not use. -/
theorem State.preloadAt_ahead (h : m.seg load e.2 = none) {g : Seg} (hg : m.seg (load + 1) e.2 = some g) :
    ∃ (u : State) (code : List IWord), { u with cupboards := s.cupboards } = s ∧
      s.preloadAt i m load x e = u.modCx e.1 x fun k => { k with ahead := some (code, false) } := by
  refine ⟨(s.fetchSeg i (s.parts.getD i.part {}).tenant (dieOf e.1) g).1, (s.fetchSeg i (s.parts.getD i.part {}).tenant (dieOf e.1) g).2,
    State.fetchSeg_rest .., ?_⟩
  simp only [State.preloadAt, h, hg]

/-- It changes nothing but Cupboards and what has come ahead. -/
theorem State.preloadAt_spec : { s.preloadAt i m load x e with cells := s.cells, cupboards := s.cupboards } = s ∧
    (∀ d, d ≠ e.1 → (s.preloadAt i m load x e).cell d = s.cell d) ∧
    ∃ a, (s.preloadAt i m load x e).cx e.1 x = { s.cx e.1 x with ahead := a } := by
  have hsame : s.preloadAt i m load x e = s → _ := fun h => 
    show { s.preloadAt i m load x e with cells := s.cells, cupboards := s.cupboards } = s ∧
      (∀ d, d ≠ e.1 → (s.preloadAt i m load x e).cell d = s.cell d) ∧
      ∃ a, (s.preloadAt i m load x e).cx e.1 x = { s.cx e.1 x with ahead := a } by
    rw [h]; exact ⟨rfl, fun _ _ => rfl, _, rfl⟩
  by_cases hl : m.seg load e.2 = none
  · cases hg : m.seg (load + 1) e.2 with
    | none => exact hsame (State.preloadAt_last s i m load x e hg)
    | some g =>
      obtain ⟨u, code, hu, h⟩ := State.preloadAt_ahead s i m load x e hl hg
      have hcells : u.cells = s.cells := (congrArg State.cells hu :)
      rw [h]
      refine ⟨(congrArg (fun w : State => { w with cells := s.cells }) hu :), fun d hd => ?_, some (code, false), ?_⟩
      · rw [State.modCx, State.cell_modCell_other _ _ _ _ hd, State.cell_congr hcells]
      · rw [State.cx_modCx, State.cx_congr hcells]
  · exact hsame (State.preloadAt_used s i m load x e hl)

end

theorem State.preload_rest (s : State) (i : Inst) (m : Image) (load x : Nat) (place : List Nat) :
    { s.preload i m load x place with cells := s.cells, cupboards := s.cupboards } = s := by
  rw [State.preload_eq]
  exact foldl_keeps (fun u : State => { u with cells := s.cells, cupboards := s.cupboards })
    (fun (s : State) e => s.preloadAt i m load x e)
    (fun u e => (congrArg (fun w : State => { w with cells := s.cells, cupboards := s.cupboards }) (u.preloadAt_spec i m load x e).1 :))
    place.zipIdx s

/-- Of contexts only what has come ahead changes. -/
theorem State.preload_cx (s : State) (i : Inst) (m : Image) (load x : Nat) (place : List Nat) (c : Nat) :
    ∃ a, (s.preload i m load x place).cx c x = { s.cx c x with ahead := a } := by
  rw [State.preload_eq]
  generalize place.zipIdx = l
  induction l generalizing s with
  | nil => exact ⟨_, rfl⟩
  | cons e l ih =>
    obtain ⟨a, ha⟩ := ih (s.preloadAt i m load x e)
    obtain ⟨-, hother, b, hb⟩ := s.preloadAt_spec i m load x e
    refine ⟨a, ?_⟩
    rw [List.foldl_cons, ha]
    by_cases hc : c = e.1
    · rw [hc, hb]
    · rw [State.cx, hother c hc]; rfl

/-- On a cell of the load's vcell: what its step has brought. -/
theorem State.preload_cx_at (s : State) (i : Inst) (m : Image) (load x : Nat) {place : List Nat} (hnd : place.Nodup) {v c : Nat}
    (hc : place[v]? = some c) :
    (m.seg load v ≠ none → (s.preload i m load x place).cx c x = s.cx c x) ∧
      (m.seg load v = none → ∀ g, m.seg (load + 1) v = some g →
        ∃ code, ((s.preload i m load x place).cx c x).ahead = some (code, false)) := by
  have hmem : (c, v) ∈ place.zipIdx := List.mk_mem_zipIdx_iff_getElem?.mpr hc
  obtain ⟨u, hu, hf⟩ := foldl_cell_at (f := fun (s : State) e => s.preloadAt i m load x e) (key := Prod.fst)
    (fun s e d hd => (s.preloadAt_spec i m load x e).2.1 d hd) place.zipIdx s (by rw [List.zipIdx_map_fst]; exact hnd) hmem
  have hpre : (s.preload i m load x place).cx c x = (u.preloadAt i m load x (c, v)).cx c x := congrArg (·.cx x) hf
  refine ⟨fun h => ?_, fun h g hg => ?_⟩
  · rw [hpre, State.preloadAt_used u i m load x (c, v) h, State.cx, hu]; rfl
  · obtain ⟨w, code, -, hw⟩ := State.preloadAt_ahead u i m load x (c, v) h hg
    exact ⟨code, by rw [hpre, hw, State.cx_modCx]⟩

/-! ## Entries formed (R306) -/

/-- A state after entries have been formed: frames granted, slots preset, tokens sent. -/
structure Formed (s t : State) : Prop where
  rest : { t with cells := s.cells, net := s.net } = s
  cx : ∀ c y, { t.cx c y with frames := (s.cx c y).frames, lost := (s.cx c y).lost, pools := (s.cx c y).pools } = s.cx c y

theorem Formed.refl (s : State) : Formed s s := ⟨rfl, fun _ _ => rfl⟩

theorem Formed.trans {s t u : State} (h : Formed s t) (h' : Formed t u) : Formed s u where
  rest := (congrArg (fun w : State => { w with cells := s.cells, net := s.net }) h'.rest :).trans h.rest
  cx c y := (congrArg (fun k : Ctx => { k with frames := (s.cx c y).frames, lost := (s.cx c y).lost, pools := (s.cx c y).pools })
    (h'.cx c y) :).trans (h.cx c y)

theorem formed_grant (s : State) (c x level b region : Nat) (res : Bool) :
    Formed s (s.modCell c fun d => d.grant x level b region res) where
  rest := rfl
  cx d y := by
    by_cases hd : d = c
    · subst hd
      rw [State.cx_modCell]
      by_cases hy : y = x
      · subst hy; rw [Cell.cx_grant]; rfl
      · have h : ((s.cell d).grant x level b region res).cx y = s.cx d y := by simp [Cell.grant, Cell.modCx, Cell.cx, State.cx, hy]
        rw [h]
    · rw [State.cx_modCell_other _ _ _ _ _ hd]

theorem State.cx_setSlot (s : State) (c k : Nat) (v : Option Slot) (d y : Nat) : (s.setSlot c k v).cx d y = s.cx d y := by
  rw [State.setSlot_eq]
  by_cases hd : d = c
  · subst hd; rw [State.cx_modCell]; rfl
  · rw [State.cx_modCell_other _ _ _ _ _ hd]

theorem formed_setSlot (s : State) (c k : Nat) (v : Option Slot) : Formed s (s.setSlot c k v) where
  rest := rfl
  cx d y := by rw [State.cx_setSlot]

theorem formed_foldl {α : Type} {f : State → α → State} (h : ∀ s a, Formed s (f s a)) (l : List α) (s : State) : Formed s (l.foldl f s) := by
  induction l generalizing s with
  | nil => exact Formed.refl s
  | cons a l ih => exact (h s a).trans (ih (f s a))

theorem formed_inject (s : State) (p : Packet) : Formed s (s.inject p) := ⟨rfl, fun _ _ => rfl⟩

theorem formed_formEntry {s t : State} {i : Inst} {x : Nat} {place : List Nat} {e : ImgEntry} (h : s.formEntry i x place e = some t) :
    Formed s t := by
  unfold State.formEntry at h
  dsimp only at h
  split at h
  · cases h
  · cases h
    exact ((formed_grant ..).trans (formed_foldl (fun _ _ => formed_setSlot ..) ..)).trans (formed_inject ..)

theorem formed_formEntries (s : State) (i : Inst) (x : Nat) (place : List Nat) (es : List (ImgEntry × Nat)) :
    Formed s (s.formEntries i x place es).1 := by
  induction es generalizing s with
  | nil => exact Formed.refl s
  | cons e es ih =>
    rw [State.formEntries]
    split
    · next t ht => exact (formed_formEntry ht).trans (ih t)
    · exact ih s

/-! ## A load entered -/

/-- The contexts of a load, to be loaded in turn: segment, cell, start of its frame area, ring and vcell of each. -/
def loadJobs (segs : List (Option Seg)) (place starts : List Nat) (rings : List (Nat × Nat)) :
    List ((Option Seg × Nat × Nat × Option Nat) × Nat) :=
  (segs.zip (place.zip (starts.zip (ringBases segs rings)))).zipIdx

theorem length_ringBases (segs : List (Option Seg)) (rings : List (Nat × Nat)) : (ringBases segs rings).length = segs.length := by
  induction segs generalizing rings with
  | nil => rfl
  | cons g segs ih => cases g <;> simp [ringBases, ih]

theorem Image.length_byVcell (m : Image) (load : Nat) : (m.byVcell load).length = m.vcount := by simp [Image.byVcell]

section
variable {segs : List (Option Seg)} {place starts : List Nat} (rings : List (Nat × Nat))

/-- Each job loads the segment of its vcell on the cell of its vcell. -/
theorem mem_loadJobs {e : (Option Seg × Nat × Nat × Option Nat) × Nat} (h : e ∈ loadJobs segs place starts rings) :
    segs[e.2]? = some e.1.1 ∧ place[e.2]? = some e.1.2.1 := by
  have h := List.mem_zipIdx_iff_getElem?.mp h
  rw [List.getElem?_zip_eq_some, List.getElem?_zip_eq_some] at h
  exact ⟨h.1, h.2.1⟩

variable (hp : place.length = segs.length) (hs : starts.length = segs.length)
include hp hs

theorem exists_loadJob {v c : Nat} (hv : place[v]? = some c) : ∃ e, e ∈ loadJobs segs place starts rings ∧ e.2 = v := by
  have hlt : v < place.length := (List.getElem?_eq_some_iff.mp hv).1
  have hlen : (segs.zip (place.zip (starts.zip (ringBases segs rings)))).length = place.length := by
    simp [length_ringBases, hp, hs]
  exact ⟨_, List.mk_mem_zipIdx_iff_getElem?.mpr (List.getElem?_eq_getElem (hlen ▸ hlt)), rfl⟩

theorem map_loadJobs : (loadJobs segs place starts rings).map (·.1.2.1) = place := by
  refine List.ext_getElem? fun v => ?_
  rw [List.getElem?_map]
  cases hv : place[v]? with
  | none =>
    have hlt := List.getElem?_eq_none_iff.mp hv
    rw [List.getElem?_eq_none_iff.mpr]
    · rfl
    · simp [loadJobs, length_ringBases, hs]; omega
  | some c =>
    have hlt : v < place.length := (List.getElem?_eq_some_iff.mp hv).1
    have hlen : (loadJobs segs place starts rings).length = place.length := by
      simp [loadJobs, length_ringBases, hp, hs]
    have hmem : (loadJobs segs place starts rings)[v]? = some (loadJobs segs place starts rings)[v] := List.getElem?_eq_getElem (hlen ▸ hlt)
    have hidx : ((loadJobs segs place starts rings)[v]'(hlen ▸ hlt)).2 = v := by simp [loadJobs]
    have h := (mem_loadJobs rings (List.mem_of_getElem? hmem)).2
    rw [hidx, hv] at h
    rw [hmem, Option.map_some, ← h]

end

/-- The contexts of a load loaded in turn. -/
def State.loadAll (s : State) (i : Inst) (p : Part) (x : Nat) (place : List Nat) (aheads : List (Option (List IWord)))
    (jobs : List ((Option Seg × Nat × Nat × Option Nat) × Nat)) : State :=
  jobs.foldl (fun s e => s.loadCtx i p x e.2 e.1.2.1 e.1.2.2.1 place e.1.1 e.1.2.2.2 (aheads.getD e.2 none)) s

theorem State.loadAll_rest (s : State) (i : Inst) (p : Part) (x : Nat) (place : List Nat) (aheads : List (Option (List IWord)))
    (jobs : List ((Option Seg × Nat × Nat × Option Nat) × Nat)) : { s.loadAll i p x place aheads jobs with
      cells := s.cells
      cupboards := s.cupboards
      serial := s.serial
      hbm := s.hbm } = s :=
  foldl_keeps (fun u : State => { u with cells := s.cells, cupboards := s.cupboards, serial := s.serial, hbm := s.hbm })
    (fun (s : State) (e : (Option Seg × Nat × Nat × Option Nat) × Nat) =>
      s.loadCtx i p x e.2 e.1.2.1 e.1.2.2.1 place e.1.1 e.1.2.2.2 (aheads.getD e.2 none))
    (fun u e => (congrArg (fun w : State => { w with cells := s.cells, cupboards := s.cupboards, serial := s.serial, hbm := s.hbm })
      (State.loadCtx_rest u i p x e.2 e.1.2.1 e.1.2.2.1 place e.1.1 e.1.2.2.2 (aheads.getD e.2 none)) :)) jobs s

/-- The `Inst` as a load leaves it. -/
def Inst.entered (i : Inst) (load x : Nat) (place : List Nat) (rings : List (Nat × Nat)) (unformed : List Nat) : Inst := { i with
  phase := if i.phase = .waiting then .placed else i.phase
  ctx := x
  place := place
  load := load
  rings := rings
  leaving := false
  unformed := unformed }

/-- How a load is entered: rings carved, contexts loaded, images fetched ahead, entries formed, the `Inst` changed. -/
theorem State.enterLoad_eq {s t : State} {i : Inst} {m : Image} {load x : Nat} {place starts : List Nat}
    {aheads : List (Option (List IWord))} (h : s.enterLoad i m load x place starts aheads = some t) :
    ∃ (rings : List (Nat × Nat)) (free : List (Nat × Nat)) (u : State) (unformed : List Nat),
      Formed (((s.modFn i.fn fun k => { k with pool := free }).loadAll i (s.parts.getD i.part {}) x place aheads
        (loadJobs (m.byVcell load) place starts rings)).preload i m load x place) u ∧
      t = u.modInst i.fn i.id fun i => i.entered load x place rings unformed := by
  unfold State.enterLoad at h
  dsimp only at h
  split at h
  · cases h
  · next rings free _ =>
    exact ⟨rings, free, _, _, formed_formEntries _ i x place (m.entriesOf load), (Option.some.inj h).symm⟩

/-- A context whose frames, presets and coming image alone differ is loaded alike. -/
theorem Loaded.congr {i : Inst} {p : Part} {x v : Nat} {place : List Nat} {seg : Option Seg} {d : Cell} {k k' : Ctx}
    (h : Loaded i p x v place seg d k)
    (hk : { k' with frames := k.frames, lost := k.lost, pools := k.pools, ahead := k.ahead } = k) : Loaded i p x v place seg d k' := by
  rw [← hk] at h
  exact ⟨h.inst, h.part, h.tenant, h.vcell, h.place, h.ctl, h.times, h.seg⟩

section
variable {s t : State} {i : Inst} {m : Image} {load x : Nat} {place starts : List Nat} {aheads : List (Option (List IWord))}
  (h : s.enterLoad i m load x place starts aheads = some t)
include h

theorem State.enterLoad_parts : t.parts = s.parts := by
  obtain ⟨rings, free, u, unformed, hf, rfl⟩ := State.enterLoad_eq h
  refine (congrArg State.parts hf.rest :).trans ((congrArg State.parts (State.preload_rest ..) :).trans ?_)
  exact (congrArg State.parts (State.loadAll_rest (s.modFn i.fn fun k => { k with pool := free }) i (s.parts.getD i.part {}) x place aheads
    (loadJobs (m.byVcell load) place starts rings)) :)

theorem State.enterLoad_insts : ∃ rings unformed, t.insts = (s.modInst i.fn i.id fun i => i.entered load x place rings unformed).insts := by
  obtain ⟨rings, free, u, unformed, hf, rfl⟩ := State.enterLoad_eq h
  have hu : u.insts = s.insts :=
    (congrArg State.insts hf.rest :).trans ((congrArg State.insts (State.preload_rest ..) :).trans
      (congrArg State.insts (State.loadAll_rest (s.modFn i.fn fun k => { k with pool := free }) i (s.parts.getD i.part {}) x place aheads
        (loadJobs (m.byVcell load) place starts rings)) :))
  exact ⟨rings, unformed, congrArg (List.map _) hu⟩

variable (hp : place.length = m.vcount) (hs : starts.length = m.vcount)
include hp hs

/-- What each context of a load holds, its cells being picked once each. -/
theorem State.enterLoad_context (hnd : place.Nodup) {v c : Nat} (hv : place[v]? = some c) :
    Loaded i (s.parts.getD i.part {}) x v place (m.seg load v) (s.cell c) (t.cx c x) ∧
      (m.seg load v ≠ none → (t.cx c x).ahead = none) ∧
      (m.seg load v = none → ∀ g, m.seg (load + 1) v = some g → ∃ code, (t.cx c x).ahead = some (code, false)) := by
  obtain ⟨rings, free, u, unformed, hf, rfl⟩ := State.enterLoad_eq h
  have hp' : place.length = (m.byVcell load).length := hp.trans (Image.length_byVcell ..).symm
  have hs' : starts.length = (m.byVcell load).length := hs.trans (Image.length_byVcell ..).symm
  obtain ⟨e, he, rfl⟩ := exists_loadJob rings hp' hs' hv
  obtain ⟨hseg, hcell⟩ := mem_loadJobs rings he
  obtain rfl : e.1.2.1 = c := Option.some.inj (hcell.symm.trans hv)
  have hseg' : e.1.1 = m.seg load e.2 := by
    rw [Image.byVcell, List.getElem?_map, List.getElem?_range (by rw [← hp]; exact (List.getElem?_eq_some_iff.mp hv).1)] at hseg
    exact (Option.some.inj hseg).symm
  obtain ⟨w, hw, hat⟩ := foldl_cell_at (key := fun e : (Option Seg × Nat × Nat × Option Nat) × Nat => e.1.2.1)
    (f := fun (w : State) (e : (Option Seg × Nat × Nat × Option Nat) × Nat) =>
      w.loadCtx i (s.parts.getD i.part {}) x e.2 e.1.2.1 e.1.2.2.1 place e.1.1 e.1.2.2.2 (aheads.getD e.2 none))
    (fun w e d hd => State.loadCtx_cell_other w i _ x e.2 e.1.2.1 e.1.2.2.1 place e.1.1 e.1.2.2.2 _ hd)
    (loadJobs (m.byVcell load) place starts rings) (s.modFn i.fn fun k => { k with pool := free })
    (by rw [map_loadJobs rings hp' hs']; exact hnd) he
  have hloaded := State.loadCtx_loaded w i (s.parts.getD i.part {}) x e.2 e.1.2.1 e.1.2.2.1 place e.1.1 e.1.2.2.2 (aheads.getD e.2 none)
  have hcx : (((s.modFn i.fn fun k => { k with pool := free }).loadAll i (s.parts.getD i.part {}) x place aheads
      (loadJobs (m.byVcell load) place starts rings))).cx e.1.2.1 x = _ := congrArg (fun d : Cell => d.cx x) hat
  rw [show w.cell e.1.2.1 = s.cell e.1.2.1 from hw, hseg'] at hloaded
  rw [hseg'] at hcx
  generalize ((s.modFn i.fn fun k => { k with pool := free }).loadAll i (s.parts.getD i.part {}) x place aheads
    (loadJobs (m.byVcell load) place starts rings)) = u₂ at hf hcx
  obtain ⟨hload, hahead⟩ := hloaded
  rw [State.cx, ← hcx] at hload hahead
  obtain ⟨a, ha⟩ := State.preload_cx u₂ i m load x place e.1.2.1
  obtain ⟨hused, hnext⟩ := State.preload_cx_at u₂ i m load x hnd hv
  have hform := hf.cx e.1.2.1 x
  have hfa : (u.cx e.1.2.1 x).ahead = ((u₂.preload i m load x place).cx e.1.2.1 x).ahead := (congrArg Ctx.ahead hform :)
  refine ⟨hload.congr ?_, fun hn => ?_, fun hn g hg => ?_⟩
  · refine (congrArg (fun k : Ctx => { k with
      frames := (u₂.cx e.1.2.1 x).frames
      lost := (u₂.cx e.1.2.1 x).lost
      pools := (u₂.cx e.1.2.1 x).pools
      ahead := (u₂.cx e.1.2.1 x).ahead }) hform :).trans ?_
    rw [ha]
  · exact hfa.trans ((congrArg Ctx.ahead (hused hn)).trans hahead)
  · obtain ⟨code, hc⟩ := hnext hn g hg
    exact ⟨code, hfa.trans hc⟩

/-- Each context counts its TIME on from the `Inst`'s, also where the load names a cell twice. -/
theorem State.enterLoad_times {count : Nat → Nat} (ht : ∀ v c, place[v]? = some c → i.times.getD v 0 = count c) {c : Nat} (hc : c ∈ place) :
    (t.cx c x).times = count c := by
  obtain ⟨rings, free, u, unformed, hf, rfl⟩ := State.enterLoad_eq h
  have hp' : place.length = (m.byVcell load).length := hp.trans (Image.length_byVcell ..).symm
  have hs' : starts.length = (m.byVcell load).length := hs.trans (Image.length_byVcell ..).symm
  have hall := foldl_cell_all (key := fun e : (Option Seg × Nat × Nat × Option Nat) × Nat => e.1.2.1)
    (f := fun (w : State) (e : (Option Seg × Nat × Nat × Option Nat) × Nat) =>
      w.loadCtx i (s.parts.getD i.part {}) x e.2 e.1.2.1 e.1.2.2.1 place e.1.1 e.1.2.2.2 (aheads.getD e.2 none))
    (fun w e d hd => State.loadCtx_cell_other w i _ x e.2 e.1.2.1 e.1.2.2.1 place e.1.1 e.1.2.2.2 _ hd)
    (fun c d => (d.cx x).times = count c) (loadJobs (m.byVcell load) place starts rings)
    (fun w e he => (State.loadCtx_loaded w i _ x e.2 e.1.2.1 e.1.2.2.1 place e.1.1 e.1.2.2.2 _).1.times.trans
      (ht _ _ (mem_loadJobs rings he).2))
    (s.modFn i.fn fun k => { k with pool := free }) (c := c) (by rw [map_loadJobs rings hp' hs']; exact hc)
  obtain ⟨a, ha⟩ := State.preload_cx ((s.modFn i.fn fun k => { k with pool := free }).loadAll i (s.parts.getD i.part {}) x place aheads
    (loadJobs (m.byVcell load) place starts rings)) i m load x place c
  exact (congrArg Ctx.times (hf.cx c x) :).trans ((congrArg Ctx.times ha :).trans hall)

end

/-! ## Placement (R306) -/

/-- How a launch is placed: cells picked, each once, and the first load entered on them. -/
theorem State.placeInst_eq {s t : State} {i : Inst} (h : s.placeInst i = some t) :
    ∃ (m : Image) (x : Nat) (r : List (Nat × Nat)) (u : State), parseImage i.words = some m ∧ x < 8 ∧
      s.pick (s.parts.getD i.part {}).tenant x (s.usableCells (s.parts.getD i.part {})) (m.byVcell 0) = some r ∧
      s.enterLoad i m 0 x (r.map (·.1)) (r.map (·.2)) [] = some u ∧
      t = { u with parts := u.parts.put i.part { u.parts.getD i.part {} with
        queue := (u.parts.getD i.part {}).queue.filter (· != (i.fn, i.id)) } } := by
  unfold State.placeInst at h
  dsimp only at h
  split at h
  · cases h
  · next m hm =>
    split at h
    · cases h
    · next x r hx =>
      split at h
      · cases h
      · next u hu =>
        obtain ⟨y, hy, hpick⟩ := List.exists_of_findSome?_eq_some hx
        split at hpick
        · next r' hr' =>
          split at hpick
          · cases hpick
            exact ⟨m, x, r, u, hm, List.mem_range.mp hy, hr', hu, (Option.some.inj h).symm⟩
          · cases hpick
        · cases hpick

/-- Of the instances, the one with this key changes. -/
theorem State.inst?_modInst {s : State} {f id : Nat} {i : Inst} (g : Inst → Inst) (h : s.inst? f id = some i)
    (hg : (g i).fn = i.fn ∧ (g i).id = i.id) : (s.modInst f id g).inst? f id = some (g i) := by
  unfold State.inst? State.modInst at *
  dsimp only
  generalize s.insts = l at h ⊢
  induction l with
  | nil => cases h
  | cons j js ih =>
    rw [List.map_cons]
    by_cases hj : (j.fn == f && j.id == id) = true
    · rw [List.find?_cons_of_pos (p := fun i : Inst => i.fn == f && i.id == id) hj] at h
      obtain rfl := Option.some.inj h
      rw [if_pos hj]
      exact List.find?_cons_of_pos (p := fun i : Inst => i.fn == f && i.id == id) (by rw [hg.1, hg.2]; exact hj)
    · rw [List.find?_cons_of_neg (p := fun i : Inst => i.fn == f && i.id == id) hj] at h
      rw [if_neg hj, List.find?_cons_of_neg (p := fun i : Inst => i.fn == f && i.id == id) hj]
      exact ih h

theorem State.inst?_key {s : State} {f id : Nat} {i : Inst} (h : s.inst? f id = some i) : i.fn = f ∧ i.id = id := by
  have hkey := List.find?_some (p := fun i : Inst => i.fn == f && i.id == id) h
  rwa [Bool.and_eq_true, beq_iff_eq, beq_iff_eq] at hkey

end Sys2Proof.Machine
end

section
/-! PROOFS. The partition's queue served, instances started and loads advanced (R55, R56, R64, R305 to R308). -/

namespace Sys2Proof.Machine

section
variable {s : State} {f id : Nat} {i : Inst} (hi : s.inst? f id = some i)
include hi

/-! ## Placement (R306) -/

section
variable (hst : (s.parts.getD i.part {}).st = .granted) (hfr : (s.parts.getD i.part {}).freezing = none)
  (hq : (s.parts.getD i.part {}).queue = [(f, id)]) (hprio : i.prio < 4)
include hst hfr hq hprio

/-- A queue of one launch: its head is served. -/
theorem execLaunchPlacement_head : exec (.launchPlacement i.part) s = .next ((s.serveHead i.part i).getD s) := by
  have hheads : ([3, 2, 1, 0].filterMap fun c => [i].find? fun i => i.prio == c) = [i] := by
    rcases (by omega : i.prio = 3 ∨ i.prio = 2 ∨ i.prio = 1 ∨ i.prio = 0) with h | h | h | h <;> simp [h]
  change execLaunchPlacement i.part s = _
  simp only [execLaunchPlacement, hst, hfr, hq, Option.isSome_none, bne_self_eq_false, Bool.or_self, Bool.false_eq_true, if_false,
    List.filterMap_cons, List.filterMap_nil, hi, hheads, List.findSome?_cons, List.findSome?_nil]
  cases s.serveHead i.part i <;> rfl

/-- A launch that asks for a scrub has its partition scrubbed first, once nothing is placed there. -/
theorem execLaunchPlacement_scrub (hs : i.scrub = true) (hd : i.scrubbed = false)
    (hw : ∀ j, j ∈ s.insts → j.part = i.part → j.phase = .waiting) :
    exec (.launchPlacement i.part) s = .next (s.startScrub i.part (.launch f id) (s.parts.getD i.part {}).tenant) := by
  have hany : (s.insts.any fun j => j.part == i.part && j.phase != .waiting) = false := by
    rw [List.any_eq_false]
    intro j hj
    by_cases hp : j.part = i.part <;> simp [hp, hw j hj]
  obtain ⟨rfl, rfl⟩ := State.inst?_key hi
  rw [execLaunchPlacement_head hi hst hfr hq hprio, State.serveHead, if_pos (by rw [hs, hd]; rfl), hany]
  rfl

theorem execLaunchPlacement_place (hs : i.scrub = true → i.scrubbed = true) :
    exec (.launchPlacement i.part) s = .next ((s.placeInst i).getD s) := by
  rw [execLaunchPlacement_head hi hst hfr hq hprio, State.serveHead, if_neg]
  rw [Bool.and_eq_true, Bool.not_eq_true']
  exact fun h => absurd (hs h.1) (Bool.eq_false_iff.mp h.2)

end

/-- A launch that has been placed: its `Inst`, on cells picked once each, and their contexts. -/
theorem placeInst_leaves {t : State} (h : s.placeInst i = some t) :
    ∃ (j : Inst) (m : Image), t.inst? f id = some j ∧ parseImage i.words = some m ∧ j.ctx < 8 ∧ j.place.length = m.vcount ∧ j.load = 0 ∧
      j.phase = (if i.phase = .waiting then .placed else i.phase) ∧
      (∀ c, c ∈ j.place → c ∈ s.usableCells (s.parts.getD i.part {}) ∧ (s.cx c j.ctx).open? (s.parts.getD i.part {}).tenant = true) ∧
      (∀ v c, j.place[v]? = some c →
        Loaded i (s.parts.getD i.part {}) j.ctx v j.place (m.seg 0 v) (s.cell c) (t.cx c j.ctx) ∧
          (m.seg 0 v ≠ none → (t.cx c j.ctx).ahead = none) ∧
          (m.seg 0 v = none → ∀ g, m.seg 1 v = some g → ∃ code, (t.cx c j.ctx).ahead = some (code, false))) ∧
      t.parts.getD i.part {} = { s.parts.getD i.part {} with queue := (s.parts.getD i.part {}).queue.filter (· != (f, id)) } := by
  obtain ⟨hf, hid⟩ := State.inst?_key hi
  obtain ⟨m, x, r, u, hm, hx, hpick, hu, rfl⟩ := State.placeInst_eq h
  obtain ⟨hsub, hlen, hopen⟩ := State.pick_spec hpick
  obtain ⟨rings, unformed, hinsts⟩ := State.enterLoad_insts hu
  have hparts := State.enterLoad_parts hu
  have hnd : (r.map (·.1)).Nodup := hsub.nodup (State.nodup_usableCells ..)
  have hl : r.length = m.vcount := hlen.trans (Image.length_byVcell ..)
  refine ⟨i.entered 0 x (r.map fun (e : Nat × Nat) => e.1) rings unformed, m, ?_, hm, hx, (List.length_map ..).trans hl, rfl, rfl,
    fun c hc => ⟨hsub.subset hc, hopen c hc⟩, fun v c hv => ?_, ?_⟩
  · rw [hf, hid] at hinsts
    exact (congrArg (List.find? _) hinsts).trans (State.inst?_modInst _ hi ⟨rfl, rfl⟩)
  · exact State.enterLoad_context hu ((List.length_map ..).trans hl) ((List.length_map ..).trans hl) hnd hv
  · rw [hparts, hf, hid]
    exact Tbl.getD_put_same ..

/-! ## Starts (R100, R306) -/

end

theorem State.formDue_formed {s : State} {i : Inst} (h : i.unformed = []) : s.formDue i = s := if_pos (by rw [h]; rfl)

/-- Steps of which each leaves a state as it is leave it as it is. -/
theorem foldl_stays {α β : Type} {g : β → α → β} {b : β} (l : List α) (h : ∀ a, a ∈ l → g b a = b) : l.foldl g b = b := by
  induction l with
  | nil => rfl
  | cons a l ih => rw [List.foldl_cons, h a (List.mem_cons_self ..), ih fun c hc => h c (List.mem_cons_of_mem _ hc)]

/-- An `Inst` for which no wake value waits. -/
theorem State.startWakes_none {s : State} {i : Inst} (hw : ∀ e, e ∈ (s.fn i.fn).queues → ∀ r, r ∈ e.2.pending → r.wake = none) :
    s.startWakes i = s := by
  refine foldl_stays _ fun e he => foldl_stays _ fun r hr => ?_
  simp only [hw e he r hr]

section
variable {s : State} {f id : Nat} {i : Inst} (hi : s.inst? f id = some i) (hph : i.phase = .placed) (hun : i.unformed = [])
include hi hph hun

theorem execInstanceStart_eq (hsc : i.scrub = true → i.scrubbed = true) (hacq : ∀ e, e ∈ i.acq → e.2 ≤ (s.stack e.1).doneSegs)
    (hw : ∀ e, e ∈ (s.fn f).queues → ∀ r, r ∈ e.2.pending → r.wake = none) :
    exec (.instanceStart f id) s = .next (s.modInst f id fun i =>
      { i with phase := .running, started := true, wdog := 0, lastAct := s.ac (i.place.headD 0) }) := by
  have hall : (i.acq.all fun e => decide (e.2 ≤ (s.stack e.1).doneSegs)) = true :=
    List.all_eq_true.mpr fun e he => decide_eq_true (hacq e he)
  have hscr : (i.scrub && !i.scrubbed) = false := by
    cases hs : i.scrub with
    | false => rfl
    | true => rw [hsc hs]; rfl
  change execInstanceStart f id s = _
  simp only [execInstanceStart, hi, Option.map_some, hph, State.formDue_formed hun, Option.bind_some, hun, hall, hscr, beq_self_eq_true,
    bne_self_eq_false, List.isEmpty_nil, Bool.not_true, Bool.or_self, Bool.false_eq_true, if_false, if_true]
  exact congrArg Host.Outcome.next (State.startWakes_none ((State.inst?_key hi).1 ▸ hw))

theorem execInstanceStart_waits (hacq : ∃ e, e ∈ i.acq ∧ (s.stack e.1).doneSegs < e.2) : exec (.instanceStart f id) s = .next s := by
  have hall : (i.acq.all fun e => decide (e.2 ≤ (s.stack e.1).doneSegs)) = false := by
    obtain ⟨e, he, hlt⟩ := hacq
    exact List.all_eq_false.mpr ⟨e, he, by simpa using hlt⟩
  change execInstanceStart f id s = _
  simp only [execInstanceStart, hi, Option.map_some, hph, State.formDue_formed hun, Option.bind_some, hall, beq_self_eq_true, Bool.not_false,
    Bool.or_true, if_true]

end

end Sys2Proof.Machine
end

section
/-! PROOFS. A segment moved to another cell of its partition (R55). -/

namespace Sys2Proof.Machine

theorem renamed_self (c d : Nat) : renamed [c] [d] c = d := by simp [renamed]

theorem renamed_other {c d n : Nat} (h : n ≠ c) : renamed [c] [d] n = n := by simp [renamed, Ne.symm h]

/-! ## A part of a cell put into another -/

/-- A part that holds one context: it goes in as it is, but for an image that has no room. -/
theorem Cell.cx_join (a b : Cell) {x : Nat} {k : Ctx} (h : b.ctxs = [(x, k)]) : ∃ r, (a.join b).cx x = { k with resident := r } := by
  let e : Cell := { (a.addRecs b.recs).1 with ctxs := joinTbl a.ctxs b.ctxs }
  have hjoin : (a.join b).cx x = (e.fitImages (b.ctxs.map (·.1))).cx x := rfl
  have he : e.cx x = k := by
    change (joinTbl a.ctxs b.ctxs).getD x {} = k
    rw [h]
    exact Tbl.getD_put_same ..
  rw [hjoin, h]
  change ∃ r, (if Config.codeletStore < 4 * (e.storeWords x + (e.cx x).image.length) then e.modCx x fun k => { k with resident := false }
    else e).cx x = _
  split
  · exact ⟨false, by rw [Cell.cx_modCx, he]⟩
  · exact ⟨k.resident, he⟩

theorem Cell.matrix_join (a b : Cell) : (a.join b).matrix = a.matrix.joined b.matrix := rfl

/-- Into a cell that holds no weights and accumulators, those of the part go as they are. -/
theorem Matrix.joined_blank {a : Cell} (h : a.blank = true) (b : Matrix) :
    (a.matrix.joined b).wb0 = b.wb0 ∧ (a.matrix.joined b).wb1 = b.wb1 ∧ (a.matrix.joined b).acc = b.acc := by
  simp only [Cell.blank, Bool.and_eq_true, Bool.not_eq_true', List.isEmpty_iff] at h
  obtain ⟨⟨⟨⟨h0, h1⟩, hacc⟩, -⟩, -⟩ := h
  refine ⟨if_neg (by rw [h0]; exact Bool.false_ne_true), if_neg (by rw [h1]; exact Bool.false_ne_true), ?_⟩
  change joinTbl b.acc a.matrix.acc = b.acc
  rw [hacc]
  rfl

/-! ## The move -/

/-- What a context's part of a cell becomes on the cell that it moves to. -/
def State.movedPart (s : State) (x c d : Nat) : Cell :=
  { (((s.cell c).only [x]).moved fun _ => renamed [c] [d]).shifted (s.ac c) (s.ac d) with vec := {}, ports := [] }

/-- One change made of several cells. -/
def State.modCells (s : State) (f : Cell → Cell) (l : List Nat) : State := l.foldl (fun s q => s.modCell q f) s

theorem State.cell_modCells_other (s : State) (f : Cell → Cell) {l : List Nat} {b : Nat} (h : b ∉ l) : (s.modCells f l).cell b = s.cell b :=
  foldl_cell_other (f := fun (s : State) q => s.modCell q f) (key := fun q => q) (fun _ _ _ hb => State.cell_modCell_other _ _ _ _ hb) l s
    (by rw [List.map_id']; exact h)

theorem State.modCells_rest (s : State) (f : Cell → Cell) (l : List Nat) : { s.modCells f l with cells := s.cells } = s :=
  foldl_keeps (fun u : State => { u with cells := s.cells }) (fun (s : State) q => s.modCell q f) (fun _ _ => rfl) l s

/-- The cells of an `Inst` after one of its segments has moved from cell `c` to `d`. -/
def State.moveCells (s : State) (i : Inst) (c d : Nat) : State :=
  ((s.modCell c fun e => e.without i.ctx).modCell d fun e => e.cleared.join (s.movedPart i.ctx c d)).modCells
    (fun e => e.moved fun y => if y = i.ctx then renamed [c] [d] else fun n => n) (i.place.filter (· != c))

/-- The state after one segment of an `Inst` has moved from cell `c` to `d` (R55). -/
def State.segmentMoved (s : State) (i : Inst) (c d : Nat) : State :=
  (((s.moveCells i c d).redirect i c d).moveLogs i (renamed [c] [d])).modInst i.fn i.id fun i => i.moved (renamed [c] [d])

section
variable {s : State} {i : Inst} {c d : Nat} (hc : c ∈ i.place) (hd : d ∉ i.place)
include hc hd

theorem State.cell_moveCells_from : (s.moveCells i c d).cell c = (s.cell c).without i.ctx := by
  have hne : c ≠ d := fun h => hd (h ▸ hc)
  rw [State.moveCells, State.cell_modCells_other _ _ (by simp),
    State.cell_modCell_other _ _ _ _ hne, State.cell_modCell]

theorem State.cell_moveCells_to : (s.moveCells i c d).cell d = (s.cell d).cleared.join (s.movedPart i.ctx c d) := by
  have hne : d ≠ c := fun h => hd (h ▸ hc)
  rw [State.moveCells, State.cell_modCells_other _ _ (by simp [hd]),
    State.cell_modCell, State.cell_modCell_other _ _ _ _ hne]

omit hd in
theorem State.cell_moveCells_other {b : Nat} (hb : b ∉ i.place) (hbd : b ≠ d) : (s.moveCells i c d).cell b = s.cell b := by
  have hne : b ≠ c := fun h => hb (h ▸ hc)
  rw [State.moveCells, State.cell_modCells_other _ _ (by simp [hb]),
    State.cell_modCell_other _ _ _ _ hbd, State.cell_modCell_other _ _ _ _ hne]

omit hd in
/-- A packet of the `Inst` on its way to the cell that it has moved from starts at its sender again, to the cell where it is now. -/
theorem State.net_redirect {n : Nat} {q : Packet} (hq : s.net[n]? = some q) (hx : q.ctx = i.ctx) (hdst : q.dst = c) (hsrc : q.src ≠ c) :
    ∃ q' : Packet, (s.redirect i c d).net[n]? = some q' ∧ q'.dst = d ∧ q'.src = q.src ∧ q'.vn = q.vn ∧ q'.hops = none := by
  have hof : q.ofInst i = true := by
    simp only [Packet.ofInst, hx, hdst, List.contains_iff_mem.mpr hc, beq_self_eq_true, Bool.true_or, Bool.or_true, Bool.and_self]
  refine ⟨q.back.moved (renamed [c] [d]), ?_, ?_, renamed_other hsrc, rfl, rfl⟩
  · change (s.net.map _)[n]? = _
    rw [List.getElem?_map, hq, Option.map_some]
    simp only [hof, Bool.not_true, Bool.false_eq_true, if_false, hsrc, hdst, if_true, Packet.redirected]
  · change renamed [c] [d] q.dst = d
    rw [hdst, renamed_self]

end

section
variable {s : State} {f id v d : Nat} {i : Inst} (hi : s.inst? f id = some i)
include hi

/-- A segment with no firing on its lane and no engine work moves to a cell that takes it. -/
theorem execSegmentMove_moves (hv : v < i.place.length) (hph : i.phase ≠ .waiting) (hr : s.runs (i.place.getD v 0) = true)
    (hu : d ∈ s.usableCells (s.parts.getD i.part {})) (hd : d ∉ i.place)
    (hl : (s.cell (i.place.getD v 0)).lane.busy = true → (s.cell (i.place.getD v 0)).lane.fir.ctx ≠ i.ctx)
    (he : (s.cell (i.place.getD v 0)).engineFree i.ctx = true)
    (ht : (s.cell d).takes ((s.cell (i.place.getD v 0)).only [i.ctx]) i.ctx (s.parts.getD i.part {}).tenant = true)
    (ha : s.allReach (i.place.map (renamed [i.place.getD v 0] [d])) = true) :
    exec (.segmentMove f id v d) s = .next (s.segmentMoved i (i.place.getD v 0) d) := by
  have hlane : ((s.cell (i.place.getD v 0)).lane.busy && (s.cell (i.place.getD v 0)).lane.fir.ctx == i.ctx) = false := by
    cases hb : (s.cell (i.place.getD v 0)).lane.busy with
    | false => rfl
    | true => simpa using hl hb
  have hcont : (s.usableCells (s.parts.getD i.part {})).contains d = true := List.contains_iff_mem.mpr hu
  have hcont' : i.place.contains d = false := by rw [← Bool.not_eq_true, List.contains_iff_mem]; exact hd
  have hphase : (i.phase == .waiting) = false := beq_eq_false_iff_ne.mpr hph
  obtain ⟨rfl, rfl⟩ := State.inst?_key hi
  change execSegmentMove i.fn i.id v d s = _
  simp only [execSegmentMove, hi, Nat.not_le.mpr hv, hphase, hr, hcont, hcont', hlane, he, ht, ha, decide_false, Bool.not_true, Bool.or_self,
    Bool.false_eq_true, if_false]
  rfl

end

/-- What a move leaves. -/
theorem segmentMoved_leaves {s : State} {f id c d : Nat} {i : Inst} (hi : s.inst? f id = some i) (hc : c ∈ i.place) (hd : d ∉ i.place) :
    let t := s.segmentMoved i c d
    t.inst? f id = some (i.moved (renamed [c] [d])) ∧ t.mem = s.mem ∧ t.cx c i.ctx = {} ∧
      (t.cx d i.ctx).inst = (s.cx c i.ctx).inst ∧ (t.cx d i.ctx).vcell = (s.cx c i.ctx).vcell ∧
      (t.cx d i.ctx).frames = (s.cx c i.ctx).frames ∧ (t.cx d i.ctx).ctl = (s.cx c i.ctx).ctl ∧
      (t.cx d i.ctx).image = (s.cx c i.ctx).image ∧ (t.cx d i.ctx).outstanding = (s.cx c i.ctx).outstanding ∧
      (∀ b, b ∉ i.place → b ≠ d → t.cell b = s.cell b) ∧
      ((s.cell d).cleared.blank = true → (t.cell d).matrix.wb0 = (s.cell c).matrix.wb0 ∧
        (t.cell d).matrix.wb1 = (s.cell c).matrix.wb1 ∧ (t.cell d).matrix.acc = (s.cell c).matrix.acc) ∧
      t.net.length = s.net.length ∧ ∀ (n : Nat) (q : Packet), s.net[n]? = some q → q.ctx = i.ctx → q.dst = c → q.src ≠ c →
        ∃ q' : Packet, t.net[n]? = some q' ∧ q'.dst = d ∧ q'.src = q.src ∧ q'.vn = q.vn ∧ q'.hops = none := by
  intro t
  have hcells : t.cells = (s.moveCells i c d).cells := rfl
  have hkeep : { s.moveCells i c d with cells := s.cells } = s :=
    (congrArg (fun u : State => { u with cells := s.cells }) (State.modCells_rest _ _ _) :)
  have hto : t.cell d = (s.cell d).cleared.join (s.movedPart i.ctx c d) := (State.cell_congr hcells d).trans (State.cell_moveCells_to hc hd)
  obtain ⟨r, hcx⟩ := Cell.cx_join (s.cell d).cleared (s.movedPart i.ctx c d) (x := i.ctx) (k :=
    { (s.cx c i.ctx).moved (renamed [c] [d]) with loadedAt := rebase (s.ac c) (s.ac d) (s.cx c i.ctx).loadedAt }) rfl
  have hcx' : t.cx d i.ctx = _ := (congrArg (fun e : Cell => e.cx i.ctx) hto).trans hcx
  have hnet : t.net = ((s.moveCells i c d).redirect i c d).net := rfl
  have hnets : (s.moveCells i c d).net = s.net := (congrArg State.net hkeep :)
  refine ⟨?_, (congrArg State.mem hkeep :), ?_, ?_⟩
  · obtain ⟨rfl, rfl⟩ := State.inst?_key hi
    refine (congrArg (List.find? _) (congrArg (List.map _) (congrArg State.insts hkeep :))).trans ?_
    exact State.inst?_modInst _ hi ⟨rfl, rfl⟩
  · have h : t.cell c = (s.cell c).without i.ctx := (State.cell_congr hcells c).trans (State.cell_moveCells_from hc hd)
    rw [State.cx, h]
    change ((s.cell c).ctxs.del i.ctx).getD i.ctx {} = {}
    rw [Tbl.getD, Tbl.get?_del_same]
    rfl
  · rw [hcx']
    refine ⟨rfl, rfl, rfl, rfl, rfl, rfl, fun b hb hbd => (State.cell_congr hcells b).trans (State.cell_moveCells_other hc hb hbd),
      fun hblank => ?_, ?_, fun n q hq hx hdst hsrc => ?_⟩
    · rw [hto, Cell.matrix_join]
      exact Matrix.joined_blank hblank (s.movedPart i.ctx c d).matrix
    · rw [hnet]
      exact (List.length_map ..).trans (congrArg List.length hnets)
    · rw [← hnets] at hq
      rw [hnet]
      exact State.net_redirect hc hq hx hdst hsrc

end Sys2Proof.Machine
end

section
/-! PROOFS. Loads ended, releases, completion, return tokens and posted launches (R56, R64, R99, R229, R305, R307 to R309). -/

namespace Sys2Proof.Machine

/-! ## Changes beside the cells -/

/-- Two states differ in memory, its marks, the error ring, the sub-logs and the functions at most. -/
def Aside (s t : State) : Prop := { t with
  mem := s.mem
  gkeys := s.gkeys
  gpoison := s.gpoison
  gbad := s.gbad
  unchecked := s.unchecked
  errRing := s.errRing
  hbm := s.hbm
  fns := s.fns } = s

theorem Aside.refl (s : State) : Aside s s := rfl

theorem Aside.trans {s t u : State} (h : Aside s t) (h' : Aside t u) : Aside s u :=
  (congrArg (fun w : State => { w with
    mem := s.mem
    gkeys := s.gkeys
    gpoison := s.gpoison
    gbad := s.gbad
    unchecked := s.unchecked
    errRing := s.errRing
    hbm := s.hbm
    fns := s.fns }) h' :).trans h

theorem Aside.cells {s t : State} (h : Aside s t) : t.cells = s.cells := (congrArg State.cells h :)
theorem Aside.insts {s t : State} (h : Aside s t) : t.insts = s.insts := (congrArg State.insts h :)
theorem Aside.net {s t : State} (h : Aside s t) : t.net = s.net := (congrArg State.net h :)
theorem Aside.ops {s t : State} (h : Aside s t) : t.ops = s.ops := (congrArg State.ops h :)
theorem Aside.parts {s t : State} (h : Aside s t) : t.parts = s.parts := (congrArg State.parts h :)
theorem Aside.clock {s t : State} (h : Aside s t) : t.clock = s.clock := (congrArg State.clock h :)
theorem Aside.gated {s t : State} (h : Aside s t) : t.gated = s.gated := (congrArg State.gated h :)

theorem aside_foldl {α : Type} {f : State → α → State} (h : ∀ s a, Aside s (f s a)) (l : List α) (s : State) : Aside s (l.foldl f s) := by
  induction l generalizing s with
  | nil => exact Aside.refl s
  | cons a l ih => exact (h s a).trans (ih (f s a))

theorem aside_zeroRange (s : State) (a n : Nat) : Aside s (s.zeroRange a n) := rfl

theorem aside_modFn (s : State) (f : Nat) (g : Fn → Fn) : Aside s (s.modFn f g) := rfl

theorem aside_wrBytes (s : State) (a : Nat) (bs : List Byte) : Aside s (s.wrBytes a bs) := rfl

theorem aside_errRing (s : State) (r : RecRing) : Aside s { s with errRing := r } := rfl

theorem aside_wrGran (s : State) (key : Option (BitVec 512)) (g : Nat) (bs : List Byte) : Aside s (s.wrGran key g bs) := rfl

theorem aside_errRec (s : State) (kind part cell ctx : Nat) (d1 d2 : Word) : Aside s (s.errRec kind part cell ctx d1 d2) := by
  unfold State.errRec
  dsimp only
  split
  · exact Aside.refl s
  · exact (aside_wrBytes ..).trans (aside_errRing ..)

theorem aside_ringWrite (s : State) (i key : Nat) (e : Entry) : Aside s (s.ringWrite i key e) := by
  unfold State.ringWrite
  dsimp only
  split
  · exact Aside.refl s
  · exact (aside_wrGran ..).trans (aside_wrGran ..)

theorem aside_modSub (s : State) (i key : Nat) (f : SubLog → SubLog) : Aside s (s.modSub i key f) := by
  unfold State.modSub State.modStack
  split <;> rfl

theorem aside_voidIn (s : State) (i key : Nat) (p : Entry → Bool) : Aside s (s.voidIn i key p) :=
  (aside_modSub s i key _).trans (aside_foldl (f := fun (s : State) (e : Entry) => s.ringWrite i key e) (fun _ _ => aside_ringWrite ..) _ _)

theorem aside_ringPut (s : State) (f : Nat) (r : RecRing) (w : List Word) (t : Word) : Aside s (s.ringPut f r w t).1 := by
  unfold State.ringPut
  dsimp only
  split
  · exact aside_wrBytes ..
  · exact aside_errRec ..

theorem aside_putC (s : State) (f q : Nat) (w : List Word) : Aside s (s.putC f q w) :=
  (aside_ringPut s f (s.queue f q).cring w (s.now 0)).trans (aside_modFn ..)

theorem aside_complete (s : State) (i : Inst) (st : EndStatus) : Aside s (s.complete i st) := by
  unfold State.complete
  dsimp only
  split
  · exact (aside_putC ..).trans (aside_modFn ..)
  · exact ((aside_putC ..).trans (aside_modFn ..)).trans (aside_modFn ..)

/-- What closing releases leave: operations are added, each a closing one of a cell of the `Inst`. -/
structure Closes (s : State) (i : Inst) (n : Nat) (ok : Nat → Prop) (sys : Bool) (t : State) : Prop where
  rest : { t with ops := s.ops, serial := s.serial } = s
  length : t.ops.length = s.ops.length + n
  mem : ∀ o, o ∈ t.ops → o ∈ s.ops ∨ (o.kind = .closing ∧ o.sys = sys ∧ o.inst = (i.fn, i.id) ∧ ok o.who.cell ∧ o.who.ctx = i.ctx)

theorem closes_closingRel (s : State) (i : Inst) (c ia region : Nat) (sys : Bool) {ok : Nat → Prop} (hc : ok c) :
    Closes s i (if (s.cx c i.ctx).log = 0 then 0 else 1) ok sys (s.closingRel i c ia region sys) := by
  unfold State.closingRel State.fresh
  split
  · exact ⟨rfl, rfl, fun o ho => .inl ho⟩
  · refine ⟨rfl, by simp, fun o ho => ?_⟩
    rcases List.mem_append.mp ho with ho | ho
    · exact .inl ho
    · obtain rfl := List.mem_singleton.mp ho
      exact .inr ⟨rfl, rfl, rfl, hc, rfl⟩

theorem Closes.trans {s t u : State} {i : Inst} {n m : Nat} {ok : Nat → Prop} {sys : Bool} (h : Closes s i n ok sys t)
    (h' : Closes t i m ok sys u) : Closes s i (n + m) ok sys u where
  rest := (congrArg (fun w : State => { w with ops := s.ops, serial := s.serial }) h'.rest :).trans h.rest
  length := by rw [h'.length, h.length, Nat.add_assoc]
  mem o ho := (h'.mem o ho).elim (h.mem o) .inr

/-- Every context that has a log releases it. -/
theorem closes_releaseAll (s : State) (i : Inst) : Closes s i (i.place.filter fun c => decide ((s.cx c i.ctx).log ≠ 0)).length
    (· ∈ i.place) true (s.releaseAll i) := by
  have h : ∀ (l : List Nat) (s : State), (∀ c, c ∈ l → c ∈ i.place) →
      Closes s i (l.filter fun c => decide ((s.cx c i.ctx).log ≠ 0)).length (· ∈ i.place) true
        (l.foldl (fun s c => s.closingRel i c 0x3FFF 0 true) s) := by
    intro l
    induction l with
    | nil => exact fun s _ => ⟨rfl, rfl, fun o ho => .inl ho⟩
    | cons c l ih =>
      intro s hl
      have h1 := closes_closingRel s i c 0x3FFF 0 true (hl c (List.mem_cons_self ..))
      have h2 := ih (s.closingRel i c 0x3FFF 0 true) fun d hd => hl d (List.mem_cons_of_mem _ hd)
      have hcells : (s.closingRel i c 0x3FFF 0 true).cells = s.cells := (congrArg State.cells h1.rest :)
      simp only [State.cx_congr hcells] at h2
      have hsum : (List.filter (fun c => decide ((s.cx c i.ctx).log ≠ 0)) (c :: l)).length =
          (if (s.cx c i.ctx).log = 0 then 0 else 1) + (List.filter (fun c => decide ((s.cx c i.ctx).log ≠ 0)) l).length := by
        by_cases h0 : (s.cx c i.ctx).log = 0
        · simp [h0]
        · simp [h0]; omega
      rw [hsum]
      exact h1.trans h2
  exact h i.place s fun _ hc => hc

/-! ## Frames dropped (R56, R307) -/

theorem Cell.cx_dropFrame_other (d : Cell) {x y : Nat} (b : Nat) (f : Frame) (h : y ≠ x) : (d.dropFrame x b f).cx y = d.cx y :=
  Cell.cx_modCx_other _ x y _ h

theorem Cell.cx_dropFrame (d : Cell) (x b : Nat) (f : Frame) : ∃ p, (d.dropFrame x b f).cx x =
    { d.cx x with frames := (d.cx x).frames.del b, pools := p } := ⟨_, Cell.cx_modCx _ x _⟩

/-- Frames dropped one after another: those with other bases are left. -/
theorem Cell.mem_frames_dropFrames {x : Nat} (l : List (Nat × Frame)) (d : Cell) {a : Nat × Frame}
    (h : a ∈ ((l.foldl (fun d e => d.dropFrame x e.1 e.2) d).cx x).frames) : a ∈ (d.cx x).frames ∧ ∀ e, e ∈ l → a.1 ≠ e.1 := by
  induction l generalizing d with
  | nil => exact ⟨h, fun e he => absurd he List.not_mem_nil⟩
  | cons e l ih =>
    obtain ⟨hin, hne⟩ := ih (d.dropFrame x e.1 e.2) h
    obtain ⟨p, hp⟩ := Cell.cx_dropFrame d x e.1 e.2
    rw [hp] at hin
    change a ∈ (d.cx x).frames.del e.1 at hin
    rw [Tbl.del_eq_filter, List.mem_filter, bne_iff_ne] at hin
    refine ⟨hin.1, fun b hb => ?_⟩
    rcases List.mem_cons.mp hb with rfl | hb
    · exact hin.2
    · exact hne b hb

/-- A context keeps all but its frames and their pools when frames are dropped. -/
theorem Cell.cx_dropFrames (x y : Nat) (l : List (Nat × Frame)) (d : Cell) :
    { (l.foldl (fun d e => d.dropFrame x e.1 e.2) d).cx y with frames := (d.cx y).frames, pools := (d.cx y).pools } = d.cx y := by
  refine foldl_keeps (fun b : Cell => { b.cx y with frames := (d.cx y).frames, pools := (d.cx y).pools })
    (fun (d : Cell) (e : Nat × Frame) => d.dropFrame x e.1 e.2) (fun b e => ?_) l d
  by_cases h : y = x
  · subst h
    obtain ⟨p, hp⟩ := Cell.cx_dropFrame b y e.1 e.2
    rw [hp]
  · rw [Cell.cx_dropFrame_other b e.1 e.2 h]

/-- A cell's context left without frames. -/
def Cell.frameless (d : Cell) (x : Nat) : Cell := (d.cx x).frames.foldl (fun d e => d.dropFrame x e.1 e.2) d

theorem Cell.frames_frameless (d : Cell) (x : Nat) : ((d.frameless x).cx x).frames = [] :=
  List.eq_nil_iff_forall_not_mem.mpr fun a ha => by
    obtain ⟨hin, hne⟩ := Cell.mem_frames_dropFrames _ d ha
    exact hne a hin rfl

theorem State.freeFrames_eq (s : State) (i : Inst) : s.freeFrames i = i.place.foldl (fun s c => s.modCell c fun d => d.frameless i.ctx) s := rfl

theorem State.freeFrames_rest (s : State) (i : Inst) : { s.freeFrames i with cells := s.cells } = s :=
  foldl_keeps (fun u : State => { u with cells := s.cells }) (fun (s : State) c => s.modCell c fun d => d.frameless i.ctx) (fun _ _ => rfl)
    i.place s

theorem State.frames_freeFrames (s : State) (i : Inst) {c : Nat} (hc : c ∈ i.place) : ((s.freeFrames i).cx c i.ctx).frames = [] := by
  rw [State.freeFrames_eq]
  refine foldl_cell_all (f := fun (s : State) c => s.modCell c fun d => d.frameless i.ctx) (key := fun c => c)
    (fun _ _ _ h => State.cell_modCell_other _ _ _ _ h) (fun _ d => (d.cx i.ctx).frames = []) i.place (fun s c _ => ?_) s
    (by rw [List.map_id']; exact hc)
  rw [State.cell_modCell]
  exact Cell.frames_frameless ..

theorem State.log_freeFrames (s : State) (i : Inst) (c y : Nat) : ((s.freeFrames i).cx c y).log = (s.cx c y).log := by
  rw [State.freeFrames_eq]
  refine foldl_keeps (fun u : State => (u.cx c y).log) (fun (s : State) c => s.modCell c fun d => d.frameless i.ctx) (fun u b => ?_) i.place s
  by_cases h : c = b
  · subst h
    rw [State.cx_modCell]
    exact (congrArg Ctx.log (Cell.cx_dropFrames i.ctx y _ (u.cell c)) :)
  · rw [State.cx_modCell_other _ _ _ _ _ h]

end Sys2Proof.Machine
end

section
/-! PROOFS. Loads advanced, instances ended, return tokens and posted launches (R56, R64, R99, R229, R303, R305, R307 to R309). -/

namespace Sys2Proof

theorem Tbl.get?_map {α β : Type} (t : Tbl α) (g : α → β) (n : Nat) :
    Tbl.get? (t.map fun (e : Nat × α) => (e.1, g e.2)) n = (t.get? n).map g := by
  induction t with
  | nil => rfl
  | cons e t ih =>
    obtain ⟨k, v⟩ := e
    by_cases h : n = k
    · simp [Tbl.get?, h]
    · simpa [Tbl.get?, h] using ih

/-- A table of a list's elements by their places. -/
theorem Tbl.get?_zipIdx {α β : Type} (l : List α) (g : α → β) (k v : Nat) :
    Tbl.get? ((l.zipIdx k).map fun e => (e.2, g e.1)) (k + v) = l[v]?.map g := by
  induction l generalizing k v with
  | nil => rfl
  | cons a l ih =>
    rw [List.zipIdx_cons, List.map_cons, Tbl.get?]
    cases v with
    | zero => simp
    | succ v =>
      rw [if_neg (by dsimp only; omega), List.getElem?_cons_succ, ← ih (k + 1) v]
      exact congrArg _ (by omega)

namespace Machine

section
variable {s : State} {f id : Nat} {i : Inst} (hi : s.inst? f id = some i)
include hi

/-! ## Loads (R56, R307) -/

section
variable {m : Image} (hm : parseImage i.words = some m) (hph : i.phase = .running)
include hm hph

theorem execLoadAdvance_forms (hu : i.unformed ≠ []) : exec (.loadAdvance f id) s = .next (s.formDue i) := by
  have hu' : i.unformed.isEmpty = false := by simpa using hu
  change execLoadAdvance f id s = _
  simp only [execLoadAdvance, hi, hm, hph, hu', beq_self_eq_true, Bool.not_false, Bool.and_self, if_true]

variable (hl : i.load + 1 < m.nload) (hidle : s.loadIdle i = true) (hr : ∀ c, c ∈ i.place → s.runs c = true)
include hl hidle hr

/-- An idle load with another one to follow: it is ended, and then the next is entered. -/
theorem execLoadAdvance_idle : exec (.loadAdvance f id) s = .next
    (if i.leaving = false then ((s.freeFrames i).releaseAll i).modInst f id fun i => { i with leaving := true }
      else if s.relsApplied i 0 then (s.nextLoad i m).getD s else s) := by
  have hu : i.unformed.isEmpty = true := by
    simp only [State.loadIdle, Bool.and_eq_true] at hidle
    exact hidle.1.1
  have hall : i.place.all s.runs = true := List.all_eq_true.mpr hr
  change execLoadAdvance f id s = _
  simp only [execLoadAdvance, hi, hm, hph, hu, hidle, hall, Nat.not_le.mpr hl, beq_self_eq_true, bne_self_eq_false, Bool.not_true,
    Bool.and_false, decide_false, Bool.or_self, Bool.false_eq_true, if_false, Bool.not_eq_true']

end

end

theorem State.zeroRanges_aside (s : State) (rs : List (Nat × Nat)) : Aside s (rs.foldl (fun s r => s.zeroRange r.1 r.2) s) :=
  aside_foldl (f := fun (s : State) (r : Nat × Nat) => s.zeroRange r.1 r.2) (fun _ _ => aside_zeroRange ..) rs s

/-- How the next load is entered: on the released contexts of the last one. -/
theorem State.nextLoad_eq {s t : State} {i : Inst} {m : Image} (h : s.nextLoad i m = some t) :
    ∃ (u : State) (starts : List Nat) (aheads : List (Option (List IWord))), u.insts = s.insts ∧
      starts.length = (i.place.zip (m.byVcell (i.load + 1))).length ∧
      (u.modInst i.fn i.id fun _ => { i with regions := [], times := i.place.zipIdx.map fun e => (e.2, (s.cx e.1 i.ctx).times) }).enterLoad
        { i with regions := [], times := i.place.zipIdx.map fun e => (e.2, (s.cx e.1 i.ctx).times) } m (i.load + 1) i.ctx i.place starts
        aheads = some t := by
  unfold State.nextLoad at h
  dsimp only at h
  split at h
  · refine ⟨_, _, _, ?_, ?_, h⟩
    · refine (congrArg State.insts (State.modCells_rest _ (fun d => d.releaseCtx i.ctx) i.place) :).trans ?_
      exact (State.zeroRanges_aside s i.rings).insts
    · rw [List.length_map, List.length_map]
  · cases h

/-- What entering the next load leaves. -/
theorem nextLoad_leaves {s t : State} {f id : Nat} {i : Inst} {m : Image} (hi : s.inst? f id = some i) (h : s.nextLoad i m = some t) :
    ∃ j, t.inst? f id = some j ∧ j.load = i.load + 1 ∧ j.place = i.place ∧ j.ctx = i.ctx ∧ j.leaving = false ∧ j.regions = [] ∧
      (i.place.length = m.vcount → ∀ c, c ∈ i.place → (t.cx c i.ctx).times = (s.cx c i.ctx).times) := by
  obtain ⟨rfl, rfl⟩ := State.inst?_key hi
  obtain ⟨u, starts, aheads, hu, hstarts, hload⟩ := State.nextLoad_eq h
  obtain ⟨rings, unformed, hinsts⟩ := State.enterLoad_insts hload
  have hi' : u.inst? i.fn i.id = some i := by rw [State.inst?, hu]; exact hi
  refine ⟨Inst.entered { i with regions := [], times := i.place.zipIdx.map fun e => (e.2, (s.cx e.1 i.ctx).times) } (i.load + 1) i.ctx
    i.place rings unformed, ?_, rfl, rfl, rfl, rfl, rfl, fun hp c hc => ?_⟩
  · refine (congrArg (List.find? _) hinsts).trans ?_
    exact State.inst?_modInst _ (State.inst?_modInst (fun _ =>
      { i with regions := [], times := i.place.zipIdx.map fun e => (e.2, (s.cx e.1 i.ctx).times) }) hi' ⟨rfl, rfl⟩) ⟨rfl, rfl⟩
  · have hlen : starts.length = m.vcount := by
      rw [hstarts, List.length_zip, Image.length_byVcell, hp, Nat.min_self]
    refine State.enterLoad_times hload hp hlen (count := fun c => (s.cx c i.ctx).times) (fun v c hv => ?_) hc
    have hget := Tbl.get?_zipIdx i.place (fun c => (s.cx c i.ctx).times) 0 v
    rw [Nat.zero_add, hv] at hget
    exact congrArg (fun o : Option Nat => o.getD 0) hget

/-- What ending an idle load leaves. -/
theorem loadEnds_leaves {s : State} {f id : Nat} {i : Inst} (hi : s.inst? f id = some i) :
    let t := ((s.freeFrames i).releaseAll i).modInst f id fun i => { i with leaving := true }
    t.inst? f id = some { i with leaving := true } ∧ (∀ c, c ∈ i.place → (t.cx c i.ctx).frames = []) ∧ t.mem = s.mem ∧
      t.ops.length = s.ops.length + (i.place.filter fun c => decide ((s.cx c i.ctx).log ≠ 0)).length ∧
      ∀ o, o ∈ t.ops → o ∈ s.ops ∨ (o.kind = .closing ∧ o.sys = true ∧ o.inst = (f, id) ∧ o.who.cell ∈ i.place ∧ o.who.ctx = i.ctx) := by
  intro t
  obtain ⟨hf, hid⟩ := State.inst?_key hi
  have hfree := State.freeFrames_rest s i
  obtain ⟨hrest, hlen, hmem⟩ := closes_releaseAll (s.freeFrames i) i
  have hops : (s.freeFrames i).ops = s.ops := (congrArg State.ops hfree :)
  simp only [State.log_freeFrames] at hlen
  refine ⟨State.inst?_modInst _ ?_ ⟨rfl, rfl⟩, fun c hc => ?_, ?_, ?_, fun o ho => ?_⟩
  · rw [State.inst?, (congrArg State.insts hrest :), (congrArg State.insts hfree :)]
    exact hi
  · have hcells : t.cells = (s.freeFrames i).cells := (congrArg State.cells hrest :)
    rw [State.cx_congr hcells]
    exact State.frames_freeFrames s i hc
  · exact (congrArg State.mem hrest :).trans (congrArg State.mem hfree :)
  · rw [← hops]; exact hlen
  · rw [← hops, ← hf, ← hid]; exact hmem o ho

/-! ## Ends (R64, R99, R305) -/

theorem State.instAt_of_got {s g : State} (h : Got s g) (c x : Nat) : g.instAt c x = s.instAt c x := by
  have hinst : (g.cx c x).inst = (s.cx c x).inst := (congrArg Ctx.inst (h.cx c x) :)
  have hinsts : g.insts = s.insts := (congrArg State.insts h.rest :)
  unfold State.instAt State.inst?
  rw [hinst, hinsts]

section
variable {s : State} {f id : Nat} {i : Inst} (hi : s.inst? f id = some i)
include hi

/-- The first return token is kept (R305). -/
theorem returnToken_leaves {src ctx : Nat} {q : Packet} {k : Token} (hp : s.packet? 4 src Config.frontEnd ctx = some q) (hb : q.body = .ret k)
    (ha : s.instAt src ctx = some i) : ∃ t, exec (.returnToken src ctx) s = .next t ∧
      t.inst? f id = some { i with ret := some (i.ret.getD k.val) } ∧ t.net = (s.takePacket 4 src Config.frontEnd ctx).net := by
  obtain ⟨rfl, rfl⟩ := State.inst?_key hi
  have hg := got_accepted s 4 src Config.frontEnd ctx q
  refine ⟨((s.takePacket 4 src Config.frontEnd ctx).accepted q).modInst i.fn i.id fun i => { i with ret := some (i.ret.getD k.val) }, ?_, ?_, ?_⟩
  · change execReturnToken src ctx s = _
    simp only [execReturnToken, hp, hb, State.instAt_of_got hg, ha]
  · refine State.inst?_modInst _ ?_ ⟨rfl, rfl⟩
    rw [State.inst?, (congrArg State.insts hg.rest :)]
    exact hi
  · exact (congrArg State.net (State.accepted_spec (s.takePacket 4 src Config.frontEnd ctx) q).1 :)

theorem execEndOfGraphRelease_releases (hph : i.phase = .running) (he : s.canEnd i = true) (hh : s.hangs i = false)
    (hr : ∀ c, c ∈ i.place → s.runs c = true) :
    exec (.endOfGraphRelease f id) s = .next ((s.releaseAll i).modInst f id fun i => { i with phase := .releasing }) := by
  have hall : i.place.all s.runs = true := List.all_eq_true.mpr hr
  change execEndOfGraphRelease f id s = _
  simp only [execEndOfGraphRelease, hi, hph, he, hh, hall, bne_self_eq_false, Bool.not_true, Bool.or_self, Bool.false_eq_true, if_false]

theorem execInstanceComplete_ends (hph : i.phase = .releasing) (he : s.canEnd i = true) (hh : s.hangs i = false)
    (hr : s.relsApplied i 0 = true) (hx : i.expired = false) : exec (.instanceComplete f id) s = .next (s.endInst i .complete) := by
  change execInstanceComplete f id s = _
  simp only [execInstanceComplete, hi, State.allDone, hph, he, hh, hr, hx, beq_self_eq_true, Bool.not_false, Bool.and_self, if_true]

theorem execInstanceComplete_waits (h : s.relsApplied i 0 = false ∨ i.expired = true) :
    exec (.instanceComplete f id) s = .next s := by
  change execInstanceComplete f id s = _
  have hno : (s.allDone i && !i.expired && !s.hangs i) = false := by
    rcases h with h | h <;> simp [State.allDone, h]
  simp only [execInstanceComplete, hi, hno, Bool.false_eq_true, if_false]

end

/-! ## An `Inst` ended (R303, R307) -/

/-- A shadow page returned to its function (R91). -/
def Fn.regain (k : Fn) (psize pg : Nat) : Fn := { k with shadow := k.shadow ++ [(psize, pg)] }

/-- Rings given back to a function's pool (R307). -/
def Fn.repool (k : Fn) (rs : List (Nat × Nat)) : Fn := { k with pool := k.pool ++ rs }

/-- The entries of a sub-log that were not published become VOID on some stacks, and their shadow pages return (R91). -/
def State.voidLogs (s : State) (f log : Nat) (sts : List Nat) : State :=
  sts.foldl (fun s k =>
    let rs := (s.sub k log).remaps fun _ => true
    let s := rs.foldl (fun s e =>
      let pg := leNat ((leBytes e.data.toNat 64).drop 8 |>.take 8)
      (s.zeroRange pg (pageBytes e.size)).modFn f fun k => k.regain e.size pg) s
    if log = 0 then s else s.voidIn k log fun _ => true) s

/-- What the end of an `Inst` does on one cell. -/
def State.releaseOn (s : State) (i : Inst) (c : Nat) : State :=
  (s.voidLogs i.fn (s.cx c i.ctx).log (List.range 16)).modCell c fun d => d.releaseCtx i.ctx

/-- What it does first: the `Inst`'s packets and operations go. -/
def State.dropInst (s : State) (i : Inst) : State :=
  { s with net := s.net.filter fun p => !p.ofInst i }.dropOps fun o => o.inst == (i.fn, i.id)

theorem State.releaseInst_eq (s : State) (i : Inst) : s.releaseInst i =
    (i.rings.foldl (fun (s : State) (r : Nat × Nat) => s.zeroRange r.1 r.2)
      (i.place.foldl (fun (s : State) c => s.releaseOn i c) (s.dropInst i))).modFn i.fn fun f => f.repool i.rings := rfl

/-- Two states differ beside the cells, and in their functions by the free pages and rings at most. -/
structure Kept (s t : State) : Prop where
  aside : Aside s t
  fn : ∀ f, { t.fn f with
    shadow := (s.fn f).shadow
    pool := (s.fn f).pool } = s.fn f

theorem Kept.refl (s : State) : Kept s s := ⟨Aside.refl s, fun _ => rfl⟩

theorem Kept.trans {s t u : State} (h : Kept s t) (h' : Kept t u) : Kept s u :=
  ⟨h.aside.trans h'.aside, fun f => (congrArg (fun k : Fn => { k with
    shadow := (s.fn f).shadow
    pool := (s.fn f).pool }) (h'.fn f) :).trans (h.fn f)⟩

theorem Kept.queues {s t : State} (h : Kept s t) (f : Nat) : (t.fn f).queues = (s.fn f).queues := (congrArg Fn.queues (h.fn f) :)

theorem kept_foldl {α : Type} {f : State → α → State} (h : ∀ s a, Kept s (f s a)) (l : List α) (s : State) : Kept s (l.foldl f s) := by
  induction l generalizing s with
  | nil => exact Kept.refl s
  | cons a l ih => exact (h s a).trans (ih (f s a))

theorem Aside.kept {s t : State} (h : Aside s t) (hf : t.fns = s.fns) : Kept s t := ⟨h, fun f => by unfold State.fn; rw [hf]⟩

theorem kept_modFn (s : State) (f : Nat) (g : Fn → Fn) (hg : ∀ k, { g k with
    shadow := k.shadow
    pool := k.pool } = k) : Kept s (s.modFn f g) := by
  refine ⟨aside_modFn s f g, fun n => ?_⟩
  by_cases h : n = f
  · subst h; rw [State.fn_modFn, hg]
  · rw [State.fn_modFn_other s f n g h]

theorem kept_zeroRange (s : State) (a n : Nat) : Kept s (s.zeroRange a n) := (aside_zeroRange s a n).kept rfl

theorem State.wrGran_fns (s : State) (key : Option (BitVec 512)) (g : Nat) (bs : List Byte) : (s.wrGran key g bs).fns = s.fns := rfl

theorem State.ringWrite_fns (s : State) (i key : Nat) (e : Entry) : (s.ringWrite i key e).fns = s.fns := by
  unfold State.ringWrite
  dsimp only
  split
  · rfl
  · exact (State.wrGran_fns ..).trans (State.wrGran_fns ..)

theorem State.modSub_fns (s : State) (i key : Nat) (f : SubLog → SubLog) : (s.modSub i key f).fns = s.fns := by
  unfold State.modSub State.modStack
  split <;> rfl

theorem kept_voidIn (s : State) (i key : Nat) (p : Entry → Bool) : Kept s (s.voidIn i key p) := by
  refine (aside_voidIn s i key p).kept ?_
  exact (foldl_keeps State.fns (fun (s : State) (e : Entry) => s.ringWrite i key e) (fun _ _ => State.ringWrite_fns ..) _ _).trans
    (State.modSub_fns ..)

theorem kept_voidLogs (s : State) (f log : Nat) (sts : List Nat) : Kept s (s.voidLogs f log sts) := by
  refine kept_foldl (fun s k => ?_) sts s
  have h : Kept s (((s.sub k log).remaps fun _ => true).foldl (fun s e =>
      let pg := leNat ((leBytes e.data.toNat 64).drop 8 |>.take 8)
      (s.zeroRange pg (pageBytes e.size)).modFn f fun k => k.regain e.size pg) s) :=
    kept_foldl (f := fun (s : State) (e : Entry) =>
      let pg := leNat ((leBytes e.data.toNat 64).drop 8 |>.take 8)
      (s.zeroRange pg (pageBytes e.size)).modFn f fun k => k.regain e.size pg)
      (fun _ e => (kept_zeroRange ..).trans (kept_modFn _ f (fun k => k.regain e.size _) fun _ => rfl)) _ s
  dsimp only
  split
  · exact h
  · exact h.trans (kept_voidIn ..)

theorem kept_returnShadows (s : State) (o : MemOp) : Kept s (s.returnShadows o) :=
  kept_foldl (f := fun (s : State) (pg : Nat) => (s.zeroRange pg (pageBytes o.psize)).modFn o.inst.1 fun f => f.regain o.psize pg)
    (fun _ pg => (kept_zeroRange ..).trans (kept_modFn _ _ (fun f => f.regain o.psize pg) fun _ => rfl)) _ s

theorem kept_dropOps (s : State) (p : MemOp → Bool) : Kept { s with ops := s.ops.filter fun o => !p o } (s.dropOps p) :=
  kept_foldl (f := fun (s : State) (o : MemOp) => s.returnShadows o) (fun _ _ => kept_returnShadows ..) _ _

theorem kept_dropInst (s : State) (i : Inst) : (s.dropInst i).insts = s.insts ∧ (∀ f, ((s.dropInst i).fn f).queues = (s.fn f).queues) := by
  have h := kept_dropOps { s with net := s.net.filter fun p => !p.ofInst i } fun o => o.inst == (i.fn, i.id)
  exact ⟨h.aside.insts, h.queues⟩

/-- The release of one context: instances and queues stand. -/
theorem State.releaseOn_keeps (s : State) (i : Inst) (c : Nat) : (s.releaseOn i c).insts = s.insts ∧
    ∀ f, ((s.releaseOn i c).fn f).queues = (s.fn f).queues :=
  have h := kept_voidLogs s i.fn (s.cx c i.ctx).log (List.range 16)
  ⟨h.aside.insts, h.queues⟩

theorem State.cell_releaseOn_other (s : State) (i : Inst) {c d : Nat} (h : d ≠ c) : (s.releaseOn i c).cell d = s.cell d := by
  rw [State.releaseOn, State.cell_modCell_other _ _ _ _ h]
  exact State.cell_congr (kept_voidLogs s i.fn (s.cx c i.ctx).log (List.range 16)).aside.cells d

/-- A released context is no `Inst`'s. -/
theorem Cell.cx_releaseCtx (d : Cell) (x : Nat) : ((d.releaseCtx x).cx x).inst = none ∧ ((d.releaseCtx x).cx x).released = true := by
  unfold Cell.releaseCtx
  dsimp only
  rw [Cell.cx_modCx]
  exact ⟨rfl, rfl⟩

theorem State.releaseInst_queues (s : State) (i : Inst) (f : Nat) : ((s.releaseInst i).fn f).queues = (s.fn f).queues := by
  rw [State.releaseInst_eq]
  refine ((kept_modFn _ i.fn (fun k => k.repool i.rings) fun _ => rfl).queues f).trans ?_
  refine ((kept_foldl (f := fun (s : State) (r : Nat × Nat) => s.zeroRange r.1 r.2) (fun _ _ => kept_zeroRange ..) i.rings _).queues f).trans ?_
  exact (foldl_keeps (fun u : State => (u.fn f).queues) (fun (s : State) c => s.releaseOn i c) (fun s c => (s.releaseOn_keeps i c).2 f)
    i.place _).trans ((kept_dropInst s i).2 f)

/-- The contexts of a released `Inst` are no `Inst`'s. -/
theorem State.releaseInst_cx (s : State) (i : Inst) {c : Nat} (hc : c ∈ i.place) :
    ((s.releaseInst i).cx c i.ctx).inst = none ∧ ((s.releaseInst i).cx c i.ctx).released = true := by
  have hcells : (s.releaseInst i).cells = (i.place.foldl (fun (s : State) c => s.releaseOn i c) (s.dropInst i)).cells := by
    rw [State.releaseInst_eq]
    exact (State.zeroRanges_aside _ i.rings).cells
  have hall := foldl_cell_all (f := fun (s : State) c => s.releaseOn i c) (key := fun c => c)
    (fun s c d h => s.cell_releaseOn_other i h) (fun _ d => (d.cx i.ctx).inst = none ∧ (d.cx i.ctx).released = true) i.place
    (fun s c _ => by rw [State.releaseOn, State.cell_modCell]; exact Cell.cx_releaseCtx ..) (s.dropInst i) (c := c)
    (by rw [List.map_id']; exact hc)
  rw [State.cx_congr hcells]
  exact hall

/-! ## The completion record (R298, R303) -/

theorem Queue.live_settle (q : Queue) : q.settle.live = q.live := by
  unfold Queue.settle
  split <;> rfl

theorem State.queue_modQ_other (s : State) {f q n p : Nat} (g : Queue → Queue) (h : ¬ (n = f ∧ p = q)) :
    (s.modQ f q g).queue n p = s.queue n p := by
  unfold State.queue State.modQ
  by_cases hn : n = f
  · subst hn
    rw [State.fn_modFn]
    exact Tbl.getD_put_other _ _ _ _ _ fun hp => h ⟨rfl, hp⟩
  · rw [State.fn_modFn_other s _ _ _ hn]

theorem State.errRing_fns (s : State) (r : RecRing) : { s with errRing := r }.fns = s.fns := rfl

theorem State.errRec_fns (s : State) (kind part cell ctx : Nat) (d1 d2 : Word) : (s.errRec kind part cell ctx d1 d2).fns = s.fns := by
  unfold State.errRec
  dsimp only
  split
  · rfl
  · exact (State.errRing_fns ..).trans (State.wrBytes_fns ..)

theorem State.ringPut_fns (s : State) (f : Nat) (r : RecRing) (w : List Word) (t : Word) : (s.ringPut f r w t).1.fns = s.fns := by
  unfold State.ringPut
  dsimp only
  split
  · rfl
  · exact State.errRec_fns ..

/-- A queue with its completion ring moved on. -/
def Queue.withC (q : Queue) (r : RecRing) : Queue := { q with cring := r }

theorem State.putC_eq (s : State) (f q : Nat) (w : List Word) : s.putC f q w =
    (s.ringPut f (s.queue f q).cring w (s.now 0)).1.modQ f q fun k => k.withC (s.ringPut f (s.queue f q).cring w (s.now 0)).2 := rfl

theorem State.live_modQ (s : State) (f q : Nat) (g : Queue → Queue) (hg : ∀ k, (g k).live = k.live) (n p : Nat) :
    ((s.modQ f q g).queue n p).live = (s.queue n p).live := by
  by_cases h : n = f ∧ p = q
  · obtain ⟨rfl, rfl⟩ := h
    rw [State.queue_modQ, hg]
  · rw [State.queue_modQ_other s g h]

theorem State.live_putC (s : State) (f q : Nat) (w : List Word) (n p : Nat) : ((s.putC f q w).queue n p).live = (s.queue n p).live := by
  rw [State.putC_eq]
  refine (State.live_modQ _ f q (fun k => k.withC (s.ringPut f (s.queue f q).cring w (s.now 0)).2) (fun _ => rfl) n p).trans ?_
  unfold State.queue State.fn
  rw [State.ringPut_fns]

/-- A queue that no longer waits on a launch. -/
def Queue.unwaked (q : Queue) (id : Nat) : Queue :=
  { q with pending := q.pending.filter fun p => match p.wake with | some w => w.1 != id | none => true }

/-- A function whose launch is recorded as ended. -/
def Fn.recorded (k : Fn) (id : Nat) : Fn :=
  { k with
    postedLive := k.postedLive.filter (· != id)
    queues := k.queues.map fun (e : Nat × Queue) => (e.1, e.2.unwaked id) }

/-- A queue one of whose launches is complete. -/
def Queue.completed (q : Queue) (id : Nat) : Queue :=
  { q with
    live := q.live.filter (· != id)
    pending := q.pending.filter fun p => p.launch != some id }

theorem State.complete_queued (s : State) (i : Inst) (st : EndStatus) (hd : i.dev = false) : ∃ w : List Word, s.complete i st =
    ((s.putC i.fn i.q w).modFn i.fn fun k => k.recorded i.id).modQ i.fn i.q fun k => (k.completed i.id).settle := by
  unfold State.complete
  rw [hd]
  exact ⟨_, rfl⟩

theorem Fn.live_recorded (k : Fn) (id q : Nat) : ((k.recorded id).queues.getD q {}).live = (k.queues.getD q {}).live := by
  unfold Fn.recorded Tbl.getD
  rw [Tbl.get?_map k.queues (fun e => e.unwaked id)]
  cases k.queues.get? q with
  | none => rfl
  | some e => rfl

/-- The record of a launch from a queue takes it off that queue's live launches. -/
theorem State.live_complete (s : State) (i : Inst) (st : EndStatus) (hd : i.dev = false) :
    ((s.complete i st).queue i.fn i.q).live = (s.queue i.fn i.q).live.filter (· != i.id) := by
  obtain ⟨w, heq⟩ := State.complete_queued s i st hd
  have hput := State.live_putC s i.fn i.q w i.fn i.q
  have hrec : (((s.putC i.fn i.q w).modFn i.fn fun k => k.recorded i.id).queue i.fn i.q).live = (s.queue i.fn i.q).live := by
    unfold State.queue at hput ⊢
    rw [State.fn_modFn, Fn.live_recorded, hput]
  rw [heq, State.queue_modQ, Queue.live_settle, ← hrec]
  rfl

/-! ## `over'` -/

/-- An `Inst` that has ended is gone from the table, from its contexts and from its queue (R303, R307). -/
theorem endInst_leaves {s : State} {f id : Nat} {i : Inst} (hi : s.inst? f id = some i) (st : EndStatus) :
    (s.endInst i st).inst? f id = none ∧
      (∀ c, c ∈ i.place → ((s.endInst i st).cx c i.ctx).inst = none ∧ ((s.endInst i st).cx c i.ctx).released = true) ∧
      (i.dev = false → ((s.endInst i st).queue f i.q).live = (s.queue f i.q).live.filter (· != id)) := by
  obtain ⟨rfl, rfl⟩ := State.inst?_key hi
  have hside : Aside { s.releaseInst i with insts := (s.releaseInst i).insts.filter fun j => !(j.fn == i.fn && j.id == i.id) }
      (s.endInst i st) := aside_complete ..
  refine ⟨?_, fun c hc => ?_, fun hd => ?_⟩
  · rw [State.inst?, hside.insts]
    refine List.find?_eq_none.mpr fun j hj hkey => ?_
    obtain ⟨-, hno⟩ := List.mem_filter.mp hj
    rw [hkey] at hno
    cases hno
  · rw [State.cx_congr (hside.cells.trans rfl)]
    exact s.releaseInst_cx i hc
  · refine (State.live_complete { s.releaseInst i with
      insts := (s.releaseInst i).insts.filter fun j => !(j.fn == i.fn && j.id == i.id) } i st hd).trans (congrArg _ ?_)
    exact congrArg (fun t : Tbl Queue => (t.getD i.q {}).live) (s.releaseInst_queues i i.fn)

end Machine

end Sys2Proof
end

section
/-! PROOFS. Posted launches, watchdogs and hangs (R146, R229, R309, R333, R334). -/

namespace Sys2Proof.Machine

/-! ## Records (R146) -/

theorem only_low_iff (w : Word) {n : Nat} (hn : n ≤ 64) : only w [(0, n)] = true ↔ bits w n (64 - n) = 0 := by
  have hlt : w.toNat / 2 ^ n < 2 ^ (64 - n) := by
    rw [Nat.div_lt_iff_lt_mul (Nat.two_pow_pos n), ← pow_add, Nat.sub_add_cancel hn]
    exact w.isLt
  have hsplit := Nat.div_add_mod w.toNat (2 ^ n)
  simp only [only, bits, List.foldl_cons, List.foldl_nil, pow_zero, Nat.div_one, Nat.mul_one, Nat.zero_add, beq_iff_eq, Nat.mod_eq_of_lt hlt]
  constructor
  · intro h
    have hz : 2 ^ n * (w.toNat / 2 ^ n) = 0 := by omega
    exact (Nat.mul_eq_zero.mp hz).resolve_left (Nat.two_pow_pos n).ne'
  · intro h
    rw [h, Nat.mul_zero] at hsplit
    omega

theorem qpostRecord_iff (w : List Word) : qpostRecord w = true ↔ bits (w.getD 0 0) 32 32 = 0 ∧ bits (w.getD 1 0) 11 53 = 0 := by
  unfold qpostRecord
  rw [Bool.and_eq_true, only_low_iff _ (by decide : 32 ≤ 64), only_low_iff _ (by decide : 11 ≤ 64)]

/-! ## Posted launches (R309) -/

/-- A request of QPOST taken off the network, its operation ended. -/
def State.tookPost (s : State) (src ctx op : Nat) : State := (s.takePacket 4 src Config.frontEnd ctx).dropOps fun o => o.id == op

theorem State.tookPost_kept (s : State) (src ctx op : Nat) : Kept { s with
    ops := s.ops.filter fun o => !(o.id == op)
    net := (s.takePacket 4 src Config.frontEnd ctx).net } (s.tookPost src ctx op) := kept_dropOps (s.takePacket 4 src Config.frontEnd ctx) fun o => o.id == op

section
variable {s : State} {i : Inst} {src ctx prio op : Nat} {q : Packet} {w : List Word} {cont : Word} {who : Issuer}
  (hp : s.packet? 4 src Config.frontEnd ctx = some q) (hb : q.body = .qpost w cont prio op who) (ha : s.instAt src ctx = some i)
include hp hb ha

theorem execQpostRequest_eq : exec (.qpostRequest src ctx) s = .next (
    if !qpostRecord w then
      (if (s.op? op).isSome then ((s.tookPost src ctx op).lowerOut who.cell who.ctx 1).opLost who .shape 0 0 else s.tookPost src ctx op)
    else if (s.op? op).isSome then ((s.tookPost src ctx op).post i w prio).1.postReply who cont ((s.tookPost src ctx op).post i w prio).2
      else ((s.tookPost src ctx op).post i w prio).1) := by
  have hk := s.tookPost_kept src ctx op
  have hat : (s.tookPost src ctx op).instAt src ctx = some i := by
    rw [← ha]
    unfold State.instAt State.inst?
    rw [State.cx_congr hk.aside.cells, hk.aside.insts]
    rfl
  change execQpostRequest src ctx s = _
  unfold State.tookPost at hat ⊢
  simp only [execQpostRequest, hp, hb, hat]

end

/-- A reply of the front end stands at the end of the network; the functions stay. -/
theorem State.postReply_leaves (s : State) (who : Issuer) (cont v : Word) :
    (s.postReply who cont v).fns = s.fns ∧ (s.postReply who cont v).net = s.net ++ [s.sent
      { vn := 0, src := Config.frontEnd, dst := (s.cx who.cell who.ctx).place.getD (vcellOf cont) 0, ctx := ctxOf cont, committed := true,
        counts := false, also := some who.cell, body := .token { cont := cont, val := v, tag := who.tag } }] := by
  unfold State.postReply
  cases s.instAt who.cell who.ctx with
  | none => exact ⟨rfl, rfl⟩
  | some j => exact ⟨rfl, rfl⟩

/-- The launch that the device queue makes of a record (R229, R309). -/
def Fn.posted (k : Fn) (i : Inst) (w : List Word) (prio : Nat) : Posted :=
  { id := k.launchCount.toNat
    parent := i.id
    image := bits (w.getD 0 0) 0 32
    vcountM1 := bits (w.getD 1 0) 0 11
    part := i.part
    prio := prio
    budget := k.wdog.toNat
    args := (w.drop 2).take 4 }

/-- A function that has accepted a posted launch. -/
def Fn.accepts (k : Fn) (p : Posted) : Fn :=
  { k with
    launchCount := k.launchCount + 1
    devq := k.devq ++ [p]
    postedLive := k.postedLive ++ [p.id] }

/-- What the device queue leaves in the state beside its function. -/
theorem State.post_rest (s : State) (i : Inst) (w : List Word) (prio : Nat) : { (s.post i w prio).1 with fns := s.fns } = s := by
  unfold State.post
  dsimp only
  split
  · rfl
  · split
    · rfl
    · rfl

section
variable {s : State} {i : Inst} (w : List Word) (prio : Nat)

theorem State.post_refused (h : (s.fn i.fn).posten = false ∨ bits (word (s.fn i.fn).postq) 0 8 ≤ (s.fn i.fn).postedLive.length) :
    s.post i w prio = (s, word (2 ^ 63 + 1)) := by
  have h' : (!(s.fn i.fn).posten || decide (bits (word (s.fn i.fn).postq) 0 8 ≤ (s.fn i.fn).postedLive.length)) = true := by simpa using h
  unfold State.post
  dsimp only
  rw [if_pos h']

variable (h : ¬ ((s.fn i.fn).posten = false ∨ bits (word (s.fn i.fn).postq) 0 8 ≤ (s.fn i.fn).postedLive.length))
include h

theorem State.post_full (hd : 64 ≤ (s.fn i.fn).devq.length) : s.post i w prio = (s, word (2 ^ 63 + 2)) := by
  have h' : ¬ (!(s.fn i.fn).posten || decide (bits (word (s.fn i.fn).postq) 0 8 ≤ (s.fn i.fn).postedLive.length)) = true := by simpa using h
  unfold State.post
  dsimp only
  rw [if_neg h', if_pos (show Config.deviceQueue ≤ _ from hd)]

theorem State.post_accepts (hd : (s.fn i.fn).devq.length < 64) :
    s.post i w prio = (s.modFn i.fn fun k => k.accepts ((s.fn i.fn).posted i w prio), word (s.fn i.fn).launchCount.toNat) := by
  have h' : ¬ (!(s.fn i.fn).posten || decide (bits (word (s.fn i.fn).postq) 0 8 ≤ (s.fn i.fn).postedLive.length)) = true := by simpa using h
  unfold State.post
  dsimp only
  rw [if_neg h', if_neg (show ¬ Config.deviceQueue ≤ _ from Nat.not_le.mpr hd)]
  rfl

end

section
variable {s : State} {i : Inst} {src ctx prio op : Nat} {q : Packet} {w : List Word} {cont : Word} {who : Issuer}
  (hp : s.packet? 4 src Config.frontEnd ctx = some q) (hb : q.body = .qpost w cont prio op who) (ha : s.instAt src ctx = some i)
include hp hb ha

/-- A request that R146 does not show raises SHAPE, and is not answered. -/
theorem qpostRequest_malformed (hw : ¬ qpostRecord w = true) : exec (.qpostRequest src ctx) s = .next (
    if (s.op? op).isSome then ((s.tookPost src ctx op).lowerOut who.cell who.ctx 1).opLost who .shape 0 0 else s.tookPost src ctx op) := by
  rw [execQpostRequest_eq hp hb ha, if_pos (by simpa using hw)]

/-- The state and the value that answer a request as R146 shows it. -/
theorem qpostRequest_answers (hw : qpostRecord w = true) : ∃ t, exec (.qpostRequest src ctx) s = .next t ∧
    t.fns = ((s.tookPost src ctx op).post i w prio).1.fns ∧
    (s.op? op = none → t.net = (s.takePacket 4 src Config.frontEnd ctx).net) ∧
    (s.op? op ≠ none → t.net = (s.takePacket 4 src Config.frontEnd ctx).net ++ [s.sent
      { vn := 0, src := Config.frontEnd, dst := (s.cx who.cell who.ctx).place.getD (vcellOf cont) 0, ctx := ctxOf cont, committed := true,
        counts := false, also := some who.cell,
        body := .token { cont := cont, val := ((s.tookPost src ctx op).post i w prio).2, tag := who.tag } }]) := by
  have hk := (s.tookPost_kept src ctx op).aside
  have hr := (s.tookPost src ctx op).post_rest i w prio
  have hnet : ((s.tookPost src ctx op).post i w prio).1.net = (s.takePacket 4 src Config.frontEnd ctx).net :=
    (congrArg State.net hr :).trans hk.net
  rw [execQpostRequest_eq hp hb ha, if_neg (by simpa using hw)]
  by_cases ho : s.op? op = none
  · rw [ho, if_neg (by simp)]
    exact ⟨_, rfl, rfl, fun _ => hnet, fun h => absurd rfl h⟩
  · obtain ⟨hfns, hsent⟩ := ((s.tookPost src ctx op).post i w prio).1.postReply_leaves who cont ((s.tookPost src ctx op).post i w prio).2
    have hcells : ((s.tookPost src ctx op).post i w prio).1.cells = s.cells := (congrArg State.cells hr :).trans hk.cells
    rw [if_pos (Option.isSome_iff_ne_none.mpr ho)]
    refine ⟨_, rfl, hfns, fun h => absurd h ho, fun _ => hsent.trans ?_⟩
    have hclock : ((s.tookPost src ctx op).post i w prio).1.clock = s.clock := (congrArg State.clock hr :).trans hk.clock
    have hgated : ((s.tookPost src ctx op).post i w prio).1.gated = s.gated := (congrArg State.gated hr :).trans hk.gated
    have hparts : ((s.tookPost src ctx op).post i w prio).1.parts = s.parts := (congrArg State.parts hr :).trans hk.parts
    rw [hnet, State.cx_congr hcells, State.sent_congr hclock hgated hparts]

end

/-- What the device queue answers, and what it keeps, in R309's order. -/
theorem State.post_answers (s : State) (i : Inst) (w : List Word) (prio : Nat) :
    let k := s.fn i.fn
    let r := s.post i w prio
    let no := k.posten = false ∨ bits (word k.postq) 0 8 ≤ k.postedLive.length
    (no → r.2 = word (2 ^ 63 + 1) ∧ (r.1.fn i.fn).devq = k.devq ∧ (r.1.fn i.fn).launchCount = k.launchCount) ∧
      (¬ no → 64 ≤ k.devq.length → r.2 = word (2 ^ 63 + 2) ∧ (r.1.fn i.fn).devq = k.devq ∧ (r.1.fn i.fn).launchCount = k.launchCount) ∧
      (¬ no → k.devq.length < 64 → r.2 = word k.launchCount.toNat ∧ r.1.fn i.fn = k.accepts (k.posted i w prio)) := by
  refine ⟨fun h => ?_, fun h hd => ?_, fun h hd => ?_⟩
  · rw [State.post_refused w prio h]
    exact ⟨rfl, rfl, rfl⟩
  · rw [State.post_full w prio h hd]
    exact ⟨rfl, rfl, rfl⟩
  · rw [State.post_accepts w prio h hd]
    exact ⟨rfl, State.fn_modFn ..⟩

/-! ## Watchdogs and hangs (R333, R334) -/

section
variable {s : State} {f id : Nat} {i : Inst} (hi : s.inst? f id = some i)
include hi

/-- A partition that freezes for an `Inst` marked as hung. -/
def State.marked (s : State) (f id : Nat) (i : Inst) (st : EndStatus) : State := { s with parts := s.parts.put i.part { s.parts.getD i.part {} with
  hung := (s.parts.getD i.part {}).hung ++ [(f, id, st)]
  freezing := (s.parts.getD i.part {}).freezing.or (some (s.partAc (s.parts.getD i.part {}))) } }

theorem State.hang_marks (st : EndStatus) (hh : s.hangs i = false) : s.hang i st = s.marked f id i st := by
  obtain ⟨rfl, rfl⟩ := State.inst?_key hi
  rw [State.hang, hh, if_neg Bool.false_ne_true]
  rfl

omit hi in
theorem State.hang_again (st : EndStatus) (hh : s.hangs i = true) : s.hang i st = s := by rw [State.hang, if_pos hh]

theorem execWatchdogExpiry_eq : exec (.watchdogExpiry f id) s = .next (if i.expired then s.hang i .watchdog else s) := by
  change execWatchdogExpiry f id s = _
  simp only [execWatchdogExpiry, hi]

theorem execDeadlockDetect_eq : exec (.deadlockDetect f id) s = .next (
    if i.started && s.runs (i.place.headD 0) && (i.place.any fun c => !(s.cx c i.ctx).frames.isEmpty) &&
      decide (i.lastAct + Config.deadlockAc ≤ s.ac (i.place.headD 0)) then s.hang i .hang else s) := by
  change execDeadlockDetect f id s = _
  simp only [execDeadlockDetect, hi]

theorem hung_stands (hh : s.hangs i = true) : exec (.watchdogExpiry f id) s = .next s ∧ exec (.deadlockDetect f id) s = .next s := by
  rw [execWatchdogExpiry_eq hi, execDeadlockDetect_eq hi, State.hang_again _ hh, State.hang_again _ hh, ite_self, ite_self]
  exact ⟨rfl, rfl⟩

theorem watchdogExpiry_waits (hx : i.expired = false) : exec (.watchdogExpiry f id) s = .next s := by
  rw [execWatchdogExpiry_eq hi, hx, if_neg Bool.false_ne_true]

theorem watchdogExpiry_marks (hx : i.expired = true) (hh : s.hangs i = false) :
    exec (.watchdogExpiry f id) s = .next (s.marked f id i .watchdog) := by
  rw [execWatchdogExpiry_eq hi, if_pos hx, State.hang_marks hi _ hh]

theorem deadlockDetect_marks (hs : i.started = true) (hh : s.hangs i = false) (hr : s.runs (i.place.headD 0) = true)
    (hf : ∃ c, c ∈ i.place ∧ (s.cx c i.ctx).frames ≠ []) :
    (i.lastAct + 2 ^ 24 ≤ s.ac (i.place.headD 0) → exec (.deadlockDetect f id) s = .next (s.marked f id i .hang)) ∧
      (s.ac (i.place.headD 0) < i.lastAct + 2 ^ 24 → exec (.deadlockDetect f id) s = .next s) := by
  have hany : (i.place.any fun c => !(s.cx c i.ctx).frames.isEmpty) = true := by
    obtain ⟨c, hc, hne⟩ := hf
    exact List.any_eq_true.mpr ⟨c, hc, by simpa using hne⟩
  rw [execDeadlockDetect_eq hi, hs, hr, hany, State.hang_marks hi _ hh]
  refine ⟨fun h => ?_, fun h => ?_⟩
  · rw [if_pos (by simpa [Config.deadlockAc] using h)]
  · rw [if_neg (by simpa [Config.deadlockAc] using h)]

end

theorem State.tickInst_unfired (s : State) {i : Inst} (n : Nat) (h : i.fired = false) : s.tickInst n i = i := by
  unfold State.tickInst
  rw [h, Bool.false_and, Bool.false_and, Bool.false_and, if_neg Bool.false_ne_true]

/-- The watchdog counts, and expires where its budget is passed before the conditions of completion hold. -/
theorem State.tickInst_counts (s : State) {i : Inst} (n : Nat) (hf : i.fired = true) (hh : (s.parts.getD i.part {}).halted = false)
    (hs : (s.parts.getD i.part {}).st = .granted) (hp : s.allParked i = false) :
    (s.tickInst n i).wdog = i.wdog + n ∧ ((s.tickInst n i).expired = true ↔ i.expired = true ∨
      (i.budget ≠ 0 ∧ i.budget * 2 ^ 16 ≤ i.wdog + n ∧ ¬ (i.phase = .releasing ∧ s.relsApplied i 0 = true ∧ s.canEnd i = true))) := by
  unfold State.tickInst
  rw [hf, hh, hs, hp, if_pos (by decide)]
  refine ⟨rfl, ?_⟩
  simp only [State.allDone, Bool.or_eq_true, Bool.and_eq_true, bne_iff_ne, decide_eq_true_eq, Bool.not_eq_true', ← Bool.not_eq_true,
    beq_iff_eq, and_assoc]

end Sys2Proof.Machine
end

section
/-! PROOFS. Containment regions: their failure reported, applied on each cell, delivered, and their close (R225, R325, R326). -/

namespace Sys2Proof.Machine

/-! ## The `Inst`'s region -/

/-- An `Inst` with one of its regions changed. -/
def Inst.withRegion (i : Inst) (r : Nat) (F : Region → Region) : Inst :=
  match i.regions.get? r with
  | some q => { i with regions := i.regions.put r (F q) }
  | none => i

theorem State.modRegion_eq (s : State) (i : Inst) (r : Nat) (F : Region → Region) :
    s.modRegion i r F = s.modInst i.fn i.id fun j => j.withRegion r F := rfl

theorem Inst.key_withRegion (i : Inst) (r : Nat) (F : Region → Region) : (i.withRegion r F).fn = i.fn ∧ (i.withRegion r F).id = i.id := by
  unfold Inst.withRegion
  split
  · exact ⟨rfl, rfl⟩
  · exact ⟨rfl, rfl⟩

theorem Inst.withRegion_some {i : Inst} {r : Nat} {g : Region} (hg : i.regions.get? r = some g) (F : Region → Region) :
    i.withRegion r F = { i with regions := i.regions.put r (F g) } := by rw [Inst.withRegion, hg]

theorem Inst.withRegion_none {i : Inst} {r : Nat} (hg : i.regions.get? r = none) (F : Region → Region) : i.withRegion r F = i := by
  rw [Inst.withRegion, hg]

theorem State.modRegion_inst? {s : State} {f id : Nat} {i : Inst} (hi : s.inst? f id = some i) (r : Nat) (F : Region → Region) :
    (s.modRegion i r F).inst? f id = some (i.withRegion r F) := by
  obtain ⟨rfl, rfl⟩ := State.inst?_key hi
  exact s.modInst_inst? i.fn i.id (fun j => j.withRegion r F) i hi fun j => j.key_withRegion r F

theorem State.modRegion_region {s : State} {f id r : Nat} {i : Inst} {g : Region} (hi : s.inst? f id = some i)
    (hg : i.regions.get? r = some g) (F : Region → Region) :
    (s.modRegion i r F).inst? f id = some { i with regions := i.regions.put r (F g) } := by
  rw [State.modRegion_inst? hi, Inst.withRegion_some hg]

/-- An `Inst` of another key stands. -/
theorem State.inst?_modInst_other (s : State) {f id n m : Nat} {g : Inst → Inst} (hg : ∀ j, (g j).fn = j.fn ∧ (g j).id = j.id)
    (h : ¬ (n = f ∧ m = id)) : (s.modInst n m g).inst? f id = s.inst? f id := by
  unfold State.inst? State.modInst
  dsimp only
  induction s.insts with
  | nil => rfl
  | cons a l ih =>
    rw [List.map_cons, List.find?_cons, List.find?_cons, ih]
    by_cases hk : (a.fn == n && a.id == m) = true
    · obtain ⟨hn, hm⟩ : a.fn = n ∧ a.id = m := by simpa using hk
      have hno : (a.fn == f && a.id == id) = false := by
        rw [hn, hm]
        simpa using h
      rw [if_pos hk, (hg a).1, (hg a).2, hno]
    · rw [if_neg hk]

/-! ## Faults in an open region (R325) -/

theorem State.take_opened {s : State} {a : Raise} (hr : regionOf a.tag ≠ 0)
    (ho : (s.cx a.cell a.ctx).regions.get? (regionOf a.tag) = some .opened) : (s.take a).insts = s.insts := by
  unfold State.take
  dsimp only
  rw [if_neg hr, ho]
  rfl

/-- An operation that faults in an open region is counted there (R325). -/
theorem State.failOp_counts {s : State} {f id : Nat} {i : Inst} (hi : s.inst? f id = some i) {r : Nat} {g : Region}
    (hg : i.regions.get? r = some g) {o : MemOp} (code : FaultCode) (d1 d2 : Word) (ht : regionOf o.who.tag = r) (hr : r ≠ 0)
    (ho : (s.cx o.who.cell o.who.ctx).regions.get? r = some .opened) (ha : s.instAt o.who.cell o.who.ctx = some i) :
    ∃ j, (s.failOp o 2 code d1 d2).inst? f id = some j ∧ j.regions.get? r = some { g with cancelled := g.cancelled + 1 } := by
  subst ht
  obtain ⟨rfl, rfl⟩ := State.inst?_key hi
  have hk := (kept_dropOps s fun q => q.id == o.id).aside
  have hcx : ∀ c x, ((s.dropOps fun q => q.id == o.id).lowerOut o.who.cell o.who.ctx 1).cx c x =
      ((s.lowerOut o.who.cell o.who.ctx 1).cx c x) := fun c x => State.cx_congr (by
    unfold State.lowerOut State.modCx State.modCell State.cell; rw [hk.cells]) c x
  have hreg : (((s.dropOps fun q => q.id == o.id).lowerOut o.who.cell o.who.ctx 1).cx o.who.cell o.who.ctx).regions =
      (s.cx o.who.cell o.who.ctx).regions := by rw [hcx, State.cx_lowerOut]
  have hinst : (((s.dropOps fun q => q.id == o.id).lowerOut o.who.cell o.who.ctx 1).cx o.who.cell o.who.ctx).inst =
      (s.cx o.who.cell o.who.ctx).inst := by rw [hcx, State.cx_lowerOut]
  have hinsts : ((s.dropOps fun q => q.id == o.id).lowerOut o.who.cell o.who.ctx 1).insts = s.insts := hk.insts
  obtain ⟨j, hj, hc⟩ := State.countLost_counts ((s.dropOps fun q => q.id == o.id).lowerOut o.who.cell o.who.ctx 1) o.who.cell o.who.ctx
    o.who.tag 1 i g hr (by rw [hreg]; exact ho)
    (by rw [← ha]; unfold State.instAt State.inst?; rw [hinst, hinsts])
    (by rw [State.inst?, hinsts]; exact hi) hg
  refine ⟨j, ?_, hc⟩
  rw [← hj]
  unfold State.failOp State.inst?
  rw [State.take_opened hr]
  rw [State.cx_congr (State.countLost_cells ..), hreg]
  exact ho

/-! ## Reports (R325) -/

theorem foldl_inject (p : Nat → Packet) (l : List Nat) (s : State) :
    (l.foldl (fun s c => s.inject (p c)) s).insts = s.insts ∧ (l.foldl (fun s c => s.inject (p c)) s).net = s.net ++ l.map fun c => s.sent (p c) := by
  induction l generalizing s with
  | nil => exact ⟨rfl, by simp⟩
  | cons c l ih =>
    obtain ⟨hinsts, hnet⟩ := ih (s.inject (p c))
    refine ⟨hinsts, hnet.trans ?_⟩
    rw [List.map_cons, ← List.singleton_append, ← List.append_assoc]
    rfl

section
variable {s : State} {f id r src ctx : Nat} {i : Inst} {g : Region} {q : Packet} {recd : List Word} {tag : Word} {faulty : Bool}
  (hi : s.inst? f id = some i) (hg : i.regions.get? r = some g)
  (hp : s.packet? 4 src ((s.cx src ctx).place.getD 0 0) ctx = some q) (hb : q.body = .regionFail r recd tag faulty)
  (ha : s.instAt ((s.cx src ctx).place.getD 0 0) ctx = some i)
include hi hg hp hb ha

omit hi in
theorem execRegionFailureReport_again (hm : g.mark = .failed) :
    exec (.regionFailureReport src ctx) s = .next (s.takePacket 4 src ((s.cx src ctx).place.getD 0 0) ctx) := by
  have hat : (s.takePacket 4 src ((s.cx src ctx).place.getD 0 0) ctx).instAt ((s.cx src ctx).place.getD 0 0) ctx = some i := ha
  have hmark : (i.regions.getD r {}).mark = .failed := by rw [Tbl.getD, hg]; exact hm
  change execRegionFailureReport src ctx s = _
  simp only [execRegionFailureReport, hp, hb, hat, hmark, beq_self_eq_true, Bool.or_true, if_true]

/-- The first report marks the region failed and goes to every cell of the `Inst`. -/
theorem regionFailureReport_first (hm : g.mark ≠ .failed) : ∃ t j, exec (.regionFailureReport src ctx) s = .next t ∧ t.inst? f id = some j ∧
    j.regions.get? r = some { g with mark := .failed, first := recd, tag := tag, faulty := faulty, todo := i.place } ∧
    t.net = (s.takePacket 4 src ((s.cx src ctx).place.getD 0 0) ctx).net ++ i.place.map fun c => s.sent
      { vn := 4, src := (s.cx src ctx).place.getD 0 0, dst := c, ctx := ctx, counts := false, body := .regionApply r } := by
  have hat : (s.takePacket 4 src ((s.cx src ctx).place.getD 0 0) ctx).instAt ((s.cx src ctx).place.getD 0 0) ctx = some i := ha
  have hmark : ((i.regions.getD r {}).mark == .failed) = false := by rw [Tbl.getD, hg]; exact beq_eq_false_iff_ne.mpr hm
  have hreg := State.modRegion_region (s := s.takePacket 4 src ((s.cx src ctx).place.getD 0 0) ctx) hi hg
    fun q => { q with mark := .failed, first := recd, tag := tag, faulty := faulty, todo := i.place }
  obtain ⟨hinsts, hnet⟩ := foldl_inject
    (fun c => { vn := 4, src := (s.cx src ctx).place.getD 0 0, dst := c, ctx := ctx, counts := false, body := .regionApply r }) i.place
    ((s.takePacket 4 src ((s.cx src ctx).place.getD 0 0) ctx).modRegion i r
      fun q => { q with mark := .failed, first := recd, tag := tag, faulty := faulty, todo := i.place })
  refine ⟨_, _, ?_, ((congrArg (List.find? _) hinsts).trans hreg), Tbl.get?_put_same .., hnet⟩
  change execRegionFailureReport src ctx s = _
  simp only [execRegionFailureReport, hp, hb, hat, hg, hmark, Option.isNone_some, Bool.or_self, Bool.false_eq_true, if_false]

end

/-! ## Delivery (R91, R323, R326) -/

section
variable {s : State} {f id r : Nat} {i : Inst} {g : Region} (hi : s.inst? f id = some i) (hg : i.regions.get? r = some g)
include hi hg

/-- A failure that every cell has applied is delivered once nothing of the region is outstanding. -/
theorem execRegionFailedDelivery_eq (hm : g.mark = .failed) (hd : g.delivered = false) (ht : g.todo = []) :
    exec (.regionFailedDelivery f id r) s = .next (if s.regionDone i r = false then s else
      ((s.voidRegion i r).modRegion i r fun g => { g with delivered := true }).deliverTo
        { cell := i.place.headD 0
          ctx := i.ctx
          cls := 3
          code := .regionFailed
          ia := 0x3FFF
          frame := 0
          d1 := word r
          d2 := word g.cancelled
          tag := g.tag
          faulty := g.faulty } g.handler g.first) := by
  change execRegionFailedDelivery f id r s = _
  simp only [execRegionFailedDelivery, hi, hg, hm, hd, ht, bne_self_eq_false, List.isEmpty_nil, Bool.not_true, Bool.false_or,
    Bool.not_eq_true']

/-! ## Close (R225) -/

omit hg in
/-- A region that is ended is removed from its `Inst`. -/
theorem State.endRegion_removed (v : Word) : ∃ j, (s.endRegion i r g v).inst? f id = some j ∧ j.regions.get? r = none := by
  obtain ⟨rfl, rfl⟩ := State.inst?_key hi
  refine ⟨{ i with regions := i.regions.del r }, ?_, Tbl.get?_del_same ..⟩
  unfold State.endRegion
  dsimp only
  have hsend : ∀ (s : State) (w : Word × Issuer),
      (s.sendAs w.2.cell { cont := w.1, val := v, tag := w.2.tag } (some w.2.cell)).insts = s.insts := fun s w => by
    unfold State.sendAs
    dsimp only
    split
    · rfl
    · rfl
  refine (congrArg (List.find? _) (foldl_keeps State.insts
    (fun (s : State) (w : Word × Issuer) => s.sendAs w.2.cell { cont := w.1, val := v, tag := w.2.tag } (some w.2.cell)) hsend _ _)).trans ?_
  refine State.inst?_modInst _ ?_ ⟨rfl, rfl⟩
  exact (congrArg (List.find? _) (foldl_keeps State.insts (fun (s : State) c => s.modCx c i.ctx fun k =>
    { k with regions := k.regions.del r, lost := k.lost.filter fun e => e.2 != r }) (fun _ _ => rfl) _ _)).trans hi

section
variable {w : Word × Issuer} {ws : List (Word × Issuer)} (hc : g.closing = w :: ws)
include hc

theorem execRegionCloseProceed_failed (hm : g.mark = .failed) :
    exec (.regionCloseProceed f id r) s = .next (if g.delivered then s.endRegion i r g 0 else s) := by
  change execRegionCloseProceed f id r s = _
  simp only [execRegionCloseProceed, hi, hg, hc, hm, beq_self_eq_true, if_true]

theorem execRegionCloseProceed_open (hm : g.mark ≠ .failed) (hr : s.runs (i.place.headD 0) = true) :
    exec (.regionCloseProceed f id r) s = .next (
      if g.released = false then (if s.regionQuiet i r then s.closeRegion i r w.2.ia else s)
      else if s.relsApplied i r then s.endRegion i r g g.token else s) := by
  have hm' : (g.mark == .failed) = false := beq_eq_false_iff_ne.mpr hm
  change execRegionCloseProceed f id r s = _
  simp only [execRegionCloseProceed, hi, hg, hc, hm', hr, Bool.false_eq_true, if_false, Bool.not_true, Bool.not_eq_true']

end

end

end Sys2Proof.Machine
end

section
/-! PROOFS. A region's failure applied on a cell (R326). -/

namespace Sys2Proof.Machine

/-! ## What the removal of commands and tiles leaves of a cell -/

/-- Two cells agree on their contexts, their input queue and what is suspended on them. -/
structure Alike (a b : Cell) : Prop where
  ctxs : b.ctxs = a.ctxs
  inq : b.inq = a.inq
  recs : b.recs = a.recs

theorem Alike.refl (a : Cell) : Alike a a := ⟨rfl, rfl, rfl⟩

theorem Alike.trans {a b c : Cell} (h : Alike a b) (h' : Alike b c) : Alike a c :=
  ⟨h'.ctxs.trans h.ctxs, h'.inq.trans h.inq, h'.recs.trans h.recs⟩

theorem Alike.cx {a b : Cell} (h : Alike a b) (x : Nat) : b.cx x = a.cx x := by unfold Cell.cx; rw [h.ctxs]

theorem alike_foldl {α : Type} {f : Cell → α → Cell} (h : ∀ c a, Alike c (f c a)) (l : List α) (c : Cell) : Alike c (l.foldl f c) := by
  induction l generalizing c with
  | nil => exact Alike.refl c
  | cons a l ih => exact (h c a).trans (ih (f c a))

theorem alike_freeTile (c : Cell) (i : Nat) : Alike c (c.freeTile i) := by
  unfold Cell.freeTile
  dsimp only
  split
  · exact Alike.refl c
  · exact ⟨rfl, rfl, rfl⟩

theorem alike_dropRef (c : Cell) (i : Nat) : Alike c (c.dropRef i) := by
  unfold Cell.dropRef
  split
  · exact alike_freeTile c i
  · exact ⟨rfl, rfl, rfl⟩

theorem alike_landTile (c : Cell) (i : Nat) (g : BitVec 8) : Alike c (c.landTile i g) := by
  unfold Cell.landTile
  split
  · exact ⟨rfl, rfl, rfl⟩
  · split
    · exact Alike.refl c
    · split
      · exact ⟨rfl, rfl, rfl⟩
      · exact ⟨rfl, rfl, rfl⟩

theorem alike_dropAll (c : Cell) (l : List (Nat × BitVec 8 × Bool)) : Alike c (c.dropAll l) :=
  alike_foldl (fun c n => by
    split
    · exact alike_dropRef c n.1
    · exact Alike.refl c) l c

theorem alike_landAll (c : Cell) (l : List (Nat × BitVec 8 × Bool)) : Alike c (c.landAll l) :=
  alike_foldl (f := fun (c : Cell) (n : Nat × BitVec 8) => c.landTile n.1 n.2) (fun c n => alike_landTile c n.1 n.2) _ c

theorem alike_cancelCmds (c : Cell) (p : Cmd → Bool) : Alike c (cancelCmds c p true) := by
  unfold cancelCmds
  refine Alike.trans ?_ (alike_foldl (f := fun (c : Cell) (m : Cmd) => (if true then c.dropAll m.named else c).landAll m.named)
    (fun c m => (alike_dropAll c m.named).trans (alike_landAll _ m.named)) _ _)
  exact ⟨rfl, rfl, rfl⟩

theorem alike_freeRegionTiles (c : Cell) (x r : Nat) : Alike c (c.freeRegionTiles x r) :=
  alike_foldl (fun c e => by
    split
    · exact alike_freeTile c e.1
    · exact Alike.refl c) _ c

theorem alike_dropStalled (c : Cell) (x r : Nat) : Alike c (c.dropStalled x r).1 := by
  unfold Cell.dropStalled
  split
  · rename_i m _
    split
    · have h := (alike_dropAll c m.named).trans (alike_landAll (c.dropAll m.named) m.named)
      exact ⟨h.ctxs, h.inq, h.recs⟩
    · exact Alike.refl c
  · exact Alike.refl c

theorem State.dropMade_alike (s : State) (a : Run) (c : Nat) : Alike (s.cell c) ((s.dropMade a).cell c) := by
  unfold State.dropMade
  split
  · exact Alike.refl _
  · rename_i d i g _
    by_cases h : c = d
    · subst h
      rw [State.cell_modCell]
      split
      · exact alike_freeTile ..
      · exact Alike.refl _
    · rw [State.cell_modCell_other _ _ _ _ h]
      exact Alike.refl _

theorem State.dropMade_rest (s : State) (a : Run) : { s.dropMade a with cells := s.cells } = s := by
  unfold State.dropMade
  split
  · rfl
  · rfl

theorem State.foldl_dropMade (l : List Run) (s : State) : { l.foldl State.dropMade s with cells := s.cells } = s ∧
    ∀ c, Alike (s.cell c) ((l.foldl State.dropMade s).cell c) := by
  induction l generalizing s with
  | nil => exact ⟨rfl, fun c => Alike.refl _⟩
  | cons a l ih =>
    obtain ⟨hrest, hcell⟩ := ih (s.dropMade a)
    exact ⟨(congrArg (fun u : State => { u with cells := s.cells }) hrest :).trans (s.dropMade_rest a),
      fun c => (s.dropMade_alike a c).trans (hcell c)⟩

/-! ## Firings of the region -/

section
variable (d : Cell) (x r : Nat)

theorem Cell.cx_voidFirings : { (d.voidFirings x r).cx x with
    regions := (d.cx x).regions
    lost := (d.cx x).lost
    spill := (d.cx x).spill } = d.cx x :=
  (congrArg (fun k : Ctx => { k with
    regions := (d.cx x).regions
    lost := (d.cx x).lost
    spill := (d.cx x).spill }) (Tbl.getD_put_same d.ctxs x _ {}) :).trans rfl

theorem Cell.regions_voidFirings : ((d.voidFirings x r).cx x).regions.get? r = some .failed :=
  (congrArg (fun k : Ctx => k.regions.get? r) (Tbl.getD_put_same d.ctxs x _ {}) :).trans (Tbl.get?_put_same ..)

theorem Cell.recs_voidFirings {e : Nat × SuspRec} (he : e ∈ (d.voidFirings x r).recs) (hx : e.2.fir.ctx = x) : regionOf e.2.fir.tag ≠ r := by
  intro hr
  obtain ⟨-, hno⟩ := List.mem_filter.mp he
  simp [hx, hr] at hno

variable {r}

theorem Ctx.voids_region {k : Ctx} {t : Token} (hk : k.regions.get? r = some .failed) (hr : r ≠ 0) (ht : regionOf t.tag = r) : k.voids t = true := by
  unfold Ctx.voids
  simp [ht, hk, hr]

theorem Cell.inq_voidFirings (hr : r ≠ 0) {t : Token} (ht : t ∈ (d.voidFirings x r).inq) (hx : ctxOf t.cont = x) : regionOf t.tag ≠ r := by
  intro htag
  obtain ⟨-, hno⟩ := List.mem_filter.mp ht
  rw [Ctx.voids_region (Tbl.get?_put_same ..) hr htag] at hno
  simp [hx] at hno

end

/-! ## What follows on the cell: counts fall, frames go, frames are granted -/

/-- No waiting frame request of a context names a region as that of its frame. -/
def Ctx.unasked (k : Ctx) (r : Nat) : Prop := ∀ e, e ∈ k.pools → ∀ a, a ∈ e.2.queue → a.region ≠ r

/-- A later state of a cell: its input queue and its regions stand, firings suspended on it and requests for frames may have gone;
and the `Inst` stands, with what its regions count as cancelled. -/
structure Later (c x f id : Nat) (s t : State) : Prop where
  inq : (t.cell c).inq = (s.cell c).inq
  recs : ∀ e, e ∈ (t.cell c).recs → e ∈ (s.cell c).recs
  regions : (t.cx c x).regions = (s.cx c x).regions
  unasked : ∀ r, (s.cx c x).unasked r → (t.cx c x).unasked r
  inst : ∀ r j g, s.inst? f id = some j → j.regions.get? r = some g →
    ∃ j' m, t.inst? f id = some j' ∧ j'.regions.get? r = some { g with cancelled := m }

section
variable {c x f id : Nat}

theorem Later.refl (s : State) : Later c x f id s s := ⟨rfl, fun _ h => h, rfl, fun _ h => h, fun _ j g hj hg => ⟨j, g.cancelled, hj, hg⟩⟩

theorem Later.trans {s t u : State} (h : Later c x f id s t) (h' : Later c x f id t u) : Later c x f id s u where
  inq := h'.inq.trans h.inq
  recs e he := h.recs e (h'.recs e he)
  regions := h'.regions.trans h.regions
  unasked r hr := h'.unasked r (h.unasked r hr)
  inst r j g hj hg := by
    obtain ⟨j', m, hj', hg'⟩ := h.inst r j g hj hg
    obtain ⟨k, n, hk, hn⟩ := h'.inst r j' _ hj' hg'
    exact ⟨k, n, hk, hn⟩

theorem later_foldl {α : Type} {g : State → α → State} (h : ∀ s a, Later c x f id s (g s a)) (l : List α) (s : State) :
    Later c x f id s (l.foldl g s) := by
  induction l generalizing s with
  | nil => exact Later.refl s
  | cons a l ih => exact (h s a).trans (ih (g s a))

/-- Only the cells, and of them only what stands, changed. -/
theorem Later.of_insts {s t : State} (hi : t.insts = s.insts) (inq : (t.cell c).inq = (s.cell c).inq)
    (recs : ∀ e, e ∈ (t.cell c).recs → e ∈ (s.cell c).recs) (regions : (t.cx c x).regions = (s.cx c x).regions)
    (unasked : ∀ r, (s.cx c x).unasked r → (t.cx c x).unasked r) : Later c x f id s t :=
  ⟨inq, recs, regions, unasked, fun _ j g hj hg => ⟨j, g.cancelled, (congrArg (List.find? _) hi).trans hj, hg⟩⟩

theorem later_lowerOut (s : State) (d y n : Nat) : Later c x f id s (s.lowerOut d y n) := by
  have hcell : { (s.lowerOut d y n).cell c with ctxs := (s.cell c).ctxs } = s.cell c := by
    by_cases h : c = d
    · subst h; rw [State.cell_lowerOut]; rfl
    · rw [State.lowerOut, State.modCx, State.cell_modCell_other _ _ _ _ h]
  have hcx : ∃ m, (s.lowerOut d y n).cx c x = { s.cx c x with outstanding := m } := by
    by_cases h : c = d ∧ x = y
    · obtain ⟨rfl, rfl⟩ := h
      exact ⟨_, State.cx_lowerOut ..⟩
    · exact ⟨_, State.cx_modCx_other _ _ _ _ _ _ h⟩
  obtain ⟨m, hm⟩ := hcx
  refine Later.of_insts rfl (congrArg Cell.inq hcell :) (fun e he => ?_) (by rw [hm]) (by rw [hm]; exact fun _ h => h)
  rw [← (congrArg Cell.recs hcell :)]
  exact he

theorem State.modRegion_key {s : State} {k j : Inst} {r : Nat} {F : Region → Region} (hf : k.fn = j.fn) (hid : k.id = j.id) :
    s.modRegion k r F = s.modRegion j r F := by rw [State.modRegion_eq, State.modRegion_eq, hf, hid]

/-- A count of what a region has cancelled, changed or not. -/
theorem later_modRegion (s : State) (k : Inst) (r : Nat) (n : Nat) :
    Later c x f id s (s.modRegion k r fun q => { q with cancelled := q.cancelled + n }) := by
  refine ⟨rfl, fun _ h => h, rfl, fun _ h => h, fun a j g hj hg => ?_⟩
  by_cases hkey : k.fn = f ∧ k.id = id
  · obtain ⟨hf, hid⟩ := State.inst?_key hj
    rw [State.modRegion_key (hkey.1.trans hf.symm) (hkey.2.trans hid.symm), State.modRegion_inst? hj]
    cases hq : j.regions.get? r with
    | none => exact ⟨j, g.cancelled, congrArg some (Inst.withRegion_none hq _), hg⟩
    | some q =>
      rw [Inst.withRegion_some hq]
      by_cases ha : a = r
      · subst ha
        obtain rfl := Option.some.inj (hg.symm.trans hq)
        exact ⟨_, _, rfl, Tbl.get?_put_same ..⟩
      · exact ⟨_, g.cancelled, rfl, (Tbl.get?_put_other _ _ _ _ ha).trans hg⟩
  · exact ⟨j, g.cancelled, (State.inst?_modInst_other s (fun i => i.key_withRegion r _) hkey).trans hj, hg⟩

theorem later_countLost (s : State) (d y : Nat) (tag : Word) (n : Nat) : Later c x f id s (s.countLost d y tag n) := by
  unfold State.countLost
  dsimp only
  split
  · split
    · exact Later.refl s
    · exact later_modRegion s _ (regionOf tag) n
  · exact Later.refl s

/-- A frame dropped on the cell. -/
theorem Cell.dropFrame_later (d : Cell) (x b : Nat) (e : Frame) :
    (d.dropFrame x b e).inq = d.inq ∧ (∀ q, q ∈ (d.dropFrame x b e).recs → q ∈ d.recs) ∧ ((d.dropFrame x b e).cx x).regions = (d.cx x).regions ∧
      ∀ r, (d.cx x).unasked r → ((d.dropFrame x b e).cx x).unasked r := by
  refine ⟨rfl, fun q hq => (List.mem_filter.mp hq).1, ?_, fun r hr => ?_⟩
  · obtain ⟨p, hp⟩ := Cell.cx_dropFrame d x b e
    rw [hp]
  · unfold Cell.dropFrame
    dsimp only
    rw [Cell.cx_modCx]
    intro p hp a ha
    dsimp only at hp
    split at hp
    · rename_i q hq
      rcases Tbl.mem_put _ _ _ _ hp with hp | rfl
      · exact hr p hp a ha
      · exact hr (e.level, q) (Tbl.mem_of_get? hq) a ha
    · exact hr p hp a ha

/-- The frames of a region dropped on a cell. -/
def Cell.dropRegion (d : Cell) (x r : Nat) : Cell :=
  ((d.cx x).frames.filter fun e => e.2.region == r).foldl (fun d e => d.dropFrame x e.1 e.2) d

theorem Cell.dropFrames_later (x : Nat) (l : List (Nat × Frame)) (d : Cell) :
    let b := l.foldl (fun d e => d.dropFrame x e.1 e.2) d
    b.inq = d.inq ∧ (∀ q, q ∈ b.recs → q ∈ d.recs) ∧ (b.cx x).regions = (d.cx x).regions ∧ ∀ r, (d.cx x).unasked r → (b.cx x).unasked r := by
  induction l generalizing d with
  | nil => exact ⟨rfl, fun _ h => h, rfl, fun _ h => h⟩
  | cons e l ih =>
    obtain ⟨hinq, hrecs, hreg, hask⟩ := d.dropFrame_later x e.1 e.2
    obtain ⟨hinq', hrecs', hreg', hask'⟩ := ih (d.dropFrame x e.1 e.2)
    exact ⟨hinq'.trans hinq, fun q hq => hrecs q (hrecs' q hq), hreg'.trans hreg, fun r hr => hask' r (hask r hr)⟩

theorem Cell.frames_dropRegion (d : Cell) (x r : Nat) : ∀ e, e ∈ ((d.dropRegion x r).cx x).frames → e.2.region ≠ r := by
  intro e he hr
  obtain ⟨hin, hno⟩ := Cell.mem_frames_dropFrames _ d he
  exact hno e (List.mem_filter.mpr ⟨hin, by simpa using hr⟩) rfl

theorem later_dropRegion (s : State) (r : Nat) : Later c x f id s (s.modCell c fun d => d.dropRegion x r) := by
  obtain ⟨hinq, hrecs, hreg, hask⟩ := Cell.dropFrames_later x (((s.cell c).cx x).frames.filter fun e => e.2.region == r) (s.cell c)
  refine Later.of_insts rfl ?_ ?_ ?_ ?_
  · rw [State.cell_modCell]; exact hinq
  · rw [State.cell_modCell]; exact hrecs
  · rw [State.cx_modCell]; exact hreg
  · rw [State.cx_modCell]; exact hask

theorem State.insts_sendAs (s : State) (c : Nat) (t : Token) (a b : Option Nat) : (s.sendAs c t a b).insts = s.insts := by
  unfold State.sendAs
  dsimp only
  split
  · rfl
  · rfl

/-- No frame of a context is of a region. -/
def Ctx.unframed (k : Ctx) (r : Nat) : Prop := ∀ e, e ∈ k.frames → e.2.region ≠ r

theorem Ctx.unasked_getD {k : Ctx} {r level : Nat} (h : k.unasked r) {a : FrameReq} (ha : a ∈ (k.pools.getD level {}).queue) : a.region ≠ r := by
  cases hp : k.pools.get? level with
  | none =>
    rw [Tbl.getD, hp] at ha
    exact absurd ha List.not_mem_nil
  | some p =>
    rw [Tbl.getD, hp] at ha
    exact h (level, p) (Tbl.mem_of_get? hp) a ha

/-- A grant: beside the frame nothing of what `Later` speaks of changes. -/
theorem later_grantTo (s : State) (level b : Nat) (res : Bool) (a : FrameReq) :
    Later c x f id s (s.grantTo c x level b res a) ∧
      ∀ r, a.region ≠ r → (s.cx c x).unframed r → ((s.grantTo c x level b res a).cx c x).unframed r := by
  unfold State.grantTo
  dsimp only
  generalize htok : Token.mk _ _ _ _ _ = tok
  obtain ⟨m, hm⟩ := State.cx_sendAs_eq (s.modCell c fun d => d.grant x level b a.region res) c tok (some a.src) none c x
  have hcell := State.cell_sendAs_eq (s.modCell c fun d => d.grant x level b a.region res) c tok (some a.src) none c
  rw [State.cx_modCell, Cell.cx_grant] at hm
  have hinq := (congrArg Cell.inq hcell :)
  have hrecs := (congrArg Cell.recs hcell :)
  rw [State.cell_modCell] at hinq hrecs
  refine ⟨Later.of_insts (State.insts_sendAs ..) hinq (fun e he => ?_) (by rw [hm]; rfl) fun r hr => ?_, fun r ha hr => ?_⟩
  · rw [hrecs] at he
    exact he
  · rw [hm]
    intro p hp q hq
    rcases Tbl.mem_put _ _ _ _ hp with hp | rfl
    · exact hr p hp q hq
    · exact Ctx.unasked_getD hr hq
  · rw [hm]
    intro e he
    rcases Tbl.mem_put _ _ _ _ he with he | rfl
    · exact hr e he
    · exact ha

theorem later_granted {ls : List Nat} {s t : State} (h : Granted c x ls s t) :
    Later c x f id s t ∧ ∀ r, (s.cx c x).unasked r → (s.cx c x).unframed r → (t.cx c x).unframed r := by
  induction h with
  | done s => exact ⟨Later.refl s, fun _ _ h => h⟩
  | next l ls s t _ _ ih => exact ih
  | grant l ls s t p a rest b res hp hq _ _ ih =>
    obtain ⟨hlater, hframes⟩ := ih
    have hpop : Later c x f id s (s.modCx c x fun k => { k with pools := k.pools.put l { p with queue := rest } }) := by
      refine Later.of_insts rfl ?_ ?_ (by rw [State.cx_modCx]) fun r hr => ?_
      · rw [State.modCx, State.cell_modCell]; rfl
      · rw [State.modCx, State.cell_modCell]; exact fun _ h => h
      · rw [State.cx_modCx]
        intro e he q hq'
        rcases Tbl.mem_put _ _ _ _ he with he | rfl
        · exact hr e he q hq'
        · exact hr (l, p) (Tbl.mem_of_get? hp) q (by rw [hq]; exact List.mem_cons_of_mem _ hq')
    obtain ⟨hgrant, hput⟩ := later_grantTo (c := c) (x := x) (f := f) (id := id)
      (s.modCx c x fun k => { k with pools := k.pools.put l { p with queue := rest } }) l b res a
    refine ⟨(hpop.trans hgrant).trans hlater, fun r hask hun => hframes r ((hpop.trans hgrant).unasked r hask) ?_⟩
    refine hput r (hask (l, p) (Tbl.mem_of_get? hp) a (by rw [hq]; exact List.mem_cons_self ..)) ?_
    rw [State.cx_modCx]
    exact hun

/-- The frames of a region freed, and what waited for frames served. -/
theorem later_freeRegionFrames (s : State) {r : Nat} (hr : (s.cx c x).unasked r) :
    Later c x f id s (s.freeRegionFrames c x r) ∧ ((s.freeRegionFrames c x r).cx c x).unframed r := by
  have hdrop := later_dropRegion (c := c) (x := x) (f := f) (id := id) s r
  obtain ⟨hserve, hframes⟩ := later_granted (f := f) (id := id) (granted_serveLevels (s.modCell c fun d => d.dropRegion x r) c x)
  refine ⟨hdrop.trans hserve, hframes r (hdrop.unasked r hr) ?_⟩
  rw [State.cx_modCell]
  exact Cell.frames_dropRegion _ x r

/-- Waiting requests of a region taken out: none of those left is of it. -/
theorem later_dropAsking (s : State) {r : Nat} (hr : r ≠ 0)
    (hq : ∀ e, e ∈ (s.cx c x).pools → ∀ a, a ∈ e.2.queue → a.region = 0 ∨ a.region = regionOf a.tag) :
    Later c x f id s (s.dropAsking c x r) ∧ ((s.dropAsking c x r).cx c x).unasked r := by
  have hstep : ∀ (s : State) (q : FrameReq), Later c x f id s ((s.lowerOut q.src x 1).countLost q.src x q.tag 1) := fun s q =>
    (later_lowerOut s q.src x 1).trans (later_countLost _ q.src x q.tag 1)
  have hlater := later_foldl (g := fun (s : State) (q : FrameReq) => (s.lowerOut q.src x 1).countLost q.src x q.tag 1) hstep
    ((s.cx c x).asking r) (s.modCx c x fun k => { k with pools := k.pools.map fun (e : Nat × Pool) =>
      (e.1, { e.2 with queue := e.2.queue.filter fun q => regionOf q.tag != r }) })
  have hout : Later c x f id s (s.modCx c x fun k => { k with pools := k.pools.map fun (e : Nat × Pool) =>
      (e.1, { e.2 with queue := e.2.queue.filter fun q => regionOf q.tag != r }) }) := by
    refine Later.of_insts rfl ?_ ?_ (by rw [State.cx_modCx]) fun n hn => ?_
    · rw [State.modCx, State.cell_modCell]; rfl
    · rw [State.modCx, State.cell_modCell]; exact fun _ h => h
    · rw [State.cx_modCx]
      intro e he a ha
      obtain ⟨p, hp, rfl⟩ := List.mem_map.mp he
      exact hn p hp a (List.mem_filter.mp ha).1
  refine ⟨hout.trans hlater, hlater.unasked r ?_⟩
  rw [State.cx_modCx]
  intro e he a ha hreg
  obtain ⟨p, hp, rfl⟩ := List.mem_map.mp he
  obtain ⟨hin, htag⟩ := List.mem_filter.mp ha
  rcases hq p hp a hin with h0 | h0
  · exact hr (hreg.symm.trans h0)
  · simp [← h0, hreg] at htag

end

/-! ## The step of a cell -/

/-- A region without the waiting closes of a region on a cell. -/
def Region.shutOn (g : Region) (c r : Nat) : Region :=
  { g with closing := g.closing.filter fun w => !(w.2.cell == c && regionOf w.2.tag == r) }

/-- The cell after its firings, its commands and its tiles of the region are gone. -/
def Cell.stripped (d : Cell) (x r : Nat) : Cell :=
  (cancelCmds ((d.voidFirings x r).dropStalled x r).1 (fun m => m.who.ctx == x && regionOf m.who.tag == r) true).freeRegionTiles x r

theorem Cell.stripped_alike (d : Cell) (x r : Nat) : Alike (d.voidFirings x r) (d.stripped x r) :=
  ((alike_dropStalled _ x r).trans (alike_cancelCmds _ _)).trans (alike_freeRegionTiles _ x r)

/-- The commands of a region that run on a cell lose what they made. -/
def State.unmade (s : State) (x c r : Nat) : State :=
  ((s.cell c).running.filter fun a => a.cmd.who.ctx == x && regionOf a.cmd.who.tag == r).foldl State.dropMade s

/-- The state after what the cell itself loses. -/
def State.strippedCell (s : State) (x c r : Nat) : State :=
  s.modCell c fun _ => (cancelCmds (((s.cell c).voidFirings x r).dropStalled x r).1
    (fun m => m.who.ctx == x && regionOf m.who.tag == r) true).freeRegionTiles x r

/-- The state after its operations and waiting closes are gone too. -/
def State.strippedAt (s : State) (i : Inst) (c r : Nat) : State :=
  (((s.unmade i.ctx c r).strippedCell i.ctx c r).dropOps fun o => o.who.cell == c && o.inRegion i r).dropClosing i c r

theorem State.applyFailure_eq (s : State) (i : Inst) (c r : Nat) :
    ∃ n, (s.applyFailure i c r).1 = (((s.strippedAt i c r).lowerOut c i.ctx n).dropAsking c i.ctx r).freeRegionFrames c i.ctx r := by
  unfold State.applyFailure
  extract_lets x mine cmds op own away shut made d t
  have hcell : t = (s.unmade i.ctx c r).strippedCell i.ctx c r := rfl
  have hat : (t.dropOps op).dropClosing i c r = s.strippedAt i c r := by rw [State.strippedAt, ← hcell]
  exact ⟨cmds + own + d.2 + shut, by rw [← hat]⟩

theorem State.cell_strippedCell (s : State) (x c r : Nat) : (s.strippedCell x c r).cell c = (s.cell c).stripped x r := State.cell_modCell ..

section
variable (s : State) (i : Inst) (c r : Nat)

theorem State.strippedAt_aside : Aside { (s.unmade i.ctx c r).strippedCell i.ctx c r with
    ops := ((s.unmade i.ctx c r).strippedCell i.ctx c r).ops.filter fun o => !(o.who.cell == c && o.inRegion i r) }
    (((s.unmade i.ctx c r).strippedCell i.ctx c r).dropOps fun o => o.who.cell == c && o.inRegion i r) :=
  (kept_dropOps ((s.unmade i.ctx c r).strippedCell i.ctx c r) fun o => o.who.cell == c && o.inRegion i r).aside

theorem State.cell_strippedAt : Alike (((s.unmade i.ctx c r).cell c).voidFirings i.ctx r) ((s.strippedAt i c r).cell c) := by
  have hcells : (s.strippedAt i c r).cells = ((s.unmade i.ctx c r).strippedCell i.ctx c r).cells := (s.strippedAt_aside i c r).cells
  rw [State.cell_congr hcells, State.cell_strippedCell]
  exact Cell.stripped_alike ..

theorem State.cx_strippedAt : { (s.strippedAt i c r).cx c i.ctx with
    regions := (s.cx c i.ctx).regions
    lost := (s.cx c i.ctx).lost
    spill := (s.cx c i.ctx).spill } = s.cx c i.ctx := by
  obtain ⟨-, hmade⟩ := State.foldl_dropMade ((s.cell c).running.filter fun a => a.cmd.who.ctx == i.ctx && regionOf a.cmd.who.tag == r) s
  have hcx : ((s.unmade i.ctx c r).cell c).cx i.ctx = s.cx c i.ctx := (hmade c).cx i.ctx
  have hvoid := Cell.cx_voidFirings ((s.unmade i.ctx c r).cell c) i.ctx r
  rw [← (s.cell_strippedAt i c r).cx i.ctx, hcx] at hvoid
  exact hvoid

theorem State.inst?_strippedAt {s : State} {f id : Nat} {i : Inst} (hi : s.inst? f id = some i) {g : Region}
    (hg : i.regions.get? r = some g) :
    ∃ j, (s.strippedAt i c r).inst? f id = some j ∧ j.regions.get? r = some (g.shutOn c r) := by
  obtain ⟨rfl, rfl⟩ := State.inst?_key hi
  obtain ⟨hrest, -⟩ := State.foldl_dropMade ((s.cell c).running.filter fun a => a.cmd.who.ctx == i.ctx && regionOf a.cmd.who.tag == r) s
  have hmade : (s.unmade i.ctx c r).insts = s.insts := (congrArg State.insts hrest :)
  have hinsts : (((s.unmade i.ctx c r).strippedCell i.ctx c r).dropOps fun o => o.who.cell == c && o.inRegion i r).insts = s.insts :=
    (s.strippedAt_aside i c r).insts.trans hmade
  refine ⟨{ i with regions := i.regions.map fun (e : Nat × Region) => (e.1, e.2.shutOn c r) }, State.inst?_modInst _ ?_ ⟨rfl, rfl⟩, ?_⟩
  · exact (congrArg (List.find? _) hinsts).trans hi
  · exact (Tbl.get?_map i.regions (fun g => g.shutOn c r) r).trans (congrArg (Option.map _) hg)

end

/-- What a region's failure leaves on a cell and in its `Inst`. -/
theorem State.applyFailure_leaves {s : State} {f id c r : Nat} {i : Inst} (hi : s.inst? f id = some i) {g : Region}
    (hg : i.regions.get? r = some g) (hr : r ≠ 0)
    (hq : ∀ e, e ∈ (s.cx c i.ctx).pools → ∀ a, a ∈ e.2.queue → a.region = 0 ∨ a.region = regionOf a.tag) :
    let t := (s.applyFailure i c r).1
    (∃ j m, t.inst? f id = some j ∧ j.regions.get? r = some { g.shutOn c r with cancelled := m }) ∧
      (t.cx c i.ctx).regions.get? r = some .failed ∧ (t.cx c i.ctx).unframed r ∧
      (∀ k, k ∈ (t.cell c).inq → ctxOf k.cont = i.ctx → regionOf k.tag ≠ r) ∧
      ∀ e, e ∈ (t.cell c).recs → e.2.fir.ctx = i.ctx → regionOf e.2.fir.tag ≠ r := by
  obtain ⟨n, heq⟩ := s.applyFailure_eq i c r
  have hlow := later_lowerOut (c := c) (x := i.ctx) (f := f) (id := id) (s.strippedAt i c r) c i.ctx n
  have hpools : (((s.strippedAt i c r).lowerOut c i.ctx n).cx c i.ctx).pools = (s.cx c i.ctx).pools := by
    rw [State.cx_lowerOut]
    exact (congrArg Ctx.pools (s.cx_strippedAt i c r) :)
  obtain ⟨hask, hnone⟩ := later_dropAsking (c := c) (x := i.ctx) (f := f) (id := id) ((s.strippedAt i c r).lowerOut c i.ctx n) hr
    (by rw [hpools]; exact hq)
  obtain ⟨hfree, hframes⟩ := later_freeRegionFrames (c := c) (x := i.ctx) (f := f) (id := id) _ hnone
  have hall := (hlow.trans hask).trans hfree
  have hcell := s.cell_strippedAt i c r
  rw [← heq] at hall hframes
  obtain ⟨j, hj, hjr⟩ := State.inst?_strippedAt c r hi hg
  refine ⟨hall.inst r j _ hj hjr, ?_, hframes, fun k hk hx => ?_, fun e he hx => ?_⟩
  · rw [hall.regions]
    exact (congrArg (fun k : Ctx => k.regions.get? r) (hcell.cx i.ctx)).trans (Cell.regions_voidFirings ..)
  · rw [hall.inq, hcell.inq] at hk
    exact Cell.inq_voidFirings _ _ hr hk hx
  · have he' := hall.recs e he
    rw [hcell.recs] at he'
    exact Cell.recs_voidFirings _ _ _ he' hx

section
variable {s : State} {f id c r : Nat} {i : Inst} {g : Region} {q : Packet} (hi : s.inst? f id = some i) (hg : i.regions.get? r = some g)
  (hp : s.packet? 4 ((s.cx c i.ctx).place.getD 0 0) c i.ctx = some q) (hb : q.body = .regionApply r) (ha : s.instAt c i.ctx = some i)
include hp hb

/-- While a firing of no failed region runs on the lane the failure waits. -/
theorem execRegionFailureApply_waits (hl : (s.cell c).lane.busy = true) (hn : (s.cell c).laneIn i.ctx r = false) :
    exec (.regionFailureApply c i.ctx) s = .next s := by
  change execRegionFailureApply c i.ctx s = _
  simp only [execRegionFailureApply, hp, hb, hl, hn, Bool.not_false, Bool.and_self, if_true]

include hi hg ha in
theorem regionFailureApply_leaves (hr : r ≠ 0) (hl : (s.cell c).lane.busy = false ∨ (s.cell c).laneIn i.ctx r = true)
    (hf : (s.cell c).faultToks i.ctx r = [])
    (hq : ∀ e, e ∈ (s.cx c i.ctx).pools → ∀ a, a ∈ e.2.queue → a.region = 0 ∨ a.region = regionOf a.tag) :
    ∃ t j n, exec (.regionFailureApply c i.ctx) s = .next t ∧ t.inst? f id = some j ∧
      j.regions.get? r = some { g.shutOn c r with todo := g.todo.erase c, cancelled := n } ∧
      (t.cx c i.ctx).regions.get? r = some .failed ∧ (∀ e, e ∈ (t.cx c i.ctx).frames → e.2.region ≠ r) ∧
      (∀ k, k ∈ (t.cell c).inq → ctxOf k.cont = i.ctx → regionOf k.tag ≠ r) ∧
      ∀ e, e ∈ (t.cell c).recs → e.2.fir.ctx = i.ctx → regionOf e.2.fir.tag ≠ r := by
  have hgo : ((s.cell c).lane.busy && !(s.cell c).laneIn i.ctx r) = false := by
    rcases hl with h | h
    · rw [h, Bool.false_and]
    · rw [h, Bool.not_true, Bool.and_false]
  obtain ⟨⟨j, m, hj, hjr⟩, hreg, hframes, hinq, hrecs⟩ :=
    State.applyFailure_leaves (s := s.takePacket 4 ((s.cx c i.ctx).place.getD 0 0) c i.ctx) hi hg hr hq
  have hat : (s.takePacket 4 ((s.cx c i.ctx).place.getD 0 0) c i.ctx).instAt c i.ctx = some i := ha
  have htoks : ((s.takePacket 4 ((s.cx c i.ctx).place.getD 0 0) c i.ctx).cell c).faultToks i.ctx r = [] := hf
  obtain ⟨rfl, rfl⟩ := State.inst?_key hi
  obtain ⟨hf', hid'⟩ := State.inst?_key hj
  generalize hu : (s.takePacket 4 ((s.cx c i.ctx).place.getD 0 0) c i.ctx).applyFailure i c r = u at hj hreg hframes hinq hrecs
  refine ⟨u.1.modRegion i r fun k => { k with todo := k.todo.erase c, cancelled := k.cancelled + u.2 },
    { j with regions := j.regions.put r { g.shutOn c r with todo := g.todo.erase c, cancelled := m + u.2 } }, m + u.2, ?_, ?_,
    Tbl.get?_put_same .., hreg, hframes, hinq, hrecs⟩
  · change execRegionFailureApply c i.ctx s = _
    simp only [execRegionFailureApply, hp, hb, hgo, hat, htoks, hu, Bool.false_eq_true, if_false, List.foldl_nil]
  · have hmod := State.modRegion_region hj hjr fun k => { k with todo := k.todo.erase c, cancelled := k.cancelled + u.2 }
    rw [State.modRegion_key hf'.symm hid'.symm]
    exact hmod

end

end Sys2Proof.Machine
end

section
/-! PROOFS. What the rules give instances and containment regions, put together (R55, R64, R225, R305 to R309, R325, R326, R333, R334). -/

namespace Sys2Proof.Machine

section
variable {s : State} {f id : Nat} {i : Inst} (hi : s.inst? f id = some i)
include hi

/-- What a placement leaves of its cells, by vcell (R306). -/
theorem placeInst_segments {t : State} (h : s.placeInst i = some t) : ∃ j m, t.inst? f id = some j ∧ parseImage i.words = some m ∧
    ∀ v, v < m.vcount →
      let k := t.cx (j.place.getD v 0) j.ctx
      k.vcell = v ∧ k.part = i.part ∧ k.ctl = { prio := BitVec.ofNat 2 i.prio } ∧
      (∀ g, m.seg 0 v = some g → k.areaSize = g.area ∧ k.logSize = g.log ∧ k.spillCap = g.spill / 32 ∧
        (k.resident = true ↔ ((s.cell (j.place.getD v 0)).evict j.ctx k.image.length (List.range 8)).isSome = true) ∧ k.ahead = none) ∧
      (m.seg 0 v = none → ∀ g, m.seg 1 v = some g → ∃ code, k.ahead = some (code, false)) := by
  obtain ⟨j, m, hj, hm, -, hlen, -, -, -, hload, -⟩ := placeInst_leaves hi h
  refine ⟨j, m, hj, hm, fun v hv => ?_⟩
  have hv' : j.place[v]? = some (j.place.getD v 0) := by
    rw [List.getD_eq_getElem?_getD, List.getElem?_eq_getElem (hlen ▸ hv)]
    rfl
  obtain ⟨hl, hnone, hahead⟩ := hload v _ hv'
  refine ⟨hl.vcell, hl.part, hl.ctl, fun g hg => ?_, hahead⟩
  obtain ⟨harea, hlog, hspill, hres⟩ := hl.seg g hg
  exact ⟨harea, hlog, hspill, hres, hnone (by rw [hg]; exact Option.some_ne_none g)⟩

/-- What it leaves of its cells, each picked while its context slot was free (R306). -/
theorem placeInst_cells {t : State} (h : s.placeInst i = some t) : ∃ j m, t.inst? f id = some j ∧ parseImage i.words = some m ∧ j.ctx < 8 ∧
    j.place.length = m.vcount ∧ j.load = 0 ∧ j.phase = (if i.phase = .waiting then .placed else i.phase) ∧
    ∀ c, c ∈ j.place → c ∈ s.usableCells (s.parts.getD i.part {}) ∧
      ((s.cx c j.ctx).inst = none ∧ ((s.cx c j.ctx).released = true → (s.cx c j.ctx).tenant = (s.parts.getD i.part {}).tenant)) ∧
      (t.cx c j.ctx).inst = some (f, id) ∧ (t.cx c j.ctx).tenant = (s.parts.getD i.part {}).tenant ∧ (t.cx c j.ctx).place = j.place := by
  obtain ⟨hf, hid⟩ := State.inst?_key hi
  obtain ⟨j, m, hj, hm, hx, hlen, hload, hphase, hopen, hctx, -⟩ := placeInst_leaves hi h
  refine ⟨j, m, hj, hm, hx, hlen, hload, hphase, fun c hc => ?_⟩
  obtain ⟨huse, hfree⟩ := hopen c hc
  obtain ⟨v, hv⟩ := List.mem_iff_getElem?.mp hc
  obtain ⟨hl, -⟩ := hctx v c hv
  exact ⟨huse, Ctx.open?_iff.mp hfree, by rw [hl.inst, hf, hid], hl.tenant, hl.place⟩

end

/-- A request as R146 shows it: its answer, and what the device queue keeps (R309). -/
theorem qpostRequest_shown {s : State} {f id : Nat} {i : Inst} (hi : s.inst? f id = some i) {src ctx prio op : Nat} {q : Packet}
    {w : List Word} {cont : Word} {who : Issuer} (hp : s.packet? 4 src Config.frontEnd ctx = some q)
    (hb : q.body = .qpost w cont prio op who) (ha : s.instAt src ctx = some i) (hw : qpostRecord w = true) :
    let k := s.fn f
    let no := k.posten = false ∨ bits (word k.postq) 0 8 ≤ k.postedLive.length
    let net := (s.takePacket 4 src Config.frontEnd ctx).net
    ∃ t v, exec (.qpostRequest src ctx) s = .next t ∧
      ((s.op? op = none → t.net = net) ∧ (s.op? op ≠ none → t.net = net ++ [s.sent
        { vn := 0, src := Config.frontEnd, dst := (s.cx who.cell who.ctx).place.getD (vcellOf cont) 0, ctx := ctxOf cont, committed := true,
          counts := false, also := some who.cell, body := .token { cont := cont, val := v, tag := who.tag } }])) ∧
      (no → v = word (2 ^ 63 + 1) ∧ (t.fn f).devq = k.devq ∧ (t.fn f).launchCount = k.launchCount) ∧
      (¬ no → 64 ≤ k.devq.length → v = word (2 ^ 63 + 2) ∧ (t.fn f).devq = k.devq ∧ (t.fn f).launchCount = k.launchCount) ∧
      (¬ no → k.devq.length < 64 → v = word k.launchCount.toNat ∧ (t.fn f).launchCount = k.launchCount + 1 ∧
        (t.fn f).postedLive = k.postedLive ++ [k.launchCount.toNat] ∧ ∃ c, (t.fn f).devq = k.devq ++ [c] ∧
          c.id = k.launchCount.toNat ∧ c.parent = id ∧ c.part = i.part ∧ c.prio = prio ∧ c.budget = k.wdog.toNat ∧
          c.image = bits (w.getD 0 0) 0 32 ∧ c.vcountM1 = bits (w.getD 1 0) 0 11 ∧ c.args = (w.drop 2).take 4) := by
  obtain ⟨rfl, rfl⟩ := State.inst?_key hi
  intro k no net
  obtain ⟨t, hex, hfns, hgone, hlive⟩ := qpostRequest_answers hp hb ha hw
  have hfn := (s.tookPost_kept src ctx op).fn i.fn
  have htfn : t.fn i.fn = ((s.tookPost src ctx op).post i w prio).1.fn i.fn := congrArg (fun l : Tbl Fn => l.getD i.fn {}) hfns
  have hposten : ((s.tookPost src ctx op).fn i.fn).posten = k.posten := (congrArg Fn.posten hfn :)
  have hpostq : ((s.tookPost src ctx op).fn i.fn).postq = k.postq := (congrArg Fn.postq hfn :)
  have hposted : ((s.tookPost src ctx op).fn i.fn).postedLive = k.postedLive := (congrArg Fn.postedLive hfn :)
  have hdevq : ((s.tookPost src ctx op).fn i.fn).devq = k.devq := (congrArg Fn.devq hfn :)
  have hcount : ((s.tookPost src ctx op).fn i.fn).launchCount = k.launchCount := (congrArg Fn.launchCount hfn :)
  have hwdog : ((s.tookPost src ctx op).fn i.fn).wdog = k.wdog := (congrArg Fn.wdog hfn :)
  obtain ⟨hrefused, hfull, haccepts⟩ := (s.tookPost src ctx op).post_answers i w prio
  simp only [hposten, hpostq, hposted, hdevq, hcount, ← htfn] at hrefused hfull haccepts
  refine ⟨t, ((s.tookPost src ctx op).post i w prio).2, hex, ⟨hgone, hlive⟩, hrefused, hfull, fun hno hd => ?_⟩
  obtain ⟨hv, ht⟩ := haccepts hno hd
  rw [ht]
  refine ⟨hv, congrArg (· + 1) hcount, ?_, ((s.tookPost src ctx op).fn i.fn).posted i w prio, congrArg (· ++ [_]) hdevq, ?_⟩
  · exact (congrArg (· ++ [((s.tookPost src ctx op).fn i.fn).launchCount.toNat]) hposted).trans (by rw [hcount])
  · exact ⟨congrArg BitVec.toNat hcount, rfl, rfl, rfl, congrArg BitVec.toNat hwdog, rfl, rfl, rfl⟩

/-- Settles O58, by what each of these steps leaves of the `Inst`, of its cells and of its regions. -/
theorem instancesAndRegions : Obligations.InstancesAndRegions := by
  unfold Obligations.InstancesAndRegions
  intro s f id i hi part p over' hung closes
  obtain ⟨hf, hid⟩ := State.inst?_key hi
  refine ⟨fun hst hfr hq hprio => ⟨fun hs hd hw => execLaunchPlacement_scrub hi hst hfr hq hprio hs hd hw, fun hs => ⟨fun hn => ?_, fun t ht => ?_⟩⟩,
    fun die g => ⟨fun n h => State.fetchSeg_held h, State.fetchSeg_stocked⟩,
    fun hph hun hsc => ⟨execInstanceStart_eq hi hph hun hsc, execInstanceStart_waits hi hph hun⟩,
    fun v d hv hph hr hu hd hl he ht ha => ⟨_, execSegmentMove_moves hi hv hph hr hu hd hl he ht ha,
      segmentMoved_leaves hi (by rw [List.getD_eq_getElem _ _ hv]; exact List.getElem_mem hv) hd⟩,
    fun m hm hph hu => execLoadAdvance_forms hi hm hph hu,
    fun m hm hph hl hidle hr => ⟨fun hlv => ?_, fun hlv hrel => ?_, fun t hlv hrel hn => ?_⟩,
    fun src ctx q k hp hb ha => returnToken_leaves hi hp hb ha,
    fun hph he hh hr => ?_,
    fun hph he hh => ⟨fun hr hx => ⟨_, execInstanceComplete_ends hi hph he hh hr hx, endInst_leaves hi .complete⟩, execInstanceComplete_waits hi⟩,
    fun src ctx q w cont prio op who hp hb ha => ⟨fun hno => ?_, fun hsh => ?_⟩,
    hung_stands hi,
    fun n => ⟨s.tickInst_unfired n, s.tickInst_counts n⟩,
    watchdogExpiry_waits hi, watchdogExpiry_marks hi, deadlockDetect_marks hi,
    fun r g hg => ⟨fun src ctx q recd tag faulty hp hb ha =>
        ⟨execRegionFailureReport_again hg hp hb ha, regionFailureReport_first hi hg hp hb ha⟩,
      fun o code d1 d2 ht hr ho ha => State.failOp_counts hi hg code d1 d2 ht hr ho ha,
      fun c q hp hb ha hr => ⟨execRegionFailureApply_waits hp hb, fun hl hft hq => regionFailureApply_leaves hi hg hp hb ha hr hl hft hq⟩,
      fun hm hd ht => ⟨fun hdone => ?_, fun hdone => ?_⟩, fun w ws hc => ⟨fun hm hd => ⟨?_, ?_⟩, fun hm hd => ?_, fun hm hr => ?_⟩⟩⟩
  · rw [execLaunchPlacement_place hi hst hfr hq hprio hs, hn]
    rfl
  · refine ⟨?_, ?_, placeInst_cells hi ht, placeInst_segments hi ht⟩
    · rw [execLaunchPlacement_place hi hst hfr hq hprio hs, ht]
      rfl
    · obtain ⟨-, -, -, -, -, -, -, -, -, -, hparts⟩ := placeInst_leaves hi ht
      rw [hparts]
      change (s.parts.getD i.part {}).queue.filter (· != (f, id)) = []
      rw [show (s.parts.getD i.part {}).queue = [(f, id)] from hq]
      simp
  · obtain ⟨h1, h2, h3, h4, h5⟩ := loadEnds_leaves hi
    refine ⟨_, ?_, h1, h2, h3, h4, h5⟩
    rw [execLoadAdvance_idle hi hm hph hl hidle hr, if_pos hlv]
  · rw [execLoadAdvance_idle hi hm hph hl hidle hr, if_neg (by simp [hlv]), hrel]
    rfl
  · refine ⟨?_, nextLoad_leaves hi hn⟩
    rw [execLoadAdvance_idle hi hm hph hl hidle hr, if_neg (by simp [hlv]), hrel, hn]
    rfl
  · obtain ⟨hrest, hlen, hmem⟩ := closes_releaseAll s i
    rw [hf, hid] at hmem
    refine ⟨_, execEndOfGraphRelease_releases hi hph he hh hr, State.inst?_modInst _ ?_ ⟨rfl, rfl⟩, (congrArg State.cells hrest :),
      (congrArg State.mem hrest :), hlen, hmem⟩
    exact (congrArg (List.find? _) (congrArg State.insts hrest :)).trans hi
  · exact qpostRequest_malformed hp hb ha fun h => hno ((qpostRecord_iff w).mp h)
  · exact qpostRequest_shown hi hp hb ha ((qpostRecord_iff w).mpr hsh)
  · rw [execRegionFailedDelivery_eq hi hg hm hd ht, if_pos hdone]
  · rw [execRegionFailedDelivery_eq hi hg hm hd ht, if_neg (by simp [hdone])]
  · rw [execRegionCloseProceed_failed hi hg hc hm, if_pos hd]
  · exact State.endRegion_removed hi 0
  · rw [execRegionCloseProceed_failed hi hg hc hm, hd]
    rfl
  · have hex := execRegionCloseProceed_open hi hg hc hm hr
    refine ⟨fun hrel happ => ⟨?_, State.endRegion_removed hi g.token⟩, fun hrel hquiet => ?_, fun hrel hquiet => ?_⟩
    · rw [hex, hrel, happ]
      rfl
    · rw [hex, hrel, hquiet]
      rfl
    · rw [hex, hrel, hquiet]
      rfl

end Sys2Proof.Machine
end

section
/-! PROOFS. What one rounding of an exact value delivers in a format (R104, R105, R124, R126, R127, R170). -/

namespace Sys2Proof.Machine

/-! ## Magnitudes in units of the smallest positive value (R104, R105) -/

/-- The magnitude of a format's bits without the sign, in units. -/
def Fmt.mags (f : Fmt) (b : Nat) : Nat :=
  if b < 2 ^ f.frac then b else (2 ^ f.frac + b % 2 ^ f.frac) * 2 ^ (b / 2 ^ f.frac - 1)

section
variable (f : Fmt)

/-- `k` ulps of 2^t units each. -/
theorem Fmt.mags_ulps {t k : Nat} (hk : k ≤ 2 ^ (f.frac + 1)) (ht : 2 ^ f.frac ≤ k ∨ t = 0) : f.mags (t * 2 ^ f.frac + k) = k * 2 ^ t := by
  have hpos := Nat.two_pow_pos f.frac
  have hsucc : 2 ^ (f.frac + 1) = 2 ^ f.frac + 2 ^ f.frac := by rw [pow_succ]; omega
  unfold Fmt.mags
  rcases Nat.lt_or_ge k (2 ^ f.frac) with hlt | hge
  · obtain rfl := ht.resolve_left (by omega)
    rw [if_pos (by omega)]
    simp
  · obtain ⟨j, rfl⟩ := Nat.exists_eq_add_of_le hge
    have hb : t * 2 ^ f.frac + (2 ^ f.frac + j) = j + 2 ^ f.frac * (t + 1) := by rw [Nat.mul_add, Nat.mul_comm t]; omega
    rw [if_neg (by omega), hb, Nat.add_mul_mod_self_left, Nat.add_mul_div_left _ _ hpos]
    rcases Nat.lt_or_ge j (2 ^ f.frac) with hj | hj
    · rw [Nat.mod_eq_of_lt hj, Nat.div_eq_of_lt hj]
      simp
    · obtain rfl : j = 2 ^ f.frac := by omega
      rw [Nat.mod_self, Nat.div_self hpos, show 1 + (t + 1) - 1 = t + 1 by omega, pow_succ]
      ring

/-- All bits are a number of ulps. -/
theorem Fmt.exists_ulps (b : Nat) : ∃ k, b = (b / 2 ^ f.frac - 1) * 2 ^ f.frac + k ∧ k < 2 ^ (f.frac + 1) ∧
    (2 ^ f.frac ≤ k ∨ b / 2 ^ f.frac - 1 = 0) := by
  have hpos := Nat.two_pow_pos f.frac
  have hsucc : 2 ^ (f.frac + 1) = 2 ^ f.frac + 2 ^ f.frac := by rw [pow_succ]; omega
  have hdiv := Nat.div_add_mod b (2 ^ f.frac)
  have hmod := Nat.mod_lt b hpos
  rcases Nat.eq_zero_or_pos (b / 2 ^ f.frac) with h0 | h0
  · refine ⟨b, by simp [h0], ?_, .inr (by omega)⟩
    rw [h0] at hdiv
    omega
  · obtain ⟨t, ht⟩ := Nat.exists_eq_add_of_le h0
    refine ⟨2 ^ f.frac + b % 2 ^ f.frac, ?_, by omega, .inl (by omega)⟩
    rw [ht, Nat.mul_add] at hdiv
    rw [ht, show 1 + t - 1 = t by omega, Nat.mul_comm t]
    omega

theorem Fmt.mags_succ (b : Nat) : f.mags (b + 1) = f.mags b + 2 ^ (b / 2 ^ f.frac - 1) := by
  obtain ⟨k, hb, hk, ht⟩ := f.exists_ulps b
  generalize b / 2 ^ f.frac - 1 = t at hb ht
  subst hb
  rw [f.mags_ulps hk.le ht, Nat.add_assoc, f.mags_ulps (show _ + 1 ≤ _ from hk) (ht.imp_left fun h => by omega)]
  ring

theorem Fmt.mags_strictMono : StrictMono f.mags :=
  strictMono_nat_of_lt_succ fun b => by rw [f.mags_succ]; exact Nat.lt_add_of_pos_right (Nat.two_pow_pos _)

end

/-! ## The ulp of a magnitude of n / d units -/

/-- The exponent of the ulp there, counted from that of the smallest positive value. -/
def Fmt.ulpExp (f : Fmt) (n d : Nat) : Nat := if n < 2 ^ f.frac * d then 0 else Nat.log2 (n / d) - f.frac

section
variable (f : Fmt) {n d : Nat} (hd : 0 < d)
include hd

theorem Fmt.log2_div_of_bounds {j : Nat} (hl : 2 ^ j * d ≤ n) (hu : n < 2 ^ (j + 1) * d) : Nat.log2 (n / d) = j := by
  have hlo := (Nat.le_div_iff_mul_le hd).mpr hl
  have hhi := (Nat.div_lt_iff_lt_mul hd).mpr hu
  rw [Nat.log2_eq_iff (by have := Nat.two_pow_pos j; omega)]
  exact ⟨hlo, hhi⟩

theorem Fmt.ulp_eq : Ref.ulp f n d = 2 ^ f.ulpExp n d := by
  unfold Ref.ulp Fmt.ulpExp
  rcases Nat.lt_or_ge n (2 ^ f.frac * d) with hlt | hge
  · have hle : 2 ^ f.frac * d ≤ 2 ^ (f.frac + 1) * d := Nat.mul_le_mul_right _ (Nat.pow_le_pow_right (by decide) (by omega))
    rw [if_pos (by omega), if_pos hlt, pow_zero]
  · rw [if_neg (by omega : ¬ n < 2 ^ f.frac * d)]
    split
    · rename_i hlt
      rw [Fmt.log2_div_of_bounds hd hge hlt, Nat.sub_self, pow_zero]
    · rfl

/-- A magnitude has between 2^frac and 2^(frac + 1) ulps; a subnormal one has fewer. -/
theorem Fmt.ulps_bounds : n / (2 ^ f.ulpExp n d * d) < 2 ^ (f.frac + 1) ∧ (2 ^ f.frac ≤ n / (2 ^ f.ulpExp n d * d) ∨ f.ulpExp n d = 0) := by
  unfold Fmt.ulpExp
  split
  · rename_i hlt
    refine ⟨?_, .inr rfl⟩
    rw [pow_zero, Nat.one_mul, Nat.div_lt_iff_lt_mul hd, pow_succ, Nat.mul_right_comm]
    omega
  · rename_i hge
    have hN : 2 ^ f.frac ≤ n / d := (Nat.le_div_iff_mul_le hd).mpr (by omega)
    have hN0 : n / d ≠ 0 := by have := Nat.two_pow_pos f.frac; omega
    have hlog : f.frac ≤ Nat.log2 (n / d) := (Nat.le_log2 hN0).mpr hN
    have hlo := Nat.log2_self_le hN0
    have hhi := Nat.lt_log2_self (n := n / d)
    obtain ⟨t, ht⟩ := Nat.exists_eq_add_of_le hlog
    rw [ht, show f.frac + t - f.frac = t by omega, Nat.mul_comm, ← Nat.div_div_eq_div_mul]
    rw [ht] at hlo hhi
    refine ⟨?_, .inl ?_⟩
    · rw [Nat.div_lt_iff_lt_mul (Nat.two_pow_pos t), ← pow_add]
      rwa [show f.frac + 1 + t = f.frac + t + 1 by omega]
    · rw [Nat.le_div_iff_mul_le (Nat.two_pow_pos t), ← pow_add]
      exact hlo

/-- The bits of the greatest magnitude not above n / d units. -/
def Fmt.floorBits (f : Fmt) (n d : Nat) : Nat := f.ulpExp n d * 2 ^ f.frac + n / (2 ^ f.ulpExp n d * d)

theorem Fmt.mags_floorBits : f.mags (f.floorBits n d) * d = n / (2 ^ f.ulpExp n d * d) * (2 ^ f.ulpExp n d * d) ∧
    f.mags (f.floorBits n d + 1) * d = (n / (2 ^ f.ulpExp n d * d) + 1) * (2 ^ f.ulpExp n d * d) := by
  obtain ⟨hk, ht⟩ := f.ulps_bounds (n := n) hd
  have hk1 : n / (2 ^ f.ulpExp n d * d) + 1 ≤ 2 ^ (f.frac + 1) := hk
  unfold Fmt.floorBits
  rw [Nat.add_assoc, f.mags_ulps hk.le ht, f.mags_ulps hk1 (ht.imp_left fun h => by omega)]
  constructor
  · ring
  · ring

end

/-! ## Rounding to a number of ulps (R124, R126) -/

/-- Whether `k` ulps of `b` and a rest `l` are rounded up. -/
def roundsUp (mode r : Nat) (neg : Bool) (l b k : Nat) : Bool :=
  match mode with
  | 0 => decide (b < l * 2) || (decide (l * 2 = b) && decide (k % 2 = 1))
  | 1 => false
  | 2 => l != 0 && !neg
  | 3 => l != 0 && neg
  | _ => l != 0 && decide (b * 2 ^ 16 ≤ l * 2 ^ 16 + r * b)

theorem roundsUp_exact (mode r : Nat) (neg : Bool) {b : Nat} (hb : 0 < b) (k : Nat) : roundsUp mode r neg 0 b k = false := by
  unfold roundsUp
  split
  · simp; omega
  · rfl
  · rfl
  · rfl
  · rfl

/-- Both sides scaled by one factor round the same way. -/
theorem roundsUp_scaled (mode r : Nat) (neg : Bool) {l b c : Nat} (hc : 0 < c) (k : Nat) :
    roundsUp mode r neg (l * c) (b * c) k = roundsUp mode r neg l b k := by
  have hlt : b * c < l * c * 2 ↔ b < l * 2 := by
    rw [Nat.mul_right_comm l c 2, Nat.mul_lt_mul_right hc]
  have heq : l * c * 2 = b * c ↔ l * 2 = b := by
    rw [Nat.mul_right_comm l c 2]
    exact Nat.mul_left_inj hc.ne'
  have hle : b * c * 2 ^ 16 ≤ l * c * 2 ^ 16 + r * (b * c) ↔ b * 2 ^ 16 ≤ l * 2 ^ 16 + r * b := by
    rw [show b * c * 2 ^ 16 = b * 2 ^ 16 * c by ring, show l * c * 2 ^ 16 + r * (b * c) = (l * 2 ^ 16 + r * b) * c by ring]
    exact Nat.mul_le_mul_right_iff hc
  have hne : (l * c != 0) = (l != 0) := by
    rw [Bool.eq_iff_iff, bne_iff_ne, bne_iff_ne, Nat.mul_ne_zero_iff]
    exact ⟨And.left, fun h => ⟨h, hc.ne'⟩⟩
  unfold roundsUp
  simp only [hlt, heq, hle, hne]

theorem roundAt_eq_roundsUp (mode r : Nat) (neg : Bool) (m : Nat) {e q : Int} (h : e < q) : roundAt mode r neg m e false q =
    (m / 2 ^ (q - e).toNat + (roundsUp mode r neg (m % 2 ^ (q - e).toNat) (2 ^ (q - e).toNat) (m / 2 ^ (q - e).toNat)).toNat,
      m % 2 ^ (q - e).toNat != 0) := by
  have hq : ¬ q ≤ e := by omega
  match mode with
  | 0 => simp [roundAt, roundsUp, hq]
  | 1 => simp [roundAt, roundsUp, hq]
  | 2 => simp [roundAt, roundsUp, hq]
  | 3 => simp [roundAt, roundsUp, hq]
  | _ + 4 => simp [roundAt, roundsUp, hq]

section
variable {n d m : Nat} {e q : Int} (hd : 0 < d) (hx : n * 2 ^ (q - e).toNat = m * 2 ^ (e - q).toNat * d)
include hd hx

/-- `m × 2^e` is n / d units of 2^q: rounded to ulps of 2^t units. -/
theorem roundAt_units (mode r : Nat) (neg : Bool) (t : Nat) : roundAt mode r neg m e false (q + t) =
    (n / (2 ^ t * d) + (roundsUp mode r neg (n % (2 ^ t * d)) (2 ^ t * d) (n / (2 ^ t * d))).toNat, n % (2 ^ t * d) != 0) := by
  have hB : 0 < 2 ^ t * d := Nat.mul_pos (Nat.two_pow_pos t) hd
  rcases Int.lt_or_le e (q + t) with hlt | hge
  · have hpow : 2 ^ t * 2 ^ (q - e).toNat = 2 ^ (q + t - e).toNat * 2 ^ (e - q).toNat := by
      rw [← pow_add, ← pow_add]
      exact congrArg (2 ^ ·) (by omega)
    have hP := Nat.two_pow_pos (q - e).toNat
    have hQd : 0 < 2 ^ (e - q).toNat * d := Nat.mul_pos (Nat.two_pow_pos _) hd
    have hBP : 2 ^ t * d * 2 ^ (q - e).toNat = 2 ^ (q + t - e).toNat * (2 ^ (e - q).toNat * d) := by
      rw [Nat.mul_right_comm, hpow, Nat.mul_assoc]
    have hnP : n * 2 ^ (q - e).toNat = m * (2 ^ (e - q).toNat * d) := by rw [hx, Nat.mul_assoc]
    have hdiv : n / (2 ^ t * d) = m / 2 ^ (q + t - e).toNat := by
      rw [← Nat.mul_div_mul_right n (2 ^ t * d) hP, hBP, hnP, Nat.mul_div_mul_right _ _ hQd]
    have hmod : n % (2 ^ t * d) * 2 ^ (q - e).toNat = m % 2 ^ (q + t - e).toNat * (2 ^ (e - q).toNat * d) := by
      rw [← Nat.mul_mod_mul_right, hBP, hnP, Nat.mul_mod_mul_right]
    have hup := roundsUp_scaled mode r neg (l := n % (2 ^ t * d)) (b := 2 ^ t * d) hP (m / 2 ^ (q + t - e).toNat)
    rw [hmod, hBP, roundsUp_scaled mode r neg hQd] at hup
    have hne : (n % (2 ^ t * d) != 0) = (m % 2 ^ (q + t - e).toNat != 0) := by
      have hscale : ∀ a c : Nat, 0 < c → (a ≠ 0 ↔ a * c ≠ 0) := fun a c hc =>
        ⟨fun h => Nat.mul_ne_zero h hc.ne', fun h => (Nat.mul_ne_zero_iff.mp h).1⟩
      rw [Bool.eq_iff_iff, bne_iff_ne, bne_iff_ne, hscale _ _ hP, hmod, ← hscale _ _ hQd]
    rw [roundAt_eq_roundsUp _ _ _ _ hlt, hdiv, hne, hup]
  · have hexp : (e - q).toNat = (e - (q + t)).toNat + t := by omega
    have hn : n = m * 2 ^ (e - (q + t)).toNat * (2 ^ t * d) := by
      rw [show (q - e).toNat = 0 by omega, pow_zero, Nat.mul_one, hexp, pow_add] at hx
      rw [hx]
      ring
    rw [roundAt, if_pos hge, hn, Nat.mul_div_cancel _ hB, Nat.mul_mod_left, roundsUp_exact _ _ _ hB]
    rfl

end

end Sys2Proof.Machine
end

section
/-! PROOFS. What `Fmt.finish` delivers: the value rounded to its ulps, its flags, and the overflow (R104, R124, R126, R127). -/

namespace Sys2Proof.Machine

/-- The exponent of the smallest positive value of a format. -/
def Fmt.least (f : Fmt) : Int := 1 - (f.bias : Int) - f.frac

/-- `m × 2^e` is the magnitude of n / d units of a format. -/
def Fmt.measures (f : Fmt) (n d m : Nat) (e : Int) : Prop := n * 2 ^ (f.least - e).toNat = m * 2 ^ (e - f.least).toNat * d

/-- What an overflow gives (R127, R170). -/
def Fmt.over (f : Fmt) (mode : Nat) (neg : Bool) : Ovf → Nat
  | .nan => if f.nan.isSome then f.nanBits else f.sign neg + f.max
  | .largest => f.sign neg + f.max
  | .ieee => if (match mode with | 0 => true | 1 => false | 2 => !neg | 3 => neg | _ => false) then f.infBits neg else f.sign neg + f.max

/-- The bits of the magnitude that n / d units round to. -/
def Fmt.roundedBits (f : Fmt) (mode r : Nat) (neg : Bool) (n d : Nat) : Nat :=
  f.floorBits n d + (roundsUp mode r neg (n % (2 ^ f.ulpExp n d * d)) (2 ^ f.ulpExp n d * d) (n / (2 ^ f.ulpExp n d * d))).toNat

theorem Fmt.magBits_ulps (f : Fmt) {t k : Nat} (hk : k ≤ 2 ^ (f.frac + 1)) (ht : 2 ^ f.frac ≤ k ∨ t = 0) :
    f.magBits k (f.least + t) = t * 2 ^ f.frac + k := by
  have hpos := Nat.two_pow_pos f.frac
  have hsucc : 2 ^ (f.frac + 1) = 2 ^ f.frac + 2 ^ f.frac := by rw [pow_succ]; omega
  have hexp : ∀ j : Nat, (f.least + j + f.frac + f.bias).toNat = j + 1 := fun j => by unfold Fmt.least; omega
  unfold Fmt.magBits
  rcases Nat.lt_or_ge k (2 ^ (f.frac + 1)) with hlt | hge
  · rw [if_neg (by omega)]
    dsimp only
    split
    · obtain rfl := ht.resolve_left (by omega)
      simp
    · rw [hexp, Nat.succ_mul]
      omega
  · obtain rfl : k = 2 ^ f.frac + 2 ^ f.frac := by omega
    rw [if_pos (by omega)]
    dsimp only
    rw [← Nat.two_mul, Nat.mul_div_cancel_left _ (by decide), if_neg (by omega), Nat.sub_self,
      show f.least + t + 1 + f.frac + f.bias = f.least + (t + 1 : Nat) + f.frac + f.bias by push_cast; ring, hexp, Nat.succ_mul, Nat.succ_mul]
    omega

section
variable {f : Fmt} {n d m : Nat} {e : Int} (hm : 0 < m) (hd : 0 < d) (hx : f.measures n d m e)
include hm hd hx

/-- The exponent of the rounding, and whether the magnitude is below every normal one. -/
theorem Fmt.log2Of_units : (log2Of m e < 1 - (f.bias : Int) ↔ n < 2 ^ f.frac * d) ∧
    (if log2Of m e < 1 - (f.bias : Int) then 1 - (f.bias : Int) else log2Of m e) - f.frac = f.least + f.ulpExp n d := by
  have hlo := Nat.log2_self_le hm.ne'
  have hhi := Nat.lt_log2_self (n := m)
  have hP := Nat.two_pow_pos (f.least - e).toNat
  have hlower : 2 ^ (Nat.log2 m + (e - f.least).toNat) * d ≤ n * 2 ^ (f.least - e).toNat := by
    rw [hx, pow_add]
    exact Nat.mul_le_mul_right _ (Nat.mul_le_mul_right _ hlo)
  have hupper : n * 2 ^ (f.least - e).toNat < 2 ^ (Nat.log2 m + 1 + (e - f.least).toNat) * d := by
    rw [hx, pow_add]
    exact Nat.mul_lt_mul_of_pos_right (Nat.mul_lt_mul_of_pos_right hhi (Nat.two_pow_pos _)) hd
  have hge : ∀ j : Nat, j + (f.least - e).toNat ≤ Nat.log2 m + (e - f.least).toNat → 2 ^ j * d ≤ n := fun j hj => by
    refine Nat.le_of_mul_le_mul_right ?_ hP
    calc 2 ^ j * d * 2 ^ (f.least - e).toNat = 2 ^ (j + (f.least - e).toNat) * d := by rw [pow_add]; ring
      _ ≤ _ := Nat.mul_le_mul_right _ (Nat.pow_le_pow_right (by decide) hj)
      _ ≤ _ := hlower
  have hlt : ∀ j : Nat, Nat.log2 m + 1 + (e - f.least).toNat ≤ j + (f.least - e).toNat → n < 2 ^ j * d := fun j hj => by
    refine Nat.lt_of_mul_lt_mul_right (a := 2 ^ (f.least - e).toNat) ?_
    calc n * 2 ^ (f.least - e).toNat < 2 ^ (Nat.log2 m + 1 + (e - f.least).toNat) * d := hupper
      _ ≤ 2 ^ (j + (f.least - e).toNat) * d := Nat.mul_le_mul_right _ (Nat.pow_le_pow_right (by decide) hj)
      _ = 2 ^ j * d * 2 ^ (f.least - e).toNat := by rw [pow_add]; ring
  unfold log2Of Fmt.ulpExp
  unfold Fmt.least at hge hlt ⊢
  rcases Int.lt_or_le ((Nat.log2 m : Int) + e) (1 - (f.bias : Int)) with hlg | hlg
  · have hn := hlt f.frac (by omega)
    rw [if_pos hlg, if_pos hn]
    exact ⟨⟨fun _ => hn, fun _ => hlg⟩, by omega⟩
  · obtain ⟨j, hj⟩ := Int.eq_ofNat_of_zero_le (show 0 ≤ (Nat.log2 m : Int) + e - (1 - (f.bias : Int)) by omega)
    have hn := hge f.frac (by omega)
    have hlog := Fmt.log2_div_of_bounds hd (hge (f.frac + j) (by omega)) (hlt (f.frac + j + 1) (by omega))
    rw [if_neg (by omega), if_neg (by omega), hlog]
    exact ⟨⟨fun h => by omega, fun h => by omega⟩, by omega⟩

end

/-- A magnitude that is at most a number of ulps does not round above it. -/
theorem roundAt_le (mode r : Nat) (neg : Bool) {m k : Nat} {e q : Int} (h : m * 2 ^ (e - q).toNat ≤ k * 2 ^ (q - e).toNat) :
    (roundAt mode r neg m e false q).1 ≤ k := by
  rcases Int.lt_or_le e q with hlt | hge
  · rw [show (e - q).toNat = 0 by omega, pow_zero, Nat.mul_one] at h
    rw [roundAt_eq_roundsUp _ _ _ _ hlt]
    have hpos := Nat.two_pow_pos (q - e).toNat
    have hdiv : m / 2 ^ (q - e).toNat ≤ k := by rw [Nat.mul_comm] at h; exact Nat.div_le_of_le_mul h
    rcases Nat.eq_zero_or_pos (m % 2 ^ (q - e).toNat) with h0 | h0
    · rw [h0, roundsUp_exact _ _ _ hpos]
      exact hdiv
    · have hne : m / 2 ^ (q - e).toNat ≠ k := fun hk => by
        have hm := Nat.div_add_mod m (2 ^ (q - e).toNat)
        rw [hk, Nat.mul_comm] at hm
        omega
      have hle := Bool.toNat_le (roundsUp mode r neg (m % 2 ^ (q - e).toNat) (2 ^ (q - e).toNat) (m / 2 ^ (q - e).toNat))
      dsimp only
      omega
  · rw [show (q - e).toNat = 0 by omega, pow_zero, Nat.mul_one] at h
    rw [roundAt, if_pos hge]
    exact h

section
variable {f : Fmt} {n d m : Nat} {e : Int} (hm : 0 < m) (hd : 0 < d) (hx : f.measures n d m e)
include hm hd hx

omit hm in
/-- What is below every normal value stays below them when rounded with an exponent of its own, as far as R170 says. -/
theorem Fmt.tiny_of_small (mode r : Nat) (neg : Bool) (hlg : log2Of m e < 1 - (f.bias : Int))
    (hn : n * 2 ^ (f.frac + 1) ≤ (2 ^ (f.frac + 1) - 1) * 2 ^ f.frac * d) :
    (roundAt mode r neg m e false (log2Of m e - f.frac)).1 < 2 ^ f.frac * 2 ^ (1 - (f.bias : Int) - log2Of m e).toNat := by
  have hmant : m * 2 ^ (e - (log2Of m e - f.frac)).toNat ≤ 2 ^ (f.frac + 1) * 2 ^ (log2Of m e - f.frac - e).toNat := by
    have hhi := (Nat.lt_log2_self (n := m)).le
    calc m * 2 ^ (e - (log2Of m e - f.frac)).toNat ≤ 2 ^ (Nat.log2 m + 1) * 2 ^ (e - (log2Of m e - f.frac)).toNat :=
          Nat.mul_le_mul_right _ hhi
      _ = 2 ^ (f.frac + 1) * 2 ^ (log2Of m e - f.frac - e).toNat := by
          rw [← pow_add, ← pow_add]
          exact congrArg (2 ^ ·) (by unfold log2Of; omega)
  obtain ⟨s, hs⟩ := Int.eq_ofNat_of_zero_le (show 0 ≤ 1 - (f.bias : Int) - log2Of m e - 1 by omega)
  have hs' : (1 - (f.bias : Int) - log2Of m e).toNat = s + 1 := by omega
  rw [hs']
  have hone : 2 ^ f.frac * 2 ^ (s + 1) = 2 ^ (f.frac + 1) * 2 ^ s := by rw [pow_succ, pow_succ]; ring
  rw [hone]
  have hpos := Nat.two_pow_pos (f.frac + 1)
  rcases Nat.eq_zero_or_pos s with rfl | h0
  · have hhalf : 2 * n ≤ (2 ^ (f.frac + 1) - 1) * d := by
      refine Nat.le_of_mul_le_mul_right ?_ (Nat.two_pow_pos f.frac)
      calc 2 * n * 2 ^ f.frac = n * 2 ^ (f.frac + 1) := by rw [pow_succ]; ring
        _ ≤ _ := hn
        _ = _ := by ring
    have hscaled : 2 * m * 2 ^ (e - f.least).toNat ≤ (2 ^ (f.frac + 1) - 1) * 2 ^ (f.least - e).toNat := by
      refine Nat.le_of_mul_le_mul_right ?_ hd
      calc 2 * m * 2 ^ (e - f.least).toNat * d = 2 * (m * 2 ^ (e - f.least).toNat * d) := by ring
        _ = 2 * n * 2 ^ (f.least - e).toNat := by rw [← hx]; ring
        _ ≤ (2 ^ (f.frac + 1) - 1) * d * 2 ^ (f.least - e).toNat := Nat.mul_le_mul_right _ hhalf
        _ = _ := by ring
    have hle := roundAt_le mode r neg (k := 2 ^ (f.frac + 1) - 1) (e := e) (q := log2Of m e - f.frac) (m := m) (by
      have hq : log2Of m e - f.frac = f.least - 1 := by unfold Fmt.least; omega
      rw [hq]
      rcases Int.lt_or_le e f.least with hlt | hge
      · rw [show (e - f.least).toNat = 0 by omega, show (f.least - e).toNat = (f.least - 1 - e).toNat + 1 by omega,
          pow_succ 2 (f.least - 1 - e).toNat] at hscaled
        rw [show (e - (f.least - 1)).toNat = 0 by omega]
        nlinarith
      · rw [show (f.least - e).toNat = 0 by omega] at hscaled
        rw [show (e - (f.least - 1)).toNat = (e - f.least).toNat + 1 by omega, show (f.least - 1 - e).toNat = 0 by omega,
          pow_succ 2 (e - f.least).toNat]
        nlinarith)
    rw [pow_zero, Nat.mul_one]
    omega
  · calc _ ≤ 2 ^ (f.frac + 1) := roundAt_le mode r neg hmant
      _ < 2 ^ (f.frac + 1) * 2 ^ s := Nat.lt_mul_iff_one_lt_right hpos |>.mpr (Nat.one_lt_two_pow (by omega))

omit hm hx in
theorem Fmt.lt_of_small (hn : n * 2 ^ (f.frac + 1) ≤ (2 ^ (f.frac + 1) - 1) * 2 ^ f.frac * d) : n < 2 ^ f.frac * d := by
  have hpos := Nat.two_pow_pos (f.frac + 1)
  refine Nat.lt_of_mul_lt_mul_right (a := 2 ^ (f.frac + 1)) (hn.trans_lt ?_)
  calc (2 ^ (f.frac + 1) - 1) * 2 ^ f.frac * d < 2 ^ (f.frac + 1) * 2 ^ f.frac * d :=
        Nat.mul_lt_mul_of_pos_right (Nat.mul_lt_mul_of_pos_right (by omega) (Nat.two_pow_pos _)) hd
    _ = _ := by ring

/-- An exact magnitude delivered (R127, R170). -/
theorem Fmt.finish_eq (mode r : Nat) (ovf : Ovf) (neg : Bool) : ∃ tiny : Bool, f.finish mode r ovf neg m e false =
      (if f.max < f.roundedBits mode r neg n d then (f.over mode neg ovf, OF ||| NX)
        else (f.sign neg + f.roundedBits mode r neg n d, flagIf (n % (2 ^ f.ulpExp n d * d) != 0) NX |||
          flagIf ((n % (2 ^ f.ulpExp n d * d) != 0) && tiny) UF)) ∧
    (2 ^ f.frac * d ≤ n → tiny = false) ∧
    (mode < 4 → n * 2 ^ (f.frac + 1) ≤ (2 ^ (f.frac + 1) - 1) * 2 ^ f.frac * d → tiny = true) ∧
    (4 ≤ mode → tiny = decide (f.roundedBits mode r neg n d < 2 ^ f.frac)) := by
  obtain ⟨hsub, hexp⟩ := Fmt.log2Of_units hm hd hx
  obtain ⟨hk, ht⟩ := f.ulps_bounds (n := n) hd
  have hround := roundAt_units hd hx mode r neg (f.ulpExp n d)
  generalize hup : roundsUp mode r neg (n % (2 ^ f.ulpExp n d * d)) (2 ^ f.ulpExp n d * d) (n / (2 ^ f.ulpExp n d * d)) = up at hround
  have hbits : f.magBits (n / (2 ^ f.ulpExp n d * d) + up.toNat) (f.least + f.ulpExp n d) = f.roundedBits mode r neg n d := by
    have hle := Bool.toNat_le up
    rw [f.magBits_ulps (by omega) (ht.imp_left fun h => by omega), Fmt.roundedBits, Fmt.floorBits, hup, Nat.add_assoc]
  refine ⟨decide (log2Of m e < 1 - (f.bias : Int)) && (if mode < 4 then
    decide ((roundAt mode r neg m e false (log2Of m e - f.frac)).1 < 2 ^ f.frac * 2 ^ (1 - (f.bias : Int) - log2Of m e).toNat)
    else decide (n / (2 ^ f.ulpExp n d * d) + up.toNat < 2 ^ f.frac)), ?_, fun hn => ?_, fun hmode hn => ?_, fun hmode => ?_⟩
  · unfold Fmt.finish
    simp only [hexp, hround, hbits]
    split
    · cases ovf with
      | ieee => rfl
      | largest => rfl
      | nan =>
        dsimp only [Fmt.over]
        split
        · rfl
        · rfl
    · rfl
  · rw [decide_eq_false (fun h => by have := hsub.mp h; omega), Bool.false_and]
  · have hlg := hsub.mpr (Fmt.lt_of_small hd hn)
    rw [decide_eq_true hlg, if_pos hmode, decide_eq_true (Fmt.tiny_of_small hd hx mode r neg hlg hn)]
    rfl
  · rw [if_neg (by omega)]
    rw [Fmt.roundedBits, Fmt.floorBits, hup, Bool.eq_iff_iff, Bool.and_eq_true, decide_eq_true_iff, decide_eq_true_iff, decide_eq_true_iff, hsub]
    rcases Nat.lt_or_ge n (2 ^ f.frac * d) with hn | hn
    · have hzero : f.ulpExp n d = 0 := if_pos hn
      simp [hzero, hn]
    · have hnorm : 2 ^ f.frac ≤ f.ulpExp n d * 2 ^ f.frac + n / (2 ^ f.ulpExp n d * d) := by
        rcases ht with ht | ht
        · omega
        · rw [ht, pow_zero, Nat.one_mul, Nat.zero_mul, Nat.zero_add]
          exact (Nat.le_div_iff_mul_le hd).mpr hn
      exact ⟨fun h => by omega, fun h => by omega⟩

end

end Sys2Proof.Machine
end

section
/-! PROOFS. The rounded value is the one that the rules name, with its flags (R124, R126, R127, R170). -/

namespace Sys2Proof.Machine

/-! ## Bits with a sign -/

/-- What the proofs need of a format: a fraction, and its largest value below the sign bit. -/
structure Fmt.fits (f : Fmt) : Prop where
  frac : 1 ≤ f.frac
  bias : 1 ≤ f.bias
  max : f.max < 2 ^ (f.ebits + f.frac)

theorem Ref.units_eq (f : Fmt) (b : Nat) :
    Ref.units f b = if Ref.neg f b then -(f.mags (Ref.mag f b) : Int) else (f.mags (Ref.mag f b) : Int) := rfl

theorem Ref.abs_units (f : Fmt) (b : Nat) : |Ref.units f b| = (f.mags (Ref.mag f b) : Int) := by
  rw [Ref.units_eq]
  split
  · rw [abs_neg, Nat.abs_cast]
  · rw [Nat.abs_cast]

section
variable {f : Fmt} (neg : Bool) {b : Nat} (hb : b < 2 ^ (f.ebits + f.frac))
include hb

theorem Fmt.signed_lt : f.sign neg + b < 2 ^ f.width := by
  have hw : 2 ^ f.width = 2 ^ (f.ebits + f.frac) + 2 ^ (f.ebits + f.frac) := by
    rw [Fmt.width, show 1 + f.ebits + f.frac = f.ebits + f.frac + 1 by omega, pow_succ]
    omega
  unfold Fmt.sign
  cases neg
  · simp; omega
  · simp; omega

theorem Ref.neg_signed : Ref.neg f (f.sign neg + b) = neg := by
  have hw : f.width - 1 = f.ebits + f.frac := by unfold Fmt.width; omega
  unfold Ref.neg Fmt.sign
  rw [hw]
  cases neg
  · simp; omega
  · simp

theorem Ref.mag_signed : Ref.mag f (f.sign neg + b) = b := by
  have hw : f.width - 1 = f.ebits + f.frac := by unfold Fmt.width; omega
  unfold Ref.mag Fmt.sign
  rw [hw, Nat.add_comm, Nat.add_mul_mod_self_right]
  exact Nat.mod_eq_of_lt hb

theorem Ref.units_signed : Ref.units f (f.sign neg + b) = if neg then -(f.mags b : Int) else (f.mags b : Int) := by
  rw [Ref.units_eq, Ref.neg_signed neg hb, Ref.mag_signed neg hb]

end

/-! ## Between two neighbouring values -/

/-- What is known of an exact value of n / d units: its magnitude lies in the ulp that begins at `k * b`, a rest `l` above it. -/
structure Between (f : Fmt) (n d k b l : Nat) : Prop where
  pos : 0 < b
  split : n = k * b + l
  rest : l < b
  floor : f.mags (f.floorBits n d) * d = k * b
  next : f.mags (f.floorBits n d + 1) * d = (k + 1) * b

theorem Fmt.between (f : Fmt) {n d : Nat} (hd : 0 < d) :
    Between f n d (n / (2 ^ f.ulpExp n d * d)) (2 ^ f.ulpExp n d * d) (n % (2 ^ f.ulpExp n d * d)) := by
  have hB : 0 < 2 ^ f.ulpExp n d * d := Nat.mul_pos (Nat.two_pow_pos _) hd
  obtain ⟨hfloor, hnext⟩ := f.mags_floorBits (n := n) hd
  exact ⟨hB, by rw [Nat.mul_comm]; exact (Nat.div_add_mod ..).symm, Nat.mod_lt _ hB, hfloor, hnext⟩

theorem Between.gap {f : Fmt} {n d k b l : Nat} (h : Between f n d k b l) (c : Nat) :
    f.mags c * d ≤ k * b ∨ (k + 1) * b ≤ f.mags c * d := by
  rcases Nat.lt_or_ge (f.floorBits n d) c with hc | hc
  · right
    rw [← h.next]
    exact Nat.mul_le_mul_right _ (f.mags_strictMono.monotone hc)
  · left
    rw [← h.floor]
    exact Nat.mul_le_mul_right _ (f.mags_strictMono.monotone hc)

/-- The rounded magnitude, as a number of ulps. -/
theorem Between.rounded {f : Fmt} {n d k b l : Nat} (h : Between f n d k b l) (up : Bool) :
    f.mags (f.floorBits n d + up.toNat) * d = (k + up.toNat) * b := by
  cases up
  · exact h.floor
  · exact h.next

/-- In range before the rounding, in range after it. -/
theorem Fmt.rounded_le {f : Fmt} {n d : Nat} (hd : 0 < d) (mode r : Nat) (neg : Bool) (hn : n ≤ f.mags f.max * d) :
    f.roundedBits mode r neg n d ≤ f.max := by
  have h := f.between (n := n) hd
  unfold Fmt.roundedBits
  generalize n / (2 ^ f.ulpExp n d * d) = k at *
  generalize 2 ^ f.ulpExp n d * d = b at *
  rcases Nat.eq_zero_or_pos (n % b) with h0 | h0
  · rw [h0, roundsUp_exact _ _ _ h.pos]
    have hs := h.split
    rw [h0, Nat.add_zero, ← h.floor] at hs
    rw [hs] at hn
    exact f.mags_strictMono.le_iff_le.mp (Nat.le_of_mul_le_mul_right hn hd)
  · have hlt : f.mags (f.floorBits n d) * d < f.mags f.max * d := by
      have hs := h.split
      rw [h.floor]
      omega
    have hfl := f.mags_strictMono.lt_iff_lt.mp (Nat.lt_of_mul_lt_mul_right hlt)
    have hle := Bool.toNat_le (roundsUp mode r neg (n % b) b k)
    omega

/-- Beyond the range before the rounding, beyond it after it. -/
theorem Fmt.lt_rounded {f : Fmt} {n d : Nat} (hd : 0 < d) (mode r : Nat) (neg : Bool) (hn : f.mags (f.max + 1) * d ≤ n) :
    f.max < f.roundedBits mode r neg n d := by
  have h := f.between (n := n) hd
  unfold Fmt.roundedBits
  have hlt : f.mags (f.max + 1) * d < f.mags (f.floorBits n d + 1) * d := by
    have hs := h.split
    have hr := h.rest
    rw [h.next]
    calc _ ≤ n := hn
      _ < _ := by rw [Nat.succ_mul]; omega
  have hfl := f.mags_strictMono.lt_iff_lt.mp (Nat.lt_of_mul_lt_mul_right hlt)
  omega

theorem Ref.past_eq (f : Fmt) (hf : f.fits) : Ref.past f = (f.mags (f.max + 1) : Int) := by
  have h := Ref.units_signed (f := f) false hf.max
  rw [show f.sign false + f.max = f.max by simp [Fmt.sign]] at h
  rw [Ref.past, h, f.mags_succ]
  push_cast
  rfl

theorem Ref.units_max (f : Fmt) (hf : f.fits) : Ref.units f f.max = (f.mags f.max : Int) := by
  have h := Ref.units_signed (f := f) false hf.max
  rwa [show f.sign false + f.max = f.max by simp [Fmt.sign]] at h

/-! ## Rounding as R124 and R126 name it -/

section
variable {k b l m p y n : Int}

/-- The value at the distance that the mode allows, and no other value between. -/
structure Beside (k b l m p y n : Int) (up : Bool) : Prop where
  low : 0 ≤ k
  rest : 0 ≤ l
  lt : l < b
  gap : m ≤ k ∨ k + b ≤ m
  other : p = m ∨ p = -m
  nonneg : 0 ≤ m
  value : n = k + l ∧ y = k + (if up then b else 0) ∨ n = -(k + l) ∧ y = -(k + if up then b else 0)

theorem Beside.nearest {up : Bool} (h : Beside k b l m p y n up) (hup : (up = true → b ≤ l * 2) ∧ (up = false → l * 2 ≤ b)) :
    |y - n| ≤ |p - n| ∧ (|y - n| = |p - n| → y ≠ p → l * 2 = b) := by
  obtain ⟨hk, hl, hlt, hgap, hp, hm, hv⟩ := h
  obtain ⟨hup1, hup0⟩ := hup
  simp only [Int.abs_eq_natAbs]
  cases up
  · have := hup0 rfl
    simp only [Bool.false_eq_true, if_false] at hv
    omega
  · have := hup1 rfl
    simp only [if_true] at hv
    omega

theorem Beside.towardZero (h : Beside k b l m p y n false) : |y| ≤ |n| ∧ (|p| ≤ |n| → |p| ≤ |y|) := by
  obtain ⟨hk, hl, hlt, hgap, hp, hm, hv⟩ := h
  simp only [Int.abs_eq_natAbs]
  simp only [Bool.false_eq_true, if_false] at hv
  omega

theorem Beside.above {up : Bool} (h : Beside k b l m p y n up) (hup : up = true ↔ l ≠ 0 ∧ 0 < n) : n ≤ y ∧ (n ≤ p → y ≤ p) := by
  obtain ⟨hk, hl, hlt, hgap, hp, hm, hv⟩ := h
  cases up
  · simp only [Bool.false_eq_true, if_false, false_iff] at hv hup
    omega
  · simp only [if_true, true_iff] at hv hup
    omega

theorem Beside.below {up : Bool} (h : Beside k b l m p y n up) (hup : up = true ↔ l ≠ 0 ∧ n < 0) : y ≤ n ∧ (p ≤ n → p ≤ y) := by
  obtain ⟨hk, hl, hlt, hgap, hp, hm, hv⟩ := h
  cases up
  · simp only [Bool.false_eq_true, if_false, false_iff] at hv hup
    omega
  · simp only [if_true, true_iff] at hv hup
    omega

/-- With a draw: the sum of the rest and the draw's part of the ulp decides. -/
theorem Beside.drawn {up : Bool} (h : Beside k b l m p y n up) (hgap : m ≤ k + b ∨ k + b + b ≤ m) {x : Int} (hx : 0 ≤ x) (hlt : x < b * 2 ^ 16)
    (hup : up = true ↔ l ≠ 0 ∧ b * 2 ^ 16 ≤ l * 2 ^ 16 + x) :
    |y| * 2 ^ 16 ≤ |n| * 2 ^ 16 + x ∧ (|p| * 2 ^ 16 ≤ |n| * 2 ^ 16 + x → |p| ≤ |y|) := by
  obtain ⟨hk, hl, hlb, hgap', hp, hm, hv⟩ := h
  simp only [Int.abs_eq_natAbs]
  cases up
  · simp only [Bool.false_eq_true, if_false, false_iff] at hv hup
    omega
  · simp only [if_true, true_iff] at hv hup
    omega

end

/-- The ulp does not shrink from one value to the next. -/
theorem Fmt.mags_floorBits_two (f : Fmt) {n d : Nat} (hd : 0 < d) :
    f.mags (f.floorBits n d + 1) * d + 2 ^ f.ulpExp n d * d ≤ f.mags (f.floorBits n d + 2) * d := by
  obtain ⟨-, ht⟩ := f.ulps_bounds (n := n) hd
  have hexp : f.ulpExp n d ≤ (f.floorBits n d + 1) / 2 ^ f.frac - 1 := by
    unfold Fmt.floorBits
    rcases ht with ht | ht
    · refine Nat.le_sub_of_add_le ((Nat.le_div_iff_mul_le (Nat.two_pow_pos _)).mpr ?_)
      rw [Nat.succ_mul]
      omega
    · rw [ht]; exact Nat.zero_le _
  rw [show f.floorBits n d + 2 = f.floorBits n d + 1 + 1 from rfl, f.mags_succ (f.floorBits n d + 1), Nat.add_mul]
  exact Nat.add_le_add_left (Nat.mul_le_mul_right _ (Nat.pow_le_pow_right (by decide) hexp)) _

/-- The bits with a sign that an exact value rounds to. -/
def Fmt.roundedTo (f : Fmt) (mode r : Nat) (n : Int) (d : Nat) : Nat :=
  f.sign (decide (n < 0)) + f.roundedBits mode r (decide (n < 0)) n.natAbs d

section
variable {f : Fmt} (hf : f.fits) {n : Int} {d : Nat} (hd : 0 < d) (hr : n.natAbs ≤ f.mags f.max * d) (mode r : Nat)
include hf hd hr

/-- The rounded value next to another one of the format. -/
theorem Fmt.roundedTo_beside (z : Nat) : Beside
    ((n.natAbs / (2 ^ f.ulpExp n.natAbs d * d) * (2 ^ f.ulpExp n.natAbs d * d) : Nat) : Int) ((2 ^ f.ulpExp n.natAbs d * d : Nat) : Int)
    ((n.natAbs % (2 ^ f.ulpExp n.natAbs d * d) : Nat) : Int) ((f.mags (Ref.mag f z) * d : Nat) : Int) (Ref.units f z * d)
    (Ref.units f (f.roundedTo mode r n d) * d) n
    (roundsUp mode r (decide (n < 0)) (n.natAbs % (2 ^ f.ulpExp n.natAbs d * d)) (2 ^ f.ulpExp n.natAbs d * d)
      (n.natAbs / (2 ^ f.ulpExp n.natAbs d * d))) := by
  have h := f.between (n := n.natAbs) hd
  have hle := Fmt.rounded_le hd mode r (decide (n < 0)) hr
  have hval := Ref.units_signed (f := f) (decide (n < 0)) (hle.trans_lt hf.max)
  have hup := h.rounded (roundsUp mode r (decide (n < 0)) (n.natAbs % (2 ^ f.ulpExp n.natAbs d * d)) (2 ^ f.ulpExp n.natAbs d * d)
    (n.natAbs / (2 ^ f.ulpExp n.natAbs d * d)))
  unfold Fmt.roundedTo
  rw [hval]
  unfold Fmt.roundedBits
  generalize roundsUp mode r (decide (n < 0)) (n.natAbs % (2 ^ f.ulpExp n.natAbs d * d)) (2 ^ f.ulpExp n.natAbs d * d)
    (n.natAbs / (2 ^ f.ulpExp n.natAbs d * d)) = up at hup ⊢
  generalize hk : n.natAbs / (2 ^ f.ulpExp n.natAbs d * d) = k at *
  generalize hb : 2 ^ f.ulpExp n.natAbs d * d = b at *
  have hother : Ref.units f z * d = ((f.mags (Ref.mag f z) * d : Nat) : Int) ∨ Ref.units f z * d = -((f.mags (Ref.mag f z) * d : Nat) : Int) := by
    rw [Ref.units_eq]
    split
    · right; push_cast; ring
    · left; push_cast; ring
  have hgap := h.gap (Ref.mag f z)
  refine ⟨Int.natCast_nonneg _, Int.natCast_nonneg _, by exact_mod_cast h.rest, ?_, hother, Int.natCast_nonneg _, ?_⟩
  · refine hgap.imp (fun g => by exact_mod_cast g) fun g => ?_
    rw [Nat.succ_mul] at g
    exact_mod_cast g
  · have hs := h.split
    have hval' : ((f.mags (f.floorBits n.natAbs d + up.toNat) * d : Nat) : Int) = ((k * b : Nat) : Int) + if up then (b : Int) else 0 := by
      rw [hup]
      cases up
      · simp
      · simp; ring
    rcases Int.lt_or_le n 0 with hneg | hpos
    · right
      rw [decide_eq_true hneg, if_pos rfl]
      refine ⟨by omega, ?_⟩
      rw [← hval']
      push_cast
      ring
    · left
      rw [decide_eq_false (by omega), if_neg Bool.false_ne_true]
      refine ⟨by omega, ?_⟩
      rw [← hval']
      push_cast
      ring

theorem Fmt.roundedTo_bits : f.roundedTo mode r n d < 2 ^ f.width ∧ Ref.isFin f (f.roundedTo mode r n d) = true ∧
    Ref.neg f (f.roundedTo mode r n d) = decide (n < 0) := by
  have hle := Fmt.rounded_le hd mode r (decide (n < 0)) hr
  have hlt := hle.trans_lt hf.max
  refine ⟨Fmt.signed_lt _ hlt, decide_eq_true ?_, Ref.neg_signed _ hlt⟩
  rw [Fmt.roundedTo, Ref.mag_signed _ hlt]
  exact hle

omit hd hr in
/-- The last bit of the result is that of the number of its ulps. -/
theorem Fmt.roundedTo_even (h : (n.natAbs / (2 ^ f.ulpExp n.natAbs d * d) + (roundsUp mode r (decide (n < 0))
    (n.natAbs % (2 ^ f.ulpExp n.natAbs d * d)) (2 ^ f.ulpExp n.natAbs d * d) (n.natAbs / (2 ^ f.ulpExp n.natAbs d * d))).toNat) % 2 = 0) :
    f.roundedTo mode r n d % 2 = 0 := by
  obtain ⟨j, hj⟩ := Nat.exists_eq_add_of_le' hf.frac
  unfold Fmt.roundedTo Fmt.roundedBits Fmt.floorBits Fmt.sign
  rw [hj, ← Nat.add_assoc f.ebits j 1, pow_succ, pow_succ]
  have hassoc : ∀ a b c k u : Nat, (k + u) % 2 = 0 → (a * (b * 2) + (c * 2 + k + u)) % 2 = 0 := fun a b c k u h => by
    rw [← Nat.mul_assoc]
    omega
  have h' := hassoc (decide (n < 0)).toNat (2 ^ (f.ebits + j)) (f.ulpExp n.natAbs d * 2 ^ j) _ _ h
  rw [Nat.mul_assoc] at h'
  exact h'

/-- The result is the exact value where no rest is left. -/
theorem Fmt.roundedTo_exact_iff : Ref.units f (f.roundedTo mode r n d) * d = n ↔ n.natAbs % (2 ^ f.ulpExp n.natAbs d * d) = 0 := by
  have h := Fmt.roundedTo_beside hf hd hr mode r 0
  obtain ⟨-, -, hlt, -, -, -, hv⟩ := h
  rcases Nat.eq_zero_or_pos (n.natAbs % (2 ^ f.ulpExp n.natAbs d * d)) with h0 | h0
  · rw [h0, roundsUp_exact _ _ _ (f.between hd).pos] at hv
    simp only [Bool.false_eq_true, if_false] at hv
    exact ⟨fun _ => h0, fun _ => by omega⟩
  · refine ⟨fun h => ?_, fun h => by omega⟩
    split at hv
    · omega
    · omega

/-- Modes 0 to 3 (R124). -/
theorem Fmt.rounds_roundedTo (hmode : mode < 4) : Ref.rounds f mode n d (f.roundedTo mode r n d) := by
  obtain ⟨h1, h2, h3⟩ := Fmt.roundedTo_bits hf hd hr mode r
  refine ⟨h1, h2, h3, fun z _ _ => ?_⟩
  have hb := Fmt.roundedTo_beside hf hd hr mode r z
  have heven := Fmt.roundedTo_even (n := n) (d := d) hf mode r
  have hd' : (0 : Int) < d := by exact_mod_cast hd
  have hcancel : ∀ a b : Int, a * d ≤ b * d → a ≤ b := fun a b h => le_of_mul_le_mul_right h hd'
  have habs : ∀ a : Int, |a * d| = |a| * d := fun a => by rw [abs_mul, Nat.abs_cast]
  generalize n.natAbs / (2 ^ f.ulpExp n.natAbs d * d) = k at *
  generalize n.natAbs % (2 ^ f.ulpExp n.natAbs d * d) = l at *
  generalize 2 ^ f.ulpExp n.natAbs d * d = b at *
  match mode with
  | 0 =>
    have hup : roundsUp 0 r (decide (n < 0)) l b k = true ↔ b < l * 2 ∨ l * 2 = b ∧ k % 2 = 1 := by simp [roundsUp]
    obtain ⟨hnear, htie⟩ := hb.nearest ⟨fun h => by have := hup.mp h; omega, fun h => by
      have := mt hup.mpr (by rw [h]; exact Bool.false_ne_true)
      omega⟩
    refine ⟨hnear, fun heq hne => heven ?_⟩
    have hhalf : l * 2 = b := by exact_mod_cast htie heq fun h => hne (mul_right_cancel₀ hd'.ne' h)
    cases hu : roundsUp 0 r (decide (n < 0)) l b k with
    | false =>
      have := mt hup.mpr (by rw [hu]; exact Bool.false_ne_true)
      simp only [Bool.toNat_false]
      omega
    | true =>
      have := hup.mp hu
      simp only [Bool.toNat_true]
      omega
  | 1 =>
    obtain ⟨hle, hmax⟩ := hb.towardZero
    rw [habs] at hle
    rw [habs, habs] at hmax
    exact ⟨hle, fun h => hcancel _ _ (hmax h)⟩
  | 2 =>
    have hzero : n = 0 → l = 0 := fun h0 => by
      obtain ⟨hk, hl, -, -, -, -, hv | hv⟩ := hb
      · omega
      · omega
    have hup : roundsUp 2 r (decide (n < 0)) l b k = true ↔ l ≠ 0 ∧ ¬ n < 0 := by simp [roundsUp]
    obtain ⟨hle, hmin⟩ := hb.above (by rw [hup]; omega)
    exact ⟨hle, fun h => hcancel _ _ (hmin h)⟩
  | 3 =>
    obtain ⟨hle, hmax⟩ := hb.below (by simp [roundsUp])
    exact ⟨hle, fun h => hcancel _ _ (hmax h)⟩
  | _ + 4 => omega

/-- Mode 4 (R126). -/
theorem Fmt.drawsTo_roundedTo (hmode : 4 ≤ mode) (hx : r < 2 ^ 16) : Ref.drawsTo f r n d (f.roundedTo mode r n d) := by
  obtain ⟨h1, h2, h3⟩ := Fmt.roundedTo_bits hf hd hr mode r
  refine ⟨h1, h2, h3, fun z _ _ => ?_⟩
  have hb := Fmt.roundedTo_beside hf hd hr mode r z
  have hd' : (0 : Int) < d := by exact_mod_cast hd
  have habs : ∀ a : Int, |a * d| = |a| * d := fun a => by rw [abs_mul, Nat.abs_cast]
  have hbt := f.between (n := n.natAbs) hd
  have hgap : f.mags (Ref.mag f z) * d ≤ n.natAbs / (2 ^ f.ulpExp n.natAbs d * d) * (2 ^ f.ulpExp n.natAbs d * d) + 2 ^ f.ulpExp n.natAbs d * d ∨
      n.natAbs / (2 ^ f.ulpExp n.natAbs d * d) * (2 ^ f.ulpExp n.natAbs d * d) + 2 ^ f.ulpExp n.natAbs d * d + 2 ^ f.ulpExp n.natAbs d * d ≤
        f.mags (Ref.mag f z) * d := by
    have htwo := f.mags_floorBits_two (n := n.natAbs) hd
    rw [← Nat.succ_mul, Nat.succ_eq_add_one, ← hbt.next]
    rcases Nat.lt_or_ge (f.floorBits n.natAbs d + 1) (Ref.mag f z) with hc | hc
    · right
      exact htwo.trans (Nat.mul_le_mul_right _ (f.mags_strictMono.monotone hc))
    · left
      exact Nat.mul_le_mul_right _ (f.mags_strictMono.monotone hc)
  have hup : ∀ l b k : Nat, roundsUp mode r (decide (n < 0)) l b k = true ↔ l ≠ 0 ∧ b * 2 ^ 16 ≤ l * 2 ^ 16 + r * b := fun l b k => by
    match mode, hmode with
    | _ + 4, _ => simp [roundsUp]
  have hulp : (r : Int) * (Ref.ulp f n.natAbs d : Nat) * d = ((r * (2 ^ f.ulpExp n.natAbs d * d) : Nat) : Int) := by
    rw [f.ulp_eq hd]
    push_cast
    ring
  have hpos := hbt.pos
  have hdraw := hb.drawn (x := ((r * (2 ^ f.ulpExp n.natAbs d * d) : Nat) : Int)) (by exact_mod_cast hgap) (Int.natCast_nonneg _) (by
    rw [Nat.mul_comm]
    exact_mod_cast Nat.mul_lt_mul_of_pos_left hx hpos) (by rw [hup]; norm_cast)
  rw [habs, habs] at hdraw
  rw [hulp]
  exact ⟨hdraw.1, fun h => le_of_mul_le_mul_right (hdraw.2 h) hd'⟩

end

/-! ## What is delivered (R127, R170) -/

theorem OF_or_NX : OF ||| NX = 20 := by decide

/-- An exact nonzero value delivered, with the flags and the overflow that the rules give it. -/
theorem Fmt.finish_delivered {f : Fmt} (hf : f.fits) {n : Int} {d m : Nat} {e : Int} (hm : 0 < m) (hd : 0 < d)
    (hx : f.measures n.natAbs d m e) {mode x : Nat} (hdraw : x < 2 ^ 16) (ovf : Ovf) :
    Ref.deliveredAs f mode x n d (f.over mode (decide (n < 0)) ovf) (f.finish mode x ovf (decide (n < 0)) m e false) := by
  intro hn0
  obtain ⟨tiny, hfin, hnormal, hsmall, hdrawn⟩ := Fmt.finish_eq hm hd hx mode x ovf (decide (n < 0))
  rw [hfin]
  have habs : |n| = (n.natAbs : Int) := Int.abs_eq_natAbs n
  refine ⟨fun hr => ?_, fun hr => ?_⟩
  · have hr' : n.natAbs ≤ f.mags f.max * d := by
      rw [Ref.units_max f hf, habs] at hr
      exact_mod_cast hr
    have hle := Fmt.rounded_le hd mode x (decide (n < 0)) hr'
    have hexact := Fmt.roundedTo_exact_iff hf hd hr' mode x
    rw [if_neg (Nat.not_lt.mpr hle)]
    change (_ → Ref.drawsTo f x n d (f.roundedTo mode x n d) ∧ _ = if Ref.units f (f.roundedTo mode x n d) * d = n then 0 else
      if |Ref.units f (f.roundedTo mode x n d)| < 2 ^ f.frac then 24 else 16) ∧ (_ → Ref.rounds f mode n d (f.roundedTo mode x n d) ∧
      (_ → _ = if Ref.units f (f.roundedTo mode x n d) * d = n then 0 else 16) ∧
      (_ → _ = if Ref.units f (f.roundedTo mode x n d) * d = n then 0 else 24))
    simp only [hexact]
    have hflags : ∀ (l : Nat) (t : Bool), flagIf (l != 0) NX ||| flagIf ((l != 0) && t) UF =
        if l = 0 then 0 else if t then 24 else 16 := fun l t => by
      by_cases h : l = 0
      · simp [h, flagIf]
      · cases t
        · simp [h, flagIf, NX]
        · simp [h, flagIf, NX, UF]
    rw [hflags]
    refine ⟨fun h4 => ⟨Fmt.drawsTo_roundedTo hf hd hr' mode x (by omega) hdraw, ?_⟩, fun h4 =>
      ⟨Fmt.rounds_roundedTo hf hd hr' mode x h4, fun hbig => ?_, fun hless => ?_⟩⟩
    · rw [hdrawn (by omega), Fmt.roundedTo, Ref.abs_units, Ref.mag_signed _ (hle.trans_lt hf.max)]
      have hnorm : f.mags (2 ^ f.frac) = 2 ^ f.frac := by
        have h := f.mags_ulps (t := 0) (k := 2 ^ f.frac) (Nat.pow_le_pow_right (by decide) (by omega)) (.inr rfl)
        rwa [Nat.zero_mul, Nat.zero_add, pow_zero, Nat.mul_one] at h
      have hlt : ((f.mags (f.roundedBits mode x (decide (n < 0)) n.natAbs d) : Nat) : Int) < 2 ^ f.frac ↔
          f.roundedBits mode x (decide (n < 0)) n.natAbs d < 2 ^ f.frac := by
        rw [← f.mags_strictMono.lt_iff_lt, hnorm]
        norm_cast
      simp only [hlt, decide_eq_true_eq]
    · rw [hnormal (by rw [habs] at hbig; exact_mod_cast hbig)]
      rfl
    · rw [hsmall h4 (by
        have hcast : (((2 ^ (f.frac + 1) - 1 : Nat)) : Int) = 2 ^ (f.frac + 1) - 1 := by
          rw [Nat.cast_sub Nat.one_le_two_pow]
          norm_cast
        rw [habs, ← hcast] at hless
        exact_mod_cast hless)]
      rfl
  · rw [Ref.past_eq f hf, habs] at hr
    rw [if_pos (Fmt.lt_rounded hd mode x _ (by exact_mod_cast hr)), OF_or_NX]

end Sys2Proof.Machine
end

section
/-! PROOFS. Decoded values and the exact values of the rules: products, sums, the A48 sum (R105, R110, R111, R114, R121). -/

namespace Sys2Proof.Machine

/-! ## Formats -/

/-- What the bits above the largest finite value are. -/
structure Fmt.sound (f : Fmt) : Prop extends f.fits where
  low : 2 ^ f.frac ≤ f.max
  exps : 1 ≤ f.ebits
  special : f.inf = true ∧ f.max + 1 = (2 ^ f.ebits - 1) * 2 ^ f.frac ∨ f.inf = false ∧ f.nan.isSome = true ∧ f.snan = false ∧
    f.max + 2 = 2 ^ (f.ebits + f.frac) ∨
    f.inf = false ∧ f.nan.isSome = false ∧ f.max + 1 = 2 ^ (f.ebits + f.frac)

theorem sound_fp32 : fp32.sound := ⟨⟨by decide, by decide, by decide⟩, by decide, by decide, by decide⟩
theorem sound_bf16 : bf16.sound := ⟨⟨by decide, by decide, by decide⟩, by decide, by decide, by decide⟩
theorem sound_fp16 : fp16.sound := ⟨⟨by decide, by decide, by decide⟩, by decide, by decide, by decide⟩
theorem sound_fp8e4 : fp8e4.sound := ⟨⟨by decide, by decide, by decide⟩, by decide, by decide, by decide⟩
theorem sound_fp8e5 : fp8e5.sound := ⟨⟨by decide, by decide, by decide⟩, by decide, by decide, by decide⟩
theorem sound_fp4 : fp4.sound := ⟨⟨by decide, by decide, by decide⟩, by decide, by decide, by decide⟩
theorem sound_a48 : a48.sound := ⟨⟨by decide, by decide, by decide⟩, by decide, by decide, by decide⟩

/-- Every format of a code is one of them. -/
theorem Fmt.sound_of_code {b : Nat} {f : Fmt} (h : fmtOf b = some f) : f.sound := by
  unfold fmtOf at h
  split at h
  · cases h; exact sound_fp32
  · cases h; exact sound_bf16
  · cases h; exact sound_fp16
  · cases h; exact sound_fp8e4
  · cases h; exact sound_fp8e5
  · cases h; exact sound_fp4
  · cases h; exact sound_a48
  · cases h

/-! ## A decoded value and an exact one -/

/-- A decoded value is an exact value: the same NaN or infinity, or the same sign and magnitude. -/
inductive Sees : FV → Ref.Val → Prop where
  | nan (s : Bool) : Sees (.nan s) (.nan s)
  | inf (s : Bool) : Sees (.inf s) (.inf s)
  | zero (s : Bool) {d : Nat} (hd : 0 < d) : Sees (.zero s) (.num s 0 d)
  | fin (s : Bool) {m n d : Nat} {e : Int} (hm : 0 < m) (hd : 0 < d) (h : (n : ℚ) = m * 2 ^ e * d) : Sees (.fin s m e) (.num s n d)

/-- A nonzero finite value has a nonzero numerator. -/
theorem ne_zero_of_measure {m n d : Nat} {e : Int} (hm : 0 < m) (hd : 0 < d) (h : (n : ℚ) = m * 2 ^ e * d) : n ≠ 0 := by
  rintro rfl
  have hpos : (0 : ℚ) < m * 2 ^ e * d := by positivity
  rw [← h] at hpos
  exact absurd hpos (by simp)

/-- Products agree (R114). -/
theorem Sees.mul {a b : FV} {x y : Ref.Val} (hx : Sees a x) (hy : Sees b y) : Sees (a.mul b) (Ref.times x y) := by
  have hfin : ∀ {m n d m' n' d' : Nat} {e e' : Int}, (n : ℚ) = m * 2 ^ e * d → (n' : ℚ) = m' * 2 ^ e' * d' →
      ((n * n' : Nat) : ℚ) = (m * m' : Nat) * 2 ^ (e + e') * (d * d' : Nat) := fun h h' => by
    push_cast
    rw [h, h', zpow_add₀ (by norm_num)]
    ring
  cases hx with
  | nan s => cases hy with
    | nan t => exact .nan _
    | inf t => simpa [FV.mul, FV.isNan, FV.isSnan, Ref.times] using Sees.nan s
    | zero t hd => simpa [FV.mul, FV.isNan, FV.isSnan, Ref.times] using Sees.nan s
    | fin t hm hd h => simpa [FV.mul, FV.isNan, FV.isSnan, Ref.times] using Sees.nan s
  | inf s => cases hy with
    | nan t => simpa [FV.mul, FV.isNan, FV.isSnan, Ref.times] using Sees.nan t
    | inf t => exact .inf _
    | zero t hd => exact .nan true
    | fin t hm hd h =>
      have hne := ne_zero_of_measure hm hd h
      simpa [FV.mul, FV.isNan, FV.isInf, FV.isZero, FV.isNeg, Ref.times, hne] using Sees.inf (s != t)
  | zero s hd => cases hy with
    | nan t => simpa [FV.mul, FV.isNan, FV.isSnan, Ref.times] using Sees.nan t
    | inf t => exact .nan true
    | zero t hd' =>
      have h := Sees.zero (s != t) (Nat.mul_pos hd hd')
      simpa [FV.mul, FV.isNan, FV.isInf, FV.isZero, FV.isNeg, Ref.times] using h
    | fin t hm hd' h' =>
      have h := Sees.zero (s != t) (Nat.mul_pos hd hd')
      simpa [FV.mul, FV.isNan, FV.isInf, FV.isZero, FV.isNeg, Ref.times] using h
  | fin s hm hd h => cases hy with
    | nan t => simpa [FV.mul, FV.isNan, FV.isSnan, Ref.times] using Sees.nan t
    | inf t =>
      have hne := ne_zero_of_measure hm hd h
      simpa [FV.mul, FV.isNan, FV.isInf, FV.isZero, FV.isNeg, Ref.times, hne] using Sees.inf (s != t)
    | zero t hd' =>
      have h := Sees.zero (s != t) (Nat.mul_pos hd hd')
      simpa [FV.mul, FV.isNan, FV.isInf, FV.isZero, FV.isNeg, Ref.times] using h
    | fin t hm' hd' h' => exact .fin _ (Nat.mul_pos hm hm') (Nat.mul_pos hd hd') (hfin h h')

/-- A product with a factor that may be missing. -/
theorem Sees.scaled {a : FV} {x : Ref.Val} (hx : Sees a x) {p : Option FV} {q : Option Ref.Val}
    (h : p = none ∧ q = none ∨ ∃ b y, p = some b ∧ q = some y ∧ Sees b y) : Sees (a.scaled p) (Ref.scaled x q) := by
  rcases h with ⟨rfl, rfl⟩ | ⟨b, y, rfl, rfl, hy⟩
  · exact hx
  · exact hx.mul hy

/-! ## Decoding (R105) -/

theorem Fmt.natAbs_units (f : Fmt) (b : Nat) : (Ref.units f b).natAbs = f.mags (Ref.mag f b) := by
  rw [Ref.units_eq]
  split
  · exact Int.natAbs_neg _
  · rfl

theorem Fmt.unit_eq {f : Fmt} (hf : f.fits) : ((Ref.unit f : Nat) : ℚ) = 2 ^ (-f.least) := by
  have hb := hf.bias
  rw [Ref.unit, show -f.least = ((f.bias + f.frac - 1 : Nat) : Int) by unfold Fmt.least; omega, zpow_natCast]
  push_cast
  rfl

section
variable {f : Fmt}

/-- Sign, exponent and fraction of a format's bits. -/
theorem Fmt.sign_bit {b : Nat} (hb : b < 2 ^ f.width) : decide (b / 2 ^ (f.ebits + f.frac) % 2 = 1) = Ref.neg f b := by
  have hw : f.width - 1 = f.ebits + f.frac := by unfold Fmt.width; omega
  have hwide : 2 ^ f.width = 2 * 2 ^ (f.ebits + f.frac) := by
    rw [Fmt.width, show 1 + f.ebits + f.frac = f.ebits + f.frac + 1 by omega, pow_succ, Nat.mul_comm]
  have hlt : b / 2 ^ (f.ebits + f.frac) < 2 := by rw [Nat.div_lt_iff_lt_mul (Nat.two_pow_pos _)]; omega
  rw [Ref.neg, hw, Bool.eq_iff_iff, decide_eq_true_iff, decide_eq_true_iff, Nat.mod_eq_of_lt hlt]
  constructor
  · intro h
    have hle := Nat.div_mul_le_self b (2 ^ (f.ebits + f.frac))
    rw [h] at hle
    omega
  · intro h
    have hge : 1 ≤ b / 2 ^ (f.ebits + f.frac) := (Nat.le_div_iff_mul_le (Nat.two_pow_pos _)).mpr (by omega)
    omega

theorem Fmt.mag_parts (b : Nat) : Ref.mag f b = b / 2 ^ f.frac % 2 ^ f.ebits * 2 ^ f.frac + b % 2 ^ f.frac := by
  have hw : f.width - 1 = f.frac + f.ebits := by unfold Fmt.width; omega
  rw [Ref.mag, hw, pow_add, Nat.mod_mul, Nat.mul_comm (2 ^ f.frac), Nat.add_comm]

theorem Fmt.signalling_bit (hf : 1 ≤ f.frac) (b : Nat) : b % 2 ^ f.frac / 2 ^ (f.frac - 1) = b / 2 ^ (f.frac - 1) % 2 := by
  obtain ⟨j, hj⟩ := Nat.exists_eq_add_of_le' hf
  rw [hj, Nat.add_sub_cancel, pow_succ, Nat.mod_mul_right_div_self]

/-- Bits that are a finite value. -/
theorem Ref.val_num {b : Nat} (h : Ref.mag f b ≤ f.max) : Ref.val f b = .num (Ref.neg f b) (f.mags (Ref.mag f b)) (Ref.unit f) := by
  rw [Ref.val, if_neg (Nat.not_lt.mpr h), f.natAbs_units]

theorem Ref.val_special {b : Nat} (h : f.max < Ref.mag f b) : Ref.val f b = if f.inf && decide (Ref.mag f b = Ref.infMag f) then
    .inf (Ref.neg f b) else .nan (f.snan && decide (b / 2 ^ (f.frac - 1) % 2 = 0)) := by rw [Ref.val, if_pos h]

theorem Ref.unit_pos : 0 < Ref.unit f := Nat.two_pow_pos _

/-- A finite value with its exponent field, in units. -/
theorem Fmt.fin_sees (hf : f.fits) (s : Bool) {ex fr : Nat} (hex : 0 < ex) (hfr : fr < 2 ^ f.frac) :
    Sees (.fin s (2 ^ f.frac + fr) ((ex : Int) - f.bias - f.frac)) (.num s (f.mags (ex * 2 ^ f.frac + fr)) (Ref.unit f)) := by
  obtain ⟨t, rfl⟩ := Nat.exists_eq_add_of_le' hex
  have hpow : 2 ^ (f.frac + 1) = 2 ^ f.frac + 2 ^ f.frac := by rw [pow_succ]; omega
  have hmags : f.mags ((t + 1) * 2 ^ f.frac + fr) = (2 ^ f.frac + fr) * 2 ^ t := by
    have h := f.mags_ulps (t := t) (k := 2 ^ f.frac + fr) (by omega) (.inl (by omega))
    rwa [← Nat.add_assoc, ← Nat.succ_mul] at h
  refine .fin s (by have := Nat.two_pow_pos f.frac; omega) Ref.unit_pos ?_
  rw [hmags, Fmt.unit_eq hf, mul_assoc, ← zpow_add₀ (by norm_num), Nat.cast_mul]
  congr 1
  rw [show ((t + 1 : Nat) : Int) - f.bias - f.frac + -f.least = (t : Int) by unfold Fmt.least; push_cast; ring, zpow_natCast]
  push_cast
  rfl

/-- Below the normal values. -/
theorem Fmt.sub_sees (hf : f.fits) (s : Bool) {fr : Nat} (h0 : 0 < fr) (hfr : fr < 2 ^ f.frac) :
    Sees (.fin s fr (1 - (f.bias : Int) - f.frac)) (.num s (f.mags fr) (Ref.unit f)) := by
  refine .fin s h0 Ref.unit_pos ?_
  rw [Fmt.mags, if_pos hfr, Fmt.unit_eq hf, mul_assoc, ← zpow_add₀ (by norm_num)]
  rw [show 1 - (f.bias : Int) - f.frac + -f.least = 0 by unfold Fmt.least; ring, zpow_zero, mul_one]

theorem Fmt.dec_sees (hf : f.sound) {b : Nat} (hb : b < 2 ^ f.width) : Sees (f.dec b) (Ref.val f b) := by
  have hF := Nat.two_pow_pos f.frac
  have hmag := Fmt.mag_parts (f := f) b
  have hfr := Nat.mod_lt b hF
  have hex := Nat.mod_lt (b / 2 ^ f.frac) (Nat.two_pow_pos f.ebits)
  have hpow : 2 ^ (f.ebits + f.frac) = (2 ^ f.ebits - 1) * 2 ^ f.frac + 2 ^ f.frac := by
    rw [pow_add, ← Nat.succ_mul]
    congr 1
    have := Nat.two_pow_pos f.ebits
    omega
  have htop : 1 ≤ 2 ^ f.ebits - 1 := by
    have := Nat.pow_le_pow_right (n := 2) (by decide) hf.exps
    omega
  unfold Fmt.dec
  dsimp only
  rw [Fmt.sign_bit hb, Fmt.signalling_bit hf.frac]
  generalize b / 2 ^ f.frac % 2 ^ f.ebits = ex at *
  generalize b % 2 ^ f.frac = fr at *
  have hstep : ∀ a : Nat, a + 1 ≤ 2 ^ f.ebits - 1 → a * 2 ^ f.frac + 2 ^ f.frac ≤ (2 ^ f.ebits - 1) * 2 ^ f.frac := fun a ha => by
    rw [← Nat.succ_mul]
    exact Nat.mul_le_mul_right _ ha
  by_cases h0 : ex = 0
  · subst h0
    rw [Nat.zero_mul, Nat.zero_add] at hmag
    have hle : Ref.mag f b ≤ f.max := by have := hf.low; omega
    rw [if_pos rfl, Ref.val_num hle, hmag]
    split
    · rename_i hz
      subst hz
      have hz : f.mags 0 = 0 := if_pos hF
      rw [hz]
      exact .zero _ Ref.unit_pos
    · exact Fmt.sub_sees hf.tofits _ (by omega) hfr
  · have hfin := Fmt.fin_sees hf.tofits (Ref.neg f b) (Nat.pos_of_ne_zero h0) hfr
    rw [← hmag] at hfin
    rw [if_neg h0]
    by_cases ht : ex = 2 ^ f.ebits - 1
    · subst ht
      rw [decide_eq_true rfl, Bool.true_and]
      rcases hf.special with ⟨hi, hm⟩ | ⟨hi, hn, hs, hm⟩ | ⟨hi, hn, hm⟩
      · rw [hi, if_pos rfl, Ref.val_special (by omega), hi, Bool.true_and, Ref.infMag, hmag]
        split
        · rename_i hz
          rw [hz, Nat.add_zero, decide_eq_true rfl, if_pos rfl]
          exact .inf _
        · rw [if_neg (by rw [decide_eq_true_iff]; omega)]
          exact .nan _
      · rw [hi, if_neg Bool.false_ne_true, hn, Bool.true_and, Bool.true_and]
        split
        · rename_i hz
          have hz := of_decide_eq_true hz
          rw [Ref.val_special (by omega), hi, Bool.false_and, if_neg Bool.false_ne_true]
          rw [hs, Bool.false_and]
          exact .nan _
        · rename_i hz
          have hz : fr ≠ 2 ^ f.frac - 1 := fun h => hz (decide_eq_true h)
          rw [Ref.val_num (by omega)]
          exact hfin
      · rw [hi, if_neg Bool.false_ne_true, hn, Bool.and_false, Bool.false_and, if_neg Bool.false_ne_true, Ref.val_num (by omega)]
        exact hfin
    · rw [decide_eq_false ht, Bool.false_and, Bool.false_and, Bool.false_and, if_neg Bool.false_ne_true, if_neg Bool.false_ne_true,
        Ref.val_num]
      · exact hfin
      · have := hstep ex (by omega)
        rcases hf.special with ⟨-, hm⟩ | ⟨-, -, -, hm⟩ | ⟨-, -, hm⟩
        · omega
        · omega
        · omega

end

end Sys2Proof.Machine
end

section
/-! PROOFS. The accumulator's float sum is the one of the rules (R111, R121). -/

namespace Sys2Proof.Machine

/-! ## Exact sums -/

/-- The value of a signed integer times a power of two. -/
def Dy.val (a : Dy) : ℚ := a.v * 2 ^ a.e

theorem Dy.val_eq_zero_iff (a : Dy) : a.val = 0 ↔ a.v = 0 := by
  have h : (2 : ℚ) ^ a.e ≠ 0 := zpow_ne_zero _ (by norm_num)
  simp [Dy.val, h]

/-- An integer times a power of two, with a smaller exponent. -/
theorem zpow_lowered (v : Int) {e q : Int} (h : q ≤ e) : ((v * 2 ^ (e - q).toNat : Int) : ℚ) * 2 ^ q = v * 2 ^ e := by
  push_cast
  rw [mul_assoc, ← zpow_natCast, ← zpow_add₀ (by norm_num), show ((e - q).toNat : Int) + q = e by omega]

theorem Dy.val_add (a b : Dy) : (a.add b).val = a.val + b.val := by
  unfold Dy.add
  split
  · rename_i h
    rw [(a.val_eq_zero_iff).mpr h, zero_add]
  · split
    · rename_i h
      rw [(b.val_eq_zero_iff).mpr h, add_zero]
    · have hle : ∀ q : Int, q ≤ a.e → q ≤ b.e →
          Dy.val { v := a.v * 2 ^ (a.e - q).toNat + b.v * 2 ^ (b.e - q).toNat, e := q } = a.val + b.val := fun q ha hb => by
        rw [Dy.val, Dy.val, Dy.val, Int.cast_add, add_mul, zpow_lowered _ ha, zpow_lowered _ hb]
      dsimp only
      split
      · exact hle _ le_rfl (by omega)
      · exact hle _ (by omega) le_rfl

/-- A value of the rules as a signed numerator. -/
def Ref.signedNum (s : Bool) (n : Nat) : Int := if s then -(n : Int) else n

theorem FV.dy_fin (s : Bool) (m : Nat) (e : Int) : (FV.fin s m e).dy.val = ((Ref.signedNum s m : Int) : ℚ) * 2 ^ e := rfl

theorem Sees.dy {p : FV} {s : Bool} {n d : Nat} (h : Sees p (.num s n d)) :
    ((Ref.signedNum s n : Int) : ℚ) = p.dy.val * d ∧ 0 < d ∧ p.isNan = false ∧ p.isInf = false ∧ p.isNeg = s ∧ p.isSnan = false := by
  cases h with
  | zero _ hd => exact ⟨by simp [Ref.signedNum, FV.dy, Dy.val], hd, rfl, rfl, rfl, rfl⟩
  | fin _ hm hd h =>
    refine ⟨?_, hd, rfl, rfl, rfl, rfl⟩
    rw [FV.dy_fin]
    cases s
    · exact_mod_cast h
    · simp only [Ref.signedNum, if_true]
      push_cast
      rw [h]
      ring

/-! ## One rounding to the accumulator's format -/

theorem Fmt.measures_of_eq {f : Fmt} {n d m : Nat} {e : Int} (h : (n : ℚ) = m * 2 ^ (e - f.least) * d) : f.measures n d m e := by
  unfold Fmt.measures
  have hq : (2 : ℚ) ^ (e - f.least) * 2 ^ (f.least - e).toNat = 2 ^ (e - f.least).toNat := by
    rw [← zpow_natCast, ← zpow_natCast, ← zpow_add₀ (by norm_num), show e - f.least + ((f.least - e).toNat : Int) = ((e - f.least).toNat : Int) by omega]
  have hr : ((n * 2 ^ (f.least - e).toNat : Nat) : ℚ) = (m * 2 ^ (e - f.least).toNat * d : Nat) := by
    push_cast
    rw [h, ← hq]
    ring
  exact_mod_cast hr

/-- An exact value over the units of a format, as a magnitude of `Fmt.finish`. -/
theorem Dy.measures {f : Fmt} (hf : f.fits) {a : Dy} {v : Int} {d : Nat} (h : (v : ℚ) = a.val * (d * Ref.unit f)) :
    f.measures v.natAbs d a.v.natAbs a.e := by
  refine Fmt.measures_of_eq ?_
  have habs : ∀ z : Int, ((z.natAbs : Nat) : ℚ) = |(z : ℚ)| := fun z => by rw [← Int.cast_abs, Int.abs_eq_natAbs]; rfl
  rw [habs, habs, h, Dy.val, Fmt.unit_eq hf, abs_mul, abs_mul, abs_of_pos (show (0 : ℚ) < 2 ^ a.e by positivity),
    abs_of_nonneg (show (0 : ℚ) ≤ d * 2 ^ (-f.least) by positivity), sub_eq_add_neg, zpow_add₀ (by norm_num)]
  ring

theorem Dy.sign_eq {a : Dy} {v : Int} {k : Nat} (h : (v : ℚ) = a.val * k) (hk : 0 < k) : (v = 0 ↔ a.v = 0) ∧ (v < 0 ↔ a.v < 0) := by
  have hpos : (0 : ℚ) < 2 ^ a.e * k := by positivity
  have hv : (v : ℚ) = a.v * (2 ^ a.e * k) := by rw [h, Dy.val, mul_assoc]
  constructor
  · rw [← Int.cast_eq_zero (α := ℚ), hv, mul_eq_zero, or_iff_left hpos.ne', Int.cast_eq_zero]
  · rw [← Int.cast_lt_zero (R := ℚ), hv, mul_neg_iff, ← Int.cast_lt_zero (R := ℚ) (n := a.v)]
    simp [hpos, hpos.le]

theorem a48_largest (v : Int) : a48.sign (decide (v < 0)) + a48.max = Ref.largest a48 v := by
  unfold Fmt.sign Ref.largest Ref.signed
  cases decide (v < 0)
  · rfl
  · rfl

/-- The flags of a value that does not overflow, without those that the accumulator leaves out. -/
theorem inexact_and_OF (a b : Bool) : (flagIf a NX ||| flagIf b UF) &&& OF = 0 := by revert a b; decide

theorem OF_NX_and_OF : (OF ||| NX) &&& OF = 4 := by decide

/-- Above the largest value and below the next one: the value is an overflow from the middle on. -/
theorem a48_rounded_middle {n d : Nat} (hd : 0 < d) (neg : Bool) (hlo : a48.mags a48.max * d < n) (hhi : n < a48.mags (a48.max + 1) * d) :
    a48.roundedBits 0 0 neg n d = a48.max + (decide ((a48.mags a48.max + a48.mags (a48.max + 1)) * d ≤ 2 * n)).toNat := by
  have h := a48.between (n := n) hd
  have hfloor : a48.floorBits n d = a48.max := by
    have h1 : a48.max < a48.floorBits n d + 1 := by
      refine a48.mags_strictMono.lt_iff_lt.mp (Nat.lt_of_mul_lt_mul_right (a := d) ?_)
      have hs := h.split
      have hr := h.rest
      rw [h.next, Nat.succ_mul]
      omega
    have h2 : a48.floorBits n d < a48.max + 1 := by
      refine a48.mags_strictMono.lt_iff_lt.mp (Nat.lt_of_mul_lt_mul_right (a := d) ?_)
      have hs := h.split
      rw [h.floor]
      omega
    omega
  have hodd : n / (2 ^ a48.ulpExp n d * d) % 2 = 1 := by
    have hbits := hfloor
    rw [Fmt.floorBits, show a48.frac = 37 + 1 from rfl, show a48.max = 0x7FBFFFFFFFFF from rfl, pow_succ] at hbits
    omega
  have hmid : (a48.mags a48.max + a48.mags (a48.max + 1)) * d =
      2 * (n / (2 ^ a48.ulpExp n d * d) * (2 ^ a48.ulpExp n d * d)) + 2 ^ a48.ulpExp n d * d := by
    have h1 := h.floor
    have h2 := h.next
    rw [hfloor] at h1 h2
    rw [Nat.add_mul, h1, h2]
    ring
  have hs := h.split
  rw [Fmt.roundedBits, hfloor, hmid]
  generalize n / (2 ^ a48.ulpExp n d * d) = k at *
  generalize n % (2 ^ a48.ulpExp n d * d) = l at *
  generalize 2 ^ a48.ulpExp n d * d = b at *
  congr 2
  unfold roundsUp
  rw [Bool.eq_iff_iff]
  simp only [hodd, Bool.or_eq_true, Bool.and_eq_true, decide_eq_true_eq, and_true]
  omega

/-- `round_a48` of a nonzero exact value (R111). -/
theorem finish_sum48 {v : Int} {d m : Nat} {e : Int} (hv : v ≠ 0) (hm : 0 < m) (hd : 0 < d) (hx : a48.measures v.natAbs d m e) :
    Ref.sum48 v d ((a48.finish 0 0 .ieee (decide (v < 0)) m e false).1, (a48.finish 0 0 .ieee (decide (v < 0)) m e false).2 &&& OF) := by
  have hf := sound_a48.tofits
  have habs : |v| = (v.natAbs : Int) := Int.abs_eq_natAbs v
  obtain ⟨tiny, hfin, -, -, -⟩ := Fmt.finish_eq hm hd hx 0 0 .ieee (decide (v < 0))
  have hdel := Fmt.finish_delivered (mode := 0) (x := 0) hf hm hd hx (by decide) .ieee hv
  have hover : a48.over 0 (decide (v < 0)) .ieee = a48.infBits (decide (v < 0)) := rfl
  rw [hover, Ref.past_eq a48 hf, Ref.units_max a48 hf, habs] at hdel
  unfold Ref.sum48
  rw [Ref.past_eq a48 hf, Ref.units_max a48 hf, habs]
  have hmono : a48.mags a48.max * d ≤ a48.mags (a48.max + 1) * d := Nat.mul_le_mul_right _ (a48.mags_strictMono (Nat.lt_succ_self _)).le
  have hmiddle := a48_rounded_middle (n := v.natAbs) hd (decide (v < 0))
  generalize a48.mags (a48.max + 1) = p at *
  rcases Nat.lt_or_ge (a48.mags a48.max * d) v.natAbs with hlo | hlo
  · rw [if_neg (by exact_mod_cast Nat.not_le.mpr hlo)]
    rcases Nat.lt_or_ge v.natAbs (p * d) with hhi | hhi
    · rw [hfin, hmiddle hlo hhi]
      rcases Nat.lt_or_ge (2 * v.natAbs) ((a48.mags a48.max + p) * d) with hmid | hmid
      · rw [if_pos (by exact_mod_cast hmid), decide_eq_false (Nat.not_le.mpr hmid), Bool.toNat_false, Nat.add_zero, if_neg (by omega),
          inexact_and_OF, a48_largest]
      · rw [if_neg (by exact_mod_cast Nat.not_lt.mpr hmid), decide_eq_true hmid, Bool.toNat_true, if_pos (by omega), OF_NX_and_OF, hover]
    · have hbeyond : (a48.mags a48.max + p) * d ≤ 2 * v.natAbs := by rw [Nat.add_mul]; omega
      rw [hdel.2 (by exact_mod_cast hhi), if_neg (by exact_mod_cast Nat.not_lt.mpr hbeyond)]
      exact congrArg (Prod.mk _) (show (20 : Fl) &&& OF = 4 by decide)
  · rw [if_pos (by exact_mod_cast hlo)]
    refine ⟨((hdel.1 (by exact_mod_cast hlo)).2 (by decide)).1, ?_⟩
    rw [hfin, if_neg (Nat.not_lt.mpr (Fmt.rounded_le hd 0 0 _ hlo)), inexact_and_OF]

/-! ## An accumulator word plus a value -/

/-- What an accumulator word is. -/
theorem a48_cases (a : Nat) :
    (Ref.isNan a48 a = true ∧ Ref.val a48 a = .nan false) ∨
    (Ref.isNan a48 a = false ∧ Ref.isInf a48 a = true ∧ Ref.val a48 a = .inf (Ref.neg a48 a)) ∨
    (Ref.isNan a48 a = false ∧ Ref.isInf a48 a = false ∧ Ref.val a48 a = .num (Ref.neg a48 a) (Ref.units a48 a).natAbs (Ref.unit a48)) := by
  have hmax : a48.max + 1 = Ref.infMag a48 := rfl
  unfold Ref.isNan Ref.isInf
  rcases Nat.lt_trichotomy (Ref.mag a48 a) (Ref.infMag a48) with h | h | h
  · exact .inr (.inr ⟨decide_eq_false (by omega), decide_eq_false (by omega), if_neg (by omega)⟩)
  · refine .inr (.inl ⟨decide_eq_false (by omega), decide_eq_true h, ?_⟩)
    rw [Ref.val_special (by omega), h, decide_eq_true rfl]
    rfl
  · refine .inl ⟨decide_eq_true h, ?_⟩
    rw [Ref.val_special (by omega), decide_eq_false (by omega)]
    rfl

theorem Ref.units_signedNum (f : Fmt) (b : Nat) : Ref.signedNum (Ref.neg f b) (Ref.units f b).natAbs = Ref.units f b := by
  rw [f.natAbs_units, Ref.units_eq]
  rfl

theorem prodFlags_eq {p : FV} (h : p.isSnan = false) : p.prodFlags = 0 := by rw [FV.prodFlags, h]; rfl

section
variable {x p : FV}

theorem addA48_nan_left (h : x.isNan = true) : addA48 x p = (a48.nanBits, 0) := if_pos (by rw [h, Bool.true_or])

theorem addA48_nan_right (h : p.isNan = true) : addA48 x p = (a48.nanBits, 0) := if_pos (by rw [h, Bool.or_true])

theorem addA48_inf_left (hx : x.isNan = false) (hp : p.isNan = false) (hxi : x.isInf = true) (hpi : p.isInf = false) :
    addA48 x p = (a48.infBits x.isNeg, 0) := by simp [addA48, Fmt.sum, hx, hp, hxi, hpi]

theorem addA48_inf_right (hx : x.isNan = false) (hp : p.isNan = false) (hpi : p.isInf = true) :
    addA48 x p = if x.isInf && x.isNeg != p.isNeg then (a48.nanBits, NV) else (a48.infBits p.isNeg, 0) := by
  cases hxi : x.isInf
  · simp [addA48, Fmt.sum, hx, hp, hxi, hpi]
  · cases hxs : x.isNeg
    · cases hps : p.isNeg
      · simp [addA48, Fmt.sum, hx, hp, hxi, hpi, hxs, hps]
      · simp [addA48, hx, hp, hxi, hpi, hxs, hps]
    · cases hps : p.isNeg
      · simp [addA48, hx, hp, hxi, hpi, hxs, hps]
      · simp [addA48, Fmt.sum, hx, hp, hxi, hpi, hxs, hps]

theorem addA48_finite (hx : x.isNan = false) (hp : p.isNan = false) (hxi : x.isInf = false) (hpi : p.isInf = false) :
    addA48 x p = if (x.dy.add p.dy).v = 0 then (a48.sign (x.isNeg && p.isNeg), 0) else
      ((a48.finish 0 0 .ieee (decide ((x.dy.add p.dy).v < 0)) (x.dy.add p.dy).v.natAbs (x.dy.add p.dy).e false).1,
        (a48.finish 0 0 .ieee (decide ((x.dy.add p.dy).v < 0)) (x.dy.add p.dy).v.natAbs (x.dy.add p.dy).e false).2 &&& OF) := by
  have hsum : a48.sum 0 0 .ieee x p false = a48.deliver 0 0 .ieee (x.dy.add p.dy) (if x.isNeg == p.isNeg then some x.isNeg else none) := by
    simp [Fmt.sum, hx, hp, hxi, hpi]
  simp only [addA48, hx, hp, hxi, hpi, hsum, Bool.or_self, Bool.and_self, Bool.false_and, Bool.false_eq_true, if_false, Fmt.deliver]
  split
  · cases x.isNeg
    · cases p.isNeg
      · rfl
      · rfl
    · cases p.isNeg
      · rfl
      · rfl
  · rfl

end

theorem a48_sign (s : Bool) : a48.sign s = Ref.signed a48 s := by
  cases s
  · rfl
  · rfl

/-- A finite word plus a finite value. -/
theorem plus48_finite {a : Nat} (ha : Sees (a48.dec a) (.num (Ref.neg a48 a) (Ref.units a48 a).natAbs (Ref.unit a48))) {p : FV} {s : Bool}
    {n d : Nat} (hp : Sees p (.num s n d)) : let v : Int := Ref.units a48 a * d + (if s then -(n : Int) else n) * Ref.unit a48
    if v = 0 then addA48 (a48.dec a) p = (Ref.signed a48 (Ref.neg a48 a && s), 0) else Ref.sum48 v d (addA48 (a48.dec a) p) := by
  intro v
  obtain ⟨hav, -, hx, hxi, hxs, -⟩ := ha.dy
  obtain ⟨hpv, hd, hp, hpi, hps, -⟩ := hp.dy
  rw [Ref.units_signedNum] at hav
  have hval : (v : ℚ) = ((a48.dec a).dy.add p.dy).val * (d * Ref.unit a48) := by
    have hcast : (v : ℚ) = ((Ref.units a48 a : Int) : ℚ) * d + ((Ref.signedNum s n : Int) : ℚ) * Ref.unit a48 := by
      change ((_ * _ + Ref.signedNum s n * _ : Int) : ℚ) = _
      push_cast
      rfl
    rw [hcast, hav, hpv, Dy.val_add]
    ring
  rw [addA48_finite hx hp hxi hpi, hxs, hps, a48_sign]
  have hmeas := Dy.measures sound_a48.tofits hval
  obtain ⟨hzero, hneg⟩ := Dy.sign_eq (k := d * Ref.unit a48) (by rw [hval]; push_cast; rfl) (Nat.mul_pos hd Ref.unit_pos)
  generalize (a48.dec a).dy.add p.dy = q at *
  split
  · rename_i h0
    rw [if_pos (hzero.mp h0)]
  · rename_i h0
    have hq := mt hzero.mpr h0
    rw [if_neg hq, ← decide_eq_decide.mpr hneg]
    exact finish_sum48 h0 (by omega) hd hmeas

/-- `round_a48` of a word plus an exact value, with the flags of the value (R111, R114, R121). -/
theorem plus48_addA48 {a : Nat} (ha : a < 2 ^ 48) {p : FV} {v : Ref.Val} (hp : Sees p v) :
    Ref.plus48 a v ((addA48 (a48.dec a) p).1, (addA48 (a48.dec a) p).2 ||| p.prodFlags) := by
  have hsee := Fmt.dec_sees sound_a48 ha
  have hor : ∀ x : Nat × Fl, (x.1, x.2 ||| (0 : Fl)) = x := fun x => congrArg (x.1, ·) (BitVec.or_zero ..)
  cases v with
  | nan s =>
    cases hp
    rw [addA48_nan_right rfl]
    cases s
    · rfl
    · rfl
  | inf s =>
    cases hp
    rw [prodFlags_eq rfl, hor]
    unfold Ref.plus48
    rcases a48_cases a with ⟨hn, hv⟩ | ⟨hn, hi, hv⟩ | ⟨hn, hi, hv⟩
    · rw [hv] at hsee
      cases hd : a48.dec a with
      | nan t => rw [hn, addA48_nan_left rfl]; rfl
      | inf t => rw [hd] at hsee; cases hsee
      | zero t => rw [hd] at hsee; cases hsee
      | fin t m e => rw [hd] at hsee; cases hsee
    · rw [hv] at hsee
      generalize a48.dec a = x at hsee
      cases hsee
      rw [addA48_inf_right rfl rfl rfl]
      simp only [hn, hi, FV.isInf, FV.isNeg, Bool.true_and, Bool.false_eq_true, if_false]
      cases Ref.neg a48 a != s
      · rfl
      · rfl
    · rw [hv] at hsee
      obtain ⟨-, -, hxn, hxi, -, -⟩ := hsee.dy
      rw [addA48_inf_right hxn rfl rfl]
      simp only [hn, hi, hxi, Bool.false_and, Bool.false_eq_true, if_false]
      rfl
  | num s n d =>
    obtain ⟨-, -, hpn, hpi, -, hsn⟩ := hp.dy
    rw [prodFlags_eq hsn]
    rw [hor]
    unfold Ref.plus48
    rcases a48_cases a with ⟨hn, hv⟩ | ⟨hn, hi, hv⟩ | ⟨hn, hi, hv⟩
    · rw [hv] at hsee
      generalize a48.dec a = x at hsee
      cases hsee
      rw [addA48_nan_left rfl]
      simp only [hn, if_true]
    · rw [hv] at hsee
      generalize a48.dec a = x at hsee
      cases hsee
      rw [addA48_inf_left rfl hpn rfl hpi]
      simp only [hn, hi, Bool.false_eq_true, if_false, if_true]
      rfl
    · rw [hv] at hsee
      have h := plus48_finite hsee hp
      simp only [hn, hi, Bool.false_eq_true, if_false]
      exact h

theorem Ref.sum48_lt {v : Int} {d : Nat} {r : Nat × BitVec 7} (h : Ref.sum48 v d r) : r.1 < 2 ^ 48 := by
  have hinf : ∀ s, a48.infBits s < 2 ^ 48 := by decide
  have hbig : ∀ s, Ref.signed a48 s + a48.max < 2 ^ 48 := by decide
  unfold Ref.sum48 at h
  split at h
  · exact h.1.1
  · split at h
    · rw [h]; exact hbig _
    · rw [h]; exact hinf _

/-- The sum is an accumulator word. -/
theorem Ref.plus48_lt {a : Nat} {p : Ref.Val} {r : Nat × BitVec 7} (h : Ref.plus48 a p r) : r.1 < 2 ^ 48 := by
  have hnan : a48.nanBits < 2 ^ 48 := by decide
  have hinf : ∀ s, a48.infBits s < 2 ^ 48 := by decide
  have hzero : ∀ s, Ref.signed a48 s < 2 ^ 48 := by decide
  unfold Ref.plus48 at h
  cases p with
  | nan s => rw [show r = _ from h]; exact hnan
  | inf s =>
    dsimp only at h
    rw [h]
    split
    · exact hnan
    · split
      · exact hnan
      · exact hinf s
  | num s n d =>
    dsimp only at h
    generalize Ref.units a48 a * d + (if s then -(n : Int) else n) * Ref.unit a48 = v at h
    split at h
    · rw [h]; exact hnan
    · split at h
      · rw [h]; exact hinf _
      · split at h
        · rw [h]; exact hzero _
        · exact Ref.sum48_lt h

end Sys2Proof.Machine
end

section
/-! PROOFS. One word of an MRUN: its products, scales and sums (R112, R114 to R121, R246). -/

namespace Sys2Proof.Machine

/-! ## Weights and scales -/

theorem foldl_xor_eq_parity (s : Nat → Bool) (l : List Nat) : ∀ a : Bool,
    l.foldl (fun a i => a != s i) a = (a != decide (l.countP s % 2 = 1)) := by
  induction l with
  | nil => intro a; simp
  | cons i l ih =>
    intro a
    have hpar : ∀ c : Nat, decide ((c + 1) % 2 = 1) = !decide (c % 2 = 1) := fun c => by
      rw [← decide_not, decide_eq_decide]
      omega
    rw [List.foldl_cons, ih, List.countP_cons]
    cases s i
    · simp
    · simp [hpar]

theorem Bank.cb2_sees (b : Bank) (k n : Nat) (h : b.fmt = 8) : Sees (b.cb2 k n) (Ref.weight b k n) := by
  have hbit : ∀ c i : Nat, decide (c / 2 ^ i % 2 = 1) = c.testBit i := fun c i => by rw [Nat.testBit_eq_decide_div_mod_eq]
  have hmag : ∀ e : Nat, 2 ^ (4 * e) = 16 ^ e := fun e => by rw [pow_mul, show 2 ^ 4 = 16 from rfl]
  unfold Bank.cb2 Ref.weight
  rw [if_pos h]
  dsimp only
  rw [hmag, foldl_xor_eq_parity, Bool.false_bne]
  simp only [hbit]
  rw [show (128 : Nat) = 2 ^ 7 from rfl]
  generalize (b.codebook.getD _ 0).toNat / 16 ^ (k % 8) % 16 = m
  split
  · rename_i h0
    subst h0
    rw [bne_self_eq_false, Bool.and_false]
    exact .zero _ (by decide)
  · rename_i h0
    rw [bne_iff_ne.mpr h0, Bool.and_true]
    exact .fin _ (Nat.pos_of_ne_zero h0) (by decide) (by push_cast; ring)

theorem Bank.wf_sees (b : Bank) (k n : Nat)
    (h : ∀ g, b.fmt ≠ 8 → fmtOf b.fmt = some g → (b.w.getD (k * 64 + n) 0).toNat < 2 ^ g.width) : Sees (b.wf k n) (Ref.weight b k n) := by
  by_cases h8 : b.fmt = 8
  · rw [Bank.wf, if_pos h8]
    exact b.cb2_sees k n h8
  · unfold Bank.wf Ref.weight
    rw [if_neg h8, if_neg h8]
    cases hf : fmtOf b.fmt with
    | none => exact .zero _ Nat.one_pos
    | some g => exact Fmt.dec_sees (Fmt.sound_of_code hf) (h g h8 hf)

/-- A scale of R106 or R116. -/
theorem scaleVal_sees {fmt b : Nat} (h : fmt = 14 ∨ (fmt = 0 ∧ b < 2 ^ 32)) : Sees (scaleVal fmt b) (Ref.scale fmt b) := by
  unfold scaleVal Ref.scale
  rcases h with rfl | ⟨rfl, hb⟩
  · rw [if_pos rfl, if_pos rfl]
    split
    · exact .nan _
    · refine .fin _ Nat.one_pos (Nat.two_pow_pos _) ?_
      have hpow : (2 : ℚ) ^ (b : Int) = 2 ^ ((b : Int) - 127) * 2 ^ (127 : Int) := by rw [← zpow_add₀ (by norm_num), sub_add_cancel]
      rw [zpow_natCast] at hpow
      push_cast
      rw [one_mul, hpow]
      norm_num
  · exact Fmt.dec_sees sound_fp32 hb

theorem Bank.sw_sees (b : Bank) (k n : Nat) (h : ∀ i, b.scaleFmt = 14 ∨ (b.scaleFmt = 0 ∧ (b.scales.getD i 0).toNat < 2 ^ 32)) :
    b.sw k n = none ∧ Ref.weightScale b k n = none ∨ ∃ v y, b.sw k n = some v ∧ Ref.weightScale b k n = some y ∧ Sees v y := by
  unfold Bank.sw Ref.weightScale
  match b.mode with
  | 0 => exact .inl ⟨rfl, rfl⟩
  | 1 => exact .inr ⟨_, _, rfl, rfl, scaleVal_sees (h _)⟩
  | 2 => exact .inr ⟨_, _, rfl, rfl, scaleVal_sees (h _)⟩
  | _ + 3 => exact .inr ⟨_, _, rfl, rfl, scaleVal_sees (h _)⟩

/-! ## Sums over rising k -/

theorem sumFloat_append (l : List FV) (p : FV) : ∀ (a : Nat) (fl : Fl), sumFloat a fl (l ++ [p]) =
    ((addA48 (a48.dec (sumFloat a fl l).1) p).1,
      (sumFloat a fl l).2 ||| ((addA48 (a48.dec (sumFloat a fl l).1) p).2 ||| p.prodFlags)) := by
  induction l with
  | nil => intro a fl; exact congrArg (Prod.mk _) (BitVec.or_assoc ..)
  | cons q l ih => intro a fl; exact ih _ _

theorem sumInt_append (l : List Int) (p : Int) : ∀ (a : Int) (fl : Fl), sumInt a fl (l ++ [p]) =
    ((sat48 ((sumInt a fl l).1 + p)).1, (sumInt a fl l).2 ||| (sat48 ((sumInt a fl l).1 + p)).2) := by
  induction l with
  | nil => intro a fl; rfl
  | cons q l ih => intro a fl; exact ih _ _

theorem sat48_eq (x : Int) : sat48 x = Ref.clamp48 x := by
  unfold sat48 clamp Ref.clamp48
  rfl

theorem sext_eq_toInt (w v : Nat) (hw : 0 < w) : sext w v = (BitVec.ofNat w v).toInt := by
  obtain ⟨j, rfl⟩ := Nat.exists_eq_add_of_le' hw
  have hpow : 2 ^ (j + 1) = 2 * 2 ^ j := by rw [pow_succ, Nat.mul_comm]
  have hiff : v % 2 ^ (j + 1) < 2 ^ (j + 1 - 1) ↔ 2 * (v % 2 ^ (j + 1)) < 2 ^ (j + 1) := by
    rw [Nat.add_sub_cancel, hpow]
    omega
  rw [BitVec.toInt_eq_toNat_cond, BitVec.toNat_ofNat, sext]
  simp only [hiff]

theorem sext_zero (v : Nat) : sext 0 v = 0 := by
  rw [sext, pow_zero, Nat.mod_one]
  rfl

theorem eb_sext (fmt v : Nat) : sext (eb fmt) v = (BitVec.ofNat (eb fmt) v).toInt := by
  rcases Nat.eq_zero_or_pos (eb fmt) with h | h
  · rw [h, sext_zero, BitVec.toInt_zero_length]
  · exact sext_eq_toInt _ _ h

theorem ofNat_wrap (w : Nat) (v : Int) : BitVec.ofNat w (wrap w v) = BitVec.ofInt w v := by
  refine BitVec.eq_of_toNat_eq ?_
  rw [BitVec.toNat_ofNat, BitVec.toNat_ofInt, wrap]
  exact Nat.mod_eq_of_lt (Int.toNat_lt_of_ne_zero (Nat.two_pow_pos w).ne' |>.mpr (Int.emod_lt_of_pos _ (by exact_mod_cast Nat.two_pow_pos w)))

/-! ## One word -/

/-- The k-th product of a word, with its scales (R114, R115). -/
def Mrun.factor (q : Mrun) (f : Fmt) (m n k : Nat) : FV :=
  (((f.dec (q.el m k)).mul (q.bank.wf k n)).scaled (q.scale m k)).scaled (q.bank.sw k n)

/-- The sum of the first k products of a float word. -/
def Mrun.floatSum (q : Mrun) (f : Fmt) (a : BitVec 48) (m n k : Nat) : Nat × Fl := sumFloat a.toNat 0 ((List.range k).map (q.factor f m n))

theorem Mrun.floatSum_succ (q : Mrun) (f : Fmt) (a : BitVec 48) (m n k : Nat) : q.floatSum f a m n (k + 1) =
    ((addA48 (a48.dec (q.floatSum f a m n k).1) (q.factor f m n k)).1,
      (q.floatSum f a m n k).2 ||| ((addA48 (a48.dec (q.floatSum f a m n k).1) (q.factor f m n k)).2 ||| (q.factor f m n k).prodFlags)) := by
  rw [Mrun.floatSum, List.range_succ, List.map_append]
  exact sumFloat_append _ _ _ _

theorem Mrun.cell_float (q : Mrun) (a : BitVec 48) (m n : Nat) {f : Fmt} (hq : q.float = true) (hf : fmtOf q.fmt = some f) :
    q.cell a m n = (BitVec.ofNat 48 (q.floatSum f a m n q.k).1, (q.floatSum f a m n q.k).2) := by
  unfold Mrun.cell
  rw [if_pos hq, hf]
  rfl

/-- The product of integers. -/
def Mrun.term (q : Mrun) (m n k : Nat) : Int := sext (eb q.fmt) (q.el m k) * sext (eb q.bank.fmt) (q.bank.w.getD (k * 64 + n) 0).toNat

/-- The sum of the first k products of an integer word. -/
def Mrun.intSum (q : Mrun) (a : BitVec 48) (m n k : Nat) : Int × Fl := sumInt (sext 48 a.toNat) 0 ((List.range k).map (q.term m n))

theorem Mrun.intSum_succ (q : Mrun) (a : BitVec 48) (m n k : Nat) : q.intSum a m n (k + 1) =
    ((sat48 ((q.intSum a m n k).1 + q.term m n k)).1, (q.intSum a m n k).2 ||| (sat48 ((q.intSum a m n k).1 + q.term m n k)).2) := by
  rw [Mrun.intSum, List.range_succ, List.map_append]
  exact sumInt_append _ _ _ _

theorem Mrun.cell_int (q : Mrun) (a : BitVec 48) (m n : Nat) (hq : q.float = false) :
    q.cell a m n = (BitVec.ofInt 48 (q.intSum a m n q.k).1, (q.intSum a m n q.k).2) := by
  unfold Mrun.cell
  rw [if_neg (by rw [hq]; exact Bool.false_ne_true)]
  exact congrArg (·, _) (ofNat_wrap _ _)

section
variable {q : Mrun} {f : Fmt} {m n : Nat} {sa : Nat → Option (Nat × Nat)} (hf : fmtOf q.fmt = some f) (hel : ∀ k, q.el m k < 2 ^ f.width)
  (hscale : ∀ k, q.scale m k = (sa k).map fun e => scaleVal e.1 e.2) (hsa : ∀ k e, sa k = some e → e.1 = 14 ∨ (e.1 = 0 ∧ e.2 < 2 ^ 32))
  (hw : ∀ g k, q.bank.fmt ≠ 8 → fmtOf q.bank.fmt = some g → (q.bank.w.getD (k * 64 + n) 0).toNat < 2 ^ g.width)
  (hsw : ∀ i, q.bank.scaleFmt = 14 ∨ (q.bank.scaleFmt = 0 ∧ (q.bank.scales.getD i 0).toNat < 2 ^ 32))
include hf hel hscale hsa hw hsw

theorem Mrun.factor_sees (k : Nat) : Sees (q.factor f m n k) (Ref.scaled (Ref.scaled (Ref.times (Ref.val f (q.el m k)) (Ref.weight q.bank k n))
    ((sa k).map fun e => Ref.scale e.1 e.2)) (Ref.weightScale q.bank k n)) := by
  have hprod := (Fmt.dec_sees (Fmt.sound_of_code hf) (hel k)).mul (q.bank.wf_sees k n fun g => hw g k)
  refine (hprod.scaled ?_).scaled (q.bank.sw_sees k n hsw)
  rw [hscale]
  cases he : sa k with
  | none => exact .inl ⟨rfl, rfl⟩
  | some e => exact .inr ⟨_, _, rfl, rfl, scaleVal_sees (hsa k e he)⟩

theorem Mrun.floatSum_plus48 (a : BitVec 48) (k : Nat) : (q.floatSum f a m n k).1 < 2 ^ 48 ∧
    ∃ r, Ref.plus48 (q.floatSum f a m n k).1 (Ref.scaled (Ref.scaled (Ref.times (Ref.val f (q.el m k)) (Ref.weight q.bank k n))
      ((sa k).map fun e => Ref.scale e.1 e.2)) (Ref.weightScale q.bank k n)) r ∧
      q.floatSum f a m n (k + 1) = (r.1, (q.floatSum f a m n k).2 ||| r.2) := by
  have hsees := Mrun.factor_sees hf hel hscale hsa hw hsw
  have hlt : (q.floatSum f a m n k).1 < 2 ^ 48 := by
    induction k with
    | zero => exact a.isLt
    | succ k ih =>
      have hsum := Ref.plus48_lt (plus48_addA48 ih (hsees k))
      rw [q.floatSum_succ f a m n k]
      exact hsum
  exact ⟨hlt, _, plus48_addA48 hlt (hsees k), q.floatSum_succ f a m n k⟩

end

end Sys2Proof.Machine
end

section
/-! PROOFS. Preloads are exact; a drained word is the format's conversion of it (R127, R247, R251). -/

namespace Sys2Proof.Machine

/-! ## A value of one format in the units of another -/

theorem Sees.measures {f : Fmt} (hf : f.fits) {n m d : Nat} {e : Int} (h : (n : ℚ) = m * 2 ^ e * d) :
    f.measures (n * Ref.unit f) d m e := by
  refine Fmt.measures_of_eq ?_
  rw [Nat.cast_mul, Fmt.unit_eq hf, h, sub_eq_add_neg, zpow_add₀ (by norm_num)]
  ring

/-- The numerator over the units of a format. -/
theorem Ref.natAbs_scaled (z : Bool) (n k : Nat) : ((if z then -(n : Int) else n) * k : Int).natAbs = n * k := by
  cases z
  · simp [Int.natAbs_mul]
  · simp [Int.natAbs_mul]

theorem Ref.scaled_neg (z : Bool) {n k : Nat} (hn : n ≠ 0) (hk : 0 < k) : ((if z then -(n : Int) else n) * k : Int) < 0 ↔ z = true := by
  have hpos : (0 : Int) < n * k := by positivity
  cases z
  · simp only [Bool.false_eq_true, if_false, iff_false]; omega
  · simp only [if_true, iff_true, Int.neg_mul]; omega

theorem Fmt.sign_eq (f : Fmt) (s : Bool) : f.sign s = Ref.signed f s := by
  have hw : f.width - 1 = f.ebits + f.frac := by unfold Fmt.width; omega
  rw [Fmt.sign, Ref.signed, hw]
  cases s
  · simp
  · simp

/-! ## Preloads (R247) -/

/-- Where no rest is left, the value itself is delivered, with no flag. -/
theorem Fmt.finish_exact {f : Fmt} (hf : f.fits) {v : Int} {d m : Nat} {e : Int} (hm : 0 < m) (hd : 0 < d) (hx : f.measures v.natAbs d m e)
    (hr : v.natAbs ≤ f.mags f.max * d) (hrest : v.natAbs % (2 ^ f.ulpExp v.natAbs d * d) = 0) (mode x : Nat) (ovf : Ovf) :
    ∃ y, f.finish mode x ovf (decide (v < 0)) m e false = (y, 0) ∧ y < 2 ^ f.width ∧ Ref.units f y * d = v ∧ Ref.isFin f y = true ∧
      Ref.neg f y = decide (v < 0) := by
  obtain ⟨tiny, hfin, -, -, -⟩ := Fmt.finish_eq hm hd hx mode x ovf (decide (v < 0))
  obtain ⟨hlt, hisfin, hneg⟩ := Fmt.roundedTo_bits hf hd hr mode x
  refine ⟨f.roundedTo mode x v d, ?_, hlt, (Fmt.roundedTo_exact_iff hf hd hr mode x).mpr hrest, hisfin, hneg⟩
  rw [hfin, if_neg (Nat.not_lt.mpr (Fmt.rounded_le hd mode x _ hr)), hrest]
  exact congrArg (Prod.mk _) (BitVec.or_self (x := (0 : Fl)))

/-- A format whose values all are accumulator words. -/
structure Fmt.preloads (f : Fmt) : Prop extends f.sound where
  infinite : f.inf = true
  frac_le : f.frac ≤ 37
  bias_le : f.bias + f.frac ≤ 293
  top : f.max / 2 ^ f.frac + 294 ≤ 547 + f.bias

theorem preloads_fp32 : fp32.preloads := ⟨sound_fp32, rfl, by decide, by decide, by decide⟩
theorem preloads_bf16 : bf16.preloads := ⟨sound_bf16, rfl, by decide, by decide, by decide⟩
theorem preloads_fp16 : fp16.preloads := ⟨sound_fp16, rfl, by decide, by decide, by decide⟩

theorem a48_mags_max {p : Nat} (hp : p ≤ 547) : 2 ^ p ≤ a48.mags a48.max := by
  have h := a48.mags_ulps (t := 509) (k := 2 ^ 39 - 1) (by decide) (.inl (by decide))
  rw [show a48.max = 509 * 2 ^ a48.frac + (2 ^ 39 - 1) from rfl, h]
  calc 2 ^ p ≤ 2 ^ (38 + 509) := Nat.pow_le_pow_right (by decide) hp
    _ = 2 ^ 38 * 2 ^ 509 := pow_add ..
    _ ≤ _ := Nat.mul_le_mul_right _ (by decide)

/-- A magnitude of such a format, in units of the accumulator: no rest and in range. -/
theorem Fmt.preloads.exact {f : Fmt} (hf : f.preloads) {b : Nat} (hb : b ≤ f.max) :
    f.mags b * Ref.unit a48 ≤ a48.mags a48.max * Ref.unit f ∧
    f.mags b * Ref.unit a48 % (2 ^ a48.ulpExp (f.mags b * Ref.unit a48) (Ref.unit f) * Ref.unit f) = 0 := by
  have hbias := hf.bias_le
  have hb1 := hf.bias
  have hunit : Ref.unit a48 = 2 ^ (293 - f.bias - f.frac) * Ref.unit f := by
    unfold Ref.unit
    rw [← pow_add, show a48.bias + a48.frac - 1 = 292 from rfl]
    exact congrArg (2 ^ ·) (by omega)
  obtain ⟨k, hbk, hk, ht⟩ := f.exists_ulps b
  have htop : b / 2 ^ f.frac - 1 ≤ f.max / 2 ^ f.frac := (Nat.sub_le _ _).trans (Nat.div_le_div_right hb)
  have htop' := hf.top
  have hfrac := hf.frac_le
  have hmags : f.mags b = k * 2 ^ (b / 2 ^ f.frac - 1) := by
    rw [← f.mags_ulps hk.le ht, ← hbk]
  generalize b / 2 ^ f.frac - 1 = t at *
  obtain ⟨s, hs⟩ : ∃ s, s = t + (293 - f.bias - f.frac) := ⟨_, rfl⟩
  have hN : f.mags b * Ref.unit a48 = k * 2 ^ s * Ref.unit f := by
    rw [hmags, hunit, hs, pow_add]
    ring
  have hk38 : k < 2 ^ 38 := hk.trans_le (Nat.pow_le_pow_right (by decide) (by omega))
  have hlt : k * 2 ^ s < 2 ^ (s + 38) := by
    rw [Nat.add_comm s, pow_add 2 38]
    exact Nat.mul_lt_mul_of_pos_right hk38 (Nat.two_pow_pos s)
  rw [hN]
  constructor
  · refine Nat.mul_le_mul_right _ ?_
    calc k * 2 ^ s ≤ 2 ^ (f.frac + 1) * 2 ^ s := Nat.mul_le_mul_right _ hk.le
      _ = 2 ^ (f.frac + 1 + s) := (pow_add ..).symm
      _ ≤ a48.mags a48.max := a48_mags_max (by omega)
  · have hulp : a48.ulpExp (k * 2 ^ s * Ref.unit f) (Ref.unit f) ≤ s := by
      unfold Fmt.ulpExp
      rw [Nat.mul_div_cancel _ Ref.unit_pos]
      split
      · exact Nat.zero_le s
      · rename_i hge
        have hne : k * 2 ^ s ≠ 0 := fun h0 => hge (by
          rw [h0, Nat.zero_mul]
          exact Nat.mul_pos (Nat.two_pow_pos _) Ref.unit_pos)
        have hlog := (Nat.log2_lt hne).mpr hlt
        have h38 : a48.frac = 38 := rfl
        omega
    rw [Nat.mul_mod_mul_right, Nat.mod_eq_zero_of_dvd ((pow_dvd_pow 2 hulp).mul_left k), Nat.zero_mul]

/-! ## Conversions of what is no finite number -/

section
variable {src dst : Fmt} {a : Nat} (mode x : Nat) (nan : Bool)

theorem toFloat_of_nan {z : Bool} (h : Sees (src.dec a) (.nan z)) :
    src.toFloat dst mode x nan a = if dst.nan.isSome then (dst.nanBits, flagIf z NV) else (0, NV) := by
  unfold Fmt.toFloat
  generalize src.dec a = v at h
  cases h
  rfl

theorem toFloat_of_inf {z : Bool} (h : Sees (src.dec a) (.inf z)) : src.toFloat dst mode x nan a =
    if dst.inf then (dst.infBits z, 0) else if nan && dst.nan.isSome then (dst.nanBits, OF) else (dst.sign z + dst.max, OF) := by
  unfold Fmt.toFloat
  generalize src.dec a = v at h
  cases h
  rfl

theorem toFloat_of_zero {z : Bool} {d : Nat} (h : Sees (src.dec a) (.num z 0 d)) : src.toFloat dst mode x nan a = (dst.sign z, 0) := by
  unfold Fmt.toFloat
  generalize src.dec a = v at h
  cases h with
  | zero _ _ => rfl
  | fin _ hm hd h => exact absurd rfl (ne_zero_of_measure hm hd h)

/-- A nonzero finite number is rounded once. -/
theorem toFloat_of_num (hf : dst.fits) {z : Bool} {n d : Nat} (hn : n ≠ 0) (h : Sees (src.dec a) (.num z n d)) : ∃ m e, 0 < m ∧
    dst.measures (n * Ref.unit dst) d m e ∧
    src.toFloat dst mode x nan a = dst.finish mode x (if nan then .nan else .largest) z m e false := by
  unfold Fmt.toFloat
  generalize src.dec a = v at h
  cases h with
  | zero _ _ => exact absurd rfl hn
  | fin _ hm _ h => exact ⟨_, _, hm, Sees.measures hf h, rfl⟩

end

/-- A finite preload is exact (R247). -/
theorem preload_num {f : Fmt} (hf : f.preloads) {e : Nat} (he : e < 2 ^ f.width) {z : Bool} {n d : Nat} (hv : Ref.val f e = .num z n d) :
    ∃ y, f.toFloat a48 0 0 false e = (y, 0) ∧ y < 2 ^ 48 ∧ Ref.units a48 y * d = (if z then -(n : Int) else n) * Ref.unit a48 ∧
      Ref.isFin a48 y = true ∧ Ref.neg a48 y = z := by
  have hsee := Fmt.dec_sees hf.tosound he
  have hle : Ref.mag f e ≤ f.max := by
    by_contra hgt
    rw [Ref.val_special (by omega)] at hv
    split at hv
    · cases hv
    · cases hv
  rw [hv] at hsee
  rw [Ref.val_num hle] at hv
  injection hv with hz hn hd
  by_cases hn0 : n = 0
  · subst hn0
    rw [toFloat_of_zero _ _ _ hsee]
    have hzero : ∀ s, Ref.units a48 (a48.sign s) = 0 ∧ Ref.isFin a48 (a48.sign s) = true ∧ Ref.neg a48 (a48.sign s) = s ∧
        a48.sign s < 2 ^ 48 := by decide
    obtain ⟨hu, hfin, hneg, hlt⟩ := hzero z
    exact ⟨_, rfl, hlt, by rw [hu]; simp, hfin, hneg⟩
  · obtain ⟨m, x, hm, hmeas, hfloat⟩ := toFloat_of_num 0 0 false sound_a48.tofits hn0 hsee
    rw [hfloat]
    have hdpos : 0 < d := hd ▸ Ref.unit_pos
    obtain ⟨hrange, hrest⟩ := hf.exact hle
    rw [hn, hd] at hrange hrest
    have hexact := Fmt.finish_exact (v := (if z then -(n : Int) else n) * Ref.unit a48) sound_a48.tofits hm hdpos
      (by rw [Ref.natAbs_scaled]; exact hmeas) (by rw [Ref.natAbs_scaled]; exact hrange) (by rw [Ref.natAbs_scaled]; exact hrest) 0 0 .largest
    have hsign : decide ((if z then -(n : Int) else n) * Ref.unit a48 < 0) = z := by
      rw [Bool.eq_iff_iff, decide_eq_true_iff]
      exact Ref.scaled_neg z hn0 Ref.unit_pos
    rw [hsign] at hexact
    exact hexact

/-- The clause of the preloads. -/
theorem preload_spec (e : Nat) : preload 9 e = some (BitVec.ofNat 48 e, 0) ∧
    (∀ b, b ∈ [6, 10, 11] → preload b e = some ((BitVec.ofNat (eb b) e).signExtend 48, 0)) := by
  refine ⟨rfl, fun b hb => ?_⟩
  have hint : ∀ b, some (BitVec.ofNat 48 (wrap 48 (sext (eb b) e)), (0 : Fl)) = some ((BitVec.ofNat (eb b) e).signExtend 48, 0) := fun b => by
    rw [ofNat_wrap, eb_sext]
    rfl
  rw [← hint]
  fin_cases hb
  · rfl
  · rfl
  · rfl

theorem preload_float {b : Nat} {f : Fmt} (hb : b ≤ 2) (hf : fmtOf b = some f) (e : Nat) :
    preload b e = some (BitVec.ofNat 48 (f.toFloat a48 0 0 false e).1, (f.toFloat a48 0 0 false e).2) := by
  rw [preload, if_neg (by omega), if_pos hb, hf]

theorem preloads_of {b : Nat} {f : Fmt} (h : (b, f) ∈ [(0, fp32), (1, bf16), (2, fp16)]) : b ≤ 2 ∧ fmtOf b = some f ∧ f.preloads := by
  fin_cases h
  · exact ⟨by decide, rfl, preloads_fp32⟩
  · exact ⟨by decide, rfl, preloads_bf16⟩
  · exact ⟨by decide, rfl, preloads_fp16⟩

/-! ## Draining (R127, R251) -/

theorem sext_toNat (a : BitVec 48) : sext 48 a.toNat = a.toInt := by
  rw [sext_eq_toInt 48 _ (by decide), BitVec.ofNat_toNat, BitVec.setWidth_eq]

/-- An integer word, clamped. -/
theorem drainEl_int (b m x : Nat) (nan : Bool) (a : BitVec 48) : drainEl false b m x nan a = Ref.narrow (eb b) true false a.toInt := by
  have hpow : ∀ w : Nat, ((2 ^ w : Nat) : Int) = 2 ^ w := fun w => by push_cast; rfl
  have hwrap : ∀ w v, wrap w v = (BitVec.ofInt w v).toNat := fun w v => (BitVec.toNat_ofInt ..).symm
  unfold drainEl
  simp only [Bool.false_eq_true, if_false, hwrap, sext_toNat, clamp, loOf, hiOf, Ref.narrow, hpow, Bool.true_and, decide_eq_true_eq]
  split
  · rfl
  · split
    · rfl
    · rfl

/-- A format that float words are drained to. -/
theorem drains {b : Nat} {f : Fmt} (h : (b, f) ∈ [(0, fp32), (1, bf16), (2, fp16), (3, fp8e4), (4, fp8e5), (5, fp4)]) :
    b ≠ 9 ∧ fmtOf b = some f ∧ (f.nan.isSome = true ↔ f ≠ fp4) := by
  fin_cases h
  · decide
  · decide
  · decide
  · decide
  · decide
  · decide

theorem drainEl_float {b : Nat} {f : Fmt} (hb : b ≠ 9) (hf : fmtOf b = some f) (m x : Nat) (nan : Bool) (a : BitVec 48) :
    drainEl true b m x nan a = a48.toFloat f m x nan a.toNat := by
  unfold drainEl
  rw [if_pos rfl, if_neg hb, hf]

theorem Fmt.over_signed {f : Fmt} (hnan : f.nan.isSome = true ↔ f ≠ fp4) (mode : Nat) (nan : Bool) (v : Int) :
    f.over mode (decide (v < 0)) (if nan then .nan else .largest) = if nan = true ∧ f ≠ fp4 then f.nanBits else Ref.largest f v := by
  simp only [← hnan, Ref.largest, ← Fmt.sign_eq]
  cases nan
  · simp only [Bool.false_eq_true, false_and, if_false, Fmt.over]
  · simp only [if_true, true_and, Fmt.over]

/-- A NaN word drained. -/
theorem drain_nan {f : Fmt} (hnan : f.nan.isSome = true ↔ f ≠ fp4) {a : BitVec 48} {z : Bool} (hv : Ref.val a48 a.toNat = .nan z)
    (m x : Nat) (nan : Bool) : a48.toFloat f m x nan a.toNat = if f = fp4 then (0, 1) else (f.nanBits, 0) := by
  have hsee := Fmt.dec_sees sound_a48 a.isLt
  obtain ⟨-, hq⟩ | ⟨-, -, hq⟩ | ⟨-, -, hq⟩ := a48_cases a.toNat
  · rw [hq] at hsee
    rw [toFloat_of_nan m x nan hsee]
    by_cases h4 : f = fp4
    · rw [if_neg (fun h => hnan.mp h h4), if_pos h4]
      rfl
    · rw [if_pos (hnan.mpr h4), if_neg h4]
      rfl
  · rw [hq] at hv; cases hv
  · rw [hq] at hv; cases hv

/-- An infinite word drained. -/
theorem drain_inf {f : Fmt} (hnan : f.nan.isSome = true ↔ f ≠ fp4) {a : BitVec 48} {z : Bool} (hv : Ref.val a48 a.toNat = .inf z)
    (m x : Nat) (nan : Bool) : a48.toFloat f m x nan a.toNat =
      if f.inf then (f.infBits z, 0) else (if nan = true ∧ f ≠ fp4 then f.nanBits else Ref.signed f z + f.max, 4) := by
  have hsee := Fmt.dec_sees sound_a48 a.isLt
  rw [hv] at hsee
  rw [toFloat_of_inf m x nan hsee]
  refine if_congr Iff.rfl rfl ?_
  simp only [Bool.and_eq_true, hnan, Fmt.sign_eq]
  split
  · rfl
  · rfl

/-- A finite word drained. -/
theorem drain_num {f : Fmt} (hf : f.fits) (hnan : f.nan.isSome = true ↔ f ≠ fp4) {a : BitVec 48} {z : Bool} {n d : Nat}
    (h : Sees (a48.dec a.toNat) (.num z n d)) (m : Nat) {x : Nat} (hx : x < 2 ^ 16) (nan : Bool) :
    (n = 0 → a48.toFloat f m x nan a.toNat = (Ref.signed f z, 0)) ∧
    Ref.deliveredAs f m x ((if z then -(n : Int) else n) * Ref.unit f) d
      (if nan = true ∧ f ≠ fp4 then f.nanBits else Ref.largest f ((if z then -(n : Int) else n) * Ref.unit f)) (a48.toFloat f m x nan a.toNat) := by
  obtain ⟨-, hd, -, -, -, -⟩ := h.dy
  refine ⟨fun hn => ?_, ?_⟩
  · subst hn
    rw [toFloat_of_zero _ _ _ h, Fmt.sign_eq]
  · by_cases hn : n = 0
    · subst hn
      intro h0
      exact absurd (by simp) h0
    · obtain ⟨k, e, hk, hmeas, hfloat⟩ := toFloat_of_num m x nan hf hn h
      have hsign : decide ((if z then -(n : Int) else n) * Ref.unit f < 0) = z := by
        rw [Bool.eq_iff_iff, decide_eq_true_iff]
        exact Ref.scaled_neg z hn Ref.unit_pos
      have hdel := Fmt.finish_delivered (mode := m) (n := (if z then -(n : Int) else n) * Ref.unit f) hf hk hd
        (by rw [Ref.natAbs_scaled]; exact hmeas) hx (if nan then .nan else .largest)
      rw [Fmt.over_signed hnan, hsign] at hdel
      rw [hfloat]
      exact hdel

end Sys2Proof.Machine
end

section
/-! PROOFS. The matrix engine takes its commands, or holds them (R51, R234, R245). -/

namespace Sys2Proof.Machine

/-! ## Taking -/

/-- The engine's queues after a command has left them. -/
def Matrix.popped (x : Matrix) (a b : List Cmd) (n : Nat) : Matrix := { x with mq0 := a, mq1 := b, streak := n }

/-- The engine with a command that goes into execution. -/
def Matrix.taken (m : Cmd) (x : Matrix) : Matrix := { x with runs := x.runs ++ [{ cmd := m }] }

theorem State.matrixExec_eq (s : State) (c : Nat) (m : Cmd) :
    s.matrixExec c m = s.modCell c fun d => { d with matrix := d.matrix.taken m } :=
  State.modCell_congr s c (f := fun d => { d with matrix := { d.matrix with runs := (s.cell c).matrix.runs ++ [{ cmd := m }] } }) rfl

/-- A command that a hazard holds (R245). -/
def Cell.holds (d : Cell) (m : Cmd) : Prop :=
  (m.op = .mwld ∧ d.matrix.bankBusy m = true) ∨ ((m.op = .macc ∨ m.op = .mdrain) ∧ d.rowsBusy m = true)

theorem Matrix.next_first {x : Matrix} {m : Cmd} {q : List Cmd} (h : x.mq0 = m :: q) (hq : x.mq1 = [] ∨ x.streak < 15) :
    x.next = some (m, x.popped q x.mq1 (x.streak + 1)) := by
  unfold Matrix.next
  rw [h]
  cases h1 : x.mq1 with
  | nil => rfl
  | cons n p =>
    rw [h1] at hq
    dsimp only
    rw [if_pos (hq.resolve_left (List.cons_ne_nil n p))]
    rfl

theorem Matrix.next_second {x : Matrix} {m : Cmd} {q : List Cmd} (h : x.mq1 = m :: q) (hq : x.mq0 = [] ∨ 15 ≤ x.streak) :
    x.next = some (m, x.popped x.mq0 q 0) := by
  unfold Matrix.next
  rw [h]
  cases h0 : x.mq0 with
  | nil => rfl
  | cons n p =>
    rw [h0] at hq
    dsimp only
    rw [if_neg (Nat.not_lt.mpr (hq.resolve_left (List.cons_ne_nil n p)))]
    rfl

section
variable {s : State} {c : Nat}

/-- The cell without the command that its engine has taken. -/
def State.matrixPopped (s : State) (c : Nat) (m : Cmd) (y : Matrix) : State := (s.modCell c fun d => { d with matrix := y }).retainCmd c m

theorem State.matrixPopped_spec (m : Cmd) (y : Matrix) :
    OnlyAt s c (s.matrixPopped c m y) ∧ { (s.matrixPopped c m y).cell c with retained := (s.cell c).retained } = { s.cell c with matrix := y } := by
  unfold State.matrixPopped State.retainCmd State.retain
  rw [State.modCell_modCell]
  refine ⟨onlyAt_modCell .., ?_⟩
  rw [State.cell_modCell]

/-- A change of the engine of a cell that alone was changed. -/
theorem onlyAt_matrix {u : State} (h : OnlyAt s c u) (f : Matrix → Matrix) :
    OnlyAt s c (u.modCell c fun d => { d with matrix := f d.matrix }) ∧
      ((u.modCell c fun d => { d with matrix := f d.matrix }).cell c).matrix = f (u.cell c).matrix := by
  refine ⟨⟨h.rest, fun z hz => ?_⟩, ?_⟩
  · rw [State.cell_modCell_other _ _ _ _ hz]
    exact h.others z hz
  · rw [State.cell_modCell]

theorem execMatrixTake_idle (h : (s.cell c).matrix.unworked ≠ none ∨ (s.cell c).matrix.heldLoad ≠ none ∨ (s.cell c).matrix.heldRows ≠ none) :
    exec (.matrixTake c) s = .next s := by
  refine congrArg Host.Outcome.next (if_pos ?_)
  simp only [Bool.or_eq_true, Option.isSome_iff_ne_none]
  tauto

variable (hload : (s.cell c).matrix.heldLoad = none) (hrows : (s.cell c).matrix.heldRows = none) (hwork : (s.cell c).matrix.unworked = none)
  (hdrain : (s.cell c).matrix.runs.any s.draining = false) (hruns : s.runs c = true)
  {m : Cmd} {a b : List Cmd} {n : Nat} (hnext : (s.cell c).matrix.next = some (m, (s.cell c).matrix.popped a b n))
include hload hrows hwork hdrain hruns hnext

theorem execMatrixTake_eq : exec (.matrixTake c) s = .next (
    let u := s.matrixPopped c m ((s.cell c).matrix.popped a b n)
    if m.op = .mwld && (s.cell c).matrix.bankBusy m then u.modCell c fun d => { d with matrix := { d.matrix with heldLoad := some m } }
    else if (m.op = .macc || m.op = .mdrain) && (u.cell c).rowsBusy m then
      u.modCell c fun d => { d with matrix := { d.matrix with heldRows := some m } }
    else u.matrixExec c m) := by
  change execMatrixTake c s = _
  unfold execMatrixTake
  simp only [hload, hrows, hwork, hdrain, hruns, hnext, Option.isSome_none, Bool.not_true, Bool.or_self, Bool.false_eq_true, if_false]
  rfl

/-- A command that no hazard holds goes into execution; another one is held. -/
theorem execMatrixTake_pops :
    ((s.cell c).holds m → ∃ t, exec (.matrixTake c) s = .next t ∧ OnlyAt s c t ∧ (t.cell c).matrix =
      if m.op = .mwld then { (s.cell c).matrix.popped a b n with heldLoad := some m } else { (s.cell c).matrix.popped a b n with heldRows := some m }) ∧
    (¬ (s.cell c).holds m → ∃ t, exec (.matrixTake c) s = .next t ∧ OnlyAt s c t ∧ (t.cell c).matrix =
      { (s.cell c).matrix.popped a b n with runs := (s.cell c).matrix.runs ++ [{ cmd := m }] }) := by
  have htake := execMatrixTake_eq hload hrows hwork hdrain hruns hnext
  obtain ⟨honly, hcell⟩ := State.matrixPopped_spec (s := s) (c := c) m ((s.cell c).matrix.popped a b n)
  generalize s.matrixPopped c m ((s.cell c).matrix.popped a b n) = u at htake honly hcell
  have hmatrix : (u.cell c).matrix = (s.cell c).matrix.popped a b n := (congrArg Cell.matrix hcell :)
  have hbusy : (u.cell c).rowsBusy m = (s.cell c).rowsBusy m := by
    have h : ({ u.cell c with retained := (s.cell c).retained } : Cell).rowsBusy m =
      ({ s.cell c with matrix := (s.cell c).matrix.popped a b n } : Cell).rowsBusy m := congrArg (Cell.rowsBusy · m) hcell
    exact h
  obtain ⟨hl, hlm⟩ := onlyAt_matrix honly fun y => { y with heldLoad := some m }
  obtain ⟨hr, hrm⟩ := onlyAt_matrix honly fun y => { y with heldRows := some m }
  obtain ⟨he, hem⟩ := onlyAt_matrix honly (Matrix.taken m)
  rw [← State.matrixExec_eq] at he hem
  rw [hmatrix] at hlm hrm hem
  dsimp only at htake
  rw [hbusy] at htake
  unfold Cell.holds
  constructor
  · rintro (⟨hop, hb⟩ | ⟨hop, hb⟩)
    · rw [if_pos (by rw [hb, decide_eq_true hop]; rfl)] at htake
      exact ⟨_, htake, hl, by rw [if_pos hop]; exact hlm⟩
    · have hne : m.op ≠ .mwld := by
        rcases hop with hop | hop
        · rw [hop]; decide
        · rw [hop]; decide
      rw [if_neg (by rw [decide_eq_false hne, Bool.false_and]; exact Bool.false_ne_true),
        if_pos (by simp only [hb, Bool.and_true, Bool.or_eq_true, decide_eq_true_eq]; exact hop)] at htake
      exact ⟨_, htake, hr, by rw [if_neg hne]; exact hrm⟩
  · intro hno
    rw [if_neg (by simp only [Bool.and_eq_true, decide_eq_true_eq]; exact fun h => hno (.inl h)),
      if_neg (by simp only [Bool.and_eq_true, Bool.or_eq_true, decide_eq_true_eq]; exact fun h => hno (.inr h))] at htake
    exact ⟨_, htake, he, hem⟩

end

/-! ## The ends of the hazards (R245) -/

/-- The command that was held goes into execution. -/
theorem onlyAt_unheld (s : State) (c : Nat) (f : Matrix → Matrix) (m : Cmd) :
    OnlyAt s c ((s.modCell c fun d => { d with matrix := f d.matrix }).matrixExec c m) ∧
      (((s.modCell c fun d => { d with matrix := f d.matrix }).matrixExec c m).cell c).matrix = (f (s.cell c).matrix).taken m := by
  obtain ⟨h1, hm1⟩ := onlyAt_matrix (s := s) (u := s) (c := c) ⟨rfl, fun _ _ => rfl⟩ f
  rw [← hm1, State.matrixExec_eq]
  exact onlyAt_matrix h1 (Matrix.taken m)

section
variable {s : State} {c : Nat} {m : Cmd} (hruns : s.runs c = true)
include hruns

theorem execMwldBankFree_busy (hm : (s.cell c).matrix.heldLoad = some m) (hb : (s.cell c).matrix.bankBusy m = true) :
    exec (.mwldBankFree c) s = .next s := by
  change execMwldBankFree c s = _
  simp only [execMwldBankFree, hm, hruns, hb, Bool.not_true, Bool.and_false, Bool.false_eq_true, if_false]

theorem execAccumulatorHazardEnd_busy (hm : (s.cell c).matrix.heldRows = some m) (hb : (s.cell c).rowsBusy m = true) :
    exec (.accumulatorHazardEnd c) s = .next s := by
  change execAccumulatorHazardEnd c s = _
  simp only [execAccumulatorHazardEnd, hm, hruns, hb, Bool.not_true, Bool.and_false, Bool.false_eq_true, if_false]

theorem execMwldBankFree_free (hm : (s.cell c).matrix.heldLoad = some m) (hb : (s.cell c).matrix.bankBusy m = false) :
    ∃ t, exec (.mwldBankFree c) s = .next t ∧ OnlyAt s c t ∧
      (t.cell c).matrix = { (s.cell c).matrix with heldLoad := none, runs := (s.cell c).matrix.runs ++ [{ cmd := m }] } := by
  refine ⟨_, ?_, onlyAt_unheld s c (fun y => { y with heldLoad := none }) m⟩
  change execMwldBankFree c s = _
  simp only [execMwldBankFree, hm, hruns, hb, Bool.not_false, Bool.and_true, if_true]

theorem execAccumulatorHazardEnd_free (hm : (s.cell c).matrix.heldRows = some m) (hb : (s.cell c).rowsBusy m = false) :
    ∃ t, exec (.accumulatorHazardEnd c) s = .next t ∧ OnlyAt s c t ∧
      (t.cell c).matrix = { (s.cell c).matrix with heldRows := none, runs := (s.cell c).matrix.runs ++ [{ cmd := m }] } := by
  refine ⟨_, ?_, onlyAt_unheld s c (fun y => { y with heldRows := none }) m⟩
  change execAccumulatorHazardEnd c s = _
  simp only [execAccumulatorHazardEnd, hm, hruns, hb, Bool.not_false, Bool.and_true, if_true]

end

end Sys2Proof.Machine
end

section
/-! PROOFS. The matrix engine carries out a weight load, a preload and a run (R121, R206, R246 to R250). -/

namespace Sys2Proof.Machine

/-! ## Boxes of accumulator words -/

/-- The first `cols` words of a row replaced by what `g` makes of each, its flags gathered. -/
def setRow (r cols : Nat) (g : Nat → BitVec 48 → BitVec 48 × Fl) (a : Tbl (BitVec 48) × Fl) : Tbl (BitVec 48) × Fl :=
  (List.range cols).foldl (fun a n => (a.1.set 0 (r * 64 + n) (g n (a.1.getD (r * 64 + n) 0)).1, a.2 ||| (g n (a.1.getD (r * 64 + n) 0)).2)) a

/-- The same for rows from `first` on. -/
def setBox (first rows cols : Nat) (g : Nat → Nat → BitVec 48 → BitVec 48 × Fl) (a : Tbl (BitVec 48) × Fl) : Tbl (BitVec 48) × Fl :=
  (List.range rows).foldl (fun a i => setRow (first + i) cols (g i) a) a

theorem setRow_getD {cols : Nat} (r : Nat) (g : Nat → BitVec 48 → BitVec 48 × Fl) (a : Tbl (BitVec 48) × Fl) (hcols : cols ≤ 64) {n : Nat}
    (hn : n < 64) (i : Nat) : (setRow r cols g a).1.getD (i * 64 + n) 0 =
      if i = r ∧ n < cols then (g n (a.1.getD (i * 64 + n) 0)).1 else a.1.getD (i * 64 + n) 0 := by
  induction cols with
  | zero => exact (if_neg fun h => Nat.not_lt_zero n h.2).symm
  | succ k ih =>
    have ih := ih (by omega)
    have hstep : setRow r (k + 1) g a = ((setRow r k g a).1.set 0 (r * 64 + k) (g k ((setRow r k g a).1.getD (r * 64 + k) 0)).1,
        (setRow r k g a).2 ||| (g k ((setRow r k g a).1.getD (r * 64 + k) 0)).2) := by
      simp only [setRow, List.range_succ, List.foldl_append, List.foldl_cons, List.foldl_nil]
    rw [hstep]
    by_cases h : i = r ∧ n = k
    · obtain ⟨rfl, rfl⟩ := h
      rw [Tbl.getD_set_same, ih, if_neg (fun h => Nat.lt_irrefl n h.2), if_pos ⟨rfl, Nat.lt_succ_self n⟩]
    · rw [Tbl.getD_set_other _ _ _ _ _ (by omega), ih]
      have hiff : (i = r ∧ n < k) ↔ (i = r ∧ n < k + 1) := by omega
      simp only [hiff]

theorem setBox_getD (first rows : Nat) {cols : Nat} (g : Nat → Nat → BitVec 48 → BitVec 48 × Fl) (a : Tbl (BitVec 48) × Fl) (hcols : cols ≤ 64)
    {n : Nat} (hn : n < 64) (i : Nat) : (setBox first rows cols g a).1.getD (i * 64 + n) 0 =
      if first ≤ i ∧ i < first + rows ∧ n < cols then (g (i - first) n (a.1.getD (i * 64 + n) 0)).1 else a.1.getD (i * 64 + n) 0 := by
  induction rows with
  | zero => exact (if_neg (by omega)).symm
  | succ k ih =>
    have hstep : setBox first (k + 1) cols g a = setRow (first + k) cols (g k) (setBox first k cols g a) := by
      simp only [setBox, List.range_succ, List.foldl_append, List.foldl_cons, List.foldl_nil]
    rw [hstep, setRow_getD _ _ _ hcols hn, ih]
    by_cases h : i = first + k
    · subst h
      rw [if_neg (by omega : ¬ (first ≤ first + k ∧ first + k < first + k ∧ n < cols)), Nat.add_sub_cancel_left]
      exact if_congr (by omega) rfl rfl
    · have hiff : (first ≤ i ∧ i < first + k ∧ n < cols) ↔ (first ≤ i ∧ i < first + (k + 1) ∧ n < cols) := by omega
      rw [if_neg (fun hc => h hc.1)]
      exact if_congr hiff rfl rfl

/-! ## Checks that pass -/

theorem need_bind_ok {α : Type} {b : Bool} {code : FaultCode} {d : Word} {f : Chk α} {a : α} (h : (do need b code d; f) = .ok a) :
    f = .ok a := by
  cases b with
  | false => cases h
  | true => exact h

theorem ok_bind {α β : Type} (a : α) (f : α → Chk β) : ((Except.ok a : Chk α) >>= f) = f a := rfl

theorem Cell.readBy_matrix (c : Cell) (uid : Nat) : (c.readBy uid).matrix = c.matrix := by
  unfold Cell.readBy
  split
  · rfl
  · rfl

/-- MACC without a tile (R247). -/
theorem maccRows_clears {c : Cell} {w : List Word} {p : Tbl (BitVec 48) × Fl × Bool} (hb : bit (w.getD 1 0) 0 = false)
    (h : maccRows c w = .ok p) : p.1 = (setBox (bits (w.getD 0 0) 0 8) (bits (w.getD 0 0) 8 8 + 1) (bits (w.getD 0 0) 16 6 + 1)
      (fun _ _ _ => (0, 0)) (c.matrix.acc, 0)).1 := by
  unfold maccRows at h
  simp only [hb, Bool.not_false, if_true] at h
  rw [← Except.ok.inj (need_bind_ok (need_bind_ok (need_bind_ok h)))]
  simp only [setBox, setRow]

/-- MACC of a tile (R247). -/
theorem maccRows_loads {c : Cell} {w : List Word} {p : Tbl (BitVec 48) × Fl × Bool} {t : Tile} (hb : bit (w.getD 1 0) 0 = true)
    (ht : c.operand (w.getD 2 0) = .ok t) (h : maccRows c w = .ok p) :
    p.1 = (setBox (bits (w.getD 0 0) 0 8) (bits (w.getD 0 0) 8 8 + 1) (bits (w.getD 0 0) 16 6 + 1)
      (fun i n _ => (preload t.fmt (t.at2 i n)).getD (0, 0)) (c.matrix.acc, 0)).1 ∧
    p.2.2 = t.taints (bits (w.getD 0 0) 8 8 + 1) (bits (w.getD 0 0) 16 6 + 1) := by
  unfold maccRows at h
  simp only [hb, Bool.not_true, Bool.false_eq_true, if_false, ht, ok_bind] at h
  have hp := Except.ok.inj (need_bind_ok (need_bind_ok (need_bind_ok h)))
  constructor
  · rw [← hp]
    simp only [setBox, setRow]
  · rw [← hp]

/-! ## What carrying out a command changes -/

/-- The log of an uncorrectable element changes memory and the log ring alone. -/
theorem State.logBad_spec (s : State) (r : Run) (h : Option Word) :
    { (s.logBad r h).1 with mem := s.mem, errRing := s.errRing } = s ∧ { (s.logBad r h).2 with logged := r.logged } = r := by
  unfold State.logBad
  split
  · exact ⟨rfl, rfl⟩
  · unfold State.poisonRec
    split
    · exact ⟨rfl, rfl⟩
    · refine ⟨?_, rfl⟩
      obtain ⟨m, q, h, -⟩ := s.errRec_spec 0x05 (s.cx r.cmd.who.cell r.cmd.who.ctx).part r.cmd.who.cell r.cmd.who.ctx ‹Word› 0
      rw [h]

/-- The commands in execution with one of them replaced. -/
def Matrix.withRun (x : Matrix) (uid : Nat) (r : Run) : List Run := x.runs.map fun p => if p.cmd.uid = uid then r else p

/-- A command of the engine has been carried out: the engine is `y` but for its commands, of which that one is now `r`. -/
structure Worked (s : State) (c : Nat) (m : Cmd) (y : Matrix) (r : Run) (t : State) : Prop where
  cell : t.cell c = { s.cell c with matrix := { y with runs := (s.cell c).matrix.withRun m.uid r } }
  ops : t.ops = s.ops
  net : t.net = s.net

section
variable {s : State} {c : Nat} {r : Run}

theorem filterMap_replaced (l : List Run) (uid : Nat) (q : Run) :
    (l.filterMap fun p => if p.cmd.uid = uid then some q else some p) = l.map fun p => if p.cmd.uid = uid then q else p := by
  rw [← List.filterMap_eq_map]
  refine List.filterMap_congr fun p _ => ?_
  simp only [Function.comp]
  split
  · rfl
  · rfl

theorem State.matrixWork_ok {u : State} {q : Run} (hwork : (s.cell c).matrix.unworked = some r) (hruns : s.runs c = true)
    (hdo : s.matrixDo c r.cmd = .ok (u, q)) :
    s.matrixWork c = u.setRuns c ((u.cell c).matrix.withRun r.cmd.uid q) := by
  unfold State.matrixWork
  rw [if_pos hruns, hwork]
  simp only [hdo]
  rw [Matrix.withRun, ← filterMap_replaced]

/-- A command that changes the engine and logs what it met. -/
theorem State.matrixWork_logged {y : Matrix} {q : Run} {h : Option Word} (hwork : (s.cell c).matrix.unworked = some r) (hruns : s.runs c = true)
    (hdo : s.matrixDo c r.cmd = .ok ((s.modCell c fun d => { d with matrix := y }).logBad q h)) (hy : y.runs = (s.cell c).matrix.runs) :
    ∃ b, Worked s c r.cmd y { q with logged := b } (s.matrixWork c) := by
  obtain ⟨hstate, hrun⟩ := State.logBad_spec (s.modCell c fun d => { d with matrix := y }) q h
  generalize (s.modCell c fun d => { d with matrix := y }).logBad q h = p at hdo hstate hrun
  obtain ⟨u, q'⟩ := p
  have hcells : u.cells = (s.modCell c fun d => { d with matrix := y }).cells := (congrArg State.cells hstate :)
  have hcell : u.cell c = { s.cell c with matrix := y } := State.cell_of_cells hcells
  have hq : q' = { q with logged := q'.logged } := (congrArg (fun z : Run => { z with logged := q'.logged }) hrun :)
  refine ⟨q'.logged, ?_⟩
  rw [State.matrixWork_ok hwork hruns hdo, ← hq]
  refine ⟨?_, (congrArg State.ops hstate :), (congrArg State.net hstate :)⟩
  rw [State.setRuns, State.cell_modCell, hcell, Matrix.withRun, Matrix.withRun, hy]

end

/-! ## The three commands -/

section
variable {s : State} {c : Nat} {m : Cmd}

/-- The engine with a bank latched (R246). -/
def Matrix.latched (x : Matrix) (second : Bool) (b : Bank) : Matrix := if second then { x with wb1 := b } else { x with wb0 := b }

/-- The run of a command that has been carried out. -/
def doneRun (m : Cmd) (count : Nat) (fl : Fl) (poisoned : Bool) (span : Nat × Nat) : Run :=
  { cmd := m, count := count, flags := fl, poisoned := poisoned, ready := true, span := span, worked := true }

theorem matrixDo_mwld {b : Bank} (hop : m.op = .mwld) (hb : mwldBank ((s.cell c).readBy m.uid) m.recw = .ok b) : ∃ h, s.matrixDo c m =
    .ok ((s.modCell c fun d => { d with matrix := (s.cell c).matrix.latched (bit (m.recw.getD 3 0) 16) b }).logBad
      (doneRun m (b.k * b.n) 0 b.poison (0, 0)) h) := by
  apply Exists.intro
  unfold State.matrixDo
  simp only [hop, hb]
  exact congrArg (fun t : State => Except.ok (t.logBad _ _)) (State.modCell_congr s c rfl)

theorem matrixDo_macc {p : Tbl (BitVec 48) × Fl × Bool} (hop : m.op = .macc) (hp : maccRows ((s.cell c).readBy m.uid) m.recw = .ok p) :
    ∃ k h, s.matrixDo c m = .ok ((s.modCell c fun d => { d with matrix := { (s.cell c).matrix with acc := p.1, marks := k } }).logBad
      (doneRun m (bits (m.recw.getD 0 0) 8 8 + 1) p.2.1 p.2.2 (bits (m.recw.getD 0 0) 0 8, bits (m.recw.getD 0 0) 8 8 + 1)) h) := by
  apply Exists.intro
  apply Exists.intro
  unfold State.matrixDo
  simp only [hop, hp]
  exact congrArg (fun t : State => Except.ok (t.logBad _ _)) (State.modCell_congr s c rfl)

theorem matrixDo_mrun {q : Mrun} (hop : m.op = .mrun) (hq : mrunChecks ((s.cell c).readBy m.uid) m.who.ctx m.recw = .ok q) :
    ∃ k h, s.matrixDo c m = .ok ((s.modCell c fun d => { d with matrix := { (s.cell c).matrix with
      acc := (q.run (s.cell c).matrix).1, products := q.products, marks := k } }).logBad
      (doneRun m q.m (q.run (s.cell c).matrix).2 q.poisoned (q.first, q.m)) h) := by
  apply Exists.intro
  apply Exists.intro
  unfold State.matrixDo
  simp only [hop, hq]
  rw [Cell.readBy_matrix]
  exact congrArg (fun t : State => Except.ok (t.logBad _ _)) (State.modCell_congr s c rfl)

end

theorem Mrun.run_eq (q : Mrun) (x : Matrix) : q.run x = setBox q.first q.m q.bank.n (fun i n a => q.cell a i n) (x.acc, 0) := rfl

end Sys2Proof.Machine
end

section
/-! PROOFS. What the engine's commands leave behind (R121, R206, R246 to R250). -/

namespace Sys2Proof.Machine

/-- A weight load, a preload or a run has been carried out with its results. -/
def Ran (s : State) (c : Nat) (m : Cmd) (t : State) : Prop :=
  let d := s.cell c
  let x := d.matrix
  let g := fun (m : Cmd) (i : Nat) => m.recw.getD i 0
  let a := fun (m : Cmd) => d.readBy m.uid
  let word := fun (k : Cell) (i n : Nat) => k.matrix.acc.getD (i * 64 + n) 0
  ∃ r, (t.cell c).matrix.runs = x.withRun m.uid r ∧ r.cmd = m ∧ r.worked = true ∧
    r.ready = true ∧ r.failed = none ∧ (t.cell c).lane = d.lane ∧ (t.cell c).slots = d.slots ∧ t.ops = s.ops ∧ t.net = s.net ∧
    (m.op ≠ .mwld → (t.cell c).matrix.wb0 = x.wb0 ∧ (t.cell c).matrix.wb1 = x.wb1) ∧
    (m.op = .mwld ∨ m.op = .mdrain → (t.cell c).matrix.acc = x.acc) ∧
    (∀ b, m.op = .mwld → mwldBank (a m) m.recw = .ok b → r.count = b.k * b.n ∧ r.poisoned = b.poison ∧
      (bit (g m 3) 16 = false → (t.cell c).matrix.wb0 = b ∧ (t.cell c).matrix.wb1 = x.wb1) ∧
      (bit (g m 3) 16 = true → (t.cell c).matrix.wb1 = b ∧ (t.cell c).matrix.wb0 = x.wb0)) ∧
    (m.op = .macc → bit (g m 1) 0 = false → r.count = bits (g m 0) 8 8 + 1 ∧ ∀ i n, n < 64 → word (t.cell c) i n =
      if bits (g m 0) 0 8 ≤ i ∧ i ≤ bits (g m 0) 0 8 + bits (g m 0) 8 8 ∧ n ≤ bits (g m 0) 16 6 then 0 else word d i n) ∧
    (∀ p, m.op = .macc → bit (g m 1) 0 = true → (a m).operand (g m 2) = .ok p → r.count = bits (g m 0) 8 8 + 1 ∧
      r.poisoned = p.taints (bits (g m 0) 8 8 + 1) (bits (g m 0) 16 6 + 1) ∧ ∀ i n, n < 64 → word (t.cell c) i n =
      if bits (g m 0) 0 8 ≤ i ∧ i ≤ bits (g m 0) 0 8 + bits (g m 0) 8 8 ∧ n ≤ bits (g m 0) 16 6 then
        ((preload p.fmt (p.at2 (i - bits (g m 0) 0 8) n)).getD (0, 0)).1
      else word d i n) ∧
    (∀ q, m.op = .mrun → mrunChecks (a m) m.who.ctx m.recw = .ok q → q.bank.n ≤ 64 → r.count = q.m ∧ r.poisoned = q.poisoned ∧
      (t.cell c).matrix.products = q.products ∧ ∀ i n, n < 64 → word (t.cell c) i n =
      if q.first ≤ i ∧ i < q.first + q.m ∧ n < q.bank.n then (q.cell (word d i n) (i - q.first) n).1 else word d i n)

theorem bits_six_lt (w : Word) (i : Nat) : bits w i 6 + 1 ≤ 64 := Nat.mod_lt _ (by decide)

section
variable {s : State} {c : Nat} {m : Cmd} {y : Matrix} {r : Run} {t : State} (h : Worked s c m y r t)
include h

theorem Worked.matrix : (t.cell c).matrix = { y with runs := (s.cell c).matrix.withRun m.uid r } := (congrArg Cell.matrix h.cell :)
theorem Worked.runs : (t.cell c).matrix.runs = (s.cell c).matrix.withRun m.uid r := (congrArg Matrix.runs h.matrix :)
theorem Worked.lane : (t.cell c).lane = (s.cell c).lane := (congrArg Cell.lane h.cell :)
theorem Worked.slots : (t.cell c).slots = (s.cell c).slots := (congrArg Cell.slots h.cell :)

end

section
variable {s : State} {c : Nat} {r : Run} (hwork : (s.cell c).matrix.unworked = some r) (hruns : s.runs c = true)
include hwork hruns

theorem ran_mwld {b : Bank} (hop : r.cmd.op = .mwld) (hb : mwldBank ((s.cell c).readBy r.cmd.uid) r.cmd.recw = .ok b) :
    Ran s c r.cmd (s.matrixWork c) := by
  obtain ⟨h, hdo⟩ := matrixDo_mwld (c := c) hop hb
  have hkeeps : ((s.cell c).matrix.latched (bit (r.cmd.recw.getD 3 0) 16) b).runs = (s.cell c).matrix.runs ∧
      ((s.cell c).matrix.latched (bit (r.cmd.recw.getD 3 0) 16) b).acc = (s.cell c).matrix.acc := by
    unfold Matrix.latched
    split
    · exact ⟨rfl, rfl⟩
    · exact ⟨rfl, rfl⟩
  obtain ⟨l, hw⟩ := State.matrixWork_logged hwork hruns hdo hkeeps.1
  refine ⟨_, hw.runs, rfl, rfl, rfl, rfl, hw.lane, hw.slots, hw.ops, hw.net, fun h => absurd hop h, fun _ => ?_, fun b' _ hb' => ?_,
    fun h => ?_, fun _ h => ?_, fun _ h => ?_⟩
  · rw [hw.matrix]
    exact hkeeps.2
  · obtain rfl : b = b' := Except.ok.inj (hb.symm.trans hb')
    rw [hw.matrix]
    refine ⟨rfl, rfl, fun h0 => ?_, fun h1 => ?_⟩
    · rw [show bit (r.cmd.recw.getD 3 0) 16 = false from h0]
      exact ⟨rfl, rfl⟩
    · rw [show bit (r.cmd.recw.getD 3 0) 16 = true from h1]
      exact ⟨rfl, rfl⟩
  · rw [hop] at h; cases h
  · rw [hop] at h; cases h
  · rw [hop] at h; cases h

theorem ran_macc {p : Tbl (BitVec 48) × Fl × Bool} (hop : r.cmd.op = .macc)
    (hp : maccRows ((s.cell c).readBy r.cmd.uid) r.cmd.recw = .ok p) : Ran s c r.cmd (s.matrixWork c) := by
  obtain ⟨k, h, hdo⟩ := matrixDo_macc (c := c) hop hp
  obtain ⟨l, hw⟩ := State.matrixWork_logged hwork hruns hdo rfl
  refine ⟨_, hw.runs, rfl, rfl, rfl, rfl, hw.lane, hw.slots, hw.ops, hw.net, fun _ => ?_, fun h => ?_, fun _ h => ?_,
    fun _ hb => ⟨rfl, fun i n hn => ?_⟩, fun o _ hb ho => ?_, fun _ h => ?_⟩
  · rw [hw.matrix]
    exact ⟨rfl, rfl⟩
  · rw [hop] at h
    rcases h with h | h
    · cases h
    · cases h
  · rw [hop] at h; cases h
  · dsimp only
    rw [hw.matrix]
    rw [maccRows_clears hb hp, Cell.readBy_matrix, setBox_getD _ _ _ _ (bits_six_lt ..) hn]
    exact if_congr (by omega) rfl rfl
  · obtain ⟨hacc, htaint⟩ := maccRows_loads hb ho hp
    refine ⟨rfl, htaint, fun i n hn => ?_⟩
    dsimp only
    rw [hw.matrix]
    rw [hacc, Cell.readBy_matrix, setBox_getD _ _ _ _ (bits_six_lt ..) hn]
    exact if_congr (by omega) rfl rfl
  · rw [hop] at h; cases h

theorem ran_mrun {q : Mrun} (hop : r.cmd.op = .mrun) (hq : mrunChecks ((s.cell c).readBy r.cmd.uid) r.cmd.who.ctx r.cmd.recw = .ok q) :
    Ran s c r.cmd (s.matrixWork c) := by
  obtain ⟨k, h, hdo⟩ := matrixDo_mrun (c := c) hop hq
  obtain ⟨l, hw⟩ := State.matrixWork_logged hwork hruns hdo rfl
  refine ⟨_, hw.runs, rfl, rfl, rfl, rfl, hw.lane, hw.slots, hw.ops, hw.net, fun _ => ?_, fun h => ?_, fun _ h => ?_,
    fun h => ?_, fun _ h => ?_, fun q' _ hq' hn64 => ?_⟩
  · rw [hw.matrix]
    exact ⟨rfl, rfl⟩
  · rw [hop] at h
    rcases h with h | h
    · cases h
    · cases h
  · rw [hop] at h; cases h
  · rw [hop] at h; cases h
  · rw [hop] at h; cases h
  · obtain rfl : q = q' := Except.ok.inj (hq.symm.trans hq')
    refine ⟨rfl, rfl, by rw [hw.matrix], fun i n hn => ?_⟩
    dsimp only
    rw [hw.matrix]
    rw [Mrun.run_eq, setBox_getD _ _ _ _ hn64 hn]

end

end Sys2Proof.Machine
end

section
/-! PROOFS. MDRAIN to a tile (R197, R237, R251). -/

namespace Sys2Proof.Machine

/-! ## Elements of a tile -/

/-- A tile that elements are written into keeps everything but them. -/
theorem Tile.setEls_spec (vs : List Word) : ∀ (t : Tile) (i : Nat),
    { t.setEls i vs with els := t.els, bad := t.bad, unchecked := t.unchecked } = t ∧
    ∀ k, (t.setEls i vs).els.getD k 0 = if i ≤ k then vs.getD (k - i) (t.els.getD k 0) else t.els.getD k 0 := by
  induction vs with
  | nil => exact fun t i => ⟨rfl, fun k => by simp [Tile.setEls]⟩
  | cons v vs ih =>
    intro t i
    obtain ⟨hrest, hels⟩ := ih (t.setEl i v) (i + 1)
    refine ⟨(congrArg (fun u : Tile => { u with els := t.els, bad := t.bad, unchecked := t.unchecked }) hrest :), fun k => ?_⟩
    rw [Tile.setEls, hels]
    by_cases hk : k = i
    · subst hk
      rw [if_neg (by omega), if_pos le_rfl, Nat.sub_self]
      exact Tbl.getD_set_same ..
    · have hother : (t.setEl i v).els.getD k 0 = t.els.getD k 0 := Tbl.getD_set_other _ _ _ _ _ hk
      rw [hother]
      by_cases hle : i ≤ k
      · obtain ⟨j, rfl⟩ := Nat.exists_eq_add_of_lt (Nat.lt_of_le_of_ne hle (Ne.symm hk))
        rw [if_pos (by omega), if_pos hle, show i + j + 1 - (i + 1) = j by omega, show i + j + 1 - i = j + 1 by omega]
        rfl
      · rw [if_neg (by omega), if_neg hle]

/-- Element (a, b) of rows laid out one after another. -/
theorem flatMap_range_getElem? {α : Type} (f : Nat → Nat → α) {rows cols a b : Nat} (ha : a < rows) (hb : b < cols) :
    ((List.range rows).flatMap fun i => (List.range cols).map (f i))[a * cols + b]? = some (f a b) := by
  have hlen : ∀ n, ((List.range n).flatMap fun i => (List.range cols).map (f i)).length = n * cols := fun n => by
    simp [List.length_flatMap]
  induction rows with
  | zero => omega
  | succ n ih =>
    rw [List.range_succ, List.flatMap_append, List.flatMap_singleton]
    rcases Nat.lt_or_ge a n with h | h
    · have hle : (a + 1) * cols ≤ n * cols := Nat.mul_le_mul_right _ h
      rw [Nat.succ_mul] at hle
      rw [List.getElem?_append_left (by rw [hlen]; omega), ih h]
    · obtain rfl : a = n := by omega
      rw [List.getElem?_append_right (by rw [hlen]; omega), hlen, Nat.add_sub_cancel_left, List.getElem?_map, List.getElem?_range hb]
      rfl

/-! ## Converted words (R125, R251) -/

section
variable {float : Bool} {fmt mode : Nat} {nan : Bool} (hmode : mode ≠ 4)
include hmode

/-- Without stochastic rounding nothing is drawn. -/
theorem drainRow_map (as : List (BitVec 48)) : ∀ (n : Nat) (g : Gens), (drainRow float fmt mode nan n as g).1 =
    as.map (fun a => word (drainEl float fmt mode 0 nan a).1) ∧ (drainRow float fmt mode nan n as g).2.1 = g := by
  have hdraw : ∀ g n, draw (mode == 4) g n = (0, g) := fun g n => if_neg (by simpa using hmode)
  induction as with
  | nil => exact fun n g => ⟨rfl, rfl⟩
  | cons a as ih =>
    intro n g
    obtain ⟨hl, hg⟩ := ih (n + 1) g
    unfold drainRow
    simp only [hdraw]
    exact ⟨congrArg (List.cons _) hl, hg⟩

theorem drainRows_map (rows : List (List (BitVec 48))) (g : Gens) : (drainRows float fmt mode nan rows g).1 =
    rows.map fun as => as.map fun a => word (drainEl float fmt mode 0 nan a).1 := by
  induction rows with
  | nil => rfl
  | cons as rows ih =>
    obtain ⟨hl, hg⟩ := drainRow_map (float := float) (fmt := fmt) (nan := nan) hmode as 0 g
    unfold drainRows
    dsimp only
    rw [hl, hg, ih]
    rfl

end

/-! ## The tile -/

theorem drainSpan_readBy (c : Cell) (uid ctx : Nat) (w : List Word) : drainSpan (c.readBy uid) ctx w = drainSpan c ctx w := by
  unfold drainSpan
  rw [Cell.readBy_matrix]

/-- What an allocation puts into the entry that it takes (R197). -/
theorem Heap.alloc_tile {p h : Heap} {t : Tile} {i : Nat} (ha : p.alloc t = .ok (i, h)) : ∃ g b, h.tiles.getD i {} =
    { t with live := true, gen := g, blocks := b } := by
  unfold Heap.alloc at ha
  split at ha
  · cases ha
  · dsimp only at ha
    split at ha
    · cases ha
    · cases ha
      exact ⟨_, _, Tbl.getD_put_same ..⟩

/-- The products that a drain leaves open (R250). -/
def Matrix.closed (x : Matrix) (ctx pid : Nat) : Matrix := { x with products := x.products.filter fun q => !(q.ctx == ctx && q.pid == pid) }

/-- The words that a drain reads, by row and column. -/
def Matrix.drained (x : Matrix) (first n cols : Nat) : List (List (BitVec 48)) :=
  (List.range n).map fun i => (List.range cols).map fun j => x.word48 (first + i) j

/-- The tile that a command makes, hidden. -/
def hiddenTile (m : Cmd) (fmt rows cols : Nat) : Tile :=
  { ctx := m.who.ctx
    fmt := fmt
    rows := rows
    cols := cols
    count := 1
    hidden := true
    region := regionOf m.who.tag }

theorem State.makeTile_ok {s : State} {d : Nat} {m : Cmd} {fmt rows cols i : Nat} {h : Heap}
    (ha : (s.cell d).heap.alloc (hiddenTile m fmt rows cols) = .ok (i, h)) (r : Run) (hr : r.cmd = m) : s.makeTile d r fmt rows cols =
    .ok (s.modCell d fun c => { c with heap := h }, { r with made := some (d, i, (h.tiles.getD i {}).gen) }) := by
  have hgen : ((s.modCell d fun c => { c with heap := h }).cell d).tile i = h.tiles.getD i {} :=
    congrArg (fun c : Cell => c.tile i) (State.cell_modCell ..)
  rw [← hgen]
  subst hr
  unfold hiddenTile at ha
  unfold State.makeTile
  simp only [ha]

/-- The tile that a drain of `n` rows makes. -/
def drainTile (m : Cmd) (n : Nat) : Tile := hiddenTile m (bits (m.recw.getD 1 0) 4 4) n (bits (m.recw.getD 0 0) 16 6 + 1)

section
variable {s : State} {c : Nat} {m : Cmd} {first n : Nat} {cls : Option Bool} {float : Bool} {i : Nat} {h : Heap}

/-- The new tile filled on the cell. -/
def Cell.drainedTo (d : Cell) (h : Heap) (i : Nat) (els : List Word) (ctx pid : Nat) : Cell :=
  { d with heap := { h with tiles := h.tiles.put i ((h.tiles.getD i {}).setEls 0 els) }, matrix := d.matrix.closed ctx pid }

theorem Cell.tile_drainedTo (d : Cell) (h : Heap) (i : Nat) (els : List Word) (ctx pid : Nat) (y : Matrix) :
    ({ d.drainedTo h i els ctx pid with matrix := y } : Cell).tile i = (h.tiles.getD i {}).setEls 0 els := Tbl.getD_put_same ..

theorem State.filled_closed (s : State) {r : Run} {g : BitVec 8} {els : List Word} {ctx pid : Nat} (hr : r.made = some (c, i, g)) :
    (((s.modCell c fun d => { d with heap := h }).fillMade r els).modCell c fun d => { d with matrix := d.matrix.closed ctx pid }) =
      s.modCell c fun d => d.drainedTo h i els ctx pid := by
  unfold State.fillMade
  rw [hr]
  simp only [State.modTile, State.modCell_modCell]
  rfl

theorem matrixDo_mdrain (hop : m.op = .mdrain) (honly : only (m.recw.getD 0 0) [(0, 8), (8, 8), (16, 6), (32, 8)] = true)
    (hspan : drainSpan (s.cell c) m.who.ctx m.recw = .ok (first, n, cls))
    (hdest : destChecks (s.cx c m.who.ctx).place.length (m.recw.getD 1 0) (m.recw.getD 2 0) cls = .ok float)
    (hkind : bit (m.recw.getD 1 0) 0 = false)
    (halloc : (s.cell c).heap.alloc (drainTile m n) = .ok (i, h)) :
    ∃ fl, s.matrixDo c m = .ok (s.modCell c fun d => d.drainedTo h i
        (drainRows float (bits (m.recw.getD 1 0) 4 4) (bits (m.recw.getD 1 0) 8 3) (bit (m.recw.getD 1 0) 11)
          ((s.cell c).matrix.drained first n (bits (m.recw.getD 0 0) 16 6 + 1)) (seedAll m.seed)).1.flatten m.who.ctx (bits (m.recw.getD 0 0) 32 8),
      { doneRun m n fl ((List.range n).any fun j => (s.cell c).matrix.marks.contains (first + j)) (0, 0) with
        made := some (c, i, (h.tiles.getD i {}).gen) }) := by
  refine ⟨(drainRows float (bits (m.recw.getD 1 0) 4 4) (bits (m.recw.getD 1 0) 8 3) (bit (m.recw.getD 1 0) 11)
    ((s.cell c).matrix.drained first n (bits (m.recw.getD 0 0) 16 6 + 1)) (seedAll m.seed)).2, ?_⟩
  unfold State.matrixDo
  simp only [hop, honly, need, if_true, ok_bind, drainSpan_readBy, hspan, hdest, hkind, Bool.false_eq_true, if_false, Cell.readBy_matrix]
  have hmade := State.makeTile_ok (s := s) (d := c) (m := m) halloc
  rw [hmade _ rfl, ok_bind]
  exact congrArg Except.ok (Prod.ext (State.filled_closed s rfl) rfl)

/-- MDRAIN to a tile of the cell fills a hidden tile with converted words (R237, R251). -/
theorem matrixWork_mdrain {r : Run} (hwork : (s.cell c).matrix.unworked = some r) (hcmd : r.cmd = m) (hruns : s.runs c = true)
    (hop : m.op = .mdrain) (honly : only (m.recw.getD 0 0) [(0, 8), (8, 8), (16, 6), (32, 8)] = true)
    (hspan : drainSpan (s.cell c) m.who.ctx m.recw = .ok (first, n, cls))
    (hdest : destChecks (s.cx c m.who.ctx).place.length (m.recw.getD 1 0) (m.recw.getD 2 0) cls = .ok float)
    (hkind : bit (m.recw.getD 1 0) 0 = false) (hmode : bits (m.recw.getD 1 0) 8 3 ≠ 4)
    (halloc : (s.cell c).heap.alloc (drainTile m n) = .ok (i, h)) :
    ∃ q, ((s.matrixWork c).cell c).matrix.runs = (s.cell c).matrix.withRun m.uid q ∧ q.cmd = m ∧ q.ready = true ∧ q.count = n ∧
      q.made = some (c, i, (h.tiles.getD i {}).gen) ∧
      q.poisoned = ((List.range n).any fun j => (s.cell c).matrix.marks.contains (first + j)) ∧
      ∃ g b, { ((s.matrixWork c).cell c).tile i with els := [], bad := [], unchecked := [] } =
        { drainTile m n with live := true, gen := g, blocks := b, els := [], bad := [], unchecked := [] } ∧
      ∀ a k, a < n → k < bits (m.recw.getD 0 0) 16 6 + 1 →
        (((s.matrixWork c).cell c).tile i).els.getD (a * (bits (m.recw.getD 0 0) 16 6 + 1) + k) 0 =
          word (drainEl float (bits (m.recw.getD 1 0) 4 4) (bits (m.recw.getD 1 0) 8 3) 0 (bit (m.recw.getD 1 0) 11)
            ((s.cell c).matrix.word48 (first + a) k)).1 := by
  subst hcmd
  obtain ⟨fl, hdo⟩ := matrixDo_mdrain (s := s) (c := c) hop honly hspan hdest hkind halloc
  rw [drainRows_map hmode] at hdo
  obtain ⟨g, b, htile⟩ := Heap.alloc_tile halloc
  have hwk := State.matrixWork_ok hwork hruns hdo
  rw [State.cell_modCell] at hwk
  rw [hwk]
  simp only [State.setRuns, State.cell_modCell]
  refine ⟨_, rfl, rfl, rfl, rfl, rfl, rfl, g, b, ?_, fun a k ha hk => ?_⟩
  · rw [Cell.tile_drainedTo]
    obtain ⟨hrest, -⟩ := Tile.setEls_spec (List.map (fun as => as.map fun a => word (drainEl float (bits (r.cmd.recw.getD 1 0) 4 4)
      (bits (r.cmd.recw.getD 1 0) 8 3) 0 (bit (r.cmd.recw.getD 1 0) 11) a).1)
      ((s.cell c).matrix.drained first n (bits (r.cmd.recw.getD 0 0) 16 6 + 1))).flatten (h.tiles.getD i {}) 0
    exact (congrArg (fun t : Tile => { t with els := [], bad := [], unchecked := [] }) hrest :).trans
      (congrArg (fun t : Tile => { t with els := [], bad := [], unchecked := [] }) htile)
  · rw [Cell.tile_drainedTo, (Tile.setEls_spec _ _ _).2, if_pos (Nat.zero_le _), Nat.sub_zero, List.getD_eq_getElem?_getD, Matrix.drained,
      List.map_map]
    have hel := flatMap_range_getElem? (fun a k => word (drainEl float (bits (r.cmd.recw.getD 1 0) 4 4) (bits (r.cmd.recw.getD 1 0) 8 3) 0
      (bit (r.cmd.recw.getD 1 0) 11) ((s.cell c).matrix.word48 (first + a) k)).1) ha hk
    rw [List.flatMap_def] at hel
    simp only [Function.comp_def, List.map_map]
    rw [hel]
    rfl

end

end Sys2Proof.Machine
end

section
/-! PROOFS. Rows sent and received, and commands that complete (R52, R235, R251, R252, R271). -/

namespace Sys2Proof.Machine

/-! ## Stream rows -/

/-- The row that a drain sends. -/
def drainRowOf (r : Run) (e : Nat × Bool × BitVec 32 × List Word) : Row :=
  { ctx := r.cmd.who.ctx, fmt := e.1, poison := e.2.1, tag := e.2.2.1, els := e.2.2.2 }

/-- Its packet. -/
def State.rowPacket (s : State) (c : Nat) (r : Run) (dest : Word) (e : Nat × Bool × BitVec 32 × List Word) : Packet :=
  { vn := 1
    src := c
    dst := (s.cx c r.cmd.who.ctx).place.getD (vcellOf dest) 0
    ctx := r.cmd.who.ctx
    counts := false
    chks := none :: elChks e.1 e.2.2.2
    poison := e.2.1
    body := .stream (bits dest 40 3) (drainRowOf r e) r.cmd.uid }

theorem State.sendRow_eq (s : State) (c : Nat) (r : Run) (dest : Word) {e : Nat × Bool × BitVec 32 × List Word}
    {rest : List (Nat × Bool × BitVec 32 × List Word)} (h : r.rows = e :: rest) :
    s.sendRow c r dest = (s.inject (s.rowPacket c r dest e), { r with rows := rest }) := by
  unfold State.sendRow
  rw [h]
  rfl

section
variable {s : State} {c : Nat} {r : Run} {e : Nat × Bool × BitVec 32 × List Word} {rest : List (Nat × Bool × BitVec 32 × List Word)}
  (hruns : s.runs c = true) (hr : (s.cell c).matrix.runs.find? s.maySend = some r) (hrows : r.rows = e :: rest)
include hruns hr hrows

theorem execDrainRowAccepted_sends : exec (.drainRowAccepted c) s = .next ((s.inject (s.rowPacket c r (r.cmd.recw.getD 2 0) e)).modCell c fun d =>
    { d with matrix := { d.matrix with runs := d.matrix.withRun r.cmd.uid { r with rows := rest } } }) := by
  change execDrainRowAccepted c s = _
  unfold execDrainRowAccepted
  simp only [hruns, hr, Bool.not_true, Bool.false_eq_true, if_false]
  rw [s.sendRow_eq c r (r.cmd.recw.getD 2 0) hrows]
  rfl

/-- The row leaves, and the run has one row fewer. -/
theorem drainRow_leaves : ∃ t, exec (.drainRowAccepted c) s = .next t ∧
    t.net = s.net ++ [s.sent (s.rowPacket c r (r.cmd.recw.getD 2 0) e)] ∧
    (t.cell c).matrix = { (s.cell c).matrix with runs := (s.cell c).matrix.withRun r.cmd.uid { r with rows := rest } } ∧
    ∀ z, z ≠ c → t.cell z = s.cell z := by
  refine ⟨_, execDrainRowAccepted_sends hruns hr hrows, rfl, ?_, fun z hz => ?_⟩
  · rw [State.cell_modCell]
    rfl
  · rw [State.cell_modCell_other _ _ _ _ hz]
    rfl

end

theorem State.packet?_find {s : State} {vn src dst ctx : Nat} {p : Packet} (h : s.packet? vn src dst ctx = some p) :
    s.net.find? (fun p => p.vn == vn && p.src == src && p.dst == dst && p.ctx == ctx) = some p := by
  unfold State.packet? at h
  exact (Option.filter_eq_some_iff.mp h).1

section
variable {s : State} {src c y : Nat} {p : Packet} {n u : Nat} {row : Row} (hp : s.packet? 1 src c y = some p)
  (hb : p.body = .stream n row u) (hd : (s.cell c).reducer.discards n row.tag = false)
include hp hb hd

/-- A port that has room takes the row into its buffer (R271). -/
theorem execStreamTokenArrival_fits (hf : ((s.cell c).port n).fits row = true) : exec (.streamTokenArrival src c y) s = .next
    (((s.takePacket 1 src c y).accepted p).modCell c fun d => { d with
      ports := d.ports.put n { (d.port n) with rows := (d.port n).rows ++ [row] } }) := by
  change execStreamTokenArrival src c y s = _
  simp only [execStreamTokenArrival, hp, hb, hd, hf, Bool.false_eq_true, if_false, if_true]

theorem execStreamTokenArrival_full (hf : ((s.cell c).port n).fits row = false) : exec (.streamTokenArrival src c y) s = .next s := by
  change execStreamTokenArrival src c y s = _
  simp only [execStreamTokenArrival, hp, hb, hd, hf, Bool.false_eq_true, if_false]

theorem streamToken_arrives : ∃ z, exec (.streamTokenArrival src c y) s = .next z ∧
    (((s.cell c).port n).fits row = true →
      (z.cell c).ports = (s.cell c).ports.put n { ((s.cell c).port n) with rows := ((s.cell c).port n).rows ++ [row] } ∧
      z.net.length + 1 = s.net.length) ∧
    (((s.cell c).port n).fits row = false → z = s) := by
  cases hf : ((s.cell c).port n).fits row with
  | false => exact ⟨s, execStreamTokenArrival_full hp hb hd hf, fun h => absurd h Bool.false_ne_true, fun _ => rfl⟩
  | true =>
    refine ⟨_, execStreamTokenArrival_fits hp hb hd hf, fun _ => ⟨?_, ?_⟩, fun h => absurd h.symm Bool.false_ne_true⟩
    · have hports : (((s.takePacket 1 src c y).accepted p).cell c).ports = (s.cell c).ports :=
        (congrArg Cell.ports ((got_accepted s 1 src c y p).cell c) :)
      rw [State.cell_modCell]
      dsimp only [Cell.port]
      rw [hports]
    · obtain ⟨hrest, -, -⟩ := State.accepted_spec (s.takePacket 1 src c y) p
      have hnet : ((s.takePacket 1 src c y).accepted p).net = (s.takePacket 1 src c y).net := (congrArg State.net hrest :)
      exact (congrArg (fun l : List Packet => l.length + 1) hnet).trans (length_eraseP_of_find? (State.packet?_find hp))

end

/-! ## What a command releases (R47, R50, R235) -/

/-- A change of a cell that looks at its heap and changes nothing else. -/
def HeapOnly (f : Cell → Cell) : Prop := ∀ c, f c = { c with heap := (f { heap := c.heap }).heap }

theorem HeapOnly.comp {f g : Cell → Cell} (hf : HeapOnly f) (hg : HeapOnly g) : HeapOnly fun c => g (f c) := fun c => by
  have h1 := hg (f c)
  have h2 := hg (f { heap := c.heap })
  rw [hf c] at h1
  rw [hf { heap := c.heap }] at h2
  dsimp only
  rw [hf c, h1, hf { heap := c.heap }, h2]

theorem heapOnly_foldl {α : Type} {f : Cell → α → Cell} (h : ∀ a, HeapOnly fun c => f c a) (l : List α) : HeapOnly fun c => l.foldl f c := by
  induction l with
  | nil => exact fun _ => rfl
  | cons a l ih => exact (h a).comp ih

theorem heapOnly_freeTile (i : Nat) : HeapOnly fun c => c.freeTile i := fun c => by
  have htile : Cell.tile { heap := c.heap } i = c.tile i := rfl
  unfold Cell.freeTile
  dsimp only
  rw [htile]
  split
  · rfl
  · rfl

theorem heapOnly_dropRef (i : Nat) : HeapOnly fun c => c.dropRef i := fun c => by
  have htile : Cell.tile { heap := c.heap } i = c.tile i := rfl
  unfold Cell.dropRef
  dsimp only
  rw [htile]
  split
  · exact heapOnly_freeTile i c
  · rfl

theorem heapOnly_landTile (i : Nat) (g : BitVec 8) : HeapOnly fun c => c.landTile i g := fun c => by
  have htile : Cell.tile { heap := c.heap } i = c.tile i := rfl
  unfold Cell.landTile
  dsimp only
  rw [htile]
  split
  · rfl
  · cases c.heap.ghosts.get? (i * 256 + g.toNat) with
    | none => rfl
    | some t =>
      dsimp only
      split
      · rfl
      · rfl

theorem heapOnly_released (l : List (Nat × BitVec 8 × Bool)) : HeapOnly fun c => (c.dropAll l).landAll l := by
  refine HeapOnly.comp (f := fun c => c.dropAll l) (g := fun c => c.landAll l) (heapOnly_foldl (fun n c => ?_) l)
    (heapOnly_foldl (f := fun (c : Cell) (n : Nat × BitVec 8) => c.landTile n.1 n.2) (fun n => heapOnly_landTile n.1 n.2) _)
  have htile : Cell.tile { heap := c.heap } n.1 = c.tile n.1 := rfl
  dsimp only
  rw [htile]
  split
  · exact heapOnly_dropRef n.1 c
  · rfl

/-- A cell whose engine has let a command go (R235). -/
def Cell.letGo (d : Cell) (rest : List Run) (l : List (Nat × BitVec 8 × Bool)) : Cell :=
  ({ d with matrix := { d.matrix with runs := rest } }.dropAll l).landAll l

theorem Cell.letGo_eq (d : Cell) (rest : List Run) (l : List (Nat × BitVec 8 × Bool)) : d.letGo rest l =
    { d with matrix := { d.matrix with runs := rest }, heap := ((d.dropAll l).landAll l).heap } := by
  have h := heapOnly_released l d
  have h' := heapOnly_released l { d with matrix := { d.matrix with runs := rest } }
  dsimp only at h h'
  rw [Cell.letGo, h', h]

end Sys2Proof.Machine
end

section
/-! PROOFS. A command of the matrix engine completes (R52, R235). -/

namespace Sys2Proof.Machine

/-! ## The reply's priority class (R52) -/

theorem bits_withPrio (w : Word) (p : Nat) {lo : Nat} (n : Nat) (hlo : 20 ≤ lo) : bits (withPrio w p) lo n = bits w lo n := by
  obtain ⟨j, rfl⟩ := Nat.exists_eq_add_of_le hlo
  have hw := w.isLt
  have hto : (withPrio w p).toNat = w.toNat / 2 ^ 20 * 2 ^ 20 + p % 4 * 2 ^ 18 + w.toNat % 2 ^ 18 := by
    rw [withPrio, word, BitVec.toNat_ofNat, Nat.mod_eq_of_lt (by omega)]
  have htop : (w.toNat / 2 ^ 20 * 2 ^ 20 + p % 4 * 2 ^ 18 + w.toNat % 2 ^ 18) / 2 ^ 20 = w.toNat / 2 ^ 20 := by omega
  unfold bits
  rw [hto, pow_add, ← Nat.div_div_eq_div_mul, htop, Nat.div_div_eq_div_mul]

/-! ## Slots written by the machine (R39) -/

/-- What the writing of a slot changes of a cell. -/
theorem State.writeSlot_keeps (s : State) (c k : Nat) (v : Word) : { s.writeSlot c k v with cells := s.cells } = s ∧
    { (s.writeSlot c k v).cell c with slots := (s.cell c).slots, recs := (s.cell c).recs, ready := (s.cell c).ready, ftoks := (s.cell c).ftoks } =
      s.cell c := by
  have hset : { (s.setSlot c k (some (.full v))).cell c with slots := (s.cell c).slots, ftoks := (s.cell c).ftoks } = s.cell c := by
    rw [State.setSlot, State.cell_modCell]
  unfold State.writeSlot
  split
  · dsimp only
    split
    · exact ⟨rfl, (congrArg (fun d : Cell => { d with recs := (s.cell c).recs, ready := (s.cell c).ready }) hset :)⟩
    · refine ⟨rfl, ?_⟩
      rw [State.pushReady, State.cell_modCell, State.cell_modCell]
      exact (congrArg (fun d : Cell => { d with recs := (s.cell c).recs, ready := (s.cell c).ready }) hset :)
  · exact ⟨rfl, (congrArg (fun d : Cell => { d with recs := (s.cell c).recs, ready := (s.cell c).ready }) hset :)⟩

/-! ## Completion -/

/-- A status word has been written and flags have been ORed (R52, R133). -/
def State.statusWritten (s : State) (c x : Nat) (fl : Fl) (k : Nat) (v : Word) : State := ((s.orFlags c x fl).writeSlot c k v).touch c k

/-- What that leaves of a state. -/
structure Settled (s : State) (c x : Nat) (fl : Fl) (k : Nat) (v : Word) (t : State) : Prop where
  rest : { t with cells := s.cells } = s
  matrix : (t.cell c).matrix = (s.cell c).matrix
  heap : (t.cell c).heap = (s.cell c).heap
  slots : (t.cell c).slots = (s.cell c).slots.put k (.full v)
  ctx : t.cx c x = { s.cx c x with ctl := { (s.cx c x).ctl with flags := (s.cx c x).ctl.flags ||| fl } }

theorem statusWritten_spec (s : State) (c x : Nat) (fl : Fl) (k : Nat) (v : Word) : Settled s c x fl k v (s.statusWritten c x fl k v) := by
  obtain ⟨hrest, hcell, -, hcx, -⟩ := State.orFlags_spec s c x fl
  unfold State.statusWritten
  generalize s.orFlags c x fl = u at *
  obtain ⟨hurest, hucell⟩ := State.writeSlot_keeps u c k v
  obtain ⟨-, huctxs, huslots⟩ := State.writeSlot_spec u c k v
  generalize u.writeSlot c k v = t at *
  have htouch : (t.touch c k).cell c = { t.cell c with touched := ((t.touch c k).cell c).touched } := by
    rw [State.touch, State.cell_modCell]
  have hslots : (u.cell c).slots = (s.cell c).slots := (congrArg Cell.slots hcell :)
  refine ⟨?_, ?_, ?_, ?_, ?_⟩
  · exact (congrArg (fun z : State => { z with cells := s.cells }) hurest :).trans hrest
  · rw [htouch]
    exact (congrArg Cell.matrix hucell :).trans (congrArg Cell.matrix hcell :)
  · rw [htouch]
    exact (congrArg Cell.heap hucell :).trans (congrArg Cell.heap hcell :)
  · rw [htouch, ← hslots]
    exact huslots
  · rw [← hcx]
    unfold State.cx Cell.cx
    rw [htouch]
    exact congrArg (fun l : Tbl Ctx => l.getD x {}) huctxs

section
variable {s : State} {c : Nat} {r : Run} {rest : List Run} {f : Frame} (hruns : s.runs c = true) (hlist : (s.cell c).matrix.runs = r :: rest)
  (hready : r.ready = true) (hdrain : s.draining r = false) (hc : r.cmd.who.cell = c) (hop : r.op = none) (hmade : r.made = none)
  (hfailed : r.failed = none) (hframe : (s.cx c r.cmd.who.ctx).frames.get? r.cmd.who.base = some f)
  (hslot : r.cmd.statusSlot < r.cmd.who.base + clsSlots f.cls)

/-- The cell of the engine with the command let go. -/
def State.letHead (s : State) (c : Nat) (r : Run) (rest : List Run) : State := s.modCell c fun d => d.letGo rest r.cmd.named

/-- The command's flags, with POISON where it is poisoned. -/
def Run.allFlags (r : Run) : Fl := r.flags ||| flagIf r.poisoned POISON

/-- The state once the command's flags and status word stand. -/
def State.headDone (s : State) (c : Nat) (r : Run) (rest : List Run) : State :=
  (s.letHead c r rest).statusWritten c r.cmd.who.ctx r.allFlags r.cmd.statusSlot r.status

theorem State.letHead_eq (s : State) : s.letHead c r rest = s.modCell c fun d =>
    { d with matrix := { d.matrix with runs := rest }, heap := ((d.dropAll r.cmd.named).landAll r.cmd.named).heap } :=
  State.modCell_congr s c (Cell.letGo_eq ..)

include hframe in
theorem State.letHead_frame : ((s.letHead c r rest).cx c r.cmd.who.ctx).frames.get? r.cmd.who.base = some f := by
  rw [State.letHead_eq, State.cx_modCell]
  exact hframe

include hruns hlist hready hdrain in
theorem execCommandComplete_matrix : exec (.commandComplete c .matrix) s =
    .next ((s.modCell c fun d => { d with matrix := { d.matrix with runs := rest } }).completeRun r) := by
  change execCommandComplete c .matrix s = _
  unfold execCommandComplete State.completeHead
  simp only [hruns, hlist, hready, hdrain, Bool.not_true, Bool.not_false, Bool.and_self, Bool.false_eq_true, if_false, if_true]

include hop in
theorem State.letGo_head : (((s.modCell c fun d => { d with matrix := { d.matrix with runs := rest } }).dropOpOf r).modCell c fun d =>
    (d.dropAll r.cmd.named).landAll r.cmd.named) = s.letHead c r rest := by
  rw [State.dropOpOf]
  simp only [hop]
  rw [State.modCell_modCell]
  rfl

include hc hframe hslot in
theorem State.headDone_eq : ((s.letHead c r rest).orFlags c r.cmd.who.ctx r.allFlags).writeFrameSlot r.cmd.who r.cmd.statusSlot r.status =
    s.headDone c r rest := by
  obtain ⟨-, -, -, hcx, -⟩ := State.orFlags_spec (s.letHead c r rest) c r.cmd.who.ctx r.allFlags
  have hlive : (((s.letHead c r rest).orFlags c r.cmd.who.ctx r.allFlags).cx r.cmd.who.cell r.cmd.who.ctx).frames.get? r.cmd.who.base = some f := by
    rw [hc, hcx]
    exact State.letHead_frame hframe
  rw [State.writeFrameSlot_live _ _ _ _ f hlive hslot, hc]
  rfl

include hc hop hmade hfailed hframe hslot

theorem State.completeRun_quiet (hcont : r.cmd.cont = none) :
    (s.modCell c fun d => { d with matrix := { d.matrix with runs := rest } }).completeRun r =
      (s.headDone c r rest).lowerOut c r.cmd.who.ctx 1 := by
  rw [← State.headDone_eq hc hframe hslot, ← State.letGo_head hop]
  unfold State.completeRun State.letGo State.showMade Run.allFlags
  simp only [hfailed, hmade, hc, hcont, Option.isSome_none, Bool.false_eq_true, if_false]

theorem State.completeRun_replies {k : Word} (hcont : r.cmd.cont = some k) :
    (s.modCell c fun d => { d with matrix := { d.matrix with runs := rest } }).completeRun r =
      (s.headDone c r rest).sendAs c { cont := r.cmd.who.replyCont k, val := r.value, tag := r.cmd.who.tag } (some c) := by
  rw [← State.headDone_eq hc hframe hslot, ← State.letGo_head hop]
  unfold State.completeRun State.letGo State.showMade Run.allFlags
  simp only [hfailed, hmade, hc, hcont, Option.isSome_none, Bool.false_eq_true, if_false]

end

/-- What a completed command leaves on its cell and in its context, but for the outstanding operations. -/
structure HeadDone (s : State) (c : Nat) (r : Run) (rest : List Run) (t : State) : Prop where
  matrix : (t.cell c).matrix = { (s.cell c).matrix with runs := rest }
  slots : (t.cell c).slots = (s.cell c).slots.put r.cmd.statusSlot (.full r.status)
  heap : (t.cell c).heap = (((s.cell c).dropAll r.cmd.named).landAll r.cmd.named).heap
  flags : (t.cx c r.cmd.who.ctx).ctl.flags = (s.cx c r.cmd.who.ctx).ctl.flags ||| r.flags ||| flagIf r.poisoned POISON

theorem headDone_spec (s : State) (c : Nat) (r : Run) (rest : List Run) : HeadDone s c r rest (s.headDone c r rest) ∧
    { s.headDone c r rest with cells := s.cells } = s ∧
    ((s.headDone c r rest).cx c r.cmd.who.ctx).outstanding = (s.cx c r.cmd.who.ctx).outstanding ∧
    ((s.headDone c r rest).cx c r.cmd.who.ctx).place = (s.cx c r.cmd.who.ctx).place := by
  have h := statusWritten_spec (s.letHead c r rest) c r.cmd.who.ctx r.allFlags r.cmd.statusSlot r.status
  have hcell : (s.letHead c r rest).cell c = (s.cell c).letGo rest r.cmd.named := State.cell_modCell ..
  rw [Cell.letGo_eq] at hcell
  have hcx : (s.letHead c r rest).cx c r.cmd.who.ctx = s.cx c r.cmd.who.ctx := by rw [State.letHead_eq, State.cx_modCell]; rfl
  have hrest := h.rest
  have hctx := h.ctx
  rw [hcx] at hctx
  refine ⟨⟨?_, ?_, ?_, ?_⟩, (congrArg (fun z : State => { z with cells := s.cells }) hrest :), ?_, ?_⟩
  · rw [State.headDone, h.matrix, hcell]
  · rw [State.headDone, h.slots, hcell]
  · rw [State.headDone, h.heap, hcell]
  · rw [State.headDone, hctx, BitVec.or_assoc]
    rfl
  · rw [State.headDone, hctx]
  · rw [State.headDone, hctx]

/-- A count raised or lowered changes nothing else of the cell. -/
theorem HeadDone.modCx {s : State} {c : Nat} {r : Run} {rest : List Run} {t : State} (h : HeadDone s c r rest t) (y : Nat) {g : Ctx → Ctx}
    (hg : ∀ k, (g k).ctl = k.ctl) : HeadDone s c r rest (t.modCx c y g) := by
  have hcell : (t.modCx c y g).cell c = (t.cell c).modCx y g := State.cell_modCell ..
  refine ⟨?_, ?_, ?_, ?_⟩
  · rw [hcell]; exact h.matrix
  · rw [hcell]; exact h.slots
  · rw [hcell]; exact h.heap
  · by_cases hy : r.cmd.who.ctx = y
    · subst hy
      rw [State.cx_modCx, hg]
      exact h.flags
    · rw [State.cx_modCx_other _ _ _ _ _ _ (fun hcy => hy hcy.2)]
      exact h.flags

/-- The packet of a command's reply token. -/
def State.replyPacket (s : State) (c : Nat) (r : Run) (w : Word) : Packet :=
  { vn := 0
    src := c
    dst := (s.cx c r.cmd.who.ctx).place.getD (vcellOf w) 0
    ctx := r.cmd.who.ctx
    also := some c
    body := .token { cont := withPrio w r.cmd.who.prio, val := r.value, tag := r.cmd.who.tag } }

theorem Run.status_eq {r : Run} (h : r.failed = none) :
    r.status = BitVec.ofNat 64 (r.count % 2 ^ 48 + if r.poisoned then 2 ^ 63 else 0) := by
  rw [Run.status, h]
  rfl

section
variable {s : State} {c : Nat} {r : Run} {rest : List Run} {f : Frame} (hruns : s.runs c = true) (hlist : (s.cell c).matrix.runs = r :: rest)
  (hready : r.ready = true) (hdrain : s.draining r = false) (hc : r.cmd.who.cell = c) (hop : r.op = none) (hmade : r.made = none)
  (hfailed : r.failed = none) (hframe : (s.cx c r.cmd.who.ctx).frames.get? r.cmd.who.base = some f)
  (hslot : r.cmd.statusSlot < r.cmd.who.base + clsSlots f.cls)
include hruns hlist hready hdrain hc hop hmade hfailed hframe hslot

/-- A command without a reply. -/
theorem commandComplete_quiet (hcont : r.cmd.cont = none) : ∃ t, exec (.commandComplete c .matrix) s = .next t ∧ HeadDone s c r rest t ∧
    t.net = s.net ∧ (t.cx c r.cmd.who.ctx).outstanding = (s.cx c r.cmd.who.ctx).outstanding - 1 := by
  obtain ⟨h, hrest, hout, -⟩ := headDone_spec s c r rest
  refine ⟨(s.headDone c r rest).lowerOut c r.cmd.who.ctx 1, ?_, ?_, (congrArg State.net hrest :), ?_⟩
  · rw [execCommandComplete_matrix hruns hlist hready hdrain, State.completeRun_quiet hc hop hmade hfailed hframe hslot hcont]
  · exact h.modCx _ (g := fun k => { k with outstanding := k.outstanding - 1 }) fun _ => rfl
  · rw [State.cx_lowerOut, hout]

/-- A command with a reply: its token leaves in the priority class of the issuing firing (R52). -/
theorem commandComplete_replies {w : Word} (hcont : r.cmd.cont = some w) : ∃ t, exec (.commandComplete c .matrix) s = .next t ∧
    HeadDone s c r rest t ∧
    (ctxOf w = r.cmd.who.ctx → isReturn w = false → isReturn (withPrio w r.cmd.who.prio) = false →
      (t.cx c r.cmd.who.ctx).outstanding = (s.cx c r.cmd.who.ctx).outstanding + 1 ∧ t.net = s.net ++ [s.sent (s.replyPacket c r w)]) := by
  obtain ⟨h, hrest, hout, hplace⟩ := headDone_spec s c r rest
  refine ⟨(s.headDone c r rest).sendAs c { cont := r.cmd.who.replyCont w, val := r.value, tag := r.cmd.who.tag } (some c), ?_, ?_,
    fun hw hret hret' => ?_⟩
  · rw [execCommandComplete_matrix hruns hlist hready hdrain, State.completeRun_replies hc hop hmade hfailed hframe hslot hcont]
  · obtain ⟨p, hp, -⟩ := State.sendAs_spec (s.headDone c r rest) c { cont := r.cmd.who.replyCont w, val := r.value, tag := r.cmd.who.tag } (some c)
    have hd : HeadDone s c r rest ((s.headDone c r rest).raiseOut c (ctxOf (r.cmd.who.replyCont w)) 1) :=
      h.modCx _ (g := fun k => { k with outstanding := k.outstanding + 1 }) fun _ => rfl
    rw [hp]
    exact ⟨hd.matrix, hd.slots, hd.heap, hd.flags⟩
  · have hreply : r.cmd.who.replyCont w = withPrio w r.cmd.who.prio := by rw [Issuer.replyCont, hret, if_neg Bool.false_ne_true]
    have hctx : ctxOf (withPrio w r.cmd.who.prio) = r.cmd.who.ctx := (bits_withPrio w _ 3 (by decide)).trans hw
    have hvcell : vcellOf (withPrio w r.cmd.who.prio) = vcellOf w := bits_withPrio w _ 11 (by decide)
    obtain ⟨u, hu⟩ : ∃ u, u = (s.headDone c r rest).raiseOut c r.cmd.who.ctx 1 := ⟨_, rfl⟩
    have hcx : u.cx c r.cmd.who.ctx = { (s.headDone c r rest).cx c r.cmd.who.ctx with outstanding := (s.cx c r.cmd.who.ctx).outstanding + 1 } := by
      rw [hu, State.cx_raiseOut, hout]
    have hurest : { u with cells := s.cells } = s := by rw [hu]; exact hrest
    have hsend : (s.headDone c r rest).sendAs c { cont := r.cmd.who.replyCont w, val := r.value, tag := r.cmd.who.tag } (some c) =
        u.inject (s.replyPacket c r w) := by
      unfold State.sendAs
      rw [hreply]
      simp only [hret', hctx, hvcell, Bool.false_eq_true, if_false]
      rw [← hu, hcx]
      dsimp only
      rw [hplace]
      rfl
    rw [hsend]
    refine ⟨(congrArg Ctx.outstanding hcx :), ?_⟩
    change u.net ++ [u.sent (s.replyPacket c r w)] = _
    rw [State.sent_congr (s := s) (t := u) (congrArg State.clock hurest :) (congrArg State.gated hurest :) (congrArg State.parts hurest :)]
    exact congrArg (· ++ _) (congrArg State.net hurest :)

end

end Sys2Proof.Machine
end

section
/-! PROOFS. The matrix engine (R51, R52, R111, R112, R114, R121, R127, R235, R245 to R247, R251). -/

namespace Sys2Proof.Machine

/-- Settles O53: each kind of step by the lemma about it, the arithmetic by one rounding of exact values. -/
theorem matrixEngineRuns : Obligations.MatrixEngineRuns := by
  unfold Obligations.MatrixEngineRuns
  intro s c
  refine ⟨?_, ?_, ?_, ?_, ?_, ?_, ?_, ?_, ?_, ?_, ?_, ?_, ?_⟩
  · intro m q hm hq hload hrows hwork hdrain hruns
    exact execMatrixTake_pops hload hrows hwork hdrain hruns (Matrix.next_first hm hq)
  · intro m q hm hq hload hrows hwork hdrain hruns
    exact execMatrixTake_pops hload hrows hwork hdrain hruns (Matrix.next_second hm hq)
  · intro h
    exact execMatrixTake_idle h
  · intro m hm hruns
    exact ⟨execMwldBankFree_busy hruns hm, execMwldBankFree_free hruns hm⟩
  · intro m hm hruns
    exact ⟨execAccumulatorHazardEnd_busy hruns hm, execAccumulatorHazardEnd_free hruns hm⟩
  · rintro r hwork hruns - (⟨hop, b, hb⟩ | ⟨hop, p, hp⟩ | ⟨hop, q, hq⟩)
    · exact ran_mwld hwork hruns hop hb
    · exact ran_macc hwork hruns hop hp
    · exact ran_mrun hwork hruns hop hq
  · intro m first n cls float i h r' hwork hcmd hruns hop _ honly hspan hdest hkind hmode fmt cols halloc
    obtain ⟨r, hr, hrcmd, hready, hcount, hmade, hpoison, g, b, htile, hels⟩ :=
      matrixWork_mdrain hwork hcmd hruns hop honly hspan hdest hkind hmode halloc
    exact ⟨r, hr, hrcmd, hready, hcount, hmade, hpoison, (congrArg Tile.hidden htile :), (congrArg Tile.live htile :),
      (congrArg Tile.rows htile :), (congrArg Tile.cols htile :), (congrArg Tile.fmt htile :), hels⟩
  · intro r e rest hruns hr hrows
    exact drainRow_leaves hruns hr hrows
  · intro src y p n row u hp hb hd
    exact streamToken_arrives hp hb hd
  · intro r rest v f hruns hlist hready hdrain hc hop hmade hfailed hframe hslot hv
    rw [← Run.status_eq hfailed] at hv
    subst hv
    cases hcont : r.cmd.cont with
    | none =>
      obtain ⟨t, ht, h, hnet, hout⟩ := commandComplete_quiet hruns hlist hready hdrain hc hop hmade hfailed hframe hslot hcont
      exact ⟨t, ht, h.matrix, h.slots, h.heap, h.flags, fun _ => ⟨hnet, hout⟩, fun _ h => absurd h (Option.some_ne_none _).symm⟩
    | some w =>
      obtain ⟨t, ht, h, hsent⟩ := commandComplete_replies hruns hlist hready hdrain hc hop hmade hfailed hframe hslot hcont
      exact ⟨t, ht, h.matrix, h.slots, h.heap, h.flags, fun h => absurd h (Option.some_ne_none _), fun _ hw => Option.some.inj hw ▸ hsent⟩
  · intro q a m n
    refine ⟨fun f sa hq hf hel hscale hsa hw hsw => ⟨q.floatSum f a m n, rfl, q.cell_float a m n hq hf, fun k _ =>
      (Mrun.floatSum_plus48 hf hel hscale hsa hw hsw a k).2⟩, fun hq => ⟨q.intSum a m n, ?_, q.cell_int a m n hq, fun k _ => ?_⟩⟩
    · exact congrArg (·, (0 : Fl)) (sext_toNat a)
    · rw [q.intSum_succ, sat48_eq, Mrun.term, eb_sext, eb_sext]
  · intro e
    obtain ⟨h9, hint⟩ := preload_spec e
    refine ⟨h9, hint, fun b f hb he => ?_⟩
    obtain ⟨hb2, hf, hpre⟩ := preloads_of hb
    refine ⟨_, preload_float hb2 hf e, ?_⟩
    have hsee := Fmt.dec_sees hpre.tosound he
    have hnum := fun z n d => preload_num hpre he (z := z) (n := n) (d := d)
    cases hv : Ref.val f e with
    | nan z =>
      rw [hv] at hsee
      rw [toFloat_of_nan 0 0 false hsee]
      rfl
    | inf z =>
      rw [hv] at hsee
      rw [toFloat_of_inf 0 0 false hsee]
      rfl
    | num z n d =>
      obtain ⟨y, hy, hlt, hunits, hfin, hneg⟩ := hnum z n d hv
      have hto : (BitVec.ofNat 48 y).toNat = y := by rw [BitVec.toNat_ofNat, Nat.mod_eq_of_lt hlt]
      rw [hy]
      dsimp only
      rw [hto]
      exact ⟨hunits, hfin, hneg, rfl⟩
  · intro m x nan a hm hx
    refine ⟨rfl, fun b _ => drainEl_int b m x nan a, fun b f hb => ?_⟩
    obtain ⟨hb9, hf, hnan⟩ := drains hb
    rw [drainEl_float hb9 hf]
    cases hv : Ref.val a48 a.toNat with
    | nan z => exact drain_nan hnan hv m x nan
    | inf z => exact drain_inf hnan hv m x nan
    | num z n d =>
      have hsee := Fmt.dec_sees sound_a48 a.isLt
      rw [hv] at hsee
      exact drain_num (Fmt.sound_of_code hf).tofits hnan hsee m hx nan

end Sys2Proof.Machine
end
